-- ==== Sys2Proof/Word.lean ====
section
/-! DEFINITION. The words of the model: bytes, 32-bit words, complex samples, and the index types of the six levels (Table 0.2). -/
namespace Sys2Proof

/-- One byte of an image, a frame or a memory. -/
abbrev Byte := BitVec 8

/-- A 32-bit word: a Tor register, an observation register, a codebook weight. -/
abbrev Word := BitVec 32

/-- A run of bytes, lowest address first. -/
abbrev Bytes := List Byte

/-- Paths p0 to p63 (Table 0.2). -/
abbrev PathId := Fin 64
/-- Quads q0 to q15. -/
abbrev QuadId := Fin 16
/-- Flanks f0 to f3. -/
abbrev FlankId := Fin 4
/-- Port A is 0 and port B is 1 (R280). -/
abbrev PortId := Fin 2
/-- Serial lanes 0 to 7 (R280). -/
abbrev LaneId := Fin 8
/-- Tor engines Tor0 to Tor15. -/
abbrev EngId := Fin 16
/-- DMA channels 0 to 31 (R363). -/
abbrev ChId := Fin 32
/-- Capture set-ups 0 to 31 (Table 2.4). -/
abbrev SetupId := Fin 32

/-- A complex sample or weight, in-phase and quadrature. -/
structure IQ where
  i : Int
  q : Int
  deriving DecidableEq, Repr, Inhabited

end Sys2Proof
end

