-- ==== Sys2Proof/Syntax.lean ====
section
/-! DEFINITION. The commands of the block: one constructor for each row of spec/opcode_table.json, with what the row needs from
outside (the time passed since the preceding command, a message, a reading). Names of fields are the spec's. -/
namespace Sys2Proof

/-- What the SFDP tables of the NVM advertise (R58): the modes and the density, the dummy cycles of a read and of a status read in
the faster modes, and the commands of the sequence that changes to 8D-8D-8D mode, after its write enable. -/
structure Sfdp where
  octal : Bool
  quad : Bool
  density : Nat
  quadDummy : Nat := 0
  octalDummy : Nat := 0
  statusDummy : Nat := 0
  enter8d : List Bytes := []
  deriving DecidableEq, Repr

/-- How the burn of the OTP key hash goes, where an image asks for one (R48, step 10 of Table 2.10): it is made; it fails, with or
without some bit programmed; or power is lost during it. -/
inductive Burn where
  | done
  | failed (partly : Bool)
  | powerLost
  deriving DecidableEq, Repr

/-- What the FEM bus returned for one FEM: its identity page and both life copies, `none` where no attempt was answered (R311). -/
structure FemRead where
  identity : Option Bytes
  lifeA : Option Bytes
  lifeB : Option Bytes
  deriving DecidableEq, Repr

/-- What the ADC of one path samples in the window that a tick opens, 6 samples a cc: the 12-bit code and the over-range flag of each
(R75, R89); samples that are not listed are 0 without a flag. -/
structure RxWin where
  path : PathId
  adc : List (Int × Bool)
  deriving DecidableEq, Repr

/-- An entry of a predistorter bank whose stored bytes no longer agree with their parity (R150): the bank, the entry, and the bits of
the stored word that have changed. -/
structure DpdUpset where
  path : PathId
  bank : Bool
  table : Fin 24
  entry : Fin 256
  flips : Word
  deriving DecidableEq, Repr

/-- What the analogue side brings to a tick: the samples of the window that it opens, and for the window that it closes the sensor
readings in 0.1 °C (`none`: no valid reading, R219) and the errors met. -/
structure WindowIn where
  rx : List RxWin
  sensors : List (Fin 32 × Option Int)
  /-- bank entries that have lost their parity (R150) -/
  bankUpsets : List DpdUpset
  /-- bits that have failed in a 64-bit word of a SECDED memory: the word, and whether two bits of it failed (R355, R356) -/
  upsets : List (Nat × Bool)
  /-- parity errors met in the downlink packet buffer: flow, target tick, and the PRB or block that holds the byte (R204) -/
  bufParity : List (Nat × Nat × Nat)
  /-- parity errors met in the uplink egress and forwarding FIFOs (R361): the port, the number of the frame among those that have left by
  it, the octet, and the bits of it that have changed -/
  egressParity : List (PortId × Nat × Nat × Byte)
  /-- what the ADC of an observation receiver samples in the window that the tick opens (R152) -/
  obs : List (QuadId × List (Int × Bool)) := []
  deriving DecidableEq, Repr

/-- An Ethernet frame as the MAC sees it (R180). -/
structure RxFrame where
  /-- from destination address to frame check sequence -/
  octets : Bytes
  /-- it touches a block that the FEC decoder has corrupted, and so ends with an error control block (R284) -/
  errorBlock : Bool
  /-- parity errors met in the port's receive FIFO (R361) -/
  fifoParity : Nat
  deriving DecidableEq, Repr

/-- Everything of a type 0 or 2 message but its record bodies: the frame's addresses, the eCPRI common header (Table 9.1),
PC_ID and SEQ_ID, the Thaod section header (Table 9.5) and the TYPE, LENGTH and, for a SECTION, COUNT of every record. -/
structure MsgHdr where
  port : PortId
  src : Nat
  /-- `none`: untagged; else the tag control information -/
  vlan : Option Nat
  revision : Nat
  reserved : Nat
  concat : Bool
  msgType : Nat
  /-- payload size of the common header -/
  size : Nat
  /-- bytes between the common header and the frame check sequence -/
  avail : Nat
  pcId : Nat
  seq : Nat
  /-- byte 1 of SEQ_ID -/
  seqE : Nat
  flowId : Nat
  epoch : Nat
  flags : Nat
  records : Nat
  target32 : Nat
  /-- TYPE, LENGTH and COUNT (0 where the record has none) of each record -/
  layout : List (Nat × Nat × Nat)
  deriving DecidableEq, Repr

/-- SECTION record (Table 9.7). -/
structure SectionRec where
  start : Nat
  count : Nat
  beam : Nat
  payload : Bytes
  deriving DecidableEq, Repr

/-- WEIGHT_LOAD record (Table 9.9): 64 weights, I in bits 15..0 and Q in bits 31..16. -/
structure WeightRec where
  beam : Nat
  weight : List Word
  deriving DecidableEq, Repr

/-- SEARCH_OCCASION record (Table 9.10). -/
structure SearchRec where
  occTag : Nat
  reportTick : Nat
  maxDelay : Nat
  families : Nat
  startPrb : Nat
  beamsMin : Nat
  template : Nat
  carrier : Nat
  row0 : Nat
  rows : Nat
  col0 : Nat
  cols : Nat
  cohReq : Nat
  cohMin : Nat
  noncohReq : Nat
  noncohMin : Nat
  freqHyp : Nat
  deriving DecidableEq, Repr

/-- A word that is met with an error in the Cairn work area (R178, R356): its address, the place in the occasion's list of cells of a value
that it holds, whether the error can be corrected, and, where the word belongs to a path's buffer of the group, which path's: it holds one
coherent sum then, whose place counts families, hypotheses and lags in order. -/
structure WorkUe where
  address : Nat
  cell : Nat
  corrected : Bool := false
  buffer : Option PathId := none
  deriving DecidableEq, Repr

/-- Remote memory access request (R208). -/
structure Rma where
  port : PortId
  src : Nat
  vlan : Option Nat
  id : Nat
  rw : Nat
  element : Nat
  address : Nat
  length : Nat
  deriving DecidableEq, Repr

/-- What R262 and R272 judge a PTP frame by. -/
structure PtpHdr where
  port : PortId
  /-- lane that carries the frame's start block (R283) -/
  lane : LaneId
  tagged : Bool
  /-- destination address -/
  dst : Nat
  version : Nat
  sdoId : Nat
  domain : Nat
  seq : Nat
  /-- clockIdentity and port number of the sender -/
  source : Nat
  /-- correctionField in ns × 2^16 -/
  correction : Int
  /-- cc from its stamp at the ingress PCS to its departure at the egress PCS, when the transparent clock passes it on (R273) -/
  residence : Nat
  deriving DecidableEq, Repr

/-- The data of an Announce that the comparison of Table 12.2 reads. -/
structure AnnounceData where
  clockClass : Nat
  accuracy : Nat
  variance : Nat
  priority2 : Nat
  grandmaster : Nat
  stepsRemoved : Nat
  utcOffset : Int
  /-- Announce interval in cc -/
  interval : Nat
  deriving DecidableEq, Repr

/-- What the eye monitor and the adaptation of one lane show at the end of a 1 ms interval (R293, R295). -/
structure EyeMeas where
  ew : Nat
  eh : Nat
  ctle : Nat
  taps : List Int
  deriving DecidableEq, Repr

/-- One housekeeping conversion (R324). -/
structure HkCode where
  code : Nat
  ovr : Bool
  deriving DecidableEq, Repr

/-- How a life page write ended (R314). -/
inductive LifeResult where
  | ok | idLost | failed
  deriving DecidableEq, Repr

/-- A calibration collection quantum: of the receive side, whose samples are those of the path ADCs, or of the transmit side, with what
the ADCs of the observation receivers sample from the window's tick on (R235, R238). -/
inductive CalMeas where
  | rx
  | tx (obs : List (QuadId × List (Int × Bool)))
  deriving DecidableEq, Repr

/-- The commands: one constructor for each row of the table of operations and events, in the table's order. `dt` is the
number of cc since the preceding command. -/
inductive Instr where
  | poresetNLow (dt : Nat)
  | poresetNHigh (dt : Nat) (railsOk refclk : Bool)
  | supplySupervisorTrip (dt : Nat)
  | supplyBackInRange (dt : Nat) (refclk : Bool)
  | s1Exit (dt : Nat) (romFail : Option (Fin 2)) (refKHz : Option Nat) (sfdp : Option Sfdp)
  | refclkRemeasure (dt : Nat) (refKHz : Option Nat) (sfdp : Option Sfdp)
  | imageReadDone (dt : Nat) (nvm : Bytes) (burn : Burn)
  | imgReadRetry (dt : Nat) (nvm : Bytes) (burn : Burn)
  | pllLock (dt : Nat)
  | pllLockTimeout (dt : Nat) (failed : List (Fin 4))
  | calRecordRead (dt : Nat) (record : Bytes)
  | femDiscoveryDone (dt : Nat) (q : QuadId) (fems : List FemRead)
  | laneNoLinkTimeout (dt : Nat)
  | ptpNoMasterTimeout (dt : Nat)
  | timeStep
  | slotEntryAnnounce (dt : Nat)
  | dpdNoConverge (dt : Nat)
  | tick (w : WindowIn)
  | quantumAbandon (t : EngId)
  | dpdStale (n : PathId)
  | trlQuadStale (q : QuadId)
  | calCollectLimit (tx : Bool)
  | frameRx (dt : Nat) (p : PortId) (f : RxFrame)
  | dlSection (dt : Nat) (h : MsgHdr) (idx : Nat) (r : SectionRec)
  | spurSectionHeaders (dt : Nat) (h : MsgHdr) (r : SectionRec) (rest : Nat)
  | spurFcsBad (dt : Nat) (flow seq target : Nat)
  | spurTrunc (dt : Nat) (flow seq target received : Nat)
  | ulSectionRequest (dt : Nat) (h : MsgHdr) (idx : Nat) (r : SectionRec)
  | ulSectionSend (dt : Nat) (flow target start : Nat)
  | weightLoad (dt : Nat) (h : MsgHdr) (idx : Nat) (r : WeightRec)
  | searchOccasion (dt : Nat) (h : MsgHdr) (idx : Nat) (r : SearchRec)
  | cairnGroupEnd (dt : Nat) (occ : Nat) (ue : List WorkUe)
  | cairnReportSend (dt : Nat) (occ : Nat) (ue : List WorkUe)
  | modeSelect (dt : Nat) (h : MsgHdr) (idx : Nat) (slot : Nat)
  | calibrate (dt : Nat) (h : MsgHdr) (idx : Nat) (target policy runTag : Nat)
  | calAbort (dt : Nat) (h : MsgHdr) (idx : Nat) (runTag : Nat)
  | captureArm (dt : Nat) (h : MsgHdr) (idx : Nat) (setup : Nat)
  | captureDisarm (dt : Nat) (h : MsgHdr) (idx : Nat) (setup : Nat)
  | pathRetire (dt : Nat) (h : MsgHdr) (idx : Nat) (path : Nat)
  | pathRestore (dt : Nat) (h : MsgHdr) (idx : Nat) (path : Nat)
  | budgetShare (dt : Nat) (h : MsgHdr) (idx : Nat) (share : List Nat)
  | rmaRead (dt : Nat) (r : Rma)
  | rmaWrite (dt : Nat) (r : Rma)
  | owdRequest (dt : Nat) (p : PortId) (l : LaneId) (src id action : Nat)
  | owdFollowUp (dt : Nat) (p : PortId) (id : Nat)
  | owdRemoteRequest (dt : Nat) (p : PortId) (id : Nat)
  | remoteReset (dt : Nat) (p : PortId) (dst src : Nat) (vlan : Option Nat) (id op : Nat)
  | eventIndicationRx (dt : Nat) (p : PortId)
  | unsupportedMessageType (dt : Nat) (h : MsgHdr)
  | ptpAnnounce (dt : Nat) (m : PtpHdr) (a : AnnounceData)
  | ptpSync (dt : Nat) (m : PtpHdr) (twoStep : Bool) (t1 : Int) (interval : Nat)
  | ptpFollowUp (dt : Nat) (m : PtpHdr) (t1 : Int)
  | ptpDelayResp (dt : Nat) (m : PtpHdr) (t4 : Int) (requester : Nat) (interval : Nat)
  | ptpDelayReqRx (dt : Nat) (m : PtpHdr)
  | delayReqSend (dt : Nat)
  | masterLoss (dt : Nat)
  | laneSignalDetect (dt : Nat) (l : LaneId)
  | laneCdrLock (dt : Nat) (l : LaneId)
  | laneCoarseDone (dt : Nat) (l : LaneId) (m : EyeMeas)
  | laneMarkerFound (dt : Nat) (l : LaneId) (number skew : Nat)
  | lanePolarityTimeout (dt : Nat) (l : LaneId)
  | laneLinkUp (dt : Nat) (p : PortId)
  | laneLinkDown (dt : Nat) (p : PortId) (cause : Nat) (lost : List LaneId)
  | linkDownRestart (dt : Nat) (p : PortId)
  | laneEyeInterval (dt : Nat) (l : LaneId) (m : EyeMeas)
  | laneFreezeEnd (dt : Nat) (l : LaneId)
  | fecUncorrectable (dt : Nat) (p : PortId)
  | fecIntervalEnd (dt : Nat) (p : PortId) (corrected : Nat) (symbols : List (LaneId × Nat))
  | fecDegradedCease (dt : Nat) (p : PortId)
  | remoteFaultRx (dt : Nat) (p : PortId) (on : Bool)
  | idleDelete (dt : Nat) (p : PortId) (fill : Nat)
  | idleInsert (dt : Nat) (p : PortId) (fill : Nat)
  | elasticError (dt : Nat) (p : PortId) (full : Bool)
  | thermalTrip (dt : Nat) (sensor : Fin 32) (temp : Int)
  | alarmNHoldEnd (dt : Nat)
  | timCmpArm (dt : Nat) (n : PathId) (target : Word)
  | comparatorFire (dt : Nat) (n : PathId)
  | toutRise (dt : Nat) (i : Fin 8)
  | toutFall (dt : Nat) (i : Fin 8)
  | tcapEdge (dt : Nat) (i : Fin 2) (part : Fin 12)
  | femBusTransactionDone (dt : Nat) (q : QuadId) (ok high : Bool)
  | femBusStuck (dt : Nat) (q : QuadId)
  | femStatusPollDone (dt : Nat) (n : PathId) (alarm : Option Bool)
  | femIdentityReadDone (dt : Nat) (n : PathId) (fem : FemRead) (alarm : Option Bool)
  | couplerSelectDone (dt : Nat) (q : QuadId) (ok : Bool)
  | couplerSettleDone (dt : Nat) (q : QuadId)
  | femLifeWriteTime (dt : Nat) (n : PathId)
  | femLifeWriteDone (dt : Nat) (n : PathId) (r : LifeResult)
  | hkReading (dt : Nat) (q : QuadId) (codes : List HkCode)
  | hkaInjectStart (dt : Nat) (q : QuadId) (channel : Nat)
  | hkInjectDone (dt : Nat) (q : QuadId) (code : HkCode)
  | biasBreakEnd (dt : Nat) (n : PathId)
  | obsRecordWritten (dt : Nat) (q : QuadId) (adc : List (Int × Bool))
  | dpdBankCopyDone (dt : Nat) (n : PathId)
  | dpdSwitchRequest (dt : Nat) (t : EngId) (n : PathId)
  | dpdLoadInit (dt : Nat) (t : EngId) (n : PathId)
  | roundDone (dt : Nat) (q : QuadId)
  | dpdShadowWrite (dt : Nat) (t : EngId) (n : PathId) (table : Fin 24) (entry : Fin 256) (value : Word)
  | dpdActiveWrite (dt : Nat) (n : PathId) (table : Fin 24) (entry : Fin 256) (value : Word)
  | toneWrite (dt : Nat) (n : PathId) (cfg : Option Word) (ftw : Option (BitVec 48))
  | trlClassLimitWrite (dt : Nat) (c : Fin 5) (limit : Byte)
  | torRouteWrite (dt : Nat) (crn : Bool) (i : Fin 16) (engine : EngId)
  | torStatOfferWrite (dt : Nat) (t : EngId) (count : Byte)
  | torEvselWrite (dt : Nat) (t : EngId) (k : Fin 8) (line : Byte) (enable : Bool)
  | engRegisterWrite (dt : Nat) (t : EngId) (address : Word) (value : Word)
  | calCollectQuantumDone (dt : Nat) (m : CalMeas)
  | calSolveDone (dt : Nat)
  | nvmOpDone (dt : Nat) (readback : Bytes)
  | nvmWriteFail (dt : Nat)
  | captureTrigger (dt : Nat) (u : Fin 2)
  | firePullEnd (dt : Nat)
  | fireIoFall (dt : Nat)
  | armIoChange (dt : Nat) (level : Bool)
  | captureRecordEnd (dt : Nat) (s : SetupId) (obs : List (QuadId × Nat × List (Int × Bool)))
  | captureAreaOpen (dt : Nat) (s : SetupId)
  | dmaCommit (dt : Nat) (ch : ChId)
  | dmaRecover (dt : Nat) (ch : ChId)
  | dmaIdleHandover (dt : Nat) (ch : ChId)
  | dmaBurst (dt : Nat)
  | dmaResponse (dt : Nat) (ch : ChId)
  | dmaWindowExpiry (dt : Nat) (ch : ChId)
  | halt (t : EngId) (x : Bool) (z : BitVec 17) (code : Byte)
  | nop (t : EngId) (x : Bool) (z : BitVec 25)
  | loop (t : EngId) (x : Bool) (body : BitVec 9) (count : BitVec 16) (ext : Word)
  | br (t : EngId) (x : Bool) (cond : BitVec 4) (off : BitVec 21) (ext : Word)
  | call (t : EngId) (x : Bool) (off : BitVec 21) (ext : Word)
  | ret (t : EngId) (x : Bool) (z : BitVec 25)
  | wait (t : EngId) (x : Bool) (mask : Byte)
  | waitResume (t : EngId) (line : Byte)
  | signal (t : EngId) (x : Bool) (z : BitVec 25)
  | done (t : EngId) (x : Bool) (z : BitVec 25)
  | jpop (t : EngId) (x : Bool) (d : BitVec 4)
  | sets (t : EngId) (x : Bool) (scale : BitVec 2)
  | clrf (t : EngId) (x : Bool) (mask : BitVec 3)
  | mvi (t : EngId) (x : Bool) (dst : BitVec 6) (imm : BitVec 16) (ext : Word)
  | mov (t : EngId) (x : Bool) (dst src : BitVec 6)
  | add (t : EngId) (x : Bool) (d a b : BitVec 4) (ext : Word)
  | sub (t : EngId) (x : Bool) (d a b : BitVec 4) (ext : Word)
  | and (t : EngId) (x : Bool) (d a b : BitVec 4) (ext : Word)
  | or (t : EngId) (x : Bool) (d a b : BitVec 4) (ext : Word)
  | xor (t : EngId) (x : Bool) (d a b : BitVec 4) (ext : Word)
  | shl (t : EngId) (x : Bool) (d a b : BitVec 4) (ext : Word)
  | sar (t : EngId) (x : Bool) (d a b : BitVec 4) (ext : Word)
  | shr (t : EngId) (x : Bool) (d a b : BitVec 4) (ext : Word)
  | add2 (t : EngId) (x : Bool) (d a b : BitVec 4) (ext : Word)
  | sub2 (t : EngId) (x : Bool) (d a b : BitVec 4) (ext : Word)
  | cmp (t : EngId) (x : Bool) (d a b : BitVec 4) (ext : Word)
  | modp (t : EngId) (x : Bool) (p : BitVec 3) (byImm : Bool) (imm : BitVec 16) (ext : Word)
  | ld (t : EngId) (x : Bool) (d : BitVec 4) (p : BitVec 3) (mode : BitVec 2) (size half : Bool) (imm : BitVec 14) (ext : Word)
  | globalLoadReturn (t : EngId)
  | st (t : EngId) (x : Bool) (d : BitVec 4) (p : BitVec 3) (mode : BitVec 2) (size half : Bool) (imm : BitVec 14) (ext : Word)
  | mva (t : EngId) (x : Bool) (a : BitVec 2) (d : BitVec 4) (form : Bool)
  | sta (t : EngId) (x : Bool) (a : BitVec 2) (form : Bool) (p : BitVec 3) (mode : BitVec 2) (z : BitVec 3) (imm : BitVec 14) (ext : Word)
  | lda (t : EngId) (x : Bool) (a : BitVec 2) (d : BitVec 4)
  | cmac (t : EngId) (x : Bool) (a : BitVec 2) (dx dy : BitVec 4)
  | cmacj (t : EngId) (x : Bool) (a : BitVec 2) (dx dy : BitVec 4)
  | cmsu (t : EngId) (x : Bool) (a : BitVec 2) (dx dy : BitVec 4)
  | cmul (t : EngId) (x : Bool) (a : BitVec 2) (dx dy : BitVec 4)
  | rmac (t : EngId) (x : Bool) (a : BitVec 2) (dx dy : BitVec 4)
  | clr (t : EngId) (x : Bool) (a : BitVec 2) (dx dy : BitVec 4)
  | qmac (t : EngId) (x : Bool) (z : BitVec 2) (g : BitVec 2) (dy : BitVec 4) (conj replace : Bool)
  | ftap (t : EngId) (x : Bool) (a : BitVec 2) (dx dy : BitVec 4) (conj : Bool) (d1 : BitVec 4) (p1 : BitVec 3) (d2 : BitVec 4) (p2 : BitVec 3)
  | ftapz (t : EngId) (x : Bool) (a : BitVec 2) (dx dy : BitVec 4) (conj : Bool) (d1 : BitVec 4) (p1 : BitVec 3) (d2 : BitVec 4) (p2 : BitVec 3)
  | dld (t : EngId) (x : Bool) (z : BitVec 11) (d1 : BitVec 4) (p1 : BitVec 3) (d2 : BitVec 4) (p2 : BitVec 3)
  | lookoutRead (dt : Nat) (address : Word) (length : Nat)
  | lookoutStatus (dt : Nat) (length : Nat)
  | lookoutUnknownOpcode (dt : Nat) (opcode : Byte)
  | jtagAccess (dt : Nat) (idcode : Bool)
  | laneConditionLost (dt : Nat) (l : LaneId)
  | sectionWeighted (dt : Nat) (flow target start : Nat)
  | weightingDeadline (dt : Nat) (target : Nat)
  deriving DecidableEq, Repr

end Sys2Proof
end

