-- ==== Sys2Proof/Decode.lean ====
section
/-! DEFINITION. The command that a word spells by the bits of the table of operations: the table gives no row any bits, so no
word spells a command. -/
namespace Sys2Proof

/-- No row of the table carries an encoding of its own. -/
def decodeTableWord (_nbits _w : Nat) : Option Instr := none

end Sys2Proof
end

