-- ==== Sys2Proof/Config.lean ====
section
/-! DEFINITION. Constants of silicon that the spec fixes, and the values it leaves open, which are opaque: nothing in Lean can
evaluate them. -/
namespace Sys2Proof.Config

/-- How a register shows a value that is no whole number of its units, where the spec states no rounding (log 12). -/
opaque roundRead : Rat → Int

/-- C at tick 0 of the old grid, which starts with an arbitrary phase (R63, R257; log 9). -/
opaque tickPhase : Nat → Nat

/-- Linear power of a level in 0.01 dB, and the level of a linear power (R235, R240): the spec states no rounding (log 12). -/
opaque linear : Int → Rat
/-- Level in 0.01 dB of a linear power (log 12). -/
opaque decibel : Rat → Int

/-- The filters of the path chains, which the spec gives by performance only (Tables 4.3 and 5.2, R78, R83, R106, R108; log 11): the
fractional delays of the two directions by phase, the presets' decimation and interpolation by PRESET code, the half-band stages of a
linear or a minimum-phase preset, the interpolation by 8 for a span midpoint in quarter kHz, with its
roll-off correction, the observation receivers' decimation by 4 (R152), and Cairn's decimation for a
family's LENGTH and spacing code (R168). -/
inductive Filter where
  | rxDelay (phase : Nat)
  | txDelay (phase : Nat)
  | decimate (preset : Nat)
  | interpolate (preset : Nat)
  | halfBand (minPhase : Bool)
  | up8 (mid4 : Nat)
  | observe
  | cairn (length scs : Nat)
  deriving DecidableEq, Repr

/-- Impulse response of a filter. -/
opaque taps : Filter → List Rat
/-- Group delay, in samples at its higher rate, of a filter whose delay the spec gives as a typical figure only (Tables 4.3 and 5.2). -/
opaque openLead : Filter → Nat
/-- Group delay of a filter in samples at its higher rate, which the time reference at the pins takes out (R87, R97). A half-band stage has
the one that R83 and the note to Table 5.2 state. -/
def lead : Filter → Nat
  | .halfBand minPhase => if minPhase then 5 else 11
  | f => openLead f
/-- Sine of an NCO phase of 18 bits (R80): the spec gives its spurious-free range, not its values. -/
opaque ncoSin : Nat → Rat
/-- What the rounding inside the FFT or the inverse FFT of a symbol adds to an output (R84, R88, R98: every stage rounds, and the spec
does not say what the stages are): path, carrier, tick, place, 0 for I and 1 for Q; and how many components saturate inside a symbol's
transform, by path, carrier and tick, of the FFT and of the inverse FFT (R84, R99). -/
opaque fftInner : Nat → Nat → Nat → Nat → Nat → Rat
opaque fftSatIn : Nat → Nat → Nat → Nat
opaque ifftSatIn : Nat → Nat → Nat → Nat

/-- How the Cairn work area holds a value, 512 bytes for 64 path sums and 2 for a cell (R175): the spec does not state the format (log 100). -/
opaque work : Rat → Rat
/-- What a word of the work area holds for an occasion, by its order of admission (R175: the area has no layout in the spec; log 129): the
place of a value in its list of cells, and 64; or the place of a coherent sum among those of a path, and the path. -/
opaque workPlace : Nat → Nat → Option (Nat × Nat)
/-- POWER of a detection in 0.01 dB (Table 8.6), whose estimate the spec does not state: the cell's power over the noise, and the noise of
a path (log 100). -/
opaque burstPower : Rat → Rat → Int

/-- Level in dB and phase in turns of a complex number, and the number of a level and a phase: the spec states no rounding (log 12). -/
opaque logPolar : Rat → Rat → Rat × Rat
opaque polar : Rat → Rat → Rat × Rat
/-- Phase in turns of a path in a sub-band from which the phases of the pairs are unwrapped (R236, which states no unwrapping; log 105).
Arguments: the covariances, the path, the sub-band. -/
opaque unwrapFrom : List ((Nat × Nat × Nat) × (Rat × Rat)) → Nat → Nat → Rat
/-- How much of the mismatch of a pair is attributed to one of its paths (R246), which the spec does not state (log 105). -/
opaque attributed : Rat → Rat
/-- Offset of a comparator in 1/8 LSB from a histogram of codes (R237): the spec names a smooth density, not which (log 105). Arguments: the
histogram, and the comparator. -/
opaque offset : List (Int × Nat) → Nat → Rat

/-- The device identification of JTAG, whose value the spec does not state (log 14). -/
opaque idcode : BitVec 32

/-- RMS of residuals (R246), whose rounding the spec does not state (log 12): the sum of squares and the number of paths. -/
opaque rms : Int → Nat → Int

/-- C after a shift by 0, from which no bit goes out (Table 15.6; log 18): the n-th such shift. -/
opaque openCarry : Nat → Bool
/-- cc that a posted global store takes to complete (R337; log 124). -/
opaque storeCc : Nat

/-- Start values of the CTLE and of the DFE taps in step 2 of the bring-up (Table 13.5), which the spec does not state (log 20). -/
opaque ctleStart : Nat
/-- Start value of DFE tap j + 1 (log 20). -/
opaque tapStart : Nat → Int

/-- Values of time that the spec leaves open (log 21): 0, the mean delay used before any exchange exists (R264); 1, the slope in
0.001 ppb when all the Syncs carry one t1 (R265). And of calibration (log 105): 2 and 3, the factor c of a path whose mean response is 0
(R241); 4, the slope of a path's phase that one frequency alone shows. And in the stress of
R313: 5, 0^0 (log 13). -/
opaque openRat : Nat → Rat

/-- Stepping of the silicon (R1, R396). -/
def stepping : Nat := 0xB0

/-- Minimum firmware version held in ROM (R46). -/
def hcMin : Nat := 0x00010000

/-- Core cycles in one second: Fc = 983.04 MHz (R7). -/
def fc : Nat := 983040000

end Sys2Proof.Config
end

