-- ==== Sys2Proof/Machine/State.lean ====
section
/-! DEFINITION. The state of the block: every register, buffer, counter, mode and pin the spec gives it, as plain data, with its
values after reset, and the reasons a step can stop. The field comments name the register or rule of the spec. -/
namespace Sys2Proof.Machine

/-- Reasons for a fault. The spec describes an outcome for every happening of the block, so no meaning answers with one. -/
inductive Fault where
  /-- Raised by no meaning: no happening of the spec stops the block. Safe. -/
  | unraised
  deriving DecidableEq, Repr

/-- Reasons for a refusal. -/
inductive Refusal where
  /-- Raised by a dispatch arm whose command has no meaning yet. Safe. -/
  | notModelled (mnemonic : String)
  deriving DecidableEq, Repr

/-! ### The image (chapter 2) -/

/-- A section table entry (Table 2.3). -/
structure Sec where
  type : Nat
  inst : Nat
  offset : Nat
  length : Nat
  recSize : Nat
  recCount : Nat
  deriving DecidableEq, Repr

/-- PACKAGE section (Table 2.4). -/
structure Pkg where
  powerCap : Nat := 0
  arrayBudget : Nat := 0
  ptpDomain : Nat := 0
  portCfg : List Nat := []
  txPolarity : Nat := 0
  slewLimit : Nat := 0
  timeTol : Nat := 0
  muteOnTol : Nat := 0
  delayStepThr : Nat := 0
  pinClasses : Nat := 0
  traceEngines : Nat := 0
  traceCfg : Nat := 0
  deriving DecidableEq, Repr

/-- CARRIER entry of a MODE_SLOT record (Table 2.5). -/
structure Carrier where
  rf : Nat
  bw : Nat
  scs : Nat
  deriving DecidableEq, Repr

/-- MODE_SLOT record (Table 2.5). -/
structure Slot where
  slot : Nat
  kind : Nat
  nCarriers : Nat
  preset : Nat
  txMask : Nat
  rxMask : Nat
  carriers : List Carrier
  layersDl : Nat
  layersUl : Nat
  lmhzDl : Nat
  lmhzUl : Nat
  granularity : Nat
  mantissa : Nat
  minLead : Nat
  ulDeadline : Nat
  earlyLimit : Nat
  dpdMode : Nat
  cairn : Nat
  allowance : Nat
  backoff : Nat
  tdBeams : Nat
  renorm : Nat
  flowSet : Nat
  tdd : Nat
  cairnBeams : Nat
  cairnCoh : Nat
  cairnNoncoh : Nat
  deriving DecidableEq, Repr

/-- COST_TABLE record (Table 2.7). -/
structure Cost where
  job : Nat
  scope : Nat
  die : Nat
  energy : Nat
  torCc : Nat
  heat : Nat
  deriving DecidableEq, Repr

/-- FLOW_SET record (Tables 2.4, 9.3). -/
structure Flow where
  id : Nat
  dir : Nat
  carrier : Nat
  layer : Nat
  port : Nat
  pkgPos : Nat
  eaxc : Nat
  vlan : Nat
  dstMac : Nat
  srcMac : Nat
  compression : Nat
  deriving DecidableEq, Repr

/-- TDD_PATTERN record (R190): the symbol codes of its period, in tick order. -/
structure Tdd where
  inst : Nat
  periodSlots : Nat
  quadMask : Nat
  codes : List Nat
  deriving DecidableEq, Repr

/-- TOUT record (Table 12.5). -/
structure Tout where
  pin : Nat
  mode : Nat
  startS : Nat
  startNs : Nat
  periodNs : Nat
  deriving DecidableEq, Repr

/-- GEOMETRY record (R169). -/
structure Geo where
  row : Nat
  col : Nat
  pol : Nat
  x : Int
  y : Int
  deriving DecidableEq, Repr

/-- CAIRN_FAMILY record (Table 8.2). -/
structure Family where
  inst : Nat
  kind : Nat
  root : Nat
  length : Nat
  cs : Nat
  scs : Nat
  hop : List Nat
  deriving DecidableEq, Repr

/-- SEARCH_TEMPLATE record. -/
structure Template where
  inst : Nat
  familyMask : Nat
  gridOs : Nat
  maxBeams : Nat
  maxCoh : Nat
  maxNoncoh : Nat
  threshold : Nat
  deriving DecidableEq, Repr

/-- HK_SEQUENCE entry (R325). -/
structure HkEntry where
  channel : Nat
  rep : Nat
  delay : Nat
  deriving DecidableEq, Repr

/-- FEM_POLICY section (Table 14.6). -/
structure Policy where
  aI : Nat := 0
  aP : Nat := 0
  ea : Nat := 0
  tRef : Int := 0
  wOff : Nat := 0
  rateMax : Nat := 0
  tFemMax : Int := 0
  tempGain : Int := 0
  tempOffset : Int := 0
  biasCount : Nat := 0
  reflCount : Nat := 0
  alarmOnExt : Nat := 0
  alarmLevel : Nat := 0
  supplyMin : Nat := 0
  supplyMax : Nat := 0
  biasMode : Nat := 0
  biasSafe : List Nat := []
  deriving DecidableEq, Repr

/-- CAPTURE_SETUP record (Table 17.2). -/
structure CapSetup where
  inst : Nat
  tap : Nat
  flankMask : Nat
  length : Nat
  pre : Nat
  cond0 : Nat
  cond1 : Nat
  value0 : BitVec 64
  care0 : BitVec 64
  value1 : BitVec 64
  care1 : BitVec 64
  sources : Nat
  deriving DecidableEq, Repr

/-- CAL_LIMITS section (Table 11.2). -/
structure CalLimits where
  powerFloor : Int := 0
  spreadMax : Nat := 0
  minSamples : Nat := 0
  txEnergyFloor : Int := 0
  deriving DecidableEq, Repr

/-- CFR section (Table 5.3). -/
structure Cfr where
  threshold : Nat := 0
  pulseLen : Nat := 0
  maxPeaks : Nat := 0
  pulse : List IQ := []
  deriving DecidableEq, Repr

/-- The image read in S2, section by section (R35 to R46). -/
structure Image where
  minStepping : Nat := 0
  sigAlg : Nat := 0
  imageSize : Nat := 0
  sectionCount : Nat := 0
  startSlot : Nat := 0
  refScs : Nat := 0
  refclkSel : Nat := 0
  lockKey : Bool := false
  calOffset : Nat := 0
  imageId : Nat := 0
  secs : List Sec := []
  pkg : Pkg := {}
  slots : List Slot := []
  costs : List (Nat × List Cost) := []
  flows : List (Nat × List Flow) := []
  tdds : List Tdd := []
  touts : List Tout := []
  dynEnable : List (Nat × Nat) := []
  geometry : List Geo := []
  cfr : Option Cfr := none
  families : List Family := []
  templates : List Template := []
  hkSeq : List (Nat × List HkEntry) := []
  policy : Policy := {}
  caps : List CapSetup := []
  calLimits : CalLimits := {}
  dpdInit : List (Nat × List (Nat × Word)) := []
  torProgs : List Nat := []
  deriving DecidableEq, Repr

/-- IMG_STATUS and its companions (R50, R51), and the NVM (R55, R57, R58). -/
structure Img where
  result : Nat := 0
  busMode : Nat := 0
  retried : Bool := false
  unsignedBoot : Bool := false
  keyLocked : Bool := false
  downgraded : Bool := false
  calState : Nat := 0
  calWriteBusy : Bool := false
  failEntry : Nat := 0x1FF
  id : Nat := 0
  hcVersion : Nat := 0
  loaded : Option Image := none
  /-- the density that SFDP advertises, bytes (R58); `none` while SFDP has not been read -/
  density : Option Nat := none
  /-- dummy cycles of a read and of a status read in the mode in use (R58) -/
  dummyRead : Nat := 0
  dummyStatus : Nat := 0
  /-- the first digest failed and the one re-read is due (Table 2.10) -/
  retryPending : Bool := false
  /-- the operation of R55 that is due to finish: 0, 1 erases, 2 to 19 page programs, 20 read-back -/
  writeOp : Nat := 0
  /-- cc from reset to the issue of that operation -/
  writeAt : Nat := 0
  /-- the records being written and waiting (R55) -/
  writes : List Bytes := []
  /-- the store count of R247 -/
  storeCount : Nat := 0
  deriving DecidableEq, Repr

/-- The OTP key hash field (R48). -/
inductive Otp where
  | blank
  | programmed (h : BitVec 384)
  | partly
  deriving DecidableEq, Repr

/-- SYS_ block (Table 18.3) and OTP. -/
structure Sys where
  dieId : BitVec 128 := 0
  pkgPos : Nat := 0
  bootSel : Nat := 0
  extTemp : Bool := false
  otp : Otp := .blank
  /-- the key hash held in ROM (R46) -/
  romKey : BitVec 384 := 0
  deriving DecidableEq, Repr

/-- STA_STATUS and the start sequence (R60 to R72). -/
structure Sta where
  stage : Nat := 0
  failed : Bool := false
  failAlarm : Nat := 0
  resetCause : Bool := false
  /-- STA_ENTRY_TIME, `none` reads 0xFFFF_FFFF -/
  entry : Vector (Option Nat) 9 := #v[some 0, none, none, none, none, none, none, none, none]
  /-- cc since the reset -/
  since : Nat := 0
  /-- REFCLK class of S1, coded as REFCLK_SEL (R63) -/
  refClass : Nat := 0
  pllTries : Nat := 0
  /-- announced slot entry and its tick k_f (R67) -/
  announced : Option (Nat × Nat) := none
  /-- k_f of the first entry into slot 7 (R66, R67) -/
  k7 : Option Nat := none
  /-- quads whose FEM discovery has ended (R311) -/
  discovered : List QuadId := []
  /-- the calibration record read in S4 (R54) -/
  calRead : Option Bytes := none
  /-- a remote reset waits for the record write (R73) -/
  resetWait : Bool := false
  /-- the time has entered 64 consecutive Syncs within TIME_TOL (R68) -/
  fineLock : Bool := false
  fineRun : Nat := 0
  /-- cc from reset to fine lock -/
  fineAt : Option Nat := none
  /-- S8 is declared in slot 7 because of R70 or START_SLOT 7 -/
  wornAtEntry : Bool := false
  firstLink : Bool := false
  deriving DecidableEq, Repr

/-! ### Time (chapter 12) -/

/-- A foreign master (R263). -/
structure Master where
  source : Nat
  data : AnnounceData
  /-- arrival of the latest two Announce messages, newest first, in cc since reset -/
  heard : List Nat
  deriving DecidableEq, Repr

/-- A Sync waiting for its Follow_Up, or used (R264): t1, t2 and c_s in 2^-16 ns. -/
structure SyncRec where
  seq : Nat
  t1 : Int
  t2 : Int
  cs : Int
  /-- D as it stood at this Sync, ns -/
  d : Rat := 0
  deriving DecidableEq, Repr

/-- Time of day, ticks and PTP (R256 to R277). -/
structure Tim where
  /-- C (R256) -/
  c : Nat := 0
  /-- index of the open window's tick -/
  k : Nat := 0
  /-- C at the open window's tick -/
  tickC : Nat := 0
  /-- a tick window is open (R23, R266) -/
  open_ : Bool := false
  /-- C at tick 0 of the old grid (R257) -/
  gridBase : Nat := 0
  stepped : Bool := false
  stepSize : Int := 0
  stepTick : Nat := 0xFFFFFFFF
  state : Nat := 0
  outOfTol : Bool := false
  freqLimit : Bool := false
  twoStep : Bool := false
  masters : List Master := []
  selected : Option Nat := none
  syncInterval : Nat := 0
  lastAnnounce : Nat := 0
  lastSync : Nat := 0
  /-- Delay_Req interval of the selected master, cc -/
  reqInterval : Nat := 61440000
  /-- the Delay_Req awaiting its answer: sequence number and t3 -/
  delayReq : Option (Nat × Int) := none
  /-- the latest Sync before that Delay_Req, and when it was sent -/
  reqSync : Option SyncRec := none
  /-- that Sync's t1 is still to come in its Follow_Up -/
  reqOpen : Bool := false
  /-- an answered exchange whose Sync's t1 is still to come: the Sync, and t4 - t3 - c_r in 2^-16 ns -/
  exchange : Option (SyncRec × Int) := none
  reqAt : Nat := 0
  reqSeq : Nat := 0
  waiting : Option SyncRec := none
  latest : Option SyncRec := none
  syncs : List SyncRec := []
  delays : List Rat := []
  delayCount : Nat := 0
  sinceCompare : Nat := 0
  offsets : List Rat := []
  syncCount : Nat := 0
  acquired : Bool := false
  /-- the mean of the 8 offsets of the frequency phase (R266) -/
  stepTheta : Rat := 0
  /-- address on which the selected master's Sync arrives (R263) -/
  syncDst : Option Nat := none
  /-- holdover ended: 16 Syncs and 16 exchanges are due before steering (R270) -/
  recovering : Bool := false
  theta : Rat := 0
  mpd : Rat := 0
  y : Rat := 0
  r : Rat := 0
  masterId : Nat := 0
  clockClass : Nat := 0xFF
  stepsRemoved : Nat := 0
  utcOffset : Int := 0
  delayStep : Int := 0
  /-- cc from reset to the entry into holdover -/
  holdFrom : Option Nat := none
  holdoverS : Nat := 0
  syncRx : Nat := 0
  delayReqTx : Nat := 0
  delayRespRx : Nat := 0
  announceRx : Nat := 0
  ptpIgnored : Vector Nat 2 := Vector.replicate 2 0
  tcA2b : Nat := 0
  tcB2a : Nat := 0
  delaySteps : Nat := 0
  losses : Nat := 0
  toutLevel : Vector Bool 8 := Vector.replicate 8 false
  /-- DAC clock edge of each pin's latest edge, in twelfths of a cc of C (R276) -/
  toutAt : Vector Nat 8 := Vector.replicate 8 0
  toutMissed : Vector Bool 8 := Vector.replicate 8 false
  /-- number of the next rising edge of each pin -/
  toutNext : Vector Nat 8 := Vector.replicate 8 0
  /-- TIM_TCAP[i][0..15] in 2^-16 ns -/
  tcap : Vector (Vector Nat 16) 2 := Vector.replicate 2 (Vector.replicate 16 0)
  tcapLast : Vector Nat 2 := Vector.replicate 2 15
  tcapAny : Vector Bool 2 := Vector.replicate 2 false
  /-- instant of the latest captured edge in twelfths of a cc of C -/
  tcapC : Vector Nat 2 := Vector.replicate 2 0
  tcapMissed : Vector Nat 2 := Vector.replicate 2 0
  deriving DecidableEq, Repr

/-! ### Modes (chapter 1) -/

/-- An accepted MODE_SELECT (R29); `void` as R28 makes it. -/
structure Select where
  tick : Nat
  slot : Nat
  void : Bool
  deriving DecidableEq, Repr

/-- The slot in force, the flow epoch and what is pending (R27 to R29, R187). -/
structure Mode where
  slot : Option Nat := none
  epoch : Nat := 0
  selects : List Select := []
  fallback : Option Nat := none
  /-- slot entries since reset (SLOT_COUNT of Table 7.2) -/
  slotCount : Nat := 0
  /-- the latest slot entry, in cc from reset -/
  enteredAt : Option Nat := none
  deriving DecidableEq, Repr

/-! ### Paths (chapters 4, 5, 7, 11, 12, 14) -/

/-- Converter trims of one direction of a path, or of an observation receiver (Tables 2.12, 2.13; nominal values of R77). -/
structure Trim where
  tap : Nat := 0
  int : Int := 0
  gain : IQ := ⟨0x4000, 0⟩
  thresh : List Int := []
  deriving DecidableEq, Repr

/-- Residual phase, delay and gain in force (Table 11.7). -/
structure Quality where
  phase : Int := 0x7FFF
  delay : Int := 0x7FFF
  gain : Int := 0x7FFF
  deriving DecidableEq, Repr

/-- CAL_PATH_STAT of one side (Table 11.6) and the run's sums for the path. -/
structure CalPath where
  samples : Nat := 0
  inRun : Bool := false
  excluded : Bool := false
  fail : Nat := 0
  /-- linear sum of the powers collected, how many quanta or symbols gave them, and their bounds in 0.01 dB -/
  powerSum : Rat := 0
  quanta : Nat := 0
  powerMin : Int := 0
  powerMax : Int := 0
  lowEnergy : Bool := false
  obsSelect : Bool := false
  deriving DecidableEq, Repr

/-- Tone generator (R114, R115). -/
structure Tone where
  mode : Nat := 0
  amp : Nat := 0
  ftw : BitVec 48 := 0
  /-- written CFG and FTW awaiting their tick -/
  nextCfg : Option Word := none
  nextFtw : Option (BitVec 48) := none
  /-- cc from reset to the instant at which the accumulator held this phase -/
  phase : BitVec 48 := 0
  phaseC : Nat := 0
  deriving DecidableEq, Repr

/-- Predistorter of a path (R146 to R151, Tables 7.5 to 7.7). A bank lists its non-zero words by entry number t * 256 + j. -/
structure Dpd where
  bank0 : List (Nat × Word) := []
  bank1 : List (Nat × Word) := []
  active : Bool := false
  shadowReady : Bool := true
  switchPending : Bool := false
  loadPending : Bool := false
  settling : Bool := false
  parityShadow : Bool := false
  /-- bytes that disagree with their parity: bank 1 or 0, and 4 times the entry's number plus the byte's (R150) -/
  badPar : List (Bool × Nat) := []
  /-- parity alarms already raised in this frame (R150) -/
  parSeen : List (Bool × Nat) := []
  nmse : Int := 0x7FFF
  aclr : Nat := 0
  /-- consecutive rounds at -35 dB or better; 2 stays (R68) -/
  goodRounds : Nat := 0
  /-- the round in progress has written its NMSE (R158) -/
  rated : Bool := false
  switchTick : Nat := 0
  age : Nat := 0
  switches : Nat := 0
  dropped : Nat := 0
  parity : Nat := 0
  /-- reference slot of the active bank (R151); `none` while the banks hold DPD_INIT -/
  refSlot : Option Nat := none
  /-- the DPD_ADAPT quanta of the open window that wrote the shadow, and those that posted a switch request, as 16 times the engine
  plus the quad, 256 for a request of no such quantum (R149) -/
  writers : List Nat := []
  posters : List Nat := []
  /-- a switch has been requested in the present round, and the rounds in a row that ended without one (R159) -/
  asked : Bool := false
  badRounds : Nat := 0
  deriving DecidableEq, Repr

/-- Identity page of a FEM (Table 14.3), its out-of-range values already replaced. -/
structure FemId where
  dacFs : Nat
  serial : Nat
  rated : Nat
  iRated : Nat
  pRated : Int
  gain : Int
  headroom : Nat
  biasMode : Nat
  biasNom : Nat
  biasTc : Int
  iOnMin : Nat
  iOnMax : Nat
  iOffMax : Nat
  isnsGain : Nat
  pdOffset : Int
  pdGain : Int
  reflMax : Int
  deriving DecidableEq, Repr

/-- What the Ezkan holds about one FEM (R307 to R319). -/
structure Fem where
  id : Option FemId := none
  lastSerial : Option Nat := none
  /-- stress-hours in 2^-40 of 0.001 h -/
  used : Nat := 0
  onTime : Nat := 0
  biasedTime : Nat := 0
  /-- highest temperature in 0.1 °C and highest reflected power in 0.01 dBm seen, once there was one (R308) -/
  tMax : Option Rat := none
  reflPeak : Option Rat := none
  seq : Nat := 0
  /-- the newer valid copy is A -/
  newerA : Bool := false
  /-- HOST history flags of the newer copy: WORN, FAILED -/
  flags : Nat := 0
  pageCause : Nat := 0
  failCause : Nat := 0
  worn : Bool := false
  alarmPin : Bool := false
  dirty : Bool := false
  writeFail : Bool := false
  lifeInvalid : Bool := false
  couplerSel : Bool := false
  biasRun : Nat := 0
  reflRun : Nat := 0
  missedPolls : Nat := 0
  /-- life page content waiting to be written (R314) -/
  writeDue : Bool := false
  /-- the frame's readings of channel n mod 4 with PAEN high: sum of codes x 16 and count -/
  iSum : Nat := 0
  iCount : Nat := 0
  /-- the frame's windows with PAEN high, their cc, and the sum of their powers -/
  paenWindows : Nat := 0
  paenCc : Nat := 0
  /-- cc since reset at which PAEN went high, or at which the frame began with it high -/
  paenFrom : Nat := 0
  /-- PAEN has been high in the open window -/
  paenSeen : Bool := false
  powerSum : Int := 0
  lifeWrites : Nat := 0
  /-- number m of the latest scheduled life write (R314) -/
  lifeM : Nat := 0
  deriving DecidableEq, Repr

/-- A restore in progress (R312). -/
structure Restore where
  target : Nat
  read : Bool := false
  /-- k_r, once the read has completed -/
  kr : Option Nat := none
  /-- ALARM of the latest poll completed before tick k_r - 2 -/
  alarm : Bool := false
  deriving DecidableEq, Repr

/-- BIAS[n] (R320 to R322, Table 14.13). -/
structure Bias where
  code : Nat := 0
  range : Nat := 3
  operating : Bool := false
  brk : Bool := false
  /-- window up to which PAEN is forced low -/
  forcedTo : Option Nat := none
  /-- the change of level due: its tick, and whether it is to the operating level -/
  due : Option (Nat × Bool) := none
  deriving DecidableEq, Repr

/-- TIM_CMP (R259). -/
structure Cmp where
  target : Word := 0
  /-- the target that the latest write of ARM took -/
  armedFor : Word := 0
  armed : Bool := false
  fired : Bool := false
  late : Bool := false
  clearedByStep : Bool := false
  lateCount : Nat := 0
  deriving DecidableEq, Repr

/-- What one ADC sampled in one window (R75): C at the window's tick, whether the path is enabled for the uplink in it (R170), and the
codes with their over-range flags, 6 to a cc; samples not listed are 0 without a flag. -/
structure AdcWin where
  c : Nat
  on : Bool := false
  x : List (Int × Bool) := []
  deriving DecidableEq, Repr

/-- One of the 64 paths. -/
structure Path where
  retired : Bool := false
  /-- retirements due: tick and cause of Table 14.12 -/
  retireAt : List (Nat × Nat) := []
  /-- targets of accepted PATH_RESTORE records still ahead -/
  restoreAt : List Nat := []
  restore : Option Restore := none
  rxOn : Bool := false
  /-- the ADC samples of the latest windows, newest first (R75) -/
  adc : List AdcWin := []
  /-- unflagged samples since the latest flagged one (R90) -/
  quiet : Nat := 0
  ovrLast : Bool := false
  rxPower : Int := -32768
  ovrSamples : Nat := 0
  ovrEvents : Nat := 0
  fsSamples : Nat := 0
  ddcSat : Nat := 0
  fftSat : Nat := 0
  trimSource : Bool := false
  rxTrim : Trim := {}
  txTrim : Trim := {}
  /-- trims of the two directions that a commit has replaced, newest first, each with the C up to which it held (R79, R106) -/
  rxOld : List (Nat × Trim) := []
  txOld : List (Nat × Trim) := []
  txOn : Bool := false
  /-- STARTED: the first frame in which the path is enabled has begun -/
  started : Bool := false
  /-- the transmit chain has run since the path was last enabled (R112) -/
  txLive : Bool := false
  dacMix : Bool := false
  fsCurrent : Nat := 20
  cfrPlaceB : Bool := false
  dpdBypass : Bool := true
  backoff : Nat := 0
  mutedTrip : Bool := false
  txPower : Int := -32768
  ducSat : Nat := 0
  dacSat : Nat := 0
  cfrPeaks : Nat := 0
  cfrMissed : Nat := 0
  /-- PAEN has changed since the quad's latest housekeeping reading (R326) -/
  paenMoved : Bool := false
  /-- C at which the receive and transmit chains last started from zero state (R95, R113) -/
  rxStart : Nat := 0
  txStart : Nat := 0
  /-- the transmit chain is powered up and has started (R112) -/
  txRun : Bool := false
  /-- C at which the receive and the transmit chain last began and last ceased to run (R74, R112) -/
  rxFrom : Nat := 0
  rxTo : Nat := 0
  txFrom : Nat := 0
  txTo : Nat := 0
  tone : Tone := {}
  dpd : Dpd := {}
  fem : Fem := {}
  bias : Bias := {}
  cmp : Cmp := {}
  calRx : CalPath := {}
  calTx : CalPath := {}
  qRx : Quality := {}
  qTx : Quality := {}
  /-- protective disable of a failed FEM (R17) -/
  disabled : Bool := false
  paen : Bool := false
  lnaen : Bool := false
  trsw : Bool := false
  deriving DecidableEq, Repr

/-! ### Quads -/

/-- HKA_RESULT and HKA_RESULT_TICK of one channel (Table 14.14). -/
structure HkRes where
  mean : Nat := 0
  ovr : Bool := false
  mixed : Bool := false
  paen : Bool := false
  valid : Bool := false
  tick : Nat := 0
  count : Nat := 0
  deriving DecidableEq, Repr

/-- Observation receiver and its scheduler (R152 to R156, Tables 7.8 to 7.12). -/
structure Obs where
  trim : Trim := {}
  /-- the samples of its ADC in the latest windows, newest first (R152) -/
  adc : List AdcWin := []
  bufSlots : Nat := 0
  enable : Bool := false
  base : Nat := 0
  cur : Nat := 0
  state : Nat := 0
  onCal : Bool := false
  lost : Bool := false
  failed : Nat := 0
  ovrLast : Bool := false
  slot : Nat := 0
  observed : Nat := 0
  symbols : Nat := 0
  skipped : Nat := 0
  ovr : Nat := 0
  selFail : Nat := 0
  abandoned : Nat := 0
  /-- the open window's DPD_ADAPT quantum of the quad observes the symbol (R157) -/
  granted : Bool := false
  deriving DecidableEq, Repr

/-- One of the 16 quads. -/
structure Quad where
  obs : Obs := {}
  busNack : Nat := 0
  busStuck : Bool := false
  /-- transactions on the FEM bus, the one in progress first: rank of R303 and path -/
  busQueue : List (Nat × Nat) := []
  /-- failed attempts of the transaction in progress -/
  busTries : Nat := 0
  hkEntry : Nat := 0
  hkRunning : Bool := false
  hk : Vector HkRes 12 := Vector.replicate 12 {}
  injCtl : Nat := 0
  /-- channel and whether the calibration run asked -/
  injPending : Option (Nat × Bool) := none
  injBusy : Option (Nat × Bool) := none
  /-- cc since reset at which the converter's slots began (R323, R325), at which the waiting conversion takes its slot, and at which the slot
  of the one in progress ends (R327) -/
  slotFrom : Nat := 0
  injFrom : Nat := 0
  injTo : Nat := 0
  /-- injected conversions whose slot has ended and whose result is still to be written (Table 14.11) -/
  injLate : List (Nat × Bool) := []
  injRefused : Bool := false
  calHeld : Bool := false
  injCode : Nat := 0
  injOvr : Bool := false
  injChannel : Nat := 0
  injValid : Bool := false
  conv : Nat := 0
  injDone : Nat := 0
  injRefusedCnt : Nat := 0
  /-- latest valid FEM temperature, 0.1 °C, and its tick -/
  femTemp : Option Rat := none
  /-- frame ticks since the latest housekeeping results -/
  hkAge : Nat := 0
  supplyOut : Bool := false
  ceil : Nat := 0
  factor : Nat := 0
  stale : Bool := false
  femTempUsed : Int := 0
  route : EngId := 0
  routeNext : Option EngId := none
  /-- smallest and largest FEM temperature over the collection of the run -/
  calTemp : Option (Rat × Rat) := none
  /-- the path of the quad that the transmit collection observes or observed last, 4 for none (R238); and its coupler's selection: 0 none,
  1 selecting, 2 settling, 3 selected (R154) -/
  calCur : Nat := 4
  calSel : Nat := 0
  deriving DecidableEq, Repr

/-! ### Massif, Cairn, fronthaul -/

/-- What Massif latched for the symbol of a tick (R133): the slot, the retired paths and the versions of the dynamic store. -/
structure Latch where
  tick : Nat
  slot : Nat
  retired : List Nat
  tags : List (Nat × Nat)
  deriving DecidableEq, Repr

/-- MAS_ registers, the dynamic store tags and the latch (R129, R133, R142). -/
structure Mas where
  /-- effective ticks of the two version slots of each of the 512 dynamic IDs, listed where not empty: (2 d + v, tick) -/
  tags : List (Nat × Nat) := []
  dlSat : Vector Nat 4 := Vector.replicate 4 0
  ulSat : Nat := 0
  cbUe : Vector Nat 4 := Vector.replicate 4 0
  dynUe : Vector Nat 4 := Vector.replicate 4 0
  timeRefusedDl : Nat := 0
  timeRefusedUl : Nat := 0
  /-- slice cycles lent to the downlink and to the uplink, in 10^-5 cc (R127, Table 6.11) -/
  lendDl : Nat := 0
  lendUl : Nat := 0
  peakDl : Nat := 0
  peakUl : Nat := 0
  /-- largest shares so far in the frame -/
  frameDl : Nat := 0
  frameUl : Nat := 0
  ueBeam : Nat := 0
  uePath : Nat := 0
  ueDyn : Bool := false
  ueVersion : Nat := 0
  ueValid : Bool := false
  /-- the latches of the symbols of the next two ticks -/
  latches : List Latch := []
  retiredLatched : Nat := 0
  /-- weight words whose uncorrectable error has been reported in this frame (R141) -/
  ueSeen : List Nat := []
  /-- instants, in 10^-5 cc, up to which the two timing queues of R136 have been worked off -/
  dlAt : Nat := 0
  ulAt : Nat := 0
  /-- instant, in 10^-5 cc, up to which the lanes have run, and the time of the open window that each direction has worked (R127) -/
  runAt : Nat := 0
  busyDl : Nat := 0
  busyUl : Nat := 0
  deriving DecidableEq, Repr

/-- An admitted downlink section (R122, R135, R203). -/
structure DlItem where
  flow : Nat
  target : Nat
  start : Nat
  count : Nat
  beam : Nat
  bytes : Nat
  spur : Bool
  weighted : Bool := false
  /-- zeros stand for the samples of a truncated Spur frame from this byte on (R118) -/
  truncAt : Option Nat := none
  payload : Bytes := []
  epoch : Nat := 0
  order : Nat := 0
  carrier : Nat := 0
  layer : Nat := 0
  /-- weighting still to do at the guaranteed rate, in 10^-5 cc (R136) -/
  left : Nat := 0
  /-- weighting still to do by the lanes as they run, lending included (R127), in 10^-5 cc -/
  todo : Nat := 0
  /-- the weights of the 64 paths, once read for this use (R133, R135, R141) -/
  ws : Option (List IQ) := none
  /-- bits per mantissa, 16 uncompressed (R194) -/
  mant : Nat := 16
  /-- PRBs or blocks taken as zero for a parity error (R204) -/
  zeroed : List Nat := []
  deriving DecidableEq, Repr

/-- An admitted uplink request (R93, R122). -/
structure UlItem where
  flow : Nat
  target : Nat
  closing : Nat
  start : Nat
  count : Nat
  beam : Nat
  bytes : Nat
  epoch : Nat
  reduced : Bool := false
  carrier : Nat := 0
  layer : Nat := 0
  spur : Bool := false
  /-- UL_DEADLINE under which the request was admitted, ns -/
  deadline : Nat := 0
  order : Nat := 0
  /-- combination still to do at the guaranteed rate, in 10^-5 cc (R136) -/
  left : Nat := 0
  /-- combination still to do by the lanes as they run (R127) -/
  todo : Nat := 0
  compression : Nat := 0
  eaxc : Nat := 0
  vlan : Nat := 0xFFFF
  dst : Nat := 0
  port : Nat := 0
  /-- slot in force at the target tick, and the paths combined (R120, R133, R190); `none` before that tick -/
  taken : Option (Nat × List Nat) := none
  /-- in a Spur slot the weights of the 64 paths, read on the target tick for the window (R139) -/
  ws : Option (List IQ) := none
  /-- what every path gives for the section, and the paths with a flag in it, from the closing tick on (R88, R90) -/
  formed : Option (List (List IQ) × List Nat) := none
  deriving DecidableEq, Repr

/-- A CAIRN_EXTRA quantum on an engine: its block, the engine and the low 32 bits of its window's tick (R176, R347). -/
structure Quantum where
  block : Nat
  engine : Nat
  tick : Nat
  deriving DecidableEq, Repr

/-- A cell of an occasion (R172): place of the family in the occasion, beam in the order of R171, hypothesis, lag bin, and the power
summed over the groups. -/
structure Cell where
  fam : Nat
  beam : Nat
  hyp : Nat
  lag : Nat
  p : Rat
  deriving DecidableEq, Repr

/-- An admitted search occasion (R166 to R178). -/
structure Occasion where
  tag : Nat
  flow : Nat
  target : Nat
  closing : Nat
  report : Nat
  template : Nat
  families : List Nat
  row0 : Nat
  rows : Nat
  col0 : Nat
  cols : Nat
  beams : Nat
  ext : Nat
  coh : Nat
  noncoh : Nat
  freqHyp : Nat
  maxDelay : Nat
  gridRows : Nat
  gridCols : Nat
  bytes : Nat
  contexts : List Nat
  groups : Nat := 0
  /-- extension blocks still in play, their quanta on engines, and the blocks evaluated for the group that ended last (R176) -/
  blocks : List Nat := []
  quanta : List Quantum := []
  evaluated : List Nat := []
  /-- carrier and lower edge of the search band (R166) -/
  carrier : Nat := 0
  startPrb : Nat := 0
  cells : List Cell := []
  /-- C at which a slot change stopped the collection (R178) -/
  stopAt : Option Nat := none
  extDone : Nat := 0
  extPartial : Bool := false
  cut : Bool := false
  changed : List Nat := []
  pathsUsed : List Nat := []
  ovr : Bool := false
  memUe : Bool := false
  failed : Bool := false
  /-- collecting: from the target tick to the closing tick, or to the slot change that cuts it -/
  active : Bool := false
  perWindow : Nat := 0
  /-- the slot under which it was admitted, and its flow's address -/
  slot : Nat := 0
  port : Nat := 0
  dst : Nat := 0
  vlan : Nat := 0xFFFF
  eaxc : Nat := 0
  order : Nat := 0
  deriving DecidableEq, Repr

/-- CRN_ registers and the occasions (R179). -/
structure Crn where
  occasions : List Occasion := []
  lastTag : Nat := 0
  lastCount : Nat := 0
  lastStatus : Nat := 0
  admitted : Nat := 0
  cut : Nat := 0
  refused : Nat := 0
  detections : Nat := 0
  truncated : Nat := 0
  extDone : Nat := 0
  extDropped : Nat := 0
  failed : Nat := 0
  /-- TOR_ROUTE_CRN (Table 15.17) -/
  route : Vector EngId 4 := #v[0, 1, 2, 3]
  routeNext : Vector (Option EngId) 4 := Vector.replicate 4 none
  tags : Vector Nat 4 := Vector.replicate 4 0
  deriving DecidableEq, Repr

/-- A frame the Ezkan sends. Contents the spec fixes bit by bit are bytes; the rest is held by field. -/
inductive TxFrame where
  /-- eCPRI event indication (R205, R207): port, destination, VLAN, the payload after the common header -/
  | indication (port : Nat) (dst : Nat) (vlan : Option Nat) (payload : Bytes)
  /-- uplink section (R198): port, destination, VLAN, PC_ID, SEQ, flow, epoch, FLAGS, target tick, start, count, beam, payload -/
  | ulSection (port dst vlan eaxc seq flow epoch flags target start count beam : Nat) (payload : Bytes)
  /-- generic data transfer: Cairn report or capture segment (R177, R387): port, destination, VLAN, PC_ID, SEQ_ID, payload -/
  | generic (port dst vlan eaxc seq : Nat) (payload : Bytes)
  /-- remote memory access response (R208): port, destination, ID, the response code, the request's element and address, data -/
  | rma (port dst id code element address : Nat) (data : Bytes)
  /-- one-way delay response (R209): port, destination, measurement ID, t2 in 2^-16 ns, compensation in 2^-16 ns -/
  | owd (port dst id t2 comp : Nat)
  /-- remote reset response (R72) -/
  | resetResp (port dst id : Nat)
  /-- Delay_Req of the own slave (R263): destination, sequence number, departure -/
  | delayReq (dst seq : Nat) (t3 : Int)
  /-- a frame forwarded to the other port unchanged (R210): egress port, octets -/
  | forward (port : Nat) (octets : Bytes)
  /-- a PTP event message forwarded with its corrected correctionField (R273) -/
  | ptpForward (port : Nat) (correction : Int)
  /-- BUDGET_SHARE sent by the head out of port B (R227) -/
  | budgetShare (dst : Nat) (share : List Nat)
  deriving DecidableEq, Repr

/-- A byte that a parity error in a port's egress or forwarding FIFO has changed (R361): the port, the frame's number among those that
leave by it, the octet's, and the bits that have changed. -/
structure EgressFlip where
  port : Nat
  frame : Nat
  octet : Nat
  flips : Nat
  deriving DecidableEq, Repr

/-- A receive sequence (R188). -/
structure SeqState where
  next : Nat := 0
  seen : List Nat := []
  synced : Bool := false
  gap : Nat := 0
  reorder : Nat := 0
  nextTx : Nat := 0
  deriving DecidableEq, Repr

/-- Judgement of the message being taken record by record (R201). -/
structure Cur where
  /-- 0 the message stands, else the reason of the message check -/
  reason : Nat := 0
  /-- FLOW_ID of the matched flow, 0xFF for the command channel or none -/
  flowId : Nat := 0xFF
  eaxc : Nat := 0xFFFF
  /-- refusals so far: reason, record index, record type -/
  refusals : List (Nat × Nat × Nat) := []
  deriving DecidableEq, Repr

/-- FHL_ registers, buffers and queues (R180 to R212). -/
structure Fhl where
  seqs : Vector SeqState 129 := Vector.replicate 129 {}
  /-- 32-bit SEQ_ID of the control flows, by FLOW_ID (R189) -/
  genSeq : List (Nat × Nat) := []
  indCount : Nat := 0
  queue : List TxFrame := []
  dl : List DlItem := []
  ul : List UlItem := []
  /-- control and command records held: tick at which each leaves (Table 9.13) -/
  control : List Nat := []
  order : Nat := 0
  cur : Cur := {}
  rmaPending : Nat := 0
  rxFrames : Vector Nat 2 := Vector.replicate 2 0
  fcsBad : Vector Nat 2 := Vector.replicate 2 0
  oversize : Vector Nat 2 := Vector.replicate 2 0
  otherDropped : Vector Nat 2 := Vector.replicate 2 0
  undersize : Vector Nat 2 := Vector.replicate 2 0
  refused : Vector Nat 13 := Vector.replicate 13 0
  fwdA2b : Nat := 0
  fwdB2a : Nat := 0
  fwdDrop : Nat := 0
  refusalLost : Nat := 0
  bfpSat : Nat := 0
  bufParity : Nat := 0
  bufParityFrame : Bool := false
  rmaReads : Nat := 0
  owdResp : Nat := 0
  unsupported : Nat := 0
  spurFcsBad : Nat := 0
  spurTrunc : Nat := 0
  deriving DecidableEq, Repr

/-! ### Treeline (chapter 10) -/

/-- A granted or reserved job: window, class (0 mandatory), what it is for, as the descriptor names it (R346). -/
structure Grant where
  window : Nat
  cls : Nat
  unit : Nat
  deriving DecidableEq, Repr

/-- TRL_ registers, ceilings and reservations. Units: path n, quad 64 + q, flank 80 + f, die 84 + d, package 87, array 88,
Tor pool 89. -/
structure Trl where
  trip : Bool := false
  /-- the latest trip began at this instant, in cc from reset -/
  tripFrom : Nat := 0
  tripTick : Nat := 0
  tripSensor : Nat := 0
  /-- a reading at or above 115 °C, or the trip itself, fell in the frame (R228) -/
  tripHot : Bool := false
  /-- the latest resumption, in cc from reset -/
  tripEnd : Option Nat := none
  shareReceived : Bool := false
  /-- share in force, 0.1 W; and the one due on the next frame tick -/
  share : Option Nat := none
  shareNext : Option Nat := none
  baselineOver : Bool := false
  sensorFail : Bool := false
  sensors : Vector (Option Int) 32 := Vector.replicate 32 none
  failedSensors : List Nat := []
  dieCeil : Vector Nat 3 := Vector.replicate 3 0
  dieTemp : Vector Int 3 := Vector.replicate 3 0
  diePower : Vector Nat 3 := Vector.replicate 3 0
  dieCase : Vector Int 3 := Vector.replicate 3 0
  heat : Vector Nat 3 := Vector.replicate 3 0
  ceilings : Bool := false
  /-- reserved and granted charges: ((window, unit), nJ or cc) -/
  res : List ((Nat × Nat) × Nat) := []
  /-- beams of Spur sections already charged: (window, direction, layer) -/
  tdCharged : List (Nat × Nat × Nat) := []
  classLimit : Vector Nat 5 := Vector.replicate 5 0xFF
  classNext : Vector (Option Nat) 5 := Vector.replicate 5 none
  lastQuad : Nat := 15
  grants : List Grant := []
  granted : Vector Nat 5 := Vector.replicate 5 0
  skipped : Vector Nat 5 := Vector.replicate 5 0
  refusedLevel : Vector Nat 7 := Vector.replicate 7 0
  trips : Nat := 0
  tripLost : Nat := 0
  /-- engines counted in the Tor pool of the open window (R220) -/
  pool : Nat := 0
  deriving DecidableEq, Repr

/-! ### Calibration (chapter 11) -/

/-- New values of one side of a path as a solve finds them, before their ranges are checked (R241): v of the delay, the gain, the
threshold trims and the residuals. -/
structure Solved where
  path : Nat
  v : Int
  gain : IQ
  thresh : List Int
  quality : Quality
  deriving DecidableEq, Repr

/-- The run in progress (R231 to R245). -/
structure Run where
  tag : Nat
  target : Nat
  policy : Nat
  tick : Nat
  started : Bool := false
  rxDone : Bool := false
  txDone : Bool := false
  solved : Nat := 0
  commit : Option Nat := none
  abortAt : Option Nat := none
  /-- what the receive and the transmit solve have found, and the new thresholds of the observation receivers -/
  newRx : List Solved := []
  newTx : List Solved := []
  newObs : List (Nat × List Int) := []
  deriving DecidableEq, Repr

/-- What a run has summed over its quanta (R235, R238, R239). -/
structure CalSums where
  /-- covariance of the monitor streams of two paths in a sub-band: sub-band and paths, real and imaginary part -/
  cov : List ((Nat × Nat × Nat) × (Rat × Rat)) := []
  /-- histograms of the ADC codes of the paths -/
  hist : List ((Nat × Int) × Nat) := []
  /-- of a path and sub-band: observation times the composite's conjugate, and the power of the composite -/
  cross : List ((Nat × Nat) × (Rat × Rat)) := []
  power : List ((Nat × Nat) × Rat) := []
  /-- histograms of the ADC codes of the observation receivers, by quad -/
  obsHist : List ((Nat × Int) × Nat) := []
  deriving DecidableEq, Repr

/-- CAL_ registers (R251, R252) and the run. -/
structure Cal where
  run : Option Run := none
  sums : CalSums := {}
  state : Nat := 0
  target : Nat := 0
  policy : Nat := 0
  outcome : Nat := 0
  cause : Nat := 0
  adcHeld : Bool := false
  runTag : Nat := 0
  commitTick : Nat := 0xFFFFFFFF
  spread0 : Nat := 0
  spread1 : Nat := 0
  qArrayRx : Quality := {}
  qArrayTx : Quality := {}
  runs : Nat := 0
  applied : Nat := 0
  notApplied : Nat := 0
  stores : Nat := 0
  ovrDiscarded : Nat := 0
  /-- CAL_COUNT (Table 7.2) -/
  count : Nat := 0
  mirror : Bytes := []
  deriving DecidableEq, Repr

/-! ### Lanes (chapter 13) -/

/-- One serial lane (R287 to R295). -/
structure Lane where
  step : Nat := 0
  adapt : Nat := 0
  snapValid : Bool := false
  ctle : Nat := 0
  snapCtle : Nat := 0
  taps : List Int := []
  snapTaps : List Int := []
  deskew : Nat := 0
  /-- arrival of the lane's markers after a common instant, 0.5 ns (R289) -/
  skew : Nat := 0
  number : Option Nat := none
  inverted : Bool := false
  ew : Nat := 0
  eh : Nat := 0
  ehSnap : Nat := 0
  ehMax : Nat := 0
  /-- the guard's actions within the last second, in cc since reset -/
  acts : List Nat := []
  symbols : Nat := 0
  bip : Nat := 0
  reverts : Nat := 0
  polTries : Nat := 0
  deriving DecidableEq, Repr

/-- One Ethernet port (R280 to R299). -/
structure Port where
  linkUp : Bool := false
  aligned : Bool := false
  localFault : Bool := false
  remoteFault : Bool := false
  fecDegraded : Bool := false
  orderFault : Bool := false
  downCause : Nat := 0
  downAt : Option Nat := none
  /-- the restart of R299 after 10 ms without link has been made -/
  restarted : Bool := false
  linkTime : Nat := 0
  fill : Nat := 16
  corrCw : Nat := 0
  uncorrCw : Nat := 0
  /-- an uncorrectable codeword fell in the current 10 ms interval; those of the current ms -/
  uncorrNow : Bool := false
  lastUncorr : Nat := 0
  linkDowns : Nat := 0
  idleDel : Nat := 0
  idleIns : Nat := 0
  elasticErr : Nat := 0
  /-- the frame in reception ends as errored (R297, R298) -/
  errored : Bool := false
  /-- the frame in reception holds a message that has been judged on its headers (R116, R180) -/
  judged : Bool := false
  rclk : Bool := false
  deriving DecidableEq, Repr

/-! ### Tor engines (chapter 15) -/

/-- An accumulator. -/
structure Acc where
  re : BitVec 40 := 0
  im : BitVec 40 := 0
  deriving DecidableEq, Repr

/-- An entry of the loop stack (R342). -/
structure LoopEnt where
  start : Nat
  stop : Nat
  left : Nat
  deriving DecidableEq, Repr

/-- A job descriptor (R347). -/
structure Job where
  w0 : Word
  tick : Nat
  deriving DecidableEq, Repr

/-- TOR_EVSEL (Table 15.15). -/
structure EvSlot where
  line : Nat := 0
  enable : Bool := false
  pending : Bool := false
  deriving DecidableEq, Repr

/-- A global load whose data have not returned (R337). -/
structure GLoad where
  dst : BitVec 4
  addr : Nat
  size : Bool
  half : Bool
  /-- cc from reset to its issue -/
  at_ : Nat
  deriving DecidableEq, Repr

/-- What produced a result, for the distances of Table 15.8: 1 local load to a D register, 2 MVI or MOV to P, M, B or L,
3 a multiply into an accumulator. -/
structure Prod where
  kind : Nat
  reg : Nat
  /-- issue cycle -/
  at_ : Nat
  deriving DecidableEq, Repr

/-- One of the 16 engines (Table 15.1, R352). -/
structure Tor where
  d : Vector Word 16 := Vector.replicate 16 0
  a : Vector Acc 4 := Vector.replicate 4 {}
  p : Vector Word 8 := Vector.replicate 8 0
  m : Vector Word 8 := Vector.replicate 8 0
  b : Vector Word 8 := Vector.replicate 8 0
  l : Vector Word 8 := Vector.replicate 8 0
  pc : Nat := 0
  /-- 0 not started, 1 running, 2 waiting, 3 halted -/
  state : Nat := 0
  cause : Nat := 0
  code : Nat := 0
  scale : BitVec 2 := 0
  prevScale : BitVec 2 := 0
  /-- the latest instruction was SETS (R340) -/
  justSet : Bool := false
  z : Bool := false
  n : Bool := false
  c : Bool := false
  v : Bool := false
  gx : Bool := false
  sat : Bool := false
  ue : Bool := false
  evLast : Nat := 0
  loops : List LoopEnt := []
  calls : List Nat := []
  ev : Vector EvSlot 8 := Vector.replicate 8 {}
  waitMask : BitVec 8 := 0
  jobs : List Job := []
  job : Option Job := none
  abandoned : Bool := false
  /-- global loads whose data have not returned, in issue order -/
  load : List GLoad := []
  /-- issue cycles of the latest posted global stores, newest first, at most 8 (R337) -/
  posted : List Nat := []
  /-- cc from reset at which WAIT stopped the engine's issue (R344) -/
  waitFrom : Nat := 0
  /-- the engine's own cycle count, and the producers still in flight -/
  cyc : Nat := 0
  prods : List Prod := []
  statOffer : Nat := 0
  statNext : Option Nat := none
  cycles : Nat := 0
  stalls : Nat := 0
  quanta : Nat := 0
  abandonedCnt : Nat := 0
  mandOverrun : Nat := 0
  evOverrun : Nat := 0
  storeDropped : Nat := 0
  globalUe : Nat := 0
  deriving DecidableEq, Repr

/-! ### Memory protection, DMA (chapter 16) -/

/-- MEM_RAT entry (Table 16.11). -/
structure RatEnt where
  addr : Nat
  count : Nat
  tick : Nat
  deriving DecidableEq, Repr

/-- Protection registers of one SECDED memory (R355 to R358). -/
structure SMem where
  corr : Nat := 0
  ue : Nat := 0
  ratOvf : Nat := 0
  rat : List RatEnt := []
  ueAddr : Nat := 0
  ueTick : Nat := 0
  ueFrame : Bool := false
  deriving DecidableEq, Repr

/-- A register set of a DMA channel (R363). -/
structure DmaSet where
  src : Nat := 0
  dst : Nat := 0
  srcCount : Nat := 0
  dstCount : Nat := 0
  prio : Nat := 0
  deriving DecidableEq, Repr

/-- A burst in flight (R365, R366): source and destination, bytes, the error its response brings, and the entries that it serves. -/
structure Burst where
  src : Nat
  dst : Nat
  data : Bytes
  err : Option (Nat × Nat)
  srcEntry : Nat := 0
  dstEntry : Nat := 0
  deriving DecidableEq, Repr

/-- A DMA channel (R363 to R370). -/
structure Dma where
  act : DmaSet := {}
  sh : DmaSet := {}
  commit : Bool := false
  /-- 0 IDLE, 1 RUNNING, 2 ERROR -/
  state : Nat := 0
  cause : Nat := 0
  errAddr : Nat := 0
  /-- an error was met and the bursts in flight are completing -/
  failing : Option (Nat × Nat) := none
  srcEntry : Nat := 0
  dstEntry : Nat := 0
  /-- ADDR and LEN of the source and destination entries in use, read when they came into use (R364) -/
  srcNow : Option (Nat × Nat) := none
  dstNow : Option (Nat × Nat) := none
  /-- bytes already taken from the source and destination entries in use, and the address behind the last byte issued -/
  srcOff : Nat := 0
  dstOff : Nat := 0
  srcNext : Nat := 0
  /-- every byte of the list has been issued -/
  issued : Bool := false
  flight : List Burst := []
  window : Nat := 0
  /-- cycle of the latest store to the channel's registers, in cc from reset, and what the cycle began with: the shadow set and COMMIT;
  whether COMMIT was written in it; and its stores: register, engine and bits (R366, R367) -/
  cycle : Option Nat := none
  sh0 : DmaSet := {}
  commit0 : Bool := false
  asked : Bool := false
  stores : List (Nat × Nat × Nat) := []
  /-- cycle of the latest hand-over or change to IDLE, whose result counts from the next cycle on (R366, R370) -/
  moved : Option Nat := none
  /-- DPD_ADAPT quanta that have set COMMIT, for the active set and for the next (R149) -/
  by_ : List Nat := []
  nextBy : List Nat := []
  lists : Nat := 0
  errors : Nat := 0
  bytes : Nat := 0
  deriving DecidableEq, Repr

/-! ### Capture (chapter 17) -/

/-- A record in a bank (R376, R383). -/
structure CapRec where
  setup : Nat
  no : Nat
  offset : Nat
  size : Nat
  trigTick : Nat
  /-- the banks that still hold it -/
  flanks : List Nat
  stream : Bool := false
  /-- flanks still unsent, and the bytes of the first of them already sent (R386) -/
  left : List Nat := []
  sent : Nat := 0
  deriving DecidableEq, Repr

/-- The trigger of the record in progress (R376, R381). -/
structure Trig where
  cause : Nat
  hits : Nat
  validPre : Nat
  missed : Nat
  tick : Nat
  cc : Nat
  tod : Nat
  vector : BitVec 64
  /-- trigger instant in cc from reset, and the tap's sample period in thirds of a cc -/
  at_ : Nat
  per3 : Nat
  /-- rate of the tapped stream in Hz, and the number of the trigger sample in it -/
  rate : Nat := 0
  n : Nat := 0
  deriving DecidableEq, Repr

/-- What the taps of a set-up have shown in one window (R376, R382): the rate, the number and the count of the samples, and the samples of each unit
with their over-range flags. -/
structure CapWin where
  rate : Nat
  first : Nat
  len : Nat
  units : List (Nat × List (IQ × Bool))
  deriving DecidableEq, Repr

/-- One capture set-up (R375 to R389, Tables 17.7, 17.8). -/
structure Cap where
  armed : Bool := false
  /-- a record area is being opened, since this instant in cc from reset -/
  opening : Option Nat := none
  areaOpen : Bool := false
  offset : Nat := 0
  /-- ready since this instant -/
  readyAt : Option Nat := none
  trig : Option Trig := none
  /-- what has been recorded in the area since the set-up became ready, latest window first -/
  taken : List CapWin := []
  recNo : Nat := 0
  /-- triggers missed since the latest record's trigger -/
  missed : Nat := 0
  /-- instant of the latest record's last sample -/
  endAt : Option Nat := none
  rearm : Bool := false
  fullWait : Bool := false
  endedFull : Bool := false
  disarmAfter : Bool := false
  deadLast : Nat := 0xFFFFFFFF
  lastNo : Nat := 0
  lastHits : Nat := 0
  lastCause : Nat := 0
  lastShort : Bool := false
  lastValid : Bool := false
  /-- DEAD_CC of the next record -/
  dead : Nat := 0xFFFFFFFF
  /-- units whose hits began the latest span in which the package holds FIRE_IO low -/
  fireHits : Nat := 0
  /-- bytes streamed by the quantum of the open window, and the segments that an abandoned quantum had sent: record, flank and offset
  (R388) -/
  segs : Nat := 0
  again : List (Nat × Nat × Nat) := []
  records : Nat := 0
  missedCnt : Nat := 0
  streamKib : Nat := 0
  resent : Nat := 0
  deriving DecidableEq, Repr

/-- The capture banks and trigger units. -/
structure CapAll where
  setups : Vector Cap 32 := Vector.replicate 32 {}
  recs : List CapRec := []
  /-- accepted CAPTURE_ARM (`true`) and CAPTURE_DISARM records in order of acceptance: tick, set-up -/
  orders : List (Nat × Nat × Bool) := []
  unitHits : Vector Nat 2 := Vector.replicate 2 0
  bankSetup : Vector Nat 4 := Vector.replicate 4 0
  /-- the latest span of the package's own pulls of FIRE_IO, in cc from reset: its end and its beginning; and the end of the span before
  (R385) -/
  fireUntil : Option Nat := none
  fireFrom : Nat := 0
  fireLast : Nat := 0
  deriving DecidableEq, Repr

/-! ### Lookout (chapter 18) -/

/-- Event log entry (Table 18.4). -/
structure LogEnt where
  number : Nat
  code : Nat
  arg : Int
  extra : Nat
  cease : Bool
  timeValid : Bool
  sent : Bool
  stage : Nat
  tick : Nat
  tod : Nat
  /-- the cc, from reset, in which it was latched -/
  at_ : Nat
  deriving DecidableEq, Repr

/-- A happening for HC0: an alarm raised or ceased, or an entry only logged, with the tick and context elements its indication
carries (R207): EAXC_ID, FLOW_ID and sequence number. The stage and the open window are latched as it is detected (R398, R399). -/
structure Happening where
  code : Nat
  arg : Int
  extra : Nat := 0
  cease : Bool := false
  tick : Option Nat := none
  ctx : Option (Nat × Nat × Nat) := none
  stage : Nat := 0
  window : Nat := 0
  deriving DecidableEq, Repr

/-- A trace packet (Table 18.10). -/
structure Pkt where
  type : Nat
  source : Nat
  info : Nat
  cc : Nat
  lo : Nat
  hi : Nat
  deriving DecidableEq, Repr

/-- LKO_ registers, the event log and the trace (R391 to R407). -/
structure Lko where
  /-- entries of the ring, newest first, at most 4,096, in the order in which the commands brought them -/
  log : List LogEnt := []
  written : Nat := 0
  badAddr : Bool := false
  spiReads : Nat := 0
  spiRefused : Nat := 0
  trcDropped : Nat := 0
  /-- packets in the buffer, newest first -/
  trace : List Pkt := []
  trcCount : Nat := 0
  trcLost : Nat := 0
  /-- cc for which the stream has been draining its current packet (R406) -/
  trcCredit : Nat := 0
  /-- raised state alarms: code and argument -/
  raised : List (Nat × Int) := []
  /-- happenings of the command in progress that HC0 has not yet taken (R400) -/
  pend : List Happening := []
  /-- event alarms of a selected class holding ALARM_N: when each was raised, in cc since reset -/
  holds : List Nat := []
  /-- what LK_SDO gave in the latest transaction -/
  sdo : Bytes := []
  deriving DecidableEq, Repr

/-! ### Pins -/

/-- Package pins (Table 3.3). -/
structure Pins where
  poresetN : Bool := false
  railsOk : Bool := false
  refclk : Bool := false
  stat : Nat := 0
  /-- ALARM_N is asserted (low) -/
  alarm : Bool := false
  /-- NV_RST_N and NV_CS_N are driven -/
  nvRst : Bool := false
  nvRstPulses : Nat := 0
  /-- lane l transmits on its LTX pins, electrical idle otherwise -/
  ltx : Vector Bool 8 := Vector.replicate 8 false
  armIo : Bool := false
  fireLow : Bool := false
  tdo : Nat := 0
  deriving DecidableEq, Repr

/-- An item as it goes on air, or is lost, in the window just opened (R4, R229). -/
structure AirItem where
  flow : Nat
  target : Nat
  start : Nat
  count : Nat
  beam : Nat
  lost : Bool
  /-- the weights of the 64 paths under the latch of R133 -/
  weights : List IQ
  deriving DecidableEq, Repr

/-- A command issued to the NVM (R59): its opcode bytes, the address, the dummy cycles, the data written and the bytes read. -/
structure NvmCmd where
  op : Bytes
  addr : Option Nat := none
  dummy : Nat := 0
  data : Bytes := []
  len : Nat := 0
  deriving DecidableEq, Repr

/-- What a FEM bus carries (R302, R304): a transfer to a 7-bit address, with the word or register address it sends, the data bytes it
writes, and the number of bytes it reads; or the recovery of a bus, nine clock pulses and a STOP. -/
inductive BusItem where
  | transfer (quad addr : Nat) (word data : Bytes) (len : Nat)
  | recover (quad : Nat)
  deriving DecidableEq, Repr

/-- The transmit side of port A (R211). -/
structure Egress where
  /-- own frames and forwarded frames that wait -/
  own : List TxFrame := []
  fwd : List TxFrame := []
  /-- instant from reset, in 10^-5 cc, up to which the line is taken -/
  busy : Nat := 0
  /-- a forwarded frame is served next, where both kinds wait -/
  fwdTurn : Bool := false
  /-- the frames in the order in which they begin to leave -/
  line : List TxFrame := []
  deriving DecidableEq, Repr

/-- What the block has put out. -/
structure Out where
  tx : List TxFrame := []
  /-- bytes read wrong from the egress FIFOs, which are sent as read (R361) -/
  flips : List EgressFlip := []
  portA : Egress := {}
  air : List AirItem := []
  /-- what Massif hands the path chains in the open window (R124): path, carrier, subcarrier from the lower edge, value -/
  sym : List (Nat × Nat × Nat × IQ) := []
  /-- what it handed them in the window just closed of a Spur slot (R139): path, sample, value -/
  td : List (Nat × Nat × IQ) := []
  /-- life copies written over the FEM bus: path, word address, bytes (R314) -/
  life : List (Nat × Nat × Bytes) := []
  /-- what the FEM buses have carried, in order (R302, R304) -/
  bus : List BusItem := []
  /-- commands issued to the NVM, in order (R59) -/
  nvm : List NvmCmd := []
  /-- packets that the trace port has sent, in order (R406) -/
  trace : List Pkt := []
  /-- EV lines pulsed by the latest command -/
  events : List Nat := []
  deriving DecidableEq, Repr

/-- What Massif handed the transmit chains in one window (R124, R139), and the paths whose chain input is forced to zero in it (R112). -/
structure TxWin where
  tick : Nat
  /-- C at its tick -/
  c : Nat
  /-- path, carrier, subcarrier from the lower edge, value -/
  sym : List (Nat × Nat × Nat × IQ) := []
  /-- path, sample of the window, value -/
  td : List (Nat × Nat × IQ) := []
  forced : List Nat := []
  deriving DecidableEq, Repr

/-- Every register, buffer and pin but the addressed memories. -/
structure Hw where
  /-- the model's own: number of the next free value (log 9) -/
  free : Nat := 0
  sys : Sys := {}
  pins : Pins := {}
  sta : Sta := {}
  img : Img := {}
  tim : Tim := {}
  mode : Mode := {}
  paths : Vector Path 64 := Vector.replicate 64 {}
  quads : Vector Quad 16 := Vector.replicate 16 {}
  mas : Mas := {}
  /-- the transmit chains' latest windows, newest first -/
  txWins : List TxWin := []
  crn : Crn := {}
  fhl : Fhl := {}
  trl : Trl := {}
  cal : Cal := {}
  lanes : Vector Lane 8 := Vector.replicate 8 {}
  ports : Vector Port 2 := Vector.replicate 2 {}
  tor : Vector Tor 16 := Vector.replicate 16 {}
  smem : Vector SMem 45 := Vector.replicate 45 {}
  fifoParity : Nat := 0
  /-- MEM_FIFO_PARITY has been raised in this frame (R361) -/
  fifoSeen : Bool := false
  dma : Vector Dma 32 := Vector.replicate 32 {}
  /-- channel granted last at each priority, and the cc from reset of the latest burst (R365) -/
  dmaLast : Vector Nat 4 := Vector.replicate 4 31
  dmaAt : Option Nat := none
  cap : CapAll := {}
  lko : Lko := {}
  out : Out := {}
  deriving DecidableEq, Repr

/-- The addressed memories (Table 16.1): the bytes that differ from zero, by global address; the words whose valid bit is set
(R359); and the words stored with a bit error, `true` where it is uncorrectable (R355). -/
structure Mem where
  cells : List Host.Cell := []
  valid : List Nat := []
  bad : List (Nat × Bool) := []
  deriving DecidableEq, Repr

/-- The state of the block. -/
structure State where
  /-- commands waiting, first in first out -/
  pending : List Instr := []
  mem : Mem := {}
  hw : Hw := {}
  deriving DecidableEq, Repr

/-- After reset: power applied and PORESET_N low, stage S0 (R60), every register at its reset value. The engine routes of the
quads reset to their own number (Table 15.17). -/
def State.reset : State :=
  { hw := { quads := ⟨((List.range 16).map fun q => { route := Fin.ofNat 16 q }).toArray, by decide⟩ } }

end Sys2Proof.Machine
end

