-- ==== Sys2Proof/Machine/Ops.lean ====
section
/-! DEFINITION. Shared operations: vectors and lists, counters that saturate (R13), rounding (R84), bytes and fields, access to
the parts of the state, and the SECDED memories (R353 to R360). -/
namespace Sys2Proof.Machine

/-! ### Lists, vectors, numbers -/

/-- Entry `i` of a vector, changed by `f`. -/
def upd {α : Type} {n : Nat} (v : Vector α n) (i : Fin n) (f : α → α) : Vector α n := v.set i.val (f (v[i.val]'i.isLt)) i.isLt

/-- Entry `i` of a vector, a number outside it changing nothing. -/
def updN {α : Type} {n : Nat} (v : Vector α n) (i : Nat) (f : α → α) : Vector α n :=
  if h : i < n then upd v ⟨i, h⟩ f else v

/-- Entry `i`, or `d` outside the vector. -/
def getN {α : Type} {n : Nat} (v : Vector α n) (i : Nat) (d : α) : α := if h : i < n then v[i] else d

/-- `f` over every entry, with its index. -/
def vmapi {α β : Type} {n : Nat} (v : Vector α n) (f : Nat → α → β) : Vector β n :=
  ⟨(v.toList.mapIdx f).toArray, by simp⟩

/-- A vector written out by index. -/
def vofFn {α : Type} (n : Nat) (f : Nat → α) : Vector α n := ⟨((List.range n).map f).toArray, by simp⟩

/-- The value bound to a key. -/
def assoc {κ α : Type} [DecidableEq κ] (k : κ) : List (κ × α) → Option α
  | [] => none
  | (a, v) :: r => if a = k then some v else assoc k r

/-- The key bound to a value, replacing an earlier binding. -/
def assocSet {κ α : Type} [DecidableEq κ] (k : κ) (v : α) : List (κ × α) → List (κ × α)
  | [] => [(k, v)]
  | (a, w) :: r => if a = k then (k, v) :: r else (a, w) :: assocSet k v r

/-- Sum of a list. -/
def sumL : List Nat → Nat
  | [] => 0
  | a :: r => a + sumL r

/-- Sum of a list of integers. -/
def sumZ : List Int → Int
  | [] => 0
  | a :: r => a + sumZ r

/-- Entries at fixed distance: the list cut into runs of `n`, at most `fuel` of them. -/
def chunks {α : Type} (n : Nat) : Nat → List α → List (List α)
  | 0, _ => []
  | _, [] => []
  | f + 1, l => l.take n :: chunks n f (l.drop n)

/-- Least number in a list that passes a test. -/
def least (p : Nat → Bool) : List Nat → Option Nat
  | [] => none
  | a :: r => match least p r with
    | none => if p a then some a else none
    | some b => if p a && a < b then some a else some b

/-- A list sorted by a key, equal keys in their order. -/
def sortBy {α : Type} (key : α → Nat) : List α → List α
  | [] => []
  | a :: r => insertBy' key a (sortBy key r)
where
  /-- insertion before equal keys -/
  insertBy' {α : Type} (key : α → Nat) (x : α) : List α → List α
    | [] => [x]
    | a :: r => if key a < key x then a :: insertBy' key x r else x :: a :: r

/-- Bit `i` of a number. -/
def bit (x i : Nat) : Bool := x.testBit i

/-- `w` bits of a number from bit `lo`. -/
def bits (x lo w : Nat) : Nat := (x >>> lo) % 2 ^ w

/-- A truth value as a bit. -/
def b2n (b : Bool) : Nat := if b then 1 else 0

/-- Fields (position, value) put into one word. -/
def pack : List (Nat × Nat) → Nat
  | [] => 0
  | (lo, v) :: r => v * 2 ^ lo + pack r

/-- Two's complement code of an integer in `w` bits. -/
def code (w : Nat) (x : Int) : Nat := (x % (2 ^ w : Int)).toNat

/-- Integer read from a two's complement code of `w` bits. -/
def signed (w x : Nat) : Int := if x % 2 ^ w < 2 ^ (w - 1) then (x % 2 ^ w : Nat) else (x % 2 ^ w : Nat) - (2 ^ w : Int)

/-- A number kept within bounds. -/
def clampZ (lo hi x : Int) : Int := if x < lo then lo else if hi < x then hi else x

/-- A counter of `w` bits advanced, saturating at its maximum (R13). -/
def cnt (w x n : Nat) : Nat := Nat.min (2 ^ w - 1) (x + n)

/-- A 32-bit counter advanced by one. -/
def inc (x : Nat) : Nat := cnt 32 x 1

/-- A 48-bit counter advanced by one. -/
def inc48 (x : Nat) : Nat := cnt 48 x 1

/-- Whole cycles in a span of 10^-5 cc, as a 48-bit counter shows them (R13, R142). -/
def lentCc (x : Nat) : Nat := Nat.min (2 ^ 48 - 1) (x / 100000)

/-- Whether a counter of `w` bits stands at its maximum: the saturated bit of R13 (log 15). -/
def isSat (w x : Nat) : Bool := x == 2 ^ w - 1

/-- Convergent rounding of n / d: to nearest, an exact half to even (R84). -/
def cround (n : Int) (d : Nat) : Int :=
  let q := n / (d : Int)
  let r := 2 * (n % (d : Int))
  if r < d then q else if (d : Int) < r then q + 1 else if q % 2 = 0 then q else q + 1

/-- Convergent rounding of a rational (R84). -/
def croundQ (x : Rat) : Int := cround x.num x.den

/-- Saturation to 16 bits (R84). -/
def sat16 (x : Int) : Int := clampZ (-32768) 32767 x

/-- Ceiling of a quotient. -/
def ceilDiv (a b : Nat) : Nat := (a + b - 1) / b

/-- Smallest power of two at or above `n` and at or above `lo`, itself a power of two. -/
def pow2Above (n lo : Nat) : Nat := go 32 lo
where
  /-- doubling -/
  go : Nat → Nat → Nat
    | 0, p => p
    | f + 1, p => if n ≤ p then p else go f (2 * p)

/-- Logarithm to base 2 of a power of two. -/
def log2 (n : Nat) : Nat := Nat.log2 n

/-- Number of set bits among the lowest `w`. -/
def popcount (w x : Nat) : Nat := ((List.range w).filter fun i => bit x i).length

/-- A rational shown in whole units: itself where it is whole, an open value elsewhere (log 12). -/
def showRat (q : Rat) : Int := if q.den = 1 then q.num else Config.roundRead q

/-- Mean of a list of rationals, 0 of none. -/
def meanQ (l : List Rat) : Rat := if l.length = 0 then 0 else l.foldl (· + ·) 0 / (l.length : Rat)

/-! ### Bytes -/

/-- Little-endian bytes of a number (R10). -/
def le : Nat → Nat → Bytes
  | 0, _ => []
  | w + 1, x => BitVec.ofNat 8 x :: le w (x / 256)

/-- Network byte order. -/
def be (w x : Nat) : Bytes := (le w x).reverse

/-- The number that little-endian bytes spell. -/
def unle : Bytes → Nat
  | [] => 0
  | b :: r => b.toNat + 256 * unle r

/-- `w` bytes at offset `o` as a little-endian number; bytes beyond the end count as zero. -/
def rd (l : Bytes) (o w : Nat) : Nat := unle ((l.drop o).take w)

/-- CRC-32 of IEEE 802.3 (R53). -/
def crc32 (l : Bytes) : Nat := (l.foldl step 0xFFFFFFFF) ^^^ 0xFFFFFFFF
where
  /-- one bit -/
  bit1 : Nat → Nat → Nat
    | 0, c => c
    | n + 1, c => bit1 n (if c % 2 = 1 then (c / 2) ^^^ 0xEDB88320 else c / 2)
  /-- one byte -/
  step (c : Nat) (b : Byte) : Nat := bit1 8 (c ^^^ b.toNat)

/-- CRC-16 of the FEM pages: polynomial 0x1021, initial value 0xFFFF, not reflected (R306). -/
def crc16 (l : Bytes) : Nat := l.foldl step 0xFFFF
where
  /-- one bit -/
  bit1 : Nat → Nat → Nat
    | 0, c => c
    | n + 1, c => bit1 n (if c / 0x8000 % 2 = 1 then ((2 * c) % 0x10000) ^^^ 0x1021 else (2 * c) % 0x10000)
  /-- one byte -/
  step (c : Nat) (b : Byte) : Nat := bit1 8 (c ^^^ (b.toNat * 256))

/-! ### The transmit side of port A (R211) -/

/-- Port by which a frame leaves. -/
def TxFrame.port : TxFrame → Nat
  | .indication p .. => p
  | .ulSection p .. => p
  | .generic p .. => p
  | .rma p .. => p
  | .owd p .. => p
  | .resetResp p .. => p
  | .delayReq .. => 0
  | .forward p .. => p
  | .ptpForward p _ => p
  | .budgetShare .. => 1
/-- A frame forwarded from the other port. -/
def TxFrame.passed : TxFrame → Bool
  | .forward .. => true
  | .ptpForward .. => true
  | _ => false
/-- Bytes of an eCPRI frame, untagged or tagged, with so many after the common header: at least 64 (R180). -/
def frameBytes (tagged : Bool) (n : Nat) : Nat := Nat.max 64 (22 + 4 * b2n tagged + n)
/-- Length of a frame from destination address to frame check sequence. PTP messages fill the shortest frame. -/
def TxFrame.len : TxFrame → Nat
  | .indication _ _ v pl => frameBytes v.isSome pl.length
  | .ulSection _ _ v _ _ _ _ _ _ _ _ _ pl => frameBytes (v != 0xFFFF) (24 + pl.length)
  | .generic _ _ v _ _ pl => frameBytes (v != 0xFFFF) (8 + pl.length)
  | .rma _ _ _ _ _ _ d => frameBytes false (12 + d.length)
  | .owd .. => frameBytes false 20
  | .resetResp .. => frameBytes false 3
  | .delayReq _ _ _ => 64
  | .forward _ b => b.length
  | .ptpForward .. => 64
  | .budgetShare .. => frameBytes false 24

namespace Egress

/-- A frame that leaves by port A waits there. -/
def put (e : Egress) (f : TxFrame) : Egress :=
  if f.port ≠ 0 then e else if f.passed then { e with fwd := e.fwd ++ [f] } else { e with own := e.own ++ [f] }
/-- The frame served next, and what then waits: own and forwarded ones in turn where both kinds wait. Indications, which wait in a
queue of their own, go ahead of other own frames (DESIGN CHOICE, log 104). -/
def pick (e : Egress) (q : List TxFrame) : Option (TxFrame × Egress × List TxFrame) :=
  match q, e.own, e.fwd with
  | [], [], [] => none
  | x :: r, _, [] => some (x, e, r)
  | [], x :: r, [] => some (x, { e with own := r }, [])
  | [], [], y :: g => some (y, { e with fwd := g }, [])
  | x :: r, _, y :: g => some (if e.fwdTurn then (y, { e with fwd := g }, x :: r) else (x, e, r))
  | [], x :: r, y :: g => some (if e.fwdTurn then (y, { e with fwd := g }, []) else (x, { e with own := r }, []))
/-- A frame begins to leave at an instant, and takes the line for the time of its bytes, its preamble and the gap behind it. -/
def start (e : Egress) (rate t : Nat) (f : TxFrame) : Egress :=
  { e with line := e.line ++ [f], busy := Nat.max e.busy t + (f.len + 20) * 8 * 98304 / rate, fwdTurn := !f.passed }
/-- Port A serves the frames that wait, from an instant up to another; second, the indications that wait on. -/
def serve (rate t u : Nat) : Nat → Egress → List TxFrame → Egress × List TxFrame
  | 0, e, q => (e, q)
  | n + 1, e, q =>
    if u ≤ Nat.max e.busy t then (e, q)
    else match e.pick q with
      | none => (e, q)
      | some (f, e, q) => serve rate t u n (e.start rate t f) q

end Egress

/-! ### The state's parts -/

/-- The registers changed, the queue and the memories kept. -/
def State.on (s : State) (f : Hw → Hw) : State := { s with hw := f s.hw }

/-- PAEN of a path driven at `up` cc since reset: a fall adds the span for which it has been high to the frame's (R313). -/
def Path.setPaen (p : Path) (up : Nat) (on : Bool) : Path :=
  { p with paen := on, paenMoved := p.paenMoved || p.paen != on
           fem := { p.fem with paenCc := if p.paen then p.fem.paenCc + (up - p.fem.paenFrom) else p.fem.paenCc, paenFrom := up } }

namespace Hw

/-- Path `n`. -/
def path (h : Hw) (n : Nat) : Path := getN h.paths n {}
/-- Quad `q`. -/
def quad (h : Hw) (q : Nat) : Quad := getN h.quads q {}
/-- Engine `t`. -/
def eng (h : Hw) (t : Nat) : Tor := getN h.tor t {}
/-- Lane `l`. -/
def lane (h : Hw) (l : Nat) : Lane := getN h.lanes l {}
/-- Port `p`. -/
def port (h : Hw) (p : Nat) : Port := getN h.ports p {}
/-- DMA channel `c`. -/
def ch (h : Hw) (c : Nat) : Dma := getN h.dma c {}
/-- Capture set-up `i`. -/
def capS (h : Hw) (i : Nat) : Cap := getN h.cap.setups i {}
/-- The loaded image; an empty one before S2 has passed. -/
def image (h : Hw) : Image := h.img.loaded.getD {}

/-- Path `n` changed. -/
def onPath (h : Hw) (n : Nat) (f : Path → Path) : Hw := { h with paths := updN h.paths n f }
/-- Every path changed, with its number. -/
def onPaths (h : Hw) (f : Nat → Path → Path) : Hw := { h with paths := vmapi h.paths f }
/-- Quad `q` changed. -/
def onQuad (h : Hw) (q : Nat) (f : Quad → Quad) : Hw := { h with quads := updN h.quads q f }
/-- Every quad changed, with its number. -/
def onQuads (h : Hw) (f : Nat → Quad → Quad) : Hw := { h with quads := vmapi h.quads f }
/-- Engine `t` changed. -/
def onTor (h : Hw) (t : Nat) (f : Tor → Tor) : Hw := { h with tor := updN h.tor t f }
/-- Every engine changed. -/
def onTors (h : Hw) (f : Nat → Tor → Tor) : Hw := { h with tor := vmapi h.tor f }
/-- Lane `l` changed. -/
def onLane (h : Hw) (l : Nat) (f : Lane → Lane) : Hw := { h with lanes := updN h.lanes l f }
/-- Port `p` changed. -/
def onPort (h : Hw) (p : Nat) (f : Port → Port) : Hw := { h with ports := updN h.ports p f }
/-- DMA channel `c` changed. -/
def onDma (h : Hw) (c : Nat) (f : Dma → Dma) : Hw := { h with dma := updN h.dma c f }
/-- Capture set-up `i` changed. -/
def onCap (h : Hw) (i : Nat) (f : Cap → Cap) : Hw := { h with cap := { h.cap with setups := updN h.cap.setups i f } }
/-- Fronthaul state changed. -/
def onFhl (h : Hw) (f : Fhl → Fhl) : Hw := { h with fhl := f h.fhl }
/-- Treeline state changed. -/
def onTrl (h : Hw) (f : Trl → Trl) : Hw := { h with trl := f h.trl }
/-- Time state changed. -/
def onTim (h : Hw) (f : Tim → Tim) : Hw := { h with tim := f h.tim }
/-- Start-up state changed. -/
def onSta (h : Hw) (f : Sta → Sta) : Hw := { h with sta := f h.sta }
/-- Calibration state changed. -/
def onCal (h : Hw) (f : Cal → Cal) : Hw := { h with cal := f h.cal }
/-- Massif state changed. -/
def onMas (h : Hw) (f : Mas → Mas) : Hw := { h with mas := f h.mas }
/-- Cairn state changed. -/
def onCrn (h : Hw) (f : Crn → Crn) : Hw := { h with crn := f h.crn }
/-- Pins changed. -/
def onPins (h : Hw) (f : Pins → Pins) : Hw := { h with pins := f h.pins }
/-- A frame sent: it waits for the line of port A, where it leaves there (R211). -/
def send (h : Hw) (f : TxFrame) : Hw := { h with out := { h.out with tx := h.out.tx ++ [f], portA := h.out.portA.put f } }

/-- `f` where `c` holds, nothing elsewhere. -/
def whenB (h : Hw) (c : Bool) (f : Hw → Hw) : Hw := if c then f h else h

/-- `f` for each entry of a list, in order. -/
def each {α : Type} (h : Hw) (l : List α) (f : Hw → α → Hw) : Hw := l.foldl f h

end Hw

/-! ### Regions of the address space (Table 16.1) -/

/-- What lies at a global address. -/
inductive Region where
  | data (t off : Nat)
  | prog (t off : Nat)
  | shared (off : Nat)
  | codebook (off : Nat)
  | dynamic (off : Nat)
  | dpdShadow (off : Nat)
  | dpdActive (off : Nat)
  | capture (off : Nat)
  | observation (off : Nat)
  | unmapped
  deriving DecidableEq, Repr

/-- Offsets of the observation registers region that are mapped: the 21 blocks, the event log and the trace buffer (R393). -/
def obsMapped (o : Nat) : Bool :=
  decide (o < 0x540000) || (decide (0x580000 ≤ o) && decide (o < 0x5A0000)) || (decide (0x600000 ≤ o) && decide (o < 0x680000))

/-- The memory map (Table 16.1, R393). -/
def region (a : Nat) : Region :=
  if 0x10000000 ≤ a ∧ a < 0x10400000 then .data ((a - 0x10000000) / 0x40000) ((a - 0x10000000) % 0x40000)
  else if 0x11000000 ≤ a ∧ a < 0x11100000 then .prog ((a - 0x11000000) / 0x10000) ((a - 0x11000000) % 0x10000)
  else if 0x20000000 ≤ a ∧ a < 0x21000000 then .shared (a - 0x20000000)
  else if 0x30000000 ≤ a ∧ a < 0x30100000 then .codebook (a - 0x30000000)
  else if 0x31000000 ≤ a ∧ a < 0x31040000 then .dynamic (a - 0x31000000)
  else if 0x32000000 ≤ a ∧ a < 0x32180000 then .dpdShadow (a - 0x32000000)
  else if 0x33000000 ≤ a ∧ a < 0x33180000 then .dpdActive (a - 0x33000000)
  else if 0x40000000 ≤ a ∧ a < 0x40800000 then .capture (a - 0x40000000)
  else if 0x80000000 ≤ a ∧ a < 0x81000000 ∧ obsMapped (a - 0x80000000) then .observation (a - 0x80000000)
  else .unmapped

/-- Number m of the SECDED memory that holds an address (Table 16.3). -/
def secded (a : Nat) : Option Nat :=
  match region a with
  | .data t _ => some t
  | .prog t _ => some (16 + t)
  | .shared _ => some 32
  | .codebook o => some (33 + o / 0x40000)
  | .dynamic o => some (37 + o / 0x10000)
  | .capture o => some (41 + o / 0x200000)
  | _ => none

/-- Address of the codebook word half that holds the weight of a beam for a path (R128). -/
def codebookAddr (beam p : Nat) : Nat := 0x30000000 + p / 16 * 0x40000 + (16 * (beam / 2) + p % 16) * 8 + beam % 2 * 4

/-- Address of the dynamic store word half of version slot `v` of ID 4,096 + d for a path (R129). -/
def dynamicAddr (d v p : Nat) : Nat := 0x31000000 + p / 16 * 0x10000 + (16 * d + p % 16) * 8 + v * 4

/-! ### Memory (R355 to R360) -/

namespace Mem

/-- The byte at an address; one that no entry lists reads as zero (R359). -/
def get (m : Mem) (a : Nat) : Byte := (assoc a m.cells).getD 0

/-- A byte put into the canonical list. -/
def insertCell (a : Nat) (b : Byte) : List Host.Cell → List Host.Cell
  | [] => if b = 0 then [] else [(a, b)]
  | (k, v) :: r =>
    if a < k then (if b = 0 then (k, v) :: r else (a, b) :: (k, v) :: r)
    else if a = k then (if b = 0 then r else (a, b) :: r)
    else (k, v) :: insertCell a b r

/-- A number put into a rising list. -/
def insertNum (a : Nat) : List Nat → List Nat
  | [] => [a]
  | k :: r => if a < k then a :: k :: r else if a = k then k :: r else k :: insertNum a r

/-- One byte stored, the protection bits aside. -/
def put (m : Mem) (a : Nat) (b : Byte) : Mem := { m with cells := insertCell a b m.cells }

/-- The bytes of a range dropped to zero and their valid bits and errors cleared. -/
def clear (m : Mem) (a n : Nat) : Mem :=
  { cells := m.cells.filter fun c => !(a ≤ c.1 && c.1 < a + n),
    valid := m.valid.filter fun w => !(a ≤ 8 * w && 8 * w < a + n),
    bad := m.bad.filter fun w => !(a ≤ 8 * w.1 && 8 * w.1 < a + n) }

/-- The stored error of a word: `none` sound or never written, else whether it is uncorrectable. -/
def err (m : Mem) (w : Nat) : Option Bool := if m.valid.contains w then assoc w m.bad else none

/-- The word made sound and valid; an uncorrectable one loses its bytes first (Table 16.5). -/
def freshen (m : Mem) (w : Nat) : Mem :=
  let m := if m.err w = some true then { m with cells := m.cells.filter fun c => c.1 / 8 ≠ w } else m
  { m with valid := insertNum w m.valid, bad := m.bad.filter fun e => e.1 ≠ w }

/-- Bytes written from an address upward, each word freshened (R359, R360). -/
def write (m : Mem) (a : Nat) : Bytes → Mem
  | [] => m
  | b :: r => write ((m.freshen (a / 8)).put a b) (a + 1) r

/-- `n` bytes from an address upward, uncorrectable words reading zero (Table 16.4). -/
def read (m : Mem) (a : Nat) : Nat → Bytes
  | 0 => []
  | n + 1 => (if m.err (a / 8) = some true then 0 else m.get a) :: read m (a + 1) n

/-- The words that a range of bytes touches. -/
def words (a n : Nat) : List Nat := if n = 0 then [] else (List.range ((a + n - 1) / 8 + 1 - a / 8)).map (· + a / 8)

/-- Some word of a range is uncorrectable. -/
def anyUe (m : Mem) (a n : Nat) : Bool := (words a n).any fun w => m.err w == some true

/-- The words that a write of a range covers only in part (R360). -/
def partials (a n : Nat) : List Nat := (words a n).filter fun w => !(decide (a ≤ 8 * w) && decide (8 * w + 8 ≤ a + n))

/-- A failure put into the rising list of stored errors: a second failed bit makes a word uncorrectable (R356). -/
def insertBad (w : Nat) (ue : Bool) : List (Nat × Bool) → List (Nat × Bool)
  | [] => [(w, ue)]
  | (k, v) :: r => if w < k then (w, ue) :: (k, v) :: r else if w = k then (w, true) :: r else (k, v) :: insertBad w ue r

/-- Bits fail in a word: one that no valid bit covers holds nothing that a read checks (R359). -/
def upset (m : Mem) (u : Nat × Bool) : Mem :=
  if m.valid.contains u.1 && (secded (8 * u.1)).isSome then { m with bad := insertBad u.1 u.2 m.bad } else m

/-- A word that is found with an error: valid, with that error stored (R356, R358). -/
def spoil (m : Mem) (w : Nat) (ue : Bool) : Mem :=
  { m with valid := insertNum w m.valid, bad := if m.err w = some true then m.bad else insertBad w ue (m.bad.filter fun e => e.1 ≠ w) }

/-- Keys strictly rising. -/
def rising : List Nat → Bool
  | [] => true
  | [_] => true
  | a :: b :: r => decide (a < b) && rising (b :: r)

/-- The canonical form: addresses strictly rising and no zero byte listed; valid words and stored errors strictly rising. -/
def wf (m : Mem) : Bool :=
  rising (m.cells.map (·.1)) && m.cells.all (fun c => c.2 != 0) && rising m.valid && rising (m.bad.map (·.1))

end Mem

end Sys2Proof.Machine
end

