-- ==== Sys2Proof/Machine/Slots.lean ====
section
/-! DEFINITION. Ticks and time (R8, R184, R256, R257), the slot and epoch expected at a tick (R29, R187), masks and TDD symbols
(R18, R120, R190), carriers (R86) and flows (R186). -/
namespace Sys2Proof.Machine

/-- Ticks per 0.5 ms (Table 0.6). -/
def ticksPerHalf (scs : Nat) : Nat := 7 * 2 ^ scs
/-- Normal window, cc (Table 0.6). -/
def normalLen (scs : Nat) : Nat := if scs = 0 then 70144 else if scs = 1 then 35072 else 17536
/-- Long window, cc (Table 0.6): 512 cc more than a normal one. -/
def longLen (scs : Nat) : Nat := normalLen scs + 512
/-- C(k) on the grid that opens half-subframe h at C = 491,520 × h (R257). -/
def gridC (scs k : Nat) : Nat :=
  491520 * (k / ticksPerHalf scs) +
    (if k % ticksPerHalf scs = 0 then 0 else longLen scs + (k % ticksPerHalf scs - 1) * normalLen scs)
/-- The package time-of-day reading in 2^-16 ns: the whole number of units nearest to C × 200,000 / 3 (R256). -/
def todUnits (c : Nat) : Nat := (400000 * c + 3) / 6
/-- The reading at n twelfths of a cc (R277). -/
def todTwelfths (n : Nat) : Nat := (100000 * n + 9) / 18
/-- Seconds of a reading. -/
def todS (u : Nat) : Nat := u / 65536 / 1000000000
/-- Nanoseconds of a reading. -/
def todNs (u : Nat) : Nat := u / 65536 % 1000000000
/-- Low 32 bits (R184). -/
def low32 (k : Nat) : Nat := k % 4294967296
/-- The tick that a 32-bit field names, as seen from tick `now` (R184); `none` before tick 0. -/
def fullTick (now t : Nat) : Option Nat :=
  let d := signed 32 (code 32 ((t : Int) - now))
  if (now : Int) + d < 0 then none else some ((now : Int) + d).toNat
/-- A time in ns is longer than a span in cc. -/
def nsGt (ns cc : Nat) : Bool := decide (cc * 100000 < ns * 98304)
/-- A span in cc is longer than a time in ns. -/
def ccGt (cc ns : Nat) : Bool := decide (ns * 98304 < cc * 100000)
/-- The cc that cover a time in ns. -/
def ccOfNs (ns : Nat) : Nat := ceilDiv (ns * 98304) 100000

namespace Hw

/-- REF_SCS of the image. -/
def scs (h : Hw) : Nat := h.image.refScs
/-- C of tick k: on the new grid after the step, on the old grid before it (R257). -/
def tickAt (h : Hw) (k : Nat) : Nat := if h.tim.stepped then gridC h.scs k else h.tim.gridBase + gridC h.scs k
/-- Length of window k. -/
def winLen (h : Hw) (k : Nat) : Nat := if k % ticksPerHalf h.scs = 0 then longLen h.scs else normalLen h.scs
/-- Ticks per 10 ms frame (R184). -/
def perFrame (h : Hw) : Nat := 20 * ticksPerHalf h.scs
/-- Tick k is a frame tick (R184). -/
def isFrame (h : Hw) (k : Nat) : Bool := k % h.perFrame == 0
/-- Tick k is a slot tick: 14 symbols make a slot (R190). -/
def isSlotTick (_ : Hw) (k : Nat) : Bool := k % 14 == 0
/-- The first frame tick at or after k. -/
def frameFrom (h : Hw) (k : Nat) : Nat := ceilDiv k h.perFrame * h.perFrame
/-- Smallest number of normal windows whose total length is at least a time in ns. -/
def windowsFor (h : Hw) (ns : Nat) : Nat := ceilDiv (ns * 98304) (normalLen h.scs * 100000)
/-- The tick whose window holds C = c on the grid in force, looked for among the `fuel` ticks from k on. -/
def tickOf (h : Hw) (c : Nat) : Nat → Nat → Nat
  | 0, k => k
  | f + 1, k => if h.tickAt (k + 1) ≤ c then tickOf h c f (k + 1) else k

/-- The MODE_SLOT record of a slot (R40). -/
def slotRec (h : Hw) (n : Nat) : Option Slot := h.image.slots.find? fun r => r.slot == n
/-- The record of the slot in force. -/
def slotNow (h : Hw) : Option Slot := h.mode.slot.bind h.slotRec
/-- The kind of a slot is Foothill. -/
def isFoothill (h : Hw) (n : Nat) : Bool := (h.slotRec n).any fun r => r.kind == 4
/-- Slot changes that are due: tick and slot (R27 to R29, R67). A fallback overrides what shares its tick (R28, R70). -/
def changes (h : Hw) : List (Nat × Nat) :=
  let sel := (h.mode.selects.filter fun m => !m.void).map fun m => (m.tick, m.slot)
  let ann := match h.sta.announced with
    | some (sl, k) => [(k, sl)]
    | none => []
  match h.mode.fallback with
  | some k => sortBy (·.1) (((sel ++ ann).filter fun c => c.1 ≠ k) ++ [(k, 7)])
  | none => sortBy (·.1) (sel ++ ann)
/-- The slot expected at tick k (R29): the latest change at or before k; `none` before slot 7 is known. -/
def expected (h : Hw) (k : Nat) : Option Nat :=
  ((h.changes.filter fun c => c.1 ≤ k).getLast?.map (·.2)).orElse fun _ => h.mode.slot
/-- FLOW_SET instance of a slot. -/
def flowSetOf (h : Hw) (n : Nat) : Option Nat := (h.slotRec n).map (·.flowSet)
/-- Epoch after a change from one slot to another (R43): it advances when the FLOW_SETs differ. The entry into slot 7 keeps 0. -/
def epochAfter (h : Hw) (e : Nat) (old : Option Nat) (new : Nat) : Nat :=
  match old with
  | none => 0
  | some o => if h.flowSetOf o = h.flowSetOf new then e else (e + 1) % 16
/-- The expected epoch E(k) (R187): the epoch in force taken through every change due at or before k. -/
def epochAt (h : Hw) (k : Nat) : Nat :=
  ((h.changes.filter fun c => c.1 ≤ k).foldl (fun (a : Option Nat × Nat) c => (some c.2, h.epochAfter a.2 a.1 c.2))
    (h.mode.slot, h.mode.epoch)).2
/-- The largest EARLY_LIMIT among the slots present (R43). -/
def earlyMax (h : Hw) : Nat := h.image.slots.foldl (fun a r => Nat.max a r.earlyLimit) 0

/-! ### Masks (R18, R120, R132) -/

/-- Path that a quad uses in a Foothill slot, given which paths are retired (Table 1.2). -/
def foothillPath (ret : Nat → Bool) (q : Nat) : Option Nat := ([4 * q, 4 * q + 1, 4 * q + 2, 4 * q + 3].filter fun n => !ret n).head?
/-- The mask bit of a path in force in a slot: the image's mask, in a Foothill slot moved to the path used (R18). DESIGN CHOICE (log
83): in a quad whose four paths are all retired the bit stays on path 4 q; Table 1.2 calls such a quad silent and names no bit. -/
def maskBit (_h : Hw) (sl : Slot) (mask : Nat) (ret : Nat → Bool) (n : Nat) : Bool :=
  if sl.kind == 4 then (foothillPath ret (n / 4)) == some n || (((foothillPath ret (n / 4)) == none) && n % 4 == 0) else bit mask n
/-- Path n is retired. -/
def retired (h : Hw) (n : Nat) : Bool := (h.path n).retired
/-- Number of retired paths. -/
def retiredCount (h : Hw) : Nat := (h.paths.toList.filter (·.retired)).length
/-- Path n transmits in a slot under a retirement state (R120). -/
def enabledTx (h : Hw) (sl : Slot) (ret : Nat → Bool) (n : Nat) : Bool := h.maskBit sl sl.txMask ret n && !ret n
/-- Path n receives in a slot under a retirement state (R120). -/
def enabledRx (h : Hw) (sl : Slot) (ret : Nat → Bool) (n : Nat) : Bool := h.maskBit sl sl.rxMask ret n && !ret n
/-- Path n is enabled for the downlink in the slot in force. -/
def txEnabled (h : Hw) (n : Nat) : Bool := h.slotNow.any fun sl => h.enabledTx sl h.retired n
/-- Path n is enabled for the uplink in the slot in force. -/
def rxEnabled (h : Hw) (n : Nat) : Bool := h.slotNow.any fun sl => h.enabledRx sl h.retired n
/-- The retirement state that will be in force at tick k, as far as it is known (R133). -/
def retiredAt (h : Hw) (k n : Nat) : Bool :=
  let p := h.path n
  if p.retireAt.any fun r => r.1 ≤ k then true
  else if p.restore.any fun r => r.kr.any fun t => t ≤ k && !r.alarm then false
  else p.retired

/-! ### TDD (R190) -/

/-- The pattern set of a slot: the instances from TDD on, up to the first one absent. -/
def tddSet (h : Hw) (sl : Slot) : List Tdd := go 16 sl.tdd
where
  /-- consecutive instances -/
  go : Nat → Nat → List Tdd
    | 0, _ => []
    | f + 1, i => match h.image.tdds.find? fun t => t.inst == i with
      | some t => t :: go f (i + 1)
      | none => []
/-- Symbol code of a quad at tick k in a slot: 0 guard, 1 downlink, 2 uplink. -/
def tddCode (h : Hw) (sl : Slot) (q k : Nat) : Nat :=
  match (h.tddSet sl).find? fun t => bit t.quadMask q with
  | some t => t.codes.getD (k / 14 % t.periodSlots * 14 + k % 14) 0
  | none => 0
/-- Every tick that a symbol spans carries a code in a quad. -/
def symbolIs (h : Hw) (sl : Slot) (q k span c : Nat) : Bool := (List.range span).all fun i => h.tddCode sl q (k + i) == c
/-- The symbol carries a code in some quad. -/
def symbolSome (h : Hw) (sl : Slot) (k span c : Nat) : Bool := (List.range 16).any fun q => h.symbolIs sl q k span c

/-! ### Carriers (R76, R86, R101) -/

end Hw

/-- N_RB of a bandwidth in MHz and a spacing code: the 3GPP FR1 transmission bandwidth configuration (R86; log 16). -/
def nRb (bw scs : Nat) : Option Nat :=
  assoc bw (match scs with
    | 0 => [(5, 25), (10, 52), (15, 79), (20, 106), (25, 133), (30, 160), (35, 188), (40, 216), (45, 242), (50, 270)]
    | 1 => [(5, 11), (10, 24), (15, 38), (20, 51), (25, 65), (30, 78), (35, 92), (40, 106), (45, 119), (50, 133), (60, 162),
            (70, 189), (80, 217), (90, 245), (100, 273)]
    | 2 => [(10, 11), (15, 18), (20, 24), (25, 31), (30, 38), (35, 44), (40, 51), (45, 58), (50, 65), (60, 79), (70, 93),
            (80, 107), (90, 121), (100, 135)]
    | _ => [])
/-- Spacing in Hz of a code (Table 2.2). -/
def scsHz (scs : Nat) : Nat := 15000 * 2 ^ scs
/-- FFT size of a carrier (R86): the smallest power of two N ≥ 1,024 with 0.8 × N × SCS ≥ 12 × N_RB × SCS. -/
def fftSize (nrb : Nat) : Nat := pow2Above (15 * nrb) 1024
/-- Output rate of a preset in Hz (Table 4.3). -/
def presetRate (preset : Nat) : Nat := if preset ≤ 1 then 491520000 else if preset ≤ 3 then 245760000 else 122880000
/-- Frequency word: f/fs × 2^48, an exact half to even, modulo 2^48 (R80, R101, R108). Frequencies in one unit. -/
def ftw (f : Int) (fs : Nat) : Nat := (cround (f * 2 ^ 48) fs % (2 ^ 48 : Int)).toNat
/-- FTW of a receive NCO for an RF centre in half kHz (R80). -/
def rxFtw (rf2 : Nat) : Nat := ftw ((rf2 : Int) - cround rf2 11796480 * 11796480) 11796480
/-- FTW of the span NCO of the transmit chain for a span centre in half kHz (R108). -/
def txSpanFtw (rf2 : Nat) : Nat := ftw ((rf2 : Int) - cround rf2 23592960 * 23592960) 23592960
/-- Lower edge of the lowest carrier, in half kHz. -/
def spanLo (cs : List Carrier) : Nat := match cs with
  | [] => 0
  | c :: r => r.foldl (fun a c => Nat.min a (2 * c.rf - 1000 * c.bw)) (2 * c.rf - 1000 * c.bw)
/-- Upper edge of the highest carrier, in half kHz. -/
def spanHi (cs : List Carrier) : Nat := cs.foldl (fun a c => Nat.max a (2 * c.rf + 1000 * c.bw)) 0
/-- Midpoint of the carrier span, in quarter kHz. -/
def spanMid4 (cs : List Carrier) : Nat := spanLo cs + spanHi cs
/-- FTW of a carrier NCO of the transmit chain (R101), from the RF centre in kHz and the span midpoint in quarter kHz. -/
def txCarrierFtw (rf mid4 : Nat) : Nat := ftw (4 * (rf : Int) - mid4) 5898240
/-- Nyquist zone of a frequency in half kHz (Table 4.2). -/
def rxZone (f2 : Nat) : Nat := if f2 < 5898240 then 1 else if f2 < 11796480 then 2 else 3
/-- Transmit zone of a span centre in quarter kHz (Table 5.4). -/
def txZone (mid4 : Nat) : Nat := if mid4 < 23592960 then 1 else 2

/-- Receive NCO word with the span midpoint, which may be a quarter of a kHz. -/
def rxFtw4 (f4 : Nat) : Nat := ftw ((f4 : Int) - cround f4 23592960 * 23592960) 23592960
/-- Span NCO word from the span midpoint in quarter kHz (R108). -/
def txSpanFtw4 (f4 : Nat) : Nat := ftw ((f4 : Int) - cround f4 47185920 * 47185920) 47185920

/-- Carriers in use of a slot. -/
def Slot.inUse (sl : Slot) : List Carrier := sl.carriers.take sl.nCarriers
/-- Ticks that one symbol of a carrier spans (R122). -/
def Slot.span (sl : Slot) (refScs c : Nat) : Nat := match sl.carriers[c]? with
  | some x => 2 ^ (refScs - x.scs)
  | none => 1
/-- N_RB of a carrier of a slot. -/
def Slot.prbs (sl : Slot) (c : Nat) : Nat := match sl.carriers[c]? with
  | some x => (nRb x.bw x.scs).getD 0
  | none => 0
/-- The slot is of kind Spur. -/
def Slot.isSpur (sl : Slot) : Bool := sl.kind == 2

/-- Spacing of a preamble family in Hz (R163). -/
def familyHz (code : Nat) : Nat := [1250, 3750, 7500, 15000, 30000].getD code 1250
/-- Repetition period of a family in cc (Table 8.2). -/
def repPeriod (f : Family) : Nat :=
  if f.kind = 2 then f.root * (4 * f.cs + 1) * (Config.fc / familyHz f.scs) / 4 else Config.fc / familyHz f.scs
/-- Blocks of 64 Scree samples in a window (Table 6.6): two cc per sample. -/
def blocksIn (len : Nat) : Nat := len / 128

namespace Hw

/-! ### Flows (R181, R186) -/

/-- Flows of a FLOW_SET instance. -/
def flowSet (h : Hw) (i : Nat) : List Flow := (assoc i h.image.flows).getD []
/-- Own flows of a slot: those whose PKG_POS is the package's (R181). -/
def ownFlows (h : Hw) (sl : Nat) : List Flow :=
  match h.flowSetOf sl with
  | some i => (h.flowSet i).filter fun f => f.pkgPos == h.sys.pkgPos
  | none => []
/-- The slot whose FLOW_SET is in force: slot 7 before one is (R207). -/
def flowSlot (h : Hw) : Nat := h.mode.slot.getD 7
/-- Own flows of the FLOW_SET in force. -/
def flowsNow (h : Hw) : List Flow := h.ownFlows h.flowSlot
/-- The package's own MAC address (R181). -/
def ownMac (h : Hw) : Option Nat :=
  ((h.image.flows.map (·.2)).flatten.find? fun f => f.pkgPos == h.sys.pkgPos).map (·.srcMac)
/-- SRC_MAC of a position. -/
def macOf (h : Hw) (pos : Nat) : Option Nat := ((h.image.flows.map (·.2)).flatten.find? fun f => f.pkgPos == pos).map (·.srcMac)
/-- The flow with the lowest FLOW_ID that passes a test. -/
def lowestFlow (fs : List Flow) (p : Flow → Bool) : Option Flow := (sortBy (·.id) (fs.filter p)).head?
/-- Forwarding is on: no own flow of the FLOW_SET in force names port B (R210). -/
def fwdOn (h : Hw) : Bool := h.img.loaded.isSome && h.flowsNow.all fun f => f.port != 1
/-- Forwarding is active (R210). -/
def fwdActive (h : Hw) : Bool := h.fwdOn && (h.port 1).linkUp
/-- The transparent clock is active (R272). -/
def tcActive (h : Hw) : Bool := h.fwdOn && (h.port 0).linkUp && (h.port 1).linkUp
/-- Configuration byte of a port (Table 13.1). -/
def portCfg (h : Hw) (p : Nat) : Nat := h.image.pkg.portCfg.getD p 0
/-- TYPE of a port. -/
def portType (h : Hw) (p : Nat) : Nat := bits (h.portCfg p) 0 2
/-- Line rate of a port in Gb/s. -/
def lineRate (h : Hw) (p : Nat) : Nat := if h.portType p = 2 then 200 else 100
/-- Fixed ingress delay of a port in cc (Table 13.3). -/
def ingressCc (h : Hw) (p : Nat) : Nat := if h.portType p = 2 then 140 else if bit (h.portCfg p) 2 then 128 else 30
/-- Fixed egress delay of a port in cc (Table 13.3). -/
def egressCc (h : Hw) (p : Nat) : Nat := if h.portType p = 2 then 60 else if bit (h.portCfg p) 2 then 68 else 38
/-- The compensation value of R209: the ingress delay in ns of Table 13.3, times 2^16, the hundredths rounded down. -/
def ingressNs16 (h : Hw) (p : Nat) : Nat :=
  (if h.portType p = 2 then 14242 else if bit (h.portCfg p) 2 then 13021 else 3052) * 65536 / 100
/-- MUTE_ON_TOL stops downlink admission (R268). -/
def muting (h : Hw) : Bool := h.image.pkg.muteOnTol == 1 && h.tim.outOfTol

end Hw
end Sys2Proof.Machine
end

