-- ==== Sys2Proof/Machine/Events.lean ====
section
/-! DEFINITION. Alarms, the event log and indications (R205, R207, R398 to R402), event lines and trace (R343, R362, R405), time
passing between commands, and reads of protected memory (R356 to R358). -/
namespace Sys2Proof.Machine
namespace Hw

/-! ### Trace (R404 to R406) -/

/-- Some trace is enabled and runs: from S4 on. -/
def traceOn (h : Hw) : Bool := h.img.loaded.isSome && 4 ≤ h.sta.stage && (h.image.pkg.traceCfg % 4 != 0)
/-- The event trace runs. -/
def traceEv (h : Hw) : Bool := h.traceOn && bit h.image.pkg.traceCfg 1
/-- The program-flow trace of an engine runs. -/
def traceFlow (h : Hw) (t : Nat) : Bool := h.traceOn && bit h.image.pkg.traceCfg 0 && bit h.image.pkg.traceEngines t
/-- The trace stream runs as a FIFO. -/
def traceStream (h : Hw) : Bool := bit h.image.pkg.traceCfg 4
/-- Packets that the 512 KiB buffer holds. -/
def traceRoom : Nat := 32768
/-- cc that a packet takes on TRC_D, 0 with TRC_CLK off: 8 periods (R406). -/
def tracePeriod (h : Hw) : Nat := [0, 64, 40, 24].getD (bits h.image.pkg.traceCfg 2 2) 0
/-- A packet into the trace buffer: a FIFO that loses what finds no room, the OVERFLOW packet ahead of it included, or a ring (R406). -/
def trace (h : Hw) (p : Pkt) : Hw :=
  let l := h.lko
  if h.traceStream then
    let ovf := if l.trcLost = 0 then [] else
      [{ type := 0x7F, source := 0xFF, info := 0, cc := low32 h.tim.c, lo := Nat.min l.trcLost 0xFFFFFFFF, hi := 0 : Pkt }]
    if traceRoom ≤ l.trace.length + ovf.length then { h with lko := { l with trcDropped := inc l.trcDropped, trcLost := l.trcLost + 1 } }
    else
      { h with lko := { l with trace := p :: (ovf ++ l.trace), trcLost := 0, trcCount := l.trcCount + 1 + ovf.length } }
  else { h with lko := { l with trace := (p :: l.trace).take traceRoom, trcCount := l.trcCount + 1 } }
/-- The FIFO drained for `dt` cc (R406). -/
def drainTrace (h : Hw) (dt : Nat) : Hw :=
  if h.traceStream && h.tracePeriod != 0 then
    let l := h.lko
    let n := (l.trcCredit + dt) / h.tracePeriod
    let h : Hw := { h with out := { h.out with trace := h.out.trace ++ (l.trace.drop (l.trace.length - n)).reverse } }
    if l.trace.length ≤ n then { h with lko := { l with trace := [], trcCredit := 0 } }
    else { h with lko := { l with trace := l.trace.take (l.trace.length - n), trcCredit := (l.trcCredit + dt) % h.tracePeriod } }
  else h

/-! ### Event lines (R343, R362) -/

/-- A pulse on a line: every enabled slot that names it latches it, or loses it when it is already pending. -/
def pulse (h : Hw) (line : Nat) : Hw :=
  let h := h.onTors fun _ e =>
    { e with
      evOverrun := cnt 32 e.evOverrun (e.ev.toList.filter fun s => s.enable && s.line == line && s.pending).length
      ev := vmapi e.ev fun _ s => if s.enable && s.line == line then { s with pending := true } else s }
  let h := { h with out := { h.out with events := h.out.events ++ [line] } }
  h.whenB h.traceEv fun h => h.trace { type := 0x10, source := line, info := 0, cc := low32 h.tim.c, lo := 0, hi := 0 }

/-! ### Alarms (R398 to R402) -/

/-- A happening as it is detected: its stage and the open window are latched (R398, R399). -/
def seen (h : Hw) (x : Happening) : Happening := { x with stage := h.sta.stage, window := h.tim.k }
/-- A happening latched for HC0, which takes those of one cc in ascending code and argument (R400). -/
def happen (h : Hw) (x : Happening) : Hw := { h with lko := { h.lko with pend := h.lko.pend ++ [h.seen x] } }
/-- An alarm raised. -/
def alarm (h : Hw) (code : Nat) (arg : Int) (extra : Nat := 0) : Hw := h.happen { code := code, arg := arg, extra := extra }
/-- A state alarm ceased. -/
def cease (h : Hw) (code : Nat) (arg : Int) : Hw := h.happen { code := code, arg := arg, cease := true }
/-- Every raised alarm of a code ceased, whatever its argument. -/
def ceaseAll (h : Hw) (code : Nat) : Hw := h.each (h.lko.raised.filter fun k => k.1 == code) fun h k => h.cease code k.2
/-- The state alarms of Table 18.9. -/
def isState (code : Nat) : Bool :=
  [0x010D, 0x0201, 0x0204, 0x0206, 0x0208, 0x0301, 0x0303, 0x0304, 0x0305, 0x0306, 0x0308, 0x0502, 0x0504, 0x0508, 0x0603, 0x0605,
    0x0901, 0x0902, 0x0903].contains code
/-- Where alarm indications go: the lowest-numbered own flow of the FLOW_SET in force (R207). -/
def alarmDst (h : Hw) : Option Flow := lowestFlow h.flowsNow fun _ => true
/-- Tag control information sent with a flow, `none` untagged (Table 9.3). -/
def tagOf (f : Flow) : Option Nat := if f.vlan = 0xFFFF then none else some f.vlan
/-- VLAN ID of a flow, `none` untagged (R186). -/
def vlanOf (f : Flow) : Option Nat := (tagOf f).map (· % 4096)
/-- An indication element of 8 bytes (Table 9.15). -/
def element (id rc num info : Nat) : Bytes := be 2 id ++ be 2 (rc * 4096 + num) ++ be 4 info
/-- An indication into the refusal queue of 256, or lost (R205, R207). The counter of R189 gives its numbers. -/
def indicate (h : Hw) (dst : Nat) (vlan : Option Nat) (type : Nat) (els : List Bytes) : Hw :=
  if 256 ≤ h.fhl.queue.length then h.onFhl fun f => { f with refusalLost := inc f.refusalLost }
  else
    let n := h.fhl.indCount
    let pl := be 1 n ++ be 1 type ++ be 1 n ++ be 1 els.length ++ els.flatten
    h.onFhl fun f => { f with queue := f.queue ++ [.indication 0 dst vlan pl], indCount := (n + 1) % 256 }
/-- The indication of an alarm (R207). -/
def sendAlarm (h : Hw) (x : Happening) : Hw :=
  match h.alarmDst with
  | none => h
  | some f =>
    let id := match x.ctx with
      | some (e, _, _) => e
      | none => 0xFFFF
    let al := element id (b2n x.cease) 0x800 (x.code * 65536 + code 16 x.arg)
    let cx := match x.ctx with
      | some (_, fl, sq) => [element id 0 0x4FE (fl * 2 ^ 24 + sq * 2 ^ 16 + 0xFF00)]
      | none => []
    let tk := match x.tick with
      | some t => [element id 0 0x4FF (low32 t)]
      | none => []
    h.indicate f.dstMac (tagOf f) 0x00 ([al] ++ cx ++ tk)
/-- An entry of the event log (Table 18.4, R399): the stamp is the time of day of the happening (log 17). -/
def logEntry (h : Hw) (x : Happening) (sent : Bool) : Hw :=
  let l := h.lko
  let s := x.stage
  let e : LogEnt :=
    { number := low32 l.written, code := x.code, arg := x.arg, extra := low32 x.extra, cease := x.cease
      timeValid := h.tim.stepped, sent := sent, stage := s, tick := if s < 3 then 0xFFFFFFFF else low32 x.window
      tod := if s < 3 then 0 else todUnits h.tim.c, at_ := h.sta.since }
  { h with lko := { l with log := (e :: l.log).take 4096, written := inc48 l.written } }
/-- What happens goes to the baseband: from S5 on, once port A has had link (R401; log 108). -/
def tells (h : Hw) (x : Happening) : Bool := decide (5 ≤ x.stage) && h.sta.firstLink
/-- HC0 takes one happening (R398, R401): SENT shows that its indication found the queue. -/
def take1 (h : Hw) (x : Happening) : Hw :=
  let key := (x.code, x.arg)
  let dup := isState x.code && (if x.cease then !h.lko.raised.contains key else h.lko.raised.contains key)
  if dup then h
  else
    let sent := h.tells x && h.alarmDst.isSome && decide (h.fhl.queue.length < 256)
    let h := h.logEntry x sent
    let h := h.whenB (h.tells x) fun h => h.sendAlarm x
    if isState x.code then
      { h with lko := { h.lko with raised := if x.cease then h.lko.raised.erase key else h.lko.raised ++ [key] } }
    else if h.img.loaded.isSome && bit h.image.pkg.pinClasses (x.code / 256) then { h with lko := { h.lko with holds := h.lko.holds ++ [h.sta.since] } }
    else h
/-- Order in which HC0 takes happenings of one cc (R400). -/
def order (x : Happening) : Nat := (x.code * 65536 + code 16 x.arg) * 2 + b2n x.cease
/-- ALARM_N as R71 and R402 assert it. -/
def alarmPin (h : Hw) : Bool :=
  h.sta.failed || (h.img.loaded.isSome &&
    (h.lko.raised.any (fun k => bit h.image.pkg.pinClasses (k.1 / 256)) || !h.lko.holds.isEmpty))
/-- ARM_IO at the array head (R384). -/
def armLevel (h : Hw) : Bool :=
  if h.sys.pkgPos = 0 then
    (List.range 32).any fun i => (h.capS i).armed && ((h.image.caps.find? fun c => c.inst == i).any fun c => bit c.sources 6)
  else h.pins.armIo
/-- The end of every command: HC0 takes the happenings in order, and the pins that follow the state take their levels. -/
def settle (h : Hw) : Hw :=
  let xs := sortBy order h.lko.pend
  let h := ({ h with lko := { h.lko with pend := [] } }).each xs take1
  let arm := h.armLevel
  h.onPins fun p => { p with alarm := h.alarmPin, armIo := arm, stat := if h.sta.stage = 0 then 0 else h.sta.stage - 1 }

/-! ### Time passing (R256) -/

/-- Queued indications leave before the queue is lost (R73, R205). -/
def flushQueue (h : Hw) : Hw := { h with out := { h.out with tx := h.out.tx ++ h.fhl.queue }, fhl := { h.fhl with queue := [] } }
/-- Port A has served what waits for it during the `dt` cc that have passed; the indications among it have left (R205, R211). -/
def serveA (h : Hw) (dt : Nat) : Hw :=
  let e := h.out.portA
  let q := h.fhl.queue
  let r := e.serve (h.lineRate 0) ((h.sta.since - dt) * 100000) (h.sta.since * 100000) (q.length + e.own.length + e.fwd.length) q
  { h with out := { h.out with tx := h.out.tx ++ q.take (q.length - r.2.length), portA := r.1 }, fhl := { h.fhl with queue := r.2 } }
/-- Fc runs: from S3 exit on (R63). -/
def clockOn (h : Hw) : Bool := 4 ≤ h.sta.stage
/-- `dt` core cycles pass: C counts, port A serves the frames that wait, the trace stream drains, the seconds of a holdover count. The
events of the command before are over. -/
def elapse (h : Hw) (dt : Nat) : Hw :=
  let h := { h with out := { h.out with events := [] } }
  if dt = 0 then h
  else
    let h := h.onSta fun s => { s with since := s.since + dt }
    let h := h.whenB h.clockOn fun h => h.onTim fun t => { t with c := t.c + dt }
    let up := h.sta.since
    let h := h.onTim fun t => match t.holdFrom with
      | some c0 => { t with holdoverS := Nat.min 0xFFFFFFFF ((up - c0) / Config.fc) }
      | none => t
    let h := (h.serveA dt).onFhl fun f => { f with rmaPending := 0 }
    h.drainTrace dt
/-- cc since reset: the span by which durations are measured. -/
def up (h : Hw) : Nat := h.sta.since
/-- The package time of day now, 2^-16 ns. -/
def now (h : Hw) : Nat := todUnits h.tim.c
/-- An ingress stamp at the PCS: the time now less the deskew of the lane that carries the start block, which R289 holds in 0.5 ns
(R283). -/
def ingressStamp (h : Hw) (l : LaneId) : Int := (h.now : Int) - 32768 * (h.lane l).deskew
/-- The ingress stamp referred to the lane pins (Table 12.2). -/
def atPins (h : Hw) (p : PortId) (l : LaneId) : Int := h.ingressStamp l - todUnits (h.ingressCc p)

/-! ### Reads of protected memory (R356 to R358) -/

/-- A read that finds word `w` correctable (`false`) or uncorrectable (`true`). -/
def noteWord (h : Hw) (w : Nat) (ue : Bool) : Hw :=
  match secded (8 * w) with
  | none => h
  | some m =>
    let sm := getN h.smem m {}
    if ue then
      let first := !sm.ueFrame
      let h := { h with smem := updN h.smem m fun x => { x with ue := inc x.ue, ueAddr := 8 * w, ueTick := low32 h.tim.k, ueFrame := true } }
      h.whenB first fun h => h.alarm 0x0A03 m (8 * w)
    else
      { h with smem := updN h.smem m fun x =>
        let x := { x with corr := inc x.corr }
        if x.rat.any fun r => r.addr == 8 * w then
          { x with rat := x.rat.map fun r => if r.addr == 8 * w then { r with count := Nat.min 65535 (r.count + 1) } else r }
        else if x.rat.length < 16 then { x with rat := x.rat ++ [{ addr := 8 * w, count := 1, tick := low32 h.tim.k }] }
        else { x with ratOvf := inc x.ratOvf } }
/-- A read of `n` bytes from an address: every word it touches is counted once. -/
def noteRead (h : Hw) (m : Mem) (a n : Nat) : Hw :=
  h.each (Mem.words a n) fun h w => match m.err w with
    | some ue => h.noteWord w ue
    | none => h
/-- The merging reads of a partial write (R360). -/
def noteMerge (h : Hw) (m : Mem) (a n : Nat) : Hw :=
  h.each (Mem.partials a n) fun h w => match m.err w with
    | some ue => h.noteWord w ue
    | none => h

/-- Parity errors in a port's FIFOs (R361). -/
def fifoError (h : Hw) (p n : Nat) : Hw :=
  if n = 0 then h
  else
    let first := !h.fifoSeen
    let h := { h with fifoParity := cnt 32 h.fifoParity n, fifoSeen := true }
    h.whenB first fun h => h.alarm 0x0A04 p

end Hw

/-- A next state in which only the registers change. -/
def ok (s : State) (dt : Nat) (f : Hw → Hw) : Host.Outcome State Fault Refusal := .next (s.on fun h => (f (h.elapse dt)).settle)

/-- A next state in which the memories change as well: `f` gets both and gives both. -/
def okM (s : State) (dt : Nat) (f : Hw → Mem → Hw × Mem) : Host.Outcome State Fault Refusal :=
  let r := f (s.hw.elapse dt) s.mem
  .next { s with hw := r.1.settle, mem := r.2 }

end Sys2Proof.Machine
end

