-- ==== Sys2Proof/Machine/Obs.lean ====
section
/-! DEFINITION. The observation space (R391 to R397): the registers of each block in the order of R394, the event log, the trace
buffer, the DPD windows, and reads of any address. -/
namespace Sys2Proof.Machine

/-- A register: its width, its dimensions (last index fastest), and its value by index. -/
structure Reg where
  w : Nat
  dims : List Nat
  rd : Hw → Nat → Nat → Nat

/-- Size of a register in bytes (R394). -/
def regSize (w : Nat) : Nat := if w ≤ 32 then 4 else if w ≤ 64 then 8 else if w ≤ 128 then 16 else pow2Above (ceilDiv w 8) 32
/-- Elements of a register. -/
def regCount (dims : List Nat) : Nat := dims.foldl (· * ·) 1
/-- The register, element and byte at an offset of a block, laid out from `next` on (R394). -/
def regAt : List Reg → Nat → Nat → Option (Reg × Nat × Nat)
  | [], _, _ => none
  | r :: rest, next, o =>
    let sz := regSize r.w
    let base := ceilDiv next sz * sz
    if o < base then none
    else if o < base + sz * regCount r.dims then some (r, (o - base) / sz, (o - base) % sz)
    else regAt rest (base + sz * regCount r.dims) o
/-- Value of element `e` of a register. -/
def regVal (h : Hw) (r : Reg) (e : Nat) : Nat :=
  (match r.dims with
    | [_, b] => r.rd h (e / b) (e % b)
    | _ => r.rd h e 0) % 2 ^ r.w

/-- A plain register of one value. -/
def reg0 (w : Nat) (f : Hw → Nat) : Reg := ⟨w, [], fun h _ _ => f h⟩
/-- A register with one index. -/
def reg1 (w n : Nat) (f : Hw → Nat → Nat) : Reg := ⟨w, [n], fun h i _ => f h i⟩
/-- A saturated bit (R13). -/
def satBit (w x : Nat) : Nat := b2n (isSat w x)
/-- Saturated bits of several counters, lowest bit first. -/
def satBits (w : Nat) (xs : List Nat) : Nat := xs.foldr (fun x a => satBit w x + 2 * a) 0
/-- An option with the value that stands for none. -/
def orElseN (o : Option Nat) (d : Nat) : Nat := o.getD d
/-- A 32-bit signed value, saturated, from a rational (Table 12.10). -/
def s32 (q : Rat) : Nat := code 32 (clampZ (-2147483648) 2147483647 (showRat q))

/-- An extension block that needs no quantum any more: it has been evaluated for every group (R176). -/
def Occasion.keeps (o : Occasion) (b : Nat) : Bool := o.groups == o.noncoh && o.evaluated.contains b
/-- The end of the slot of 500 ns that holds an instant (R323): slots follow one another without a break, and delays are whole slots (R325). -/
def Quad.slotAfter (x : Quad) (u : Nat) : Nat := x.slotFrom + ceilDiv (((u - x.slotFrom) * 100 / 49152 + 1) * 49152) 100
/-- The injected conversion in progress has ended by an instant: its result is still to be written. -/
def Quad.injEnd (x : Quad) (u : Nat) : Quad :=
  if x.injBusy.isSome && decide (x.injTo ≤ u) then { x with injLate := x.injLate ++ x.injBusy.toList, injBusy := none } else x
/-- The injected class at an instant (R327, Table 14.11): a conversion in progress ends with its slot, and the one that waits takes the slot
after that of its request. -/
def Quad.injAt (x : Quad) (u : Nat) : Quad :=
  let x := x.injEnd u
  if x.injBusy.isNone && x.injPending.isSome && decide (x.injFrom ≤ u) then
    ({ x with injBusy := x.injPending, injPending := none, injTo := x.slotAfter x.injFrom } : Quad).injEnd u
  else x
/-- A slot change at C = c stops the collection: no further quantum runs, and the blocks still unfinished are dropped (R176, R178). What has
been stopped stays as it is. -/
def Occasion.stop (o : Occasion) (c : Nat) : Occasion :=
  if o.cut then o else
  { o with cut := true, active := false, stopAt := some c, quanta := [], blocks := o.blocks.filter o.keeps
           extPartial := o.extPartial || o.blocks.any (!o.keeps ·) }

namespace Hw

/-! ### Values that several registers derive -/

/-- Field of the slot in force, 0 before one is. -/
def slotField (h : Hw) (f : Slot → Nat) : Nat := (h.slotNow.map f).getD 0
/-- Carrier c of the slot in force, when it is in use. -/
def carrierNow (h : Hw) (c : Nat) : Option Carrier := h.slotNow.bind fun sl => sl.inUse[c]?
/-- Bytes of the downlink packet buffer that a section holds (Table 9.13): to the weighting deadline or, in Spur, to the air time
of each sample of 4 bytes, one every 2 cc. -/
def heldBytes (h : Hw) (d : DlItem) : Nat :=
  if d.spur then 4 * (64 * (d.start + d.count) - Nat.max (64 * d.start) ((h.tim.c + 2 - h.tickAt d.target) / 2)) else d.bytes
/-- Bytes of the downlink packet buffer held (R203). -/
def bufUsed (h : Hw) : Nat := sumL (h.fhl.dl.map h.heldBytes)
/-- Work area bytes that occasions hold, from their target tick until their report (R175). -/
def workUsed (h : Hw) : Nat := sumL ((h.crn.occasions.filter fun o => o.target ≤ h.tim.k).map (·.bytes))
/-- An occasion holds its contexts: from its target tick to its closing tick (R175). -/
def holdsContexts (h : Hw) (o : Occasion) : Bool := decide (o.target ≤ h.tim.k) && decide (h.tim.k < o.closing)
/-- The occasion and family of a correlator context. -/
def contextOf (h : Hw) (c : Nat) : Option (Occasion × Nat) :=
  match h.crn.occasions.find? fun o => h.holdsContexts o && o.contexts.contains c with
  | some o => some (o, o.families.getD (o.contexts.idxOf c) 0)
  | none => none
/-- Repetitions summed in the current group of an occasion for a family (Table 8.9). -/
def repsInGroup (h : Hw) (o : Occasion) (fam : Nat) : Nat :=
  match h.image.families.find? fun f => f.inst == fam with
  | none => 0
  | some f =>
    let start := h.tickAt o.target * 100000 + if f.kind = 2 then 0 else o.maxDelay * 983040
    let now := o.stopAt.getD h.tim.c
    Nat.min o.coh (Nat.min (o.coh * o.noncoh) ((now * 100000 - start) / (repPeriod f * 100000)) - o.coh * o.groups)
/-- Layer·MHz of the slot in force in a direction (R126): direction 0 down, 1 up. -/
def layerMhz (h : Hw) (dir : Nat) : Nat :=
  match h.slotNow with
  | none => 0
  | some sl =>
    if sl.isSpur then 0
    else
      let pairs := (((h.flowSet sl.flowSet).filter fun f => f.dir == dir).map fun f => (f.carrier, f.layer)).eraseDups
      sumL (pairs.map fun p => ((sl.carriers[p.1]?).map (·.bw)).getD 0)
/-- Least-squares slope of coordinates against indices (R169); 0 where all the indices are one, for which no such slope exists (DESIGN CHOICE,
log 128). -/
def slope (ps : List (Nat × Int)) : Rat :=
  let n : Int := ps.length
  let sx : Int := sumZ (ps.map fun p => (p.1 : Int))
  let sy : Int := sumZ (ps.map (·.2))
  let sxx : Int := sumZ (ps.map fun p => (p.1 : Int) * p.1)
  let sxy : Int := sumZ (ps.map fun p => (p.1 : Int) * p.2)
  let den := n * sxx - sx * sx
  if den = 0 then 0 else ((n * sxy - sx * sy : Int) : Rat) / (den : Rat)
/-- Largest value of a field of GEOMETRY. -/
def geoMax (h : Hw) (f : Geo → Nat) : Nat := h.image.geometry.foldl (fun a g => Nat.max a (f g)) 0
/-- A pitch of the lattice in 0.01 mm, from coordinates in 0.1 mm. -/
def pitch (h : Hw) (f : Geo → Nat × Int) : Nat := code 16 (showRat (slope (h.image.geometry.map f) * 10))
/-- Units held by a capture set-up: bit u when its condition u is in use. -/
def capUnits (h : Hw) (s : Nat) : Nat :=
  match h.image.caps.find? fun c => c.inst == s with
  | some c => if (h.capS s).armed then bits c.sources 0 2 else 0
  | none => 0
/-- FLANK_MASK of a set-up. -/
def capFlanks (h : Hw) (s : Nat) : Nat := ((h.image.caps.find? fun c => c.inst == s).map (·.flankMask)).getD 0
/-- Sample period of a tap in thirds of a cc, under a preset (Tables 17.1, 4.3). -/
def capPer3 (c : CapSetup) (preset : Nat) : Nat :=
  if c.tap = 0 then 6 else if c.tap = 1 then 3 * Config.fc / presetRate preset else 2
/-- Samples that a set-up has written so far into its open area: ahead of the trigger sample, and from it on (R382). -/
def capWritten (h : Hw) (c : CapSetup) (x : Cap) : Nat × Nat :=
  match x.trig, x.readyAt with
  | some t, _ => (t.validPre, Nat.min (c.length - c.pre) ((h.sta.since - t.at_) * 3 / t.per3 + 1))
  | none, some r => (Nat.min c.pre ((h.sta.since - r) * 3 / capPer3 c (h.slotField (·.preset))), 0)
  | none, none => (0, 0)
/-- Bytes of a bank that are not free (R383): those of its records, and what a set-up has written into its open area: 4 a sample and unit,
and the flag words begun. -/
def bankUsed (h : Hw) (f : Nat) : Nat :=
  sumL ((h.cap.recs.filter fun r => r.flanks.contains f).map (·.size)) +
    sumL ((h.image.caps.filter fun c => bit c.flankMask f && (h.capS c.inst).areaOpen).map fun c =>
      let w := h.capWritten c (h.capS c.inst)
      (if c.tap = 4 then 4 else 16) * (4 * (w.1 + w.2) + 8 * (ceilDiv (c.pre + w.2) 64 - (c.pre - w.1) / 64)))
/-- A set-up holding bank f is armed. -/
def bankHeld (h : Hw) (f : Nat) : Bool := (List.range 32).any fun s => (h.capS s).armed && bit (h.capFlanks s) f
/-- DPD_AGE and the word of a bank entry: `act` the active bank, else the shadow (R146). -/
def dpdWord (h : Hw) (n : Nat) (act : Bool) (e : Nat) : Word :=
  let d := (h.path n).dpd
  (assoc e (if act == d.active then d.bank1 else d.bank0)).getD 0

/-! ### The blocks -/

/-- SYS_ (Table 18.3). -/
def sysRegs : List Reg :=
  [reg0 128 fun h => h.sys.dieId.toNat,
   reg0 32 fun h => pack [(0, Config.stepping), (8, h.sys.pkgPos % 4), (10, h.sys.bootSel % 4), (12, b2n h.sys.extTemp)]]

/-- IMG_ (R50, R51). -/
def imgRegs : List Reg :=
  [reg0 32 fun h => h.img.id,
   reg0 32 fun h => let i := h.img
     pack [(0, i.result), (4, i.busMode), (6, b2n i.retried), (7, b2n i.unsignedBoot), (8, b2n i.keyLocked), (9, b2n i.downgraded),
       (10, i.calState), (12, b2n i.calWriteBusy), (16, i.failEntry)],
   reg0 32 fun h => h.img.hcVersion,
   reg0 32 fun _ => Config.hcMin]

/-- STA_ (Table 3.2, R61). -/
def staRegs : List Reg :=
  [reg0 32 fun h => let s := h.sta
     pack [(0, Nat.max 1 s.stage), (4, b2n s.failed), (5, b2n h.tim.stepped), (6, b2n s.announced.isSome),
       (7, ((s.announced.map (·.1)).getD 0) % 8), (10, b2n s.fineLock), (11, b2n (h.paths.toList.any (·.dpd.settling))),
       (12, b2n s.resetCause), (16, s.failAlarm)],
   reg1 32 9 fun h i => match getN h.sta.entry i none with
     | some t => low32 t
     | none => 0xFFFFFFFF]

/-- The listed ADC samples of path p's open window. -/
def adcNow (h : Hw) (p : Nat) : List (Int × Bool) := (((h.path p).adc.find? fun w => w.c == h.tim.tickC).map (·.x)).getD []
/-- OVR_NOW (R90, Table 4.7): a flagged sample of the open window has come. -/
def ovrNow (h : Hw) (p : Nat) : Bool := ((h.adcNow p).take (6 * (h.tim.c - h.tim.tickC))).any (·.2)
/-- RXP_ (Tables 4.6 to 4.8). -/
def rxpRegs : List Reg :=
  [reg1 32 64 fun h n => let p := h.path n
     pack [(0, b2n p.rxOn), (1, b2n p.retired), (2, h.slotField (·.preset)), (5, (h.slotField (·.nCarriers) - 1) % 4),
       (7, b2n p.trimSource), (8, p.rxTrim.tap % 64), (14, code 4 p.rxTrim.int)],
   reg1 32 64 fun h n => let p := h.path n
     pack [(0, b2n (h.ovrNow n)), (1, b2n p.ovrLast), (2, satBit 48 p.ovrSamples), (3, satBit 32 p.ovrEvents), (4, satBit 48 p.fsSamples),
       (5, satBit 32 p.ddcSat), (6, satBit 32 p.fftSat), (16, code 16 p.rxPower)],
   reg1 48 64 fun h n => (h.path n).ovrSamples,
   reg1 32 64 fun h n => (h.path n).ovrEvents,
   reg1 48 64 fun h n => (h.path n).fsSamples,
   reg1 32 64 fun h n => (h.path n).ddcSat,
   reg1 32 64 fun h n => (h.path n).fftSat,
   reg1 48 4 fun h c => match h.carrierNow c with
     | some x => rxFtw (2 * x.rf)
     | none => 0,
   reg1 16 4 fun h c => match h.slotNow, h.carrierNow c with
     | some sl, some x => if sl.isSpur then 0 else fftSize ((nRb x.bw x.scs).getD 0)
     | _, _ => 0]

/-- The tone of a path reaches its output (R115, R268): in S7 and S8, in downlink symbols of an enabled, started path, no trip and no
muting holding. DESIGN CHOICE (log 120): a downlink symbol with no admitted section does not silence the tone, though Table 5.7 lists it
as zero by content. -/
def toneActive (h : Hw) (n : Nat) : Bool :=
  let p := h.path n
  (p.tone.mode == 1 || p.tone.mode == 2) && decide (7 ≤ h.sta.stage) && h.txEnabled n && p.txLive && !h.trl.trip &&
    !h.muting && h.slotNow.any fun sl => h.tddCode sl (n / 4) h.tim.k == 1
/-- TXP_ (Tables 5.9 to 5.12). DESIGN CHOICE (log 94): while PENDING is 1 the tone registers read what was written and is not yet in
force. The package's TXP_SPUR_FCS_BAD and TXP_SPUR_TRUNC follow R13 and have no status word in which a saturated bit could stand
(log 95). -/
def txpRegs : List Reg :=
  [reg1 32 64 fun h n => let p := h.path n
     pack [(0, b2n p.txOn), (1, b2n p.retired), (2, b2n p.started), (3, b2n p.dacMix), (4, p.fsCurrent % 64), (10, b2n p.cfrPlaceB),
       (11, b2n p.dpdBypass), (12, p.txTrim.tap % 64), (18, code 4 p.txTrim.int), (22, p.backoff)],
   reg1 32 64 fun h n => let p := h.path n
     pack [(0, b2n p.mutedTrip), (1, b2n (h.toneActive n)), (2, satBit 32 p.ducSat), (3, satBit 32 p.dacSat),
       (4, satBit 48 p.cfrPeaks), (5, satBit 32 p.cfrMissed), (16, code 16 p.txPower)],
   reg1 32 64 fun h n => let t := (h.path n).tone
     let m := (t.nextCfg.map fun w => w.toNat % 4).getD t.mode
     let a := (t.nextCfg.map fun w => w.toNat / 65536).getD t.amp
     pack [(0, m), (2, b2n (t.nextCfg.isSome || t.nextFtw.isSome)), (16, a)],
   reg1 48 64 fun h n => let t := (h.path n).tone
     (t.nextFtw.getD t.ftw).toNat,
   reg1 32 64 fun h n => (h.path n).ducSat,
   reg1 32 64 fun h n => (h.path n).dacSat,
   reg1 48 64 fun h n => (h.path n).cfrPeaks,
   reg1 32 64 fun h n => (h.path n).cfrMissed,
   reg0 32 fun h => h.fhl.spurFcsBad,
   reg0 32 fun h => h.fhl.spurTrunc,
   reg1 48 4 fun h c => match h.slotNow, h.carrierNow c with
     | some sl, some x => txCarrierFtw x.rf (spanMid4 sl.inUse)
     | _, _ => 0,
   reg0 48 fun h => match h.slotNow with
     | some sl => txSpanFtw4 (spanMid4 sl.inUse)
     | none => 0]

/-- MAS_ (Tables 6.7 to 6.11). -/
def masRegs : List Reg :=
  [reg0 32 fun h => let sp := h.slotNow.any Slot.isSpur
     pack [(0, b2n (h.slotNow.isSome && !sp)), (1, b2n sp), (2, b2n (h.slotField (·.renorm) != 0)), (3, log2 (h.slotField (·.granularity)) % 4),
       (5, h.slotField (·.tdBeams)), (9, h.slotField (·.layersDl)), (15, h.slotField (·.layersUl)), (21, h.mas.retiredLatched)],
   reg0 32 fun h => pack [(0, h.layerMhz 0), (16, h.mas.peakDl)],
   reg0 32 fun h => pack [(0, h.layerMhz 1), (16, h.mas.peakUl)],
   reg0 32 fun h => let m := h.mas
     pack [(0, m.ueBeam), (13, m.uePath), (19, b2n m.ueDyn), (20, m.ueVersion), (21, b2n m.ueValid)],
   reg0 32 fun h => let m := h.mas
     pack [(0, satBits 32 m.dlSat.toList), (4, satBit 32 m.ulSat), (5, satBits 32 m.cbUe.toList), (9, satBits 32 m.dynUe.toList),
       (13, satBit 32 m.timeRefusedDl), (14, satBit 32 m.timeRefusedUl), (15, satBit 48 (lentCc m.lendDl)), (16, satBit 48 (lentCc m.lendUl))],
   reg1 32 4 fun h f => getN h.mas.dlSat f 0,
   reg0 32 fun h => h.mas.ulSat,
   reg1 32 4 fun h f => getN h.mas.cbUe f 0,
   reg1 32 4 fun h f => getN h.mas.dynUe f 0,
   reg0 32 fun h => h.mas.timeRefusedDl,
   reg0 32 fun h => h.mas.timeRefusedUl,
   reg0 48 fun h => lentCc h.mas.lendDl,
   reg0 48 fun h => lentCc h.mas.lendUl,
   ⟨32, [512, 2], fun h d v => match assoc (2 * d + v) h.mas.tags with
     | some t => low32 t
     | none => 0xFFFFFFFF⟩]

/-- DPD_ (Tables 7.5 to 7.12, R161). -/
def dpdRegs : List Reg :=
  [reg1 32 64 fun h n => let d := (h.path n).dpd
     pack [(0, h.slotField (·.dpdMode)), (2, b2n d.active), (3, b2n d.shadowReady), (4, b2n d.switchPending), (5, b2n d.settling),
       (6, b2n (h.image.dpdInit.any fun x => x.1 == n)), (7, b2n d.parityShadow)],
   reg1 32 64 fun _ _ => 0,
   reg1 32 64 fun h n => let d := (h.path n).dpd
     pack [(0, code 16 d.nmse), (16, d.aclr)],
   reg1 32 16 fun h q => let o := (h.quad q).obs
     pack [(0, o.bufSlots), (6, b2n o.enable)],
   reg1 32 16 fun h q => (h.quad q).obs.base,
   reg1 32 16 fun h q => let o := (h.quad q).obs
     pack [(0, o.cur % 4), (2, o.state), (5, b2n o.onCal), (6, b2n o.lost), (7, o.failed), (11, b2n o.ovrLast), (12, o.slot)],
   reg1 32 64 fun h n => (h.path n).dpd.switches,
   reg1 32 64 fun h n => (h.path n).dpd.dropped,
   reg1 32 64 fun h n => (h.path n).dpd.parity,
   reg1 48 16 fun h q => (h.quad q).obs.symbols,
   reg1 32 16 fun h q => (h.quad q).obs.skipped,
   reg1 32 16 fun h q => (h.quad q).obs.ovr,
   reg1 32 16 fun h q => (h.quad q).obs.selFail,
   reg1 32 16 fun h q => (h.quad q).obs.abandoned,
   reg1 32 16 fun h q => let o := (h.quad q).obs
     let d := fun i => (h.path (4 * q + i)).dpd
     pack [(0, satBits 32 ((List.range 4).map fun i => (d i).switches)), (4, satBits 32 ((List.range 4).map fun i => (d i).dropped)),
       (8, satBits 32 ((List.range 4).map fun i => (d i).parity)), (12, satBit 48 o.symbols), (13, satBit 32 o.skipped),
       (14, satBit 32 o.ovr), (15, satBit 32 o.selFail), (16, satBit 32 o.abandoned)],
   reg1 32 64 fun h n => low32 (h.path n).dpd.switchTick,
   reg1 16 64 fun h n => (h.path n).dpd.age]

/-- CRN_ (Tables 8.8 to 8.13). -/
def crnRegs : List Reg :=
  [reg0 32 fun h => pack [(0, sumL ((List.range 4).map fun c => if (h.contextOf c).isSome then 2 ^ c else 0)),
     (4, h.slotField (·.cairn) % 2), (16, h.workUsed / 1024)],
   reg1 32 4 fun h c => match h.contextOf c with
     | some (o, f) => pack [(0, f), (4, b2n o.active), (5, b2n (!o.blocks.isEmpty && !o.cut && !o.failed)), (6, o.groups),
         (11, h.repsInGroup o f)]
     | none => 0,
   reg0 32 fun h => pack [(0, h.geoMax (·.row)), (4, h.geoMax (·.col)),
     (8, b2n (h.image.geometry.any (·.pol == 0) && h.image.geometry.any (·.pol == 1))), (16, h.pitch fun g => (g.col, g.x))],
   reg0 32 fun h => pack [(0, h.crn.lastCount), (16, h.crn.lastStatus)],
   reg0 32 fun h => h.crn.admitted,
   reg0 32 fun h => h.crn.cut,
   reg0 32 fun h => h.crn.refused,
   reg0 48 fun h => h.crn.detections,
   reg0 32 fun h => h.crn.truncated,
   reg0 32 fun h => h.crn.extDone,
   reg0 32 fun h => h.crn.extDropped,
   reg0 32 fun h => h.crn.failed,
   reg1 32 4 fun h c => getN h.crn.tags c 0,
   reg0 32 fun h => h.crn.lastTag,
   reg0 16 fun h => h.pitch fun g => (g.row, g.y),
   reg0 32 fun h => let c := h.crn
     pack [(0, satBits 32 [c.admitted, c.cut, c.refused]), (3, satBit 48 c.detections),
       (4, satBits 32 [c.truncated, c.extDone, c.extDropped, c.failed])]]

/-- FHL_ (Tables 9.17 to 9.20). -/
def fhlRegs : List Reg :=
  [reg0 32 fun h => let f := h.fhl
     pack [(0, h.mode.epoch), (4, b2n (h.changes.any fun c => h.flowSetOf c.2 != h.mode.slot.bind h.flowSetOf && h.mode.slot.isSome)),
       (5, b2n h.fwdOn), (6, b2n h.fwdActive), (7, b2n (decide (256 ≤ f.queue.length))), (8, ceilDiv h.bufUsed 65536), (15, f.ul.length)],
   reg1 32 129 fun h f =>
     let s := getN h.fhl.seqs f {}
     let fl := h.flowsNow.find? fun x => x.id == f
     let act := if f = 128 then decide (5 ≤ h.sta.stage) else fl.isSome && h.mode.slot.isSome
     let dir := if f = 128 then 3 else (fl.map (·.dir)).getD 0
     pack [(0, s.next), (8, b2n s.synced), (9, if f = 128 then 0 else s.nextTx), (17, b2n act), (18, dir), (20, satBit 32 s.gap),
       (21, satBit 32 s.reorder)],
   reg1 48 2 fun h p => getN h.fhl.rxFrames p 0,
   reg1 32 2 fun h p => getN h.fhl.fcsBad p 0,
   reg1 32 2 fun h p => getN h.fhl.oversize p 0,
   reg1 32 2 fun h p => getN h.fhl.otherDropped p 0,
   reg1 32 12 fun h r => getN h.fhl.refused (r + 1) 0,
   reg1 32 129 fun h f => (getN h.fhl.seqs f {}).gap,
   reg1 32 129 fun h f => (getN h.fhl.seqs f {}).reorder,
   reg0 48 fun h => h.fhl.fwdA2b,
   reg0 48 fun h => h.fhl.fwdB2a,
   reg0 32 fun h => h.fhl.fwdDrop,
   reg0 32 fun h => h.fhl.refusalLost,
   reg0 32 fun h => h.fhl.bfpSat,
   reg0 32 fun h => h.fhl.bufParity,
   reg0 32 fun h => h.fhl.rmaReads,
   reg0 32 fun h => h.fhl.owdResp,
   reg0 32 fun h => h.fhl.unsupported,
   reg1 32 2 fun h p => getN h.fhl.undersize p 0,
   reg0 32 fun h => let f := h.fhl
     pack [(0, satBits 48 f.rxFrames.toList), (2, satBits 32 f.fcsBad.toList), (4, satBits 32 f.oversize.toList),
       (6, satBits 32 f.otherDropped.toList), (8, satBits 32 (f.refused.toList.drop 1)), (20, satBits 48 [f.fwdA2b, f.fwdB2a]),
       (22, satBits 32 [f.fwdDrop, f.refusalLost, f.bfpSat, f.bufParity, f.rmaReads, f.owdResp, f.unsupported]),
       (29, satBits 32 f.undersize.toList)]]

/-- TRL_ (Tables 10.9 to 10.15). -/
def trlRegs : List Reg :=
  [reg0 32 fun h => let t := h.trl
     pack [(0, b2n t.trip), (1, b2n t.shareReceived), (2, b2n t.baselineOver), (3, b2n t.sensorFail),
       (4, (h.quads.toList.filter (·.stale)).length), (9, t.tripSensor)],
   reg0 32 fun h => pack [(0, (10 * h.image.pkg.powerCap) % 65536),
     (16, if h.image.pkg.arrayBudget = 0 then 0xFFFF else match h.trl.share with
       | some s => (10 * s) % 65536
       | none => 0x07D0)],
   reg1 32 3 fun h d => pack [(0, getN h.trl.dieCeil d 0 % 65536), (16, code 12 (getN h.trl.dieTemp d 0))],
   reg1 32 3 fun h d => pack [(0, getN h.trl.diePower d 0 % 65536), (16, code 12 (getN h.trl.dieCase d 0))],
   reg1 32 16 fun h q => let x := h.quad q
     pack [(0, x.ceil % 65536), (16, x.factor), (18, b2n x.stale), (19, code 12 x.femTempUsed)],
   reg1 32 5 fun h c => let n := getN h.trl.classNext c none
     pack [(0, n.getD (getN h.trl.classLimit c 0)), (8, b2n n.isSome)],
   reg1 48 5 fun h c => getN h.trl.granted c 0,
   reg1 32 5 fun h c => getN h.trl.skipped c 0,
   reg1 32 7 fun h l => getN h.trl.refusedLevel l 0,
   reg0 32 fun h => h.trl.trips,
   reg0 32 fun h => h.trl.tripLost,
   reg0 32 fun h => let t := h.trl
     pack [(0, satBits 48 t.granted.toList), (5, satBits 32 t.skipped.toList), (10, satBits 32 t.refusedLevel.toList),
       (17, satBits 32 [t.trips, t.tripLost])]]

/-- Mean power of what a run collected from a path, between the smallest and the largest level it was given. -/
def meanPower (c : CalPath) : Int :=
  if c.quanta = 0 then -32768 else clampZ c.powerMin c.powerMax (Config.decibel (c.powerSum / (c.quanta : Rat)))
/-- CAL_PATH_STAT of one side of a path. -/
def calStat (c : CalPath) : Nat :=
  pack [(0, code 16 (meanPower c)), (16, low32 c.samples),
    (48, b2n c.inRun), (49, b2n c.excluded), (50, c.fail)]
/-- A quality word (Table 11.7). -/
def qualWord (q : Quality) : Nat := pack [(0, code 16 q.phase), (16, code 16 q.delay), (32, code 16 q.gain)]

/-- CAL_ (Tables 11.5 to 11.8, R248, R251, R252). -/
def calRegs : List Reg :=
  [reg0 32 fun h => let c := h.cal
     pack [(0, c.state), (3, c.target), (5, c.policy), (6, c.outcome), (8, c.cause), (16, b2n c.adcHeld)],
   reg1 64 64 fun h n => calStat (h.path n).calRx,
   reg1 64 64 fun h n => calStat (h.path n).calTx,
   reg1 64 64 fun h n => qualWord (h.path n).qRx,
   reg1 64 64 fun h n => qualWord (h.path n).qTx,
   reg0 64 fun h => qualWord h.cal.qArrayRx,
   reg0 64 fun h => qualWord h.cal.qArrayTx,
   reg0 32 fun h => h.cal.runs,
   reg0 32 fun h => h.cal.applied,
   reg0 32 fun h => h.cal.notApplied,
   reg0 32 fun h => h.cal.stores,
   reg0 32 fun h => h.cal.ovrDiscarded,
   reg0 32 fun h => h.cal.runTag,
   reg0 32 fun h => low32 h.cal.commitTick,
   reg0 32 fun h => pack [(0, h.cal.spread0 % 65536), (16, h.cal.spread1 % 65536)],
   reg0 32 fun h => let c := h.cal
     satBits 32 [c.runs, c.applied, c.notApplied, c.stores, c.ovrDiscarded],
   reg0 35360 fun h => unle h.cal.mirror]

/-- TIM_ (Tables 12.6 to 12.12, R278, R279). -/
def timRegs : List Reg :=
  [reg0 32 fun h => let t := h.tim
     pack [(0, t.state), (3, b2n t.stepped), (4, b2n h.sta.fineLock), (5, b2n t.outOfTol), (6, b2n h.muting), (7, b2n t.freqLimit),
       (8, b2n h.tcActive), (9, b2n t.twoStep), (16, t.clockClass), (24, Nat.min 255 t.stepsRemoved)],
   reg0 128 fun h => let u := h.now
     pack [(0, u % 65536), (16, todNs u), (48, todS u % 2 ^ 48), (96, low32 h.tim.k)],
   reg1 32 64 fun h n => let c := (h.path n).cmp
     pack [(1, b2n c.armed), (2, b2n c.fired), (3, b2n c.late), (4, b2n c.clearedByStep)],
   reg0 32 fun h => let prog := sumL ((List.range 8).map fun i => if h.image.touts.any (·.pin == i) then 2 ^ i else 0)
     let f := fun (v : Vector Bool 8) => sumL ((List.range 8).map fun i => if getN v i false then 2 ^ i else 0)
     pack [(0, prog), (8, f h.tim.toutMissed), (16, f h.tim.toutLevel)],
   reg0 32 fun h => let t := h.tim
     pack [(0, getN t.tcapLast 0 0), (4, getN t.tcapLast 1 0), (8, b2n (getN t.tcapAny 0 false)), (9, b2n (getN t.tcapAny 1 false))],
   reg0 32 fun h => low32 h.tim.c,
   reg1 32 64 fun h n => (h.path n).cmp.target.toNat,
   reg0 32 fun h => s32 (h.tim.theta),
   reg0 32 fun h => s32 (h.tim.mpd),
   reg0 32 fun h => s32 (h.tim.y),
   reg0 32 fun h => s32 (h.tim.r),
   reg0 64 fun h => h.tim.masterId,
   reg0 16 fun h => code 16 h.tim.utcOffset,
   reg0 64 fun h => code 64 h.tim.stepSize,
   reg0 32 fun h => low32 h.tim.stepTick,
   reg0 32 fun h => code 32 h.tim.delayStep,
   reg0 32 fun h => h.tim.holdoverS,
   ⟨96, [2, 16], fun h i j => let u := getN (getN h.tim.tcap i (Vector.replicate 16 0)) j 0
     pack [(0, u % 65536), (16, todNs u), (48, todS u % 2 ^ 48)]⟩,
   reg0 48 fun h => h.tim.syncRx,
   reg0 48 fun h => h.tim.delayReqTx,
   reg0 48 fun h => h.tim.delayRespRx,
   reg0 32 fun h => h.tim.announceRx,
   reg1 32 2 fun h p => getN h.tim.ptpIgnored p 0,
   reg0 48 fun h => h.tim.tcA2b,
   reg0 48 fun h => h.tim.tcB2a,
   reg0 32 fun h => h.tim.delaySteps,
   reg0 32 fun h => h.tim.losses,
   reg1 32 64 fun h n => (h.path n).cmp.lateCount,
   reg1 32 2 fun h i => getN h.tim.tcapMissed i 0,
   reg0 32 fun h => let t := h.tim
     pack [(0, satBits 48 [t.syncRx, t.delayReqTx, t.delayRespRx]), (3, satBit 32 t.announceRx), (4, satBits 32 t.ptpIgnored.toList),
       (6, satBits 48 [t.tcA2b, t.tcB2a]), (8, satBits 32 [t.delaySteps, t.losses]), (10, satBits 32 t.tcapMissed.toList)],
   reg0 64 fun h => satBits 32 (h.paths.toList.map (·.cmp.lateCount))]

/-- Four taps as signed bytes. -/
def tapWord (taps : List Int) (j : Nat) : Nat :=
  pack ((List.range 4).map fun i => (8 * i, code 8 (taps.getD (4 * j + i) 0)))
/-- Index of the first lane of a port. -/
def laneBase (p : Nat) : Nat := 4 * p

/-- LAN_ (Tables 13.7 to 13.11, R300, R301). -/
def lanRegs : List Reg :=
  [reg1 32 2 fun h p => let x := h.port p
     let ln := fun i => h.lane (4 * p + i)
     pack [(0, h.portCfg p), (8, b2n x.linkUp), (9, b2n x.aligned), (10, b2n x.localFault), (11, b2n x.remoteFault),
       (12, b2n x.fecDegraded), (13, b2n x.orderFault), (14, pack ((List.range 4).map fun i => (2 * i, ((ln i).number.getD 0) % 4))),
       (22, sumL ((List.range 4).map fun i => if (ln i).inverted then 2 ^ i else 0)), (26, x.downCause)],
   reg1 32 8 fun h l => let x := h.lane l
     pack [(0, x.step), (3, x.adapt), (5, b2n x.snapValid), (6, x.ctle), (11, x.snapCtle), (16, x.deskew)],
   reg1 32 8 fun h l => let x := h.lane l
     pack [(0, x.ew % 128), (8, x.eh % 512), (17, x.ehSnap % 512)],
   reg1 48 2 fun h p => (h.port p).corrCw,
   reg1 32 2 fun h p => (h.port p).uncorrCw,
   reg1 48 8 fun h l => (h.lane l).symbols,
   reg1 32 8 fun h l => (h.lane l).bip,
   reg1 32 2 fun h p => (h.port p).linkDowns,
   reg1 32 8 fun h l => (h.lane l).reverts,
   reg1 32 8 fun h l => (h.lane l).polTries,
   reg1 48 2 fun h p => (h.port p).idleDel,
   reg1 48 2 fun h p => (h.port p).idleIns,
   reg1 32 2 fun h p => (h.port p).elasticErr,
   reg0 32 fun h => let ps := h.ports.toList
     let ls := h.lanes.toList
     pack [(0, satBits 48 (ps.map (·.corrCw))), (2, satBits 32 (ps.map (·.uncorrCw))), (4, satBits 48 (ls.map (·.symbols))),
       (12, satBits 32 (ls.map (·.bip))), (20, satBits 32 (ps.map (·.linkDowns))), (22, b2n (ls.any fun l => isSat 32 l.reverts)),
       (23, b2n (ls.any fun l => isSat 32 l.polTries)), (24, satBits 48 (ps.map (·.idleDel))), (26, satBits 48 (ps.map (·.idleIns))),
       (28, satBits 32 (ps.map (·.elasticErr)))],
   ⟨32, [8, 3], fun h l j => tapWord (h.lane l).taps j⟩,
   ⟨32, [8, 3], fun h l j => tapWord (h.lane l).snapTaps j⟩,
   reg1 32 2 fun h p => low32 (h.port p).linkTime]

/-- FEM_ (Tables 14.12, 14.18, 14.19, R329). -/
def femRegs : List Reg :=
  [reg1 32 64 fun h n => let p := h.path n
     let f := p.fem
     pack [(0, b2n f.id.isSome), (1, b2n p.retired), (2, f.failCause), (5, b2n f.worn), (6, b2n f.alarmPin), (7, b2n f.dirty),
       (8, b2n f.writeFail), (9, b2n f.lifeInvalid), (10, b2n p.restore.isSome), (11, b2n f.couplerSel)],
   reg1 32 16 fun h q => (h.quad q).busNack,
   reg1 32 64 fun h n => (h.path n).fem.lifeWrites,
   reg1 32 16 fun h q => pack [(0, satBit 32 (h.quad q).busNack),
     (1, satBits 32 ((List.range 4).map fun i => (h.path (4 * q + i)).fem.lifeWrites))],
   reg1 64 64 fun h n => ((h.path n).fem.id.map (·.serial)).getD 0,
   reg1 32 64 fun h n => Nat.min 0xFFFFFFFF ((h.path n).fem.used / 2 ^ 40),
   reg1 32 64 fun h n => Nat.min 0xFFFFFFFF (1000 * ((h.path n).fem.id.map (·.rated)).getD 0)]

/-- BIA_ (Table 14.13). -/
def biaRegs : List Reg :=
  [reg1 32 64 fun h n => let b := (h.path n).bias
     pack [(0, b.code), (12, b.range), (14, b2n b.operating), (15, b2n b.brk), (16, b2n b.forcedTo.isSome)]]

/-- HKA_ (Tables 14.14 to 14.19). -/
def hkaRegs : List Reg :=
  [⟨32, [16, 12], fun h q c => let r := getN (h.quad q).hk c {}
     pack [(0, r.mean % 65536), (16, b2n r.ovr), (17, b2n r.mixed), (18, b2n r.paen), (19, b2n r.valid)]⟩,
   reg1 32 16 fun h q => let x := (h.quad q).injAt h.up
     pack [(0, x.hkEntry % 64), (6, b2n x.injPending.isSome), (7, b2n x.injBusy.isSome), (8, b2n x.injRefused), (9, b2n x.calHeld)],
   reg1 32 16 fun h q => (h.quad q).injCtl % 16,
   reg1 32 16 fun h q => let x := h.quad q
     pack [(0, x.injCode % 4096), (12, b2n x.injOvr), (13, x.injChannel % 16), (17, b2n x.injValid)],
   reg1 48 16 fun h q => (h.quad q).conv,
   reg1 32 16 fun h q => (h.quad q).injDone,
   reg1 32 16 fun h q => (h.quad q).injRefusedCnt,
   ⟨32, [16, 12], fun h q c => (getN (h.quad q).hk c {}).count⟩,
   reg1 32 16 fun h q => let x := h.quad q
     pack [(0, satBit 48 x.conv), (1, satBits 32 [x.injDone, x.injRefusedCnt]), (3, satBits 32 (x.hk.toList.map (·.count)))],
   ⟨32, [16, 12], fun h q c => low32 (getN (h.quad q).hk c {}).tick⟩]

/-- TOR_ESTAT (Table 15.14). -/
def estat (e : Tor) : Nat :=
  pack [(0, e.scale.toNat), (2, b2n e.z), (3, b2n e.n), (4, b2n e.c), (5, b2n e.v), (6, b2n e.gx), (7, b2n e.sat), (8, b2n e.ue),
    (9, e.loops.length), (12, e.calls.length), (16, e.evLast)]
/-- TOR_REGS (R352). -/
def torRegsBlock (e : Tor) : Nat :=
  let ws := fun (l : List Word) => (l.map fun w => le 4 w.toNat).flatten
  unle (ws e.d.toList ++ (e.a.toList.map fun a => le 8 (code 64 a.re.toInt) ++ le 8 (code 64 a.im.toInt)).flatten ++
    ws e.p.toList ++ ws e.m.toList ++ ws e.b.toList ++ ws e.l.toList)

/-- TOR_ (Tables 15.13 to 15.19, R352). -/
def torRegs : List Reg :=
  [reg1 32 16 fun h t => let e := h.eng t
     pack [(0, e.state), (2, e.cause), (5, e.code), (13, b2n e.job.isSome), (14, b2n e.abandoned), (16, e.pc % 65536)],
   reg1 32 16 fun h t => estat (h.eng t),
   ⟨32, [16, 8], fun h t k => let s := getN (h.eng t).ev k {}
     pack [(0, s.line), (8, b2n s.enable), (9, b2n s.pending)]⟩,
   reg1 32 16 fun h t => (h.eng t).jobs.length,
   reg1 32 16 fun h t => let e := h.eng t
     pack [(0, e.statNext.getD e.statOffer), (8, b2n e.statNext.isSome)],
   reg1 32 16 fun h q => let x := h.quad q
     pack [(0, (x.routeNext.getD x.route).val), (4, b2n x.routeNext.isSome)],
   reg1 32 4 fun h c => let n := getN h.crn.routeNext c none
     pack [(0, (n.getD (getN h.crn.route c 0)).val), (4, b2n n.isSome)],
   reg1 48 16 fun h t => (h.eng t).cycles,
   reg1 48 16 fun h t => (h.eng t).stalls,
   reg1 32 16 fun h t => (h.eng t).quanta,
   reg1 32 16 fun h t => (h.eng t).abandonedCnt,
   reg1 32 16 fun h t => (h.eng t).mandOverrun,
   reg1 32 16 fun h t => (h.eng t).evOverrun,
   reg1 32 16 fun h t => (h.eng t).storeDropped,
   reg1 32 16 fun h t => (h.eng t).globalUe,
   reg1 32 16 fun h t => let e := h.eng t
     pack [(0, satBits 48 [e.cycles, e.stalls]),
       (2, satBits 32 [e.quanta, e.abandonedCnt, e.mandOverrun, e.evOverrun, e.storeDropped, e.globalUe])],
   reg1 2048 16 fun h t => torRegsBlock (h.eng t)]

/-- DMA_ (Tables 16.14 to 16.17, R371, R372). -/
def dmaRegs : List Reg :=
  [reg1 32 32 fun h c => let s := (h.ch c).sh
     pack [(0, s.srcCount), (12, s.dstCount), (24, s.prio)],
   reg1 32 32 fun h c => b2n (h.ch c).commit,
   reg1 32 32 fun h c => let d := h.ch c
     pack [(0, d.state), (2, d.cause), (5, Nat.min d.srcEntry (d.act.srcCount - 1)), (17, Nat.min d.dstEntry (d.act.dstCount - 1)), (29, d.act.prio)],
   reg1 32 32 fun h c => (h.ch c).lists,
   reg1 32 32 fun h c => (h.ch c).errors,
   reg1 48 32 fun h c => (h.ch c).bytes,
   reg1 32 32 fun h c => (h.ch c).sh.src,
   reg1 32 32 fun h c => (h.ch c).sh.dst,
   reg1 32 32 fun h c => (h.ch c).errAddr,
   reg1 32 32 fun h c => let d := h.ch c
     pack [(0, satBits 32 [d.lists, d.errors]), (2, satBit 48 d.bytes)]]

/-- MEM_ (Tables 16.11 to 16.13, 16.17). -/
def memRegs : List Reg :=
  [⟨96, [45, 16], fun h m e => match (getN h.smem m {}).rat[e]? with
     | some r => pack [(0, r.addr), (32, r.count), (48, r.tick), (80, 1)]
     | none => 0⟩,
   reg1 64 45 fun h m => let x := getN h.smem m {}
     pack [(0, x.ueAddr), (32, x.ueTick)],
   reg1 32 45 fun h m => let x := getN h.smem m {}
     pack [(0, satBits 32 [x.corr, x.ue, x.ratOvf]), (3, b2n (x.rat.length == 16)), (4, if m = 32 then satBit 32 h.fifoParity else 0)],
   reg1 32 45 fun h m => (getN h.smem m {}).corr,
   reg1 32 45 fun h m => (getN h.smem m {}).ue,
   reg1 32 45 fun h m => (getN h.smem m {}).ratOvf,
   reg0 32 fun h => h.fifoParity]

/-- CAP_ (Tables 17.7 to 17.11, R390). -/
def capRegs : List Reg :=
  [reg1 32 32 fun h s => let c := h.capS s
     let st := if !c.armed then 0 else if c.trig.isSome then 3 else if c.readyAt.isSome then 2 else 1
     pack [(0, st), (2, b2n c.rearm), (3, b2n c.fullWait), (4, b2n c.endedFull), (5, h.capFlanks s % 16), (9, h.capUnits s),
       (11, b2n (h.cap.recs.any fun r => r.setup == s && r.stream && !r.left.isEmpty))],
   reg1 32 32 fun h s => let c := h.capS s
     pack [(0, c.lastNo), (16, c.lastHits), (18, c.lastCause), (21, b2n c.lastShort), (22, b2n c.lastValid)],
   reg1 32 4 fun h f => pack [(0, 131072 - ceilDiv (h.bankUsed f) 16), (18, getN h.cap.bankSetup f 0), (23, b2n (h.bankHeld f))],
   reg1 32 32 fun h s => (h.capS s).records,
   reg1 32 32 fun h s => (h.capS s).missedCnt,
   reg1 48 32 fun h s => (h.capS s).streamKib,
   reg1 32 32 fun h s => (h.capS s).resent,
   reg1 32 2 fun h u => getN h.cap.unitHits u 0,
   reg1 32 32 fun h s => let c := h.capS s
     pack [(0, satBits 32 [c.records, c.missedCnt]), (2, satBit 48 c.streamKib), (3, satBit 32 c.resent),
       (4, if s = 0 then satBits 32 h.cap.unitHits.toList else 0)],
   reg1 32 32 fun h s => (h.capS s).deadLast]

/-- LKO_STATUS (Table 18.12). -/
def lkoStatus (h : Hw) : Nat := pack [(0, 1), (1, b2n h.lko.badAddr), (2, b2n h.tim.stepped), (16, h.lko.written % 4096)]

/-- LKO_ (R407). -/
def lkoRegs : List Reg :=
  [reg0 32 lkoStatus,
   reg0 32 fun h => pack [(0, h.image.pkg.traceCfg % 256), (8, h.image.pkg.traceEngines % 65536)],
   reg0 32 fun h => (16 * h.lko.trcCount) % 524288,
   reg0 32 fun h => h.lko.spiReads,
   reg0 32 fun h => h.lko.spiRefused,
   reg0 48 fun h => h.lko.written,
   reg0 32 fun h => h.lko.trcDropped,
   reg0 32 fun h => pack [(0, satBits 32 [h.lko.spiReads, h.lko.spiRefused]), (2, satBit 48 h.lko.written), (3, satBit 32 h.lko.trcDropped)]]

/-- The blocks of Table 18.2, in the order of their index. -/
def blocks : List (List Reg) :=
  [sysRegs, imgRegs, staRegs, rxpRegs, txpRegs, masRegs, dpdRegs, crnRegs, fhlRegs, trlRegs, calRegs, timRegs, lanRegs, femRegs, biaRegs,
    hkaRegs, torRegs, dmaRegs, memRegs, capRegs, lkoRegs]

/-! ### Log, trace and bytes -/

/-- Entries of one cc stand newest first in falling code and argument, a cease above its raise (R400). -/
def logOrder (e : LogEnt) : Nat := 2 ^ 33 - 1 - ((e.code * 65536 + code 16 e.arg) * 2 + b2n e.cease)
/-- The entries of the newest cc, in the order of R400, each with the number of the place it takes; and the older ones. -/
def logRun (l : List LogEnt) : List LogEnt × List LogEnt :=
  let run := l.takeWhile fun e => l.head?.any fun x => x.at_ == e.at_
  (((sortBy logOrder run).zip run).map fun x => { x.1 with number := x.2.number }, l.drop run.length)
/-- The log as the ring shows it (R398, R400). -/
def logShown : Nat → List LogEnt → List LogEnt
  | 0, l => l
  | _, [] => []
  | n + 1, l => (logRun l).1 ++ logShown n (logRun l).2
/-- The 32 bytes of a log entry (Table 18.4). -/
def logBytes (e : LogEnt) : Bytes :=
  le 4 e.number ++ le 2 e.code ++ le 2 (code 16 e.arg) ++ le 4 e.extra ++
    le 1 (b2n e.cease + 2 * b2n e.timeValid + 4 * b2n e.sent) ++ le 1 e.stage ++ le 2 0 ++ le 4 e.tick ++ le 6 (todS e.tod) ++
    le 4 (todNs e.tod) ++ le 2 0
/-- The 16 bytes of a trace packet (Table 18.10). -/
def pktBytes (p : Pkt) : Bytes := le 1 p.type ++ le 1 p.source ++ le 2 p.info ++ le 4 p.cc ++ le 4 p.lo ++ le 4 p.hi
/-- Place, newest first, of ring slot `s` in a ring of `n` slots after `k` writes. -/
def ringPlace (n k s : Nat) : Nat := (k + n - 1 - s) % n
/-- The byte at an offset of the observation registers region; `none` unmapped (R393). -/
def obsByte (h : Hw) (o : Nat) : Option Byte :=
  if o < 0x540000 then
    match blocks[o / 0x40000]? with
    | some rs => match regAt rs 0 (o % 0x40000) with
      | some (r, e, b) => some (BitVec.ofNat 8 (regVal h r e / 256 ^ b))
      | none => some 0
    | none => none
  else if 0x580000 ≤ o ∧ o < 0x5A0000 then
    match (logShown h.lko.log.length h.lko.log)[ringPlace 4096 h.lko.written ((o - 0x580000) / 32)]? with
    | some e => some ((logBytes e).getD ((o - 0x580000) % 32) 0)
    | none => some 0
  else if 0x600000 ≤ o ∧ o < 0x680000 then
    match h.lko.trace[ringPlace traceRoom h.lko.trcCount ((o - 0x600000) / 16)]? with
    | some p => some ((pktBytes p).getD ((o - 0x600000) % 16) 0)
    | none => some 0
  else none
/-- The byte of a DPD window (R146). -/
def dpdByte (h : Hw) (act : Bool) (o : Nat) : Byte :=
  BitVec.ofNat 8 ((h.dpdWord (o / 0x6000) act (o % 0x6000 / 4)).toNat / 256 ^ (o % 4))
/-- The byte at any global address; `none` unmapped. Uncorrectable words read zero (Table 16.4). -/
def spaceByte (h : Hw) (m : Mem) (a : Nat) : Option Byte :=
  match region a with
  | .unmapped => none
  | .observation o => h.obsByte o
  | .dpdShadow o => some (h.dpdByte false o)
  | .dpdActive o => some (h.dpdByte true o)
  | _ => some (if m.err (a / 8) = some true then 0 else m.get a)
/-- `n` bytes from an address upward, unmapped ones reading zero. -/
def spaceBytes (h : Hw) (m : Mem) (a n : Nat) : Bytes := (List.range n).map fun i => (h.spaceByte m (a + i)).getD 0
/-- Some byte of a range is unmapped. -/
def anyUnmapped (h : Hw) (m : Mem) (a n : Nat) : Bool := (List.range n).any fun i => (h.spaceByte m (a + i)).isNone

end Hw
end Sys2Proof.Machine
end

