-- ==== Sys2Proof/Machine/Paths.lean ====
section
/-! DEFINITION. Paths and quads: FEM pages (R306 to R312), FEM failure (R315, R316), the FEM bus (R303), predistorter banks
(R146 to R151), the observation scheduler (R153, R154) and tones (R115). -/
namespace Sys2Proof.Machine

/-! ### FEM pages -/

/-- A valid identity page (R307, Table 14.3). -/
def parseIdentity (b : Bytes) : Option FemId :=
  if b.length = 256 && rd b 0 4 == 0x4D454654 && rd b 4 2 == 1 && rd b 254 2 == crc16 (b.take 254) && decide (rd b 35 1 ≤ 2) then
    some
      { dacFs := if 20 ≤ rd b 11 1 && rd b 11 1 ≤ 40 then rd b 11 1 else 20
        serial := rd b 16 8
        rated := Nat.max 1 (rd b 24 4)
        iRated := Nat.max 1 (rd b 28 2)
        pRated := signed 16 (rd b 30 2)
        gain := signed 16 (rd b 32 2)
        headroom := if rd b 34 1 ≤ 30 then rd b 34 1 else 0
        biasMode := rd b 35 1
        biasNom := Nat.min 4095 (rd b 36 2)
        biasTc := signed 16 (rd b 38 2)
        iOnMin := rd b 40 2
        iOnMax := rd b 42 2
        iOffMax := rd b 44 2
        isnsGain := rd b 46 2
        pdOffset := signed 16 (rd b 48 2)
        pdGain := signed 16 (rd b 50 2)
        reflMax := signed 16 (rd b 52 2) }
  else none

/-- What a valid life copy holds (Table 14.4). -/
structure Life where
  seq : Nat
  used : Nat
  onTime : Nat
  biasedTime : Nat
  tMax : Int
  reflPeak : Int
  flags : Nat
  cause : Nat

/-- A valid life copy of the FEM with a serial number (R308). -/
def parseLife (serial : Nat) (b : Bytes) : Option Life :=
  if b.length = 256 && rd b 0 4 == 0x464C4654 && rd b 4 2 == 1 && rd b 254 2 == crc16 (b.take 254) && rd b 16 8 == serial then
    some { seq := rd b 8 4, used := rd b 12 4, onTime := rd b 24 4, biasedTime := rd b 28 4, tMax := signed 16 (rd b 32 2)
           reflPeak := signed 16 (rd b 34 2), flags := rd b 7 1, cause := rd b 6 1 }
  else none

/-- The newer of the two copies, and whether it is copy A (R308). -/
def newerLife (a b : Option Life) : Option (Life × Bool) :=
  match a, b with
  | some x, some y => if signed 32 (code 32 ((y.seq : Int) - x.seq)) > 0 then some (y, false) else some (x, true)
  | some x, none => some (x, true)
  | none, some y => some (y, false)
  | none, none => none

/-- Units of the stress count per 0.001 h (R313 asks for at least 40 bits). -/
def usedUnit : Nat := 2 ^ 40

/-- USED has reached RATED_SH, in stress-hours (R317). -/
def Fem.isWorn (f : Fem) : Bool := f.id.any fun d => decide (d.rated * 1000 * usedUnit ≤ f.used)

/-- The FEM record after a read of a valid identity page (R311, R312): the newer valid copy gives the life counts, but the USED of a FEM
already known by its serial number continues from the larger of the one held and the one read. -/
def femLoad (f : Fem) (id : FemId) (r : FemRead) : Fem :=
  let same := f.lastSerial == some id.serial
  let l := newerLife (r.lifeA.bind (parseLife id.serial)) (r.lifeB.bind (parseLife id.serial))
  match l with
  | some (x, a) =>
    { f with id := some id, lastSerial := some id.serial, used := if same then Nat.max f.used (x.used * usedUnit) else x.used * usedUnit
             onTime := x.onTime * usedUnit, biasedTime := x.biasedTime * usedUnit, tMax := some x.tMax, reflPeak := some x.reflPeak, seq := x.seq
             newerA := a
             flags := x.flags, pageCause := x.cause, lifeInvalid := false, worn := same && f.worn, dirty := same && f.dirty }
  | none =>
    { f with id := some id, lastSerial := some id.serial, used := if same then f.used else 0, onTime := if same then f.onTime else 0
             biasedTime := if same then f.biasedTime else 0, tMax := if same then f.tMax else none
             reflPeak := if same then f.reflPeak else none, seq := 0, newerA := false, flags := if same then f.flags else 0
             pageCause := if same then f.pageCause else 0, lifeInvalid := true, worn := same && f.worn, dirty := same && f.dirty }

namespace Hw

/-! ### The FEM bus -/

/-- A transaction waits for the bus behind the one in progress, in the order of R303. -/
def busAdd (h : Hw) (q rank n : Nat) : Hw :=
  h.onQuad q fun x => { x with busQueue := if x.busQueue.contains (rank, n) then x.busQueue else match x.busQueue with
    | [] => [(rank, n)]
    | a :: r => a :: sortBy (·.1) (r ++ [(rank, n)]) }
/-- Transfers, or a recovery, on a bus (R302, R304). -/
def busPut (h : Hw) (l : List BusItem) : Hw := { h with out := { h.out with bus := h.out.bus ++ l } }
/-- A transaction that waits is given up; the one in progress is never interrupted (R303). -/
def busLeave (h : Hw) (q rank n : Nat) : Hw :=
  h.onQuad q fun x => match x.busQueue with
    | [] => x
    | a :: r => { x with busQueue := a :: r.erase (rank, n) }
/-- The path whose coupler selection ends first on a bus, if one is under way or waits. -/
def busSelects (h : Hw) (q : Nat) : Option Nat := ((h.quad q).busQueue.find? fun t => t.1 == 1).map (·.2)
/-- A transaction has ended. -/
def busDrop (h : Hw) (q rank n : Nat) : Hw :=
  h.onQuad q fun x => if x.busQueue.contains (rank, n) then { x with busQueue := x.busQueue.erase (rank, n), busTries := 0 } else x

/-! ### Failure (R315, R316) -/

/-- The index of the tick that closes the present window, or that comes next where none is open. -/
def dueTick (h : Hw) : Nat := if h.tim.open_ || h.tim.stepped then h.tim.k + 1 else 0
/-- The FEM of a path fails: PAEN low at once, retirement on the next tick, one life write, at once unless the bus is stuck. -/
def femFail (h : Hw) (n cause : Nat) : Hw :=
  let due := h.dueTick
  let up := h.sta.since
  let h := h.onPath n fun p =>
    let p := p.setPaen up false
    { p with
      disabled := true, retireAt := p.retireAt ++ [(due, cause)]
      fem := { p.fem with failCause := cause, pageCause := cause, flags := p.fem.flags ||| 2, writeDue := true, dirty := true } }
  h.whenB (!(h.quad (n / 4)).busStuck) fun h => h.busAdd (n / 4) 4 n
/-- A failure with the alarm of Table 14.7. -/
def femFailAlarm (h : Hw) (n cause alarmCode : Nat) : Hw := (h.femFail n cause).alarm alarmCode n

/-! ### Bias (R320, R321) -/

/-- The higher of a value and what has been seen. -/
def highest (old : Option Rat) (x : Rat) : Option Rat := some (match old with
  | some y => max y x
  | none => x)
/-- FEM temperature of a quad in 0.1 °C, or its ceiling when its results are stale (R219, R313). -/
def femTempOf (h : Hw) (q : Nat) : Rat := match (h.quad q).femTemp with
  | some t => if 2 < (h.quad q).hkAge then h.image.policy.tFemMax else t
  | none => h.image.policy.tFemMax
/-- Safe level of a path: code and range. -/
def biasSafe (h : Hw) (n : Nat) : Nat × Nat :=
  let w := h.image.policy.biasSafe.getD n 0
  (w % 4096, if bit h.image.policy.biasMode n then 2 else b2n (bit w 12))
/-- Operating level of a path with its FEM: code and range. -/
def biasOp (h : Hw) (n : Nat) (id : FemId) : Nat × Nat :=
  let t : Rat := h.femTempOf (n / 4) / 10 - 25
  ((clampZ 0 4095 (showRat ((id.biasNom : Rat) + (id.biasTc : Rat) * t / 16))).toNat, id.biasMode)
/-- The level a path is to carry. -/
def biasLevel (h : Hw) (n : Nat) (op : Bool) : Nat × Nat :=
  match op, (h.path n).fem.id with
  | true, some id => h.biasOp n id
  | _, _ => h.biasSafe n

/-! ### Predistorter banks -/

/-- Bits of a register under a mask replaced. -/
def mergeBits (old mask val : Nat) : Nat := (old &&& ((2 ^ 128 - 1) ^^^ mask)) ||| (val &&& mask)
/-- DPD_INIT of a path as bank words. -/
def dpdInitOf (h : Hw) (n : Nat) : List (Nat × Word) := (assoc n h.image.dpdInit).getD []
/-- Words of one bank, given as a function of the bank's choice. -/
def setBank (d : Dpd) (b : Bool) (w : List (Nat × Word)) : Dpd := if b then { d with bank1 := w } else { d with bank0 := w }
/-- Words of a bank. -/
def getBank (d : Dpd) (b : Bool) : List (Nat × Word) := if b then d.bank1 else d.bank0
/-- The active bank copied over the shadow; the copy runs until DPD_BANK_COPY_DONE (R148). DESIGN CHOICE (log 122): the stored bytes of an
entry with a parity error are copied with sound parity. -/
def dpdCopy (d : Dpd) : Dpd :=
  { setBank d (!d.active) (getBank d d.active) with
    shadowReady := false, badPar := d.badPar.filter fun x => x.1 == d.active }
/-- A bank switch on tick k (R147, R148); `ref` the slot it is made for (R151). -/
def dpdSwitch (d : Dpd) (k : Nat) (ref : Option Nat) : Dpd :=
  dpdCopy { d with active := !d.active, switchPending := false, posters := [], settling := false, parityShadow := false
                   switches := inc d.switches, switchTick := k, age := 0, refSlot := ref }
/-- DPD_INIT reloaded into both banks with the settling backoff (R151). -/
def dpdReload (d : Dpd) (w : List (Nat × Word)) : Dpd :=
  { d with bank0 := w, bank1 := w, shadowReady := true, settling := true, refSlot := none, badPar := [] }
/-- Entry `e` of a bank given a word. -/
def putEntry (d : Dpd) (b : Bool) (e : Nat) (w : Word) : Dpd :=
  let rest := (getBank d b).filter fun x => x.1 ≠ e
  setBank d b (if w = 0 then rest else sortBy (·.1) ((e, w) :: rest))
/-- The entries of the active bank that hold a byte with a parity error (R150). -/
def badEntries (d : Dpd) : List Nat := ((d.badPar.filter fun x => x.1 == d.active).map (·.2 / 4)).eraseDups
/-- Entry `e` of a bank, as stored. -/
def getEntry (d : Dpd) (b : Bool) (e : Nat) : Word := (assoc e (getBank d b)).getD 0
/-- The DPD_ADAPT quantum that a job is, as 16 times its engine plus its quad (R149); none where it is another job. -/
def dpdKey (t : Nat) (j : Job) : List Nat := if bits j.w0.toNat 0 16 = 0x0100 then [16 * t + bits j.w0.toNat 16 8 % 16] else []
/-- The DPD_ADAPT quantum that engine t works on. -/
def dpdBy (h : Hw) (t : Nat) : List Nat := match (getN h.tor t {}).job with
  | some j => dpdKey t j
  | none => []
/-- A quantum noted among those that wrote or posted. -/
def noted (by_ l : List Nat) : List Nat := by_ ++ l.filter fun x => !by_.contains x
/-- A store into the shadow window: the bits under `mask` of entry `e`, whose bytes it stores with fresh parity, or a dropped write (R146,
R148, R150). -/
def dpdStore (h : Hw) (by_ : List Nat) (n e : Nat) (mask val : Nat) : Hw :=
  h.onPath n fun p =>
    let d := p.dpd
    if !d.shadowReady || d.switchPending then { p with dpd := { d with dropped := inc d.dropped } }
    else
      let b := !d.active
      let d := putEntry d b e (BitVec.ofNat 32 (((getEntry d b e).toNat &&& (0xFFFFFFFF ^^^ mask)) ||| (val &&& mask)))
      { p with dpd := { d with
        writers := noted by_ d.writers
        badPar := d.badPar.filter fun x => !(x.1 == b && x.2 / 4 == e && mask / 256 ^ (x.2 % 4) % 256 == 255) } }
/-- A store into the active window is dropped (R146). -/
def dpdActiveStore (h : Hw) (n : Nat) : Hw := h.onPath n fun p => { p with dpd := { p.dpd with dropped := inc p.dpd.dropped } }
/-- SWITCH written (R147). -/
def dpdRequest (h : Hw) (by_ : List Nat) (n : Nat) : Hw :=
  h.onPath n fun p => { p with dpd := { p.dpd with
    switchPending := true, posters := noted (if by_.isEmpty then [256] else by_) p.dpd.posters, asked := true } }
/-- DPD_QUALITY written (R158): the bits under `mask`. -/
def dpdQuality (h : Hw) (n mask val : Nat) : Hw :=
  h.onPath n fun p =>
    let w := mergeBits (code 16 p.dpd.nmse + 65536 * p.dpd.aclr) mask val
    { p with dpd := { p.dpd with nmse := signed 16 w, aclr := w / 65536 % 65536, rated := p.dpd.rated || mask &&& 0xFFFF != 0 } }
/-- LOAD_INIT written (R151). After three rounds in a row without a switch, the present one among them where the scheduler is in it,
firmware has given the tables up, and DPD_DIVERGED is raised (R159; log 81). -/
def dpdAskInit (h : Hw) (n : Nat) : Hw :=
  let d := (h.path n).dpd
  let o := (h.quad (n / 4)).obs
  let now := o.state == 3 && o.cur == n % 4 && !d.asked
  let h := h.onPath n fun p => { p with dpd := { p.dpd with loadPending := true, badRounds := 0, asked := p.dpd.asked || now } }
  h.whenB (3 ≤ d.badRounds + b2n now) fun h => h.alarm 0x0604 n

/-! ### The observation scheduler -/

/-- The start slot's record. -/
def startRec (h : Hw) : Option Slot := h.slotRec h.image.startSlot
/-- Adaptation runs in S7 for the start slot (R69). -/
def adaptS7 (h : Hw) : Bool := h.sta.stage == 7 && h.startRec.any fun s => s.dpdMode == 1 || s.dpdMode == 2
/-- The scheduler serves paths (R153). -/
def obsServes (h : Hw) : Bool := h.adaptS7 || (7 ≤ h.sta.stage && h.slotNow.any fun s => s.dpdMode == 1 || s.dpdMode == 2)
/-- Path 4q + i may be observed, selection failures aside (R153). -/
def obsEligible (h : Hw) (q i : Nat) : Bool :=
  let n := 4 * q + i
  !h.retired n &&
    (if h.adaptS7 then foothillPath h.retired q == some n && h.startRec.any fun s => bit s.txMask n
     else h.slotNow.any fun s => (s.dpdMode == 1 || s.dpdMode == 2) && h.maskBit s s.txMask h.retired n)
/-- The paths of a quad that may be observed, ascending. -/
def obsList (h : Hw) (q : Nat) : List Nat := (List.range 4).filter (h.obsEligible q)
/-- Selection of path 4q + i begins (R154). -/
def obsSelect (h : Hw) (q i : Nat) : Hw :=
  (h.onQuad q fun x => { x with obs := { x.obs with cur := i, state := 1 } }).busAdd q 1 (4 * q + i)
/-- The scheduler moves on from path `i` of the quad: the next one above it, else a new rotation from the lowest (R153). DESIGN CHOICE
(log 99): where path `i` is the only one left, it is selected anew and settles again. -/
def obsMove (h : Hw) (q i : Nat) : Hw :=
  let o := (h.quad q).obs
  if o.onCal then h.onQuad q fun x => { x with obs := { x.obs with state := 4 } }
  else if !h.obsServes then h.onQuad q fun x => { x with obs := { x.obs with state := 0 } }
  else
    match (h.obsList q).find? fun j => i < j && !bit o.failed j with
    | some j => h.obsSelect q j
    | none => match (h.obsList q).head? with
      | some j => (h.onQuad q fun x => { x with obs := { x.obs with failed := 0 } }).obsSelect q j
      | none => h.onQuad q fun x => { x with obs := { x.obs with state := 0, failed := 0 } }
/-- A selection of the current path has failed for good (R154). -/
def obsFailed (h : Hw) (q : Nat) : Hw :=
  let i := (h.quad q).obs.cur
  let n := 4 * q + i
  let h := h.onQuad q fun x => { x with obs := { x.obs with failed := x.obs.failed ||| 2 ^ i, selFail := inc x.obs.selFail } }
  let h := h.alarm 0x0602 n
  let f := (h.quad q).obs.failed
  if (h.obsList q).all fun j => bit f j then
    (h.onQuad q fun x => { x with obs := { x.obs with state := 0, lost := true } }).alarm 0x0603 q
  else h.obsMove q i
/-- Consecutive rounds at -35 dB or better, once one more has ended (R68): two suffice for good, and a round that has written no NMSE
breaks the row (log 96). -/
def goodNext (d : Dpd) : Nat := if 2 ≤ d.goodRounds then 2 else if d.rated && decide (d.nmse ≤ -3500) then d.goodRounds + 1 else 0
/-- The round on the current path ends (R153), with a switch or without (R159). -/
def obsRoundDone (h : Hw) (q : Nat) : Hw :=
  let o := (h.quad q).obs
  h.whenB (o.state == 1 || o.state == 2 || o.state == 3) fun h =>
    (h.onPath (4 * q + o.cur) fun p => { p with dpd := { p.dpd with
      goodRounds := goodNext p.dpd, rated := false, asked := false, badRounds := if p.dpd.asked then 0 else p.dpd.badRounds + 1 } }).obsMove
        q o.cur

/-! ### Tones (R115) -/

/-- TXP_TONE_CFG written. -/
def toneCfg (h : Hw) (n mask val : Nat) : Hw :=
  h.onPath n fun p =>
    let t := p.tone
    let cur := (t.nextCfg.map (·.toNat)).getD (t.amp * 65536 + t.mode)
    { p with tone := { t with nextCfg := some (BitVec.ofNat 32 (mergeBits cur mask val &&& 0xFFFF0003)) } }
/-- TXP_TONE_FTW written. -/
def toneFtw (h : Hw) (n mask val : Nat) : Hw :=
  h.onPath n fun p =>
    let t := p.tone
    { p with tone := { t with nextFtw := some (BitVec.ofNat 48 (mergeBits (t.nextFtw.getD t.ftw).toNat (mask % 2 ^ 48) val)) } }
/-- Written tone values take effect on a tick. -/
def toneApply (t : Tone) (c : Nat) : Tone :=
  let mode := (t.nextCfg.map fun w => w.toNat % 4).getD t.mode
  let amp := (t.nextCfg.map fun w => w.toNat / 65536).getD t.amp
  let on := t.mode = 1 || t.mode = 2
  let on' := mode = 1 || mode = 2
  if !on && on' then { mode := mode, amp := amp, ftw := t.nextFtw.getD t.ftw, phase := 0, phaseC := c }
  else
    match t.nextFtw with
    | some f => { mode := mode, amp := amp, ftw := f, phase := t.phase + t.ftw * BitVec.ofNat 48 (12 * (c - t.phaseC)), phaseC := c }
    | none => { t with mode := mode, amp := amp, nextCfg := none }

/-! ### Comparators (R259) -/

/-- The target, read as a signed distance from TIM_CC, is zero or negative. -/
def cmpDue (c : Nat) (target : Word) : Bool := decide (signed 32 (code 32 ((target.toNat : Int) - c)) ≤ 0)
/-- A comparator fires. -/
def cmpFire (h : Hw) (n : Nat) : Hw :=
  (h.onPath n fun p => { p with cmp := { p.cmp with armed := false, fired := true } }).pulse (64 + n)
/-- ARM written: the comparator takes the target, and waits or fires at once as LATE. -/
def cmpArm (h : Hw) (n : Nat) : Hw :=
  let t := (h.path n).cmp.target
  if cmpDue h.tim.c t then
    (h.onPath n fun p => { p with cmp := { p.cmp with armedFor := t, late := true, clearedByStep := false, lateCount := inc p.cmp.lateCount } }).cmpFire n
  else h.onPath n fun p => { p with cmp := { p.cmp with armedFor := t, armed := true, fired := false, late := false, clearedByStep := false } }

/-! ### Injected conversions (R327, R328) -/

/-- A request for an injected conversion; `cal` when the calibration run makes it. -/
def injectAsk (h : Hw) (q ch : Nat) (cal : Bool) : Hw :=
  let u := h.up
  let h := h.onQuad q fun x => x.injAt u
  let x := h.quad q
  if (!cal && x.calHeld) || x.injPending.isSome || 12 ≤ ch then
    h.onQuad q fun x => { x with injRefused := true, injRefusedCnt := inc x.injRefusedCnt }
  else h.onQuad q fun x => { x with injPending := some (ch, cal), injFrom := x.slotAfter u, injRefused := false }
/-- The run takes a quad's housekeeping ADC once no injected conversion is pending or in progress, and injects one conversion of
the FEM temperature input, channel 8 (R242). -/
def calTake (h : Hw) (q : Nat) : Hw :=
  let x := (h.quad q).injAt h.up
  if x.calHeld || x.injPending.isSome || x.injBusy.isSome then h
  else (h.onQuad q fun x => { x with calHeld := true }).injectAsk q 8 true
/-- The run has begun and some side still collects (R242). -/
def calCollects (h : Hw) : Bool := h.cal.run.any fun r => r.started && ((r.target != 1 && !r.rxDone) || (r.target != 0 && !r.txDone))

end Hw
end Sys2Proof.Machine
end

