-- ==== Sys2Proof/Machine/Stage.lean ====
section
/-! DEFINITION. Stages (R60, R61, R71) and what a reset leaves (R5, R62). -/
namespace Sys2Proof.Machine

/-- Whole µs in a span of cc. -/
def usOf (cc : Nat) : Nat := cc * 100000 / 98304000

namespace Hw

/-- A stage is entered (R60, R61). -/
def enterStage (h : Hw) (n : Nat) : Hw :=
  h.onSta fun s => { s with stage := n, failed := false, failAlarm := 0, entry := updN s.entry n fun _ => some (Nat.min 0xFFFFFFFE (usOf s.since)) }
/-- The stage is held by a failure (R71). -/
def holdStage (h : Hw) (code : Nat) (arg : Int) (extra : Nat := 0) : Hw :=
  (h.onSta fun s => { s with failed := true, failAlarm := code }).alarm code arg extra

end Hw
end Sys2Proof.Machine
end

