-- ==== Sys2Proof/Machine/Treeline.lean ====
section
/-! DEFINITION. Treeline: ceilings (R216 to R219), charges and rooms (R213 to R215, R220, R221), the budget step of admission
(R223) and the thermal trip (R228, R229). Energies are held in units of 2^-17 nJ, in which every heat share is whole. -/
namespace Sys2Proof.Machine

/-! ### Charges (R214, R220, R221) -/

/-- Units of energy in one nJ. -/
def njUnit : Nat := 131072
/-- Heat of an energy in nJ by the HEAT field (Table 2.7). -/
def heatOf (c : Cost) (e : Nat) : Nat := 2 * (e * if c.heat = 0xFFFF then 65536 else c.heat)
/-- A share of `e` nJ carried up from unit `i` of level `lvl`: 0 path, 1 quad, 2 flank, 3 or 4 no lower unit (R214, R221). -/
def carry (c : Cost) (lvl i e : Nat) : List (Nat × Nat) :=
  let heat := heatOf c e
  let top := [(87, e * njUnit), (88, e * njUnit)]
  if 3 ≤ lvl then top ++ (if c.die = 3 then [(84, heat / 2), (85, heat / 2)] else [(84 + c.die, heat)])
  else
    let p := i * [1, 4, 16].getD lvl 1
    let rf := p / 32
    let d := if c.die = 3 then rf else c.die
    top ++ [(84 + d, heat)] ++
      (if d = rf then (if lvl = 0 then [(p, heat)] else []) ++ (if lvl ≤ 1 then [(64 + p / 4, heat)] else []) ++ [(80 + p / 16, heat)] else [])
/-- The charge of one record for a number of units of a job that concerns some paths. -/
def charge1 (c : Cost) (n : Nat) (paths : List Nat) : List (Nat × Nat) :=
  let tor := if c.torCc = 0 then [] else [(89, n * c.torCc)]
  let at_ := (paths.map fun p => p / [1, 4, 16].getD c.scope 1).eraseDups
  if c.scope ≤ 2 && !at_.isEmpty then
    let each := ceilDiv (n * c.energy) at_.length
    tor ++ (at_.map fun i => carry c c.scope i each).flatten
  else tor ++ carry c 3 0 (n * c.energy)
/-- Jobs that Table 2.8a requires of a slot, BASELINE included. -/
def slotJobs (r : Slot) : List Nat :=
  0 :: ((if r.kind = 2 then [5] else [1, 2]) ++ (if r.kind = 4 then [] else [3, 0x0101]) ++ (if r.cairn = 1 then [4, 0x0102] else []) ++
    (if r.dpdMode = 0 then [] else [0x0100]) ++ [0x0103, 0x0104])
/-- Amount that a list of charges puts on a unit. -/
def onUnit (l : List (Nat × Nat)) (u : Nat) : Nat := sumL ((l.filter fun x => x.1 == u).map (·.2))
/-- Units that a list of charges touches. -/
def touched (l : List (Nat × Nat)) : List Nat := (l.map (·.1)).eraseDups

namespace Hw

/-- Charges of a job under the cost table of a slot (R44, R220). -/
def chargesIn (h : Hw) (slot job n : Nat) (paths : List Nat) : List (Nat × Nat) :=
  if (h.slotRec slot).any fun r => (slotJobs r).contains job then
    ((((assoc slot h.image.costs).getD []).filter fun c => c.job == job).map fun c => charge1 c n paths).flatten
  else []
/-- The slot whose cost table is charged in window k (R215). -/
def costSlot (h : Hw) (k : Nat) : Nat := (h.expected k).getD 7
/-- Charges of a job in window k. -/
def charges (h : Hw) (k job n : Nat) (paths : List Nat) : List (Nat × Nat) := h.chargesIn (h.costSlot k) job n paths

/-! ### Rooms (R213, R215) -/

/-- The array share in force, 0.1 W: 20 W until one has taken effect (R227). -/
def shareNow (h : Hw) : Nat := h.trl.share.getD 200
/-- Ceiling of a unit in 0.01 W (Table 10.1); `none` for an array level that is absent. -/
def ceilOf (h : Hw) (u : Nat) : Option Nat :=
  if u < 64 then some ((h.quad (u / 4)).ceil * 40 / 100)
  else if u < 80 then some (h.quad (u - 64)).ceil
  else if u < 84 then some (getN h.trl.dieCeil ((u - 80) / 2) 0 * 60 / 100)
  else if u < 87 then some (getN h.trl.dieCeil (u - 84) 0)
  else if u = 87 then some (10 * h.image.pkg.powerCap)
  else if h.image.pkg.arrayBudget = 0 then none else some (10 * h.shareNow)
/-- Whole nJ of a ceiling in window k (R213). -/
def ceilNj (h : Hw) (cw k : Nat) : Nat := cw * h.winLen k * 3125 / 307200
/-- What is reserved or granted on a unit in window k. -/
def reserved (h : Hw) (k u : Nat) : Nat := (assoc (k, u) h.trl.res).getD 0
/-- BASELINE of window k on a unit. -/
def baseline (h : Hw) (k u : Nat) : Nat := onUnit (h.charges k 0 1 []) u
/-- Engines that run. -/
def runningEngines (h : Hw) : Nat := (h.tor.toList.filter fun e => e.state == 1 || e.state == 2).length
/-- Engines in the Tor pool of window k (R220). -/
def poolAt (h : Hw) (k : Nat) : Nat := if h.tim.open_ && k ≤ h.tim.k then h.trl.pool else h.runningEngines
/-- room_u(k); a unit without a ceiling has no bound. -/
def room (h : Hw) (k u : Nat) : Option Int :=
  if u = 89 then some ((h.poolAt k * h.winLen k : Nat) - (h.baseline k u : Int) - h.reserved k u)
  else if !h.trl.ceilings then some (-1)
  else (h.ceilOf u).map fun c => (h.ceilNj c k * njUnit : Nat) - (h.baseline k u : Int) - h.reserved k u
/-- Level of a unit (R223): 0 path to 5 array, 6 Tor pool. -/
def levelOf (u : Nat) : Nat :=
  if u < 64 then 0 else if u < 80 then 1 else if u < 84 then 2 else if u < 87 then 3 else if u = 87 then 4 else if u = 88 then 5 else 6
/-- The units of a charge that lack room in window k. -/
def lacking (h : Hw) (k : Nat) (l : List (Nat × Nat)) : List Nat :=
  (touched l).filter fun u => (h.room k u).any fun r => decide (r < (onUnit l u : Int))
/-- A charge reserved or granted in window k (R24). -/
def reserve (h : Hw) (k : Nat) (l : List (Nat × Nat)) : Hw :=
  h.onTrl fun t => { t with res := (touched l).foldl (fun a u => assocSet (k, u) ((assoc (k, u) a).getD 0 + onUnit l u) a) t.res }
/-- The budget step of R201 for charges in several windows: the lowest level that fails, if any. -/
def budgetFails (h : Hw) (ws : List (Nat × List (Nat × Nat))) : Option Nat :=
  least (fun _ => true) (ws.map fun w => (h.lacking w.1 w.2).map levelOf).flatten
/-- A BUDGET refusal counted by its lowest failing level (R223). -/
def countLevel (h : Hw) (l : Nat) : Hw := h.onTrl fun t => { t with refusedLevel := updN t.refusedLevel l inc }

/-! ### Ceilings (R216 to R219) -/

/-- Sensors of die d: 0 North, 1 South, 2 Core (R403, R217). -/
def dieSensors (d : Nat) : List Nat :=
  if d = 2 then (List.range 8).map (· + 24) else (List.range 4).map (· + (16 + 4 * d)) ++ (List.range 8).map (· + 8 * d)
/-- A sensor's reading in 0.1 °C; 108 °C where it gives none (R219). -/
def sensorVal (h : Hw) (s : Nat) : Int := (getN h.trl.sensors s none).getD 1080
/-- T_d in 0.1 °C. -/
def dieHot (h : Hw) (d : Nat) : Int := (dieSensors d).foldl (fun a s => max a (h.sensorVal s)) (-32768)
/-- P_d in W from the heat charged over the frame. -/
def diePowerW (heat : Nat) : Rat := (heat : Rat) / ((njUnit * 10000000 : Nat) : Rat)
/-- θ_d in K/W (Table 10.2). -/
def theta (d : Nat) : Rat := if d = 2 then 1 / 2 else 3 / 5
/-- a_d = e^(-10 ms / τ_d): e^(-1/3) on North and South, e^(-1/2) on Core, to 30 places (log 27). -/
def decay (d : Nat) : Rat :=
  if d = 2 then 606530659712633423603799534991 / 1000000000000000000000000000000
  else 716531310573789250425604096925 / 1000000000000000000000000000000
/-- T_c in °C. -/
def caseTemp (td : Int) (d : Nat) (p : Rat) : Rat := (td : Rat) / 10 - theta d * p
/-- C_d in 0.01 W (R217). -/
def dieCeiling (td : Int) (d : Nat) (p : Rat) : Nat :=
  let tc := caseTemp td d p
  let pm := (108 - tc - decay d * ((td : Rat) / 10 - tc)) / (theta d * (1 - decay d))
  Nat.min (if d = 2 then 2200 else 2600) (pm * 100).floor.toNat
/-- Factor code of a margin in 0.1 K (Table 10.3). -/
def factorOf (m : Rat) : Nat := if 100 ≤ m then 0 else if 50 ≤ m then 1 else if 0 ≤ m then 2 else 3
/-- Housekeeping results of a quad more than two frames old (R219). -/
def hkStale (h : Hw) (q : Nat) : Bool := (h.quad q).femTemp.isNone || 2 < (h.quad q).hkAge
/-- Ceilings of dies and quads; `first` takes P_d as 0 (R216). -/
def setCeilings (h : Hw) (first : Bool) : Hw :=
  let p := fun d => if first then 0 else diePowerW (getN h.trl.heat d 0)
  let h := h.onTrl fun t => { t with ceilings := true, dieCeil := vofFn 3 fun d => dieCeiling (h.dieHot d) d (p d) }
  let max_ := h.image.policy.tFemMax
  h.onQuads fun q x =>
    let f := factorOf (min (((1080 - h.sensorVal q : Int)) : Rat) ((max_ : Rat) - h.femTempOf q))
    { x with factor := f, ceil := getN h.trl.dieCeil (q / 8) 0 * 60 / 100 * [100, 85, 70, 50].getD f 50 / 300 }
/-- What a frame tick reports beside the ceilings: temperatures, powers, stale quads and failed sensors with their alarms, and a
BASELINE above a ceiling (R219, R222). -/
def reportCeilings (h : Hw) (k : Nat) (first : Bool) : Hw :=
  let p := fun d => if first then 0 else diePowerW (getN h.trl.heat d 0)
  let bad := (List.range 32).filter fun s => (getN h.trl.sensors s none).isNone
  let old := h.trl.failedSensors
  let h := h.onTrl fun t => { t with
    dieTemp := vofFn 3 h.dieHot, diePower := vofFn 3 fun d => (showRat (p d * 100)).toNat
    dieCase := vofFn 3 fun d => showRat (caseTemp (h.dieHot d) d (p d) * 10), sensorFail := !bad.isEmpty, failedSensors := bad }
  let h := h.each (bad.filter fun s => !old.contains s) fun h s => h.alarm 0x0903 s
  let h := h.each (old.filter fun s => !bad.contains s) fun h s => h.cease 0x0903 s
  let h := h.each (List.range 16) fun h q =>
    let st := h.hkStale q
    let h := h.onQuad q fun x => { x with stale := st, femTempUsed := showRat (h.femTempOf q) }
    h.whenB (!st) fun h => h.cease 0x0902 q
  let above := ([0, 1, 2, 3, 4].filter fun a => (h.ceilOf (84 + a)).any fun c => decide (h.ceilNj c k * njUnit < h.baseline k (84 + a)))
  (h.onTrl fun t => { t with baselineOver := !above.isEmpty }).each above fun h a => h.alarm 0x0904 a
/-- Heat charged to the dies in a window that closes (R217). -/
def addHeat (h : Hw) (k : Nat) : Hw :=
  let base := h.charges k 0 1 []
  h.onTrl fun t => { t with heat := vofFn 3 fun d => getN t.heat d 0 + onUnit base (84 + d) + h.reserved k (84 + d) }

/-! ### The array's shares (R226, R227) -/

/-- Positions that the image's flows name. -/
def positions (h : Hw) : List Nat := (((h.image.flows.map (·.2)).flatten).map (·.pkgPos)).eraseDups
/-- The four shares of ARRAY_BUDGET, 0.1 W. -/
def shares (h : Hw) : List Nat :=
  let ps := h.positions
  [0, 1, 2, 3].map fun p => if ps.contains p then h.image.pkg.arrayBudget / Nat.max 1 ps.length else 0
/-- The head sends BUDGET_SHARE to each position behind it; its own share is due on the next frame tick. -/
def sendShares (h : Hw) : Hw :=
  if h.sys.pkgPos = 0 && h.image.pkg.arrayBudget != 0 then
    let ss := h.shares
    let h := h.each ((sortBy id h.positions).filter (1 ≤ ·)) fun h p => match h.macOf p with
      | some mac => h.send (.budgetShare mac ss)
      | none => h
    h.onTrl fun t => { t with shareNext := some (ss.getD 0 0) }
  else h

/-! ### The thermal trip (R228, R229) -/

/-- The trip begins, unless one holds: zero at every DAC input, every PAEN low, and what is on air is lost to the trip. -/
def tripNow (h : Hw) (sensor : Nat) : Hw :=
  let tick := if h.tim.open_ then some h.tim.k else none
  let h := h.onTrl fun t => { t with tripHot := true }
  h.whenB (!h.trl.trip) fun h =>
    let lost := (h.out.air.filter fun a => !a.lost).length
    let now := h.sta.since
    let h := h.onTrl fun t => { t with
      trip := true, tripFrom := now, tripSensor := sensor, tripTick := tick.getD 0, trips := inc t.trips
      tripLost := cnt 32 t.tripLost lost }
    let h := h.onPaths fun _ p => { p.setPaen now false with mutedTrip := true }
    let air := h.out.air.map fun a => { a with lost := true }
    let h : Hw := { h with out := { h.out with air := air } }
    h.happen { code := 0x0901, arg := (sensor : Int), tick := tick }

end Hw

/-- A sensor reaches 125 °C (R228). -/
def execThermalTrip (dt : Nat) (sensor : Fin 32) (temp : Int) (s : State) : Host.Outcome State Fault Refusal :=
  ok s dt fun h => h.whenB (1 ≤ h.sta.stage && decide (1250 ≤ temp)) fun h =>
    (h.onTrl fun t => { t with sensors := upd t.sensors sensor fun _ => some temp }).tripNow sensor

end Sys2Proof.Machine
end

