-- ==== Sys2Proof/Machine/Announce.lean ====
section
/-! DEFINITION. Entering slot 7 and the start slot (R67 to R70), and the end of a pin hold (R402). -/
namespace Sys2Proof.Machine
namespace Hw

/-- The paths that condition 2 of R68 counts. -/
def convergePaths (h : Hw) : List Nat :=
  (List.range 64).filter fun n => foothillPath h.retired (n / 4) == some n && h.startRec.any fun s => bit s.txMask n
/-- Those that have not reached -35 dB on two consecutive rounds. -/
def unconverged (h : Hw) : List Nat := h.convergePaths.filter fun n => (h.path n).dpd.goodRounds < 2
/-- Condition 2 of R68; START_SLOT 7 makes none. -/
def converged (h : Hw) : Bool := h.image.startSlot == 7 || h.startRec.any (fun s => s.dpdMode == 0) || h.unconverged.isEmpty
/-- The offset meets the exit condition of S6 (Table 3.1). -/
def offsetGood (h : Hw) : Bool :=
  let t := if h.tim.theta < 0 then -h.tim.theta else h.tim.theta
  h.tim.stepped && h.tim.state == 3 && decide (t ≤ 1000) &&
    (h.image.pkg.muteOnTol != 1 || decide (t ≤ (h.image.pkg.timeTol : Rat)))
/-- A slot entry is announced for the first frame tick at or after k_c + N + 1 (R67). -/
def announce (h : Hw) (slot : Nat) : Hw :=
  let kf := h.frameFrom (h.tim.k + h.windowsFor h.earlyMax + 1)
  (h.onSta fun s => { s with announced := some (slot, kf), k7 := s.k7.orElse fun _ => some kf }).happen
    { code := 0x010C, arg := (slot : Int), extra := low32 kf, tick := some kf }

end Hw

/-- The conditions for slot 7, or for the start slot, are met in the open window (R67, R68, R70, R216). -/
def execSlotEntryAnnounce (dt : Nat) (s : State) : Host.Outcome State Fault Refusal :=
  ok s dt fun h => h.whenB (h.tim.open_ && h.sta.announced.isNone) fun h =>
    if h.sta.stage = 6 then h.whenB h.offsetGood fun h => (h.announce 7).setCeilings true
    else h.whenB (h.sta.stage == 7 && h.sta.fineLock && h.converged) fun h =>
      let over_ := h.startRec.any fun s => decide (s.allowance < h.retiredCount)
      if over_ then
        ((h.onSta fun t => { t with wornAtEntry := true }).alarm 0x0402 (h.retiredCount : Int)).announce 7
      else (h.onSta fun t => { t with wornAtEntry := h.image.startSlot == 7 }).announce h.image.startSlot

/-- Condition 2 of R68 is not met 60 s after fine lock (R70). -/
def execDpdNoConverge (dt : Nat) (s : State) : Host.Outcome State Fault Refusal :=
  ok s dt fun h =>
    let due := h.sta.fineAt.any fun c => decide (c + 60 * Config.fc ≤ h.up)
    h.whenB (h.sta.stage == 7 && h.sta.announced.isNone && due && !h.converged) fun h => h.alarm 0x010D (h.unconverged.length : Int)

/-- 100 ms have passed since an event alarm of a selected class (R402). -/
def execAlarmNHoldEnd (dt : Nat) (s : State) : Host.Outcome State Fault Refusal :=
  ok s dt fun h => h.whenB (h.lko.holds.head?.any fun c => decide (c + 98304000 ≤ h.up)) fun h =>
    { h with lko := { h.lko with holds := h.lko.holds.tail } }

end Sys2Proof.Machine
end

