-- ==== Sys2Proof/Machine/Fem.lean ====
section
/-! DEFINITION. FEM bus, life pages, bias and housekeeping (R302 to R328), the coupler and observation records (R154, R155),
and the stale alarms of R160 and R219. -/
namespace Sys2Proof.Machine

/-! ### What the bus carries -/

/-- The transfers of reads of a FEM's record memory, 32 bytes each at the most (R302, R305). -/
def recordReads (n at_ len : Nat) : List BusItem :=
  (List.range ((len + 31) / 32)).map fun j => .transfer (n / 4) (0x50 + n % 4) (be 2 (at_ + 32 * j)) [] (Nat.min 32 (len - 32 * j))
/-- The read of a FEM's identity page and both life copies (R311). -/
def femReads (n : Nat) : List BusItem := recordReads n 0 768
/-- A STATUS poll (R315, Table 14.5). -/
def statusPoll (n : Nat) : BusItem := .transfer (n / 4) (0x58 + n % 4) [0] [] 1
/-- A write of a life copy (R314): SERIAL is read, the 16 pages are written, and the copy is read back. -/
def lifeTransfers (n at_ : Nat) (b : Bytes) : List BusItem :=
  recordReads n 16 8 ++
    ((List.range 16).map fun j => .transfer (n / 4) (0x50 + n % 4) (be 2 (at_ + 16 * j)) ((b.drop (16 * j)).take 16) 0) ++ recordReads n at_ 256

namespace Hw

/-- The FEM buses are active: from S4 on (Table 3.3). -/
def busOn (h : Hw) : Bool := 4 ≤ h.sta.stage
/-- Both lines of a stuck bus are high again: the alarm ceases and the writes that waited are made (R304, R316). -/
def busFree (h : Hw) (q : Nat) : Hw :=
  h.whenB (h.quad q).busStuck fun h =>
    let h := (h.onQuad q fun x => { x with busStuck := false }).cease 0x0502 q
    h.each [4 * q, 4 * q + 1, 4 * q + 2, 4 * q + 3] fun h n => h.whenB (h.path n).fem.writeDue fun h => h.busAdd q 4 n
/-- A path whose FEM the checks of R315 judge: not retired, its FEM not failed already. -/
def checked (h : Hw) (n : Nat) : Bool := !(h.path n).retired && !(h.path n).disabled

end Hw

/-- One attempt of the transaction in progress ends (R303): three failures end the transaction. `high`: both lines are high after it,
as they are after a success. Where a line is low and an attempt or a transaction is about to follow, nine clock pulses and a STOP come first
(R304; log 130). On a stuck bus only the recovery runs, and what ends is the recovery. -/
def execFemBusTransactionDone (dt : Nat) (q : QuadId) (good high : Bool) (s : State) : Host.Outcome State Fault Refusal :=
  ok s dt fun h => h.whenB h.busOn fun h =>
    if (h.quad q).busStuck then h.whenB (good || high) fun h => h.busFree q
    else if good then h.onQuad q fun x => { x with busQueue := x.busQueue.drop 1, busTries := 0 }
    else
      let third := 2 ≤ (h.quad q).busTries
      let h := h.onQuad q fun x => { x with
        busNack := inc x.busNack, busTries := if third then 0 else x.busTries + 1, busQueue := if third then x.busQueue.drop 1 else x.busQueue }
      h.whenB (!high && !(h.quad q).busQueue.isEmpty) fun h => h.busPut [.recover q]

/-- FSDA or FSCL has stayed low for 10 ms: the quad's paths are retired as failed (R304). -/
def execFemBusStuck (dt : Nat) (q : QuadId) (s : State) : Host.Outcome State Fault Refusal :=
  ok s dt fun h => h.whenB (h.busOn && !(h.quad q).busStuck) fun h =>
    let h := ((h.onQuad q fun x => { x with busStuck := true }).busPut [.recover q]).alarm 0x0502 q
    h.each [4 * q.val, 4 * q.val + 1, 4 * q.val + 2, 4 * q.val + 3] fun h n => h.whenB (h.checked n) fun h => h.femFail n 2

/-- A STATUS poll returns (R315); for a path to be restored it decides the restore while it completes before k_r - 2 (R312). -/
def execFemStatusPollDone (dt : Nat) (n : PathId) (alarm : Option Bool) (s : State) : Host.Outcome State Fault Refusal :=
  ok s dt fun h => h.whenB (h.busOn && (!(h.path n).retired || (h.path n).restore.isSome)) fun h =>
    let h := h.busDrop (n.val / 4) 2 n
    let k := h.tim.k
    match alarm with
    | none =>
      let h := h.onPath n fun p => { p with fem := { p.fem with missedPolls := p.fem.missedPolls + 1 } }
      h.whenB (h.checked n && 3 ≤ (h.path n).fem.missedPolls) fun h => h.femFailAlarm n 1 0x0501
    | some a =>
      let h := (h.busPut [statusPoll n]).onPath n fun p =>
        { p with fem := { p.fem with missedPolls := 0, alarmPin := a }
                 restore := p.restore.map fun r => if r.kr.any fun t => t ≤ k + 2 then r else { r with alarm := a } }
      h.whenB (a && h.checked n) fun h => h.femFailAlarm n 5 0x0507

/-- The read that a PATH_RESTORE makes has completed, with the STATUS poll that ends it (R311, R312, R111, R151). -/
def execFemIdentityReadDone (dt : Nat) (n : PathId) (fem : FemRead) (alarm : Option Bool) (s : State) :
    Host.Outcome State Fault Refusal :=
  ok s dt fun h =>
    match (h.path n).restore with
    | none => h
    | some r =>
      h.whenB (h.busOn && !r.read && (h.path n).retired && decide (r.target ≤ h.tim.k)) fun h =>
        let h := (h.busDrop (n.val / 4) 3 n).whenB fem.identity.isSome fun h => h.busPut (femReads n ++ [statusPoll n])
        match fem.identity.bind parseIdentity with
        | none => (h.onPath n fun p => { p with restore := none, fsCurrent := 20, fem := { p.fem with id := none } }).alarm 0x0501 n
        | some id =>
          let kr := h.frameFrom (Nat.max r.target (h.tim.k + 3))
          let swap := (h.path n).fem.lastSerial != some id.serial
          let init := h.dpdInitOf n
          let a := alarm.getD false
          let h := h.onPath n fun p =>
            let f := { femLoad p.fem id fem with alarmPin := alarm.getD p.fem.alarmPin }
            { p with fem := f, fsCurrent := id.dacFs, restore := some { r with read := true, kr := some kr, alarm := a }
                     dpd := if swap then Hw.dpdReload p.dpd init else p.dpd }
          h.whenB (h.path n).fem.lifeInvalid fun h => h.alarm 0x0503 n

/-- A highest value as a page holds it; 0 where none has been seen (DESIGN CHOICE, log 130). -/
def shown (x : Option Rat) : Int := clampZ (-32768) 32767 (showRat (x.getD 0))
/-- The bytes of a life copy (Table 14.4). -/
def lifeBytes (h : Hw) (n : Nat) : Bytes :=
  let f := (h.path n).fem
  let sn := f.lastSerial.getD 0
  let u := fun x => Nat.min 0xFFFFFFFF (x / usedUnit)
  let b := le 4 0x464C4654 ++ le 2 1 ++ le 1 f.pageCause ++ le 1 (b2n f.isWorn + 2 * b2n (bit f.flags 1)) ++ le 4 (f.seq + 1) ++ le 4 (u f.used) ++
    le 8 sn ++ le 4 (u f.onTime) ++ le 4 (u f.biasedTime) ++ le 2 (code 16 (shown f.tMax)) ++ le 2 (code 16 (shown f.reflPeak)) ++ le 16 h.sys.dieId.toNat ++
    le 6 (todS h.now) ++ List.replicate 196 0
  b ++ le 2 (crc16 b)

/-- A life write time of path n has come (R314): the write starts at the next frame tick. -/
def execFemLifeWriteTime (dt : Nat) (n : PathId) (s : State) : Host.Outcome State Fault Refusal :=
  ok s dt fun h =>
    let m := (todS h.now - 2 * (n.val % 4)) / 900
    h.whenB (h.busOn && !(h.path n).retired && (h.path n).fem.id.isSome && decide ((h.path n).fem.lifeM < m)) fun h =>
      h.onPath n fun p => { p with fem := { p.fem with lifeM := m, writeDue := true } }

/-- A life page write and its read-back have ended (R308, R314, R316). -/
def execFemLifeWriteDone (dt : Nat) (n : PathId) (r : LifeResult) (s : State) : Host.Outcome State Fault Refusal :=
  ok s dt fun h => h.whenB (h.busOn && (h.path n).fem.writeDue && !(h.quad (n.val / 4)).busStuck) fun h =>
    let h := h.busDrop (n.val / 4) 4 n
    let failing := fun (h : Hw) => (h.onPath n fun p => { p with fem := { p.fem with writeFail := true, writeDue := false } }).alarm 0x0504 n
    match r with
    | .ok =>
      let bytes := lifeBytes h n
      let a := if (h.path n).fem.newerA then 0x0200 else 0x0100
      let was := (h.path n).fem.writeFail
      let h : Hw := { h with out := { h.out with life := h.out.life ++ [(n.val, a, bytes)] } }
      let h := h.busPut (lifeTransfers n a bytes)
      let h := h.onPath n fun p =>
        let f := p.fem
        { p with fem := { f with lifeWrites := inc f.lifeWrites, seq := (f.seq + 1) % 2 ^ 32, newerA := !f.newerA, dirty := false
                                 writeDue := false, writeFail := false, flags := b2n f.isWorn + 2 * b2n (bit f.flags 1) } }
      h.whenB was fun h => h.cease 0x0504 n
    | .idLost =>
      if h.checked n then (h.onPath n fun p => { p with fem := { p.fem with writeDue := false } }).femFailAlarm n 1 0x0501
      else failing h
    | .failed => failing h

/-! ### Housekeeping -/

/-- A run of readings outside a limit: grown, reset, or left (R315). -/
def runNext (applies out : Bool) (run : Nat) : Nat := if !applies then run else if out then run + 1 else 0

/-- A drain current reading of path n (R313, R315). -/
def hkCurrent (h : Hw) (n mean : Nat) (ovr mixed : Bool) : Hw :=
  let p := h.path n
  match p.fem.id with
  | none => h
  | some id =>
    let applies := h.checked n && !mixed && (p.paen || p.bias.operating)
    let x := mean * id.isnsGain
    let out := ovr || if p.paen then decide (x < id.iOnMin * 65536) || decide (id.iOnMax * 65536 < x) else decide (id.iOffMax * 65536 < x)
    let run := runNext applies out p.fem.biasRun
    let h := h.onPath n fun p =>
      { p with fem := { p.fem with biasRun := run, iSum := if p.paen && !mixed then p.fem.iSum + mean else p.fem.iSum
                                   iCount := if p.paen && !mixed then p.fem.iCount + 1 else p.fem.iCount } }
    h.whenB (applies && out && decide (h.image.policy.biasCount ≤ run)) fun h => h.femFailAlarm n 3 0x0505

/-- A reflected power reading of path n (R315). -/
def hkReflected (h : Hw) (n mean : Nat) (ovr mixed : Bool) : Hw :=
  let p := h.path n
  match p.fem.id with
  | none => h
  | some id =>
    let applies := h.checked n && !mixed && p.paen
    let x : Int := id.pdOffset * 65536 + (mean : Int) * id.pdGain
    let out := ovr || decide (id.reflMax * 65536 < x)
    let run := runNext applies out p.fem.reflRun
    let h := h.onPath n fun p =>
      { p with fem := { p.fem with reflRun := run, reflPeak := if applies then Hw.highest p.fem.reflPeak ((x : Rat) / 65536) else p.fem.reflPeak } }
    h.whenB (applies && out && decide (h.image.policy.reflCount ≤ run)) fun h => h.femFailAlarm n 4 0x0506

/-- FEM temperature of a reading, 0.1 °C (R323, Table 14.10). -/
def femDegrees (h : Hw) (mean : Nat) : Rat := (h.image.policy.tempOffset : Rat) + (mean : Rat) * (h.image.policy.tempGain : Rat) / 65536
/-- A FEM temperature reading of a quad (R324, R313). -/
def hkTemp (h : Hw) (q mean : Nat) (ovr : Bool) : Hw :=
  if ovr then h
  else
    let t := femDegrees h mean
    let h := h.onQuad q fun x => { x with femTemp := some t, hkAge := 0 }
    h.each [4 * q, 4 * q + 1, 4 * q + 2, 4 * q + 3] fun h n => h.onPath n fun p =>
      if p.fem.id.isSome then { p with fem := { p.fem with tMax := Hw.highest p.fem.tMax t } } else p

/-- A supply reading of a quad (R316). -/
def hkSupply (h : Hw) (q mean : Nat) (ovr : Bool) : Hw :=
  let out := ovr || decide (mean < 16 * h.image.policy.supplyMin) || decide (16 * h.image.policy.supplyMax < mean)
  let was := (h.quad q).supplyOut
  let h := h.onQuad q fun x => { x with supplyOut := out }
  let h := h.whenB (out && !was) fun h => h.alarm 0x0508 q
  h.whenB (was && !out) fun h => h.cease 0x0508 q

/-- The injected conversion whose result comes next (R327): one whose slot has ended, else the one in progress, else the one that waits; and
the quad without it. -/
def injectNext (x : Quad) : Option ((Nat × Bool) × Quad) :=
  match x.injLate, x.injBusy, x.injPending with
  | a :: r, _, _ => some (a, { x with injLate := r })
  | [], some a, _ => some (a, { x with injBusy := none })
  | [], none, some a => some (a, { x with injPending := none })
  | [], none, none => none

/-- The readings that an entry of the sequence feeds (R326). -/
def hkFeed (h : Hw) (q c mean : Nat) (ovr mixed : Bool) : Hw :=
  if c < 4 then hkCurrent h (4 * q + c) mean ovr mixed
  else if c < 8 then hkReflected h (4 * q + c - 4) mean ovr mixed
  else if c = 8 then hkTemp h q mean ovr
  else if c = 9 then hkSupply h q mean ovr
  else if c = 10 && h.image.policy.alarmOnExt == 1 && mean < 16 * h.image.policy.alarmLevel then
    h.each [4 * q, 4 * q + 1, 4 * q + 2, 4 * q + 3] fun h n => h.whenB (!(h.path n).retired) fun h => h.busAdd q 2 n
  else h

/-- An entry of a quad's sequence has ended: its mean is one reading, MIXED where PAEN of its path changed since the entry before ended
(R325, R326). -/
def execHkReading (dt : Nat) (q : QuadId) (codes : List HkCode) (s : State) : Host.Outcome State Fault Refusal :=
  ok s dt fun h =>
    let seq := (assoc q.val h.image.hkSeq).getD []
    match seq[(h.quad q).hkEntry]? with
    | none => h
    | some e =>
      h.whenB ((h.quad q).hkRunning && codes.length == e.rep + 1) fun h =>
        let c := e.channel
        let mean := (showRat ((16 * sumL (codes.map (·.code)) : Nat) / ((e.rep + 1 : Nat) : Rat))).toNat
        let bad := (codes.filter (·.ovr)).length
        let ovr := bad != 0
        let n := if c < 4 then 4 * q.val + c else 4 * q.val + c - 4
        let mixed := decide (c < 8) && (h.path n).paenMoved
        let paen := decide (c < 8) && (h.path n).paen
        let k := low32 h.tim.k
        let h := h.onQuad q fun x =>
          { x with
            hk := updN x.hk c fun r => { mean := mean, ovr := ovr, mixed := mixed, paen := paen, valid := true, tick := k, count := cnt 32 r.count bad }
            conv := cnt 48 x.conv codes.length, hkEntry := if x.hkEntry + 1 < seq.length then x.hkEntry + 1 else 0 }
        hkFeed (h.onPaths fun i p => if i / 4 = q.val then { p with paenMoved := false } else p) q c mean ovr mixed

/-- An injected conversion ends: its result is written and EV128 + q pulses (R327); a calibration run that waits takes the ADC (R242). -/
def execHkInjectDone (dt : Nat) (q : QuadId) (code : HkCode) (s : State) : Host.Outcome State Fault Refusal :=
  ok s dt fun h =>
    match injectNext ((h.quad q).injAt h.up) with
    | none => h
    | some ((c, cal), x) =>
      let t := femDegrees h (16 * code.code)
      let use := cal && c == 8 && !code.ovr && h.calCollects
      let h := (h.onQuad q fun _ =>
        { x with
          calTemp := if use then some (match x.calTemp with
            | some r => (min r.1 t, max r.2 t)
            | none => (t, t)) else x.calTemp
          injCode := code.code, injOvr := code.ovr, injChannel := c, injValid := true, injDone := inc x.injDone, conv := inc48 x.conv
          hk := updN x.hk c fun r => { r with count := cnt 32 r.count (b2n code.ovr) } }).pulse (128 + q.val)
      h.whenB h.calCollects fun h => h.calTake q

/-- The break of a range change ends: BIAS drives its new level (R322). -/
def execBiasBreakEnd (dt : Nat) (n : PathId) (s : State) : Host.Outcome State Fault Refusal :=
  ok s dt fun h => h.whenB (h.path n).bias.brk fun h =>
    let l := h.biasLevel n (h.path n).bias.operating
    h.onPath n fun p => { p with bias := { p.bias with brk := false, code := l.1, range := l.2 } }

/-- DPD_AGE of a path exceeds 100 frame ticks in a slot with DPD_MODE 1 or 2 (R160). -/
def execDpdStale (n : PathId) (s : State) : Host.Outcome State Fault Refusal :=
  ok s 0 fun h =>
    h.whenB (decide (100 < (h.path n).dpd.age) && h.slotNow.any fun sl => sl.dpdMode == 1 || sl.dpdMode == 2) fun h => h.alarm 0x0605 n

/-- A quad's housekeeping results are more than two frames old: it is budgeted at T_FEMmax (R219). -/
def execTrlQuadStale (q : QuadId) (s : State) : Host.Outcome State Fault Refusal :=
  ok s 0 fun h =>
    h.whenB (decide (2 < (h.quad q).hkAge) && (h.quad q).hkRunning) fun h => (h.onQuad q fun x => { x with stale := true }).alarm 0x0902 q

end Sys2Proof.Machine
end

