-- ==== Sys2Proof/Machine/Nvm.lean ====
section
/-! DEFINITION. The commands that the Ezkan issues to the NVM (R55, R57 to R59, Table 2.15). Bus modes: 0 single SPI, 1 quad SPI, 2
octal DTR. -/
namespace Sys2Proof.Machine

/-- An opcode as it is sent in a mode: in octal DTR the opcode and then its complement (R59). -/
def nvmOp (mode : Nat) (op : Byte) : Bytes := if mode = 2 then [op, ~~~op] else [op]
/-- Opcode of a read with a 4-byte address in a mode (Table 2.15). -/
def nvmReadOp (mode : Nat) : Byte := if mode = 0 then 0x13 else if mode = 1 then 0xEC else 0xEE

namespace Hw

/-- Commands issued. -/
def nvm (h : Hw) (cs : List NvmCmd) : Hw := { h with out := { h.out with nvm := h.out.nvm ++ cs } }
/-- The reset of S2 in single SPI, and the read of the SFDP tables per JESD216, with its 8 dummy cycles (R58; log 88). -/
def nvmStart (h : Hw) : Hw := h.nvm [{ op := [0x66] }, { op := [0x99] }, { op := [0x5A], addr := some 0, dummy := 8 }]
/-- Octal DTR is entered: write enable, then the sequence that SFDP gives for 8D-8D-8D mode (R58, R59). -/
def nvmEnter8d (h : Hw) (f : Sfdp) : Hw := h.nvm ({ op := [0x06] } :: f.enter8d.map fun b => { op := b.take 1, data := b.drop 1 })
/-- A read from an address, held to the density that SFDP advertises (R58). -/
def nvmRead (h : Hw) (a n : Nat) : Hw :=
  let n := Nat.min n (h.img.density.getD 0 - a)
  h.whenB (n != 0) fun h => h.nvm [{ op := nvmOp h.img.busMode (nvmReadOp h.img.busMode), addr := some a, dummy := h.img.dummyRead, len := n }]
/-- An erase or a page program: write enable, the command, and the status polling that follows it (R55; log 88). -/
def nvmChange (h : Hw) (op : Byte) (a : Nat) (data : Bytes) : Hw :=
  let m := h.img.busMode
  h.nvm [{ op := nvmOp m 0x06 }, { op := nvmOp m op, addr := some a, data := data },
    { op := nvmOp m 0x05, dummy := h.img.dummyStatus, len := 1 }]
/-- Operation `j` of the record write (R55): the two sector erases, the 18 page programs, the read-back. -/
def nvmWriteOp (h : Hw) (record : Bytes) (j : Nat) : Hw :=
  let a := h.image.calOffset
  if j < 2 then h.nvmChange 0x21 (a + 4096 * j) []
  else if j < 20 then h.nvmChange 0x12 (a + 256 * (j - 2)) ((record.drop (256 * (j - 2))).take 256)
  else h.nvmRead a record.length

end Hw
end Sys2Proof.Machine
end

