-- ==== Sys2Proof/Machine/Crypto.lean ====
section
/-! DEFINITION. SHA-384 and the verification of ECDSA P-384 signatures, by which R46 to R48 judge an image. The spec names both and
takes them from outside: they follow FIPS 180-4 and FIPS 186-5 (log 4). -/
namespace Sys2Proof.Machine

/-- A big-endian number. -/
def unbe (b : Bytes) : Nat := b.foldl (fun a x => 256 * a + x.toNat) 0

namespace Sha384

/-- The round constants: fractions of the cube roots of the first 80 primes. -/
def k : List Nat :=
  [0x428A2F98D728AE22, 0x7137449123EF65CD, 0xB5C0FBCFEC4D3B2F, 0xE9B5DBA58189DBBC,
   0x3956C25BF348B538, 0x59F111F1B605D019, 0x923F82A4AF194F9B, 0xAB1C5ED5DA6D8118,
   0xD807AA98A3030242, 0x12835B0145706FBE, 0x243185BE4EE4B28C, 0x550C7DC3D5FFB4E2,
   0x72BE5D74F27B896F, 0x80DEB1FE3B1696B1, 0x9BDC06A725C71235, 0xC19BF174CF692694] ++
  [0xE49B69C19EF14AD2, 0xEFBE4786384F25E3, 0x0FC19DC68B8CD5B5, 0x240CA1CC77AC9C65,
   0x2DE92C6F592B0275, 0x4A7484AA6EA6E483, 0x5CB0A9DCBD41FBD4, 0x76F988DA831153B5,
   0x983E5152EE66DFAB, 0xA831C66D2DB43210, 0xB00327C898FB213F, 0xBF597FC7BEEF0EE4,
   0xC6E00BF33DA88FC2, 0xD5A79147930AA725, 0x06CA6351E003826F, 0x142929670A0E6E70] ++
  [0x27B70A8546D22FFC, 0x2E1B21385C26C926, 0x4D2C6DFC5AC42AED, 0x53380D139D95B3DF,
   0x650A73548BAF63DE, 0x766A0ABB3C77B2A8, 0x81C2C92E47EDAEE6, 0x92722C851482353B,
   0xA2BFE8A14CF10364, 0xA81A664BBC423001, 0xC24B8B70D0F89791, 0xC76C51A30654BE30,
   0xD192E819D6EF5218, 0xD69906245565A910, 0xF40E35855771202A, 0x106AA07032BBD1B8] ++
  [0x19A4C116B8D2D0C8, 0x1E376C085141AB53, 0x2748774CDF8EEB99, 0x34B0BCB5E19B48A8,
   0x391C0CB3C5C95A63, 0x4ED8AA4AE3418ACB, 0x5B9CCA4F7763E373, 0x682E6FF3D6B2B8A3,
   0x748F82EE5DEFB2FC, 0x78A5636F43172F60, 0x84C87814A1F0AB72, 0x8CC702081A6439EC,
   0x90BEFFFA23631E28, 0xA4506CEBDE82BDE9, 0xBEF9A3F7B2C67915, 0xC67178F2E372532B] ++
  [0xCA273ECEEA26619C, 0xD186B8C721C0C207, 0xEADA7DD6CDE0EB1E, 0xF57D4F7FEE6ED178,
   0x06F067AA72176FBA, 0x0A637DC5A2C898A6, 0x113F9804BEF90DAE, 0x1B710B35131C471B,
   0x28DB77F523047D84, 0x32CAAB7B40C72493, 0x3C9EBE0A15C9BEBC, 0x431D67C49C100D4C,
   0x4CC5D4BECB3E42B6, 0x597F299CFC657E2A, 0x5FCB6FAB3AD6FAEC, 0x6C44198C4A475817]
/-- The start value: fractions of the square roots of the ninth to sixteenth prime. -/
def start : List Nat :=
  [0xCBBB9D5DC1059ED8, 0x629A292A367CD507, 0x9159015A3070DD17, 0x152FECD8F70E5939,
   0x67332667FFC00B31, 0x8EB44A8768581511, 0xDB0C2E0D64F98FA7, 0x47B5481DBEFA4FA4]
/-- Reduction to a 64-bit word. -/
def w64 (x : Nat) : Nat := x % 0x10000000000000000
/-- A word turned right. -/
def rotr (n x : Nat) : Nat := x / 2 ^ n + x % 2 ^ n * 2 ^ (64 - n)
/-- Message schedule: the newest 16 words, oldest first, and those still to give. -/
def schedule : Nat → List Nat → List Nat
  | n + 1, x0 :: x1 :: r =>
    let x9 := r.getD 7 0
    let x14 := r.getD 12 0
    let s0 := rotr 1 x1 ^^^ rotr 8 x1 ^^^ (x1 >>> 7)
    let s1 := rotr 19 x14 ^^^ rotr 61 x14 ^^^ (x14 >>> 6)
    x0 :: schedule n (x1 :: r ++ [w64 (s1 + x9 + s0 + x0)])
  | _, _ => []
/-- One round on the eight working words. -/
def round (v : List Nat) (kw : Nat) : List Nat :=
  match v with
  | [a, b, c, d, e, f, g, h] =>
    let t1 := h + (rotr 14 e ^^^ rotr 18 e ^^^ rotr 41 e) + ((e &&& f) ^^^ ((e ^^^ 0xFFFFFFFFFFFFFFFF) &&& g)) + kw
    let t2 := (rotr 28 a ^^^ rotr 34 a ^^^ rotr 39 a) + ((a &&& b) ^^^ (a &&& c) ^^^ (b &&& c))
    [w64 (t1 + t2), a, b, c, w64 (d + t1), e, f, g]
  | _ => v
/-- One block of 128 bytes taken into the hash value. -/
def block (v : List Nat) (b : Bytes) : List Nat :=
  let x := (List.range 16).map fun i => unbe ((b.drop (8 * i)).take 8)
  List.zipWith (fun p q => w64 (p + q)) v ((List.zipWith (· + ·) k (schedule 80 x)).foldl round v)
/-- The message with its padding and length. -/
def padded (m : Bytes) : Bytes := m ++ [0x80] ++ List.replicate ((239 - m.length % 128) % 128) 0 ++ (le 16 (8 * m.length)).reverse
/-- Words joined, the first most significant. -/
def join (v : List Nat) : Nat := v.foldl (fun a x => a * 0x10000000000000000 + x) 0

end Sha384

/-- SHA-384 of a message, as a number. -/
def sha384 (m : Bytes) : Nat :=
  let p := Sha384.padded m
  Sha384.join (((chunks 128 (p.length / 128) p).foldl Sha384.block Sha384.start).take 6)

namespace P384

/-- The field prime of P-384. -/
def p : Nat := 2 ^ 384 - 2 ^ 128 - 2 ^ 96 + 2 ^ 32 - 1
/-- The order of the base point. -/
def n : Nat := 0xFFFFFFFFFFFFFFFFFFFFFFFFFFFFFFFFFFFFFFFFFFFFFFFFC7634D81F4372DDF581A0DB248B0A77AECEC196ACCC52973
/-- The coefficient b of the curve y² = x³ - 3x + b. -/
def b : Nat := 0xB3312FA7E23EE7E4988E056BE3F82D19181D9C6EFE8141120314088F5013875AC656398D8A2ED19D2A85C8EDD3EC2AEF
/-- The base point. -/
def gx : Nat := 0xAA87CA22BE8B05378EB1C71EF320AD746E1D3B628BA79B9859F741E082542A385502F25DBF55296C3A545E3872760AB7
/-- The base point. -/
def gy : Nat := 0x3617DE4A96262C6F5D9E98BF9292DC29F8F41DBD289A147CE9DA3113B5F0B8C00A60B1CE1D7E819D7A431D7C90EA0E5F

/-- A point in Jacobian coordinates; z = 0 is the point at infinity. -/
structure Pt where
  x : Nat
  y : Nat
  z : Nat

/-- Power modulo m by the lowest `f` bits of the exponent. -/
def pow (m : Nat) : Nat → Nat → Nat → Nat
  | 0, _, _ => 1 % m
  | f + 1, a, e => let r := pow m f (a * a % m) (e / 2); if e % 2 = 1 then a * r % m else r
/-- Inverse modulo a prime below 2^384. -/
def inv (m a : Nat) : Nat := pow m 384 (a % m) (m - 2)
/-- Difference modulo p. -/
def sub (a c : Nat) : Nat := (a + (p - c % p)) % p
/-- A point doubled. -/
def dbl (a : Pt) : Pt :=
  let d := a.z * a.z % p
  let g := a.y * a.y % p
  let e := a.x * g % p
  let h := 3 * (sub a.x d * (a.x + d) % p)
  let x := sub (h * h) (8 * e)
  ⟨x, sub (h * sub (4 * e) x) (8 * (g * g % p)), 2 * a.y * a.z % p⟩
/-- Two points added. -/
def add (a c : Pt) : Pt :=
  if a.z = 0 then c else if c.z = 0 then a
  else
    let z1 := a.z * a.z % p
    let z2 := c.z * c.z % p
    let u1 := a.x * z2 % p
    let u2 := c.x * z1 % p
    let s1 := a.y * (c.z * z2 % p) % p
    let s2 := c.y * (a.z * z1 % p) % p
    if u1 = u2 then (if s1 = s2 then dbl a else ⟨1, 1, 0⟩)
    else
      let h := sub u2 u1
      let r := sub s2 s1
      let h2 := h * h % p
      let h3 := h * h2 % p
      let v := u1 * h2 % p
      let x := sub (r * r) (h3 + 2 * v)
      ⟨x, sub (r * sub v x) (s1 * h3), h * a.z * c.z % p⟩
/-- u1·a + u2·c by the lowest `f` bits of both numbers, highest first; `ac` is a + c. -/
def mul2 (a c ac : Pt) (u1 u2 : Nat) : Nat → Pt → Pt
  | 0, r => r
  | f + 1, r =>
    let r := dbl r
    mul2 a c ac u1 u2 f (match u1.testBit f, u2.testBit f with
      | true, true => add r ac
      | true, false => add r a
      | false, true => add r c
      | false, false => r)
/-- A public key in the uncompressed form of Tables 2.8b and 2.9: a point of the curve. -/
def key (k : Bytes) : Option Pt :=
  let x := unbe ((k.drop 1).take 48)
  let y := unbe ((k.drop 49).take 48)
  if k.length = 97 ∧ k.head? = some 4 ∧ x < p ∧ y < p ∧ y * y % p = (x * x % p * x + (p - 3) * x + b) % p then some ⟨x, y, 1⟩ else none

end P384

/-- (r, s) is a signature over a message under a public key. -/
def ecdsaOk (k m : Bytes) (r s : Nat) : Bool :=
  match P384.key k with
  | none => false
  | some q =>
    if r = 0 ∨ P384.n ≤ r ∨ s = 0 ∨ P384.n ≤ s then false
    else
      let w := P384.inv P384.n s
      let g : P384.Pt := ⟨P384.gx, P384.gy, 1⟩
      let t := P384.mul2 g q (P384.add g q) (sha384 m * w % P384.n) (r * w % P384.n) 384 ⟨1, 1, 0⟩
      let zi := P384.inv P384.p t.z
      t.z != 0 && t.x * (zi * zi % P384.p) % P384.p % P384.n == r

end Sys2Proof.Machine
end

