-- ==== Sys2Proof/Machine/Image.lean ====
section
/-! DEFINITION. The configuration image: its layout (Tables 2.2 to 2.10), the records of its sections, and the checks of step 9 of
Table 2.10 in the order of R430. -/
namespace Sys2Proof.Machine

/-! ### Layout -/

/-- Bytes of a range. -/
def slice (b : Bytes) (o n : Nat) : Bytes := (b.drop o).take n
/-- All bytes of a range are zero. -/
def zeros (b : Bytes) (o n : Nat) : Bool := (slice b o n).all (· == 0)
/-- Magnitude of the section table entry (Table 2.3). -/
def parseSec (b : Bytes) : Sec :=
  { type := rd b 0 2, inst := rd b 2 2, offset := rd b 4 4, length := rd b 8 4, recSize := rd b 12 2, recCount := rd b 14 2 }
/-- The section table of an image. -/
def secTable (nvm : Bytes) : List Sec := (List.range (rd nvm 16 2)).map fun i => parseSec (slice nvm (256 + 16 * i) 16)

/-- Record size, largest instance, least and largest record count of a type; a raw section has the limit of its LENGTH (Table 2.4). -/
structure SecRule where
  maxInst : Nat
  size : Nat
  lo : Nat
  hi : Nat
  raw : Option Nat := none
/-- Table 2.4. -/
def secRule (type : Nat) : Option SecRule :=
  match type with
  | 0x0010 => some ⟨0, 128, 1, 1, none⟩
  | 0x0011 => some ⟨0, 16, 0, 8, none⟩
  | 0x0012 => some ⟨15, 96, 1, 1, none⟩
  | 0x0020 => some ⟨7, 128, 1, 1, none⟩
  | 0x0021 => some ⟨7, 16, 1, 64, none⟩
  | 0x0030 => some ⟨7, 32, 1, 128, none⟩
  | 0x0040 => some ⟨0, 260, 0, 4096, none⟩
  | 0x0041 => some ⟨0, 4, 0, 64, none⟩
  | 0x0042 => some ⟨0, 8, 64, 64, none⟩
  | 0x0050 => some ⟨63, 24576, 1, 1, none⟩
  | 0x0051 => some ⟨0, 1024, 1, 1, none⟩
  | 0x0060 => some ⟨15, 64, 1, 1, none⟩
  | 0x0061 => some ⟨31, 64, 1, 1, none⟩
  | 0x0070 => some ⟨15, 1, 0, 0, some 65536⟩
  | 0x0071 => some ⟨15, 1, 0, 0, some 262144⟩
  | 0x0080 => some ⟨0, 1, 0, 0, some 1048576⟩
  | 0x0090 => some ⟨15, 4, 1, 64, none⟩
  | 0x0091 => some ⟨0, 512, 1, 1, none⟩
  | 0x00A0 => some ⟨31, 64, 1, 1, none⟩
  | 0x00B0 => some ⟨0, 64, 1, 1, none⟩
  | _ => none

/-- A header that keeps every rule of Table 2.2 but that on MAGIC; `density` in bytes (R36). -/
def headerOk (b : Bytes) (density : Nat) : Bool :=
  let size := rd b 12 4
  let cal := rd b 24 4
  rd b 4 2 == 1 && rd b 6 2 == 256 && rd b 8 2 == 0x6464 && rd b 10 1 == 0xB0 && decide (rd b 11 1 ≤ 1) && size % 4096 == 0 &&
    decide (size + 4096 ≤ 33554432) && decide (1 ≤ rd b 16 2) && decide (rd b 16 2 ≤ 256) && decide (rd b 18 1 ≤ 7) &&
    (secTable b).any (fun s => s.type == 0x0020 && s.inst == rd b 18 1) && decide (rd b 19 1 ≤ 2) && decide (rd b 20 1 ≤ 2) &&
    decide (rd b 21 1 ≤ 1) && zeros b 22 2 && zeros b 40 216 && cal % 65536 == 0 && decide (size + 4096 ≤ cal) &&
    decide (size + 4096 ≤ density) && decide (cal + 65536 ≤ density)

/-- One section table entry keeps the rules of R37; `lo` is the end of the entries before it. DESIGN CHOICE (log 84): a section of no
bytes and the one after it may have the same OFFSET, so ascending is not strict. -/
def secOk (size lo : Nat) (before : List Sec) (s : Sec) : Bool :=
  match secRule s.type with
  | none => false
  | some r =>
    decide (s.inst ≤ r.maxInst) && s.offset % 16 == 0 && decide (lo ≤ s.offset) && decide (s.offset + s.length ≤ size) &&
      !before.any (fun x => x.type == s.type && x.inst == s.inst) &&
      match r.raw with
      | some n => s.recSize == 1 && s.recCount == 0 && decide (s.length ≤ n)
      | none => s.recSize == r.size && decide (r.lo ≤ s.recCount) && decide (s.recCount ≤ r.hi) && s.length == s.recSize * s.recCount
/-- Index of the first section table entry that breaks R37. -/
def tableFail (size : Nat) : Nat → Nat → List Sec → List Sec → Option Nat
  | _, _, _, [] => none
  | i, lo, before, s :: r => if secOk size lo before s then tableFail size (i + 1) (s.offset + s.length) (before ++ [s]) r else some i

/-! ### Records -/

/-- PACKAGE (Table 2.4). -/
def parsePkg (b : Bytes) : Pkg :=
  { powerCap := rd b 0 2, arrayBudget := rd b 2 2, ptpDomain := rd b 4 1, portCfg := [rd b 5 1, rd b 6 1], txPolarity := rd b 7 1
    slewLimit := rd b 8 2, timeTol := rd b 10 4, muteOnTol := rd b 14 1, delayStepThr := rd b 15 4, pinClasses := rd b 19 2
    traceEngines := rd b 21 2, traceCfg := rd b 23 1 }
/-- MODE_SLOT (Table 2.5). -/
def parseSlot (b : Bytes) : Slot :=
  { slot := rd b 0 1, kind := rd b 1 1, nCarriers := rd b 2 1, preset := rd b 3 1, txMask := rd b 4 8, rxMask := rd b 12 8
    carriers := (List.range 4).map fun i => { rf := rd b (20 + 8 * i) 4, bw := rd b (24 + 8 * i) 2, scs := rd b (26 + 8 * i) 1 }
    layersDl := rd b 52 1, layersUl := rd b 53 1, lmhzDl := rd b 54 2, lmhzUl := rd b 56 2, granularity := rd b 58 1
    mantissa := rd b 59 1, minLead := rd b 60 4, ulDeadline := rd b 64 4, earlyLimit := rd b 68 4, dpdMode := rd b 72 1
    cairn := rd b 73 1, allowance := rd b 74 1, backoff := rd b 75 1, tdBeams := rd b 76 1, renorm := rd b 77 1
    flowSet := rd b 78 1, tdd := rd b 79 1, cairnBeams := rd b 80 2, cairnCoh := rd b 82 1, cairnNoncoh := rd b 83 1 }
/-- COST_TABLE (Table 2.7). -/
def parseCost (b : Bytes) : Cost :=
  { job := rd b 0 2, scope := rd b 2 1, die := rd b 3 1, energy := rd b 4 4, torCc := rd b 8 2, heat := rd b 10 2 }
/-- FLOW_SET (Table 9.3). -/
def parseFlow (b : Bytes) : Flow :=
  { id := rd b 0 1, dir := rd b 1 1, carrier := rd b 2 1, layer := rd b 3 1, port := rd b 4 1, pkgPos := rd b 5 1, eaxc := rd b 6 2
    vlan := rd b 8 2, dstMac := rd b 10 6, srcMac := rd b 16 6, compression := rd b 22 1 }
/-- TDD_PATTERN (R190). -/
def parseTdd (inst : Nat) (b : Bytes) : Tdd :=
  { inst := inst, periodSlots := rd b 0 1, quadMask := rd b 2 2
    codes := ((List.range (Nat.min 20 (rd b 0 1))).map fun s => (List.range 14).map fun i => bits (rd b (4 + 4 * s) 4) (2 * i) 2).flatten }
/-- TOUT (Table 12.5). -/
def parseTout (b : Bytes) : Tout := { pin := rd b 0 1, mode := rd b 1 1, startS := rd b 2 6, startNs := rd b 8 4, periodNs := rd b 12 4 }
/-- GEOMETRY (R169). -/
def parseGeo (b : Bytes) : Geo := { row := rd b 0 1, col := rd b 1 1, pol := rd b 2 1, x := signed 16 (rd b 4 2), y := signed 16 (rd b 6 2) }
/-- CFR (Table 5.3). -/
def parseCfr (b : Bytes) : Cfr :=
  { threshold := rd b 0 2, pulseLen := rd b 2 2, maxPeaks := rd b 4 1
    pulse := (List.range 254).map fun i => ⟨signed 16 (rd b (8 + 4 * i) 2), signed 16 (rd b (10 + 4 * i) 2)⟩ }
/-- CAIRN_FAMILY (Table 8.2). -/
def parseFamily (inst : Nat) (b : Bytes) : Family :=
  { inst := inst, kind := rd b 0 1, root := rd b 1 2, length := rd b 3 2, cs := rd b 5 2, scs := rd b 7 1
    hop := (slice b 8 48).map (·.toNat) }
/-- SEARCH_TEMPLATE (Table 2.4). -/
def parseTemplate (inst : Nat) (b : Bytes) : Template :=
  { inst := inst, familyMask := rd b 0 2, gridOs := rd b 2 1, maxBeams := rd b 3 2, maxCoh := rd b 5 1, maxNoncoh := rd b 6 1
    threshold := rd b 7 2 }
/-- FEM_POLICY (Table 14.6). -/
def parsePolicy (b : Bytes) : Policy :=
  { aI := rd b 0 2, aP := rd b 2 2, ea := rd b 4 2, tRef := signed 16 (rd b 6 2), wOff := rd b 8 2, rateMax := rd b 10 2
    tFemMax := signed 16 (rd b 24 2), tempGain := signed 16 (rd b 26 2), tempOffset := signed 16 (rd b 28 2), biasCount := rd b 30 1
    reflCount := rd b 31 1, alarmOnExt := rd b 32 1, alarmLevel := rd b 34 2, supplyMin := rd b 36 2, supplyMax := rd b 38 2
    biasMode := rd b 64 8, biasSafe := (List.range 64).map fun n => rd b (72 + 2 * n) 2 }
/-- CAPTURE_SETUP (Table 17.2). -/
def parseCap (inst : Nat) (b : Bytes) : CapSetup :=
  { inst := inst, tap := rd b 0 1, flankMask := rd b 1 1, length := rd b 2 4, pre := rd b 6 4, cond0 := rd b 10 1, cond1 := rd b 11 1
    value0 := BitVec.ofNat 64 (rd b 14 8), care0 := BitVec.ofNat 64 (rd b 22 8), value1 := BitVec.ofNat 64 (rd b 30 8)
    care1 := BitVec.ofNat 64 (rd b 38 8), sources := rd b 46 1 }
/-- CAL_LIMITS (Table 11.2). -/
def parseCalLimits (b : Bytes) : CalLimits :=
  { powerFloor := signed 16 (rd b 0 2), spreadMax := rd b 2 2, minSamples := rd b 4 4, txEnergyFloor := signed 16 (rd b 8 2) }
/-- The records of a section. -/
def secRecs (nvm : Bytes) (s : Sec) : List Bytes := (List.range s.recCount).map fun i => slice nvm (s.offset + s.recSize * i) s.recSize
/-- Sections of a type, in table order, with their first record's bytes. -/
def ofType (nvm : Bytes) (secs : List Sec) (type : Nat) : List (Nat × Bytes) :=
  (secs.filter fun s => s.type == type).map fun s => (s.inst, slice nvm s.offset s.length)
/-- Each section of a type as the list of its records. -/
def recsOf (nvm : Bytes) (secs : List Sec) (type : Nat) : List (Nat × List Bytes) :=
  (secs.filter fun s => s.type == type).map fun s => (s.inst, secRecs nvm s)
/-- Words of a DPD_INIT record that are not zero. -/
def dpdWords (b : Bytes) : List (Nat × Word) :=
  (List.range 6144).filterMap fun e => let w := rd b (4 * e) 4; if w = 0 then none else some (e, BitVec.ofNat 32 w)

/-- Everything of the image but what goes into the addressed memories. -/
def parseImage (nvm : Bytes) : Image :=
  let secs := secTable nvm
  let one := fun t => ((ofType nvm secs t).head?.map (·.2)).getD []
  { minStepping := rd nvm 10 1, sigAlg := rd nvm 11 1, imageSize := rd nvm 12 4, sectionCount := rd nvm 16 2, startSlot := rd nvm 18 1
    refScs := rd nvm 19 1, refclkSel := rd nvm 20 1, lockKey := bit (rd nvm 21 1) 0, calOffset := rd nvm 24 4, imageId := rd nvm 28 4
    secs := secs
    pkg := parsePkg (one 0x0010)
    slots := (ofType nvm secs 0x0020).map fun x => parseSlot x.2
    costs := (recsOf nvm secs 0x0021).map fun x => (x.1, x.2.map parseCost)
    flows := (recsOf nvm secs 0x0030).map fun x => (x.1, x.2.map parseFlow)
    tdds := (ofType nvm secs 0x0012).map fun x => parseTdd x.1 x.2
    touts := ((recsOf nvm secs 0x0011).map (·.2)).flatten.map parseTout
    dynEnable := ((recsOf nvm secs 0x0041).map (·.2)).flatten.map fun b => (rd b 0 2, rd b 2 2)
    geometry := ((recsOf nvm secs 0x0042).map (·.2)).flatten.map parseGeo
    cfr := (ofType nvm secs 0x0051).head?.map fun x => parseCfr x.2
    families := (ofType nvm secs 0x0060).map fun x => parseFamily x.1 x.2
    templates := (ofType nvm secs 0x0061).map fun x => parseTemplate x.1 x.2
    hkSeq := (recsOf nvm secs 0x0090).map fun x => (x.1, x.2.map fun b => { channel := rd b 0 1, rep := rd b 1 1, delay := rd b 2 2 })
    policy := parsePolicy (one 0x0091)
    caps := (ofType nvm secs 0x00A0).map fun x => parseCap x.1 x.2
    calLimits := parseCalLimits (one 0x00B0)
    dpdInit := (ofType nvm secs 0x0050).map fun x => (x.1, dpdWords x.2)
    torProgs := (ofType nvm secs 0x0070).map (·.1) }

/-! ### Step 9, part 1: required sections (R39) -/

/-- Index of a section in the table. -/
def secIdx (im : Image) (type inst : Nat) : Option Nat := im.secs.findIdx? fun s => s.type == type && s.inst == inst
/-- A section is present. -/
def hasSec (im : Image) (type inst : Nat) : Bool := (secIdx im type inst).isSome
/-- FAIL_ENTRY of the first section that is missing (R39). DESIGN CHOICE (log 86): R39 lists CFR neither as required nor as optional;
an image without it is accepted and has no canceller. -/
def requiredFail (nvm : Bytes) (im : Image) : Option Nat :=
  let own := ([0x0010, 0x0042, 0x0091, 0x00B0, 0x0080].all fun t => hasSec im t 0) && ((List.range 16).all fun q => hasSec im 0x0090 q) &&
    hasSec im 0x0020 7
  if !own then some 0x1FF
  else im.secs.findIdx? fun s => s.type == 0x0020 &&
    let r := parseSlot (slice nvm s.offset s.length)
    !(hasSec im 0x0021 s.inst && hasSec im 0x0030 r.flowSet && hasSec im 0x0012 r.tdd)

/-! ### Step 9, part 2: the ranges of one section -/

/-- Lies within bounds. -/
def within (lo hi x : Nat) : Bool := decide (lo ≤ x) && decide (x ≤ hi)
/-- Lies within signed bounds. -/
def withinZ (lo hi x : Int) : Bool := decide (lo ≤ x) && decide (x ≤ hi)
/-- PACKAGE on its own: Table 2.4, Table 12.3, R281, R404. -/
def pkgOk (p : Pkg) : Bool :=
  let a := p.portCfg.getD 0 0
  let b := p.portCfg.getD 1 0
  within 200 640 p.powerCap && within 24 43 p.ptpDomain && within 10 10000 p.slewLimit && within 20 1000000 p.timeTol &&
    decide (p.muteOnTol ≤ 1) && within 20 1000000 p.delayStepThr && decide (p.traceCfg < 32) && within 1 2 (bits a 0 2) &&
    bits b 0 2 != 3 && (bits a 0 2 != 2 || bit a 2) && (bits b 0 2 != 2 || bit b 2)
/-- TOUT: Table 12.5, one record for each pin (R275). -/
def toutOk (ts : List Tout) : Bool :=
  ts.all (fun t => decide (t.pin ≤ 7) && decide (t.mode ≤ 1) && decide (t.startNs ≤ 999999999) &&
    if t.mode = 1 then within 1000 1000000000 t.periodNs else t.periodNs == 0) && decide ((ts.map (·.pin)).eraseDups.length = ts.length)
/-- TDD_PATTERN on its own (Table 2.4, R190). -/
def tddOk (b : Bytes) : Bool :=
  let t := parseTdd 0 b
  within 1 20 t.periodSlots && t.codes.all (· != 3) && (List.range t.periodSlots).all fun s => decide (rd b (4 + 4 * s) 4 < 2 ^ 28)
/-- The mask has one bit in each quad. -/
def onePerQuad (m : Nat) : Bool := (List.range 16).all fun q => popcount 4 (bits m (4 * q) 4) == 1
/-- Table 2.6 for one slot. -/
def kindOk (r : Slot) : Bool :=
  let full := 2 ^ 64 - 1
  let foot := 0x1111111111111111
  let span := spanHi r.inUse - spanLo r.inUse
  let man := [7, 8, 9, 16].contains r.mantissa
  let gran := [1, 2, 4].contains r.granularity
  let lay := fun n => within 1 n r.layersDl && within 1 n r.layersUl
  let mhz := fun n => decide (r.lmhzDl ≤ n) && decide (r.lmhzUl ≤ n)
  let us := fun lead dead => within (lead * 1000) 100000 r.minLead && within (dead * 1000) 500000 r.ulDeadline
  let crn := fun b c n => decide (r.cairnBeams ≤ b) && decide (r.cairnCoh ≤ c) && decide (r.cairnNoncoh ≤ n)
  within (r.minLead + 36000) 2000000 r.earlyLimit &&
  match r.kind with
  | 0 => r.txMask == full && r.rxMask == full && within 1 4 r.nCarriers && decide (span ≤ 800000) && decide (r.preset ≤ 1) && lay 32 &&
      mhz 6400 && gran && man && us 14 30 && r.dpdMode == 2 && decide (r.cairn ≤ 1) && decide (r.allowance ≤ 8) && decide (r.backoff ≤ 12) &&
      r.tdBeams == 0 && crn 256 32 4
  | 1 => r.txMask == full && r.rxMask == full && within 1 4 r.nCarriers && decide (span ≤ 400000) && decide (r.preset ≤ 3) && lay 32 &&
      mhz 3200 && gran && man && us 9 25 && r.dpdMode == 2 && decide (r.cairn ≤ 1) && decide (r.allowance ≤ 8) && decide (r.backoff ≤ 12) &&
      r.tdBeams == 0 && crn 256 32 4
  | 2 => r.txMask == full && r.rxMask == full && within 1 4 r.nCarriers && decide (span ≤ 200000) && r.preset == 1 && r.layersDl == 0 &&
      r.layersUl == 0 && mhz 0 && r.mantissa == 16 && us 2 4 && r.dpdMode == 0 && r.cairn == 0 && decide (r.allowance ≤ 8) &&
      decide (r.backoff ≤ 12) && within 1 8 r.tdBeams && crn 0 0 0
  | 3 => onePerQuad r.txMask && r.rxMask == full && within 1 2 r.nCarriers && decide (span ≤ 40000) && within 2 4 r.preset && lay 8 &&
      mhz 160 && gran && man && us 9 30 && r.dpdMode == 1 && r.cairn == 1 && decide (r.allowance ≤ 8) && decide (r.backoff ≤ 12) &&
      r.tdBeams == 0 && crn 1024 128 16
  | 4 => r.txMask == foot && r.rxMask == foot && within 1 2 r.nCarriers && decide (span ≤ 200000) && within 2 4 r.preset && lay 4 &&
      mhz 400 && gran && man && us 14 30 && r.dpdMode == 0 && r.cairn == 0 && r.allowance == 64 && r.backoff == 12 && r.tdBeams == 0 &&
      crn 0 0 0
  | _ => false
/-- A carrier keeps R76 and R86: away from the zone edges, in the FR1 table, within the FFT limits. -/
def carrierOk (preset : Nat) (c : Carrier) : Bool :=
  let lo := 2 * c.rf - 1000 * c.bw
  let hi := 2 * c.rf + 1000 * c.bw
  let far := fun e => [5898240, 11796480].all fun z => decide (z + 80000 ≤ e) || decide (e + 80000 ≤ z)
  far lo && far hi && match nRb c.bw c.scs with
    | none => false
    | some n => decide (fftSize n ≤ 16384) && decide (fftSize n * scsHz c.scs ≤ presetRate preset)
/-- MODE_SLOT on its own: R3, R40, R41, R76, R86. -/
def slotOk (inst : Nat) (r : Slot) : Bool :=
  r.slot == inst && (inst != 7 || r.kind == 4) && kindOk r && r.inUse.all (carrierOk r.preset) &&
    decide ((r.inUse.map fun c => [rxZone (2 * c.rf - 1000 * c.bw), rxZone (2 * c.rf + 1000 * c.bw)]).flatten.eraseDups.length ≤ 1)
/-- The jobs of Table 2.8. -/
def jobCodes : List Nat := [0, 1, 2, 3, 4, 5, 0x0100, 0x0101, 0x0102, 0x0103, 0x0104]
/-- COST_TABLE records: codes of Tables 2.7 and 2.8. DESIGN CHOICE (log 85): a code outside them is a record field outside its range,
IMG_RANGE in part 2 of R430, and not the IMG_FORMAT that R44 gives a missing record in part 4. -/
def costOk (cs : List Cost) : Bool := cs.all fun c => jobCodes.contains c.job && decide (c.scope ≤ 4) && decide (c.die ≤ 3)
/-- Address is unicast. -/
def unicast (mac : Nat) : Bool := !bit mac 40
/-- FLOW_SET on its own: Table 9.3, R181, R185. -/
def flowsOk (fs : List Flow) : Bool :=
  fs.all (fun f => decide (f.id ≤ 127) && decide (f.dir ≤ 2) && decide (f.port ≤ 1) && decide (f.pkgPos ≤ 3) && (f.port == 0 || f.pkgPos == 0) &&
    f.eaxc != 0xFFFF && decide (f.compression ≤ 1) && unicast f.dstMac && unicast f.srcMac) &&
    decide ((fs.map fun f => (f.pkgPos, f.id)).eraseDups.length = fs.length) &&
    decide ((fs.map fun f => (f.pkgPos, f.eaxc)).eraseDups.length = fs.length)
/-- Coordinates lie within 0.5 mm of their lattice (R169), whose origin is the intercept of the least-squares fit (DESIGN CHOICE, log 128). -/
def latticeOk (ps : List (Nat × Int)) : Bool :=
  let d := Hw.slope ps
  let n : Rat := (ps.length : Rat)
  let x0 : Rat := ((sumZ (ps.map (·.2)) : Int) : Rat) / n - d * ((sumL (ps.map (·.1)) : Nat) : Rat) / n
  ps.all fun p => let e := (p.2 : Rat) - x0 - d * (p.1 : Rat); decide (e ≤ 5) && decide (-5 ≤ e)
/-- GEOMETRY (R169). -/
def geometryOk (gs : List Geo) : Bool :=
  gs.all (fun g => decide (g.row ≤ 15) && decide (g.col ≤ 15) && decide (g.pol ≤ 1)) &&
    decide ((gs.map fun g => (g.row, g.col, g.pol)).eraseDups.length = gs.length) && latticeOk (gs.map fun g => (g.col, g.x)) &&
    latticeOk (gs.map fun g => (g.row, g.y))
/-- CFR (Table 5.3). -/
def cfrOk (c : Cfr) : Bool :=
  within 8192 32767 c.threshold && c.pulseLen % 2 == 1 && within 15 47 c.pulseLen && within 1 16 c.maxPeaks &&
    c.pulse.getD ((c.pulseLen - 1) / 2) ⟨0, 0⟩ == ⟨0x7FFF, 0⟩ && (c.pulse.drop c.pulseLen).all (· == ⟨0, 0⟩)
/-- A prime number. -/
def prime (n : Nat) : Bool := decide (2 ≤ n) && (List.range n).all fun d => decide (d < 2) || n % d != 0
/-- N_s of a family (R163). -/
def familyNs (f : Family) : Nat := pow2Above f.length 1
/-- CAIRN_FAMILY (Table 8.2). DESIGN CHOICE (log 128): HOP of a Zadoff-Chu family, 'Ignored; zero', must be zero. -/
def familyOk (f : Family) : Bool :=
  decide (familyNs f * familyHz f.scs ≤ 7680000) &&
  match f.kind with
  | 0 => prime f.length && within 127 1021 f.length && within 1 (f.length - 1) f.root && within 1 f.length f.cs && decide (f.scs ≤ 2) &&
      f.hop.all (· == 0)
  | 1 => prime f.length && within 31 139 f.length && within 1 (f.length - 1) f.root && within 1 f.length f.cs && within 2 4 f.scs &&
      f.hop.all (· == 0)
  | 2 => within 12 48 f.length && within 4 48 f.root && within 1 8 f.cs && decide (f.scs ≤ 1) && (f.hop.take f.root).all (· < f.length)
  | _ => false
/-- HK_SEQUENCE (R325, Table 2.4). -/
def hkOk (es : List HkEntry) : Bool :=
  es.all (fun e => decide (e.channel ≤ 11) && decide (e.delay ≤ 1023)) && decide (sumL (es.map fun e => 2 * e.delay + e.rep + 1) ≤ 10000) &&
    (List.range 10).all fun c => es.any fun e => e.channel == c
/-- FEM_POLICY (Table 14.6). -/
def policyOk (b : Bytes) : Bool :=
  let p := parsePolicy b
  decide (p.aI ≤ 0x8000) && decide (p.aP ≤ 0x8000) && decide (p.ea ≤ 2000) && withinZ (-400) 1500 p.tRef && decide (0x100 ≤ p.rateMax) &&
    zeros b 12 12 && withinZ (-400) 1500 p.tFemMax && decide (1 ≤ p.biasCount) && decide (1 ≤ p.reflCount) && decide (p.alarmOnExt ≤ 1) &&
    zeros b 33 1 && decide (p.alarmLevel ≤ 4095) && decide (p.supplyMin ≤ 4095) && within p.supplyMin 4095 p.supplyMax && zeros b 40 24 &&
    p.biasSafe.all (· < 8192) && zeros b 200 312
/-- Units of a set-up per flank (Table 17.1). -/
def capUnitsOf (tap : Nat) : Nat := if tap = 4 then 4 else 16
/-- Record size of a set-up (R374). -/
def capSize (c : CapSetup) : Nat := 64 + 4 * capUnitsOf c.tap * c.length + capUnitsOf c.tap * c.length / 8
/-- CAPTURE_SETUP (Table 17.2). -/
def capOk (c : CapSetup) : Bool :=
  decide (c.tap ≤ 4) && bits c.flankMask 0 4 != 0 && !bit c.flankMask 7 && (c.tap == 1 || bits c.flankMask 5 2 == 0) && c.length % 64 == 0 &&
    decide (128 ≤ c.length) && decide (capSize c ≤ 2097152) && c.pre % 64 == 0 && decide (c.pre + 64 ≤ c.length) &&
    (!bit c.sources 0 || c.care0 != 0) && (!bit c.sources 1 || c.care1 != 0) && bits c.sources 0 5 != 0
/-- CAL_LIMITS (Table 11.2). -/
def calLimitsOk (c : CalLimits) : Bool :=
  withinZ (-6000) 0 c.powerFloor && within 100 1806 c.spreadMax && c.minSamples % 4096 == 0 && within 65536 268435456 c.minSamples &&
    withinZ (-4000) 0 c.txEnergyFloor
/-- One section keeps its own limits (R430, part 2). -/
def rangeOk (nvm : Bytes) (s : Sec) : Bool :=
  let b := slice nvm s.offset s.length
  let rs := secRecs nvm s
  match s.type with
  | 0x0010 => pkgOk (parsePkg b)
  | 0x0011 => toutOk (rs.map parseTout)
  | 0x0012 => tddOk b
  | 0x0020 => slotOk s.inst (parseSlot b)
  | 0x0021 => costOk (rs.map parseCost)
  | 0x0030 => flowsOk (rs.map parseFlow)
  | 0x0040 => rs.all fun r => decide (rd r 0 2 ≤ 4095)
  | 0x0041 => rs.all fun r => within 4096 4607 (rd r 0 2) && within 1 512 (rd r 2 2) && decide (rd r 0 2 + rd r 2 2 ≤ 4608)
  | 0x0042 => geometryOk (rs.map parseGeo)
  | 0x0051 => cfrOk (parseCfr b)
  | 0x0060 => familyOk (parseFamily s.inst b)
  | 0x0061 => [1, 2, 4].contains (parseTemplate s.inst b).gridOs
  | 0x0090 => hkOk (rs.map fun r => { channel := rd r 0 1, rep := rd r 1 1, delay := rd r 2 2 })
  | 0x0091 => policyOk b
  | 0x00A0 => capOk (parseCap s.inst b)
  | 0x00B0 => calLimitsOk (parseCalLimits b)
  | _ => true

/-! ### Step 9, part 3: cross-checks -/

/-- Positions that any FLOW_SET names, ascending. -/
def namedPos (im : Image) : List Nat := [0, 1, 2, 3].filter fun p => (im.flows.map (·.2)).flatten.any fun f => f.pkgPos == p
/-- Flows of a FLOW_SET instance. -/
def flowSetOf (im : Image) (i : Nat) : List Flow := (assoc i im.flows).getD []
/-- The pattern set from an instance on (R190). -/
def patternSet (im : Image) : Nat → Nat → List Tdd
  | 0, _ => []
  | f + 1, i => match im.tdds.find? fun t => t.inst == i with
    | some t => t :: patternSet im f (i + 1)
    | none => []
/-- The masks of a pattern set are disjoint and cover every quad. -/
def coverOk (ts : List Tdd) : Bool := (List.range 16).all fun q => (ts.filter fun t => bit t.quadMask q).length == 1
/-- FEC is on at port A (R281). -/
def fecOnCfg (a : Nat) : Bool := bits a 0 2 == 2 || (bits a 0 2 == 1 && bit a 2)
/-- Forwarding is on for some named position in a slot (R281, R210). -/
def fwdSome (im : Image) (r : Slot) : Bool :=
  (namedPos im).any fun p => p != 0 || (flowSetOf im r.flowSet).all fun f => f.pkgPos != 0 || f.port != 1
/-- The checks of one slot: whether each holds, and the sections it reads. -/
def slotCross (im : Image) (r : Slot) : List (Bool × List (Nat × Nat)) :=
  let me := (0x0020, r.slot)
  let fsk := (0x0030, r.flowSet)
  let all := im.flows.map fun x => (0x0030, x.1)
  let a := im.pkg.portCfg.getD 0 0
  let b := im.pkg.portCfg.getD 1 0
  let fs := (flowSetOf im r.flowSet).filter fun f => f.dir ≤ 1
  let pats := patternSet im 16 r.tdd
  let mhz := fun d => sumL ((((fs.filter fun f => f.dir == d).map fun f => (f.carrier, f.layer)).eraseDups).map fun p =>
    ((r.inUse[p.1]?).map (·.bw)).getD 0)
  [(r.inUse.all fun c => decide (c.scs ≤ im.refScs), [me]),
   (r.inUse.all fun c => within 600000 7125000 c.rf, [me]),
   (r.kind != 0 || fecOnCfg a, [(0x0010, 0), me]),
   (r.kind != 2 || (bits a 0 2 == 1 && !bit a 2), [(0x0010, 0), me]),
   (fs.all fun f => decide (f.carrier < r.nCarriers), [me, fsk]),
   (fs.all fun f => decide (f.layer < if r.kind = 2 then r.tdBeams else if f.dir = 0 then r.layersDl else r.layersUl), [me, fsk]),
   (r.kind == 2 || (decide (mhz 0 ≤ r.lmhzDl) && decide (mhz 1 ≤ r.lmhzUl)), [me, fsk]),
   (coverOk pats, me :: pats.map fun t => (0x0012, t.inst)),
   (!fwdSome im r || bits b 0 2 == 0 || bits b 0 2 == bits a 0 2, (0x0010, 0) :: me :: all)]
/-- All cross-checks but R222 (R430, part 3). -/
def crossChecks (im : Image) : List (Bool × List (Nat × Nat)) :=
  let all := im.flows.map fun x => (0x0030, x.1)
  let flat := (im.flows.map fun x => x.2.map fun f => (x.1, f)).flatten
  let named := namedPos im
  let rows := pow2Above (im.geometry.foldl (fun m g => Nat.max m g.row) 0 + 1) 1
  let cols := pow2Above (im.geometry.foldl (fun m g => Nat.max m g.col) 0 + 1) 1
  let set7 := ((im.slots.find? fun r => r.slot == 7).map fun r => flowSetOf im r.flowSet).getD []
  [(im.pkg.arrayBudget == 0 || decide (200 ≤ im.pkg.arrayBudget / named.length), (0x0010, 0) :: all),
   (named.all fun p => set7.any fun f => f.pkgPos == p, (0x0020, 7) :: all)] ++
  (flat.map fun x => flat.map fun y =>
    ((x.2.pkgPos == y.2.pkgPos) == (x.2.srcMac == y.2.srcMac), [(0x0030, x.1), (0x0030, y.1)])).flatten ++
  (im.slots.map (slotCross im)).flatten ++
  (im.tdds.map fun t => ((20 * ticksPerHalf im.refScs / 14) % t.periodSlots == 0, [(0x0012, t.inst)])) ++
  (im.templates.map fun t =>
    let n := t.gridOs * rows * (t.gridOs * cols)
    (decide (n ≤ 1024) && decide (t.maxBeams ≤ n), [(0x0061, t.inst), (0x0042, 0)]))
/-- Smallest of some numbers. -/
def minOf : List Nat → Option Nat
  | [] => none
  | a :: r => match minOf r with
    | none => some a
    | some b => some (Nat.min a b)
/-- FAIL_ENTRY of the cross-check that R430 reports. -/
def crossFail (im : Image) : Option Nat :=
  minOf (((crossChecks im).filter fun c => !c.1).filterMap fun c => minOf (c.2.filterMap fun k => secIdx im k.1 k.2))

/-! ### Step 9, part 4: cost tables; part 5: padding -/

/-- The jobs a slot requires (Table 2.8a), BASELINE aside. -/
def requiredJobs (r : Slot) : List Nat :=
  (if r.kind = 2 then [5] else [1, 2]) ++ (if r.kind = 4 then [] else [3, 0x0101]) ++ (if r.cairn = 1 then [4, 0x0102] else []) ++
    (if r.dpdMode = 0 then [] else [0x0100]) ++ [0x0103, 0x0104]
/-- R44 for the COST_TABLE of a slot. -/
def costHas (r : Slot) (cs : List Cost) : Bool :=
  ([0, 1, 2].all fun d => cs.any fun c => c.job == 0 && c.die == d) && (requiredJobs r).all fun j => cs.any fun c => c.job == j
/-- R222 and R162 for a COST_TABLE; the fit to POWER_CAP for one that a slot has. -/
def costRange (im : Image) (slot : Bool) (cs : List Cost) : Bool :=
  let base := cs.filter fun c => c.job == 0
  base.all (fun c => c.scope == 3) && (([0, 1, 2].all fun d => (base.filter fun c => c.die == d).length == 1) && base.length == 3) &&
    cs.all (fun c => (c.job != 4 && c.job != 0x0102) || (c.scope == 4 && c.die == 2)) &&
    cs.all (fun c => decide (c.torCc ≤ normalLen im.refScs)) &&
    (!slot || decide (sumL (base.map (·.energy)) * 983040 ≤ im.pkg.powerCap * normalLen im.refScs * 100000))
/-- The first COST_TABLE entry that fails, and whether as IMG_RANGE. -/
def costFail (im : Image) : Option (Bool × Nat) :=
  im.secs.zipIdx.findSome? fun x =>
    if x.1.type = 0x0021 then
      let cs := (assoc x.1.inst im.costs).getD []
      match im.slots.find? fun r => r.slot == x.1.inst with
      | some r => if !costHas r cs then some (false, x.2) else if costRange im true cs then none else some (true, x.2)
      | none => if costRange im false cs then none else some (true, x.2)
    else none
/-- Every byte of the signed region outside the header, the table and the sections is zero (R430, part 5). -/
def paddingOk (nvm : Bytes) (im : Image) : Bool := go (256 + 16 * im.sectionCount) im.secs
where
  /-- gaps from a position on -/
  go : Nat → List Sec → Bool
    | p, [] => zeros nvm p (im.imageSize - p)
    | p, s :: r => zeros nvm p (s.offset - p) && go (s.offset + s.length) r
/-- Step 9: whether the failure is IMG_RANGE, and FAIL_ENTRY. -/
def stepNine (nvm : Bytes) (im : Image) : Option (Bool × Nat) :=
  match requiredFail nvm im with
  | some i => some (false, i)
  | none => match im.secs.findIdx? fun s => !rangeOk nvm s with
    | some i => some (true, i)
    | none => match crossFail im with
      | some i => some (true, i)
      | none => match costFail im with
        | some f => some f
        | none => if paddingOk nvm im then none else some (false, 0x1FF)

/-! ### Loading (R45, R128) -/

/-- The 64 weights of a codebook beam into the four slices. -/
def loadBeam (m : Mem) (r : Bytes) : Mem :=
  (List.range 64).foldl (fun m p => m.write (codebookAddr (rd r 0 2) p) (slice r (4 + 4 * p) 4)) m
/-- The sections that go into addressed memories. DESIGN CHOICE (log 87): of two CODEBOOK records with one BEAM_ID the later is
written last and stays; the spec gives no rule against them. -/
def loadImage (m : Mem) (nvm : Bytes) (im : Image) : Mem :=
  im.secs.foldl (fun m s =>
    match s.type with
    | 0x0070 => m.write (0x11000000 + s.inst * 0x10000) (slice nvm s.offset s.length)
    | 0x0071 => m.write (0x10000000 + s.inst * 0x40000) (slice nvm s.offset s.length)
    | 0x0040 => (secRecs nvm s).foldl loadBeam m
    | _ => m) m

end Sys2Proof.Machine
end

