-- ==== Sys2Proof/Machine/Record.lean ====
section
/-! DEFINITION. The calibration record: its layout (R52, Tables 2.12 and 2.13), its validity (R53, R54), the record that the
values in force make (R247), and CAL_MIRROR (R248). -/
namespace Sys2Proof.Machine

/-- Size of the record. -/
def recordSize : Nat := 4420
/-- Trim threshold of comparator i (R77). -/
def Trim.th (t : Trim) (i : Nat) : Int := t.thresh.getD i 0
/-- DELAY_TAP, DELAY_INT, two zero bytes and GAIN. -/
def trimHead (t : Trim) : Bytes :=
  le 1 t.tap ++ le 1 (code 8 t.int) ++ le 2 0 ++ le 2 (code 16 t.gain.i) ++ le 2 (code 16 t.gain.q)
/-- The first bytes of an entry read back. -/
def parseTrim (b : Bytes) : Trim :=
  { tap := rd b 0 1, int := signed 8 (rd b 1 1), gain := ⟨signed 16 (rd b 4 2), signed 16 (rd b 6 2)⟩ }
/-- A trim's thresholds, from `n` signed bytes. -/
def parseThresh (b : Bytes) (o n : Nat) : List Int := (List.range n).map fun i => signed 8 (rd b (o + i) 1)
/-- Six bytes of quality. -/
def qualBytes (q : Quality) : Bytes := le 2 (code 16 q.phase) ++ le 2 (code 16 q.delay) ++ le 2 (code 16 q.gain)
/-- Quality read back. -/
def parseQual (b : Bytes) (o : Nat) : Quality :=
  { phase := signed 16 (rd b o 2), delay := signed 16 (rd b (o + 2) 2), gain := signed 16 (rd b (o + 4) 2) }
/-- Path entry (Table 2.13). -/
def pathEntry (p : Path) : Bytes :=
  trimHead p.rxTrim ++ ((List.range 32).map fun i => le 1 (code 8 (p.rxTrim.th i))).flatten ++ trimHead p.txTrim ++ qualBytes p.qRx ++
    qualBytes p.qTx ++ le 4 0
/-- Entry of an observation receiver (Table 2.12). -/
def obsEntry (t : Trim) : Bytes := trimHead t ++ ((List.range 8).map fun i => le 1 (code 8 (t.th i))).flatten

namespace Hw

/-- DIE_ID as bytes. -/
def dieBytes (h : Hw) : Bytes := le 16 h.sys.dieId.toNat
/-- The record of the values in force (R247): target, origin, write count and COMMIT_S are given. -/
def record (h : Hw) (target origin count commitS : Nat) : Bytes :=
  let b := le 4 0x524C4143 ++ le 2 1 ++ le 2 recordSize ++ h.dieBytes ++ le 4 count ++ le 6 commitS ++ le 1 target ++ le 1 origin ++
    qualBytes h.cal.qArrayRx ++ qualBytes h.cal.qArrayTx ++ List.replicate 16 0 ++ (h.paths.toList.map pathEntry).flatten ++
    (h.quads.toList.map fun q => obsEntry q.obs.trim).flatten
  b ++ le 4 (crc32 (h.dieBytes ++ b))
/-- CAL_MIRROR rebuilt (R248): the record that the next store would write, with ORIGIN 1 (log 28). -/
def rebuildMirror (h : Hw) : Hw :=
  h.onCal fun c => { c with mirror := h.record c.target 1 ((h.img.storeCount + 1) % 2 ^ 32) (todS h.now) }
/-- CRC of a record read back (R53). -/
def recordCrcOk (h : Hw) (b : Bytes) : Bool := rd b 4416 4 == crc32 (h.dieBytes ++ b.take 4416)
/-- CAL_STATE of a record (R54). -/
def calStateOf (h : Hw) (b : Bytes) : Nat :=
  if b.length = recordSize && b.all (· == 0xFF) then 1
  else if b.length != recordSize || rd b 0 4 != 0x524C4143 || rd b 4 2 != 1 || rd b 6 2 != recordSize then 3
  else if slice b 8 16 != h.dieBytes || !h.recordCrcOk b then 2
  else 0
/-- Trims taken from a valid record; nominal otherwise (R54, R77). -/
def loadRecord (h : Hw) (b : Bytes) : Hw :=
  let st := h.calStateOf b
  let h := { h with img := { h.img with calState := st }, sta := { h.sta with calRead := some b } }
  if st = 0 then
    let h := h.onPaths fun n p =>
      let e := slice b (64 + 64 * n) 64
      { p with trimSource := true, rxTrim := { parseTrim e with thresh := parseThresh e 8 32 }, txTrim := parseTrim (e.drop 40) }
    h.onQuads fun q x =>
      let e := slice b (4160 + 16 * q) 16
      { x with obs := { x.obs with trim := { parseTrim e with thresh := parseThresh e 8 8 } } }
  else h.alarm 0x0801 st
/-- What S4 exit takes from the record: the quality figures and the store count of a valid one, and CAL_MIRROR (R246 to R248). -/
def recordAtExit (h : Hw) : Hw :=
  let b := h.sta.calRead.getD []
  let h := if h.img.calState = 0 then
      let h := { h with img := { h.img with storeCount := rd b 24 4 } }
      let h := h.onPaths fun n p => { p with qRx := parseQual b (112 + 64 * n), qTx := parseQual b (118 + 64 * n) }
      h.onCal fun c => { c with qArrayRx := parseQual b 36, qArrayTx := parseQual b 42 }
    else h
  h.rebuildMirror

end Hw
end Sys2Proof.Machine
end

