-- ==== Sys2Proof/Machine/Engw.lean ====
section
/-! DEFINITION. Stores by Tor engines: the ENG fields of the observation registers (R349), and the access of each region
(R354, Table 16.2). -/
namespace Sys2Proof.Machine

/-- Position of the register in its block, element and byte at an offset (R394). -/
def regPos : List Reg → Nat → Nat → Nat → Option (Nat × Nat × Nat)
  | [], _, _, _ => none
  | r :: rest, next, o, p =>
    let sz := regSize r.w
    let base := ceilDiv next sz * sz
    if o < base then none
    else if o < base + sz * regCount r.dims then some (p, (o - base) / sz, (o - base) % sz)
    else regPos rest (base + sz * regCount r.dims) o (p + 1)

namespace Hw

/-- The engines, the only writers of ENG fields (R349), have left reset: from S5 on (R63, R331). -/
def engOn (h : Hw) : Bool := 5 ≤ h.sta.stage
/-- Engine t runs. -/
def engRuns (h : Hw) (t : EngId) : Bool := h.engOn && (h.eng t).state == 1
/-- TRL_CLASS_LIMIT written (R225): effective on the next tick. -/
def classWrite (h : Hw) (c mask val : Nat) : Hw :=
  h.onTrl fun t =>
    let w := mergeBits ((getN t.classNext c none).getD (getN t.classLimit c 0)) (mask &&& 0xFF) val % 256
    { t with classNext := updN t.classNext c fun _ => some w }
/-- TOR_STAT_OFFER written (R346): effective on the next tick. -/
def offerWrite (h : Hw) (t mask val : Nat) : Hw :=
  h.onTor t fun e => { e with statNext := some (mergeBits (e.statNext.getD e.statOffer) (mask &&& 0xFF) val % 256) }
/-- TOR_ROUTE_DPD written (R346). -/
def routeDpd (h : Hw) (q mask val : Nat) : Hw :=
  h.onQuad q fun x => { x with routeNext := some (Fin.ofNat 16 (mergeBits (x.routeNext.getD x.route).val (mask &&& 0xF) val)) }
/-- TOR_ROUTE_CRN written (R346). -/
def routeCrn (h : Hw) (c mask val : Nat) : Hw :=
  h.onCrn fun x =>
    let w := mergeBits ((getN x.routeNext c none).getD (getN x.route c 0)).val (mask &&& 0xF) val
    { x with routeNext := updN x.routeNext c fun _ => some (Fin.ofNat 16 w) }
/-- TOR_EVSEL written (R343): the slot names a line and loses its pending bit. -/
def evselWrite (h : Hw) (t k mask val : Nat) : Hw :=
  h.onTor t fun e =>
    let s := getN e.ev k {}
    let w := mergeBits (s.line + 256 * b2n s.enable) (mask &&& 0x1FF) val
    { e with ev := updN e.ev k fun _ => { line := w % 256, enable := bit w 8, pending := false } }
/-- A channel meets its first store of a cycle: what the cycle began with is kept (R366, R367). -/
def dmaCycle (up : Nat) (d : Dma) : Dma :=
  if d.cycle = some up then d else { d with cycle := some up, sh0 := d.sh, commit0 := d.commit, asked := false, stores := [] }
/-- COMMIT written as 1, by a quantum of the list (R366). -/
def dmaAsk (h : Hw) (by_ : List Nat) (c : Nat) : Hw :=
  h.onDma c fun d => { dmaCycle h.sta.since d with commit := true, asked := true, nextBy := noted by_ d.nextBy }
/-- RECOVER written as 1 (R370): only ERROR is left. -/
def dmaLeave (h : Hw) (c : Nat) : Hw :=
  h.onDma c fun d => if d.state = 2 then { d with state := 0, moved := some h.sta.since } else d
/-- Engine t stores bits of a shadow register of a channel: those that an engine with a higher number has stored in the same cycle
stand (R367). `f` puts the bits under a mask in place. -/
def dmaStore (h : Hw) (t c reg mask : Nat) (f : Nat → DmaSet → DmaSet) : Hw :=
  h.onDma c fun d =>
    let d := dmaCycle h.sta.since d
    let above := (d.stores.filter fun x => x.1 == reg && decide (t < x.2.1)).foldl (fun a x => a ||| x.2.2) 0
    { d with sh := f (mask &&& ((2 ^ 128 - 1) ^^^ above)) d.sh, stores := (reg, t, mask) :: d.stores }
/-- DPD_OBS_CTL written: buffer size, enable, and the end of a round. -/
def obsCtl (h : Hw) (q mask val : Nat) : Hw :=
  let h := h.onQuad q fun x => { x with obs := { x.obs with
    bufSlots := mergeBits x.obs.bufSlots (mask &&& 0x3F) val, enable := if bit mask 6 then bit val 6 else x.obs.enable } }
  h.whenB (bit (mask &&& val) 7) fun h => h.obsRoundDone q

/-- The ENG fields of the register at an offset of the observation region that a store of the bits under `mask` changes (R349), engine t making it. -/
def engStore (h : Hw) (t o mask val : Nat) : Hw :=
  let blk := o / 0x40000
  match (blocks[blk]?).bind fun rs => regPos rs 0 (o % 0x40000) 0 with
  | none => h
  | some (p, e, b) =>
    let m8 := mask * 256 ^ b
    let v8 := val * 256 ^ b
    match blk, p with
    | 4, 2 => h.toneCfg e m8 v8
    | 4, 3 => h.toneFtw e m8 v8
    | 6, 1 =>
      let h := h.whenB (bit (m8 &&& v8) 0) fun h => h.dpdRequest (h.dpdBy t) e
      h.whenB (bit (m8 &&& v8) 1) fun h => h.dpdAskInit e
    | 6, 2 => h.dpdQuality e m8 v8
    | 6, 3 => h.obsCtl e m8 v8
    | 6, 4 => h.onQuad e fun x => { x with obs := { x.obs with base := mergeBits x.obs.base m8 v8 % 2 ^ 32 } }
    | 9, 5 => h.classWrite e m8 v8
    | 11, 2 => h.whenB (bit (m8 &&& v8) 0) fun h => h.cmpArm e
    | 11, 6 => h.onPath e fun x => { x with cmp := { x.cmp with target := BitVec.ofNat 32 (mergeBits x.cmp.target.toNat m8 v8) } }
    | 15, 2 =>
      let h := h.onQuad e fun x => { x with injCtl := mergeBits x.injCtl (m8 &&& 0xF) v8 }
      h.whenB (bit (m8 &&& v8) 4) fun h => h.injectAsk e ((h.quad e).injCtl % 16) false
    | 16, 1 => h.onTor e fun x => { x with scale := BitVec.ofNat 2 (mergeBits x.scale.toNat (m8 &&& 3) v8) }
    | 16, 2 => h.evselWrite (e / 8) (e % 8) m8 v8
    | 16, 4 => h.offerWrite e m8 v8
    | 16, 5 => h.routeDpd e m8 v8
    | 16, 6 => h.routeCrn e m8 v8
    | 17, 0 => h.dmaStore t e 0 (m8 &&& 0x3FFFFFF) fun k s =>
        let w := mergeBits (s.srcCount + 4096 * s.dstCount + 2 ^ 24 * s.prio) k v8
        { s with srcCount := bits w 0 12, dstCount := bits w 12 12, prio := bits w 24 2 }
    | 17, 1 =>
      let h := h.whenB (bit (m8 &&& v8) 0) fun h => h.dmaAsk (h.dpdBy t) e
      h.whenB (bit (m8 &&& v8) 1) fun h => h.dmaLeave e
    | 17, 6 => h.dmaStore t e 6 m8 fun k s => { s with src := mergeBits s.src k v8 % 2 ^ 32 }
    | 17, 7 => h.dmaStore t e 7 m8 fun k s => { s with dst := mergeBits s.dst k v8 % 2 ^ 32 }
    | _, _ => h

/-- A store of `w` bytes by engine t at a mapped, aligned global address it may name (R354): stored, dropped and counted, or put
into ENG fields. A store to its own program memory is not this operation's (R348). -/
def torStore (h : Hw) (m : Mem) (t a w val : Nat) : Hw × Mem :=
  match region a with
  | .data _ _ | .shared _ => (h.noteMerge m a w, m.write a (le w val))
  | .dpdShadow o => (h.dpdStore (h.dpdBy t) (o / 0x6000) (o % 0x6000 / 4) ((2 ^ (8 * w) - 1) * 256 ^ (o % 4)) (val % 2 ^ (8 * w) * 256 ^ (o % 4)), m)
  | .dpdActive o => (h.dpdActiveStore (o / 0x6000), m)
  | .observation o => (h.engStore t o (2 ^ (8 * w) - 1) (val % 2 ^ (8 * w)), m)
  | _ => (h.onTor t fun e => { e with storeDropped := inc e.storeDropped }, m)

end Hw
end Sys2Proof.Machine
end

