-- ==== Sys2Proof/Machine/Operands.lean ====
section
/-! DEFINITION. Operands of Tor instructions: register codes (R333), complex values and accumulators (R332), addresses (R335,
R336), moves out of accumulators (R339), and the distances of results (R341). -/
namespace Sys2Proof.Machine
namespace Tor

/-! ### Registers -/

/-- D register by number. -/
def dReg (e : Tor) (i : BitVec 4) : Word := getN e.d i.toNat 0
/-- D register written. -/
def setD (e : Tor) (i : BitVec 4) (v : Word) : Tor := { e with d := updN e.d i.toNat fun _ => v }
/-- Accumulator by number. -/
def aReg (e : Tor) (i : BitVec 2) : Acc := getN e.a i.toNat {}
/-- Accumulator written. -/
def setA (e : Tor) (i : BitVec 2) (v : Acc) : Tor := { e with a := updN e.a i.toNat fun _ => v }
/-- Address register by number. -/
def pReg (e : Tor) (i : BitVec 3) : Word := getN e.p i.toNat 0
/-- Value of a register code (Table 15.2); `none` reserved. -/
def readCode (e : Tor) (c : BitVec 6) : Option Word :=
  let i := c.toNat % 8
  if c.toNat < 0x10 then some (getN e.d c.toNat 0)
  else if c.toNat < 0x18 then some (getN e.p i 0)
  else if c.toNat < 0x20 then some (getN e.m i 0)
  else if c.toNat < 0x28 then some (getN e.b i 0)
  else if c.toNat < 0x30 then some (getN e.l i 0)
  else if c.toNat = 0x30 then some (BitVec.ofNat 32 (Hw.estat e))
  else none
/-- A register code that MOV and MVI may write (Table 15.2). -/
def writable (c : BitVec 6) : Bool := decide (c.toNat < 0x30)
/-- The register of a code written. -/
def writeCode (e : Tor) (c : BitVec 6) (v : Word) : Tor :=
  let i := c.toNat % 8
  if c.toNat < 0x10 then { e with d := updN e.d c.toNat fun _ => v }
  else if c.toNat < 0x18 then { e with p := updN e.p i fun _ => v }
  else if c.toNat < 0x20 then { e with m := updN e.m i fun _ => v }
  else if c.toNat < 0x28 then { e with b := updN e.b i fun _ => v }
  else if c.toNat < 0x30 then { e with l := updN e.l i fun _ => v }
  else e

/-! ### Complex values -/

/-- I and Q of a D register, Q1.15. -/
def iq (w : Word) : IQ := ⟨signed 16 w.toNat, signed 16 (w.toNat / 65536)⟩
/-- The conjugate, exact. -/
def conj (z : IQ) : IQ := ⟨z.i, -z.q⟩
/-- The exact product (after Table 15.4). -/
def mulIQ (x y : IQ) : IQ := ⟨x.i * y.i - x.q * y.q, x.i * y.q + x.q * y.i⟩
/-- An exact value in the 40 bits of an accumulator part. -/
def fits40 (x : Int) : Bool := decide (-549755813888 ≤ x) && decide (x ≤ 549755813887)
/-- Accumulator parts given exact values: the low 40 bits are kept, GX is set when either was outside the range (R340). -/
def putA (e : Tor) (i : BitVec 2) (z : IQ) : Tor :=
  { e.setA i { re := BitVec.ofInt 40 z.i, im := BitVec.ofInt 40 z.q } with gx := e.gx || !(fits40 z.i && fits40 z.q) }
/-- The exact content of an accumulator. -/
def accIQ (a : Acc) : IQ := ⟨a.re.toInt, a.im.toInt⟩

/-! ### Moves out (R339) -/

/-- Step 1 and 2: shifted by f + k of SCALE and truncated toward minus infinity. -/
def scaled (scale : BitVec 2) (f : Nat) (x : Int) : Int :=
  if scale.toNat = 3 then (2 * x) / (2 ^ f : Int) else x / (2 ^ (f + scale.toNat) : Int)
/-- The SCALE that a move uses: the earlier one right after SETS (R340). -/
def moveScale (e : Tor) : BitVec 2 := if e.justSet then e.prevScale else e.scale
/-- The word moved out, and whether a part was clamped. FORM 1 moves the real part to 32 bits, FORM 0 both parts to 16 bits. -/
def moveOut (e : Tor) (i : BitVec 2) (form : Bool) : Word × Bool :=
  let z := accIQ (e.aReg i)
  let k := e.moveScale
  if form then
    let r := scaled k 0 z.i
    let c := clampZ (-2147483648) 2147483647 r
    (BitVec.ofInt 32 c, c != r)
  else
    let r := scaled k 15 z.i
    let q := scaled k 15 z.q
    (BitVec.ofNat 32 (Machine.code 16 (sat16 r) + 65536 * Machine.code 16 (sat16 q)), sat16 r != r || sat16 q != q)

/-! ### Addresses -/

/-- The post-modify of R336. -/
def postMod (e : Tor) (i : BitVec 3) (step : Int) : Tor :=
  let p := ((getN e.p i.toNat 0).toNat : Int)
  let b := ((getN e.b i.toNat 0).toNat : Int)
  let l := ((getN e.l i.toNat 0).toNat : Int)
  let p' := if l = 0 then p + step else b + (p - b + step) % l
  { e with p := updN e.p i.toNat fun _ => BitVec.ofInt 32 p' }
/-- The step that Mi holds. -/
def mStep (e : Tor) (i : BitVec 3) : Int := (getN e.m i.toNat 0).toInt
/-- The address that MODE forms from Pi, and the engine after the post-modify (R335); `none` a reserved MODE. -/
def addrOf (e : Tor) (i : BitVec 3) (mode : BitVec 2) (imm : Int) : Option (Nat × Tor) :=
  let p := (e.pReg i).toNat
  match mode.toNat with
  | 0 => some ((BitVec.ofInt 32 ((p : Int) + imm)).toNat, e)
  | 1 => some (p, e.postMod i (e.mStep i))
  | 2 => some (p, e.postMod i imm)
  | _ => none
/-- The global address of an address as engine t sees it (R335). -/
def globalOf (t : EngId) (a : Nat) : Nat := if a < 0x40000 then 0x10000000 + t.val * 0x40000 + a else a
/-- The address lies in the engine's own data memory. -/
def ownData (t : EngId) (a : Nat) : Bool := match region (globalOf t a) with
  | .data u _ => u == t.val
  | _ => false
/-- The address lies in the engine's own program memory. -/
def ownProg (t : EngId) (a : Nat) : Bool := match region (globalOf t a) with
  | .prog u _ => u == t.val
  | _ => false
/-- The cause that stops an access of `w` bytes at an address before it is made (R348), if any. -/
def accessCause (t : EngId) (a w : Nat) (store : Bool) : Option Nat :=
  if a % w ≠ 0 then some 4
  else if region (globalOf t a) = .unmapped || (store && ownProg t a) then some 5
  else none
/-- The D register after a load of a word or of a halfword into one of its halves (R335). -/
def loadInto (old : Word) (size half : Bool) (v : Nat) : Word :=
  if !size then BitVec.ofNat 32 v
  else if half then BitVec.ofNat 32 (old.toNat % 65536 + 65536 * (v % 65536))
  else BitVec.ofNat 32 (old.toNat / 65536 * 65536 + v % 65536)
/-- Bytes that SIZE moves. -/
def sizeBytes (size : Bool) : Nat := if size then 2 else 4

/-! ### Result distances (R341) -/

/-- A result that an instruction needs: kind and register as in Prod, and the distance of Table 15.8. -/
abbrev Need := Nat × Nat × Nat
/-- A D register used by the ALU, a store, MOV or a QMAC group. -/
def needD (i : Nat) : Need := (1, i, 2)
/-- Pi, Bi and Li, which a post-modify by an immediate uses (R336). -/
def needMod (i : BitVec 3) : List Need := [(2, i.toNat, 2), (2, 16 + i.toNat, 2), (2, 24 + i.toNat, 2)]
/-- The same and Mi, which a post-modify by the step uses. -/
def needStep (i : BitVec 3) : List Need := (2, 8 + i.toNat, 2) :: needMod i
/-- The registers that address generation in a MODE uses (R335). -/
def needP (i : BitVec 3) (mode : BitVec 2) : List Need :=
  match mode.toNat with
  | 0 => [(2, i.toNat, 2)]
  | 1 => needStep i
  | _ => needMod i
/-- An accumulator moved out. -/
def needA (i : BitVec 2) : Need := (3, i.toNat, 3)
/-- Stall cycles before the instruction may issue. -/
def stallFor (e : Tor) (ns : List Need) : Nat :=
  ns.foldl (fun a n => (e.prods.filter fun p => p.kind == n.1 && p.reg == n.2.1).foldl
    (fun a p => Nat.max a (p.at_ + n.2.2 - e.cyc)) a) 0
/-- The engine after an instruction of `cc` cycles that needed `ns` and produced `ps`: stalls and cycles counted. -/
def issue (e : Tor) (ns : List Need) (ps : List (Nat × Nat)) (cc : Nat) : Tor :=
  let st := e.stallFor ns
  let c0 := e.cyc + st
  { e with cyc := c0 + cc, stalls := cnt 48 e.stalls st, cycles := cnt 48 e.cycles cc
           prods := (ps.map fun p => { kind := p.1, reg := p.2, at_ := c0 : Prod }) ++ e.prods.filter fun p => c0 < p.at_ + 3 }

/-- A global store is posted in the instruction just issued (R337): with 8 outstanding it stalls until the oldest has completed, which
takes a time that the spec leaves open (log 124). -/
def post (e : Tor) : Tor :=
  let c0 := e.cyc - 1
  let st := match e.posted[7]? with
    | some c => c + Config.storeCc - c0
    | none => 0
  { e with cyc := e.cyc + st, stalls := cnt 48 e.stalls st, posted := (c0 + st) :: e.posted.take 7 }

end Tor
end Sys2Proof.Machine
end

