-- ==== Sys2Proof/Machine/Flags.lean ====
section
/-! DEFINITION. Flags of the Tor ALU (Table 15.6) and branch conditions (Table 15.5). -/
namespace Sys2Proof.Machine
namespace Tor

/-- Z and N of a result. -/
def flagsZN (e : Tor) (r : Word) : Tor := { e with z := r == 0, n := r.msb }
/-- Z, N, C and V of a + b. -/
def flagsAdd (e : Tor) (a b : Word) : Tor :=
  { e.flagsZN (a + b) with
    c := decide (2 ^ 32 ≤ a.toNat + b.toNat), v := (a.msb == b.msb) && ((a + b).msb != a.msb) }
/-- Z, N, C and V of a - b: C is 1 when no borrow occurs. -/
def flagsSub (e : Tor) (a b : Word) : Tor :=
  { e.flagsZN (a - b) with
    c := decide (b.toNat ≤ a.toNat), v := (a.msb != b.msb) && ((a - b).msb != a.msb) }
/-- Z, N and the last bit out of a shift; `out` is `none` for a shift by 0, from which no bit goes out: then C is open (log 18). -/
def flagsShift (e : Tor) (r : Word) (out : Option Bool) (free : Nat) : Tor :=
  { e.flagsZN r with c := out.getD (Config.openCarry free) }
/-- A saturated half, and whether it was clamped. -/
def half (x : Int) : Nat × Bool := (Machine.code 16 (sat16 x), sat16 x != x)
/-- ADD2 and SUB2: each half summed with a sign, saturated; Z when both are zero, SAT when either saturated. -/
def pair (e : Tor) (sub : Bool) (a b : Word) : Word × Tor :=
  let x := iq a
  let y := iq b
  let lo := half (if sub then x.i - y.i else x.i + y.i)
  let hi := half (if sub then x.q - y.q else x.q + y.q)
  (BitVec.ofNat 32 (lo.1 + 65536 * hi.1), { e with z := lo.1 == 0 && hi.1 == 0, sat := e.sat || lo.2 || hi.2 })
/-- Whether a branch condition holds; `none` illegal (Table 15.5). -/
def holds (e : Tor) (c : BitVec 4) : Option Bool :=
  match c.toNat with
  | 0 => some true
  | 1 => some e.z
  | 2 => some (!e.z)
  | 3 => some e.n
  | 4 => some (!e.n)
  | 5 => some e.c
  | 6 => some (!e.c)
  | 7 => some e.v
  | 8 => some e.gx
  | 9 => some e.sat
  | _ => none

end Tor
end Sys2Proof.Machine
end

