-- ==== Sys2Proof/Machine/TorCode.lean ====
section
/-! DEFINITION. The encoding of Tor instructions (R334, Tables 15.3 to 15.6): the words of an instruction, the instruction that words
spell, and the one that stands at an engine's program counter (R331, R348). The commands of the table carry the fields; fields marked
zero are operands, and a value other than zero makes the instruction illegal when it runs. Bits that the table does not name are
ignored (log 34). -/
namespace Sys2Proof.Machine

/-- `w` bits of a word from bit `lo`. -/
abbrev fld (word : Word) (lo w : Nat) : BitVec w := word.extractLsb' lo w
/-- A bit of a word. -/
abbrev fbit (word : Word) (i : Nat) : Bool := word.getLsbD i

/-- An instruction of OP 0x12 (Table 15.6). -/
def decodeAlu (t : EngId) (w ext : Word) : Option Instr :=
  let x := fbit w 25
  let d := fld w 17 4
  let a := fld w 13 4
  let b := fld w 9 4
  match (fld w 21 4).toNat with
  | 0 => some (.add t x d a b ext)
  | 1 => some (.sub t x d a b ext)
  | 2 => some (.and t x d a b ext)
  | 3 => some (.or t x d a b ext)
  | 4 => some (.xor t x d a b ext)
  | 5 => some (.shl t x d a b ext)
  | 6 => some (.sar t x d a b ext)
  | 7 => some (.shr t x d a b ext)
  | 8 => some (.add2 t x d a b ext)
  | 9 => some (.sub2 t x d a b ext)
  | 10 => some (.cmp t x d a b ext)
  | _ => none

/-- An instruction of OP 0x20 (Table 15.4). -/
def decodeMac (t : EngId) (w : Word) : Option Instr :=
  let x := fbit w 25
  let a := fld w 23 2
  let dx := fld w 19 4
  let dy := fld w 15 4
  match (fld w 12 3).toNat with
  | 0 => some (.cmac t x a dx dy)
  | 1 => some (.cmacj t x a dx dy)
  | 2 => some (.cmsu t x a dx dy)
  | 3 => some (.cmul t x a dx dy)
  | 4 => some (.rmac t x a dx dy)
  | 5 => some (.clr t x a dx dy)
  | _ => none

/-- The instruction that a word and the word after it spell at engine t; `none`: the encoding is illegal (R334). -/
def torDecode (t : EngId) (w ext : Word) : Option Instr :=
  let x := fbit w 25
  match (fld w 26 6).toNat with
  | 0x00 => some (.halt t x (fld w 8 17) (fld w 0 8))
  | 0x01 => some (.nop t x (fld w 0 25))
  | 0x02 => some (.loop t x (fld w 16 9) (fld w 0 16) ext)
  | 0x03 => some (.br t x (fld w 21 4) (fld w 0 21) ext)
  | 0x04 => some (.call t x (fld w 0 21) ext)
  | 0x05 => some (.ret t x (fld w 0 25))
  | 0x06 => some (.wait t x (fld w 0 8))
  | 0x07 => some (.signal t x (fld w 0 25))
  | 0x08 => some (.done t x (fld w 0 25))
  | 0x09 => some (.jpop t x (fld w 21 4))
  | 0x0A => some (.sets t x (fld w 0 2))
  | 0x0B => some (.clrf t x (fld w 0 3))
  | 0x10 => some (.mvi t x (fld w 19 6) (fld w 0 16) ext)
  | 0x11 => some (.mov t x (fld w 19 6) (fld w 13 6))
  | 0x12 => decodeAlu t w ext
  | 0x13 => some (.modp t x (fld w 22 3) (fbit w 21) (fld w 0 16) ext)
  | 0x18 => some (.ld t x (fld w 21 4) (fld w 18 3) (fld w 16 2) (fbit w 15) (fbit w 14) (fld w 0 14) ext)
  | 0x19 => some (.st t x (fld w 21 4) (fld w 18 3) (fld w 16 2) (fbit w 15) (fbit w 14) (fld w 0 14) ext)
  | 0x1A => some (.mva t x (fld w 23 2) (fld w 19 4) (fbit w 18))
  | 0x1B => some (.sta t x (fld w 23 2) (fbit w 22) (fld w 19 3) (fld w 17 2) (fld w 14 3) (fld w 0 14) ext)
  | 0x1C => some (.lda t x (fld w 23 2) (fld w 19 4))
  | 0x20 => decodeMac t w
  | 0x21 => some (.qmac t x (fld w 23 2) (fld w 21 2) (fld w 15 4) (fbit w 14) (fbit w 13))
  | 0x22 => some (.ftap t x (fld w 23 2) (fld w 19 4) (fld w 15 4) (fbit w 14) (fld w 10 4) (fld w 7 3) (fld w 3 4) (fld w 0 3))
  | 0x23 => some (.ftapz t x (fld w 23 2) (fld w 19 4) (fld w 15 4) (fbit w 14) (fld w 10 4) (fld w 7 3) (fld w 3 4) (fld w 0 3))
  | 0x24 => some (.dld t x (fld w 14 11) (fld w 10 4) (fld w 7 3) (fld w 3 4) (fld w 0 3))
  | _ => none

/-- OP, X and 25 bits of fields. -/
def torWordOf (op : BitVec 6) (x : Bool) (f : BitVec 25) : Word := op ++ BitVec.ofBool x ++ f
/-- An ALU word. -/
def aluWord (sub : BitVec 4) (x : Bool) (d a b : BitVec 4) : Word := torWordOf 0x12 x (sub ++ d ++ a ++ b ++ 0#9)
/-- A MAC word. -/
def macWord (sub : BitVec 3) (x : Bool) (a : BitVec 2) (dx dy : BitVec 4) : Word := torWordOf 0x20 x (a ++ dx ++ dy ++ sub ++ 0#12)
/-- The fields of FTAP and FTAPZ. -/
def tapFields (a : BitVec 2) (dx dy : BitVec 4) (conj : Bool) (d1 : BitVec 4) (p1 : BitVec 3) (d2 : BitVec 4) (p2 : BitVec 3) : BitVec 25 :=
  a ++ dx ++ dy ++ BitVec.ofBool conj ++ d1 ++ p1 ++ d2 ++ p2

/-- The first word of a Tor instruction, bits that the table does not name zero; `none` for a command that is none. -/
def torWord : Instr → Option Word
  | .halt _ x z code => some (torWordOf 0x00 x (z ++ code))
  | .nop _ x z => some (torWordOf 0x01 x z)
  | .loop _ x body count _ => some (torWordOf 0x02 x (body ++ count))
  | .br _ x cond off _ => some (torWordOf 0x03 x (cond ++ off))
  | .call _ x off _ => some (torWordOf 0x04 x (0#4 ++ off))
  | .ret _ x z => some (torWordOf 0x05 x z)
  | .wait _ x mask => some (torWordOf 0x06 x (0#17 ++ mask))
  | .signal _ x z => some (torWordOf 0x07 x z)
  | .done _ x z => some (torWordOf 0x08 x z)
  | .jpop _ x d => some (torWordOf 0x09 x (d ++ 0#21))
  | .sets _ x scale => some (torWordOf 0x0A x (0#23 ++ scale))
  | .clrf _ x mask => some (torWordOf 0x0B x (0#22 ++ mask))
  | .mvi _ x dst imm _ => some (torWordOf 0x10 x (dst ++ 0#3 ++ imm))
  | .mov _ x dst src => some (torWordOf 0x11 x (dst ++ src ++ 0#13))
  | .add _ x d a b _ => some (aluWord 0 x d a b)
  | .sub _ x d a b _ => some (aluWord 1 x d a b)
  | .and _ x d a b _ => some (aluWord 2 x d a b)
  | .or _ x d a b _ => some (aluWord 3 x d a b)
  | .xor _ x d a b _ => some (aluWord 4 x d a b)
  | .shl _ x d a b _ => some (aluWord 5 x d a b)
  | .sar _ x d a b _ => some (aluWord 6 x d a b)
  | .shr _ x d a b _ => some (aluWord 7 x d a b)
  | .add2 _ x d a b _ => some (aluWord 8 x d a b)
  | .sub2 _ x d a b _ => some (aluWord 9 x d a b)
  | .cmp _ x d a b _ => some (aluWord 10 x d a b)
  | .modp _ x p byImm imm _ => some (torWordOf 0x13 x (p ++ BitVec.ofBool byImm ++ 0#5 ++ imm))
  | .ld _ x d p mode size half imm _ => some (torWordOf 0x18 x (d ++ p ++ mode ++ BitVec.ofBool size ++ BitVec.ofBool half ++ imm))
  | .st _ x d p mode size half imm _ => some (torWordOf 0x19 x (d ++ p ++ mode ++ BitVec.ofBool size ++ BitVec.ofBool half ++ imm))
  | .mva _ x a d form => some (torWordOf 0x1A x (a ++ d ++ BitVec.ofBool form ++ 0#18))
  | .sta _ x a form p mode z imm _ => some (torWordOf 0x1B x (a ++ BitVec.ofBool form ++ p ++ mode ++ z ++ imm))
  | .lda _ x a d => some (torWordOf 0x1C x (a ++ d ++ 0#19))
  | .cmac _ x a dx dy => some (macWord 0 x a dx dy)
  | .cmacj _ x a dx dy => some (macWord 1 x a dx dy)
  | .cmsu _ x a dx dy => some (macWord 2 x a dx dy)
  | .cmul _ x a dx dy => some (macWord 3 x a dx dy)
  | .rmac _ x a dx dy => some (macWord 4 x a dx dy)
  | .clr _ x a dx dy => some (macWord 5 x a dx dy)
  | .qmac _ x z g dy conj replace => some (torWordOf 0x21 x (z ++ g ++ 0#2 ++ dy ++ BitVec.ofBool conj ++ BitVec.ofBool replace ++ 0#13))
  | .ftap _ x a dx dy conj d1 p1 d2 p2 => some (torWordOf 0x22 x (tapFields a dx dy conj d1 p1 d2 p2))
  | .ftapz _ x a dx dy conj d1 p1 d2 p2 => some (torWordOf 0x23 x (tapFields a dx dy conj d1 p1 d2 p2))
  | .dld _ x z d1 p1 d2 p2 => some (torWordOf 0x24 x (z ++ d1 ++ p1 ++ d2 ++ p2))
  | _ => none

/-- The extension word of an instruction that has one; it counts only with X set. -/
def torExt : Instr → Word
  | .loop _ _ _ _ e | .br _ _ _ _ e | .call _ _ _ e | .mvi _ _ _ _ e | .add _ _ _ _ _ e | .sub _ _ _ _ _ e | .and _ _ _ _ _ e
  | .or _ _ _ _ _ e | .xor _ _ _ _ _ e | .shl _ _ _ _ _ e | .sar _ _ _ _ _ e | .shr _ _ _ _ _ e | .add2 _ _ _ _ _ e
  | .sub2 _ _ _ _ _ e | .cmp _ _ _ _ _ e | .modp _ _ _ _ _ e | .ld _ _ _ _ _ _ _ _ e | .st _ _ _ _ _ _ _ _ e
  | .sta _ _ _ _ _ _ _ _ e => e
  | _ => 0

/-- The instruction at an engine's program counter (R331): program memory holds words in little-endian order (R10), and a word beyond what
was loaded reads zero, HALT with code 0 (R359). -/
def State.torNext (s : State) (t : EngId) : Option Instr :=
  let a := 0x11000000 + t.val * 0x10000 + (s.hw.eng t).pc
  torDecode t (BitVec.ofNat 32 (unle (s.mem.read a 4))) (BitVec.ofNat 32 (unle (s.mem.read (a + 4) 4)))

end Sys2Proof.Machine
end

