-- ==== Sys2Proof/Machine/TorOps.lean ====
section
/-! DEFINITION. Shared steps of the Tor engines: issue and fetch (R334, R349), halts and abandoned quanta (R348, R350, R351),
program flow (R342), loads and stores (R335 to R338). -/
namespace Sys2Proof.Machine
namespace Hw

/-- The occasion in correlator context c is delivered FAILED (R178, R350, R351). -/
def failContext (h : Hw) (c : Nat) : Hw :=
  let is := fun (o : Occasion) => h.holdsContexts o && o.contexts.contains c && !o.failed
  let tags := (h.crn.occasions.filter is).map (·.tag)
  let h := h.onCrn fun x => { x with occasions := x.occasions.map fun o => if is o then { o with failed := true } else o }
  h.each tags fun h t => h.alarm 0x0703 c t
/-- The occasion that a mandatory share's descriptor names by its context is delivered FAILED. -/
def failShare (h : Hw) (j : Job) : Hw := h.failContext (bits j.w0.toNat 16 8)
/-- A path whose shadow an abandoned quantum wrote: the switch request that the quantum posted is cleared, unless another posted it too, and
the active bank copied into the shadow (R149). -/
def dpdRevert (key : List Nat) (d : Dpd) : Dpd :=
  let mine := fun (l : List Nat) => key.any l.contains
  if mine d.writers then
    { dpdCopy { d with switchPending := d.switchPending && (!mine d.posters || d.posters.any fun x => !key.contains x) } with
      writers := d.writers.filter fun x => !key.contains x, posters := d.posters.filter fun x => !key.contains x }
  else d
/-- A DPD_ADAPT quantum of quad q is abandoned: what it wrote is taken back, on whatever path (R149). -/
def dpdDiscard (h : Hw) (q : Nat) (key : List Nat) : Hw :=
  let h := h.onPaths fun _ p => { p with dpd := dpdRevert key p.dpd }
  h.onQuad q fun x => { x with obs := { x.obs with abandoned := inc x.obs.abandoned } }
/-- An occasion whose quantum of a job on engine t is meant: the first posted. -/
def quantumOf (h : Hw) (t : Nat) (j : Job) : Option (Occasion × Quantum) :=
  let w := j.w0.toNat
  if bits w 0 16 != 0x0102 then none
  else (sortBy (·.report) h.crn.occasions).findSome? fun o =>
    (o.quanta.find? fun x => x.engine == t && x.tick == j.tick && x.block % 256 == bits w 16 8).map fun x => (o, x)
/-- A CAIRN_EXTRA quantum has ended or been abandoned (R176): its block has been evaluated for the group, or is dropped. -/
def quantumEnds (h : Hw) (t : Nat) (j : Job) (good : Bool) : Hw :=
  match h.quantumOf t j with
  | none => h
  | some (o, x) =>
    let o' := { o with
      quanta := o.quanta.erase x, evaluated := if good then x.block :: o.evaluated else o.evaluated
      blocks := if good then o.blocks else o.blocks.erase x.block, extPartial := o.extPartial || !good }
    h.onCrn fun c => { c with
      occasions := c.occasions.map fun y => if y.order = o.order then o' else y, extDropped := if good then c.extDropped else inc c.extDropped }
/-- One quantum or share abandoned (R350): counted, its job inactive. -/
def dropJob (h : Hw) (t : Nat) (j : Job) : Hw :=
  let h := h.onTor t fun e => { e with abandonedCnt := inc e.abandonedCnt }
  let w := j.w0.toNat
  let h := h.whenB (bits w 0 16 == 0x0100) fun h => h.dpdDiscard (bits w 16 8) (dpdKey t j)
  let h := h.quantumEnds t j false
  h.whenB (bit w 24) fun h =>
    ((h.onTor t fun e => { e with mandOverrun := inc e.mandOverrun }).failShare j).alarm 0x0A02 t j.tick
/-- The engine halts at its program counter (R348); the quantum it holds is abandoned (R351). -/
def torHalt (h : Hw) (t : EngId) (cause : Nat) (code : Nat := 0) : Hw :=
  let e := h.eng t
  let h := h.onTor t fun e => { e with state := 3, cause := cause, code := code, load := [] }
  let h := match e.job with
    | some j => (h.onTor t fun e => { e with job := none, abandoned := true }).dropJob t j
    | none => h
  let h := h.whenB (h.traceFlow t) fun h =>
    h.trace { type := 0x05, source := t, info := cause, cc := low32 h.tim.c, lo := code + 65536 * (e.pc % 65536), hi := 0 }
  h.alarm 0x0A01 (t.val * 256 + cause)

/-- A FLOW packet of a taken branch, CALL or RET (R405). -/
def traceJump (h : Hw) (t : EngId) (src dst : Nat) : Hw :=
  h.whenB (h.traceFlow t) fun h =>
    h.trace { type := 0x02, source := t, info := src % 65536, cc := low32 h.tim.c, lo := dst % 65536, hi := 0 }

end Hw

namespace Tor

/-- The loop stack met at a program counter: an iteration ends at the end of the innermost loop (R342). -/
def loopBack : List LoopEnt → Nat → List LoopEnt × Nat
  | [], pc => ([], pc)
  | l :: r, pc =>
    if pc = l.stop then (if 1 < l.left then ({ l with left := l.left - 1 } :: r, l.start) else loopBack r pc)
    else (l :: r, pc)
/-- The engine goes on at an address reached in sequence. -/
def goSeq (e : Tor) (pc : Nat) : Tor :=
  let r := loopBack e.loops pc
  { e with pc := r.2, loops := r.1, justSet := false }
/-- Loops that a taken branch leaves standing: one whose body the target leaves ends, and every loop inside it (R342). -/
def loopsKept (ls : List LoopEnt) (target : Nat) : List LoopEnt :=
  match ls with
  | [] => []
  | l :: r => if ls.all fun x => decide (x.start ≤ target) && decide (target < x.stop) then l :: r else loopsKept r target
/-- A word offset from an address, kept in 32 bits. -/
def target (base : Nat) (off : Int) : Nat := (BitVec.ofInt 32 ((base : Int) + 4 * off)).toNat

end Tor

/-- The word at an address spells an instruction of Tables 15.3, 15.4 and 15.6 (R334). -/
def torKnown (m : Mem) (t : EngId) (a : Nat) : Bool := (torDecode t (BitVec.ofNat 32 (unle (m.read a 4))) 0).isSome

/-- A Tor instruction of `words` words at engine t. It has an effect only while the engine runs and awaits no load. The fetch passes
through SECDED (R349) within 64 KiB. A word at the program counter that spells no instruction halts the engine, whatever the command
(log 123), and so does an encoding that is not `legal` (R334, R348); else `f` acts. -/
def torRun (s : State) (t : EngId) (words : Nat) (legal : Bool) (f : Hw → Mem → Hw × Mem) : Host.Outcome State Fault Refusal :=
  okM s 0 fun h m =>
    let e := h.eng t
    if e.state ≠ 1 || !e.load.isEmpty then (h, m)
    else if e.pc % 4 ≠ 0 then (h.torHalt t 4, m)
    else if 65536 < e.pc + 4 * words then (h.torHalt t 5, m)
    else
      let a := 0x11000000 + t.val * 0x10000 + e.pc
      let h := h.noteRead m a (4 * words)
      if m.anyUe a (4 * words) then (h.torHalt t 7, m)
      else if !legal || !torKnown m t a then (h.torHalt t 3, m)
      else f h m

/-- Words of an instruction with or without an extension. -/
def xWords (x : Bool) : Nat := if x then 2 else 1
/-- An immediate field and its extension: with X set the field is zero (R334). -/
def immLegal (x : Bool) {w : Nat} (imm : BitVec w) : Bool := !x || imm == 0
/-- The signed value of an immediate or of the extension that replaces it. -/
def immVal (x : Bool) {w : Nat} (imm : BitVec w) (ext : Word) : Int := if x then ext.toInt else imm.toInt

/-- An instruction that only changes its engine and goes on in sequence. -/
def torStep (s : State) (t : EngId) (words : Nat) (legal : Bool) (ns : List Tor.Need) (ps : List (Nat × Nat)) (f : Tor → Tor) :
    Host.Outcome State Fault Refusal :=
  torRun s t words legal fun h m => (h.onTor t fun e => (f (e.issue ns ps 1)).goSeq (e.pc + 4 * words), m)

/-- The register that an ALU result or MVA writes counts as available at once (Table 15.8). -/
def torAlu (s : State) (t : EngId) (x : Bool) (a b : BitVec 4) (ext : Word) (f : Tor → Word → Word → Tor) :
    Host.Outcome State Fault Refusal :=
  torStep s t (xWords x) (immLegal x b) ([Tor.needD a.toNat] ++ if x then [] else [Tor.needD b.toNat]) []
    fun e => f e (e.dReg a) (if x then ext else e.dReg b)

/-- A shift: `f` gives the result and `out` the last bit out; a shift by 0 uses a free value. -/
def torShift (s : State) (t : EngId) (x : Bool) (d a b : BitVec 4) (ext : Word) (f : Word → Nat → Word) (out : Word → Nat → Bool) :
    Host.Outcome State Fault Refusal :=
  torRun s t (xWords x) (immLegal x b) fun h m =>
    let e := h.eng t
    let va := e.dReg a
    let k := (if x then ext else e.dReg b).toNat % 32
    let r := f va k
    let free := h.free
    let h := h.onTor t fun e =>
      let e := e.issue ([Tor.needD a.toNat] ++ if x then [] else [Tor.needD b.toNat]) [] 1
      ((e.setD d r).flagsShift r (if k = 0 then none else some (out va k)) free).goSeq (e.pc + 4 * xWords x)
    (if k = 0 then { h with free := free + 1 } else h, m)

/-- A multiply into an accumulator: `f` gives its exact new content from the old one and the two operands (R332, R340). -/
def torMac (s : State) (t : EngId) (legal : Bool) (a : BitVec 2) (dx dy : BitVec 4) (f : IQ → IQ → IQ → IQ) :
    Host.Outcome State Fault Refusal :=
  torStep s t 1 legal [] [(3, a.toNat)] fun e => e.putA a (f (Tor.accIQ (e.aReg a)) (Tor.iq (e.dReg dx)) (Tor.iq (e.dReg dy)))

/-- One load of engine t from an address that passed its checks: own data at once, others when their data return (R337). The
engine's registers other than the destination are already changed. -/
def torLoad (h : Hw) (m : Mem) (t : EngId) (d : BitVec 4) (a : Nat) (size half : Bool) : Hw :=
  if Tor.ownData t a then
    let g := Tor.globalOf t a
    let w := Tor.sizeBytes size
    let h := h.noteRead m g w
    h.onTor t fun e => { e.setD d (Tor.loadInto (e.dReg d) size half (unle (m.read g w))) with
      prods := { kind := 1, reg := d.toNat, at_ := e.cyc - 1 } :: e.prods }
  else h.onTor t fun e => { e with load := e.load ++ [{ dst := d, addr := a, size := size, half := half, at_ := h.up }] }

/-- The data of a global load (R349, R356 to R358, R150). -/
def loadValue (h : Hw) (m : Mem) (t : EngId) (a w : Nat) : Hw × Nat :=
  match region a with
  | .observation _ => (h, unle (h.spaceBytes m a w))
  | .dpdShadow o =>
    let n := o / 0x6000
    let bad := (List.range w).any fun i => (h.path n).dpd.badPar.contains (!(h.path n).dpd.active, o % 0x6000 + i)
    (h.whenB bad fun h => h.onPath n fun p => { p with dpd := { p.dpd with parityShadow := true } }, unle (h.spaceBytes m a w))
  | .dpdActive _ => (h, unle (h.spaceBytes m a w))
  | _ =>
    let ue := m.anyUe a w
    let h := h.noteRead m a w
    (h.whenB ue fun h => h.onTor t fun e => { e with ue := true, globalUe := inc e.globalUe }, unle (m.read a w))

/-- The front global load of engine t returns. -/
def loadReturn (h : Hw) (m : Mem) (t : EngId) : Hw :=
  match (h.eng t).load with
  | [] => h
  | g :: rest =>
    let w := Tor.sizeBytes g.size
    let r := loadValue h m t g.addr w
    r.1.onTor t fun e =>
      { e.setD g.dst (Tor.loadInto (e.dReg g.dst) g.size g.half r.2) with
        load := rest, stalls := cnt 48 e.stalls (if rest.isEmpty then h.up - g.at_ else 0), cyc := e.cyc + 3 }

/-- A load or its checks: the cause that stops the access, an uncorrectable word of its own memories included. -/
def loadCause (m : Mem) (t : EngId) (a w : Nat) : Option Nat :=
  match Tor.accessCause t a w false with
  | some c => some c
  | none => if (Tor.ownData t a || Tor.ownProg t a) && m.anyUe (Tor.globalOf t a) w then some 7 else none

/-- A store of engine t of `w` bytes (R335, R354). One outside the engine's own data memory is posted (R337). -/
def storeAt (h : Hw) (m : Mem) (t : EngId) (a w val : Nat) : Hw × Mem :=
  (h.whenB (!Tor.ownData t a) fun h => h.onTor t Tor.post).torStore m t (Tor.globalOf t a) w val

/-- The two loads of FTAP, FTAPZ and DLD (R338), after `f` has changed the engine; both accesses are checked before any effect. -/
def torTap (s : State) (t : EngId) (legal : Bool) (d1 : BitVec 4) (p1 : BitVec 3) (d2 : BitVec 4) (p2 : BitVec 3)
    (ps : List (Nat × Nat)) (f : Tor → Tor) : Host.Outcome State Fault Refusal :=
  torRun s t 1 (legal && d1 != d2) fun h m =>
    let e := h.eng t
    let a1 := (e.pReg p1).toNat
    let e1 := e.postMod p1 (e.mStep p1)
    let a2 := (e1.pReg p2).toNat
    let e2 := e1.postMod p2 (e1.mStep p2)
    match loadCause m t a1 4, loadCause m t a2 4 with
    | some c, _ => ((h.whenB (c == 7) fun h => h.noteRead m (Tor.globalOf t a1) 4).torHalt t c, m)
    | none, some c => ((h.whenB (c == 7) fun h => h.noteRead m (Tor.globalOf t a2) 4).torHalt t c, m)
    | none, none =>
      let h := h.onTor t fun _ => (({ f e with p := e2.p }).issue (Tor.needStep p1 ++ Tor.needStep p2) ps 1).goSeq (e.pc + 4)
      let h := torLoad h m t d1 a1 false false
      (torLoad h m t d2 a2 false false, m)

end Sys2Proof.Machine
end

