-- ==== Sys2Proof/Machine/Boot.lean ====
section
/-! DEFINITION. Resets and stages S0 to S5 (R5, R58, R60 to R64, R71, R311, R331, R415), and the verification of the image in
the order of Table 2.10 (R46 to R51). -/
namespace Sys2Proof.Machine
namespace Hw

/-! ### Resets -/

/-- What a reset leaves (R5, R60): the die's fuses, the straps and the levels of the supply, clock and reset pins stay; every other
register, buffer and reservation takes its reset value. The record of what has left the package stays. -/
def wiped (h : Hw) : Hw :=
  { State.reset.hw with
    free := h.free, sys := h.sys
    pins := { poresetN := h.pins.poresetN, railsOk := h.pins.railsOk, refclk := h.pins.refclk }
    out :=
      { tx := h.out.tx, flips := h.out.flips, life := h.out.life, nvm := h.out.nvm, bus := h.out.bus, trace := h.out.trace
        portA := { line := h.out.portA.line } } }
/-- S1 is entered, by a rise of PORESET_N, on the supervisor's own account, or by a remote reset (R60, R61). -/
def toS1 (h : Hw) (remote : Bool) : Hw :=
  let h := h.onSta fun s => { s with resetCause := remote, entry := if remote then Vector.replicate 9 none else s.entry }
  (h.enterStage 1).onPins fun p => { p with nvRst := true }
/-- Supplies out of range: S0, as for PORESET_N (R415). -/
def powerLoss (h : Hw) : Hw := (h.wiped).onPins fun p => { p with railsOk := false }
/-- S0 is left where every rail is in range, REFCLK runs and PORESET_N is high (Table 3.1). -/
def leaveS0 (h : Hw) : Hw := h.whenB (h.sta.stage == 0 && h.pins.poresetN && h.pins.railsOk && h.pins.refclk) fun h => h.toS1 false

end Hw

/-- PORESET_N falls: S0, whatever the stage (R62). The memories lose their valid bits (R359). -/
def execPoresetNLow (dt : Nat) (s : State) : Host.Outcome State Fault Refusal :=
  okM s dt fun h _ => ((h.wiped).onPins fun p => { p with poresetN := false }, {})

/-- PORESET_N rises (R60, R62). -/
def execPoresetNHigh (dt : Nat) (railsOk refclk : Bool) (s : State) : Host.Outcome State Fault Refusal :=
  ok s dt fun h => h.whenB (!h.pins.poresetN) fun h =>
    (h.onPins fun p => { p with poresetN := true, railsOk := railsOk, refclk := refclk }).leaveS0

/-- A rail stays out of range for 2 µs: S0, as for PORESET_N (R415). -/
def execSupplySupervisorTrip (dt : Nat) (s : State) : Host.Outcome State Fault Refusal :=
  okM s dt fun h _ => (h.powerLoss, {})

/-- Every rail is back in range: S1 follows where REFCLK runs and PORESET_N is high (R415). -/
def execSupplyBackInRange (dt : Nat) (refclk : Bool) (s : State) : Host.Outcome State Fault Refusal :=
  ok s dt fun h => (h.onPins fun p => { p with railsOk := true, refclk := refclk }).leaveS0

/-! ### S1 -/

/-- Nominal REFCLK frequencies in kHz, by class (R63). -/
def refNominal : List Nat := [122880, 245760, 491520]
/-- Class of a measured frequency: within 2 % of a nominal one (R63). -/
def refClassOf (khz : Nat) : Option Nat :=
  refNominal.findIdx? fun f => decide (50 * khz ≤ 51 * f) && decide (49 * f ≤ 50 * khz)
/-- Bus modes of IMG_STATUS: 0 single SPI, 1 quad SPI, 2 octal DTR. The mode that BOOT_SEL asks for and the one in use (R57, R58). -/
def busMode (sel : Nat) (f : Sfdp) : Nat × Nat :=
  let want := 2 - sel
  (want, if want = 2 && f.octal then 2 else if 1 ≤ want && f.quad then 1 else 0)

namespace Hw

/-- S2 begins: the NVM is reset, its SFDP read and the bus mode chosen (R57, R58). -/
def beginS2 (h : Hw) (sfdp : Option Sfdp) : Hw :=
  let h := (h.enterStage 2).onPins fun p => { p with nvRstPulses := p.nvRstPulses + 1 }
  let h := h.whenB (decide (h.sys.bootSel < 3)) nvmStart
  let bus := fun (h : Hw) => { h with img := { h.img with result := 9 } }.holdStage 0x0101 0
  if 3 ≤ h.sys.bootSel then bus h
  else match sfdp with
    | none => bus h
    | some f =>
      let m := busMode h.sys.bootSel f
      let h := { h with img := { h.img with
        busMode := m.2, downgraded := decide (m.2 < m.1), density := some f.density
        dummyRead := if m.2 = 2 then f.octalDummy else if m.2 = 1 then f.quadDummy else 0
        dummyStatus := if m.2 = 2 then f.statusDummy else 0 } }
      let h := h.whenB (m.2 == 2) fun h => h.nvmEnter8d f
      h.whenB (decide (m.2 < m.1)) fun h => h.alarm 0x010A m.2
/-- REFCLK has been measured: S1 is held, or its class is known and S2 begins (R63, R71). -/
def measured (h : Hw) (khz : Option Nat) (sfdp : Option Sfdp) : Hw :=
  match khz.bind refClassOf with
  | none => if h.sta.failed then h else h.holdStage 0x0201 0
  | some c =>
    let h := h.whenB h.sta.failed fun h => h.cease 0x0201 0
    (h.onSta fun s => { s with refClass := c }).beginS2 sfdp

end Hw

/-- The ROM self-test ends and REFCLK is classified (R63, Table 3.7). -/
def execS1Exit (dt : Nat) (romFail : Option (Fin 2)) (refKHz : Option Nat) (sfdp : Option Sfdp) (s : State) :
    Host.Outcome State Fault Refusal :=
  ok s dt fun h => h.whenB (h.sta.stage == 1 && !h.sta.failed) fun h =>
    match romFail with
    | some c => h.holdStage 0x010B c.val
    | none => h.measured refKHz sfdp

/-- The measurement of a held S1, every 10 ms (Table 3.7). -/
def execRefclkRemeasure (dt : Nat) (refKHz : Option Nat) (sfdp : Option Sfdp) (s : State) : Host.Outcome State Fault Refusal :=
  ok s dt fun h => h.whenB (h.sta.stage == 1 && h.sta.failed && h.sta.failAlarm == 0x0201) fun h => h.measured refKHz sfdp

/-! ### S2 -/

/-- How a check of Table 2.10 fails: RESULT, the alarm, FAIL_ENTRY and the alarm's argument. -/
structure ImgFail where
  result : Nat
  alarm : Nat
  entry : Nat := 0x1FF
  arg : Nat := 0

/-- Steps 2 to 4 of Table 2.10. -/
def verifyHead (nvm : Bytes) (density : Nat) : Option ImgFail :=
  if rd nvm 0 4 ≠ 0x4E4B5A45 then some { result := 2, alarm := 0x0102 }
  else if Config.stepping < rd nvm 10 1 then some { result := 4, alarm := 0x0104, arg := rd nvm 10 1 }
  else if !headerOk nvm density then some { result := 3, alarm := 0x0103, arg := 0x1FF }
  else (tableFail (rd nvm 12 4) 0 (256 + 16 * rd nvm 16 2) [] (secTable nvm)).map fun i =>
    { result := 3, alarm := 0x0103, entry := i, arg := i }
/-- A field of the trailer at IMAGE_SIZE (Table 2.9). -/
def trailer (nvm : Bytes) (o n : Nat) : Bytes := slice nvm (rd nvm 12 4 + o) n
/-- Step 5: TRAILER_MAGIC and DIGEST (R47). -/
def digestPasses (nvm : Bytes) : Bool :=
  unle (trailer nvm 0 4) == 0x54525A45 && unbe (trailer nvm 8 48) == sha384 (nvm.take (rd nvm 12 4))
/-- SHA-384 of PUBKEY (R48). -/
def keyHash (nvm : Bytes) : BitVec 384 := BitVec.ofNat 384 (sha384 (trailer nvm 56 97))
/-- SIG_R and SIG_S form a signature over the signed region under PUBKEY (R47). -/
def signatureOk (nvm : Bytes) : Bool :=
  ecdsaOk (trailer nvm 56 97) (nvm.take (rd nvm 12 4)) (unbe (trailer nvm 156 48)) (unbe (trailer nvm 204 48))
/-- The section table entry of HC_FIRMWARE. -/
def hcEntry (im : Image) : Option (Sec × Nat) := im.secs.zipIdx.find? fun x => x.1.type == 0x0080
/-- Step 8: the firmware container with its five checks in order (R46, Table 2.8b), against the key hash in ROM. -/
def containerOk (rom : BitVec 384) (nvm : Bytes) (s : Sec) : Bool :=
  let c := slice nvm s.offset s.length
  rd c 0 4 == 0x57464348 && rd c 4 2 == 1 && s.length == 512 + rd c 12 4 &&
    BitVec.ofNat 384 (sha384 (slice c 64 97)) == rom &&
    unbe (slice c 16 48) == sha384 (slice c 512 (rd c 12 4)) &&
    ecdsaOk (slice c 64 97) (slice c 0 64) (unbe (slice c 164 48)) (unbe (slice c 212 48)) &&
    decide (Config.hcMin ≤ rd c 8 4)
/-- Steps 6 and 7: the key and the signature, once the OTP field is programmed (R48). -/
def verifyKey (otp : Otp) (sigAlg : Nat) (nvm : Bytes) : Option ImgFail :=
  match otp with
  | .blank => none
  | .partly => some { result := 6, alarm := 0x0106 }
  | .programmed k =>
    if sigAlg ≠ 1 || keyHash nvm ≠ k then some { result := 6, alarm := 0x0106 }
    else if signatureOk nvm then none else some { result := 7, alarm := 0x0107 }
/-- Steps 8 and 9. -/
def verifyBody (rom : BitVec 384) (nvm : Bytes) (im : Image) : Option ImgFail :=
  match hcEntry im with
  | some (s, i) =>
    if containerOk rom nvm s then nine else some { result := 3, alarm := 0x0103, entry := i, arg := i }
  | none => nine
where
  /-- step 9 (R430) -/
  nine : Option ImgFail := (stepNine nvm im).map fun f =>
    if f.1 then { result := 8, alarm := 0x0108, entry := f.2, arg := f.2 } else { result := 3, alarm := 0x0103, entry := f.2, arg := f.2 }

namespace Hw

/-- S2 is held by a failed check; the destination memories are cleared (R49, R51). -/
def imgFail (h : Hw) (f : ImgFail) : Hw × Mem :=
  let h := { h with img := { h.img with result := f.result, failEntry := f.entry, id := 0, retryPending := false } }
  (h.holdStage f.alarm f.arg, {})
/-- Steps 1 to 10 have passed: the sections take effect, and S3 begins (R45, R51, R63, R146). -/
def imgPass (h : Hw) (m : Mem) (nvm : Bytes) (im : Image) : Hw × Mem :=
  let h := { h with img := { h.img with result := 1, id := im.imageId, loaded := some im, retryPending := false } }
  let h := h.onPaths fun n p =>
    let w := (assoc n im.dpdInit).getD []
    { p with dpd := { p.dpd with bank0 := w, bank1 := w } }
  let h := h.enterStage 3
  (h.whenB (h.sta.refClass != im.refclkSel) fun h => h.holdStage 0x0202 h.sta.refClass, loadImage m nvm im)
/-- The OTP field takes a value. -/
def setOtp (h : Hw) (o : Otp) : Hw := { h with sys := { h.sys with otp := o }, img := { h.img with keyLocked := o != Otp.blank } }
/-- Step 10: the SHA-384 of PUBKEY is burned where LOCK_KEY asks for it and the field is blank. A burn that fails gives IMG_KEY, and
a loss of power in it leaves the field partly programmed (R48). -/
def imgBurn (h : Hw) (m : Mem) (nvm : Bytes) (im : Image) (burn : Burn) : Hw × Mem :=
  if im.lockKey && h.sys.otp == Otp.blank then
    match burn with
    | .done => (h.setOtp (.programmed (keyHash nvm))).imgPass m nvm im
    | .failed any => (h.setOtp (if any then .partly else .blank)).imgFail { result := 6, alarm := 0x0106 }
    | .powerLost => ((h.setOtp .partly).powerLoss, {})
  else h.imgPass m nvm im
/-- Verification from step 6 on (Table 2.10). -/
def verifyRest (h : Hw) (m : Mem) (nvm : Bytes) (burn : Burn) : Hw × Mem :=
  let im := parseImage nvm
  let h := { h with img := { h.img with unsignedBoot := h.sys.otp == Otp.blank } }
  match verifyKey h.sys.otp im.sigAlg nvm with
  | some f => h.imgFail f
  | none =>
    let h := { h with img := { h.img with hcVersion := ((hcEntry im).map fun (x : Sec × Nat) => rd nvm (x.1.offset + 8) 4).getD 0 } }
    match verifyBody h.sys.romKey nvm im with
    | some f => h.imgFail f
    | none => h.imgBurn m nvm im burn

end Hw

namespace Hw

/-- The reads of the image: its header, and, once its head stands, everything up to the end of the trailer (R47, R49; log 88). -/
def readImage (h : Hw) (nvm : Bytes) : Hw :=
  let h := h.nvmRead 0 256
  h.whenB (verifyHead nvm (h.img.density.getD 0)).isNone fun h => h.nvmRead 256 (rd nvm 12 4 + 3840)

end Hw

/-- The image has been read: verification in the order of Table 2.10. Content has been streamed into its destination memories while the
digest was computed, and stays there while the re-read that follows a failed digest runs (R49). -/
def execImageReadDone (dt : Nat) (nvm : Bytes) (burn : Burn) (s : State) : Host.Outcome State Fault Refusal :=
  okM s dt fun h m =>
    if h.sta.stage = 2 && !h.sta.failed && h.img.result = 0 && !h.img.retryPending then
      let h := { h with img := { h.img with keyLocked := h.sys.otp != Otp.blank } }.readImage nvm
      match verifyHead nvm (h.img.density.getD 0) with
      | some f => h.imgFail f
      | none =>
        if digestPasses nvm then h.verifyRest m nvm burn
        else ({ h with img := { h.img with retryPending := true } }, loadImage m nvm (parseImage nvm))
    else (h, m)

/-- The re-read after a failed digest (Table 2.10, step 5), streamed into memories cleared of the first read. DESIGN CHOICE (log 121): the
digest is judged first, RETRIED is set and IMG_READ_RETRY raised, and then steps 2 to 4 are made again on the bytes of the re-read. -/
def execImgReadRetry (dt : Nat) (nvm : Bytes) (burn : Burn) (s : State) : Host.Outcome State Fault Refusal :=
  okM s dt fun h m =>
    if h.sta.stage = 2 && !h.sta.failed && h.img.retryPending then
      let h := h.readImage nvm
      if digestPasses nvm then
        let h := { h with img := { h.img with retried := true } }.alarm 0x0109 0
        match verifyHead nvm (h.img.density.getD 0) with
        | some f => h.imgFail f
        | none => h.verifyRest {} nvm burn
      else h.imgFail { result := 5, alarm := 0x0105 }
    else (h, m)

/-! ### S3 -/

/-- The converter and core PLLs have locked: S4 begins, C counts from zero and the ticks start with an arbitrary phase (R63, R256).
Every BIAS pin takes its safe level (Table 3.3). -/
def execPllLock (dt : Nat) (s : State) : Host.Outcome State Fault Refusal :=
  ok s dt fun h => h.whenB (h.sta.stage == 3 && !h.sta.failed) fun h =>
    let ph := Config.tickPhase h.free % longLen h.scs
    let h := { h with free := h.free + 1 }
    let h := (h.enterStage 4).onTim fun t => { t with c := 0, gridBase := ph, k := 0, open_ := false }
    let lv := fun n => h.biasSafe n
    h.onPaths fun n p => { p with bias := { p.bias with code := (lv n).1, range := (lv n).2 } }

/-- A PLL is not locked 100 ms after its attempt: two further attempts, then S3 is held (Table 3.7). `failed` names the PLLs that
failed this attempt. -/
def execPllLockTimeout (dt : Nat) (failed : List (Fin 4)) (s : State) : Host.Outcome State Fault Refusal :=
  ok s dt fun h => h.whenB (h.sta.stage == 3 && !h.sta.failed && !failed.isEmpty) fun h =>
    let n := h.sta.pllTries + 1
    let h := h.onSta fun t => { t with pllTries := n }
    h.whenB (3 ≤ n) fun h => h.holdStage 0x0203 (((least (fun _ => true) (failed.map (·.val))).getD 0 : Nat) : Int)

/-! ### S4 -/

namespace Hw

/-- S4 exit (R63, R287, R325, R331, Table 3.3): the engines start, the housekeeping sequences run, the lanes of
ports with TYPE 1 or 2 transmit and come up blind, and what the calibration record gives at S4 exit is taken. -/
def enterS5 (h : Hw) : Hw :=
  let h := h.recordAtExit.enterStage 5
  let h := h.each (List.finRange 16) fun h t =>
    if h.image.torProgs.contains t.val then h.onTor t fun e => { e with state := 1, pc := 0 } else h.torHalt t 1
  let from_ := h.up
  let h := h.onQuads fun _ q => { q with hkRunning := true, slotFrom := from_ }
  let up := fun l => h.portType (l / 4) == 1 || h.portType (l / 4) == 2
  let h := { h with lanes := vmapi h.lanes fun l x => if up l then { x with step := 1 } else x }
  let h := { h with ports := vmapi h.ports fun p x => { x with localFault := up (4 * p) } }
  h.onPins fun p => { p with ltx := vofFn 8 up }
/-- S5 follows once trims are applied and discovery has ended on all 16 buses; the BIAS pins are safe from S4 entry on. -/
def tryS5 (h : Hw) : Hw := h.whenB (h.sta.stage == 4 && h.sta.calRead.isSome && h.sta.discovered.length == 16) enterS5
/-- What discovery finds of one FEM (R111, R311): one with no valid identity page retires its path. -/
def discover (h : Hw) (n : Nat) (r : FemRead) : Hw :=
  match r.identity.bind parseIdentity with
  | some id =>
    let h := h.onPath n fun p => { p with fem := femLoad p.fem id r, fsCurrent := id.dacFs }
    h.whenB (h.path n).fem.lifeInvalid fun h => h.alarm 0x0503 n
  | none => h.whenB (h.checked n) fun h =>
    let due := h.dueTick
    (h.onPath n fun p => { p with
      disabled := true, retireAt := p.retireAt ++ [(due, 1)], fem := { p.fem with failCause := 1 } }).alarm 0x0501 n

end Hw

/-- The calibration record has been read (R54, R59). -/
def execCalRecordRead (dt : Nat) (record : Bytes) (s : State) : Host.Outcome State Fault Refusal :=
  ok s dt fun h => h.whenB (h.sta.stage == 4 && h.sta.calRead.isNone) fun h => ((h.nvmRead h.image.calOffset recordSize).loadRecord record).tryS5

/-- Discovery has ended on the bus of quad q (R311). -/
def execFemDiscoveryDone (dt : Nat) (q : QuadId) (fems : List FemRead) (s : State) : Host.Outcome State Fault Refusal :=
  ok s dt fun h => h.whenB (h.sta.stage == 4 && !h.sta.discovered.contains q) fun h =>
    let h := h.each [0, 1, 2, 3] fun h i => h.discover (4 * q.val + i) (fems.getD i { identity := none, lifeA := none, lifeB := none })
    let h := h.busPut ((fems.zipIdx.take 4).flatMap fun r => if r.1.identity.isSome then femReads (4 * q.val + r.2) else [])
    (h.onSta fun t => { t with discovered := q :: t.discovered }).tryS5

/-- Port A has no link 1 s after S5 entry: S5 is held (Table 3.7). -/
def execLaneNoLinkTimeout (dt : Nat) (s : State) : Host.Outcome State Fault Refusal :=
  ok s dt fun h =>
    let due := match getN h.sta.entry 5 none with
      | some e => decide (e + 1000000 ≤ usOf h.up)
      | none => false
    h.whenB (h.sta.stage == 5 && !h.sta.failed && !(h.port 0).linkUp && due) fun h => h.holdStage 0x0301 0

end Sys2Proof.Machine
end

