-- ==== Sys2Proof/Machine/Gate.lean ====
section
/-! DEFINITION. The admission gate: message checks (R182 to R192, R201), admission windows (R202), what the slot forbids, the timing
check of Massif (R136), payload sizes and block floating point (R194, R199, R200), and refusals (R205, R206). -/
namespace Sys2Proof.Machine

/-! ### Payloads (R194, R199, R200) -/

/-- Bits per mantissa of a flow in a slot: 16 stands for the uncompressed rows of Table 9.8. -/
def mantOf (sl : Slot) (compression : Nat) : Nat := if compression = 1 then 16 else sl.mantissa
/-- Payload bytes of a section (Table 9.8). -/
def payloadSize (spur : Bool) (m count : Nat) : Nat :=
  if spur then 256 * count else if m = 16 then 48 * count else ceilDiv ((4 + 24 * m) * count) 8
/-- `w` bits of a bit stream from bit `o`, least significant bit first (R199). -/
def streamBits (b : Bytes) (o w : Nat) : Nat := bits (rd b (o / 8) (w / 8 + 2)) (o % 8) w
/-- Every PRB of a compressed section has an EXP from 0 to 16 - M (R200). -/
def expOk (m : Nat) (b : Bytes) (count : Nat) : Bool := (List.range count).all fun i => streamBits b (i * (4 + 24 * m)) 4 ≤ 16 - m
/-- The 24 values of one PRB, I and Q in turn (R199, R200). -/
def prbValues (m : Nat) (b : Bytes) (i : Nat) : List Int :=
  if m = 16 then (List.range 24).map fun j => signed 16 (rd b (48 * i + 2 * j) 2)
  else
    let o := i * (4 + 24 * m)
    let e := streamBits b o 4
    (List.range 24).map fun j => signed m (streamBits b (o + 4 + m * j) m) * 2 ^ e
/-- Mantissas of a PRB under an exponent. -/
def mantissas (e : Nat) (v : List Int) : List Int := v.map fun x => cround x (2 ^ e)
/-- Whether mantissas fit M bits. -/
def mantsFit (m : Nat) (l : List Int) : Bool := l.all fun x => decide (-(2 ^ (m - 1) : Int) ≤ x) && decide (x ≤ 2 ^ (m - 1) - 1)
/-- EXP of a PRB: the smallest under which every mantissa fits, else 16 - M (R200). -/
def expOf (m : Nat) (v : List Int) : Nat := ((List.range (17 - m)).find? fun e => mantsFit m (mantissas e v)).getD (16 - m)
/-- A number with fields put one after another, least significant first. -/
def packBits : List (Nat × Nat) → Nat
  | [] => 0
  | (w, v) :: r => v + 2 ^ w * packBits r
/-- One PRB compressed: its fields, and how many mantissas saturated (R200). -/
def compressPrb (m : Nat) (v : List Int) : List (Nat × Nat) × Nat :=
  let e := expOf m v
  let ms := mantissas e v
  let cl := ms.map fun x => clampZ (-(2 ^ (m - 1) : Int)) (2 ^ (m - 1) - 1) x
  ((4, e) :: cl.map fun x => (m, code m x), (ms.filter fun x => clampZ (-(2 ^ (m - 1) : Int)) (2 ^ (m - 1) - 1) x ≠ x).length)
/-- An uplink payload from its values, I and Q in turn, and the saturated mantissas. -/
def compressAll (m count : Nat) (v : List Int) : Bytes × Nat :=
  if m = 16 then ((v.map fun x => le 2 (code 16 x)).flatten, 0)
  else
    let ps := (chunks 24 count v).map (compressPrb m)
    (le (payloadSize false m count) (packBits (ps.map (·.1)).flatten), sumL (ps.map (·.2)))

/-! ### Massif's timing queues (R136) -/

/-- A section in a timing queue: the instants between which it is worked off, and what is left and what was to do, all in 10^-5 cc. -/
structure Work where
  order : Nat
  start : Nat
  dead : Nat
  left : Nat
  full : Nat
/-- 1.5 cc per PRB in 10^-5 cc (R127). -/
def prbWork : Nat := 150000
/-- The section worked on at an instant: the one already begun, else the first that may start. -/
def pickWork (t : Nat) (l : List Work) : Option Work :=
  (l.find? fun w => decide (0 < w.left) && decide (w.left < w.full)).orElse fun _ => l.find? fun w => decide (0 < w.left) && decide (w.start ≤ t)
/-- A queue worked off at the guaranteed rate from an instant to another. -/
def workOff : Nat → Nat → Nat → List Work → List Work
  | 0, _, _, l => l
  | f + 1, t, now, l =>
    match pickWork t l with
    | some w =>
      let set := fun x => l.map fun v => if v.order = w.order then { v with left := x } else v
      if t + w.left ≤ now then workOff f (t + w.left) now (set 0) else set (w.left - (now - t))
    | none => match least (t < ·) ((l.filter fun w => 0 < w.left).map (·.start)) with
      | some u => if u < now then workOff f u now l else l
      | none => l
/-- Every section of a queue ends by its deadline when the queue is worked off from `t` on. -/
def workFits (t : Nat) : List Work → Bool
  | [] => true
  | w :: r => let u := Nat.max t w.start + w.left; decide (u ≤ w.dead) && workFits u r

/-! ### Massif's lanes as they run (R127) -/

/-- The lanes over a span: what is left of each direction's sections, whether time-domain beams of the open window give it work beside them,
and the time each direction worked on sections and had lanes lent to it. -/
structure LaneRun where
  dl : List Work
  ul : List Work
  tdDl : Bool := false
  tdUl : Bool := false
  busyDl : Nat := 0
  busyUl : Nat := 0
  lentDl : Nat := 0
  lentUl : Nat := 0
/-- Work taken from the section with an order. -/
def takeWork (order n : Nat) (l : List Work) : List Work := l.map fun w => if w.order = order then { w with left := w.left - n } else w
/-- When the next section that cannot start yet may start, at most `now`. -/
def nextStart (t now : Nat) (l : List Work) : Nat := ((least (t < ·) ((l.filter fun w => 0 < w.left).map (·.start))).getD now).min now
/-- A slice's lanes from an instant to another: each direction runs at the guaranteed rate, with its lanes doubled while the other has no work.
Beams take their samples as they come, throughout the window, and so have work in all of it (R139, R140). -/
def runLanes : Nat → Nat → Nat → LaneRun → LaneRun
  | 0, _, _, r => r
  | f + 1, t, now, r =>
    if now ≤ t then r
    else match pickWork t r.dl, pickWork t r.ul with
      | some d, some u =>
        let n := Nat.min (Nat.min d.left u.left) (now - t)
        runLanes f (t + n) now { r with
          dl := takeWork d.order n r.dl, ul := takeWork u.order n r.ul, busyDl := r.busyDl + n, busyUl := r.busyUl + n }
      | some d, none =>
        let x := if r.tdUl then 1 else 2
        let n := Nat.min ((d.left + x - 1) / x) (nextStart t now r.ul - t)
        runLanes f (t + n) now { r with
          dl := takeWork d.order (x * n) r.dl, busyDl := r.busyDl + n, lentDl := if r.tdUl then r.lentDl else r.lentDl + n }
      | none, some u =>
        let x := if r.tdDl then 1 else 2
        let n := Nat.min ((u.left + x - 1) / x) (nextStart t now r.dl - t)
        runLanes f (t + n) now { r with
          ul := takeWork u.order (x * n) r.ul, busyUl := r.busyUl + n, lentUl := if r.tdDl then r.lentUl else r.lentUl + n }
      | none, none =>
        let u := Nat.min (nextStart t now r.dl) (nextStart t now r.ul)
        runLanes f u now { r with
          lentDl := if r.tdDl && !r.tdUl then r.lentDl + (u - t) else r.lentDl, lentUl := if r.tdUl && !r.tdDl then r.lentUl + (u - t) else r.lentUl }

namespace Hw

/-- The instant now in 10^-5 cc. -/
def nowFine (h : Hw) : Nat := h.tim.c * 100000
/-- A tick's instant in 10^-5 cc. -/
def tickFine (h : Hw) (k : Nat) : Nat := h.tickAt k * 100000
/-- A time in ns, in 10^-5 cc. -/
def nsFine (ns : Nat) : Nat := ns * 98304
/-- Table 6.4, downlink. -/
def dlWork (h : Hw) (d : DlItem) : Work :=
  { order := d.order, start := h.tickFine (d.target - 2), dead := h.tickFine d.target - nsFine 4000, left := d.left, full := d.count * prbWork }
/-- Table 6.4, uplink. -/
def ulWork (h : Hw) (u : UlItem) : Work :=
  { order := u.order, start := h.tickFine u.closing + nsFine 1500, dead := h.tickFine u.closing + nsFine (u.deadline - 1000)
    left := u.left, full := u.count * prbWork }
/-- Downlink order: by deadline, then by admission. -/
def sortDl (l : List DlItem) : List DlItem := sortBy (fun d => d.target * 2 ^ 64 + d.order) l
/-- Order of R94: carrier, start PRB, flow. -/
def keyR94 (u : UlItem) : Nat := u.carrier * 2 ^ 32 + u.start * 2 ^ 8 + u.flow
/-- Uplink order: by deadline, then by R94. -/
def sortUl (h : Hw) (l : List UlItem) : List UlItem := sortBy (fun u => (h.ulWork u).dead * 2 ^ 64 + keyR94 u) l
/-- What a queue entry has left after working off. -/
def leftOf (l : List Work) (order old : Nat) : Nat := ((l.find? fun w => w.order == order).map (·.left)).getD old
/-- Time-domain beams of a direction are in use in the open window (R138, R140). -/
def beamsDl (h : Hw) : Bool := h.tim.open_ && h.fhl.dl.any fun d => d.spur && d.target == h.tim.k
def beamsUl (h : Hw) : Bool := h.tim.open_ && h.fhl.ul.any fun u => u.spur && u.target == h.tim.k
/-- The lanes run up to now (R127, R142): four slices lend alike. -/
def runNow (h : Hw) : Hw :=
  let now := h.nowFine
  let r := runLanes (4 * (h.fhl.dl.length + h.fhl.ul.length) + 4) h.mas.runAt now
    { dl := (sortDl h.fhl.dl).map fun d => { h.dlWork d with left := d.todo }
      ul := (h.sortUl h.fhl.ul).map fun u => { h.ulWork u with left := u.todo }, tdDl := h.beamsDl, tdUl := h.beamsUl }
  let h := h.onFhl fun f => { f with
    dl := f.dl.map fun d => { d with todo := leftOf r.dl d.order d.todo }, ul := f.ul.map fun u => { u with todo := leftOf r.ul u.order u.todo } }
  h.onMas fun m => { m with
    runAt := now, busyDl := m.busyDl + r.busyDl, busyUl := m.busyUl + r.busyUl, lendDl := m.lendDl + 4 * r.lentDl, lendUl := m.lendUl + 4 * r.lentUl }
/-- The lanes run and both timing queues are worked off up to now. -/
def massifAdvance (h : Hw) : Hw :=
  let h := h.runNow
  let now := h.nowFine
  let dl := workOff (2 * h.fhl.dl.length + 2) h.mas.dlAt now ((sortDl h.fhl.dl).map h.dlWork)
  let ul := workOff (2 * h.fhl.ul.length + 2) h.mas.ulAt now ((h.sortUl h.fhl.ul).map h.ulWork)
  let h := h.onFhl fun f => { f with
    dl := f.dl.map fun d => { d with left := leftOf dl d.order d.left }, ul := f.ul.map fun u => { u with left := leftOf ul u.order u.left } }
  h.onMas fun m => { m with dlAt := now, ulAt := now }
/-- The timing check of a downlink section. -/
def dlFits (h : Hw) (d : DlItem) : Bool := workFits h.nowFine (((sortDl (h.fhl.dl ++ [d])).map h.dlWork).filter fun w => 0 < w.left)
/-- The timing check of an uplink request. -/
def ulFits (h : Hw) (u : UlItem) : Bool := workFits h.nowFine (((h.sortUl (h.fhl.ul ++ [u])).map h.ulWork).filter fun w => 0 < w.left)

/-! ### Slots, masks and restarts at a future tick -/

/-- The slot whose rules judge an item for tick k: slot 7 before any slot is in force. -/
def slotAt (h : Hw) (k : Nat) : Nat := (h.expected k).getD 7
/-- Its record. -/
def recAt (h : Hw) (k : Nat) : Option Slot := h.slotRec (h.slotAt k)
/-- Slot and retirement state of tick k: Massif's latch where it is taken (R133), else what is known now. -/
def stateAt (h : Hw) (k : Nat) : Nat × (Nat → Bool) :=
  match h.mas.latches.find? fun l => l.tick == k with
  | some l => (l.slot, fun n => l.retired.contains n)
  | none => (h.slotAt k, h.retiredAt k)
/-- Paths enabled for the downlink at tick k. -/
def dlPaths (h : Hw) (k : Nat) : List Nat :=
  let s := h.stateAt k
  match h.slotRec s.1 with
  | some sl => (List.range 64).filter (h.enabledTx sl s.2)
  | none => []
/-- Paths enabled for the uplink at tick k. -/
def ulPaths (h : Hw) (k : Nat) : List Nat :=
  match h.recAt k with
  | some sl => (List.range 64).filter (h.enabledRx sl (h.retiredAt k))
  | none => []
/-- A mask bit of the slot in force set by the new slot that was clear in the old one. -/
def maskRises (h : Hw) (old new : Option Slot) (mask : Slot → Nat) (k : Nat) : Bool :=
  (List.range 64).any fun n =>
    (new.any fun s => h.maskBit s (mask s) (h.retiredAt k) n) && !(old.any fun s => h.maskBit s (mask s) (h.retiredAt (k - 1)) n)
/-- PRESET, carriers, centres, bandwidths or spacings differ. -/
def chainsDiffer (old new : Option Slot) : Bool := (old.map fun s => (s.preset, s.inUse)) != (new.map fun s => (s.preset, s.inUse))
/-- A receive restart when `new` follows `old` on tick k (R95). -/
def rxRestarts (h : Hw) (old new : Option Slot) (k : Nat) : Bool :=
  (old.map (·.slot)) != (new.map (·.slot)) && (chainsDiffer old new || h.maskRises old new (·.rxMask) k)
/-- A transmit restart (R113). -/
def txRestarts (h : Hw) (old new : Option Slot) (k : Nat) : Bool :=
  (old.map (·.slot)) != (new.map (·.slot)) &&
    (chainsDiffer old new || h.maskRises old new (·.txMask) k ||
      (old.map fun s => txZone (spanMid4 s.inUse)) != (new.map fun s => txZone (spanMid4 s.inUse)))
/-- The records expected before and at tick k. -/
def around (h : Hw) (k : Nat) : Option Slot × Option Slot := ((h.expected (k - 1)).bind h.slotRec, (h.expected k).bind h.slotRec)

/-! ### Messages (R182 to R192) -/

/-- Slot 7 has been announced (R66). -/
def announced7 (h : Hw) : Bool := h.sta.k7.isSome
/-- The full tick a message names (R184); a field before tick 0 is taken as tick 0, which is past. -/
def msgTick (h : Hw) (m : MsgHdr) : Nat := (fullTick h.tim.k m.target32).getD 0
/-- The common header (R182, Table 9.1). -/
def commonOk (m : MsgHdr) : Bool := m.revision == 1 && m.reserved == 0 && !m.concat && decide (m.size ≤ m.avail)
/-- R182, and room for PC_ID, SEQ_ID and the Thaod section header. -/
def headOk (m : MsgHdr) : Bool := commonOk m && decide (12 ≤ m.size)
/-- The VLAN ID of a frame matches a flow's (R186). -/
def vlanOk (m : MsgHdr) (f : Flow) : Bool := m.vlan.map (· % 4096) == vlanOf f
/-- A message for the command channel. -/
def isCommand (m : MsgHdr) : Bool := m.pcId == 0xFFFF
/-- The flow of a message in the FLOW_SET in force at its target tick. -/
def msgFlow (h : Hw) (m : MsgHdr) : Option Flow := (h.ownFlows (h.slotAt (h.msgTick m))).find? fun f => f.eaxc == m.pcId
/-- Matching under R186: 0, or the reason; then FLOW_ID and EAXC_ID of what matched. -/
def matchFlow (h : Hw) (m : MsgHdr) : Nat × Nat × Nat :=
  if isCommand m then (if m.msgType = 2 && m.flowId == 0xFF then 0 else 8, 0xFF, 0xFFFF)
  else if !((h.image.flows.map (·.2)).flatten.any fun f => f.pkgPos == h.sys.pkgPos && f.eaxc == m.pcId) then (12, 0xFF, 0xFFFF)
  else match h.msgFlow m with
    | none => (5, 0xFF, 0xFFFF)
    | some f =>
      if !(if m.msgType = 0 then f.dir == 0 else f.dir == 1 || f.dir == 2) || f.port != m.port.val || !vlanOk m f then (5, 0xFF, 0xFFFF)
      else (if m.flowId = f.id then 0 else 8, f.id, f.eaxc)
/-- LENGTH that Tables 9.7 to 9.11 fix for a record, `none` for a type outside Table 1.8. -/
def recLength (typ payload : Nat) : Option Nat :=
  if typ = 0x10 then some (12 + payload) else assoc typ
    [(0x11, 264), (0x12, 36), (0x20, 8), (0x21, 12), (0x22, 8), (0x23, 8), (0x24, 8), (0x25, 8), (0x26, 8), (0x27, 12)]
/-- A record type on its carrier (Table 9.6): direction 3 stands for the command channel. -/
def carrierOk (msgType dir typ : Nat) : Bool :=
  if typ = 0x10 then (msgType == 0 && dir == 0) || (msgType == 2 && dir == 1)
  else if typ = 0x11 ∨ typ = 0x12 then msgType == 2 && dir == 2
  else msgType == 2 && dir == 3
/-- R191, R192 and Table 9.6. -/
def layoutOk (h : Hw) (m : MsgHdr) : Bool :=
  let f := if isCommand m then none else h.msgFlow m
  let dir := (f.map (·.dir)).getD 3
  let sl := h.recAt (h.msgTick m)
  let spur := sl.any Slot.isSpur
  let pay := fun count => if m.msgType = 0 then payloadSize spur (match sl, f with
    | some s, some f => mantOf s f.compression
    | _, _ => 16) count else 0
  m.records == m.layout.length && decide (1 ≤ m.records) && decide (m.records ≤ 64) && (!(spur && dir ≤ 1) || m.records == 1) &&
    m.size == 12 + sumL (m.layout.map (·.2.1)) &&
    m.layout.all fun r => carrierOk m.msgType dir r.1 && recLength r.1 (pay r.2.2) == some r.2.1
/-- The sequence check (R188) on sequence f: `none` a duplicate. -/
def seqCheck (s : SeqState) (n : Nat) : Option SeqState :=
  let s := if s.synced then s else { s with next := n, synced := true, seen := [] }
  let d := (n + 256 - s.next) % 256
  if d < 128 then
    some { s with gap := cnt 32 s.gap d, next := (n + 1) % 256
                  seen := n :: s.seen.filter fun x => !((x + 256 - s.next) % 256 < d) && x != n }
  else if s.seen.contains n then none
  else some { s with reorder := inc s.reorder, seen := n :: s.seen }
/-- A package behind the head takes messages from the head's address without the sequence check (R227). -/
def fromHead (h : Hw) (m : MsgHdr) : Bool := h.sys.pkgPos != 0 && h.macOf 0 == some m.src
/-- The message checks of R201 in their order: the reason of the first that fails, 0 where the message stands. -/
def checkMsg (h : Hw) (m : MsgHdr) : Hw × Nat × Nat × Nat :=
  if !headOk m then (h, 8, 0xFF, 0xFFFF)
  else
    let mt := h.matchFlow m
    if mt.1 ≠ 0 then (h, mt)
    else if !isCommand m && m.epoch % 16 != h.epochAt (h.msgTick m) then (h, 6, mt.2)
    else if m.seqE ≠ 0x80 then (h, 8, mt.2)
    else
      let f := if isCommand m then 128 else mt.2.1
      let st := if h.fromHead m then some (getN h.fhl.seqs f {}) else seqCheck (getN h.fhl.seqs f {}) (m.seq % 256)
      match st with
      | none => (h, 7, mt.2)
      | some st =>
        let h := h.onFhl fun x => { x with seqs := updN x.seqs f fun _ => st }
        (h, if h.layoutOk m then 0 else 8, mt.2)

/-! ### Refusals (R205, R206) -/

/-- The elements of refusals of one message: reason and tick of each. -/
def refusalEls (m : MsgHdr) (c : Cur) (l : List (Nat × Nat × Nat)) : List Bytes :=
  (l.map fun r => [element c.eaxc 0 (0x400 + r.1) (c.flowId * 2 ^ 24 + m.seq % 256 * 2 ^ 16 + r.2.1 * 256 + r.2.2),
    element c.eaxc 0 0x4FF m.target32]).flatten
/-- Refusals of a message counted and reported, at most 32 in one indication. -/
def report (h : Hw) (m : MsgHdr) (c : Cur) : Hw :=
  let h := h.each c.refusals fun h r => h.onFhl fun f => { f with refused := updN f.refused r.1 inc }
  h.each (chunks 32 3 c.refusals) fun h l => h.indicate m.src m.vlan 0x02 (refusalEls m c l)
/-- A refusal that is no record's: record index 0xFF, record type 0 (Table 9.15). -/
def refuseMsg (h : Hw) (m : MsgHdr) (reason flowId eaxc : Nat) : Hw :=
  h.report m { reason := reason, flowId := flowId, eaxc := eaxc, refusals := [(reason, 0xFF, 0)] }
/-- A refusal of a message that is of neither type 0 nor 2: no flow, no sequence number, no tick (Table 9.15). -/
def refuseOther (h : Hw) (src : Nat) (vlan : Option Nat) (reason : Nat) : Hw :=
  let h := h.onFhl fun f => { f with refused := updN f.refused reason inc }
  h.indicate src vlan 0x02 [element 0xFFFF 0 (0x400 + reason) (0xFF * 2 ^ 24 + 0xFF00), element 0xFFFF 0 0x4FF 0]
/-- The message is opened at its first record: its checks, or none before slot 7 is announced (R66). -/
def openMsg (h : Hw) (m : MsgHdr) (idx : Nat) : Hw :=
  if idx ≠ 0 then h
  else if !h.announced7 then h.onFhl fun f => { f with cur := {} }
  else
    let r := h.checkMsg m
    let c : Cur := { reason := r.2.1, flowId := r.2.2.1, eaxc := r.2.2.2 }
    let h := r.1.onFhl fun f => { f with cur := c }
    h.whenB (c.reason != 0) fun h => h.refuseMsg m c.reason c.flowId c.eaxc
/-- A record refused, or not; the last record of a message closes it, and its refusals are reported. -/
def closeRec (h : Hw) (m : MsgHdr) (idx typ reason : Nat) : Hw :=
  let h := h.whenB (reason != 0) fun h => h.onFhl fun f => { f with cur := { f.cur with refusals := f.cur.refusals ++ [(reason, idx, typ)] } }
  h.whenB (m.layout.length ≤ idx + 1) fun h =>
    (h.report m h.fhl.cur).onFhl fun f => { f with cur := { f.cur with refusals := [] } }
/-- A message reaches its handler on a port: S5 or later, link, and port B not forwarding (R180, R210). -/
def arrives (h : Hw) (p : PortId) : Bool := 5 ≤ h.sta.stage && (h.port p).linkUp && !(p == 1 && h.fwdOn)
/-- One record row: the message opened, the record judged by `f` where the message stands, and its refusal noted. The second result
is 0 for an accepted record, 0xFF where no record arrived, else the reason of its or its message's refusal. -/
def judge (h : Hw) (m : MsgHdr) (idx typ msgType : Nat) (f : Hw → Nat → Hw × Nat) : Hw × Nat :=
  if !(h.arrives m.port && m.msgType == msgType && (m.layout[idx]?.map (·.1)) == some typ) then (h, 0xFF)
  else
    let h := h.openMsg m idx
    if !h.announced7 then (h.closeRec m idx typ 10, 10)
    else if h.fhl.cur.reason ≠ 0 then (h, h.fhl.cur.reason)
    else
      let r := f h (h.msgTick m)
      (r.1.closeRec m idx typ r.2, r.2)

/-! ### Windows of Table 9.12 and what the stage and slot forbid -/

/-- The lead of tick k for an arrival at C = ta is below a time in ns. -/
def leadBelow (h : Hw) (k ta ns : Nat) : Bool := decide ((h.tickFine k : Int) - ta * 100000 < (nsFine ns : Nat))
/-- The lead is above a time in ns. -/
def leadAbove (h : Hw) (k ta ns : Nat) : Bool := decide ((nsFine ns : Int) < h.tickFine k - (ta * 100000 : Int))
/-- LATE or EARLY under a minimum and a maximum in ns. -/
def window (h : Hw) (k ta lo hi : Nat) : Nat := if h.leadBelow k ta lo then 1 else if h.leadAbove k ta hi then 2 else 0
/-- A record whose tick lies before the first entry into slot 7 (R66). -/
def before7 (h : Hw) (k : Nat) : Bool := h.sta.k7.any fun k7 => k < k7
/-- Record types that only S8 takes (Table 3.5). -/
def onlyS8 (typ : Nat) : Bool := typ == 0x11 || typ == 0x12 || typ == 0x20 || typ == 0x21 || typ == 0x22
/-- The stage forbids a record type (Table 3.5). -/
def stageForbids (h : Hw) (typ : Nat) : Bool := onlyS8 typ && h.sta.stage < 8
/-- The first reason that is not 0. -/
def firstReason : List Nat → Nat
  | [] => 0
  | a :: r => if a = 0 then firstReason r else a
/-- A reason where a test holds. -/
def ifBad (b : Bool) (r : Nat) : Nat := if b then r else 0
/-- The control and command queue is full (Table 9.13). -/
def controlFull (h : Hw) : Bool := decide (2048 ≤ h.fhl.control.length)
/-- A record held in that queue until a tick. -/
def hold (h : Hw) (k : Nat) : Hw := h.onFhl fun f => { f with control := f.control ++ [k] }

/-! ### Weights (R121, R128, R129) -/

/-- A dynamic beam ID that a DYNAMIC_ENABLE range covers. -/
def dynEnabled (h : Hw) (b : Nat) : Bool := h.image.dynEnable.any fun r => decide (r.1 ≤ b) && decide (b < r.1 + r.2)
/-- Tag of a version slot of dynamic ID 4,096 + d. -/
def dynTag (h : Hw) (d v : Nat) : Option Nat := assoc (2 * d + v) h.mas.tags
/-- The version, among those tagged, that a use at tick k takes: the latest effective tick at or before k (R129). -/
def versionIn (tags : List (Nat × Nat)) (d k : Nat) : Option Nat :=
  let t := fun v => (assoc (2 * d + v) tags).filter (· ≤ k)
  match t 0, t 1 with
  | some a, some b => some (if a < b then 1 else 0)
  | some _, none => some 0
  | none, some _ => some 1
  | none, none => none
/-- The version in the store now for a use at tick k. -/
def dynVersion (h : Hw) (d k : Nat) : Option Nat := versionIn h.mas.tags d k
/-- The version that a downlink use at tick k takes: that of Massif's latch where it is taken (R133). -/
def dlVersion (h : Hw) (d k : Nat) : Option Nat :=
  versionIn (((h.mas.latches.find? fun l => l.tick == k).map (·.tags)).getD h.mas.tags) d k
/-- The weight of a beam for a path, of a version of a dynamic beam, as stored; an uncorrectable word gives zero (R141). -/
def weightAt (m : Mem) (b : Nat) (v : Option Nat) (p : Nat) : IQ :=
  let rdw := fun a => let w := m.read a 4; (⟨signed 16 (rd w 0 2), signed 16 (rd w 2 2)⟩ : IQ)
  if b < 4096 then rdw (codebookAddr b p)
  else match v with
    | some v => rdw (dynamicAddr (b - 4096) v p)
    | none => ⟨0, 0⟩
/-- The weight of a beam for a path at tick k, as stored; an uncorrectable word gives zero (R141). -/
def weightOf (h : Hw) (m : Mem) (b k p : Nat) : IQ :=
  weightAt m b (h.dynVersion (b - 4096) k) p
/-- Objects and permission of a beam (R121): 0, NOT_IN_IMAGE or MODE_FORBIDS. -/
def beamBad (h : Hw) (b k : Nat) : Nat :=
  if b < 4096 then 0 else if !(decide (b < 4608) && h.dynEnabled b) then 12 else if h.isFoothill (h.slotAt k) then 10 else 0
/-- No stored version at or before the tick (R129). -/
def weightGone (h : Hw) (b k : Nat) : Bool := decide (4096 ≤ b) && (h.dynVersion (b - 4096) k).isNone

end Hw
end Sys2Proof.Machine
end

