-- ==== Sys2Proof/Machine/Cairn.lean ====
section
/-! DEFINITION. Cairn (chapter 8): search occasions and their depth (R162 to R175), groups (R172, R176) and reports (R174, R177). -/
namespace Sys2Proof.Machine

/-- A power of two. -/
def isPow2 (n : Nat) : Bool := n != 0 && 2 ^ Nat.log2 n == n
/-- Delay bins W (Table 8.2). -/
def famBins (f : Family) : Nat := if f.kind = 2 then f.length * familyNs f else familyNs f
/-- Families named by a mask. -/
def maskFams (x : Nat) : List Nat := (List.range 16).filter (bit x)
/-- Limits of Table 8.3 that do not depend on the image. -/
def searchForm (r : SearchRec) : Bool :=
  let n := (maskFams r.families).length
  let sector := r.rows * r.cols
  decide (r.template ≤ 31) && decide (1 ≤ n) && decide (n ≤ 4) && isPow2 r.rows && isPow2 r.cols && decide (r.beamsMin ≤ sector) &&
    (if sector < 16 then r.beamsMin == sector || (isPow2 r.beamsMin && decide (16 ≤ r.beamsMin)) else isPow2 r.beamsMin && decide (16 ≤ r.beamsMin)) &&
    decide (1 ≤ r.cohReq) && decide (r.cohReq ≤ 128) && decide (1 ≤ r.cohMin) && decide (r.cohMin ≤ r.cohReq) && decide (1 ≤ r.noncohReq) &&
    decide (r.noncohReq ≤ 16) && decide (1 ≤ r.noncohMin) && decide (r.noncohMin ≤ r.noncohReq) && [1, 3, 5, 7].contains r.freqHyp
/-- T_occ in 10^-5 cc for C and K (R167): the longest of the families. -/
def occFine (fs : List Family) (maxDelay c k : Nat) : Nat :=
  fs.foldl (fun a f => Nat.max a ((if f.kind = 2 then 0 else maxDelay * 983040) + c * k * repPeriod f * 100000)) 0

/-- Depth of an occasion. -/
structure Depth where
  b : Nat
  c : Nat
  k : Nat
  e : Nat

namespace Hw

/-- A family of the image. -/
def family (h : Hw) (i : Nat) : Option Family := h.image.families.find? fun f => f.inst == i
/-- A template of the image. -/
def template (h : Hw) (i : Nat) : Option Template := h.image.templates.find? fun t => t.inst == i
/-- Families that a record names. -/
def famsOf (h : Hw) (x : Nat) : List Family := (maskFams x).filterMap h.family
/-- N_r and N_c of a template (R169). -/
def gridOf (h : Hw) (t : Template) : Nat × Nat :=
  (t.gridOs * pow2Above (h.geoMax (·.row) + 1) 1, t.gridOs * pow2Above (h.geoMax (·.col) + 1) 1)
/-- The first tick at or after an instant in 10^-5 cc, from tick k on, by half-subframes and then by windows. -/
def tickFrom (h : Hw) (k fine : Nat) : Nat :=
  let w := ticksPerHalf h.scs
  let c := ceilDiv fine 100000
  let k0 := Nat.max k ((k / w + (c - h.tickAt (k / w * w)) / 491520) * w)
  ((List.range (w + 1)).map (k0 + ·)).find? (fun t => c ≤ h.tickAt t) |>.getD (k0 + w + 1)
/-- Closing tick of an occasion for C and K (R167). -/
def occClosing (h : Hw) (fs : List Family) (k maxDelay c n : Nat) : Nat := h.tickFrom k (h.tickFine k + occFine fs maxDelay c n)
/-- Ceilings for beams, C and K: the smaller of the slot's and the template's fields (R166). -/
def searchCeil (sl : Slot) (t : Template) : Nat × Nat × Nat :=
  (Nat.min sl.cairnBeams t.maxBeams, Nat.min sl.cairnCoh t.maxCoh, Nat.min sl.cairnNoncoh t.maxNoncoh)
/-- Limits of Table 8.3 and R167 that relate a record to the image and the slot. R175 puts these checks before the depth decision, so the
closing tick that REPORT_TICK and the TDD pattern are held to is that of C and K as lowered to the ceilings (DEDUCED, log 71). -/
def searchRelations (h : Hw) (sl : Slot) (t : Template) (r : SearchRec) (k report : Nat) : Bool :=
  let fs := h.famsOf r.families
  let g := h.gridOf t
  let ceil := searchCeil sl t
  let hz := scsHz ((sl.carriers[r.carrier]?.map (·.scs)).getD 0)
  let closing := h.occClosing fs k r.maxDelay (Nat.min r.cohReq ceil.2.1) (Nat.min r.noncohReq ceil.2.2)
  decide (r.carrier < sl.nCarriers) && decide (r.rows ≤ g.1) && decide (r.cols ≤ g.2) && decide (r.beamsMin ≤ ceil.1) &&
    decide (r.cohMin ≤ ceil.2.1) && decide (r.noncohMin ≤ ceil.2.2) &&
    fs.all (fun f =>
      decide (r.startPrb * 12 * hz + f.length * familyHz f.scs ≤ sl.prbs r.carrier * 12 * hz) &&
        (if f.kind = 2 then decide (r.maxDelay * 40 * familyHz f.scs ≤ 1000000000)
         else decide (r.maxDelay * 10 * f.length * familyHz f.scs ≤ f.cs * 1000000000))) &&
    decide (closing + h.windowsFor 500000 ≤ report) && decide (h.tickAt report ≤ h.tim.c + 2 ^ 31) &&
    (List.range (closing - k)).all fun i => (List.range 16).all fun q => h.tddCode sl q (k + i) == 2

/-! ### Depth (R175) -/

/-- Work bytes of an occasion that evaluates `b` beams. -/
def workBytes (fs : List Family) (f b : Nat) : Nat := sumL (fs.map fun x => 512 * f * famBins x + 2 * f * famBins x * b)
/-- Instants at which an admitted occasion can add to what is held over a span. -/
def holdTicks (h : Hw) (k closing : Nat) : List Nat :=
  k :: ((h.crn.occasions.map (·.target)).filter fun t => decide (k < t) && decide (t < closing))
/-- Contexts held by others somewhere in a span. -/
def contextsHeld (h : Hw) (k closing : Nat) : List Nat :=
  ((h.crn.occasions.filter fun o => decide (o.target < closing) && decide (k < o.closing)).map (·.contexts)).flatten.eraseDups
/-- Work bytes free over a span. -/
def workFree (h : Hw) (k closing : Nat) : Nat :=
  let at_ := fun t => sumL ((h.crn.occasions.filter fun o => decide (o.target ≤ t) && decide (t < o.report)).map (·.bytes))
  6291456 - (h.holdTicks k closing).foldl (fun a t => Nat.max a (at_ t)) 0
/-- The largest power of two at or below `b` whose bytes fit; 0 where none does. -/
def beamsFit (fs : List Family) (f free : Nat) : Nat → Nat → Nat
  | 0, _ => 0
  | n + 1, b => if b = 0 then 0 else if workBytes fs f b ≤ free then b else beamsFit fs f free n (b / 2)
/-- The charges of an occasion at a depth, window by window, and its units in each. -/
def searchCharges (h : Hw) (fs : List Family) (r : SearchRec) (k report : Nat) (d : Depth) : Nat × List (Nat × List (Nat × Nat)) :=
  let u := ceilDiv (fs.length * r.freqHyp * d.b * d.c * d.k) (report - k)
  let closing := h.occClosing fs k r.maxDelay d.c d.k
  (u, (List.range (closing - k)).map fun i => (k + i, h.charges (k + i) 4 u []))
/-- The loop of the depth decision: the depth that has room, or the lowest level that fails. -/
def depthLoop (h : Hw) (fs : List Family) (r : SearchRec) (k report : Nat) : Nat → Depth → Except Nat Depth
  | 0, _ => .error 4
  | n + 1, d =>
    match h.budgetFails (h.searchCharges fs r k report d).2 with
    | none => .ok d
    | some l =>
      if r.beamsMin < d.b then h.depthLoop fs r k report n { d with e := d.e + d.b / 2, b := d.b / 2 }
      else if r.noncohMin < d.k then h.depthLoop fs r k report n { d with k := Nat.max (d.k / 2) r.noncohMin }
      else if r.cohMin < d.c then h.depthLoop fs r k report n { d with c := Nat.max (d.c / 2) r.cohMin }
      else .error l
/-- Admission of a search occasion (R166, R167, R175, R201, R431). The contexts and the work area are looked for over the span of C and K as
lowered to the ceilings, ahead of the depth decision, as R175 orders them (DEDUCED, log 71). -/
def admitSearch (h : Hw) (m : MsgHdr) (r : SearchRec) (k : Nat) : Hw × Nat :=
  match h.recAt k with
  | none => (h, 8)
  | some sl =>
    let fs := h.famsOf r.families
    let report := (fullTick h.tim.k r.reportTick).getD 0
    let t := h.template r.template
    let why := firstReason [ifBad (h.before7 k) 10, h.window k h.tim.c sl.minLead sl.earlyLimit,
      ifBad (h.stageForbids 0x12 || sl.kind == 4 || sl.cairn != 1) 10, ifBad (!searchForm r) 8,
      ifBad (fs.length != (maskFams r.families).length || !(t.any fun t => (maskFams r.families).all (bit t.familyMask))) 12,
      ifBad (!(t.any fun t => h.searchRelations sl t r k report)) 8, ifBad h.controlFull 4]
    match t with
    | none => (h, if why = 0 then 12 else why)
    | some t =>
      if why ≠ 0 then (h, why)
      else
        let ceil := searchCeil sl t
        let c0 := Nat.min r.cohReq ceil.2.1
        let k0 := Nat.min r.noncohReq ceil.2.2
        let b0 := Nat.min (r.rows * r.cols) ceil.1
        let span := h.occClosing fs k r.maxDelay c0 k0
        let free := (List.range 4).filter fun c => !(h.contextsHeld k span).contains c
        let bw := beamsFit fs r.freqHyp (h.workFree k span) 32 (2 ^ Nat.log2 b0)
        if free.length < fs.length ∨ bw < r.beamsMin then (h, 4)
        else match h.depthLoop fs r k report 64 { b := bw, c := c0, k := k0, e := 0 } with
          | .error l => (h.countLevel l, 3)
          | .ok d =>
            let ch := h.searchCharges fs r k report d
            let h := h.each ch.2 fun h w => h.reserve w.1 w.2
            let f := h.msgFlow m
            let g := h.gridOf t
            let o : Occasion :=
              { tag := low32 r.occTag, flow := (f.map (·.id)).getD 0, target := k, closing := h.occClosing fs k r.maxDelay d.c d.k, report := report
                template := r.template, families := maskFams r.families, row0 := r.row0, rows := r.rows, col0 := r.col0, cols := r.cols
                beams := d.b, ext := d.e, coh := d.c, noncoh := d.k, freqHyp := r.freqHyp, maxDelay := r.maxDelay, gridRows := g.1, gridCols := g.2
                bytes := workBytes fs r.freqHyp (d.b + d.e), contexts := free.take fs.length, blocks := List.range (ceilDiv d.e 64)
                perWindow := ch.1, slot := sl.slot, port := (f.map (·.port)).getD 0, dst := (f.map (·.dstMac)).getD 0
                vlan := (f.map (·.vlan)).getD 0xFFFF, eaxc := (f.map (·.eaxc)).getD 0, order := h.fhl.order
                carrier := r.carrier, startPrb := r.startPrb }
            let cut := d.b != r.rows * r.cols || d.c != r.cohReq || d.k != r.noncohReq
            let h := (h.hold k).onFhl fun x => { x with order := x.order + 1 }
            (h.onCrn fun x => { x with occasions := x.occasions ++ [o], admitted := inc x.admitted, cut := if cut then inc x.cut else x.cut }, 0)

end Hw

/-- A SEARCH_OCCASION record (R175, R196). -/
def execSearchOccasion (dt : Nat) (m : MsgHdr) (idx : Nat) (r : SearchRec) (s : State) : Host.Outcome State Fault Refusal :=
  ok s dt fun h =>
    let a := h.judge m idx 0x12 2 fun h k => h.admitSearch m r k
    a.1.whenB (a.2 != 0 && a.2 != 0xFF) fun h => h.onCrn fun x => { x with refused := inc x.refused }

/-- Beams of extension block b of an occasion. -/
def blockBeams (o : Occasion) (b : Nat) : Nat := Nat.min 64 (o.ext - 64 * b)

end Sys2Proof.Machine
end

