-- ==== Sys2Proof/Machine/Air.lean ====
section
/-! DEFINITION. Massif's downlink (chapter 6): the latch of R133, renormalisation (R132), weighting in the frequency domain (R124) and in
the time domain (R139), uncorrectable weight words (R141), and the items that go on air (R4, R229). -/
namespace Sys2Proof.Machine

/-! ### Renormalisation (R132) -/

/-- Squared magnitude. -/
def mag2 (w : IQ) : Nat := (w.i * w.i + w.q * w.q).toNat
/-- cround of sqrt(a / b), for b > 0. -/
def rootRound (a b : Nat) : Nat :=
  let n := (Nat.sqrt (4 * a / b) + 1) / 2
  if 0 < n ∧ (2 * n - 1) * (2 * n - 1) * b = 4 * a ∧ n % 2 = 1 then n - 1 else n
/-- The largest n in [lo, lo + 2^f) that passes a falling test; lo where none does. -/
def searchUp (p : Nat → Bool) : Nat → Nat → Nat
  | 0, lo => lo
  | f + 1, lo => if p (lo + 2 ^ f) then searchUp p f (lo + 2 ^ f) else searchUp p f lo
/-- cround of w × 10^(d / 200): d the headroom in 0.1 dB. -/
def headRound (w d : Nat) : Nat :=
  if d = 0 then w else searchUp (fun n => decide ((2 * n - 1) ^ 200 ≤ (2 * w) ^ 200 * 10 ^ d)) 17 0
/-- One component under min(g, c_p): g = sqrt(pr / pe), c_p = 10^(d / 200). -/
def renormPart (pr pe d : Nat) (x : Int) : Int :=
  let w := x.natAbs
  let n := if pr ^ 100 ≤ pe ^ 100 * 10 ^ d then rootRound (w * w * pr) pe else headRound w d
  let n := Nat.min 32767 n
  if x < 0 then -(n : Int) else n

namespace Hw

/-! ### The latch and the weights of a symbol -/

/-- The latch of the symbol of tick k + 2 is taken at tick k (R133). -/
def latch (h : Hw) (k : Nat) : Hw :=
  let ret := (List.range 64).filter (h.retiredAt (k + 2))
  h.onMas fun m => { m with
    latches := (m.latches.filter fun l => k ≤ l.tick && l.tick != k + 2) ++
      [{ tick := k + 2, slot := h.slotAt (k + 2), retired := ret, tags := m.tags }]
    retiredLatched := ret.length }
/-- The weights of the 64 paths for a downlink use of a beam at tick k, under the latch and renormalised (R120, R132, R133). DESIGN
CHOICE (log 90): every RENORM but 0 renormalises; Table 2.5 defines 1 alone. -/
def dlWeights (h : Hw) (m : Mem) (beam k : Nat) : List IQ :=
  let st := h.stateAt k
  match h.slotRec st.1 with
  | none => List.replicate 64 ⟨0, 0⟩
  | some sl =>
    let e := (List.range 64).filter (h.enabledTx sl st.2)
    let r := (List.range 64).filter (h.enabledTx sl fun _ => false)
    let v := h.dlVersion (beam - 4096) k
    let w := (List.range 64).map (weightAt m beam v)
    let stored := fun n => let a := if beam < 4096 then codebookAddr beam n else match v with
        | some v => dynamicAddr (beam - 4096) v n
        | none => 0
      mag2 ⟨signed 16 (unle [m.get a, m.get (a + 1)]), signed 16 (unle [m.get (a + 2), m.get (a + 3)])⟩
    let pr := sumL (r.map stored)
    let pe := sumL (e.map stored)
    (List.range 64).map fun n =>
      let x := w.getD n ⟨0, 0⟩
      if !e.contains n || pe = 0 then ⟨0, 0⟩
      else if sl.renorm = 0 then x
      else
        let d := ((h.path n).fem.id.map (·.headroom)).getD 0
        ⟨renormPart pr pe d x.i, renormPart pr pe d x.q⟩
/-- One weight read of a use (R141, R356): counted, and reported where it meets an uncorrectable word. -/
def readWeight (h : Hw) (m : Mem) (beam n a v : Nat) (dyn : Bool) : Hw :=
  let h := h.noteRead m a 4
  h.whenB (m.anyUe a 4) fun h =>
    let first := !h.mas.ueSeen.contains (a / 8)
    let h := h.onMas fun x => { x with
      cbUe := if dyn then x.cbUe else updN x.cbUe (n / 16) inc, dynUe := if dyn then updN x.dynUe (n / 16) inc else x.dynUe
      ueBeam := beam, uePath := n, ueDyn := dyn, ueVersion := if dyn then v else 0, ueValid := true
      ueSeen := if first then (a / 8) :: x.ueSeen else x.ueSeen }
    h.whenB first fun h => h.alarm (if dyn then 0x0702 else 0x0701) beam n
/-- The reads of the 64 weights for one use of a beam, of a version of a dynamic one. -/
def readWeights (h : Hw) (m : Mem) (beam : Nat) (v : Option Nat) : Hw :=
  if beam < 4096 then h.each (List.range 64) fun h n => h.readWeight m beam n (codebookAddr beam n) 0 false
  else match v with
    | some v => h.each (List.range 64) fun h n => h.readWeight m beam n (dynamicAddr (beam - 4096) v n) v true
    | none => h
/-- A downlink item with the weights it is weighted by. -/
def setWs (h : Hw) (order : Nat) (w : List IQ) : Hw :=
  h.onFhl fun f => { f with dl := f.dl.map fun d => if d.order = order then { d with ws := some w } else d }
/-- The weights of the items that a test picks are read, once for each: of a frequency-domain section for the section alone, of a
time-domain beam once for all its sections of the window (R139, R141). -/
def weigh (h : Hw) (m : Mem) (p : DlItem → Bool) : Hw :=
  h.each (h.fhl.dl.filter fun d => p d && d.ws.isNone) fun h d =>
    match (h.fhl.dl.find? fun x => d.spur && x.spur && x.target == d.target && x.layer == d.layer && x.ws.isSome).bind (·.ws) with
    | some w => h.setWs d.order w
    | none =>
      let w := h.dlWeights m d.beam d.target
      (h.readWeights m d.beam (h.dlVersion (d.beam - 4096) d.target)).setWs d.order w
/-- The weights of time-domain sections whose window is open or past are read. -/
def weighTd (h : Hw) (m : Mem) : Hw := h.whenB h.tim.open_ fun h => h.weigh m fun d => d.spur && decide (d.target ≤ h.tim.k)
/-- The weights that an item was weighted by. -/
def wsOf (d : DlItem) : List IQ := d.ws.getD []

/-! ### Weighting (R124, R139) -/

/-- y of one path before saturation: the sum of w × x over 2^15. -/
def weighted (l : List (IQ × IQ)) : Int × Int :=
  (cround (sumZ (l.map fun a => a.1.i * a.2.i - a.1.q * a.2.q)) 32768, cround (sumZ (l.map fun a => a.1.i * a.2.q + a.1.q * a.2.i)) 32768)
/-- The value of subcarrier m of a section, zero for a PRB that R204 takes as zero. -/
def dlValue (d : DlItem) (m : Nat) : IQ :=
  let i := m / 12 - d.start
  if d.zeroed.contains i then ⟨0, 0⟩
  else
    let v := prbValues d.mant d.payload i
    ⟨v.getD (2 * (m % 12)) 0, v.getD (2 * (m % 12) + 1) 0⟩
/-- The sample n of a Spur section: zero beyond what a truncated frame brought (R118, R204). -/
def tdValue (d : DlItem) (n : Nat) : IQ :=
  let o := 4 * (n - 64 * d.start)
  if d.zeroed.contains (n / 64 - d.start) || d.truncAt.any (fun t => decide (t < o + 4)) then ⟨0, 0⟩
  else ⟨signed 16 (rd d.payload o 2), signed 16 (rd d.payload (o + 2) 2)⟩
/-- What the paths get where some section covers a place: path, place, saturated value, and the saturated components by flank. -/
def mix (l : List (List IQ × IQ)) : List (Nat × IQ × Nat) :=
  if l.isEmpty then []
  else (List.range 64).map fun p =>
    let z := weighted (l.map fun a => (a.1.getD p ⟨0, 0⟩, a.2))
    (p, ⟨sat16 z.1, sat16 z.2⟩, b2n (decide (sat16 z.1 ≠ z.1)) + b2n (decide (sat16 z.2 ≠ z.2)))
/-- Saturated components counted by flank. -/
def countDlSat (h : Hw) (l : List (Nat × Nat)) : Hw :=
  h.onMas fun m => { m with dlSat := vmapi m.dlSat fun f x => cnt 32 x (sumL ((l.filter fun a => a.1 / 16 == f).map (·.2))) }
/-- A subcarrier that the slot in force transmits: one of its carriers and their PRBs (R28). DESIGN CHOICE (log 117): a section admitted
under the slot before keeps its carrier number and its PRB numbers, whatever RF positions they had. -/
def carried (sl : Slot) (c sc : Nat) : Bool := decide (c < sl.nCarriers) && decide (sc < 12 * sl.prbs c)
/-- What the sections of one carrier's symbol give the paths: carrier, subcarrier, path, value, saturated components (R124). -/
def carrierOut (sl : Slot) (fd : List DlItem) (c : Nat) : List (Nat × Nat × Nat × IQ × Nat) :=
  let cs := fd.filter fun d => d.carrier == c
  let top := cs.foldl (fun a d => Nat.max a (12 * (d.start + d.count))) 0
  (((List.range top).filter (carried sl c)).map fun sc =>
    let on := cs.filter fun d => decide (12 * d.start ≤ sc) && decide (sc < 12 * (d.start + d.count))
    (mix (on.map fun d => (wsOf d, dlValue d sc))).map fun y => (c, sc, y)).flatten
/-- The weights that the uplink beams of tick k's window use are read, once for each beam (R139, R141). -/
def weighUl (h : Hw) (m : Mem) (k : Nat) : Hw :=
  h.each (h.fhl.ul.filter fun u => u.spur && u.target == k) fun h u =>
    let setUl := fun (h : Hw) (w : List IQ) =>
      h.onFhl fun f => { f with ul := f.ul.map fun x => if x.order = u.order then { x with ws := some w } else x }
    match (h.fhl.ul.find? fun x => x.spur && x.target == k && x.layer == u.layer && x.ws.isSome).bind (·.ws) with
    | some w => setUl h w
    | none => setUl (h.readWeights m u.beam (h.dynVersion (u.beam - 4096) k)) ((List.range 64).map (h.weightOf m u.beam k))
/-- The frequency-domain symbol that opens on tick k is handed to the path chains, without the paths of quads that are not downlink over the
whole of it (R190), and the items of the tick go on air or, while a trip holds, are lost (R4, R124, R204, R229). A section that no
SECTION_WEIGHTED has named is weighted now (log 91). -/
def airTick (h : Hw) (m : Mem) (k : Nat) : Hw :=
  let h := (h.weigh m fun d => d.target == k).weighUl m k
  let items := h.fhl.dl.filter fun d => d.target == k
  let trip := h.trl.trip
  let air := items.map fun d =>
    { flow := d.flow, target := k, start := d.start, count := d.count, beam := d.beam, lost := trip, weights := wsOf d : AirItem }
  let out := match h.slotNow with
    | none => []
    | some sl => ((List.range 4).map (carrierOut sl (items.filter fun d => !d.spur))).flatten
  let down := fun c p => h.slotNow.any fun sl => h.symbolIs sl (p / 4) k (sl.span h.scs c) 1
  let h := h.countDlSat (out.map fun o => (o.2.2.1, o.2.2.2.2))
  let h := h.whenB trip fun h => h.onTrl fun t => { t with tripLost := cnt 32 t.tripLost items.length }
  let sym := (out.filter fun o => down o.1 o.2.2.1).map fun o => (o.2.2.1, o.1, o.2.1, o.2.2.2.1)
  let h : Hw := { h with out := { h.out with air := air, sym := sym } }
  h.onFhl fun f => { f with dl := f.dl.filter fun d => d.target != k || d.spur }
/-- The window of tick k closes: what time-domain beams gave the path chains in it, with the weights read for the window (R139), after a
fallback those of the sections admitted before it too (R28); its sections end. -/
def airClose (h : Hw) (m : Mem) (k : Nat) : Hw :=
  let h := h.weighTd m
  let items := h.fhl.dl.filter fun d => d.spur && d.target == k
  let top := items.foldl (fun a d => Nat.max a (64 * (d.start + d.count))) 0
  let out := ((List.range top).map fun n =>
    let on := items.filter fun d => decide (64 * d.start ≤ n) && decide (n < 64 * (d.start + d.count))
    (mix (on.map fun d => (wsOf d, tdValue d n))).map fun y => (n, y)).flatten
  let h := h.countDlSat (out.map fun o => (o.2.1, o.2.2.2))
  let td := out.map fun o => (o.2.1, o.1, o.2.2.1)
  let h : Hw := { h with
    out := { h.out with td := td }, txWins := h.txWins.map fun w => if w.tick = k then { w with td := td } else w }
  h.onFhl fun f => { f with dl := f.dl.filter fun d => !(d.spur && d.target ≤ k) }

end Hw
end Sys2Proof.Machine
end

