-- ==== Sys2Proof/Machine/Chains.lean ====
section
/-! DEFINITION. What the path chains do to samples, where the spec states it exactly (chapters 4, 5 and 7): NCO phases (R81, R101, R108),
delay and gain (R78, R85, R106), backoff (R102), the crest-factor candidates (R104), the predistorter (R143 to R145), the tone (R114),
the DAC code and its zero states (R111, R112), and the over-range count (R89, R90). The streams of Dsp.lean are
made of these; the filters between them the spec fixes by performance only (log 11). -/
namespace Sys2Proof.Machine

/-! ### Rounding -/

/-- |x| rounded to nearest; a magnitude is never half-way between whole numbers. -/
def magRound (x : IQ) : Nat := rootRound (mag2 x) 1
/-- cround of v × 10^(−b / 40) / d: a value under a backoff of b half dB. For b from 1 to 24 the factor is irrational, so no half occurs. -/
def backedOff (b : Nat) (v : Int) (d : Nat) : Int :=
  if b = 0 then cround v d
  else
    let n := searchUp (fun y => decide ((2 * y - 1) ^ 40 * d ^ 40 * 10 ^ b ≤ (2 * v.natAbs) ^ 40)) 20 0
    if v < 0 then -(n : Int) else n
/-- Both components saturated to 16 bits (R84). -/
def satIQ (z : IQ) : IQ := ⟨sat16 z.i, sat16 z.q⟩
/-- Saturated components, as TXP_DUC_SAT and RXP_DDC_SAT count them (R84, R99). -/
def satCount (z : IQ) : Nat := b2n (decide (sat16 z.i ≠ z.i)) + b2n (decide (sat16 z.q ≠ z.q))

/-! ### Gain, backoff, delay -/

/-- A sample times a Q2.14 gain, rounded, before saturation (R85, R106). -/
def gained (g x : IQ) : IQ :=
  let z := Tor.mulIQ x g
  ⟨cround z.i 16384, cround z.q 16384⟩
/-- A composite sample under the backoff of R102 in half dB, before saturation. -/
def backed (b : Nat) (x : IQ) : IQ := ⟨backedOff b x.i 1, backedOff b x.q 1⟩
/-- Delay of a trim in 1/64 Scree samples, each 1/32 cc (R78, R106). -/
def trimDelay (t : Trim) : Int := (t.int + 8) * 64 + t.tap

/-! ### Crest factor (R104) -/

/-- |x| lies above THRESHOLD × g_b, in units of 1/32,768 of the full scale of 32,767, b half dB of backoff. -/
def aboveT (thr b : Nat) (x : IQ) : Bool := decide ((thr * 32767) ^ 40 < mag2 x ^ 20 * 32768 ^ 40 * 10 ^ b)
/-- The candidates of a block of 64 samples, strongest first, ties by the lower place; `prev` and `next` stand beside the block. -/
def cfrCandidates (thr b : Nat) (prev : IQ) (x : List IQ) (next : IQ) : List Nat :=
  let y := prev :: (x ++ [next])
  let at_ := fun i => mag2 (y.getD i ⟨0, 0⟩)
  let cand := (List.range x.length).filter fun i =>
    aboveT thr b (x.getD i ⟨0, 0⟩) && decide (at_ i ≤ at_ (i + 1)) && decide (at_ (i + 2) < at_ (i + 1))
  sortBy (fun i => 2 ^ 40 - at_ (i + 1)) cand
/-- The peaks cancelled in a block, and the numbers that TXP_CFR_PEAKS and TXP_CFR_MISSED advance by. -/
def cfrBlock (c : Cfr) (b : Nat) (prev : IQ) (x : List IQ) (next : IQ) : List Nat × Nat × Nat :=
  let cand := cfrCandidates c.threshold b prev x next
  (cand.take c.maxPeaks, Nat.min cand.length c.maxPeaks, cand.length - c.maxPeaks)

/-! ### Predistortion (R143 to R145) -/

/-- The envelope of a sample (R144). -/
def envelope (x : IQ) : Nat := Nat.min 32767 (magRound x)
/-- 128 × L_t(e): the interpolated entry of a table with its 7 fractional bits (R144). -/
def tableValue (entry : Nat → IQ) (e : Nat) : IQ :=
  let a := e / 128
  let f : Int := (e % 128 : Nat)
  let t0 := entry a
  if a < 255 then
    let t1 := entry (a + 1)
    ⟨128 * t0.i + (t1.i - t0.i) * f, 128 * t0.q + (t1.q - t0.q) * f⟩
  else ⟨128 * t0.i, 128 * t0.q⟩
/-- The tables that a DPD_MODE uses (Table 7.1): table 3m + g for a memory tap m and a group g. -/
def tableUsed (mode t : Nat) : Bool := mode == 2 || mode == 1 && [0, 3, 6, 9].contains t
/-- The lag d_g of a group (R143). -/
def groupLag (g : Nat) : Int := if g = 0 then 0 else if g = 1 then 2 else -2
/-- u[n] before saturation: x gives the trimmed composite, `entry t j` entry j of table t. -/
def predistorted (mode : Nat) (entry : Nat → Nat → IQ) (x : Int → IQ) (n : Int) : IQ :=
  let terms := (List.range 24).map fun t =>
    if tableUsed mode t then Tor.mulIQ (x (n - (t / 3 : Nat))) (tableValue (entry t) (envelope (x (n - (t / 3 : Nat) - groupLag (t % 3)))))
    else ⟨0, 0⟩
  ⟨cround ((x n).i * 2 ^ 22 + sumZ (terms.map (·.i))) (2 ^ 22), cround ((x n).q * 2 ^ 22 + sumZ (terms.map (·.q))) (2 ^ 22)⟩

/-! ### Tone table (R114) -/

/-- π × 10^30. -/
def pi30 : Nat := 3141592653589793238462643383280
/-- sin of x / 10^30 by its series, in 10^-30: the terms from the k-th on, the k-th being t. -/
def sinTerms (x : Nat) : Nat → Nat → Int → Int
  | 0, _, _ => 0
  | f + 1, k, t => t + sinTerms x f (k + 1) (-(t * x / 10 ^ 30 * x / 10 ^ 30) / ((2 * k + 2) * (2 * k + 3) : Nat))
/-- round(32,767 × sin(2π i / 4,096)) for i from 0 to 1,024. -/
def quarterSin (i : Nat) : Int :=
  let x := pi30 * i / 2048
  cround (32767 * sinTerms x 20 0 x) (10 ^ 30)
/-- T[i], i from 0 to 4,095. -/
def toneTable (i : Nat) : Int :=
  let r := i % 1024
  match i / 1024 % 4 with
  | 0 => quarterSin r
  | 1 => quarterSin (1024 - r)
  | 2 => -quarterSin r
  | _ => -quarterSin (1024 - r)
/-- y_tone of a phase, an AMP and a backoff in half dB. -/
def toneValue (phase : BitVec 48) (amp b : Nat) : Int := backedOff b (toneTable (phase.toNat / 2 ^ 36) * amp) (2 ^ 18)
/-- The DAC input code before saturation: of the mixed stream's real part alone, of the tone alone (MODE 1) or of their sum (MODE 2)
(R111, R115). -/
def dacInput (mode : Nat) (re tone : Int) : Int := if mode = 1 then tone else if mode = 2 then clampZ (-8192) 8191 (cround re 4) + tone else cround re 4
/-- The code of 14 bits (R111). -/
def dacCode (mode : Nat) (re tone : Int) : Int := clampZ (-8192) 8191 (dacInput mode re tone)

/-! ### Symbols (R83, R86, R87) -/

/-- Half-band stages between a preset's output and the FFT rate of a carrier of a slot that has an FFT; a Spur slot has none. -/
def halfBands (preset : Nat) (c : Carrier) : Nat := log2 (presetRate preset / (fftSize ((nRb c.bw c.scs).getD 0) * scsHz c.scs))
/-- Samples of the cyclic prefix at the FFT rate, of an N-point symbol at a spacing code; `long`: the first of a half-subframe. -/
def prefixLen (n scs : Nat) (long : Bool) : Nat := 9 * n / 128 + if long then n * scsHz scs / 1920000 else 0
/-- The FFT window begins this many samples before the end of the prefix. -/
def windowLead (n : Nat) : Nat := 9 * n / 512

/-! ### Over-range (R89, R90) -/

/-- Flagged samples and events in a run of ADC samples, `quiet` unflagged samples standing before it. -/
def ovrCount : Nat → List Bool → Nat × Nat
  | _, [] => (0, 0)
  | quiet, f :: r =>
    if f then
      let x := ovrCount 0 r
      (x.1 + 1, x.2 + b2n (decide (64 ≤ quiet)))
    else ovrCount (quiet + 1) r
/-- Unflagged samples that stand at the end of a run, `quiet` before it. -/
def quietAfter (quiet : Nat) (l : List Bool) : Nat := l.foldl (fun q f => if f then 0 else q + 1) quiet

namespace Hw

/-- Phase of an NCO now: `num`/`den` samples a cc since the latest slot entry cleared its accumulator (R81, R101, R108). -/
def ncoPhase (h : Hw) (num den ftw : Nat) : Nat := match h.mode.enteredAt with
  | some e => num * (h.up - e) / den * ftw % 2 ^ 48
  | none => 0
/-- Phase of the receive NCO of carrier c, at 5,898.24 MS/s (R80). -/
def rxPhase (h : Hw) (c : Nat) : Nat := ((h.carrierNow c).map fun x => h.ncoPhase 6 1 (rxFtw (2 * x.rf))).getD 0
/-- Phase of the transmit carrier NCO, at 1,474.56 MS/s (R101). -/
def txPhase (h : Hw) (c : Nat) : Nat := match h.slotNow, h.carrierNow c with
  | some sl, some x => h.ncoPhase 3 2 (txCarrierFtw x.rf (spanMid4 sl.inUse))
  | _, _ => 0
/-- Phase of the span NCO, at 11,796.48 MS/s (R108). -/
def spanPhase (h : Hw) : Nat := (h.slotNow.map fun sl => h.ncoPhase 12 1 (txSpanFtw4 (spanMid4 sl.inUse))).getD 0
/-- NCO word of the monitor and observation chains, which mix at the middle of the span (R91, R152). -/
def midFtw (h : Hw) : Nat := (h.slotNow.map fun sl => rxFtw4 (spanMid4 sl.inUse)).getD 0
/-- Phase of the NCO of the monitor chains and of the observation receivers, at 5,898.24 MS/s (R91, R152). -/
def midPhase (h : Hw) : Nat := h.ncoPhase 6 1 h.midFtw
/-- Entry j of table t of a path's active bank as the predistorter reads it: zero where its parity fails (R150). -/
def dpdEntry (h : Hw) (p t j : Nat) : IQ :=
  let d := (h.path p).dpd
  if (badEntries d).contains (256 * t + j) then ⟨0, 0⟩ else Tor.iq (h.dpdWord p true (256 * t + j))
/-- u[n] of a path before saturation, with its active bank under the slot in force; its input where the bank is bypassed (R107, R145). -/
def dpdOut (h : Hw) (p : Nat) (x : Int → IQ) (n : Int) : IQ :=
  if (h.path p).dpdBypass then x n
  else predistorted (h.slotField (·.dpdMode)) (h.dpdEntry p) x n
/-- The entries of the active bank that sample n reads, and reads again for each table that names it (R143, R144). -/
def dpdReads (h : Hw) (p : Nat) (x : Int → IQ) (n : Int) : List Nat :=
  if (h.path p).dpdBypass then []
  else (((List.range 24).filter (tableUsed (h.slotField (·.dpdMode)))).map fun t =>
    let a := envelope (x (n - (t / 3 : Nat) - groupLag (t % 3))) / 128
    if a < 255 then [256 * t + a, 256 * t + a + 1] else [256 * t + a]).flatten
/-- The predistorter's output (R143). -/
def dpdSample (h : Hw) (p : Nat) (x : Int → IQ) (n : Int) : IQ := satIQ (h.dpdOut p x n)
/-- The DAC of a path gives zero whatever its chain holds, or is powered down (Table 5.7): forced at the DAC input, not started, or off. -/
def dacForced (h : Hw) (n : Nat) : Bool :=
  decide (h.sta.stage < 7) || !(h.path n).txOn || !(h.path n).txRun || h.trl.trip || (h.path n).mutedTrip
/-- Zero is forced at the input of a path's transmit chain in the open window (Table 5.7): the path is retired or not enabled, its chain
has not started, or the symbol is no downlink of its quad. What is in the chain runs out (R112). -/
def inputForced (h : Hw) (n : Nat) : Bool :=
  !h.txEnabled n || !(h.path n).txLive || !(h.slotNow.any fun sl => h.tddCode sl (n / 4) h.tim.k == 1)
/-- The phase of a path's tone accumulator now: 12 DAC samples a cc (R114, R115). -/
def tonePhase (h : Hw) (n : Nat) : BitVec 48 := let t := (h.path n).tone
  t.phase + t.ftw * BitVec.ofNat 48 (12 * (h.up - t.phaseC))
/-- The tone of a path at a phase: zero where it does not reach the output (R114, R115, R268). -/
def toneOut (h : Hw) (n : Nat) (phase : BitVec 48) : Int :=
  if h.toneActive n then toneValue phase (h.path n).tone.amp (h.path n).backoff else 0
/-- The DAC input of a path before its code is saturated, `re` being the real part of its mixed stream (R111, R115). -/
def dacIn (h : Hw) (n : Nat) (phase : BitVec 48) (re : Int) : Int := dacInput (h.path n).tone.mode re (h.toneOut n phase)
/-- The DAC code of a path (R111, R112). -/
def dacOut (h : Hw) (n : Nat) (phase : BitVec 48) (re : Int) : Int :=
  if h.dacForced n then 0 else clampZ (-8192) 8191 (h.dacIn n phase re)
/-- The DAC code of a path now, the real part of its mixed stream being `re` (R111 to R115). -/
def dacSample (h : Hw) (n : Nat) (re : Int) : Int := h.dacOut n (h.tonePhase n) re

end Hw
end Sys2Proof.Machine
end

