-- ==== Sys2Proof/Machine/Dsp.lean ====
section
/-! DEFINITION. The sample streams of the path chains, from the ADC to the symbols of Massif and the power meter (R74 to R92) and from
Massif to the DAC (R97 to R115). A stream is a function of the sample's number, sample 0 lying at C = 0 at the pins; the state holds the
ADC samples and the symbols that the streams are made from. Filters are FIR filters whose impulse responses are open (log 11). -/
namespace Sys2Proof.Machine

/-- A sample inside a chain, with its over-range flag (R90). -/
structure Sig where
  i : Rat := 0
  q : Rat := 0
  flag : Bool := false
  deriving DecidableEq, Repr

/-- A stream. -/
abbrev Stream := Int → Sig

namespace Dsp

/-! ### Stages -/

/-- Sum over a run of sample numbers. -/
def tally (lo : Int) (n : Nat) (f : Int → Nat) : Nat := sumL ((List.range n).map fun j => f (lo + j))
/-- The rounded components, before saturation (R84, R99). -/
def rounded (s : Sig) : IQ := ⟨croundQ s.i, croundQ s.q⟩
/-- A stage's output: rounded, then saturated to 16 bits, with its flag (R84, R90). -/
def quant (x : Stream) : Stream := fun n => let z := satIQ (rounded (x n)); { i := z.i, q := z.q, flag := (x n).flag }
/-- Components that a stage's output saturates in `n` samples from `lo` on. -/
def sats (x : Stream) (lo : Int) (n : Nat) : Nat := tally lo n fun m => satCount (rounded (x m))
/-- Zero ahead of a restart at sample `at_` (R95, R113). -/
def from_ (at_ : Int) (x : Stream) : Stream := fun n => if n < at_ then {} else x n
/-- A filter from one rate to another: `up` - 1 zeros put behind every sample, the impulse response, every `down`-th sample kept. The
flag is the OR over the inputs within the response (R90). -/
def fir (f : Config.Filter) (up down : Nat) (x : Stream) : Stream := fun n =>
  let t := (Config.taps f).zipIdx.map fun a => (a.1, (down : Int) * n + Config.lead f - a.2)
  let l := (t.filter fun a => a.2 % (up : Int) = 0).map fun a => (a.1, x (a.2 / (up : Int)))
  { i := l.foldl (fun s a => s + a.1 * a.2.i) 0, q := l.foldl (fun s a => s + a.1 * a.2.q) 0, flag := l.any fun a => a.2.flag }
/-- Sine and cosine of a 48-bit phase, taken to 18 bits (R80). -/
def ncoSin (phase : Nat) : Rat := Config.ncoSin (phase / 2 ^ 30 % 2 ^ 18)
def ncoCos (phase : Nat) : Rat := Config.ncoSin ((phase / 2 ^ 30 + 2 ^ 16) % 2 ^ 18)
/-- Phase of an NCO at sample n, its accumulator cleared at sample `base` (R81, R101). -/
def phaseAt (ftw : Nat) (base n : Int) : Nat := ((n - base) * ftw % (2 ^ 48 : Int)).toNat
/-- A stream turned by e^(j·phase), or by its conjugate where `down` holds, times a scale. -/
def turned (scale : Rat) (ftw : Nat) (base : Int) (down : Bool) (x : Stream) : Stream := fun n =>
  let c := scale * ncoCos (phaseAt ftw base n)
  let s := scale * ncoSin (phaseAt ftw base n) * (if down then -1 else 1)
  { i := (x n).i * c - (x n).q * s, q := (x n).i * s + (x n).q * c, flag := (x n).flag }
/-- Sample n of a stream that a stage has rounded. -/
def iq (x : Stream) (n : Int) : IQ := rounded (x n)
/-- A rounded sample as a stream's sample. -/
def sig (z : IQ) (flag : Bool := false) : Sig := { i := z.i, q := z.q, flag := flag }
/-- A stream times the Q2.14 gain that each of its samples meets, before saturation (R85, R106). -/
def times (g : Int → IQ) (x : Stream) : Stream := fun n => sig (gained (g n) (iq x n)) (x n).flag
/-- A stream under the delay that each of its samples meets: `step` samples for each whole Scree sample, in a buffer, and an interpolator whose
response `f` gives by the tap (R78, R106). The eight samples of the nominal setting belong to the path's latency and are taken out
(R87, R97). A change of the trims repeats or drops samples of the buffer (R79). -/
def delayBy (step : Int) (f : Nat → Config.Filter) (t : Int → Trim) (x : Stream) : Stream := fun n =>
  fir (f (t n).tap) 1 1 (fun m => x (m - step * (t m).int)) n
/-- C at which sample n of a rate in Hz lies, in whole cc. -/
def ccOf (rate : Nat) (n : Int) : Nat := n.toNat * Config.fc / rate
/-- The trim in force at C = c: `now`, or an earlier one of `old`, newest first, each given with the C up to which it held. -/
def trimAt (now : Trim) (old : List (Nat × Trim)) (c : Nat) : Trim :=
  (((old.filter fun o => decide (c < o.1)).getLast?).map (·.2)).getD now
/-- Number of the first sample of a rate in Hz at or after C = c. -/
def firstAt (rate c : Nat) : Nat := ceilDiv (c * rate) Config.fc
/-- Samples of a rate from C = c on, `cc` cycles long. -/
def samplesIn (rate c cc : Nat) : Nat := firstAt rate (c + cc) - firstAt rate c

/-! ### Transforms (R87, R88, R98) -/

/-- sin and cos of 2π a / n, n a multiple of 4, to within 10^-29. -/
def sinOf (a n : Nat) : Rat :=
  let r := a % n
  let quarter := fun b => (sinTerms (pi30 * 2 * b / n) 22 0 (pi30 * 2 * b / n : Nat) : Rat) / (10 ^ 30 : Nat)
  match 4 * r / n with
  | 0 => quarter r
  | 1 => quarter (n / 2 - r)
  | 2 => -quarter (r - n / 2)
  | _ => -quarter (n - r)
def cosOf (a n : Nat) : Rat := sinOf (a + n / 4) n
/-- The exponent s of the transforms (R88, R98). -/
def fftShift (n : Nat) : Nat := (Nat.clog 2 n + 1) / 2
/-- Subcarrier m of a carrier lies in bin m mod N (R87, R98). -/
def bin (m : Int) (n : Nat) : Nat := (m % (n : Int)).toNat
/-- X(m) of R88 of the N samples of the FFT window, turned by the window factor of R87, before rounding. -/
def fftOut (n : Nat) (x : Nat → Sig) (m : Int) : Sig :=
  let b := bin m n
  let w := windowLead n
  let l := (List.range n).map fun j =>
    let a := ((b * (n + w - j % n)) % n : Nat)
    let c := cosOf a n
    let s := sinOf a n
    ((x j).i * c - (x j).q * s, (x j).i * s + (x j).q * c, (x j).flag)
  { i := l.foldl (fun s a => s + a.1) 0 / (2 ^ fftShift n : Nat), q := l.foldl (fun s a => s + a.2.1) 0 / (2 ^ fftShift n : Nat)
    flag := l.any fun a => a.2.2 }
/-- x[j] of R98 from the filled bins: signed subcarrier and value. -/
def ifftOut (n : Nat) (l : List (Int × IQ)) (j : Nat) : Sig :=
  let t := l.map fun a =>
    let e := bin a.1 n * j % n
    ((a.2.i : Rat) * cosOf e n - a.2.q * sinOf e n, (a.2.i : Rat) * sinOf e n + a.2.q * cosOf e n)
  { i := t.foldl (fun s a => s + a.1) 0 / (2 ^ fftShift n : Nat), q := t.foldl (fun s a => s + a.2) 0 / (2 ^ fftShift n : Nat) }

end Dsp

namespace Hw
open Dsp

/-- C at which the slot in force took effect: the NCO accumulators are cleared there (R81, R101). -/
def enteredC (h : Hw) : Nat := match h.mode.enteredAt with
  | some e => h.tim.c - (h.up - e)
  | none => 0
/-- PRESET of the slot in force. -/
def preset (h : Hw) : Nat := h.slotField (·.preset)
/-- A minimum-phase preset (Table 4.3). -/
def minPhase (preset : Nat) : Bool := preset == 1 || preset == 3
/-- FFT size of carrier c of the slot in force; 0 where it has none. -/
def fftN (h : Hw) (c : Nat) : Nat := match h.slotNow, h.carrierNow c with
  | some sl, some x => if sl.isSpur then 0 else fftSize ((nRb x.bw x.scs).getD 0)
  | _, _ => 0
/-- Spacing code of carrier c. -/
def scsOf (h : Hw) (c : Nat) : Nat := ((h.carrierNow c).map (·.scs)).getD 0
/-- FFT rate of carrier c in Hz. -/
def fftRate (h : Hw) (c : Nat) : Nat := h.fftN c * scsHz (h.scsOf c)
/-- Half-band stages of carrier c (R83): none in Spur. -/
def stages (h : Hw) (c : Nat) : Nat := if h.fftN c = 0 then 0 else ((h.carrierNow c).map (halfBands h.preset)).getD 0
/-- Carriers in use of the slot in force. -/
def carriersNow (h : Hw) : List Nat := List.range (h.slotField (·.nCarriers))

/-! ### Receive -/

/-- An ADC sample as the converter gives it: 12 bits, and a full-scale code where the flag is set (R75, R89). -/
def adcCode (x : Int × Bool) : Int × Bool := if x.2 then (if 0 ≤ x.1 then 2047 else -2048, true) else (clampZ (-2048) 2047 x.1, false)
/-- A full-scale code without the flag (R89). -/
def fullScale (x : Int × Bool) : Bool := !x.2 && (x.1 == 2047 || x.1 == -2048)
/-- ADC sample n of path p, 6 to a cc; 0 where the state lists none. -/
def adcAt (h : Hw) (p : Nat) (n : Int) : Int × Bool :=
  match (h.path p).adc.find? fun w => decide ((6 * w.c : Nat) ≤ n) with
  | some w => adcCode (w.x.getD (n - (6 * w.c : Nat)).toNat (0, false))
  | none => (0, false)
/-- The ADC stream of a path from its latest start on (R74, R95). -/
def adcStream (h : Hw) (p : Nat) : Stream :=
  from_ (6 * Nat.max (h.path p).rxFrom (h.path p).rxStart : Nat) fun n => { i := (h.adcAt p n).1, flag := (h.adcAt p n).2 }
/-- The trim in force at C = c of a path's receive and transmit side (R79, R106). -/
def rxTrimAt (h : Hw) (p c : Nat) : Trim := trimAt (h.path p).rxTrim (h.path p).rxOld c
def txTrimAt (h : Hw) (p c : Nat) : Trim := trimAt (h.path p).txTrim (h.path p).txOld c
/-- The stream after the delay line: 12 ADC samples for each whole step (R78). -/
def delayed (h : Hw) (p : Nat) : Stream := delayBy 12 .rxDelay (fun n => h.rxTrimAt p (ccOf 5898240000 n)) (h.adcStream p)
/-- The NCO product of a down-converter (R80, R84). A full-scale sine becomes one of magnitude 16,384 at the output of a gain of 1 (R85):
a code counts 16, half of a real sine falling on the mixed side. -/
def mixed (h : Hw) (p ftw : Nat) : Stream := turned 16 ftw (6 * h.enteredC : Nat) true (h.delayed p)
/-- The preset's decimation (R82). -/
def decimated (h : Hw) (p ftw preset : Nat) : Stream :=
  fir (.decimate preset) 1 (5898240000 / presetRate preset) (quant (h.mixed p ftw))
/-- The gain (R85). -/
def scaled (h : Hw) (p ftw preset : Nat) : Stream :=
  times (fun n => (h.rxTrimAt p (ccOf (presetRate preset) n)).gain) (quant (h.decimated p ftw preset))
/-- NCO word of carrier c (R80). -/
def carrierFtw (h : Hw) (c : Nat) : Nat := ((h.carrierNow c).map fun x => rxFtw (2 * x.rf)).getD 0
/-- The monitor stream (R91). -/
def monitor (h : Hw) (p : Nat) : Stream := quant (h.scaled p h.midFtw 0)
/-- The 16-bit stream of carrier c at the preset output, which Spur beams take (R88, R139). -/
def presetStream (h : Hw) (p c : Nat) : Stream := quant (h.scaled p (h.carrierFtw c) h.preset)
/-- A carrier's stream after `k` half-band stages, the last unrounded (R83). -/
def halved (h : Hw) (p c : Nat) : Nat → Stream
  | 0 => h.scaled p (h.carrierFtw c) h.preset
  | k + 1 => fun n => fir (.halfBand (minPhase h.preset)) 1 2 (quant (halved h p c k)) n
/-- A carrier's stream at the FFT rate. -/
def fftStream (h : Hw) (p c : Nat) : Stream := quant (h.halved p c (h.stages c))
/-- First sample of the FFT window of carrier c's symbol that opens on tick k (R87). -/
def fftStart (h : Hw) (c k : Nat) : Nat :=
  let n := h.fftN c
  firstAt (h.fftRate c) (h.tickAt k) + prefixLen n (h.scsOf c) (k % ticksPerHalf h.scs == 0) - windowLead n
/-- Subcarrier m of the symbol of tick k, before rounding (R87, R88). -/
def ulRaw (h : Hw) (p c k : Nat) (m : Int) : Sig :=
  let n := h.fftN c
  let z := fftOut n (fun j => h.fftStream p c ((h.fftStart c k + j : Nat) : Int)) m
  { z with i := z.i + Config.fftInner p c k (bin m n) 0, q := z.q + Config.fftInner p c k (bin m n) 1 }
/-- N_RB of carrier c. -/
def nRbNow (h : Hw) (c : Nat) : Nat := ((h.carrierNow c).map fun x => (nRb x.bw x.scs).getD 0).getD 0
/-- The value of subcarrier `sc`, counted from the lower edge, of path p's symbol of tick k (R88). -/
def ulSymbol (h : Hw) (p c k sc : Nat) : IQ := satIQ (rounded (h.ulRaw p c k ((sc : Int) - 6 * h.nRbNow c)))
/-- The symbol of tick k is flagged on path p (R90). -/
def ulFlag (h : Hw) (p c k : Nat) : Bool := (h.ulRaw p c k 0).flag
/-- Sample n of window k of the stream that Spur beams take: that of carrier 0 under Scree minimum phase, the only preset of a Spur slot
(log 92). A request that a fallback finds admitted takes the same stream of the slot in force (R28; log 117). -/
def spurSample (h : Hw) (p k n : Nat) : Sig :=
  quant (h.scaled p (h.carrierFtw 0) 1) ((firstAt 491520000 (h.tickAt k) + n : Nat) : Int)
/-- What an uplink request combines (R125, R139): every path's FFT outputs of its subcarriers, or in Spur the samples of its blocks, and
the paths with a flagged symbol or sample among them (R90). -/
def ulFormed (h : Hw) (u : UlItem) : List (List IQ) × List Nat :=
  let ps := List.range 64
  if u.spur then
    let ns := (List.range (64 * u.count)).map (64 * u.start + ·)
    (ps.map fun p => ns.map fun n => rounded (h.spurSample p u.target n), ps.filter fun p => ns.any fun n => (h.spurSample p u.target n).flag)
  else
    (ps.map fun p => (List.range (12 * u.count)).map fun m => h.ulSymbol p u.carrier u.target (12 * u.start + m),
      ps.filter fun p => h.ulFlag p u.carrier u.target)
/-- Window k closes: the requests of the symbols and windows that end with it keep what they combine. -/
def keepUl (h : Hw) (k : Nat) : Hw :=
  h.onFhl fun f => { f with ul := f.ul.map fun u => if u.closing = k + 1 then { u with formed := some (h.ulFormed u) } else u }
/-- Components that a path's down-converters saturate in `cc` cycles from C = c0 on: NCO products, decimation, gain, half-band stages
(R84, Table 4.8). -/
def ddcSats (h : Hw) (p c0 cc : Nat) : Nat :=
  let conv := fun ftw preset =>
    sats (h.mixed p ftw) (6 * c0 : Nat) (6 * cc) +
      sats (h.decimated p ftw preset) (firstAt (presetRate preset) c0 : Nat) (samplesIn (presetRate preset) c0 cc) +
      sats (h.scaled p ftw preset) (firstAt (presetRate preset) c0 : Nat) (samplesIn (presetRate preset) c0 cc)
  conv h.midFtw 0 + sumL (h.carriersNow.map fun c => conv (h.carrierFtw c) h.preset +
    sumL ((List.range (h.stages c)).map fun i => let r := presetRate h.preset / 2 ^ (i + 1)
      sats (h.halved p c (i + 1)) (firstAt r c0 : Nat) (samplesIn r c0 cc)))
/-- Components that the FFTs of the symbols that close with window k saturate, inside and at the output (Table 4.8). -/
def fftSats (h : Hw) (p k : Nat) : Nat :=
  match h.slotNow with
  | none => 0
  | some sl => sumL (h.carriersNow.map fun c =>
    let span := sl.span h.scs c
    if h.fftN c = 0 || (k + 1) % span != 0 then 0
    else
      let k0 := k + 1 - span
      Config.fftSatIn p c k0 + tally (-6 * h.nRbNow c : Int) (12 * h.nRbNow c) fun m => satCount (rounded (h.ulRaw p c k0 m)))
/-- The power meter over `cc` cycles from C = c0 on, in 0.01 dB over a sine at 0 dBFS (R92; log 12). -/
def meter (h : Hw) (p c0 cc : Nat) : Int :=
  let n := samplesIn 491520000 c0 cc
  let x := fun m => let s := h.monitor p m; s.i * s.i + s.q * s.q
  Config.decibel (((List.range n).foldl (fun a j => a + x (firstAt 491520000 c0 + j : Nat)) 0) / ((n * 16384 * 16384 : Nat) : Rat))

/-! ### Transmit -/

/-- The input of the transmit chain of path p is not forced to zero at C = c (R112). -/
def fed (h : Hw) (p c : Nat) : Bool := match h.txWins.find? fun w => decide (w.c ≤ c) with
  | some w => !w.forced.contains p
  | none => false
/-- Symbol of carrier c that covers sample n of its FFT rate: its window and the place in the symbol, prefix included. -/
def txSymbolAt (h : Hw) (c : Nat) (n : Int) : Option (TxWin × Nat) :=
  let sz := h.fftN c
  let span := (h.slotNow.map fun sl => sl.span h.scs c).getD 1
  let len := fun (w : TxWin) => sz + prefixLen sz (h.scsOf c) (w.tick % ticksPerHalf h.scs == 0)
  let place := fun (w : TxWin) => n - (firstAt (h.fftRate c) w.c : Int)
  (h.txWins.find? fun w => w.tick % span == 0 && decide (0 ≤ place w) && decide ((place w).toNat < len w)).map fun w => (w, (place w).toNat)
/-- The inverse FFT of a carrier's symbol with its cyclic prefix, before rounding (R98). -/
def txSymbol (h : Hw) (p c : Nat) : Stream := fun n =>
  match h.txSymbolAt c n with
  | none => {}
  | some (w, o) =>
    let sz := h.fftN c
    let j := (o + sz - prefixLen sz (h.scsOf c) (w.tick % ticksPerHalf h.scs == 0)) % sz
    let l := (w.sym.filter fun v => v.1 == p && v.2.1 == c).map fun v => ((v.2.2.1 : Int) - 6 * h.nRbNow c, v.2.2.2)
    let z := ifftOut sz l j
    if l.isEmpty then {}
    else { z with i := z.i + Config.fftInner p c w.tick (sz + j) 0, q := z.q + Config.fftInner p c w.tick (sz + j) 1 }
/-- Sample n of a rate reaches the chain of path p: its input is not forced to zero, and the chain has started (R112, R113). -/
def flows (h : Hw) (p rate : Nat) (n : Int) : Bool :=
  decide (0 ≤ n) && decide (Nat.max (h.path p).txFrom (h.path p).txStart ≤ ccOf rate n) && h.fed p (ccOf rate n)
/-- The stream of Massif's time-domain beams at 491.52 MS/s (R139). -/
def beamStream (h : Hw) (p : Nat) : Stream := fun n =>
  match h.txWins.find? fun w => decide (w.c ≤ ccOf 491520000 n) with
  | some w => match w.td.find? fun v => v.1 == p && v.2.1 + firstAt 491520000 w.c == n.toNat with
    | some v => if h.flows p 491520000 n then sig v.2.2 else {}
    | none => {}
  | none => {}
/-- The chain's input: symbols, or in Spur the stream of Massif's beams. -/
def chainIn (h : Hw) (p c : Nat) : Stream := fun n =>
  if h.fftN c = 0 then h.beamStream p n
  else if h.flows p (h.fftRate c) n then quant (h.txSymbol p c) n
  else {}
/-- After `k` half-band stages toward the preset's rate. -/
def raised (h : Hw) (p c : Nat) : Nat → Stream
  | 0 => h.chainIn p c
  | k + 1 => fun n => fir (.halfBand (minPhase h.preset)) 2 1 (quant (raised h p c k)) n
/-- The preset's interpolation to 1,474.56 MS/s (R100). -/
def interpolated (h : Hw) (p c : Nat) : Stream :=
  fir (.interpolate h.preset) (1474560000 / presetRate h.preset) 1 (quant (h.raised p c (h.stages c)))
/-- Carriers that the sum takes: one stream alone in Spur (log 92). -/
def txCarriers (h : Hw) : List Nat := if h.slotNow.any Slot.isSpur then [0] else h.carriersNow
/-- The Spur sections that a fallback finds admitted, under Scree minimum phase beside the carriers of the slot in force (R28; log 117). -/
def lateBeams (h : Hw) (p : Nat) : Stream :=
  if h.slotNow.any Slot.isSpur then fun _ => {} else fir (.interpolate 1) 3 1 (h.beamStream p)
/-- A stream at 1,474.56 MS/s shifted by the NCO of carrier c (R101). -/
def shifted (h : Hw) (c : Nat) (x : Stream) : Stream :=
  let f := match h.slotNow, h.carrierNow c with
    | some sl, some x => if sl.isSpur then 0 else txCarrierFtw x.rf (spanMid4 sl.inUse)
    | _, _ => 0
  if f = 0 then x else turned 1 f (firstAt 1474560000 h.enteredC : Nat) false x
/-- The streams that the carrier sum adds, each shifted from the middle of the span, before rounding (Table 5.1, R99, R101). -/
def shiftedAll (h : Hw) (p : Nat) : List Stream :=
  h.txCarriers.map (fun c => h.shifted c (quant (h.interpolated p c))) ++ [h.shifted 0 (quant (h.lateBeams p))]
/-- The sum of the rounded carriers (R99, R101). -/
def carrierSum (h : Hw) (p : Nat) : Stream := fun n =>
  let l := (h.shiftedAll p).map fun x => quant x n
  { i := l.foldl (fun s a => s + a.i) 0, q := l.foldl (fun s a => s + a.q) 0 }
/-- The composite under the backoff (R102), before saturation. -/
def composite (h : Hw) (p : Nat) : Stream := fun n =>
  sig (backed (h.path p).backoff (iq (quant (h.carrierSum p)) n))
/-- Blocks of 64 composite samples begin on ticks (log 93): the first sample of the block of sample n. -/
def blockOf (h : Hw) (n : Int) : Int :=
  let t := (firstAt 1474560000 h.tim.tickC : Int)
  t + (n - t) / 64 * 64
/-- a = (|x| - T) x / |x| of a peak, to within 10^-20 (R104). -/
def excess (thr b : Nat) (x : IQ) : Rat × Rat :=
  let g := searchUp (fun y => decide (y ^ 40 * 10 ^ b ≤ (10 ^ 30) ^ 40)) 100 0
  let t : Rat := (thr : Rat) * 32767 / 32768 * g / (10 ^ 30 : Nat)
  let m : Rat := (Nat.sqrt (mag2 x * 10 ^ 40) : Nat) / (10 ^ 20 : Nat)
  let r : Rat := if m = 0 then 0 else (m - t) / m
  (r * x.i, r * x.q)
/-- The peaks of the block that begins at sample `b` of a stream. -/
def blockPeaks (f : Cfr) (off : Nat) (x : Stream) (b : Int) : List Nat × Nat × Nat :=
  cfrBlock f off (iq x (b - 1)) ((List.range 64).map fun j => iq x (b + j)) (iq x (b + 64))
/-- What the canceller subtracts from sample n: every pulse of the blocks about it that reaches it (R104). -/
def cancelled (h : Hw) (p : Nat) (x : Stream) : Stream := fun n =>
  match h.image.cfr with
  | none => {}
  | some f =>
    let off := (h.path p).backoff
    let l := ([-64, 0, 64].map fun d =>
      let b := h.blockOf n + d
      (blockPeaks f off x b).1.map fun i =>
        let a := excess f.threshold off (iq x (b + i))
        let j := n - (b + i) + ((f.pulseLen - 1) / 2 : Nat)
        let t := if 0 ≤ j ∧ j < f.pulseLen then f.pulse.getD j.toNat ⟨0, 0⟩ else ⟨0, 0⟩
        ((a.1 * t.i - a.2 * t.q) / 32768, (a.1 * t.q + a.2 * t.i) / 32768)).flatten
    { i := l.foldl (fun s a => s + a.1) 0, q := l.foldl (fun s a => s + a.2) 0 }
/-- Difference of two streams. -/
def minus (x y : Stream) : Stream := fun n => { i := (x n).i - (y n).i, q := (x n).q - (y n).q }
/-- The canceller in placement A: in slots with DPD_MODE 1 or 2 (R105). -/
def cfrA (h : Hw) (p : Nat) : Stream :=
  let x := quant (h.composite p)
  if (h.path p).cfrPlaceB then x else minus x (h.cancelled p x)
/-- The delay: 3 composite samples for each whole step (R106). -/
def retimed (h : Hw) (p : Nat) : Stream := delayBy 3 .txDelay (fun n => h.txTrimAt p (ccOf 1474560000 n)) (quant (h.cfrA p))
/-- The gain behind the delay (R106). -/
def trimmed (h : Hw) (p : Nat) : Stream := times (fun n => (h.txTrimAt p (ccOf 1474560000 n)).gain) (quant (h.retimed p))
/-- The predistorter's output before saturation (R107, R143). -/
def shaped (h : Hw) (p : Nat) : Stream := fun n =>
  sig (h.dpdOut p (iq (quant (h.trimmed p))) n)
/-- Reads of a bad entry of the active bank in `cc` cycles from C = c0 on (R150). -/
def badReads (h : Hw) (p key c0 cc : Nat) : Nat :=
  tally (firstAt 1474560000 c0 : Nat) (samplesIn 1474560000 c0 cc) fun n => (h.dpdReads p (iq (quant (h.trimmed p))) n).count key
/-- The interpolator's filter, with the roll-off correction of the slot's span and zone (R108, R110). -/
def up8 (h : Hw) : Config.Filter := .up8 ((h.slotNow.map fun sl => spanMid4 sl.inUse).getD 0)
/-- Interpolation by 8 (R108). -/
def raised8 (h : Hw) (p : Nat) : Stream := fir h.up8 8 1 (quant (h.shaped p))
/-- The DAC-rate stream: in placement B the canceller's pulses, found at the predistortion input and interpolated by the interpolator's
filter, are subtracted from the interpolator's output (R105). -/
def dacRate (h : Hw) (p : Nat) : Stream :=
  let y := quant (h.raised8 p)
  if (h.path p).cfrPlaceB then minus y (fir h.up8 8 1 (h.cancelled p (quant (h.trimmed p)))) else y
/-- The real part of the stream that the span NCO mixes (R108). -/
def spanMixed (h : Hw) (p : Nat) : Stream :=
  let f := (h.slotNow.map fun sl => txSpanFtw4 (spanMid4 sl.inUse)).getD 0
  turned 1 f (12 * h.enteredC : Nat) false (quant (h.dacRate p))
/-- Phase of a path's tone accumulator at DAC sample n of C's count. -/
def tonePhaseAt (h : Hw) (p : Nat) (n : Int) : BitVec 48 :=
  let t := (h.path p).tone
  t.phase + BitVec.ofInt 48 ((t.ftw.toNat : Int) * (n - 12 * ((h.tim.c : Int) - ((h.up : Int) - t.phaseC))))
/-- The DAC code at DAC sample n of C's count (R111, R112). -/
def dacAt (h : Hw) (p : Nat) (n : Int) : Int := h.dacOut p (h.tonePhaseAt p n) (iq (quant (h.spanMixed p)) n).i
/-- The DAC input at DAC sample n lies beyond the code's range (R99, R111). DESIGN CHOICE (log 119): in MODE 2 the sum alone counts; a code
that saturates before the tone is added counts only where the sum does. -/
def dacBeyond (h : Hw) (p : Nat) (n : Int) : Bool :=
  let x := h.dacIn p (h.tonePhaseAt p n) (iq (quant (h.spanMixed p)) n).i
  !h.dacForced p && decide (clampZ (-8192) 8191 x ≠ x)
/-- Components that the inverse FFT of carrier c's symbol saturates inside, where the symbol opens in the window of `cc` cycles from C = c0
on. -/
def ifftSats (h : Hw) (p c c0 cc : Nat) : Nat :=
  sumL (((h.txWins.filter fun w => decide (c0 ≤ w.c) && decide (w.c < c0 + cc) && w.sym.any fun v => v.1 == p && v.2.1 == c).map fun w =>
    Config.ifftSatIn p c w.tick))
/-- Components that the stages from the inverse FFT to the DAC saturate in `cc` cycles from C = c0 on (R99). DESIGN CHOICE (log 118): the
span NCO's product counts here, as R99 has it; Table 5.12 names the stages only as far as the interpolator output. -/
def ducSats (h : Hw) (p c0 cc : Nat) : Nat :=
  let at_ := fun (x : Stream) rate => sats x (firstAt rate c0 : Nat) (samplesIn rate c0 cc)
  let comp := 1474560000
  sumL (h.txCarriers.map fun c =>
    (if h.fftN c = 0 then 0 else h.ifftSats p c c0 cc + at_ (h.txSymbol p c) (h.fftRate c)) +
      sumL ((List.range (h.stages c)).map fun i => at_ (h.raised p c (i + 1)) (h.fftRate c * 2 ^ (i + 1))) + at_ (h.interpolated p c) comp) +
    at_ (h.lateBeams p) comp + sumL ((h.shiftedAll p).map fun x => at_ x comp) + at_ (h.carrierSum p) comp + at_ (h.composite p) comp +
    at_ (h.cfrA p) comp + at_ (h.retimed p) comp + at_ (h.trimmed p) comp + at_ (h.shaped p) comp + at_ (h.raised8 p) 11796480000 +
    (if (h.path p).cfrPlaceB then at_ (h.dacRate p) 11796480000 else 0) + at_ (h.spanMixed p) 11796480000
/-- DAC inputs beyond the code's range in `cc` cycles from C = c0 on (R99, R111). -/
def dacSats (h : Hw) (p c0 cc : Nat) : Nat :=
  tally (12 * c0 : Nat) (12 * cc) fun n => b2n (h.dacBeyond p n)
/-- Peaks cancelled and peaks missed in the blocks of `cc` cycles from C = c0 on (R104). -/
def cfrCounts (h : Hw) (p c0 cc : Nat) : Nat × Nat :=
  match h.image.cfr with
  | none => (0, 0)
  | some f =>
    let x := if (h.path p).cfrPlaceB then quant (h.trimmed p) else quant (h.composite p)
    let b0 := (firstAt 1474560000 c0 : Int)
    let l := (List.range (samplesIn 1474560000 c0 cc / 64)).map fun i => (blockPeaks f (h.path p).backoff x (b0 + 64 * i)).2
    (sumL (l.map (·.1)), sumL (l.map (·.2)))
/-- Mean power at the DAC input over `cc` cycles from C = c0 on, 0.01 dB over a full-scale sine, whose peak is 8,191.5 (Table 5.10;
log 12). -/
def dacPower (h : Hw) (p c0 cc : Nat) : Int :=
  let s := sumZ ((List.range (12 * cc)).map fun j => let y := h.dacAt p (12 * c0 + j : Nat); y * y)
  Config.decibel ((s : Rat) / (12 * cc : Nat) * 8 / (16383 * 16383))

end Hw
end Sys2Proof.Machine
end

