-- ==== Sys2Proof/Machine/Observe.lean ====
section
/-! DEFINITION. The observation receivers and their records (R152, R155). -/
namespace Sys2Proof.Machine
namespace Hw
open Dsp

/-- The ADC stream of an observation receiver, its samples counted from C = c0 on. -/
def obsAdc (adc : List (Int × Bool)) (c0 : Nat) : Stream := fun n =>
  let z := adcCode (if n < 6 * (c0 : Int) then (0, false) else adc.getD (n - 6 * (c0 : Int)).toNat (0, false))
  { i := z.1, flag := z.2 }
/-- The observation stream at 1,474.56 MS/s of an ADC stream (R152): delay, the NCO at the middle of the span, decimation by 4, gain. -/
def obsChain (h : Hw) (q : Nat) (adc : Stream) : Stream :=
  let t := (h.quad q).obs.trim
  let late := fir (.rxDelay t.tap) 1 1 fun n => adc (n - 12 * (t.int + 8))
  quant (times (fun _ => t.gain) (quant (fir .observe 1 4 (quant (turned 16 h.midFtw (6 * h.enteredC : Nat) true late)))))
/-- The observation stream of the ADC samples given, counted from C = c0 on. -/
def obsStream (h : Hw) (q : Nat) (adc : List (Int × Bool)) (c0 : Nat) : Stream := h.obsChain q (obsAdc adc c0)
/-- The observation stream of the ADC samples that the ticks have brought. -/
def obsHeard (h : Hw) (q : Nat) : Stream := h.obsChain q fun n =>
  match (h.quad q).obs.adc.find? fun w => decide ((6 * w.c : Nat) ≤ n) with
  | some w => obsAdc w.x w.c n
  | none => {}
/-- The 4,096 samples of a stream from a number on. -/
def run4096 (x : Stream) (n : Nat) : List IQ := (List.range 4096).map fun j => iq x (n + j : Nat)
/-- Sum of squared magnitudes. -/
def energy (l : List IQ) : Nat := sumL (l.map mag2)
/-- The mean power of 4,096 samples in 0.01 dB over a sine of magnitude `full` (log 12). -/
def levelOver (l : List IQ) (full : Nat) : Int := Config.decibel ((energy l : Rat) / (4096 * full * full : Nat))
/-- Bytes of a 16-bit complex value. -/
def iqBytes (z : IQ) : Bytes := le 2 (code 16 z.i) ++ le 2 (code 16 z.q)
/-- x of the path reaches -30 dBFS: a thousandth of the energy of a full-scale sine (R155; over the samples recorded, log 97). During a
trip no symbol does (Table 7.4). -/
def strongEnough (h : Hw) (x : List IQ) : Bool := !h.trl.trip && decide (4096 * 32767 * 32767 ≤ 1000 * energy x)
/-- The 32 bytes before the samples of an observation record (Table 7.2). -/
def obsHeader (h : Hw) (n : Nat) (ovr : Bool) (xPower oPower : Int) : Bytes :=
  let d := (h.path n).dpd
  le 4 (low32 h.tim.k) ++ le 1 n ++ le 1 (b2n d.active) ++ le 1 (b2n ovr + 2 * b2n d.settling) ++ le 1 0 ++ le 2 (code 16 xPower) ++
    le 2 (code 16 oPower) ++ le 2 (h.cal.count % 65536) ++ le 2 (h.mode.slotCount % 65536) ++ le 2 4096 ++ List.replicate 14 0


end Hw

/-- The symbol of the open window has been observed, `adc` being the ADC samples of the observation receiver from its tick on: a record is
written where x is at -30 dBFS or above (R155). A buffer that does not lie in the shared store takes no record (log 24). DESIGN CHOICE
(log 98): the slot is the count of the symbols observed before this one modulo BUF_SLOTS; a symbol that goes unobserved because ENABLE is
0 or no quantum was granted is no part of DPD_OBS_SKIPPED. -/
def execObsRecordWritten (dt : Nat) (q : QuadId) (adc : List (Int × Bool)) (s : State) : Host.Outcome State Fault Refusal :=
  okM s dt fun h m =>
    let o := (h.quad q).obs
    let n := 4 * q.val + o.cur
    let dl := h.slotNow.any fun sl => h.tddCode sl q h.tim.k == 1
    if !(o.state == 3 && o.granted && o.enable && dl && h.tim.open_) then (h, m)
    else
      let first := Dsp.firstAt 1474560000 h.tim.tickC
      let out := h.obsStream q adc h.tim.tickC
      let x := Hw.run4096 (Dsp.quant (h.trimmed n)) first
      let u := Hw.run4096 (Dsp.quant (h.shaped n)) first
      let y := Hw.run4096 out first
      let ovr := (List.range 4096).any fun j => (out (first + j : Nat)).flag
      if !h.strongEnough x then
        (h.onQuad q fun x => { x with obs := { x.obs with granted := false, skipped := inc x.obs.skipped } }, m)
      else
        let slot := o.observed % (o.bufSlots + 1)
        let a := o.base / 16 * 16 + slot * 49184
        let data := ((List.range 4096).map fun j =>
          Hw.iqBytes (x.getD j ⟨0, 0⟩) ++ Hw.iqBytes (u.getD j ⟨0, 0⟩) ++ Hw.iqBytes (y.getD j ⟨0, 0⟩)).flatten
        let bytes := h.obsHeader n ovr (Hw.levelOver x 32767) (Hw.levelOver y 16384) ++ data
        let inShared := decide (0x20000000 ≤ a) && decide (a + 49184 ≤ 0x21000000)
        let h := h.onQuad q fun x => { x with obs := { x.obs with
          granted := false, observed := x.obs.observed + 1, slot := slot, symbols := inc48 x.obs.symbols, ovrLast := ovr
          ovr := if ovr then inc x.obs.ovr else x.obs.ovr } }
        if inShared then ((h.noteMerge m a 49184).pulse (32 + q.val), m.write a bytes) else (h, m)

end Sys2Proof.Machine
end

