-- ==== Sys2Proof/Machine/Solve.lean ====
section
/-! DEFINITION. The numbers of a calibration run: the sums of its quanta (R235, R238), the eigenvalue spread (R236), and the solve, tap by
tap (R236, R237, R239, R241, R246). All are exact rationals but for levels, phases, the receive fit and the histogram fit (logs 12, 105). -/
namespace Sys2Proof.Machine

/-- A complex rational. -/
abbrev Cx := Rat × Rat

namespace Cx

/-- Product. -/
def mul (x y : Cx) : Cx := (x.1 * y.1 - x.2 * y.2, x.1 * y.2 + x.2 * y.1)
/-- Product with the conjugate of the second. -/
def mulConj (x y : Cx) : Cx := (x.1 * y.1 + x.2 * y.2, x.2 * y.1 - x.1 * y.2)
/-- Sum, difference, and a multiple. -/
def plus (x y : Cx) : Cx := (x.1 + y.1, x.2 + y.2)
def less (x y : Cx) : Cx := (x.1 - y.1, x.2 - y.2)
def scale (a : Rat) (x : Cx) : Cx := (a * x.1, a * x.2)
/-- Inverse; what the spec does not state for 0 is open (log 105). -/
def inv (x : Cx) : Cx :=
  let n := x.1 * x.1 + x.2 * x.2
  if n = 0 then (Config.openRat 2, Config.openRat 3) else (x.1 / n, -x.2 / n)
/-- Sum of a list. -/
def sum (l : List Cx) : Cx := l.foldl plus (0, 0)

end Cx

/-! ### Sums -/

/-- A value added to what a key holds. -/
def addTo {κ α : Type} [DecidableEq κ] (plus : α → α → α) (zero : α) (l : List (κ × α)) (k : κ) (v : α) : List (κ × α) :=
  assocSet k (plus ((assoc k l).getD zero) v) l
/-- Codes counted into the histogram of a unit. -/
def countCodes (unit : Nat) (l : List ((Nat × Int) × Nat)) (codes : List Int) : List ((Nat × Int) × Nat) :=
  codes.foldl (fun l c => addTo (· + ·) 0 l (unit, c) 1) l
/-- The histogram of a unit. -/
def histOf (unit : Nat) (l : List ((Nat × Int) × Nat)) : List (Int × Nat) := (l.filter fun x => x.1.1 == unit).map fun x => (x.1.2, x.2)
/-- Bin b of the transform of a block. -/
def dft (x : List IQ) (b : Nat) : Cx :=
  let n := x.length
  Cx.sum (x.zipIdx.map fun a =>
    let c := Dsp.cosOf (b * a.2 % n) n
    let s := Dsp.sinOf (b * a.2 % n) n
    ((a.1.i : Rat) * c + a.1.q * s, (a.1.q : Rat) * c - a.1.i * s))
/-- Signed number of sub-band b of `n`, 7.68 MHz each. -/
def bandOf (n b : Nat) : Int := if 2 * b < n then b else (b : Int) - n
/-- Pairs of a list, each member with itself and with those behind it. -/
def pairsUp : List Nat → List (Nat × Nat)
  | [] => []
  | a :: r => (a :: r).map (fun b => (a, b)) ++ pairsUp r

namespace Hw
open Dsp

/-- The sub-bands, of `n`, whose middle lies within the occupied bandwidth of a carrier of the slot in force (R235; log 105). -/
def bandsKept (h : Hw) (n : Nat) : List Nat :=
  match h.slotNow with
  | none => []
  | some sl => (List.range n).filter fun b =>
    let f : Int := (spanMid4 sl.inUse : Int) * 250 + bandOf n b * 7680000
    sl.inUse.any fun c =>
      let half : Int := 6 * (nRb c.bw c.scs).getD 0 * scsHz c.scs
      decide ((c.rf : Int) * 1000 - half ≤ f) && decide (f ≤ (c.rf : Int) * 1000 + half)
/-- Block j of 64 monitor samples of path p in the open window (R235). -/
def monitorBlock (h : Hw) (p j : Nat) : List IQ :=
  (List.range 64).map fun i => iq (h.monitor p) ((firstAt 491520000 h.tim.tickC + 64 * j + i : Nat) : Int)
/-- A sample of the 2,048 that a receive quantum takes from path p is flagged. -/
def monitorFlag (h : Hw) (p : Nat) : Bool :=
  (List.range 2048).any fun i => (h.monitor p ((firstAt 491520000 h.tim.tickC + i : Nat) : Int)).flag
/-- What a receive quantum adds to the sums, from paths `ps` (R235). -/
def sumsRx (h : Hw) (ps : List Nat) (s : CalSums) : CalSums :=
  let cov := (List.range 32).foldl (fun l j => (h.bandsKept 64).foldl (fun l b =>
    let x := ps.map fun p => (p, dft (h.monitorBlock p j) b)
    (pairsUp ps).foldl (fun l a =>
      addTo Cx.plus (0, 0) l (b, a.1, a.2) (Cx.mulConj ((assoc a.1 x).getD (0, 0)) ((assoc a.2 x).getD (0, 0)))) l) l) s.cov
  let codes := fun p => (List.range 24576).map fun i => (adcCode ((h.adcNow p).getD i (0, false))).1
  { s with cov := cov, hist := ps.foldl (fun l p => countCodes p l (codes p)) s.hist }
/-- The composite of path p before the calibration trims, 4,096 samples from the window's tick on (R106, R238). -/
def compositeRun (h : Hw) (p : Nat) : List IQ := run4096 (quant (h.cfrA p)) (firstAt 1474560000 h.tim.tickC)
/-- The observation output of a quad over the same samples. -/
def observedRun (h : Hw) (q : Nat) (adc : List (Int × Bool)) : List IQ := run4096 (h.obsStream q adc h.tim.tickC) (firstAt 1474560000 h.tim.tickC)
/-- An observation sample of those carries the over-range flag. -/
def observedFlag (h : Hw) (q : Nat) (adc : List (Int × Bool)) : Bool :=
  (List.range 4096).any fun j => (h.obsStream q adc h.tim.tickC ((firstAt 1474560000 h.tim.tickC + j : Nat) : Int)).flag
/-- What a counted symbol of path p adds to the sums: cross-correlation per sub-band over the 21 whole blocks of 192 samples, and the codes
of the observation receiver (R239; log 105). -/
def sumsTx (h : Hw) (p : Nat) (adc : List (Int × Bool)) (s : CalSums) : CalSums :=
  let x := chunks 192 21 (h.compositeRun p)
  let y := chunks 192 21 (h.observedRun (p / 4) adc)
  let add := fun (s : CalSums) (b : Nat) =>
    let z := (x.zip y).map fun a => (dft a.1 b, dft a.2 b)
    { s with cross := addTo Cx.plus (0, 0) s.cross (p, b) (Cx.sum (z.map fun a => Cx.mulConj a.2 a.1))
             power := addTo (· + ·) 0 s.power (p, b) (Cx.sum (z.map fun a => Cx.mulConj a.1 a.1)).1 }
  let s := (h.bandsKept 192).foldl add s
  { s with obsHist := countCodes (p / 4) s.obsHist ((List.range 16384).map fun i => (adcCode (adc.getD i (0, false))).1) }

end Hw

/-! ### The eigenvalue spread (R236) -/

/-- Covariance of two paths in a sub-band. -/
def CalSums.covOf (s : CalSums) (b x y : Nat) : Cx :=
  match assoc (b, x, y) s.cov with
  | some z => z
  | none => let z := (assoc (b, y, x) s.cov).getD (0, 0); (z.1, -z.2)
/-- The sub-bands that the covariances cover. -/
def CalSums.bands (s : CalSums) : List Nat := (s.cov.map (·.1.1)).eraseDups
/-- R of some paths, summed over the sub-bands. -/
def CalSums.matrix (s : CalSums) (ps : List Nat) : List (List Cx) := ps.map fun x => ps.map fun y => Cx.sum (s.bands.map fun b => s.covOf b x y)
/-- A Hermitian matrix of so many rows is positive definite: every pivot is. -/
def posDef : Nat → List (List Cx) → Bool
  | n + 1, (a :: r) :: rows =>
    decide (0 < a.1) && posDef n (rows.map fun row => match row with
      | [] => []
      | l :: ls => List.zipWith (fun x y => Cx.less x (Cx.scale (1 / a.1) (Cx.mul l y))) ls r)
  | _, _ => true
/-- trace R. -/
def traceOf (m : List (List Cx)) : Rat := (m.zipIdx.map fun r => ((r.1[r.2]?).getD (0, 0)).1).foldl (· + ·) 0
/-- The largest eigenvalue over the trace, in units of 2^-40: x is not above it while x·1 - R has a pivot that is not positive. -/
def lambda (m : List (List Cx)) : Nat :=
  searchUp (fun y =>
    let x := traceOf m * y / (2 ^ 40 : Nat)
    !posDef m.length (m.zipIdx.map fun r => r.1.zipIdx.map fun c => Cx.less (if r.2 = c.2 then (x, 0) else (0, 0)) c.1)) 41 0
/-- S of some paths, 0.01 dB; 0 of none. -/
def CalSums.spread (s : CalSums) (ps : List Nat) : Nat :=
  if ps.isEmpty then 0 else (Config.decibel ((lambda (s.matrix ps) * ps.length : Nat) / ((2 ^ 40 : Nat) : Rat))).toNat

/-! ### The solve -/

/-- Response of a path in a sub-band: frequency from the middle of the span in MHz, power, level in dB and phase in turns. -/
structure Resp where
  f : Rat
  w : Rat
  level : Rat
  turns : Rat

namespace Solve

/-- Weighted mean of what the sub-bands show. -/
def wmean (l : List Resp) (g : Resp → Rat) : Rat :=
  let w := (l.map (·.w)).foldl (· + ·) 0
  if w = 0 then 0 else (l.map fun r => r.w * g r).foldl (· + ·) 0 / w
/-- Slope of the phase in turns per MHz, weighted by power; open where one frequency stands alone (log 105). -/
def slope (l : List Resp) : Rat :=
  let f0 := wmean l (·.f)
  let d := wmean l fun r => (r.f - f0) * (r.f - f0)
  if d = 0 then Config.openRat 4 else wmean l (fun r => (r.f - f0) * r.turns) / d
/-- Phase at the middle of the span. -/
def phase0 (l : List Resp) : Rat := wmean l (·.turns) - slope l * wmean l (·.f)
/-- Lateness in ps: a delay turns the phase back in proportion to frequency. -/
def late (l : List Resp) : Rat := -(slope l) * 1000000
/-- Inner product. -/
def dot (x y : List Rat) : Rat := (List.zipWith (· * ·) x y).foldl (· + ·) 0
/-- Projection of a vector on another, 0 on 0. -/
def along (v e : List Rat) : List Rat := if dot e e = 0 then e.map fun _ => 0 else e.map fun x => x * (dot v e / dot e e)
/-- Difference of vectors. -/
def minus (x y : List Rat) : List Rat := List.zipWith (· - ·) x y
/-- Values less their mean (R236). -/
def lessMean (v : List Rat) : List Rat := v.map (· - meanQ v)
/-- Values less their least-squares plane over row and column; a coordinate that all share forms no part of it (R236). -/
def lessPlane (row col v : List Rat) : List Rat :=
  let one := v.map fun _ => (1 : Rat)
  let r := minus row (along row one)
  let c := minus (minus col (along col one)) (along col r)
  minus (minus (minus v (along v one)) (along v r)) (along v c)
/-- The delay steps of R241. -/
def steps (l : List Resp) : Int := croundQ (late l * 100 / 3179)
/-- The responses after the delay steps, at their frequency in the sampled data, `mid` MHz at the middle of the span (R241). -/
def turned (mid : Rat) (l : List Resp) : List Resp :=
  let n := steps l
  l.map fun r => { r with turns := r.turns + (mid + r.f) * n * 3179 / 100000000 }
/-- c of R241: the inverse of the power-weighted mean. -/
def factor (mid : Rat) (l : List Resp) : Cx :=
  let t := turned mid l
  Cx.inv (wmean t fun r => (Config.polar r.level r.turns).1, wmean t fun r => (Config.polar r.level r.turns).2)
/-- The new gain of a trim, rounded to its Q2.14 components (R241). -/
def newGain (t : Trim) (mid : Rat) (l : List Resp) : IQ :=
  let c := factor mid l
  ⟨croundQ (t.gain.i * c.1 - t.gain.q * c.2), croundQ (t.gain.i * c.2 + t.gain.q * c.1)⟩
/-- The responses under the new trims: the delay steps and the gain as they are committed (R241, R246). -/
def after (t : Trim) (mid : Rat) (l : List Resp) : List Resp :=
  let g := newGain t mid l
  let c := Cx.mul (g.i, g.q) (Cx.inv (t.gain.i, t.gain.q))
  (turned mid l).map fun r =>
    let z := Cx.mul (Config.polar r.level r.turns) c
    let p := Config.logPolar z.1 z.2
    { r with level := p.1, turns := p.2 }
/-- New values of a trim from a path's responses and the offsets of its comparators (R241). -/
def solved (n : Nat) (t : Trim) (mid : Rat) (l : List Resp) (thresh : List Int) (q : Quality) : Solved :=
  { path := n, v := (t.int + 8) * 64 + t.tap - steps l, thresh := thresh, quality := q, gain := newGain t mid l }
/-- A residual phase in 0.01°, delay in ps and gain in 0.01 dB. -/
def figures (turns ps db : Rat) : Quality := { phase := showRat (turns * 36000), delay := showRat ps, gain := showRat (db * 100) }
/-- A row less a multiple of another that makes its entry c zero; `p` has 1 there. -/
def clearAt (c : Nat) (p r : List Rat) : List Rat := let a := r.getD c 0; List.zipWith (fun x y => x - a * y) r p
/-- Gauss-Jordan elimination of columns c, c + 1, ...: the rows with a pivot, and the others. -/
def eliminate : Nat → Nat → List (Nat × List Rat) → List (List Rat) → List (Nat × List Rat)
  | 0, _, done, _ => done
  | n + 1, c, done, rows =>
    match rows.find? fun r => r.getD c 0 != 0 with
    | none => eliminate n (c + 1) done rows
    | some r =>
      let p := r.map (· / r.getD c 0)
      eliminate n (c + 1) ((c, p) :: done.map fun d => (d.1, clearAt c p d.2)) ((rows.erase r).map (clearAt c p))
/-- Least squares: unknowns x_0 to x_(n-1) that come nearest to the equations, each its coefficients and its value. What the equations leave
open is 0. -/
def leastSquares (n : Nat) (eqs : List (List Rat × Rat)) : List Rat :=
  let normal := (List.range n).map fun i =>
    ((List.range n).map fun j => (eqs.map fun e => e.1.getD i 0 * e.1.getD j 0).foldl (· + ·) 0) ++
      [(eqs.map fun e => e.1.getD i 0 * e.2).foldl (· + ·) 0]
  let done := eliminate n 0 [] normal
  (List.range n).map fun i => ((done.find? fun d => d.1 == i).map fun d => d.2.getD n 0).getD 0
/-- A redundant pair's equation: its offset, the coefficients of the unknowns, its value. -/
abbrev PairEq := (Int × Int) × List Rat × Rat
/-- The least-squares solution where all pairs of one offset share an unknown value of their own: each equation counts beside the mean of its
offset's. -/
def equalised (n : Nat) (eqs : List PairEq) : List Rat :=
  leastSquares n (eqs.map fun e =>
    let mates := eqs.filter fun x => x.1 == e.1
    ((List.range n).map fun i => e.2.1.getD i 0 - meanQ (mates.map fun x => x.2.1.getD i 0), e.2.2 - meanQ (mates.map fun x => x.2.2)))
/-- Thresholds corrected for the offsets that a histogram shows (R237, R241). -/
def newThresh (t : Trim) (n : Nat) (hist : List (Int × Nat)) : List Int := (List.range n).map fun i => t.th i - croundQ (Config.offset hist i)

end Solve

namespace Hw

/-- The middle of the span in MHz as the receive chain samples it: its signed alias (R80, R91). -/
def midAlias (h : Hw) : Rat := match h.slotNow with
  | some sl => let f : Int := spanMid4 sl.inUse; ((f - cround f 23592960 * 23592960 : Int) : Rat) / 4000
  | none => 0
/-- A path's GEOMETRY entry. -/
def geoOf (h : Hw) (n : Nat) : Geo := h.image.geometry.getD n { row := 0, col := 0, pol := 0, x := 0, y := 0 }
/-- Unordered pairs of paths, with the offset of the second from the first, its sign made one of the two. -/
def pairsOf (h : Hw) : List Nat → List (Nat × Nat × Int × Int)
  | [] => []
  | a :: r =>
    (r.map fun b =>
      let x := h.geoOf a
      let y := h.geoOf b
      let dr : Int := (y.row : Int) - x.row
      let dc : Int := (y.col : Int) - x.col
      if dr < 0 ∨ (dr = 0 ∧ dc < 0) then (b, a, -dr, -dc) else (a, b, dr, dc)) ++ h.pairsOf r
/-- The redundant pairs among paths of one polarisation, with their offsets (R236). -/
def redundantAt (h : Hw) (ps : List Nat) : List (Nat × Nat × Int × Int) :=
  let all := h.pairsOf ps
  all.filter fun p => all.any fun q => q.2.2 == p.2.2 && (q.1, q.2.1) != (p.1, p.2.1)
/-- The redundant pairs. -/
def redundant (h : Hw) (ps : List Nat) : List (Nat × Nat) := (h.redundantAt ps).map fun p => (p.1, p.2.1)
/-- The receive fit of a sub-band (R236): a value for each path, such that pairs of one offset come out equal in the least-squares sense,
where a pair shows the first path's value plus `sign` times the second's. First along each array row, then across rows: each row there
takes a term of its own, and with `tilt` a gradient along its columns. -/
def fitBand (h : Hw) (ps : List Nat) (pairs : List (Nat × Nat × Int × Int)) (sign : Rat) (tilt : Bool) (y : Nat × Nat × Int × Int → Rat) :
    List Rat :=
  let row := fun p => (h.geoOf p).row
  let col := fun p => ((h.geoOf p).col : Rat)
  let unit := fun (n i : Nat) (v : Rat) => (List.range n).map fun j => if j = i then v else 0
  let plus := fun (a b : List Rat) => List.zipWith (· + ·) a b
  let rows := (ps.map row).eraseDups
  let along := rows.map fun r =>
    let qs := ps.filter fun p => row p == r
    let n := qs.length
    let eqs := (pairs.filter fun a => row a.1 == r && row a.2.1 == r).map fun a =>
      (a.2.2, plus (unit n (qs.idxOf a.1) 1) (unit n (qs.idxOf a.2.1) sign), y a)
    qs.zip (Solve.equalised n eqs)
  let first := fun p => (assoc p along.flatten).getD 0
  let n := rows.length
  let coef := fun p (s : Rat) => unit n (rows.idxOf (row p)) s ++ unit n (rows.idxOf (row p)) (if tilt then s * col p else 0)
  let eqs := pairs.map fun a => (a.2.2, plus (coef a.1 1) (coef a.2.1 sign), y a - first a.1 - sign * first a.2.1)
  let x := Solve.equalised (2 * n) eqs
  ps.map fun p => first p + x.getD (rows.idxOf (row p)) 0 + (if tilt then col p * x.getD (n + rows.idxOf (row p)) 0 else 0)
/-- Phase of a pair in a sub-band in turns, unwrapped: within half a turn of that of the first pair of its offset, both beside what
`Config.unwrapFrom` gives their paths (log 105). -/
def pairTurns (h : Hw) (pairs : List (Nat × Nat × Int × Int)) (b : Nat) (a : Nat × Nat × Int × Int) : Rat :=
  let s := h.cal.sums
  let near := fun (p : Nat × Nat × Int × Int) => Config.unwrapFrom s.cov p.1 b - Config.unwrapFrom s.cov p.2.1 b
  let off := fun (p : Nat × Nat × Int × Int) => let z := s.covOf b p.1 p.2.1; (Config.logPolar z.1 z.2).2 - near p
  let ref := ((pairs.find? fun p => p.2.2 == a.2.2).map off).getD 0
  near a + off a - croundQ (off a - ref)
/-- Responses of the paths of one polarisation as the receive fit finds them, their common and plane terms taken out (R236). -/
def fitted (h : Hw) (ps : List Nat) : List (Nat × List Resp) :=
  let s := h.cal.sums
  let pairs := h.redundantAt ps
  let found := s.bands.map fun b =>
    (h.fitBand ps pairs 1 false fun a => let z := s.covOf b a.1 a.2.1; (Config.logPolar z.1 z.2).1,
      h.fitBand ps pairs (-1) true fun a => h.pairTurns pairs b a)
  let raw := ps.zipIdx.map fun p => (s.bands.zip found).map fun b =>
    ({ f := (bandOf 64 b.1 : Rat) * 768 / 100, w := (s.covOf b.1 p.1 p.1).1, level := b.2.1.getD p.2 0, turns := b.2.2.getD p.2 0 } : Resp)
  let row := ps.map fun p => ((h.geoOf p).row : Rat)
  let col := ps.map fun p => ((h.geoOf p).col : Rat)
  let off := fun (g : List Resp → Rat) (less : List Rat → List Rat) => let v := raw.map g; Solve.minus v (less v)
  let lv := off (fun l => Solve.wmean l (·.level)) Solve.lessMean
  let ph := off Solve.phase0 (Solve.lessPlane row col)
  let sl := off Solve.slope (Solve.lessPlane row col)
  (ps.zip raw).zipIdx.map fun x =>
    (x.1.1, x.1.2.map fun r => { r with level := r.level - lv.getD x.2 0, turns := r.turns - ph.getD x.2 0 - r.f * sl.getD x.2 0 })
/-- Mismatch of every redundant pair under the new trims: the pair, and per sub-band level and phase beside the mean of the pairs of one
offset (R246). -/
def mismatches (h : Hw) (pairs : List (Nat × Nat × Int × Int)) (old new : List (Nat × List Resp)) : List (Nat × Nat × List Resp) :=
  let s := h.cal.sums
  let at_ := fun (l : List (Nat × List Resp)) p i => (((assoc p l).getD [])[i]?).getD { f := 0, w := 0, level := 0, turns := 0 }
  let raw := pairs.map fun a => (a, s.bands.zipIdx.map fun b =>
    let z := s.covOf b.1 a.1 a.2.1
    let p := Config.logPolar z.1 z.2
    let r := at_ old a.1 b.2
    { r with level := p.1 - r.level - (at_ old a.2.1 b.2).level + (at_ new a.1 b.2).level + (at_ new a.2.1 b.2).level
             turns := p.2 - r.turns + (at_ old a.2.1 b.2).turns + (at_ new a.1 b.2).turns - (at_ new a.2.1 b.2).turns })
  raw.map fun a =>
    let mates := raw.filter fun b => b.1.2.2 == a.1.2.2
    let mean := fun i (g : Resp → Rat) => meanQ (mates.map fun b => ((b.2[i]?).map g).getD 0)
    (a.1.1, a.1.2.1, a.2.zipIdx.map fun r => { r.1 with level := r.1.level - mean r.2 (·.level), turns := r.1.turns - mean r.2 (·.turns) })
/-- The receive solve over paths `ps` (R236, R237, R241, R246). -/
def solveRxOf (h : Hw) (ps : List Nat) : List Solved :=
  ([0, 1].map fun pol =>
    let l := h.fitted (ps.filter fun n => (h.geoOf n).pol == pol)
    let new := l.map fun x => (x.1, Solve.after (h.path x.1).rxTrim h.midAlias x.2)
    let mm := h.mismatches (h.redundantAt (l.map (·.1))) l new
    l.map fun x =>
      let of := fun (g : List Resp → Rat) => meanQ (mm.filterMap fun m =>
        if m.1 = x.1 then some (Config.attributed (g m.2.2)) else if m.2.1 = x.1 then some (-(Config.attributed (g m.2.2))) else none)
      let lv := meanQ (mm.filterMap fun m =>
        if m.1 = x.1 ∨ m.2.1 = x.1 then some (Config.attributed (Solve.wmean m.2.2 (·.level))) else none)
      let t := (h.path x.1).rxTrim
      Solve.solved x.1 t h.midAlias x.2 (Solve.newThresh t 32 (histOf x.1 h.cal.sums.hist))
        (Solve.figures (of Solve.phase0) (of Solve.late) lv)).flatten
/-- The response of a path at its coupler (R239). -/
def couplerResp (h : Hw) (p b : Nat) : Cx :=
  let w := (assoc (p, b) h.cal.sums.power).getD 0
  if w = 0 then (0, 0) else Cx.scale (1 / w) ((assoc (p, b) h.cal.sums.cross).getD (0, 0))
/-- The mean of complex numbers. -/
def meanCx (l : List Cx) : Cx := Cx.scale (1 / (Nat.max 1 l.length : Nat)) (Cx.sum l)
/-- The transmit solve over paths `ps`: each is set to the mean response, and its residual is what its response under the new trims differs
by from the mean of the paths' under theirs (R239, R241, R246). -/
def solveTxOf (h : Hw) (ps : List Nat) : List Solved :=
  let bands := (h.cal.sums.power.map (·.1.2)).eraseDups
  let shown := ps.map fun p =>
    bands.map fun b =>
      let mean := meanCx (ps.map fun n => h.couplerResp n b)
      let z := Cx.mul (h.couplerResp p b) (Cx.inv mean)
      let r := Config.logPolar z.1 z.2
      ({ f := (bandOf 192 b : Rat) * 768 / 100, w := (assoc (p, b) h.cal.sums.power).getD 0, level := r.1, turns := r.2 } : Resp)
  let new := (ps.zip shown).map fun x => Solve.after (h.path x.1).txTrim 0 x.2
  let cx := fun (r : Resp) => Config.polar r.level r.turns
  let means := bands.zipIdx.map fun b => meanCx (new.filterMap fun l => (l[b.2]?).map cx)
  ((ps.zip shown).zip new).map fun x =>
    let resid := (x.2.zip means).map fun r =>
      let z := Cx.mul (cx r.1) (Cx.inv r.2)
      let d := Config.logPolar z.1 z.2
      { r.1 with level := d.1, turns := d.2 }
    let t := (h.path x.1.1).txTrim
    Solve.solved x.1.1 t 0 x.1.2 t.thresh (Solve.figures (Solve.phase0 resid) (Solve.late resid) (Solve.wmean resid (·.level)))
/-- New thresholds of the observation receivers that the run has used (R239). -/
def solveObs (h : Hw) : List (Nat × List Int) :=
  ((h.cal.sums.obsHist.map (·.1.1)).eraseDups).map fun q => (q, Solve.newThresh (h.quad q).obs.trim 8 (histOf q h.cal.sums.obsHist))

end Hw
end Sys2Proof.Machine
end

