-- ==== Sys2Proof/Machine/Calib.lean ====
section
/-! DEFINITION. Calibration runs (chapter 11): P_cal, collection and checks (R232 to R240), the solve and its corrections
(R241, R250), commit (R243), and the write of the record to the NVM (R55, R247). -/
namespace Sys2Proof.Machine

/-- A run has a side: receive `false`, transmit `true` (Table 11.5). -/
def calHas (r : Run) (tx : Bool) : Bool := r.target == 2 || (r.target == 1) == tx
/-- A side has ended collection. -/
def calDone (r : Run) (tx : Bool) : Bool := if tx then r.txDone else r.rxDone
/-- Statistics of one side of a path. -/
def calSide (p : Path) (tx : Bool) : CalPath := if tx then p.calTx else p.calRx
/-- Statistics changed. -/
def setCalSide (p : Path) (tx : Bool) (f : CalPath → CalPath) : Path :=
  if tx then { p with calTx := f p.calTx } else { p with calRx := f p.calRx }
/-- A mean power collected over `n` samples. -/
def calAdd (n : Nat) (power : Int) (c : CalPath) : CalPath :=
  { c with samples := cnt 32 c.samples n, powerSum := c.powerSum + Config.linear power, quanta := c.quanta + 1
           powerMin := if c.quanta = 0 then power else min c.powerMin power
           powerMax := if c.quanta = 0 then power else max c.powerMax power }
/-- Solve quanta of a run (R250): 240 for receive and 64 for transmit at 30 kHz. -/
def solveRx (scs : Nat) : Nat := 120 * 2 ^ scs
/-- Solve quanta of the transmit side. -/
def solveTx (scs : Nat) : Nat := 32 * 2 ^ scs
/-- Solve quanta of a run in all. -/
def solveNeed (scs : Nat) (r : Run) : Nat := (if calHas r false then solveRx scs else 0) + if calHas r true then solveTx scs else 0
/-- Frames after TARGET_TICK at which collection ends (R234). -/
def collectFrames : Nat := 1000

namespace Hw

/-- P_cal of a side. -/
def pcal (h : Hw) (tx : Bool) : List Nat := (List.range 64).filter fun n => (calSide (h.path n) tx).inRun
/-- A side of the run in progress collects. -/
def collecting (h : Hw) (tx : Bool) : Bool := h.cal.run.any fun r => r.started && calHas r tx && !calDone r tx
/-- MIN_SAMPLES of the image. -/
def minSamples (h : Hw) : Nat := h.image.calLimits.minSamples
/-- The housekeeping ADCs released (R242). -/
def releaseAdc (h : Hw) : Hw :=
  (h.onQuads fun _ x => { x with calHeld := false, calTemp := none }).onCal fun c => { c with adcHeld := false }
/-- The run wants more samples of path n on the transmit side (R238). -/
def calWants (h : Hw) (n : Nat) : Bool := let p := (h.path n).calTx; p.inRun && !p.obsSelect && decide (p.samples < h.minSamples)
/-- The path of a quad that the transmit collection observes next: ascending among those that still lack samples, behind the one observed
last (R238). -/
def calNextTx (h : Hw) (q : Nat) : Option Nat :=
  let c := (h.quad q).calCur
  let l := (List.range 4).filter fun i => h.calWants (4 * q + i)
  ((l.find? fun i => c != 4 && decide (c < i)).orElse fun _ => l.head?).map (4 * q + ·)
/-- A quad's selection for the run is given up. -/
def calDrop (h : Hw) (q : Nat) : Hw :=
  let x := h.quad q
  (if x.calSel = 1 then h.busLeave q 1 (4 * q + x.calCur) else h).onQuad q fun x => { x with calSel := 0 }
/-- While the transmit side collects, the coupler of the quad's next path is selected under R154, unless the one selected or observed is
still wanted (R238). -/
def calPick (h : Hw) (q : Nat) : Hw :=
  let x := h.quad q
  if x.calSel ≠ 0 ∧ h.calWants (4 * q + x.calCur) then h
  else
    let h := h.calDrop q
    match h.calNextTx q with
    | some n => (h.onQuad q fun x => { x with calCur := n % 4, calSel := 1 }).busAdd q 1 n
    | none => h
/-- Every quad's selection as the collection needs it. -/
def calPicks (h : Hw) : Hw := h.whenB (h.collecting true && h.cal.state == 2) fun h => h.each (List.range 16) calPick
/-- Every quad's selection given up. -/
def calDrops (h : Hw) : Hw := h.each (List.range 16) calDrop
/-- The run ends NOT_APPLIED (R240, R243). -/
def calEnd (h : Hw) (cause : Nat) : Hw :=
  match h.cal.run with
  | none => h
  | some r =>
    (h.calDrops.releaseAdc.onCal fun c => { c with run := none, state := 0, outcome := 2, cause := cause, notApplied := inc c.notApplied }).alarm 0x0805
      (r.target * 256 + cause : Nat)
/-- A side whose P_cal is empty ends the run SAMPLES_SHORT (R240). -/
def calEmpty (h : Hw) : Hw :=
  h.whenB (h.cal.run.any fun r => r.started && ((calHas r false && (h.pcal false).isEmpty) || (calHas r true && (h.pcal true).isEmpty)))
    fun h => h.calEnd 4
/-- Acquire ends when every ADC is held (Table 11.1); transmit collection then holds the observation receivers (R156). -/
def calAcquired (h : Hw) : Hw :=
  h.whenB (h.cal.state == 1 && h.calCollects && h.quads.toList.all (·.calHeld)) fun h =>
    let h := h.onCal fun c => { c with state := 2, adcHeld := true }
    h.whenB (h.collecting true) fun h =>
      let h := h.each (List.range 16) fun h q =>
        let o := (h.quad q).obs
        (if o.state = 1 then h.busLeave q 1 (4 * q + o.cur) else h).onQuad q fun x =>
          { x with obs := { x.obs with onCal := true, state := 4, granted := false } }
      h.calPicks
/-- The run begins on its TARGET_TICK k, steps 1 and 2 applied (R233, R242, R245). -/
def calStart (h : Hw) (k : Nat) : Hw :=
  match h.cal.run with
  | none => h
  | some r =>
    if r.started || r.tick != k then h
    else if h.slotNow.any fun s => s.kind == 4 then h.calEnd 2
    else
      let h := h.onPaths fun n p =>
        { p with calRx := if calHas r false then { inRun := h.rxEnabled n } else { p.calRx with inRun := false }
                 calTx := if calHas r true then { inRun := h.txEnabled n } else { p.calTx with inRun := false } }
      let h := h.onQuads fun _ x => { x with calCur := 4, calSel := 0, calTemp := none }
      let h := h.onCal fun c => { c with state := 1, sums := {}, run := some { r with started := true } }
      ((h.each (List.range 16) fun h q => h.calTake q).calAcquired).calEmpty
/-- An admitted CAL_ABORT takes effect (R244). -/
def calAbortAt (h : Hw) (k : Nat) : Hw := h.whenB (h.cal.run.any fun r => r.abortAt.any fun t => t ≤ k) fun h => h.calEnd 1
/-- A slot has taken effect on tick k (R245). -/
def calSlotChanged (h : Hw) (k : Nat) : Hw :=
  h.whenB (h.cal.run.any fun r => r.started && decide (r.tick < k) && r.commit != some k) fun h => h.calEnd 2

/-! ### Checks (R234, R236, R240) -/

/-- Paths that pairs link to those of a set, found in rounds. -/
def linked (pairs : List (Nat × Nat)) : Nat → List Nat → List Nat
  | 0, s => s
  | f + 1, s => linked pairs f (s ++ ((pairs.filterMap fun p =>
      if s.contains p.1 && !s.contains p.2 then some p.2 else if s.contains p.2 && !s.contains p.1 then some p.1 else none).eraseDups))
/-- P_cal paths of the receive side that fail GEOMETRY: those in no redundant pair, or all of a polarisation whose pairs do not link
them into one set. -/
def geometryFails (h : Hw) : List Nat :=
  ([0, 1].map fun pol =>
    let ps := (h.pcal false).filter fun n => (h.geoOf n).pol == pol
    let rs := h.redundant ps
    match ps with
    | [] => []
    | a :: _ =>
      if ps.all fun n => (linked rs 64 [a]).contains n then ps.filter fun n => !rs.any fun p => p.1 == n || p.2 == n else ps).flatten
/-- The FEM temperature of a quad varied by more than 5 K over the collection. -/
def drifted (h : Hw) (q : Nat) : Bool := (h.quad q).calTemp.any fun r => decide (50 < r.2 - r.1)
/-- FAIL bits of a P_cal path (Table 11.6), CORRECTION_RANGE aside. -/
def failBits (h : Hw) (tx : Bool) (geo : List Nat) (n : Nat) : Nat :=
  let c := calSide (h.path n) tx
  let short := decide (c.samples < h.minSamples)
  let low := tx && short && c.lowEnergy
  pack [(0, b2n (!tx && geo.contains n)), (1, b2n (tx && c.obsSelect)), (2, b2n low), (3, b2n (short && !low && !(tx && c.obsSelect))),
    (4, b2n (!tx && decide (0 < c.quanta) && decide (meanPower c < h.image.calLimits.powerFloor))), (5, b2n (h.drifted (n / 4)))]
/-- P_cal paths of the receive side in one polarisation. -/
def polPaths (h : Hw) (pol : Nat) : List Nat := (h.pcal false).filter fun n => (h.geoOf n).pol == pol
/-- A side ends collection and is checked in the order of Table 11.3 (R240). -/
def calSideEnd (h : Hw) (tx : Bool) : Hw :=
  let ps := h.pcal tx
  let geo := if tx then [] else h.geometryFails
  let bad := ps.map fun n => (n, h.failBits tx geo n)
  let any := fun i => bad.any fun b => bit b.2 i
  let s0 := h.cal.sums.spread (h.polPaths 0)
  let s1 := h.cal.sums.spread (h.polPaths 1)
  let spread := !tx && decide (h.image.calLimits.spreadMax < Nat.max s0 s1)
  let drift := (List.range 16).any h.drifted
  let h := h.each bad fun h b => h.onPath b.1 fun p => setCalSide p tx fun c => { c with fail := b.2 }
  let h := h.whenB (!tx) fun h => h.onCal fun c => { c with spread0 := s0, spread1 := s1 }
  let why := if any 0 then 3 else if any 1 then 7 else if any 2 then 6 else if any 3 then 4 else if any 4 then 5 else if spread then 8
    else if drift then 9 else 0
  if why ≠ 0 then h.calEnd why
  else
    let h := h.onCal fun c => { c with run := c.run.map fun r => if tx then { r with txDone := true } else { r with rxDone := true } }
    let h := h.whenB tx calDrops
    h.whenB (!h.calCollects) fun h => h.releaseAdc.onCal fun c => { c with state := 3 }
/-- A side ends collection once every path of its P_cal holds MIN_SAMPLES (Table 11.1). -/
def calFull (h : Hw) (tx : Bool) : Hw :=
  h.whenB (h.collecting tx && h.cal.state == 2 && (h.pcal tx).all fun n => decide (h.minSamples ≤ (calSide (h.path n) tx).samples))
    fun h => h.calSideEnd tx
/-- A path retired before the commit tick leaves P_cal (R233); a side whose other paths all hold MIN_SAMPLES has then ended
collection (Table 11.1). -/
def calLeave (h : Hw) (n k : Nat) : Hw :=
  h.whenB (h.cal.run.any fun r => r.started && r.commit != some k) fun h =>
    let out := fun (c : CalPath) => if c.inRun then { c with inRun := false, excluded := true } else c
    let h := (h.onPath n fun p => { p with calRx := out p.calRx, calTx := out p.calTx }).calEmpty
    ((h.calFull false).calFull true).calPicks

/-! ### Collection (R235, R238) -/

/-- The quads that observe a symbol of the run which opens on tick k: downlink there, the next path's coupler selected and settled
(R238; log 106). -/
def calReady (h : Hw) (k : Nat) : List Nat :=
  (List.range 16).filter fun q => (h.slotNow.any fun sl => h.tddCode sl q k == 1) && (h.quad q).calSel == 3 && h.calWants (4 * q + (h.quad q).calCur)
/-- Steps of the run offered for window k, in its own order (R235, R238, R250): 0 receive collection, 1 transmit collection, 2 solve;
with the paths each concerns. -/
def calOffers (h : Hw) (k : Nat) : List (Nat × List Nat) :=
  match h.cal.run, h.slotNow with
  | some r, some sl =>
    if !r.started then []
    else
      let before := decide (k < r.tick + collectFrames * h.perFrame) && h.cal.state == 2
      let tx := (h.calReady k).map fun q => 4 * q + (h.quad q).calCur
      (if before && h.collecting false && (List.range 16).all fun q => h.tddCode sl q k == 2 then [(0, h.pcal false)] else []) ++
        (if before && h.collecting true && !tx.isEmpty then [(1, tx)] else []) ++
        (if h.cal.state = 3 then [(2, [])] else [])
  | _, _ => []
/-- The transmit collection quantum of window k begins in the quads that observe. -/
def calBegin (h : Hw) (k : Nat) : Hw := h.each (h.calReady k) fun h q => h.onQuad q fun x => { x with calSel := 4 }
/-- The symbol that a quad has observed counts, or not (R238; Table 11.4 for a thermal trip); then the quad's rotation moves on. -/
def calObserve (h : Hw) (q : Nat) (adc : List (Int × Bool)) : Hw :=
  let n := 4 * q + (h.quad q).calCur
  let power := Hw.levelOver (h.compositeRun n) 32767
  let h :=
    if h.trl.trip || decide (power < h.image.calLimits.txEnergyFloor) then h.onPath n fun p => { p with calTx := { p.calTx with lowEnergy := true } }
    else if h.observedFlag q adc then h
    else (h.onPath n fun p => { p with calTx := calAdd 4096 power p.calTx }).onCal fun c => { c with sums := h.sumsTx n adc c.sums }
  (h.calDrop q).calPick q

end Hw

/-- A collection quantum completes (R235, R238): it adds its sums, or a flagged receive block is discarded. -/
def execCalCollectQuantumDone (dt : Nat) (m : CalMeas) (s : State) : Host.Outcome State Fault Refusal :=
  ok s dt fun h =>
    let tx := match m with
      | .rx => false
      | .tx _ => true
    let g : Grant := { window := h.tim.k, cls := 2, unit := b2n tx }
    h.whenB (h.tim.open_ && h.trl.grants.contains g && h.collecting tx) fun h =>
      let h := h.onTrl fun t => { t with grants := t.grants.erase g }
      match m with
      | .rx =>
        let ps := h.pcal false
        let power := fun n => h.meter n h.tim.tickC (h.winLen h.tim.k)
        if ps.any h.monitorFlag then h.onCal fun c => { c with ovrDiscarded := inc c.ovrDiscarded }
        else ((h.onCal fun c => { c with sums := h.sumsRx ps c.sums }).each ps fun h n => h.onPath n fun p =>
          { p with calRx := calAdd 2048 (power n) p.calRx }).calFull false
      | .tx obs =>
        let qs := (List.range 16).filter fun q => (h.quad q).calSel == 4
        (h.each qs fun h q => h.calObserve q ((assoc q (obs.map fun o => (o.1.val, o.2))).getD [])).calFull true

/-- Collection of a side reaches 1,000 frames after TARGET_TICK (R232). -/
def execCalCollectLimit (tx : Bool) (s : State) : Host.Outcome State Fault Refusal :=
  ok s 0 fun h => h.whenB (h.collecting tx && h.cal.run.any fun r => decide (r.tick + collectFrames * h.perFrame ≤ h.tim.k)) fun h => h.calSideEnd tx

namespace Hw

/-- A selection of path n has succeeded (R309): the broadcast write and its read-back, which the transfers show. -/
def selected (h : Hw) (n : Nat) : Hw :=
  let i := n % 4
  (h.busPut [.transfer (n / 4) 0x5C [1] [BitVec.ofNat 8 i] 0, .transfer (n / 4) (0x58 + i) [1] [] 1]).each [0, 1, 2, 3] fun h j =>
    h.onPath (4 * (n / 4) + j) fun p => { p with fem := { p.fem with couplerSel := j == i } }

end Hw

/-- The coupler select write and its read-back have ended: settling starts, or the selection has failed (R154, R238, R309). A selection
that nothing wants any more was in progress when it was given up (R303). -/
def execCouplerSelectDone (dt : Nat) (q : QuadId) (good : Bool) (s : State) : Host.Outcome State Fault Refusal :=
  ok s dt fun h =>
    let x := h.quad q
    let cal := x.obs.onCal && x.calSel == 1
    let wanted := 4 * q.val + if cal then x.calCur else x.obs.cur
    let n := (h.busSelects q).getD wanted
    h.whenB (h.busOn && (cal || x.obs.state == 1 || (h.busSelects q).isSome)) fun h =>
      let h := (h.busDrop q 1 n).whenB good fun h => h.selected n
      if n != wanted || !(cal || x.obs.state == 1) then h
      else if good then
        let lost := x.obs.lost
        let h := h.onQuad q fun x =>
          { x with calSel := if cal then 2 else x.calSel, obs := { x.obs with state := if cal then x.obs.state else 2, lost := false } }
        h.whenB lost fun h => h.cease 0x0603 q
      else if cal then
        let h := (h.onPath n fun p => { p with calTx := { p.calTx with obsSelect := true } }).onQuad q fun x =>
          { x with obs := { x.obs with selFail := inc x.obs.selFail } }
        ((h.alarm 0x0602 n).calDrop q).calPick q
      else h.obsFailed q

/-- The settling after a selection has ended (R154). -/
def execCouplerSettleDone (dt : Nat) (q : QuadId) (s : State) : Host.Outcome State Fault Refusal :=
  ok s dt fun h => h.onQuad q fun x =>
    if x.obs.onCal && x.calSel == 2 then { x with calSel := 3 }
    else if x.obs.state = 2 then { x with obs := { x.obs with state := 3 } } else x

/-! ### Solve and commit (R241, R243, R246) -/

/-- A threshold within its field. -/
def threshOk (l : List Int) : Bool := l.all fun x => decide (-128 ≤ x) && decide (x ≤ 127)
/-- The new values of a path stay within their fields (R241). -/
def solveOk (s : Solved) : Bool :=
  decide (0 ≤ s.v) && decide (s.v ≤ 1023) && s.gain.i == sat16 s.gain.i && s.gain.q == sat16 s.gain.q && threshOk s.thresh
/-- The new trim. -/
def Solved.trim (s : Solved) : Trim := { tap := (s.v % 64).toNat, int := s.v / 64 - 8, gain := s.gain, thresh := s.thresh }
/-- RMS of residuals: exact where it is whole, an open value elsewhere (log 12). -/
def rmsOf (l : List Int) : Int :=
  let sum := sumZ (l.map fun x => x * x)
  let r : Nat := Nat.sqrt (sum.toNat / l.length)
  if (r * r * l.length : Nat) = sum then r else Config.rms sum l.length
/-- Array figures of a side (R246). -/
def arrayQuality (l : List Solved) (old : Quality) : Quality :=
  if l.isEmpty then old else { phase := rmsOf (l.map (·.quality.phase)), delay := rmsOf (l.map (·.quality.delay)), gain := rmsOf (l.map (·.quality.gain)) }

namespace Hw

/-- What a solve found for the paths still in P_cal. -/
def solved (h : Hw) (tx : Bool) (l : List Solved) : List Solved := l.filter fun s => (calSide (h.path s.path) tx).inRun
/-- CORRECTION_RANGE: the paths whose new values leave their fields. -/
def rangeFails (l : List Solved) : List Nat := (l.filter fun s => !solveOk s).map (·.path)
/-- The run ends CORRECTION_RANGE. -/
def calRange (h : Hw) (tx : Bool) (bad : List Nat) : Hw :=
  (h.each bad fun h n => h.onPath n fun p => setCalSide p tx fun c => { c with fail := c.fail ||| 64 }).calEnd 10
/-- The write of the record at the front of the queue starts, or none is left (R55). -/
def startWrite (h : Hw) : Hw :=
  let up := h.up
  let h := { h with img := { h.img with calWriteBusy := !h.img.writes.isEmpty, writeOp := 0, writeAt := up } }
  match h.img.writes with
  | b :: _ => h.nvmWriteOp b 0
  | [] => h
/-- The commit on tick k, in step 3 (R243, R246 to R248). -/
def calCommit (h : Hw) (k : Nat) : Hw :=
  match h.cal.run with
  | none => h
  | some r =>
    match r.commit with
    | some kc =>
      if kc ≠ k then h
      else
        let now := h.tim.c
        let rx := if calHas r false then h.solved false r.newRx else []
        let tx := if calHas r true then h.solved true r.newTx else []
        let h := h.each rx fun h s => h.onPath s.path fun p =>
          { p with trimSource := true, rxTrim := s.trim, rxOld := (now, p.rxTrim) :: p.rxOld, qRx := s.quality }
        let h := h.each tx fun h s => h.onPath s.path fun p =>
          { p with trimSource := true, txTrim := s.trim, txOld := (now, p.txTrim) :: p.txOld, qTx := s.quality }
        let h := h.whenB (calHas r true) fun h => h.each r.newObs fun h o => h.onQuad o.1 fun x =>
          { x with obs := { x.obs with trim := { x.obs.trim with thresh := o.2 } } }
        let h := h.releaseAdc.onCal fun c =>
          { c with run := none, state := 0, outcome := 1, cause := 0, applied := inc c.applied, count := c.count + 1
                   qArrayRx := arrayQuality rx c.qArrayRx, qArrayTx := arrayQuality tx c.qArrayTx }
        let h := (h.alarm 0x0804 (r.target * 256 : Nat)).rebuildMirror
        h.whenB (r.policy == 1) fun h =>
          let n := (h.img.storeCount + 1) % 2 ^ 32
          let b := h.record r.target 0 n (todS h.now)
          let busy := h.img.calWriteBusy
          let h := { h with img := { h.img with storeCount := n, writes := h.img.writes ++ [b] } }
          h.whenB (!busy) startWrite
    | none => h

end Hw

/-- A solve quantum completes (R241, R243, R250): the last one chooses k_c, unless a correction leaves its field. The receive solve of
a BOTH run may end the run before the transmit solve. -/
def execCalSolveDone (dt : Nat) (s : State) : Host.Outcome State Fault Refusal :=
  ok s dt fun h =>
    let g : Grant := { window := h.tim.k, cls := 2, unit := 2 }
    match h.cal.run with
    | none => h
    | some r =>
      let done := r.solved + 1
      let last := done == solveNeed h.scs r
      let rxLast := calHas r false && done == solveRx h.scs
      h.whenB (h.tim.open_ && h.cal.state == 3 && h.trl.grants.contains g && (last || rxLast)) fun h =>
        let h := h.onTrl fun t => { t with grants := t.grants.erase g }
        let rx := if rxLast || (last && calHas r false && r.newRx.isEmpty) then h.solveRxOf (h.pcal false) else r.newRx
        let bad := Hw.rangeFails rx
        if !bad.isEmpty then h.calRange false bad
        else if !last then h.onCal fun c => { c with run := some { r with solved := done, newRx := rx } }
        else
          let tx := if calHas r true then h.solveTxOf (h.pcal true) else []
          let obs := if calHas r true then h.solveObs else []
          let bad := Hw.rangeFails tx
          if !bad.isEmpty || obs.any fun o => !threshOk o.2 then h.calRange true bad
          else
            let kc := h.frameFrom (h.tim.k + 3)
            (h.onCal fun c => { c with
              state := 4, commitTick := low32 kc, run := some { r with solved := done, commit := some kc, newRx := rx, newTx := tx, newObs := obs } }).happen
              { code := 0x0803, arg := signed 16 r.tag, extra := low32 kc, tick := some kc }

/-! ### The record write (R55, R73, R247) -/

namespace Hw

/-- The write sequence in progress ends: a waiting write starts, or a waiting remote reset is acted on (R55, R73), after what the end
of the write raised has been logged and its indication has left. -/
def writeEnds (h : Hw) (m : Mem) : Hw × Mem :=
  let h := { h with img := { h.img with writes := h.img.writes.drop 1 } }
  if h.sta.resetWait then (((h.settle).flushQueue.wiped).toS1 true, {}) else (h.startWrite, m)

end Hw

/-- An erase, a page program or the read-back of the record write ends (R55, R247). -/
def execNvmOpDone (dt : Nat) (readback : Bytes) (s : State) : Host.Outcome State Fault Refusal :=
  okM s dt fun h m =>
    let up := h.up
    if !h.img.calWriteBusy then (h, m)
    else if h.img.writeOp < 20 then
      ({ h with img := { h.img with writeOp := h.img.writeOp + 1, writeAt := up } }.nvmWriteOp (h.img.writes.headD []) (h.img.writeOp + 1), m)
    else if readback.length = recordSize && h.recordCrcOk readback then
      let n := rd (h.img.writes.headD []) 24 4
      let h := { h with img := { h.img with calState := 0 } }
      ((h.onCal fun c => { c with stores := inc c.stores }).alarm 0x0806 (signed 16 n)).writeEnds m
    else (h.alarm 0x0802 3).writeEnds m

/-- An erase or a page program is still busy 2 s after its issue (R55). -/
def execNvmWriteFail (dt : Nat) (s : State) : Host.Outcome State Fault Refusal :=
  okM s dt fun h m =>
    if h.img.calWriteBusy && h.img.writeOp < 20 && decide (h.img.writeAt + 2 * Config.fc ≤ h.up) then
      (h.alarm 0x0802 (if h.img.writeOp < 2 then 1 else 2)).writeEnds m
    else (h, m)

end Sys2Proof.Machine
end

