-- ==== Sys2Proof/Machine/Front.lean ====
section
/-! DEFINITION. WEIGHT_LOAD (R130, R195), the command records (R29, R197, R227, R231, R244, R312, R319, R375), and
the other message types (R72, R73, R183, R208, R209). -/
namespace Sys2Proof.Machine

/-! ### WEIGHT_LOAD -/

namespace Hw

/-- Tags stored for dynamic ID 4,096 + d. -/
def dynTags (h : Hw) (d : Nat) : List Nat := [0, 1].filterMap (h.dynTag d)
/-- The version slot a load goes into: an empty one, else that of the earlier effective tick. -/
def dynTarget (h : Hw) (d : Nat) : Nat :=
  match h.dynTag d 0, h.dynTag d 1 with
  | none, _ => 0
  | some _, none => 1
  | some a, some b => if a < b then 0 else 1
/-- A load would displace a version in use (R130). -/
def dynInUse (h : Hw) (d : Nat) : Bool :=
  match h.dynTag d 0, h.dynTag d 1 with
  | some a, some b =>
    let t := Nat.max a b
    (h.fhl.dl.any fun x => x.beam == 4096 + d && x.target < t && !x.weighted) || (h.fhl.ul.any fun x => x.beam == 4096 + d && x.target < t)
  | _, _ => false
/-- Admission of a WEIGHT_LOAD for effective tick e (R130, R201, R431). -/
def admitWeights (h : Hw) (r : WeightRec) (e : Nat) : Hw × Nat :=
  match h.recAt e with
  | none => (h, 8)
  | some sl =>
    let d := r.beam - 4096
    let c := h.charges e 3 1 []
    let why := firstReason [ifBad (h.before7 e) 10, ifBad (decide (h.tickAt (e - 2) ≤ h.tim.c)) 1, ifBad (h.leadAbove e h.tim.c sl.earlyLimit) 2,
      ifBad (h.stageForbids 0x11 || h.isFoothill (h.slotAt e)) 10, ifBad (decide (r.beam < 4096)) 8,
      ifBad (decide (4608 ≤ r.beam) || !h.dynEnabled r.beam) 12, ifBad ((h.dynTags d).any (e ≤ ·)) 8,
      ifBad (h.dynInUse d || h.controlFull) 4]
    if why ≠ 0 then (h, why)
    else match h.budgetFails [(e, c)] with
      | some l => (h.countLevel l, 3)
      | none => ((h.reserve e c).onMas fun m => { m with tags := sortBy (·.1) (assocSet (2 * d + h.dynTarget d) e m.tags) }, 0)
/-- An accepted load written into version slot v: the merging read of each word, MAS_DYNAMIC_UE where its other half is lost, and the
64 weights (R130, R360). -/
def writeWeights (h : Hw) (m : Mem) (r : WeightRec) (v : Nat) : Hw × Mem :=
  (List.range 64).foldl (fun (x : Hw × Mem) p =>
    let a := dynamicAddr (r.beam - 4096) v p
    let ue := x.2.anyUe a 4
    let h := x.1.noteMerge x.2 a 4
    let h := h.whenB ue fun h => h.alarm 0x0702 r.beam p
    (h, x.2.write a (le 4 (r.weight.getD p 0).toNat))) (h, m)

end Hw

/-- A WEIGHT_LOAD record (R130, R195). -/
def execWeightLoad (dt : Nat) (m : MsgHdr) (idx : Nat) (r : WeightRec) (s : State) : Host.Outcome State Fault Refusal :=
  okM s dt fun h mem =>
    let v := h.dynTarget (r.beam - 4096)
    let a := h.judge m idx 0x11 2 fun h k => h.admitWeights r k
    if a.2 = 0 then a.1.writeWeights mem r v else (a.1, mem)

/-! ### Command records -/

namespace Hw

/-- Reasons common to the commands of MIN_LEAD to 2,000 ms. -/
def commandWindow (h : Hw) (typ k : Nat) : Nat :=
  let lo := ((h.recAt k).map (·.minLead)).getD 0
  firstReason [ifBad (h.before7 k) 10, h.window k h.tim.c lo 2000000000, ifBad (h.stageForbids typ) 10]
/-- A command judged: refused for a reason, or carried out and held until a tick. -/
def command (h : Hw) (why k : Nat) (f : Hw → Hw) : Hw × Nat := if why ≠ 0 then (h, why) else ((f h).hold k, 0)
/-- MODE_SELECT (R29, R202). -/
def admitSelect (h : Hw) (slot k : Nat) : Hw × Nat :=
  let lead : Int := h.tickFine k - (h.tim.c * 100000 : Int)
  let lo := nsFine h.earlyMax + normalLen h.scs * 100000
  h.command (firstReason [ifBad (h.before7 k) 10, ifBad (decide (lead < lo)) 1, ifBad (decide ((nsFine 2000000000 : Int) < lead)) 2,
    ifBad (h.stageForbids 0x20) 10, ifBad (decide (7 < slot)) 8, ifBad (h.slotRec slot).isNone 12,
    ifBad (!h.isFrame k || h.mode.selects.any fun x => x.tick == k && !x.void) 8, ifBad h.controlFull 4]) k
    fun h => { h with mode := { h.mode with selects := h.mode.selects ++ [{ tick := k, slot := slot, void := false }] } }
/-- CALIBRATE (R231). -/
def admitCal (h : Hw) (target policy tag k : Nat) : Hw × Nat :=
  h.command (firstReason [h.commandWindow 0x21 k, ifBad (h.isFoothill (h.slotAt k)) 10, ifBad (decide (2 < target) || decide (1 < policy)) 8,
    ifBad (h.cal.run.isSome || h.controlFull) 4]) k
    fun h => h.onCal fun c => { c with
      run := some { tag := tag, target := target, policy := policy, tick := k }, state := 0, target := target, policy := policy, outcome := 0
      cause := 0, runTag := low32 tag, commitTick := 0xFFFFFFFF, runs := inc c.runs }
/-- CAL_ABORT: the tick after admission (R244, Table 9.11). -/
def admitAbort (h : Hw) (tag : Nat) : Hw × Nat :=
  let k := h.tim.k + 1
  h.command (firstReason [ifBad (h.before7 k || h.stageForbids 0x22) 10, ifBad (!(h.cal.run.any fun r => r.tag == tag)) 8, ifBad h.controlFull 4]) k
    fun h => h.onCal fun c => { c with run := c.run.map fun r => { r with abortAt := some k } }
/-- The record of a capture set-up. -/
def capRec (h : Hw) (s : Nat) : Option CapSetup := h.image.caps.find? fun c => c.inst == s
/-- A set-up is armed at tick k, as its state and the records accepted so far have it. -/
def armedAt (h : Hw) (s k : Nat) : Bool :=
  (((sortBy (·.1) (h.cap.orders.filter fun o => o.2.1 == s && o.1 ≤ k)).getLast?).map (·.2.2)).getD (h.capS s).armed
/-- Two set-ups share a flank or a trigger unit. -/
def capShare (a b : CapSetup) : Bool :=
  (List.range 4).any (fun f => bit a.flankMask f && bit b.flankMask f) || (List.range 2).any fun u => bit a.sources u && bit b.sources u
/-- CAPTURE_ARM (R375, R380). -/
def admitArm (h : Hw) (s k : Nat) : Hw × Nat :=
  let armed := h.armedAt s k
  let held := (h.capRec s).any fun a => (List.range 32).any fun i => i != s && h.armedAt i k && (h.capRec i).any (capShare a)
  h.command (firstReason [h.commandWindow 0x23 k, ifBad (decide (31 < s)) 8, ifBad (h.capRec s).isNone 12,
    ifBad (armed && !(h.capRec s).any fun a => bit a.sources 4) 8, ifBad ((!armed && held) || h.controlFull) 4]) k
    fun h => { h with cap := { h.cap with orders := h.cap.orders ++ [(k, s, true)] } }
/-- CAPTURE_DISARM (R375). -/
def admitDisarm (h : Hw) (s k : Nat) : Hw × Nat :=
  h.command (firstReason [h.commandWindow 0x24 k, ifBad (decide (31 < s)) 8, ifBad (h.capRec s).isNone 12, ifBad (!h.armedAt s k) 8,
    ifBad h.controlFull 4]) k
    fun h => { h with cap := { h.cap with orders := h.cap.orders ++ [(k, s, false)] } }
/-- PATH_RETIRE (R319): cause 6 of Table 14.12. -/
def admitRetire (h : Hw) (n k : Nat) : Hw × Nat :=
  h.command (firstReason [h.commandWindow 0x25 k, ifBad (decide (63 < n)) 8, ifBad h.controlFull 4]) k
    fun h => h.onPath n fun p => { p with retireAt := p.retireAt ++ [(k, 6)] }
/-- PATH_RESTORE (R312). -/
def admitRestore (h : Hw) (n k : Nat) : Hw × Nat :=
  h.command (firstReason [h.commandWindow 0x26 k, ifBad (decide (63 < n)) 8, ifBad h.controlFull 4]) k
    fun h => h.onPath n fun p => { p with restoreAt := p.restoreAt ++ [k] }
/-- BUDGET_SHARE from the head (R197, R227). -/
def admitShare (h : Hw) (src : Nat) (share : List Nat) : Hw × Nat :=
  let k := h.frameFrom (h.tim.k + 1)
  h.command (firstReason [ifBad (h.before7 k || h.sys.pkgPos == 0 || h.macOf 0 != some src) 10, ifBad h.controlFull 4]) k
    fun h => h.onTrl fun t => { t with shareNext := some (share.getD h.sys.pkgPos 0) }

end Hw

/-- MODE_SELECT (R29). -/
def execModeSelect (dt : Nat) (m : MsgHdr) (idx slot : Nat) (s : State) : Host.Outcome State Fault Refusal :=
  ok s dt fun h => (h.judge m idx 0x20 2 fun h k => h.admitSelect slot k).1
/-- CALIBRATE (R231). -/
def execCalibrate (dt : Nat) (m : MsgHdr) (idx target policy runTag : Nat) (s : State) : Host.Outcome State Fault Refusal :=
  ok s dt fun h => (h.judge m idx 0x21 2 fun h k => h.admitCal target policy runTag k).1
/-- CAL_ABORT (R244). -/
def execCalAbort (dt : Nat) (m : MsgHdr) (idx runTag : Nat) (s : State) : Host.Outcome State Fault Refusal :=
  ok s dt fun h => (h.judge m idx 0x22 2 fun h _ => h.admitAbort runTag).1
/-- CAPTURE_ARM (R375). -/
def execCaptureArm (dt : Nat) (m : MsgHdr) (idx setup : Nat) (s : State) : Host.Outcome State Fault Refusal :=
  ok s dt fun h => (h.judge m idx 0x23 2 fun h k => h.admitArm setup k).1
/-- CAPTURE_DISARM (R375). -/
def execCaptureDisarm (dt : Nat) (m : MsgHdr) (idx setup : Nat) (s : State) : Host.Outcome State Fault Refusal :=
  ok s dt fun h => (h.judge m idx 0x24 2 fun h k => h.admitDisarm setup k).1
/-- PATH_RETIRE (R319). -/
def execPathRetire (dt : Nat) (m : MsgHdr) (idx path : Nat) (s : State) : Host.Outcome State Fault Refusal :=
  ok s dt fun h => (h.judge m idx 0x25 2 fun h k => h.admitRetire path k).1
/-- PATH_RESTORE (R312). -/
def execPathRestore (dt : Nat) (m : MsgHdr) (idx path : Nat) (s : State) : Host.Outcome State Fault Refusal :=
  ok s dt fun h => (h.judge m idx 0x26 2 fun h k => h.admitRestore path k).1
/-- BUDGET_SHARE (R227). -/
def execBudgetShare (dt : Nat) (m : MsgHdr) (idx : Nat) (share : List Nat) (s : State) : Host.Outcome State Fault Refusal :=
  ok s dt fun h => (h.judge m idx 0x27 2 fun h _ => h.admitShare m.src share).1

/-! ### Other message types -/

namespace Hw

/-- A remote memory access answered: one more outstanding, or a failure response beyond 16 (R208). -/
def rmaAnswer (h : Hw) (r : Rma) (code : Nat) (data : Bytes) : Hw :=
  (h.onFhl fun f => { f with rmaPending := f.rmaPending + 1 }).send (.rma r.port r.src r.id code r.element r.address data)

end Hw

/-- A remote memory access read (R208): the data, or a failure response. -/
def execRmaRead (dt : Nat) (r : Rma) (s : State) : Host.Outcome State Fault Refusal :=
  ok s dt fun h => h.whenB (h.arrives r.port && r.rw != 0x10 && r.rw != 0x20) fun h =>
    let a := r.address
    let n := r.length
    let good := r.rw == 0 && h.fhl.rmaPending < 16 && a / 2 ^ 32 == 0 && a % 4 == 0 && n % 4 == 0 && decide (4 ≤ n) && decide (n ≤ 8192) &&
      !h.anyUnmapped s.mem a n
    if good then
      let data := h.spaceBytes s.mem a n
      ((h.noteRead s.mem a n).onFhl fun f => { f with rmaReads := inc f.rmaReads }).rmaAnswer r 1 data
    else h.rmaAnswer r 2 []

/-- A remote memory access write: a failure response, none for 0x20, and a refusal (R30, R208). -/
def execRmaWrite (dt : Nat) (r : Rma) (s : State) : Host.Outcome State Fault Refusal :=
  ok s dt fun h => h.whenB (h.arrives r.port && (r.rw == 0x10 || r.rw == 0x20)) fun h =>
    let h := h.whenB (r.rw == 0x10) fun h => h.rmaAnswer r 2 []
    h.refuseOther r.src r.vlan 11

/-- A one-way delay request, answered at once (R209). The command falls at the instant the request reaches the PCS of the port. -/
def execOwdRequest (dt : Nat) (p : PortId) (l : LaneId) (src id action : Nat) (s : State) : Host.Outcome State Fault Refusal :=
  ok s dt fun h => h.whenB (h.arrives p && action ≤ 1) fun h =>
    (h.onFhl fun f => { f with owdResp := inc f.owdResp }).send (.owd p src id (h.ingressStamp l).toNat (h.ingressNs16 p))

/-- A one-way delay follow-up is ignored (R209). -/
def execOwdFollowUp (dt : Nat) (_ : PortId) (_ : Nat) (s : State) : Host.Outcome State Fault Refusal := ok s dt fun h => h

/-- A remote one-way delay request is counted and not answered (R209). -/
def execOwdRemoteRequest (dt : Nat) (p : PortId) (_ : Nat) (s : State) : Host.Outcome State Fault Refusal :=
  ok s dt fun h => h.whenB (h.arrives p) fun h => h.onFhl fun f => { f with unsupported := inc f.unsupported }

/-- An eCPRI remote reset to the package's own address (R72, R73): answered, and acted on at once or, while the calibration record is
being written, when that write has ended. On port B with forwarding off it is counted only. -/
def execRemoteReset (dt : Nat) (p : PortId) (dst src : Nat) (vlan : Option Nat) (id op : Nat) (s : State) : Host.Outcome State Fault Refusal :=
  okM s dt fun h m =>
    if !(h.arrives p && h.ownMac == some dst) then (h, m)
    else if p = 1 then (h.onFhl fun f => { f with unsupported := inc f.unsupported }, m)
    else if op ≠ 1 then (h.refuseOther src vlan 8, m)
    else
      let h := h.send (.resetResp p src id)
      if h.img.calWriteBusy then (h.onSta fun t => { t with resetWait := true }, m) else ((h.wiped).toS1 true, {})

/-- A received event indication is ignored and counted (R183). -/
def execEventIndicationRx (dt : Nat) (p : PortId) (s : State) : Host.Outcome State Fault Refusal :=
  ok s dt fun h => h.whenB (h.arrives p) fun h => h.onFhl fun f => { f with unsupported := inc f.unsupported }

/-- A bit sequence, a generic data transfer or a reserved or vendor type (Table 9.2). -/
def execUnsupportedMessageType (dt : Nat) (m : MsgHdr) (s : State) : Host.Outcome State Fault Refusal :=
  ok s dt fun h => h.whenB (h.arrives m.port && (m.msgType == 1 || m.msgType == 3 || decide (7 < m.msgType))) fun h =>
    h.refuseOther m.src m.vlan 8

end Sys2Proof.Machine
end

