-- ==== Sys2Proof/Machine/Capture.lean ====
section
/-! DEFINITION. The capture engine (chapter 17): readiness and triggers (R377 to R382), records (R376, R383), FIRE_IO and ARM_IO
(R384, R385), arming (R375, R380), and streaming (R386 to R388). -/
namespace Sys2Proof.Machine

/-- Flanks of a set-up. -/
def capFlankList (c : CapSetup) : List Nat := (List.range 4).filter (bit c.flankMask)
/-- Bytes of a capture bank. -/
def bankSize : Nat := 2097152
/-- Global address of a bank. -/
def bankAddr (f : Nat) : Nat := 0x40000000 + f * bankSize
/-- Rate of a tap's stream in Hz under a preset (Table 17.1). -/
def capRate (c : CapSetup) (preset : Nat) : Nat := if c.tap = 0 then 491520000 else if c.tap = 1 then presetRate preset else 1474560000
/-- cc from the trigger sample to the last sample of a record. -/
def capSpan (c : CapSetup) (t : Trig) : Nat := (c.length - c.pre - 1) * t.per3 / 3

namespace Hw

/-- ARM_IO holds a set-up back (R382, R384). -/
def armHolds (h : Hw) (c : CapSetup) : Bool := bit c.sources 6 && h.sys.pkgPos != 0 && !h.pins.armIo
/-- A set-up becomes ready where its area is open and ARM_IO allows it: a re-arm period ends (R382). -/
def capReady (h : Hw) (s : Nat) : Hw :=
  match h.capRec s with
  | none => h
  | some c =>
    let x := h.capS s
    if !x.armed || !x.areaOpen || x.trig.isSome || x.readyAt.isSome || h.armHolds c then h
    else
      let up := h.up
      let d := x.endAt.map fun e => Nat.min 0xFFFFFFFE (up - e)
      h.onCap s fun x => { x with
        readyAt := some up, taken := [], rearm := false, dead := if x.rearm then d.getD 0xFFFFFFFF else x.dead
        deadLast := if x.rearm then d.getD x.deadLast else x.deadLast }
/-- The set-up disarms and releases its flanks and units (R375). -/
def capDisarm (h : Hw) (s : Nat) : Hw :=
  h.onCap s fun x => { x with
    armed := false, opening := none, areaOpen := false, readyAt := none, rearm := false, fullWait := false, disarmAfter := false, missed := 0 }
/-- A record in the bank of flank f overlaps the area of a set-up at its offset. -/
def capOverlap (h : Hw) (c : CapSetup) (o : Nat) : Bool :=
  h.cap.recs.any fun r => (capFlankList c).any (fun f => r.flanks.contains f) && decide (r.offset < o + capSize c) && decide (o < r.offset + r.size)
/-- The next record area starts to open at offset `o`, or waits for bytes that streaming frees (R382, R383). -/
def capOpen (h : Hw) (s o : Nat) : Hw :=
  match h.capRec s with
  | none => h
  | some c =>
    let up := h.up
    let wait := bit c.flankMask 4 && h.capOverlap c o
    h.onCap s fun x => { x with
      offset := o, areaOpen := false, readyAt := none, rearm := true, fullWait := wait, opening := if wait then none else some up }
/-- A set-up is armed (R375): it takes its banks, whose records are discarded, and opens an area at offset 0. What an abandoned quantum had
sent of the records discarded is sent again no more (R388). -/
def capArm (h : Hw) (s : Nat) (c : CapSetup) : Hw :=
  let fs := capFlankList c
  let recs := (h.cap.recs.map fun r => { r with
    flanks := r.flanks.filter (!fs.contains ·), left := r.left.filter (!fs.contains ·)
    sent := if (r.left.head?.any fs.contains) then 0 else r.sent : CapRec }).filter fun r => !r.flanks.isEmpty
  let h : Hw := { h with cap := { h.cap with recs := recs, bankSetup := vmapi h.cap.bankSetup fun f x => if fs.contains f then s else x } }
  let h : Hw := { h with cap := { h.cap with setups := vmapi h.cap.setups fun _ x => { x with again := x.again.filter fun g => !fs.contains g.2.1 } } }
  (h.onCap s fun x => { x with armed := true, trig := none, recNo := 0, missed := 0, endAt := none, endedFull := false, disarmAfter := false
                               dead := 0xFFFFFFFF, fireHits := 0, segs := 0, again := [] }).capOpen s 0

/-! ### Triggers -/

/-- A record starts, or the trigger joins the one that started in the same cc (R381), or is missed (R382). -/
def capStart (h : Hw) (s : Nat) (c : CapSetup) (cause hits : Nat) (vec : BitVec 64) : Hw :=
  let x := h.capS s
  let up := h.up
  match x.trig, x.readyAt with
  | some t, _ =>
    if t.at_ = up then
      h.onCap s fun x => { x with trig := some { t with
        cause := Nat.min t.cause cause, hits := t.hits ||| hits, vector := if cause < t.cause then vec else t.vector } }
    else h.onCap s fun x => { x with missed := Nat.min 0xFFFFFFFF (x.missed + 1), missedCnt := inc x.missedCnt }
  | none, some r =>
    let per3 := capPer3 c h.preset
    let rate := capRate c h.preset
    let t : Trig :=
      { cause := cause, hits := hits, validPre := Nat.min c.pre ((up - r) * 3 / per3), missed := x.missed, tick := low32 h.tim.k
        cc := h.tim.c - h.tim.tickC, tod := h.now, vector := vec, at_ := up, per3 := per3, rate := rate, n := Dsp.firstAt rate h.tim.c }
    h.onCap s fun x => { x with trig := some t, missed := 0 }
  | none, none =>
    h.whenB (x.rearm && !x.areaOpen) fun h => h.onCap s fun x => { x with missed := Nat.min 0xFFFFFFFF (x.missed + 1), missedCnt := inc x.missedCnt }
/-- A set-up pulls FIRE_IO for 256 cc, 6 cc after its trigger (R385). A pull that begins after the one before has ended makes a new edge, which
the units hit at its trigger drive; others make none. -/
def firePull (h : Hw) (s hits : Nat) : Hw :=
  let from_ := h.up + 6
  let k := h.cap
  let h := match k.fireUntil with
    | some e =>
      if e < from_ then
        let h : Hw := { h with cap := { k with
          fireFrom := from_, fireLast := e, setups := vmapi k.setups fun _ x => { x with fireHits := 0 } } }
        h.onCap s fun x => { x with fireHits := hits }
      else if k.fireFrom = from_ then h.onCap s fun x => { x with fireHits := x.fireHits ||| hits }
      else h
    | none => ({ h with cap := { k with fireFrom := from_ } } : Hw).onCap s fun x => { x with fireHits := hits }
  let h : Hw := { h with cap := { h.cap with fireUntil := some (h.up + 262) } }
  h.onPins fun p => { p with fireLow := true }
/-- A trigger that an armed set-up receives from its own sources (R381, R385): it pulls FIRE_IO with FIRE_OUT, and makes a record
itself without FIRE_IN. -/
def capTrigger (h : Hw) (s cause hits : Nat) (vec : BitVec 64) : Hw :=
  match h.capRec s with
  | none => h
  | some c =>
    h.whenB (h.capS s).armed fun h =>
      let h := h.whenB (bit c.sources 5) fun h => h.firePull s hits
      h.whenB (!bit c.sources 3) fun h => h.capStart s c cause hits vec
/-- Condition vector of a unit at the present monitor sample, one every 2 cc (R377): a path whose receive chain is powered down gives false. -/
def capVector (h : Hw) (cond : Nat) : BitVec 64 :=
  let th : Int := -100 * (cond / 4 % 64 : Nat)
  let f := fun n =>
    let p := h.path n
    p.rxOn && match cond % 4 with
      | 0 => (h.monitor n (h.tim.c / 2 : Nat)).flag
      | 1 => decide (th < p.rxPower)
      | 2 => decide (p.rxPower < th)
      | _ => p.fem.alarmPin
  BitVec.ofNat 64 (sumL ((List.range 64).map fun n => if f n then 2 ^ n else 0))
/-- The armed set-up that holds a trigger unit. -/
def unitHolder (h : Hw) (u : Nat) : Option Nat := (List.range 32).find? fun s => (h.capS s).armed && (h.capRec s).any fun c => bit c.sources u

end Hw

/-- The condition of trigger unit u is newly met (R377): a hit, where the set-up that holds the unit finds its vector met. -/
def execCaptureTrigger (dt : Nat) (u : Fin 2) (s : State) : Host.Outcome State Fault Refusal :=
  ok s dt fun h =>
    match h.unitHolder u with
    | none => h
    | some i => match h.capRec i with
      | none => h
      | some c =>
        let v := h.capVector (if u = 0 then c.cond0 else c.cond1)
        let care := if u = 0 then c.care0 else c.care1
        let want := if u = 0 then c.value0 else c.value1
        h.whenB (v &&& care == want &&& care) fun h =>
          let h : Hw := { h with cap := { h.cap with unitHits := upd h.cap.unitHits u inc } }
          h.capTrigger i u.val (2 ^ u.val) v

/-- The pull of 256 cc ends, 262 cc after the latest trigger (R385). -/
def execFirePullEnd (dt : Nat) (s : State) : Host.Outcome State Fault Refusal :=
  ok s dt fun h => h.whenB (h.cap.fireUntil.any fun t => t ≤ h.up) fun h =>
    let h : Hw := { h with cap := { h.cap with fireUntil := none, setups := vmapi h.cap.setups fun _ x => { x with fireHits := 0 } } }
    h.onPins fun p => { p with fireLow := false }

/-- FIRE_IO falls (R385): a trigger with cause 2 for every armed set-up with FIRE_IN. The command falls at the pin's edge, which is the
instant of detection less 3 cc. The package's own units drove it where its pull has begun by then. -/
def execFireIoFall (dt : Nat) (s : State) : Host.Outcome State Fault Refusal :=
  ok s dt fun h => h.each (List.range 32) fun h i => match h.capRec i with
    | some c => h.whenB ((h.capS i).armed && bit c.sources 3) fun h =>
        h.capStart i c 2 (if h.cap.fireUntil.isSome && decide (h.cap.fireFrom ≤ h.up) then (h.capS i).fireHits else 0) 0
    | none => h

/-- ARM_IO changes, as sampled at a package behind the head (R384): readiness of ARRAY set-ups follows it. -/
def execArmIoChange (dt : Nat) (level : Bool) (s : State) : Host.Outcome State Fault Refusal :=
  ok s dt fun h => h.whenB (h.sys.pkgPos != 0) fun h =>
    let h := h.onPins fun p => { p with armIo := level }
    h.each (List.range 32) fun h i => match h.capRec i with
      | some c => h.whenB (bit c.sources 6 && (h.capS i).armed) fun h =>
          if level then h.capReady i else h.onCap i fun x => if x.trig.isSome then x else { x with readyAt := none }
      | none => h

/-! ### What the taps show (R373, Table 17.1) -/

/-- Units of a flank: paths, or the quads of the observation receivers. -/
def unitsOf (c : CapSetup) (f : Nat) : List Nat := (List.range (capUnitsOf c.tap)).map (capUnitsOf c.tap * f + ·)

namespace Hw

/-- The stream that a set-up taps of path u; that of a carrier not in use has stopped. -/
def capStream (h : Hw) (c : CapSetup) (u : Nat) : Stream :=
  match c.tap with
  | 0 => h.monitor u
  | 1 => if h.carriersNow.contains (bits c.flankMask 5 2) then h.presetStream u (bits c.flankMask 5 2) else fun _ => {}
  | 2 => Dsp.quant (h.trimmed u)
  | 3 => Dsp.quant (h.shaped u)
  | _ => h.obsHeard u
/-- The tapped chain of path u runs at C = x: not powered down (R74, R112), and for a transmit tap no trip holds (R389). -/
def capRan (h : Hw) (c : CapSetup) (u : Nat) (x : Nat) : Bool :=
  let p := h.path u
  let within := fun (on : Bool) (a b : Nat) => if on then decide (a ≤ x) || decide (x < b) else decide (a ≤ x) && decide (x < b)
  let up := x + h.up - h.tim.c
  let trip := decide (h.trl.tripFrom ≤ up) && (h.trl.trip || h.trl.tripEnd.any fun e => decide (up < e))
  if c.tap = 4 then true else if c.tap ≤ 1 then within p.rxOn p.rxFrom p.rxTo else within p.txRun p.txFrom p.txTo && !trip
/-- What a set-up's taps have shown in the open window up to now; a transmit tap has no flags. -/
def capSee (h : Hw) (c : CapSetup) : CapWin :=
  let rate := capRate c h.preset
  let first := Dsp.firstAt rate h.tim.tickC
  let len := Dsp.samplesIn rate h.tim.tickC (h.tim.c - h.tim.tickC)
  let one := fun u n =>
    let z := h.capStream c u (n : Nat)
    if h.capRan c u (n * Config.fc / rate) then (Dsp.rounded z, z.flag && (decide (c.tap ≤ 1) || c.tap == 4)) else (⟨0, 0⟩, false)
  { rate := rate, first := first, len := len
    units := ((capFlankList c).map (unitsOf c)).flatten.map fun u => (u, (List.range len).map fun j => one u (first + j)) }
/-- A window's samples are kept with those a record may still need: PRE_TRIGGER samples before the trigger sample (R382). -/
def capKeep (c : CapSetup) (x : Cap) (w : CapWin) : List CapWin :=
  let n := match x.trig with
    | some t => t.n
    | none => w.first + w.len
  w :: x.taken.filter fun y => decide (n < y.first + y.len + c.pre)
/-- The window closes: set-ups that are ready or recording keep what it has shown. -/
def capTake (h : Hw) : Hw :=
  h.each (List.range 32) fun h s => match h.capRec s with
    | some c => h.whenB ((h.capS s).readyAt.isSome || (h.capS s).trig.isSome) fun h =>
        let w := h.capSee c
        h.onCap s fun x => { x with taken := capKeep c x w }
    | none => h
/-- Samples of the observation receivers that no tick has brought: `obs` gives what each ADC has sampled from a value of C on. -/
def capGiven (h : Hw) (obs : List (QuadId × Nat × List (Int × Bool))) : Hw :=
  h.each obs fun h o => h.onQuad o.1 fun x => { x with obs := { x.obs with adc := { c := o.2.1, x := o.2.2 } :: x.obs.adc } }

end Hw

/-! ### Records -/

/-- The 64-byte header of a record (Table 17.3). -/
def capHeader (h : Hw) (s : Nat) (c : CapSetup) (x : Cap) (t : Trig) (flank units : Nat) : Bytes :=
  let first := t.at_ - t.validPre * t.per3 / 3
  let trip := (h.trl.trip && decide (h.trl.tripFrom ≤ t.at_ + capSpan c t)) || h.trl.tripEnd.any fun e => decide (first < e)
  let slot := h.mode.enteredAt.any fun e => decide (first < e) && decide (e ≤ t.at_ + capSpan c t)
  le 1 s ++ le 1 (c.tap + 8 * bits c.flankMask 5 2) ++ le 1 flank ++ le 1 t.cause ++ le 1 t.hits ++
    le 1 (b2n (decide (t.validPre < c.pre)) + 2 * b2n trip + 4 * b2n slot) ++ le 2 x.recNo ++ le 4 c.length ++ le 4 t.validPre ++ le 4 t.tick ++
    le 4 t.cc ++ le 6 (todS t.tod) ++ le 4 (todNs t.tod) ++ le 2 (t.tod % 65536) ++ le 4 x.dead ++ le 4 t.missed ++ le 2 units ++ le 2 0 ++
    le 8 (if t.cause ≤ 1 then t.vector.toNat else 0) ++ le 8 0

/-- C when sample `i` of a record is taken. -/
def capSampleC (h : Hw) (c : CapSetup) (t : Trig) (i : Nat) : Int := (h.tim.c : Int) - h.up + t.at_ + ((i : Int) - c.pre) * t.per3 / 3
/-- The chain of unit j ran from the first sample recorded to the last. -/
def capThrough (h : Hw) (c : CapSetup) (t : Trig) (f j : Nat) : Bool :=
  let p := h.path (16 * f + j)
  let first := capSampleC h c t (c.pre - t.validPre)
  let last := capSampleC h c t (c.length - 1)
  if c.tap = 4 then true
  else if c.tap ≤ 1 then decide (p.rxFrom ≤ first) && (p.rxOn || decide (last < p.rxTo))
  else decide (p.txFrom ≤ first) && (p.txRun || decide (last < p.txTo))
/-- UNITS_ON of a flank's record (Table 17.3). -/
def capUnitsOn (h : Hw) (c : CapSetup) (t : Trig) (f : Nat) : Nat :=
  sumL ((List.range (capUnitsOf c.tap)).map fun j => if capThrough h c t f j then 2 ^ j else 0)
/-- A sample of a record as the taps have shown it: zero where none stands, as for a stream whose rate has changed (R389). -/
def capSample (l : List CapWin) (t : Trig) (u n : Nat) : IQ × Bool :=
  match l.find? fun w => w.rate == t.rate && decide (w.first ≤ n) && decide (n < w.first + w.len) with
  | some w => ((assoc u w.units).bind fun x => x[n - w.first]?).getD (⟨0, 0⟩, false)
  | none => (⟨0, 0⟩, false)
/-- The data and flag areas of a record of `units` units from its samples (R376): those ahead of VALID_PRE read as zero. -/
def capAreas (c : CapSetup) (t : Trig) (units : List Nat) (see : Nat → Nat → IQ × Bool) : Bytes :=
  let at_ := fun u i => if c.pre ≤ i + t.validPre then see u (t.n + i - c.pre) else (⟨0, 0⟩, false)
  (units.map fun u => ((List.range c.length).map fun i => Hw.iqBytes (at_ u i).1).flatten).flatten ++
    (units.map fun u => (List.range (c.length / 8)).map fun b =>
      BitVec.ofNat 8 (sumL ((List.range 8).map fun e => if (at_ u (8 * b + e)).2 then 2 ^ e else 0))).flatten

/-- The samples written so far into a set-up's area, flank by flank (R382): `n` names the trigger sample, or the next sample while none has
come, with `w` of them ahead of it and beside and behind it. Those ahead stand in time order before the trigger sample's place; what a
window adds is written as it closes (DESIGN CHOICE, log 64). -/
def capPut (c : CapSetup) (o n : Nat) (w : Nat × Nat) (see : Nat → Nat → IQ × Bool) (m : Mem) (f : Nat) : Mem :=
  let i0 := c.pre - w.1
  let i1 := c.pre + w.2
  let base := bankAddr f + o + 64
  let us := capUnitsOf c.tap
  let m := (List.range us).foldl (fun m j =>
    m.write (base + 4 * (j * c.length + i0)) ((List.range (i1 - i0)).map fun i => Hw.iqBytes (see (us * f + j) (n + i0 + i - c.pre)).1).flatten) m
  (List.range us).foldl (fun m j =>
    m.write (base + 4 * us * c.length + j * (c.length / 8) + i0 / 8) ((List.range (ceilDiv i1 8 - i0 / 8)).map fun b =>
      BitVec.ofNat 8 (sumL ((List.range 8).map fun e =>
        let i := 8 * (i0 / 8 + b) + e
        if i0 ≤ i ∧ i < i1 ∧ (see (us * f + j) (n + i - c.pre)).2 then 2 ^ e else 0)))) m
/-- The window closes: set-ups that are ready or recording have written what it has shown. -/
def Hw.capWrite (h : Hw) (m : Mem) : Mem :=
  (List.range 32).foldl (fun m s => match h.capRec s with
    | none => m
    | some c =>
      let x := h.capS s
      if x.readyAt.isNone && x.trig.isNone then m
      else
        let rate := capRate c h.preset
        let t : Trig := x.trig.getD
          { cause := 0, hits := 0, validPre := 0, missed := 0, tick := 0, cc := 0, tod := 0, vector := 0, at_ := h.up, per3 := 1, rate := rate
            n := Dsp.firstAt rate h.tim.c }
        (capFlankList c).foldl (capPut c x.offset t.n (h.capWritten c x) (capSample x.taken t)) m) m

/-- A record's last sample and its header have been written (R376, R382): the record stands in the bank of each flank, EV224 + SETUP
pulses, and the set-up disarms or opens its next area. `obs` gives, for a record of the observation receivers, what their ADCs have
sampled in the open window, each from a value of C on, where the tick has not brought it. -/
def execCaptureRecordEnd (dt : Nat) (s : SetupId) (obs : List (QuadId × Nat × List (Int × Bool))) (st : State) :
    Host.Outcome State Fault Refusal :=
  okM st dt fun h m =>
    let x := h.capS s
    match h.capRec s, x.trig with
    | some c, some t =>
      if h.up < t.at_ + capSpan c t + 16 then (h, m)
      else
        let fs := capFlankList c
        let size := capSize c
        let see := capSample ((h.capGiven obs).capSee c :: x.taken) t
        let m := fs.foldl (fun m f =>
          let a := bankAddr f + x.offset
          (m.write (a + 64) (capAreas c t (unitsOf c f) see)).write a (capHeader h s c x t f (capUnitsOn h c t f))) m
        let stream := bit c.flankMask 4
        let r : CapRec := { setup := s, no := x.recNo, offset := x.offset, size := size, trigTick := t.tick, flanks := fs, stream := stream
                            left := if stream then fs else [] }
        let h : Hw := { h with cap := { h.cap with recs := h.cap.recs ++ [r] } }
        let h := h.onCap s fun x => { x with
          trig := none, readyAt := none, areaOpen := false, recNo := (x.recNo + 1) % 65536, endAt := some (t.at_ + capSpan c t)
          lastNo := x.recNo, lastHits := t.hits, lastCause := t.cause, lastShort := decide (t.validPre < c.pre), lastValid := true
          records := inc x.records }
        let h := h.pulse (224 + s.val)
        if bit c.sources 7 || x.disarmAfter then (h.capDisarm s, m)
        else
          let o := x.offset + size
          (h.capOpen s (if o + size ≤ bankSize then o else 0), m)
    | _, _ => (h, m)

/-- A record area has been opened, its valid bits cleared (R359, R376), and the set-up becomes ready; or the area would overlap a record:
without STREAM the set-up disarms, with STREAM it waits (R382, R383). -/
def execCaptureAreaOpen (dt : Nat) (s : SetupId) (st : State) : Host.Outcome State Fault Refusal :=
  okM st dt fun h m =>
    let x := h.capS s
    match h.capRec s, x.opening with
    | some c, some t =>
      if !x.armed then (h, m)
      else if h.capOverlap c x.offset then
        if bit c.flankMask 4 then (h.onCap s fun x => { x with opening := none, fullWait := true }, m)
        else (((h.capDisarm s).onCap s fun x => { x with endedFull := true }).alarm 0x0A05 s, m)
      else if h.up < t + ceilDiv (capSize c) 512 then (h, m)
      else
        let m := (capFlankList c).foldl (fun m f => m.clear (bankAddr f + x.offset) (capSize c)) m
        ((h.onCap s fun x => { x with opening := none, areaOpen := true }).capReady s, m)
    | _, _ => (h, m)

/-! ### What a tick does (R375, R379, R380, R383, R386 to R388) -/

/-- A set-up was disarmed while a record was in progress, and has not yet released its flanks and units (R375). -/
def capLeaves (h : Hw) (i : Nat) : Bool := (h.capS i).armed && (h.capS i).disarmAfter
/-- An arm that finds its set-up, its flanks or its units not yet released is taken on the first tick that finds them so (log 64). -/
def capDefer (h : Hw) (k : Nat) (o : Nat × Nat × Bool) : Hw :=
  { h with cap := { h.cap with orders := (h.cap.orders.filter fun x => decide (x.1 ≤ k)) ++ [o] ++ h.cap.orders.filter fun x => !decide (x.1 ≤ k) } }
/-- One accepted CAPTURE_ARM or CAPTURE_DISARM takes effect on tick k. -/
def capOrder (k : Nat) (h : Hw) (o : Nat × Nat × Bool) : Hw :=
  let s := o.2.1
  let x := h.capS s
  match h.capRec s with
  | none => h
  | some c =>
    if o.2.2 then
      let leaves := (List.range 32).any fun i => capLeaves h i && (i == s || (h.capRec i).any (Hw.capShare c))
      if leaves then capDefer h k o
      else if x.armed then h.whenB (bit c.sources 4) fun h => h.capTrigger s 4 0 0
      else
        let held := (List.range 32).any fun i => i != s && (h.capS i).armed && (h.capRec i).any (Hw.capShare c)
        h.whenB (!held) fun h => h.capArm s c
    else
      let waits := fun (y : Nat × Nat × Bool) => decide (y.1 ≤ k) && y.2.1 == s && y.2.2
      if h.cap.orders.any waits then { h with cap := { h.cap with orders := h.cap.orders.filter fun y => !waits y } }
      else if x.trig.isSome then h.onCap s fun x => { x with disarmAfter := true }
      else h.capDisarm s
/-- The records due by tick k take effect, in the order of acceptance, and a frame tick triggers the set-ups with TICK. -/
def capTick (h : Hw) (k : Nat) : Hw :=
  let due := h.cap.orders.filter fun o => o.1 ≤ k
  let h : Hw := { h with cap := { h.cap with orders := h.cap.orders.filter fun o => !(o.1 ≤ k) } }
  let h := h.each due (capOrder k)
  h.whenB (h.isFrame k) fun h => h.each (List.range 32) fun h s =>
    h.whenB ((h.capS s).armed && (h.capRec s).any fun c => bit c.sources 2) fun h => h.capTrigger s 3 0 0
/-- A part of a record that a quantum sends: the record it comes from, its flank, the offset and the length. -/
structure CapSeg where
  src : CapRec
  flank : Nat
  offset : Nat
  len : Nat
/-- Segments of one flank of a record from an offset, within a number of bytes. -/
def capSegs1 (r : CapRec) (f o room : Nat) : Nat → List CapSeg
  | 0 => []
  | n + 1 =>
    let len := Nat.min 8192 (Nat.min room (r.size - o))
    if len = 0 then [] else ⟨r, f, o, len⟩ :: capSegs1 r f (o + len) (room - len) n
/-- Segments of the unsent flanks of a record. -/
def capSegsRec (r : CapRec) : List Nat → Nat → Nat → List CapSeg
  | [], _, _ => []
  | f :: fs, o, room =>
    let l := capSegs1 r f o room 8
    l ++ capSegsRec r fs 0 (room - sumL (l.map (·.len)))
/-- Segments of the quantum that a set-up is offered: up to 65,536 bytes, in order of record and then of flank. -/
def capSegments : List CapRec → Nat → List CapSeg
  | [], _ => []
  | r :: rs, room =>
    let l := capSegsRec r r.left r.sent room
    l ++ capSegments rs (room - sumL (l.map (·.len)))

namespace Hw

/-- Records of a set-up that wait to be streamed. -/
def capWaiting (h : Hw) (s : Nat) : List CapRec := h.cap.recs.filter fun r => r.setup == s && r.stream && !r.left.isEmpty
/-- The control flow that carries segments (R387). -/
def capFlow (h : Hw) : Option Flow := lowestFlow h.flowsNow fun f => f.dir == 2
/-- The quantum offered for a set-up. -/
def capQuantum (h : Hw) (s : Nat) : List CapSeg := capSegments (h.capWaiting s) 65536
/-- KiB of a quantum, each started one counted (R386). -/
def capKib (l : List CapSeg) : Nat := ceilDiv (sumL (l.map (·.len))) 1024
/-- Candidates of class 4 (Table 10.5). -/
def capOffers (h : Hw) : List (Nat × Nat) :=
  if h.capFlow.isNone then []
  else ((List.range 32).filter fun s => !(h.capWaiting s).isEmpty).map fun s => (s, capKib (h.capQuantum s))
/-- Payload of a segment (Table 17.5). -/
def segBytes (h : Hw) (m : Mem) (s : Nat) (g : CapSeg) : Bytes :=
  let a := bankAddr g.flank + g.src.offset + g.offset
  le 1 s ++ le 1 g.flank ++ le 2 g.src.no ++ le 4 g.offset ++ le 4 g.src.size ++ le 4 g.src.trigTick ++ le 2 g.len ++
    le 1 (b2n (m.anyUe a g.len) + 2 * b2n (g.offset + g.len == g.src.size)) ++ List.replicate 13 0 ++ h.spaceBytes m a g.len
/-- A granted CAPTURE quantum sends its segments (R386, R387); those that an abandoned one had sent count as sent again (R388). -/
def capSend (h : Hw) (m : Mem) (s : Nat) : Hw :=
  match h.capFlow with
  | none => h
  | some f =>
    let l := h.capQuantum s
    h.whenB (h.port f.port).linkUp fun h =>
      let h := h.each l fun h g =>
        let seq := (assoc f.id h.fhl.genSeq).getD 0
        let h := h.noteRead m (bankAddr g.flank + g.src.offset + g.offset) g.len
        (h.onFhl fun x => { x with genSeq := assocSet f.id ((seq + 1) % 2 ^ 32) x.genSeq }).send
          (.generic f.port f.dstMac f.vlan f.eaxc seq (h.segBytes m s g))
      let key := fun (g : CapSeg) => (g.src.no, g.flank, g.offset)
      h.onCap s fun x => { x with
        segs := sumL (l.map (·.len)), again := l.map key, resent := cnt 32 x.resent (l.filter fun g => x.again.contains (key g)).length
        streamKib := cnt 48 x.streamKib (capKib l) }
/-- Bytes of the waiting records marked sent. -/
def capAdvance : List CapRec → Nat → Nat → List CapRec
  | [], _, _ => []
  | r :: rs, s, n =>
    if r.setup != s || !r.stream || n = 0 then r :: capAdvance rs s n
    else
      let step := go r.size r.left.length r.left r.sent n
      { r with left := step.1, sent := step.2.1, flanks := r.flanks.filter step.1.contains } :: capAdvance rs s step.2.2
where
  /-- the flanks of one record: those left, the bytes sent of the first, the bytes over -/
  go (size : Nat) : Nat → List Nat → Nat → Nat → List Nat × Nat × Nat
    | 0, l, o, n => (l, o, n)
    | _ + 1, [], o, n => ([], o, n)
    | f + 1, a :: l, o, n => if size - o ≤ n then go size f l 0 (n - (size - o)) else (a :: l, o + n, 0)
/-- The window closes (R383, R388): what each quantum sent is done with where the link stood, the bytes of wholly sent records become free,
and set-ups that waited for them open their areas. -/
def capClose (h : Hw) : Hw :=
  let stood := h.capFlow.any fun f => (h.port f.port).linkUp
  let h := h.each (List.range 32) fun h s =>
    let n := (h.capS s).segs
    if n = 0 then h
    else if !stood then h.onCap s fun x => { x with segs := 0 }
    else
      let h := h.onCap s fun x => { x with segs := 0, again := [] }
      let recs := (capAdvance h.cap.recs s n).filter fun r => !(r.stream && r.left.isEmpty)
      { h with cap := { h.cap with recs := recs } }
  h.each (List.range 32) fun h s =>
    let x := h.capS s
    h.whenB (x.armed && x.fullWait && (h.capRec s).any fun c => !h.capOverlap c x.offset) fun h => h.capOpen s x.offset

end Hw
end Sys2Proof.Machine
end

