-- ==== Sys2Proof/Machine/Dma.lean ====
section
/-! DEFINITION. DMA channels (R363 to R370). -/
namespace Sys2Proof.Machine

/-- A region that DMA channels may read (Table 16.2). -/
def dmaReads (a : Nat) : Bool := match region a with
  | .observation _ | .unmapped => false
  | _ => true
/-- A region that DMA channels may write (Table 16.2). -/
def dmaWrites (a : Nat) : Bool := match region a with
  | .data _ _ | .shared _ | .dpdShadow _ => true
  | _ => false
/-- The first uncorrectable word of a range. -/
def firstUe (m : Mem) (a n : Nat) : Option Nat := ((Mem.words a n).find? fun w => m.err w == some true).map (8 * ·)

/-- An entry coming into use is read: its list address and count are sound, and it lies where DMA channels may read. -/
def dmaReadsEntry (list count i : Nat) : Bool := list % 16 == 0 && count != 0 && dmaReads (list + 8 * i)
/-- What an entry coming into use shows: its ADDR and LEN, or the cause and address of Table 16.10. -/
def dmaEntry (h : Hw) (m : Mem) (list count i : Nat) : (Nat × Nat) ⊕ (Nat × Nat) :=
  let ea := list + 8 * i
  if list % 16 ≠ 0 then .inr (1, list)
  else if count = 0 then .inr (2, list)
  else if !dmaReads ea then .inr (3, ea)
  else match firstUe m ea 8 with
    | some w => .inr (4, w)
    | none =>
      let b := h.spaceBytes m ea 8
      let ad := rd b 0 4
      let ln := rd b 4 4
      if ad % 16 ≠ 0 || ln % 16 ≠ 0 then .inr (1, ea)
      else if ln = 0 then .inr (2, ea)
      else .inl (ad, ln)

/-- One list has ended with bytes left in the other: the entry in use of the longer (R364, Table 16.10). -/
def dmaShort (d : Dma) : Option (Nat × Nat) :=
  let s := d.act
  if d.srcEntry = s.srcCount && s.srcCount != 0 then some (2, s.dst + 8 * d.dstEntry)
  else if d.dstEntry = s.dstCount && s.dstCount != 0 then some (2, s.src + 8 * d.srcEntry)
  else none
/-- The next burst of a channel, once its entries are in use: source, destination and length. -/
def dmaNext (d : Dma) : Option (Nat × Nat × Nat) :=
  match d.srcNow, d.dstNow with
  | some (sa, sl), some (da, dl) => some (sa + d.srcOff, da + d.dstOff, Nat.min 64 (Nat.min (sl - d.srcOff) (dl - d.dstOff)))
  | _, _ => none

namespace Hw

/-- The shadow set and COMMIT as they stood at the start of the present cycle (R366). -/
def dmaStart (h : Hw) (c : Nat) : DmaSet × Bool :=
  let d := h.ch c
  if d.cycle = some h.up then (d.sh0, d.commit0) else (d.sh, d.commit)
/-- COMMIT has been written in the present cycle. -/
def dmaAsked (h : Hw) (d : Dma) : Bool := d.cycle == some h.up && d.asked
/-- The shadow set of the cycle's start handed over whole: the channel runs it from its first entries, bound to the open window, from the
next cycle on; a COMMIT written in this cycle counts for the next hand-over (R366, R369). -/
def dmaHandover (h : Hw) (c : Nat) : Hw :=
  let act := (h.dmaStart c).1
  h.onDma c fun d =>
    { d with act := act, commit := h.dmaAsked d, state := 1, srcEntry := 0, dstEntry := 0, srcOff := 0, dstOff := 0, issued := false
             srcNow := none, dstNow := none, srcNext := 0, flight := [], failing := none, window := h.tim.k, moved := some h.up
             by_ := d.nextBy, nextBy := if h.dmaAsked d then d.nextBy else [] }
/-- The channel enters ERROR once its bursts in flight have completed (R368). -/
def dmaSettle (h : Hw) (c : Nat) : Hw :=
  let d := h.ch c
  match d.failing with
  | some (cause, a) =>
    if d.flight.isEmpty then
      (h.onDma c fun d => { d with state := 2, cause := cause, errAddr := a, failing := none, errors := inc d.errors }).pulse (192 + c)
    else h
  | none => h
/-- A channel meets an error cause (R368): only the first is recorded. -/
def dmaFail (h : Hw) (c : Nat) (e : Nat × Nat) : Hw :=
  (h.onDma c fun d => { d with failing := d.failing.orElse fun _ => some e }).dmaSettle c
/-- The channel waits for a burst: every transfer is bound to a window, so none is made where no window is open (R23). -/
def dmaWaits (h : Hw) (c : Nat) : Bool :=
  let d := h.ch c
  h.tim.open_ && d.state == 1 && d.failing.isNone && !d.issued && decide (d.flight.length < 8) && d.moved != some h.up
/-- The list of the channel has ended (R366); where no window is open a waiting set is handed over in the next one (R23). -/
def dmaListEnd (h : Hw) (c : Nat) : Hw :=
  let h := (h.onDma c fun d => { d with lists := inc d.lists }).pulse (160 + c)
  if (h.dmaStart c).2 && h.tim.open_ then h.dmaHandover c else h.onDma c fun d => { d with state := 0, moved := some h.up }

end Hw

/-- COMMIT written (R366, R367). -/
def execDmaCommit (dt : Nat) (ch : ChId) (s : State) : Host.Outcome State Fault Refusal := ok s dt fun h => h.whenB h.engOn fun h => h.dmaAsk [] ch

/-- RECOVER written (R370). -/
def execDmaRecover (dt : Nat) (ch : ChId) (s : State) : Host.Outcome State Fault Refusal := ok s dt fun h => h.whenB h.engOn fun h => h.dmaLeave ch

/-- A channel that a cycle of an open window finds IDLE at its start, with COMMIT set, hands over without a completion pulse (R23, R366). -/
def execDmaIdleHandover (dt : Nat) (ch : ChId) (s : State) : Host.Outcome State Fault Refusal :=
  ok s dt fun h => 
    h.whenB (h.tim.open_ && (h.ch ch).state == 0 && (h.ch ch).moved != some h.up && (h.dmaStart ch).2) fun h => h.dmaHandover ch

/-- An entry of waiting channel `c` comes into use, if none is: it is read, and an error that it shows is met (R364). -/
def dmaTake (m : Mem) (h : Hw) (c list count i : Nat) (now : Option (Nat × Nat)) (f : Nat × Nat → Dma → Dma) : Hw :=
  h.whenB (now.isNone && h.dmaWaits c) fun h =>
    let h := h.whenB (dmaReadsEntry list count i) fun h => h.noteRead m (list + 8 * i) 8
    match dmaEntry h m list count i with
    | .inr e => h.dmaFail c e
    | .inl x => h.onDma c (f x)
/-- The next entries of waiting channel `c` come into use, or the error that they show is met before any beat of them (R364). -/
def dmaCheck (m : Mem) (h : Hw) (c : Nat) : Hw :=
  if h.dmaWaits c then
    let d := h.ch c
    match dmaShort d with
    | some e => h.dmaFail c e
    | none =>
      let h := dmaTake m h c d.act.src d.act.srcCount d.srcEntry d.srcNow fun x d => { d with srcNow := some x }
      dmaTake m h c d.act.dst d.act.dstCount d.dstEntry d.dstNow fun x d => { d with dstNow := some x }
  else h

/-- The channel that the arbiter grants: highest priority, then the first after the one granted last (R365). -/
def dmaGrant (h : Hw) : Option Nat :=
  let at_ := fun p => (List.range 32).filterMap fun i =>
    let c := (getN h.dmaLast p 31 + 1 + i) % 32
    if h.dmaWaits c && (h.ch c).act.prio == p then some c else none
  ([3, 2, 1, 0].map at_).flatten.head?

/-- One burst issued for channel `c` (R365): its data are read, and the error its response will bring is known (R354, R358). -/
def dmaIssue (m : Mem) (h : Hw) (c : Nat) : Hw :=
  let d := h.ch c
  match dmaNext d with
  | none => h
  | some (sa, da, n) =>
    let err := if !(dmaReads sa && dmaReads (sa + n - 1)) then some (3, sa)
      else match firstUe m sa n with
        | some w => some (4, w)
        | none => if !(dmaWrites da && dmaWrites (da + n - 1)) then some (3, da) else none
    let h := h.whenB (dmaReads sa) fun h => h.noteRead m sa n
    let sEnd := d.srcNow.any fun x => d.srcOff + n == x.2
    let dEnd := d.dstNow.any fun x => d.dstOff + n == x.2
    let h := h.onDma c fun d =>
      let se := if sEnd then d.srcEntry + 1 else d.srcEntry
      let de := if dEnd then d.dstEntry + 1 else d.dstEntry
      { d with flight := d.flight ++ [{ src := sa, dst := da, data := h.spaceBytes m sa n, err := err, srcEntry := d.srcEntry, dstEntry := d.dstEntry }]
               srcNow := if sEnd then none else d.srcNow, dstNow := if dEnd then none else d.dstNow, srcNext := sa + n
               srcEntry := se, dstEntry := de, srcOff := if sEnd then 0 else d.srcOff + n, dstOff := if dEnd then 0 else d.dstOff + n
               issued := se == d.act.srcCount && de == d.act.dstCount }
    { h with dmaLast := updN h.dmaLast d.act.prio fun _ => c, dmaAt := some h.up }

/-- In one cc the arbiter issues at most one burst (R365). Entries that come into use are checked first (R364). -/
def execDmaBurst (dt : Nat) (s : State) : Host.Outcome State Fault Refusal :=
  ok s dt fun h => h.whenB (h.dmaAt != some h.up) fun h =>
    let h := h.each (List.range 32) (dmaCheck s.mem)
    match dmaGrant h with
    | some c => dmaIssue s.mem h c
    | none => h

/-- Bytes written by a burst into the DPD shadow window, word by word (R148), for the quanta that set the list going (R149). -/
def dmaDpd (h : Hw) (by_ : List Nat) (o : Nat) (b : Bytes) : Hw :=
  h.each (List.range (b.length / 4)) fun h i =>
    h.dpdStore by_ ((o + 4 * i) / 0x6000) ((o + 4 * i) % 0x6000 / 4) 0xFFFFFFFF (rd b (4 * i) 4)

/-- The oldest write response of a channel returns (R366, R368). -/
def execDmaResponse (dt : Nat) (ch : ChId) (s : State) : Host.Outcome State Fault Refusal :=
  okM s dt fun h m =>
    match (h.ch ch).flight with
    | [] => (h, m)
    | b :: rest =>
      let h := h.onDma ch fun d => { d with flight := rest }
      let r : Hw × Mem := match b.err with
        | some e => (h.onDma ch fun d => if d.failing.isSome then d else
            { d with failing := some e, srcEntry := b.srcEntry, dstEntry := b.dstEntry }, m)
        | none =>
          let h := h.onDma ch fun d => { d with bytes := cnt 48 d.bytes b.data.length }
          match region b.dst with
          | .dpdShadow o => (dmaDpd h (h.ch ch).by_ o b.data, m)
          | _ => (h.noteMerge m b.dst b.data.length, m.write b.dst b.data)
      let h := r.1.dmaSettle ch
      let d := h.ch ch
      (h.whenB (d.state == 1 && d.failing.isNone && d.issued && d.flight.isEmpty) fun h => h.dmaListEnd ch, r.2)

/-- A channel still RUNNING at the closing tick of its window ends with WINDOW (R369): the first byte not yet issued is recorded. -/
def dmaExpire (m : Mem) (h : Hw) (c : Nat) : Hw :=
  let d := h.ch c
  let a := if d.issued then d.srcNext else match d.srcNow with
    | some (sa, _) => sa + d.srcOff
    | none => match dmaEntry h m d.act.src d.act.srcCount d.srcEntry with
      | .inl (sa, _) => sa
      | .inr e => e.2
  h.whenB (d.state == 1) fun h => h.dmaFail c (5, a)

/-- The closing tick of the window that a channel is bound to has come. -/
def execDmaWindowExpiry (dt : Nat) (ch : ChId) (s : State) : Host.Outcome State Fault Refusal :=
  ok s dt fun h =>
    let d := h.ch ch
    h.whenB (d.window < h.tim.k || !h.tim.open_ || decide (h.tickAt (d.window + 1) ≤ h.tim.c)) fun h => dmaExpire s.mem h ch

end Sys2Proof.Machine
end

