-- ==== Sys2Proof/Machine/Time.lean ====
section
/-! DEFINITION. PTP, the single step, steering, holdover, the transparent clock, TOUT and TCAP (R253 to R277). -/
namespace Sys2Proof.Machine

/-! ### Master selection (R261 to R263) -/

/-- The keys that the G.8275.1 data comparison reads in turn, lower first (Table 12.2; log 22). -/
def masterKeys (m : Master) : List Nat :=
  [m.data.clockClass, m.data.accuracy, m.data.variance, m.data.priority2] ++
    (if m.data.clockClass ≤ 127 then [] else [m.data.grandmaster]) ++ [m.data.stepsRemoved, m.source]
/-- Lexicographic order. -/
def lexLt : List Nat → List Nat → Bool
  | a :: r, b :: t => decide (a < b) || (a == b && lexLt r t)
  | _, _ => false
/-- The better of two masters. -/
def betterOf (a b : Master) : Master := if lexLt (masterKeys b) (masterKeys a) then b else a
/-- A master is qualified: its latest two Announce messages came within four intervals, and it is still heard (R263). -/
def qualified (now : Nat) (m : Master) : Bool :=
  match m.heard with
  | a :: b :: _ => decide (a ≤ b + 4 * m.data.interval) && decide (now ≤ a + 4 * m.data.interval)
  | _ => false
/-- clockIdentity of a MAC address (Table 12.2). -/
def clockId (mac : Nat) : Nat := mac / 2 ^ 24 * 2 ^ 40 + 0xFFFE * 2 ^ 24 + mac % 2 ^ 24

namespace Hw

/-- The local slave may use the frame (R262). -/
def ptpUsable (h : Hw) (m : PtpHdr) : Bool :=
  m.port == 0 && !m.tagged && (m.dst == 0x011B19000000 || m.dst == 0x0180C200000E) && m.version == 2 && m.sdoId == 0 && m.domain == h.image.pkg.ptpDomain
/-- A PTP frame ignored or dropped. -/
def ptpIgnore (h : Hw) (p : PortId) : Hw := h.onTim fun t => { t with ptpIgnored := upd t.ptpIgnored p inc }
/-- A frame that reaches a port: the port has link. -/
def heard (h : Hw) (p : PortId) : Bool := (h.port p).linkUp
/-- The transparent clock passes a frame on; `event` adds the residence time, from pins to pins (R272, R273, R283). -/
def tcForward (h : Hw) (m : PtpHdr) (event : Bool) : Hw :=
  h.whenB (h.tcActive && !m.tagged) fun h =>
    let time : Int := todUnits (m.residence + h.ingressCc m.port + h.egressCc (1 - m.port.val)) + 32768 * (h.lane m.lane).deskew
    let sum := m.correction + if event then time else 0
    let cf := if sum < -(2 ^ 63) ∨ 2 ^ 63 - 1 < sum then 2 ^ 63 - 1 else sum
    let h := h.send (.ptpForward (1 - m.port.val) cf)
    h.whenB event fun h => h.onTim fun t =>
      if m.port = 0 then { t with tcA2b := inc48 t.tcA2b } else { t with tcB2a := inc48 t.tcB2a }
/-- The slave's part of a frame: `f` where it may use it, else the frame is ignored and counted. -/
def ptpFrame (h : Hw) (m : PtpHdr) (event : Bool) (f : Hw → Hw) : Hw :=
  h.whenB (h.heard m.port) fun h => (if h.ptpUsable m then f h else h.ptpIgnore m.port).tcForward m event

/-- A master is selected (R263, R265, R270). -/
def selectMaster (h : Hw) (m : Master) : Hw :=
  let changed := h.tim.selected.isSome
  let back := h.tim.state == 4
  let h := h.whenB changed fun h => h.alarm 0x0205 0 (low32 (m.source / 65536))
  let h := h.ceaseAll 0x0204
  let h := h.onSta fun s => if s.failAlarm = 0x0204 then { s with failed := false, failAlarm := 0 } else s
  let up := h.up
  h.onTim fun t =>
    let t : Tim := { t with
      selected := some m.source, masterId := m.source / 65536, clockClass := m.data.clockClass, stepsRemoved := m.data.stepsRemoved
      utcOffset := m.data.utcOffset, lastAnnounce := up, lastSync := up, waiting := none, latest := none, delayReq := none
      reqSync := none, reqOpen := false, exchange := none, reqInterval := 61440000, holdFrom := none, state := if t.stepped then 3 else 2, syncDst := none
      recovering := t.stepped && (t.recovering || back), acquired := t.stepped && t.acquired }
    if back || !t.stepped then { t with syncs := [], offsets := [], delays := [], syncCount := 0, delayCount := 0, sinceCompare := 0 } else t
/-- The best qualified master is selected where it is not yet (R263). The selected one counts as qualified. -/
def chooseMaster (h : Hw) : Hw :=
  let sel := h.tim.selected
  let cs := h.tim.masters.filter fun m => some m.source == sel || qualified h.up m
  match cs with
  | [] => h
  | a :: r =>
    let b := r.foldl betterOf a
    if some b.source = sel then h else h.selectMaster b

/-! ### Offsets (R264) and steering (R265 to R268) -/

/-- D as the windows give it, ns. -/
def delayNow (t : Tim) : Rat := if t.delays.isEmpty then Config.openRat 0 else meanQ (t.delays.take 16)
/-- |θ| exceeds a whole number of ns. -/
def beyond (theta : Rat) (ns : Nat) : Bool := decide ((ns : Rat) < theta) || decide (theta < -(ns : Rat))
/-- Bounds of a rational. -/
def clampQ (b x : Rat) : Rat := if x < -b then -b else if b < x then b else x
/-- Slope of t2 - t1 - c_s against t1 over Syncs, in 0.001 ppb (R265). -/
def syncSlope (l : List SyncRec) : Rat :=
  let n : Int := l.length
  let sx := sumZ (l.map (·.t1))
  let sy := sumZ (l.map fun s => s.t2 - s.t1 - s.cs)
  let sxx := sumZ (l.map fun s => s.t1 * s.t1)
  let sxy := sumZ (l.map fun s => s.t1 * (s.t2 - s.t1 - s.cs))
  let den := n * sxx - sx * sx
  if den = 0 then Config.openRat 1 else ((n * sxy - sx * sy : Int) : Rat) * 1000000000000 / (den : Rat)
/-- The synthesiser takes a rate, limited to ±50 ppm (R254). -/
def setRate (h : Hw) (asked : Rat) : Hw :=
  let out := beyond asked 50000000
  let was := h.tim.freqLimit
  let h := h.onTim fun t => { t with r := clampQ 50000000 asked, freqLimit := out }
  let h := h.whenB (out && !was) fun h => h.alarm 0x0206 0
  h.whenB (was && !out) fun h => h.cease 0x0206 0
/-- The frequency phase ends (Table 12.4): y and r are set. -/
def acquire (h : Hw) : Hw :=
  let t := h.tim
  if !t.acquired && !t.stepped && t.selected.isSome && 8 ≤ t.syncCount && 8 ≤ t.delayCount then
    let asked := -syncSlope (t.syncs.take 8)
    (h.onTim fun t => { t with acquired := true, stepTheta := meanQ (t.offsets.take 8), y := clampQ 50000000 asked }).setRate asked
  else h
/-- Steering at a Sync after the step (R267). -/
def steer (h : Hw) (interval : Nat) : Hw :=
  let p := clampQ ((h.image.pkg.slewLimit : Rat) * 1000) (-(h.tim.theta) * 250)
  let h := h.onTim fun t => { t with y := clampQ 50000000 (t.y + p * (interval : Rat) / ((16 * Config.fc : Nat) : Rat)) }
  h.setRate (h.tim.y + p)
/-- Tolerance at a Sync after the step (R268) and fine lock (R68). -/
def judgeOffset (h : Hw) : Hw :=
  let out := beyond h.tim.theta h.image.pkg.timeTol
  let was := h.tim.outOfTol
  let h := h.onTim fun t => { t with outOfTol := out }
  let h := h.whenB (out && !was) fun h => h.alarm 0x0208 (clampZ (-32768) 32767 (showRat (h.tim.theta / 10)))
  let h := h.whenB (was && !out) fun h => h.ceaseAll 0x0208
  let up := h.up
  h.onSta fun s =>
    let n := if out then 0 else Nat.min 64 (s.fineRun + 1)
    { s with fineRun := n, fineLock := n == 64, fineAt := if n = 64 && !s.fineLock then some up else s.fineAt }
/-- A Sync of the selected master with its t1 known: o_i, θ, and what follows from them. -/
def syncUse (h : Hw) (s : SyncRec) : Hw :=
  let h := h.onTim fun t =>
    let o : Rat := ((s.t2 - s.t1 - s.cs : Int) : Rat) / 65536 - s.d
    let os := (o :: t.offsets).take 16
    let n := t.syncCount + 1
    let rec16 := t.recovering && !(decide (16 ≤ n) && decide (16 ≤ t.delayCount))
    { t with syncRx := inc48 t.syncRx, latest := some s, waiting := none, syncs := (s :: t.syncs).take 8, offsets := os, syncCount := n
             theta := if rec16 then t.theta else meanQ os, recovering := rec16 }
  if h.tim.stepped then (if h.tim.recovering then h else (h.steer h.tim.syncInterval).judgeOffset) else h.acquire

end Hw

/-- An Announce (R262, R263). -/
def execPtpAnnounce (dt : Nat) (m : PtpHdr) (a : AnnounceData) (s : State) : Host.Outcome State Fault Refusal :=
  ok s dt fun h => h.ptpFrame m false fun h =>
    let up := h.up
    let h := h.onTim fun t0 =>
      let old := (t0.masters.find? fun x => x.source == m.source).map (·.heard)
      let x : Master := { source := m.source, data := a, heard := up :: (old.getD []).take 1 }
      let t : Tim := { t0 with announceRx := inc t0.announceRx, masters := (t0.masters.filter fun x => x.source != m.source) ++ [x] }
      if t.selected = some m.source then
        { t with lastAnnounce := up, clockClass := a.clockClass, stepsRemoved := a.stepsRemoved, utcOffset := a.utcOffset }
      else t
    h.chooseMaster

/-- A Sync (R264): used when it comes from the selected master at an accepted interval. -/
def execPtpSync (dt : Nat) (m : PtpHdr) (twoStep : Bool) (t1 : Int) (interval : Nat) (s : State) :
    Host.Outcome State Fault Refusal :=
  ok s dt fun h => h.ptpFrame m true fun h =>
    h.whenB (h.tim.selected == some m.source && decide (7680000 ≤ interval) && decide (interval ≤ Config.fc)) fun h =>
      let up := h.up
      let t2 := h.atPins m.port m.lane
      let h := h.onTim fun t => { t with lastSync := up, syncInterval := interval, twoStep := twoStep, syncDst := some m.dst }
      let x : SyncRec := { seq := m.seq, t1 := t1, t2 := t2, cs := m.correction, d := Hw.delayNow h.tim }
      if twoStep then h.onTim fun t => { t with waiting := some { x with t1 := 0 } } else h.syncUse x

/-- Path delay steps (R271): the latest 16 exchanges against the 16 before. -/
def delayCompare (h : Hw) : Hw :=
  let t := h.tim
  if t.delays.length = 32 && 32 ≤ t.sinceCompare then
    let d := meanQ (t.delays.take 16) - meanQ (t.delays.drop 16)
    if Hw.beyond d h.image.pkg.delayStepThr then
      (h.onTim fun t => { t with delayStep := showRat d, delaySteps := inc t.delaySteps, sinceCompare := 0 }).alarm 0x0209
        (clampZ (-32767) 32767 (showRat (d / 10)))
    else h
  else h

namespace Hw

/-- An exchange is complete (R264): its Sync with t1 known, and t4 - t3 - c_r. -/
def takeDelay (h : Hw) (y : SyncRec) (back : Int) : Hw :=
  let d : Rat := ((y.t2 - y.t1 - y.cs + back : Int) : Rat) / 131072
  let h := h.onTim fun t =>
    let ds := (d :: t.delays).take 32
    { t with delays := ds, delayCount := t.delayCount + 1, sinceCompare := t.sinceCompare + 1, mpd := meanQ (ds.take 16) }
  (delayCompare h).acquire
/-- The Sync that a Delay_Req sent now is paired with, and whether its t1 is still to come (R264; log 131). -/
def pairSync (t : Tim) : Option SyncRec × Bool := if t.waiting.isSome then (t.waiting, true) else (t.latest, false)

end Hw

/-- A Follow_Up supplies t1 and a correction for its Sync, and for an exchange paired with that Sync (R264; log 131). -/
def execPtpFollowUp (dt : Nat) (m : PtpHdr) (t1 : Int) (s : State) : Host.Outcome State Fault Refusal :=
  ok s dt fun h => h.ptpFrame m false fun h => h.whenB (h.tim.selected == some m.source) fun h =>
    let full := fun (w : SyncRec) => { w with t1 := t1, cs := w.cs + m.correction }
    let h := match h.tim.waiting with
      | some w => h.whenB (w.seq == m.seq) fun h => h.syncUse (full w)
      | none => h
    let h := h.whenB (h.tim.reqOpen && h.tim.reqSync.any fun y => y.seq == m.seq) fun h =>
      h.onTim fun t => { t with reqSync := t.reqSync.map full, reqOpen := false }
    match h.tim.exchange with
    | some (y, back) => h.whenB (y.seq == m.seq) fun h => (h.onTim fun t => { t with exchange := none }).takeDelay (full y) back
    | none => h

/-- A Delay_Resp to the Ezkan's own request completes an exchange, or does so once the Follow_Up of its Sync has come (R264; log 131). -/
def execPtpDelayResp (dt : Nat) (m : PtpHdr) (t4 : Int) (requester interval : Nat) (s : State) : Host.Outcome State Fault Refusal :=
  ok s dt fun h => h.ptpFrame m false fun h =>
    let own := h.ownMac.any fun mac => requester == clockId mac * 65536 + 1
    match h.tim.delayReq, h.tim.reqSync with
    | some (seq, t3), some y =>
      h.whenB (own && seq == m.seq && h.tim.selected == some m.source) fun h =>
        let back := t4 - t3 - m.correction
        let h := h.onTim fun t => { t with delayRespRx := inc48 t.delayRespRx, reqInterval := interval, delayReq := none }
        if h.tim.reqOpen then h.onTim fun t => { t with exchange := some (y, back), reqOpen := false } else h.takeDelay y back
    | _, _ => h

/-- A Delay_Req of another clock (R272): the own slave has no use for it. -/
def execPtpDelayReqRx (dt : Nat) (m : PtpHdr) (s : State) : Host.Outcome State Fault Refusal :=
  ok s dt fun h => h.whenB (h.heard m.port) fun h => (h.ptpIgnore m.port).tcForward m true

/-- The Delay_Req interval has expired: a Delay_Req leaves port A, to the address on which the selected master's Sync arrives (R263); while
none has arrived there is no address, and no Sync to pair the exchange with (log 107). t3 is referred to the lane pins (R283). -/
def execDelayReqSend (dt : Nat) (s : State) : Host.Outcome State Fault Refusal :=
  ok s dt fun h => h.whenB (h.tim.selected.isSome && h.tim.syncDst.isSome && decide (h.tim.reqAt + h.tim.reqInterval ≤ h.up)) fun h =>
    let n := h.tim.reqSeq
    let t3 : Int := h.now + todUnits (h.egressCc 0)
    let up := h.up
    (h.onTim fun t => { t with delayReq := some (n, t3), reqSync := (Hw.pairSync t).1, reqOpen := (Hw.pairSync t).2, reqAt := up
                               reqSeq := (n + 1) % 65536, delayReqTx := inc48 t.delayReqTx }).send (.delayReq (h.tim.syncDst.getD 0) n t3)

/-- Three Announce intervals or 1 s have passed without the selected master: holdover (R269). -/
def execMasterLoss (dt : Nat) (s : State) : Host.Outcome State Fault Refusal :=
  ok s dt fun h =>
    let iv := ((h.tim.masters.find? fun m => some m.source == h.tim.selected).map (·.data.interval)).getD 0
    h.whenB (h.tim.selected.isSome &&
        (decide (h.tim.lastAnnounce + 3 * iv ≤ h.up) || decide (h.tim.lastSync + Config.fc ≤ h.up))) fun h =>
      let up := h.up
      let h := h.onTim fun t => { t with
        masters := t.masters.filter fun m => some m.source != t.selected
        selected := none, state := 4, waiting := none, delayReq := none, reqOpen := false, exchange := none, holdFrom := some up, holdoverS := 0, losses := inc t.losses }
      (h.setRate h.tim.y).alarm 0x0204 0

/-- No qualified Announce within 10 s of S6 entry (Table 3.7): S6 is held. -/
def execPtpNoMasterTimeout (dt : Nat) (s : State) : Host.Outcome State Fault Refusal :=
  ok s dt fun h =>
    let due := match getN h.sta.entry 6 none with
      | some e => decide (e + 10000000 ≤ usOf h.up)
      | none => false
    h.whenB (h.sta.stage == 6 && h.tim.state ≤ 1 && due) fun h => h.holdStage 0x0204 0

/-! ### The step (R266) -/

/-- First tick of the new grid at or after C = c. -/
def firstTick (scs c : Nat) : Nat :=
  let w := ticksPerHalf scs
  let hs := c / 491520
  let r := c % 491520
  if r = 0 then w * hs else if r ≤ longLen scs then w * hs + 1 else w * hs + 1 + ceilDiv (r - longLen scs) (normalLen scs)
/-- Number of the first rising edge of a TOUT record after a time in 2^-16 ns, and whether a MODE 0 pin has missed it (R276). -/
def toutFirst (t : Tout) (u : Nat) : Nat × Bool :=
  let s := (t.startS * 1000000000 + t.startNs) * 65536
  if t.mode = 0 then (if u < s then (0, false) else (1, true))
  else if u < s then (0, false) else ((u - s) / (Nat.max 1 t.periodNs * 65536) + 1, false)

namespace Hw

/-- The index of the next tick: the one after the open window's, or the first of a grid. -/
def nextTick (h : Hw) : Nat :=
  if h.tim.open_ then h.tim.k + 1 else if h.tim.stepped then firstTick h.scs h.tim.c else 0
/-- C goes on to the next tick. -/
def toTick (h : Hw) : Hw :=
  let c := h.tickAt h.nextTick
  h.elapse (c - h.tim.c)
/-- Every armed comparator cleared without firing (R260). -/
def clearCmps (h : Hw) : Hw :=
  h.onPaths fun _ p => if p.cmp.armed then { p with cmp := { p.cmp with armed := false, clearedByStep := true } } else p
/-- The offset θ subtracted from C (R266). Times already taken move with it (log 23). -/
def applyStep (h : Hw) : Hw :=
  let theta := h.tim.stepTheta
  let n := cround (theta.num * 98304) (theta.den * 100000)
  let c := ((h.tim.c : Int) - n).toNat
  let ns : Rat := (n : Rat) * 100000 / 98304
  let u : Int := (todUnits c : Int) - todUnits h.tim.c
  let h := h.clearCmps
  let first := firstTick h.scs c
  let mv := fun (x : SyncRec) => { x with t2 := x.t2 + u }
  let h := h.onTim fun t => { t with
    c := c, open_ := false, k := first - 1, stepped := true, stepSize := showRat ns, stepTick := low32 first, state := 3
    theta := t.theta - ns, offsets := t.offsets.map (· - ns), waiting := t.waiting.map mv, latest := t.latest.map mv, reqSync := t.reqSync.map mv
    delayReq := t.delayReq.map fun x => (x.1, x.2 + u), exchange := t.exchange.map fun x => (mv x.1, x.2 - u) }
  let h := h.onTrl fun t => { t with tripHot := t.tripHot || t.trip }
  let h := h.each h.image.touts fun h x => h.onTim fun t =>
    let f := toutFirst x (todUnits c)
    { t with toutNext := updN t.toutNext x.pin fun _ => f.1, toutMissed := updN t.toutMissed x.pin fun _ => f.2 }
  h.alarm 0x0207 (clampZ (-32768) 32767 (showRat (ns / 1000))) (low32 first)

end Hw

/-! ### TOUT and TCAP (R276, R277) -/

/-- The DAC clock edge nearest a time in half ns, in twelfths of a cc (R276). -/
def dacEdge (ns2 : Nat) : Nat := (ns2 * 98304 * 24 + 200000) / 400000
/-- A DAC clock edge lies before the end of the cc that C names. -/
def reached (c n : Nat) : Bool := decide (n < 12 * (c + 1))
/-- Start of a record in ns. -/
def toutStart (t : Tout) : Nat := t.startS * 1000000000 + t.startNs

/-- A pin rises at its next programmed time (R276). -/
def execToutRise (dt : Nat) (i : Fin 8) (s : State) : Host.Outcome State Fault Refusal :=
  ok s dt fun h =>
    let n := h.tim.toutNext[i]
    match h.image.touts.find? fun t => t.pin == i.val with
    | some t =>
      let e := dacEdge (2 * (toutStart t + n * t.periodNs))
      h.whenB (h.tim.stepped && reached h.tim.c e && (t.mode != 0 || n == 0)) fun h =>
        h.onTim fun x => { x with toutAt := upd x.toutAt i fun _ => e, toutLevel := upd x.toutLevel i fun _ => true, toutNext := upd x.toutNext i fun n => n + 1 }
    | none => h

/-- A pin falls after its width (R276). -/
def execToutFall (dt : Nat) (i : Fin 8) (s : State) : Host.Outcome State Fault Refusal :=
  ok s dt fun h =>
    let n := h.tim.toutNext[i]
    match h.image.touts.find? fun t => t.pin == i.val with
    | some t =>
      let w2 := if t.mode = 0 then 200000 else Nat.min t.periodNs 200000
      let e := dacEdge (2 * (toutStart t + (n - 1) * t.periodNs) + w2)
      h.whenB (h.tim.toutLevel[i] && reached h.tim.c e) fun h =>
        h.onTim fun x => { x with toutAt := upd x.toutAt i fun _ => e, toutLevel := upd x.toutLevel i fun _ => false }
    | none => h

/-- A rising edge on TCAP[i], `part` twelfths of a cc into the present one (R277). -/
def execTcapEdge (dt : Nat) (i : Fin 2) (part : Fin 12) (s : State) : Host.Outcome State Fault Refusal :=
  ok s dt fun h => h.whenB h.tim.stepped fun h =>
    let at_ := 12 * h.tim.c + part.val
    if h.tim.tcapAny[i] && decide ((at_ - h.tim.tcapC[i]) * 1000 < 1179648) then
      h.onTim fun t => { t with tcapMissed := upd t.tcapMissed i inc }
    else
      let u := todTwelfths at_
      (h.onTim fun t =>
        let j := (t.tcapLast[i] + 1) % 16
        { t with tcap := upd t.tcap i fun r => updN r j fun _ => u
                 tcapLast := upd t.tcapLast i fun _ => j, tcapAny := upd t.tcapAny i fun _ => true, tcapC := upd t.tcapC i fun _ => at_ }).pulse (48 + i.val)

end Sys2Proof.Machine
end

