-- ==== Sys2Proof/Machine/Frame.lean ====
section
/-! DEFINITION. The octets of a received frame (R10, R180, R182, R191, R192, R272): Ethernet, the eCPRI common header and PTP in network
byte order, the Thaod section header and its records little-endian. -/
namespace Sys2Proof

/-- `w` octets from octet `o` on, in network byte order (R10). -/
def netAt (b : Bytes) (o w : Nat) : Nat := Machine.unle ((b.drop o).take w).reverse

namespace RxFrame

/-- Destination address. -/
def dst (f : RxFrame) : Nat := netAt f.octets 0 6
/-- Source address. -/
def src (f : RxFrame) : Nat := netAt f.octets 6 6
/-- 802.1Q tags (TPID 0x8100): none, one, or two and more. -/
def tags (f : RxFrame) : Nat := if netAt f.octets 12 2 ≠ 0x8100 then 0 else if netAt f.octets 16 2 ≠ 0x8100 then 1 else 2
/-- Tag control information of the only tag. -/
def tci (f : RxFrame) : Option Nat := if f.tags = 0 then none else some (netAt f.octets 14 2)
/-- EtherType. -/
def etherType (f : RxFrame) : Nat := netAt f.octets (12 + 4 * f.tags) 2
/-- Length from destination address to frame check sequence. -/
def len (f : RxFrame) : Nat := f.octets.length
/-- What stands between the EtherType and the frame check sequence. -/
def body (f : RxFrame) : Bytes := (f.octets.take (f.len - 4)).drop (14 + 4 * f.tags)
/-- The frame check sequence holds: CRC-32 of IEEE 802.3, its octets least significant first (PRESUMED, log 103). -/
def fcsOk (f : RxFrame) : Bool := Machine.rd f.octets (f.len - 4) 4 == Machine.crc32 (f.octets.take (f.len - 4))
/-- messageType of a PTP frame (IEEE 1588). -/
def ptpType (f : RxFrame) : Nat := netAt f.body 0 1 % 16

end RxFrame

namespace Machine

/-- A group address: bit 0 of the first octet. -/
def isGroup (mac : Nat) : Bool := mac / 2 ^ 40 % 2 == 1

/-- TYPE, LENGTH and, for a SECTION, COUNT of the records in some bytes, up to one whose LENGTH leads nowhere. -/
def parseRecs : Nat → Bytes → List (Nat × Nat × Nat)
  | 0, _ => []
  | n + 1, b =>
    if b.length < 4 then []
    else
      let t := rd b 0 1
      let l := rd b 2 2
      (t, l, if t = 0x10 then rd b 6 2 else 0) :: if l < 4 then [] else parseRecs n (b.drop l)

/-- The headers of the eCPRI message in a frame (Tables 9.1, 9.5; R192). -/
def parseMsg (p : PortId) (f : RxFrame) : MsgHdr :=
  let b := f.body
  let size := netAt b 2 2
  let b0 := netAt b 0 1
  { port := p, src := f.src, vlan := f.tci, revision := b0 / 16, reserved := b0 / 2 % 8, concat := b0 % 2 == 1, msgType := netAt b 1 1
    size := size, avail := b.length - 4, pcId := netAt b 4 2, seq := netAt b 6 1, seqE := netAt b 7 1, flowId := rd b 8 1, epoch := rd b 9 1
    flags := rd b 10 1, records := rd b 11 1, target32 := rd b 12 4, layout := parseRecs 65 ((b.take (4 + size)).drop 16) }

/-- The first record of a type 0 or 2 message is of a type of Table 1.8, on a message type that carries it: its own row judges the
message. -/
def rowOpens (m : MsgHdr) : Bool := m.layout.head?.any fun r => if r.1 = 0x10 then true else m.msgType == 2 && (Hw.recLength r.1 0).isSome

namespace Hw

/-- An eCPRI message to the package's own address that is refused here: one of type 0 or 2 that no record's row judges (R182, R191, R192,
R201; MODE_FORBIDS before slot 7 is announced, R66), and one of types 4 to 7 with a bad common header (R182). -/
def takeMsg (h : Hw) (m : MsgHdr) : Hw :=
  if m.msgType = 0 ∨ m.msgType = 2 then
    if rowOpens m then h else if h.announced7 then h.openMsg m 0 else h.refuseMsg m 10 0xFF 0xFFFF
  else h.whenB (decide (4 ≤ m.msgType) && decide (m.msgType ≤ 7) && !commonOk m) fun h => h.refuseOther m.src m.vlan 8

/-- A PTP frame as it arrives (R180, R262, R272): Sync, Delay_Req, Follow_Up, Delay_Resp and Announce have rows of their own; any other is
ignored and counted, and signalling and management pass through an active transparent clock. -/
def takePtp (h : Hw) (p : PortId) (f : RxFrame) (good : Bool) : Hw :=
  let t := f.ptpType
  let known := [0, 1, 8, 9, 0xB].contains t
  let pass := h.tcActive && f.tags == 0 && (known || t == 0xC || t == 0xD)
  if !pass && !good then h.onFhl fun x => { x with fcsBad := upd x.fcsBad p inc }
  else if !pass && decide (9216 < f.len) then h.onFhl fun x => { x with oversize := upd x.oversize p inc }
  else if !h.tcActive && decide (1 < f.tags) then h.onFhl fun x => { x with otherDropped := upd x.otherDropped p inc }
  else if known then h
  else (h.ptpIgnore p).whenB pass fun h => h.send (.forward (1 - p.val) f.octets)

end Hw

/-- An Ethernet frame ends at a port (R180, R210), or is cut by the loss of the link (R298). The PTP frames and eCPRI messages that pass
go to their handlers, whose happenings are rows of their own. -/
def execFrameRx (dt : Nat) (p : PortId) (f : RxFrame) (s : State) : Host.Outcome State Fault Refusal :=
  ok s dt fun h => h.whenB (5 ≤ h.sta.stage && ((h.port p).linkUp || (h.port p).errored)) fun h =>
    let good := f.fcsOk && !f.errorBlock && f.fifoParity == 0 && !(h.port p).errored
    let judged := (h.port p).judged
    let h := (h.onPort p fun x => { x with errored := false, judged := false }).fifoError p f.fifoParity
    if f.len < 64 then h.onFhl fun x => { x with undersize := upd x.undersize p inc }
    else
      let h := h.onFhl fun x => { x with rxFrames := upd x.rxFrames p inc48 }
      if f.etherType = 0x88F7 then h.takePtp p f good
      else if h.fwdOn && p == 1 then (h.onFhl fun x => { x with fwdB2a := inc48 x.fwdB2a }).send (.forward 0 f.octets)
      else if h.fwdOn && h.ownMac != some f.dst then
        if isGroup f.dst then h.onFhl fun x => { x with otherDropped := upd x.otherDropped p inc }
        else if !(h.port 1).linkUp then h.onFhl fun x => { x with fwdDrop := inc x.fwdDrop }
        else (h.onFhl fun x => { x with fwdA2b := inc48 x.fwdA2b }).send (.forward 1 f.octets)
      else if !good then (if judged then h else h.onFhl fun x => { x with fcsBad := upd x.fcsBad p inc })
      else if 9216 < f.len then h.onFhl fun x => { x with oversize := upd x.oversize p inc }
      else if f.etherType ≠ 0xAEFE ∨ 1 < f.tags then h.onFhl fun x => { x with otherDropped := upd x.otherDropped p inc }
      else h.whenB (h.ownMac == some f.dst) fun h => h.takeMsg (parseMsg p f)

end Machine
end Sys2Proof
end

