-- ==== Sys2Proof/Machine/Lanes.lean ====
section
/-! DEFINITION. Serial lanes and Ethernet ports (R280 to R299). -/
namespace Sys2Proof.Machine
namespace Hw

/-- Port p has TYPE 1 or 2 and its lanes run: from S5 on (R285, R287). -/
def portOn (h : Hw) (p : Nat) : Bool := 5 ≤ h.sta.stage && (h.portType p == 1 || h.portType p == 2)
/-- FEC is on at port p (R281). -/
def fecOn (h : Hw) (p : Nat) : Bool := h.portType p == 2 || bit (h.portCfg p) 2
/-- Drift threshold of a port (Table 13.1). -/
def driftThr (h : Hw) (p : Nat) : Int := 4 * 2 ^ bits (h.portCfg p) 6 2
/-- The lanes of a port. -/
def lanesOf (h : Hw) (p : Nat) : List Lane := (List.range 4).map fun i => h.lane (4 * p + i)
/-- The lane numbers found at a port. -/
def numbers (h : Hw) (p : Nat) : List Nat := (h.lanesOf p).filterMap fun l => if l.step == 5 then l.number else none
/-- Largest and smallest arrival among the lanes whose markers are found (R289). -/
def skews (h : Hw) (p : Nat) : List Nat := ((h.lanesOf p).filter fun l => l.step == 5).map (·.skew)
/-- A repeated lane number, one of another port type, or more than 64 ns of skew (R289). -/
def orderBad (h : Hw) (p : Nat) : Bool :=
  let ns := h.numbers p
  let ks := h.skews p
  decide (ns.eraseDups.length < ns.length) || ns.any (4 ≤ ·) || ks.any fun a => ks.any fun b => decide (a + 128 < b)
/-- REMOTE_FAULT and LANE_REMOTE_FAULT (R286). -/
def remoteFault (h : Hw) (p : Nat) (on : Bool) : Hw :=
  let was := (h.port p).remoteFault
  let h := h.onPort p fun x => { x with remoteFault := on }
  let h := h.whenB on fun h => h.alarm 0x0305 p
  h.whenB (was && !on) fun h => h.cease 0x0305 p
/-- What follows from the lanes' steps: deskew, alignment and the order fault (R289, R290). A PCS without alignment gives its
reconciliation sublayer Local Fault, and nothing else reaches it then (PRESUMED from IEEE 802.3; log 89). -/
def portRefresh (h : Hw) (p : Nat) : Hw :=
  let bad := h.orderBad p
  let top := (h.skews p).foldl Nat.max 0
  let h := h.each (List.range 4) fun h i => h.onLane (4 * p + i) fun l =>
    { l with deskew := if l.step = 5 then Nat.min 128 (top - l.skew) else 0 }
  let was := (h.port p).orderFault
  let al := (h.numbers p).length == 4 && !bad
  let h := h.onPort p fun x => { x with orderFault := bad, aligned := al, localFault := !al }
  let h := h.whenB (!al && (h.port p).remoteFault) fun h => h.remoteFault p false
  let h := h.whenB (bad && !was) fun h => h.alarm 0x0306 p
  h.whenB (was && !bad) fun h => h.cease 0x0306 p
/-- A CTLE setting and 12 taps, each on its scale: 0 to 31, and -64 to +63 (R291). -/
def setEq (l : Lane) (ctle : Nat) (tap : Nat → Int) : Lane :=
  { l with ctle := Nat.min 31 ctle, taps := (List.range 12).map fun j => clampZ (-64) 63 (tap j) }
/-- The start values of the equaliser (Table 13.5, step 2). -/
def startEq (l : Lane) : Lane := setEq l Config.ctleStart Config.tapStart
/-- What the adaptation has reached. -/
def adaptedEq (l : Lane) (m : EyeMeas) : Lane := setEq l m.ctle fun j => m.taps.getD j 0
/-- The whole snapshot, or the start values (R293, R299). -/
def snapEq (l : Lane) : Lane := if l.snapValid then { l with ctle := l.snapCtle, taps := l.snapTaps } else startEq l
/-- A lane returns to step 1: the steps below it are undone and it has no snapshot (R287, R288, R292). -/
def laneDown (h : Hw) (l : Nat) : Hw :=
  let frozen := (h.lane l).adapt = 3
  let h := h.onLane l fun x =>
    { startEq x with step := 1, adapt := 0, snapValid := false, number := none, inverted := false, ehMax := 0, acts := [] }
  h.whenB frozen fun h => h.cease 0x0308 l
/-- A lane of a port that lost link restarts at step 3 (R299). -/
def laneStep3 (h : Hw) (l : Nat) : Hw :=
  let frozen := (h.lane l).adapt = 3
  let h := h.onLane l fun x => { snapEq x with step := 3, adapt := 1, number := none }
  h.whenB frozen fun h => h.cease 0x0308 l

/-! ### The transmit side (R281, R285, R286) -/

/-- The transmit equaliser that FFE_PRESET selects: pre-cursor, main and post-cursor, hundredths of the peak swing (Table 13.4). -/
def ffe (preset : Nat) : Int × Int × Int := [(0, 100, 0), (-5, 85, -10), (-10, 75, -15), (-5, 70, -25)].getD preset (0, 100, 0)
/-- FFE_PRESET of a port (Table 13.1). -/
def ffePreset (h : Hw) (p : Nat) : Nat := bits (h.portCfg p) 4 2
/-- The PCS or FEC lanes that a PMA lane of a port carries (R285): of the 20 PCS lanes of TYPE 1 five in order, of its 4 FEC lanes one, of
the 8 PCS lanes of TYPE 2 two. The first two are PRESUMED from IEEE 802.3 (log 125), the third is the worked example of R290. -/
def txLanes (h : Hw) (p i : Nat) : List Nat :=
  let n := if h.portType p = 2 then 2 else if h.fecOn p then 1 else 5
  (List.range n).map (n * i + ·)
/-- The level sent for each level of a symbol, from 0 up: NRZ has two, PAM4 four, and inversion turns their order round (R285). -/
def txLevels (pam4 inv : Bool) : List Nat :=
  let l := List.range (if pam4 then 4 else 2)
  if inv then l.reverse else l
/-- What a transmitter puts on its LTX pins: its lanes of the PCS stream, inverted where TX_POLARITY says so and equalised; Remote Fault
ordered sets in its gaps while its receiver sees local fault or has no link. -/
structure LaneTx where
  lanes : List Nat
  inverted : Bool
  levels : List Nat
  ffe : Int × Int × Int
  remoteFault : Bool
  deriving DecidableEq, Repr
/-- The transmitter of package lane l; `none` is electrical idle (R281, Table 3.3). -/
def laneTx (h : Hw) (l : Nat) : Option LaneTx :=
  let p := l / 4
  if h.portOn p then
    let inv := bit h.image.pkg.txPolarity l
    some { lanes := h.txLanes p (l % 4), inverted := inv, levels := txLevels (h.portType p == 2) inv, ffe := ffe (h.ffePreset p)
           remoteFault := (h.port p).localFault || !(h.port p).linkUp }
  else none

end Hw

/-- Step 1 done: signal above the detect level for 100 µs; CTLE and DFE take their start values (Table 13.5). -/
def execLaneSignalDetect (dt : Nat) (l : LaneId) (s : State) : Host.Outcome State Fault Refusal :=
  ok s dt fun h => h.whenB (h.portOn (l.val / 4) && (h.lane l).step == 1) fun h => h.onLane l fun x => { Hw.startEq x with step := 2 }

/-- Step 2 done: frequency within 300 ppm and phase locked; coarse adaptation begins (Table 13.5). -/
def execLaneCdrLock (dt : Nat) (l : LaneId) (s : State) : Host.Outcome State Fault Refusal :=
  ok s dt fun h => h.whenB (h.portOn (l.val / 4) && (h.lane l).step == 2) fun h => h.onLane l fun x => { x with step := 3, adapt := 1 }

/-- Lock level of step 3 in mV (R295). -/
def lockLevel (type : Nat) : Nat := if type = 2 then 20 else 40

/-- Step 3 done: the eye height is at or above the lock level; the marker search begins without inversion (R288, R295). A frozen
equaliser stays at its snapshot (R294). -/
def execLaneCoarseDone (dt : Nat) (l : LaneId) (m : EyeMeas) (s : State) : Host.Outcome State Fault Refusal :=
  ok s dt fun h =>
    h.whenB (h.portOn (l.val / 4) && (h.lane l).step == 3 && decide (lockLevel (h.portType (l.val / 4)) ≤ m.eh)) fun h =>
      h.onLane l fun x =>
        let x := { x with step := 4, inverted := false, ew := m.ew, eh := m.eh, ehMax := 0 }
        if x.adapt = 3 then x else { Hw.adaptedEq x m with adapt := 2 }

/-- Step 4 done: three consecutive markers valid for one lane number (R288, R289). -/
def execLaneMarkerFound (dt : Nat) (l : LaneId) (number skew : Nat) (s : State) : Host.Outcome State Fault Refusal :=
  ok s dt fun h => h.whenB (h.portOn (l.val / 4) && (h.lane l).step == 4) fun h =>
    (h.onLane l fun x => { x with step := 5, number := some number, skew := skew }).portRefresh (l.val / 4)

/-- Four marker periods without a marker: the lane is inverted (R288). -/
def execLanePolarityTimeout (dt : Nat) (l : LaneId) (s : State) : Host.Outcome State Fault Refusal :=
  ok s dt fun h => h.whenB (h.portOn (l.val / 4) && (h.lane l).step == 4) fun h =>
    h.onLane l fun x => { x with inverted := !x.inverted, polTries := inc x.polTries }

/-- A lane of a port without link loses signal or lock and returns to step 1 (R287). On a port with link this is the command of R298. -/
def execLaneConditionLost (dt : Nat) (l : LaneId) (s : State) : Host.Outcome State Fault Refusal :=
  ok s dt fun h => h.whenB (h.portOn (l.val / 4) && !(h.port (l.val / 4)).linkUp && decide (2 ≤ (h.lane l).step)) fun h =>
    (h.laneDown l).portRefresh (l.val / 4)

/-- State alarms still raised when port A first gets link are sent then (R401). -/
def sendRaised (h : Hw) : Hw :=
  h.each h.lko.raised fun h k =>
    let sent := h.alarmDst.isSome && decide (h.fhl.queue.length < 256)
    match h.lko.log.find? fun e => e.code == k.1 && e.arg == k.2 && !e.cease with
    | some e =>
      let h := h.sendAlarm { code := k.1, arg := k.2, extra := e.extra }
      { h with lko := { h.lko with log := h.lko.log.map fun x => if x = e then { x with sent := sent } else x } }
    | none => h.sendAlarm { code := k.1, arg := k.2 }

/-- A port has link (R290): the loss before it ceases, and for port A stage S5 exits (Table 3.1). -/
def execLaneLinkUp (dt : Nat) (p : PortId) (s : State) : Host.Outcome State Fault Refusal :=
  ok s dt fun h =>
    let x := h.port p
    h.whenB (h.portOn p && x.aligned && !x.linkUp) fun h =>
      let h := h.onPort p fun x => { x with
        linkUp := true, localFault := false, errored := false, judged := false, restarted := false, downAt := none, rclk := p.val == 0
        linkTime := match x.downAt with
          | some c => usOf (h.up - c)
          | none => x.linkTime }
      let h := h.alarm 0x0302 p
      let h := h.whenB (x.downAt.isSome) fun h => h.cease 0x0303 (p.val * 256 + x.downCause)
      h.whenB (p.val == 0) fun h =>
        let h := h.cease 0x0301 0
        let h := h.whenB (!h.sta.firstLink) fun h => (sendRaised h).onSta fun t => { t with firstLink := true }
        h.whenB (h.sta.stage == 5) fun h => (h.enterStage 6).onTim fun t => { t with state := if t.state = 0 then 1 else t.state }

/-- A port loses link; `lost` names the lanes that return to step 1 (R298, R299). -/
def Hw.linkDown (h : Hw) (p : PortId) (cause : Nat) (lost : List LaneId) : Hw :=
  let h := h.onPort p fun x => { x with
    linkUp := false, downCause := cause, downAt := some h.up, restarted := false, linkDowns := inc x.linkDowns
    errored := true, rclk := false }
  let h := h.remoteFault p false
  let h := h.alarm 0x0303 (p.val * 256 + cause)
  let h := h.each (List.range 4) fun h i =>
    let l := 4 * p.val + i
    if lost.any fun k => k.val == l then h.laneDown l else if 3 ≤ (h.lane l).step then h.laneStep3 l else h
  h.portRefresh p

/-- A port loses link on a condition of Table 13.6; `lost` names the lanes that lost signal or lock (R298, R299). -/
def execLaneLinkDown (dt : Nat) (p : PortId) (cause : Nat) (lost : List LaneId) (s : State) : Host.Outcome State Fault Refusal :=
  ok s dt fun h => h.whenB ((h.port p).linkUp && decide (1 ≤ cause) && decide (cause ≤ 5)) fun h => h.linkDown p cause lost

/-- After 10 ms without link every lane of the port restarts at step 1 (R299). -/
def execLinkDownRestart (dt : Nat) (p : PortId) (s : State) : Host.Outcome State Fault Refusal :=
  ok s dt fun h =>
    let x := h.port p
    h.whenB (!x.linkUp && !x.restarted && x.downAt.any fun c => decide (c + 9830400 ≤ h.up)) fun h =>
      let h := h.onPort p fun x => { x with restarted := true }
      (h.each (List.range 4) fun h i => h.laneDown (4 * p.val + i)).portRefresh p

/-- The equaliser at the end of an interval stands at a rail, or a tap moved past the threshold while the eye fell (R293). -/
def guardActs (thr : Int) (x : Lane) (m : EyeMeas) : Bool :=
  m.ctle == 0 || m.ctle == 31 || m.taps.any (fun t => t == -64 || t == 63) ||
    (decide (m.eh < x.eh) && (List.range 12).any fun i =>
      let d := m.taps.getD i 0 - x.taps.getD i 0
      decide (thr < d) || decide (thr < -d))

/-- A lane past step 3 whose eye falls below the lock level returns to step 1, which prevails over the guard (R287, R293, R295); a port with
link then loses it for want of alignment (DEDUCED, log 126). -/
def Hw.eyeLost (h : Hw) (l : LaneId) (m : EyeMeas) : Hw :=
  let p := l.val / 4
  let h := h.onLane l fun x => { x with ew := m.ew, eh := m.eh }
  if (h.port p).linkUp then h.linkDown (Fin.ofNat 2 p) 3 [l] else (h.laneDown l).portRefresh p

/-- The end of a 1 ms interval: the eye, the drift guard, and the snapshot where the guard did not act (R292 to R295). -/
def execLaneEyeInterval (dt : Nat) (l : LaneId) (m : EyeMeas) (s : State) : Host.Outcome State Fault Refusal :=
  ok s dt fun h =>
    let p := l.val / 4
    let x := h.lane l
    h.whenB (h.portOn p && decide (1 ≤ x.step)) fun h =>
      if 4 ≤ x.step ∧ m.eh < lockLevel (h.portType p) then h.eyeLost l m else
      let frozen := x.adapt == 3
      let m := if frozen then { m with ctle := x.ctle, taps := x.taps } else
        { m with ctle := (Hw.adaptedEq x m).ctle, taps := (Hw.adaptedEq x m).taps }
      let acts := decide (3 ≤ x.step) && !frozen && guardActs (h.driftThr p) x m
      let h := h.onLane l fun x =>
        let x := { x with ew := m.ew, eh := m.eh, ehMax := if 4 ≤ x.step then Nat.max x.ehMax m.eh else x.ehMax }
        if x.step < 3 then x
        else if acts then Hw.snapEq x
        else
          let x := { x with ctle := m.ctle, taps := m.taps }
          if 4 ≤ x.step ∧ 3 * x.ehMax ≤ 4 * x.eh then
            { x with snapValid := true, snapCtle := x.ctle, snapTaps := x.taps, ehSnap := x.eh }
          else x
      h.whenB acts fun h =>
        let recent := (h.up :: x.acts).filter fun c => decide (h.up < c + Config.fc)
        let h := h.onLane l fun x => { x with reverts := inc x.reverts, acts := recent }
        let h := h.alarm 0x0307 l
        h.whenB (decide (4 ≤ recent.length)) fun h => (h.onLane l fun x => { x with adapt := 3 }).alarm 0x0308 l

/-- The 1 s freeze ends (R294). -/
def execLaneFreezeEnd (dt : Nat) (l : LaneId) (s : State) : Host.Outcome State Fault Refusal :=
  ok s dt fun h =>
    let x := h.lane l
    h.whenB (x.adapt == 3 && x.acts.head?.any fun c => decide (c + Config.fc ≤ h.up)) fun h =>
      (h.onLane l fun x => { x with adapt := if x.step = 3 then 1 else 2, acts := [] }).cease 0x0308 l

/-- An uncorrectable codeword (R284). The frames that touch a block it carried say so when they arrive (RxFrame.errorBlock). -/
def execFecUncorrectable (dt : Nat) (p : PortId) (s : State) : Host.Outcome State Fault Refusal :=
  ok s dt fun h => h.whenB (h.portOn p && h.fecOn p) fun h =>
    h.onPort p fun x => { x with uncorrCw := inc x.uncorrCw, uncorrNow := true, lastUncorr := h.up }

/-- The end of a 10 ms interval (R284): counts of the decoder, or BIP errors per lane without FEC; LANE_FEC_DEGRADED. -/
def execFecIntervalEnd (dt : Nat) (p : PortId) (corrected : Nat) (symbols : List (LaneId × Nat)) (s : State) :
    Host.Outcome State Fault Refusal :=
  ok s dt fun h => h.whenB (h.portOn p) fun h =>
    let own := symbols.filter fun x => x.1.val / 4 == p.val
    if h.fecOn p then
      let bad := (h.port p).uncorrNow
      let h := h.onPort p fun x => { x with corrCw := cnt 48 x.corrCw corrected, uncorrNow := false, fecDegraded := x.fecDegraded || bad }
      let h := h.each own fun h x => h.onLane x.1 fun l => { l with symbols := cnt 48 l.symbols x.2 }
      h.whenB bad fun h => h.alarm 0x0304 p
    else h.each own fun h x => h.onLane x.1 fun l => { l with bip := cnt 32 l.bip x.2 }

/-- 1 s without an uncorrectable codeword (R284). -/
def execFecDegradedCease (dt : Nat) (p : PortId) (s : State) : Host.Outcome State Fault Refusal :=
  ok s dt fun h => h.whenB ((h.port p).fecDegraded && decide ((h.port p).lastUncorr + Config.fc ≤ h.up)) fun h =>
    (h.onPort p fun x => { x with fecDegraded := false }).cease 0x0304 p

/-- Remote Fault begins to be received, or is received no longer (R286, Table 13.7; log 38). -/
def execRemoteFaultRx (dt : Nat) (p : PortId) (on : Bool) (s : State) : Host.Outcome State Fault Refusal :=
  ok s dt fun h => h.whenB (h.portOn p && (h.port p).aligned) fun h => h.remoteFault p on

/-- Above 20 blocks a whole idle block between frames is deleted (R296). -/
def execIdleDelete (dt : Nat) (p : PortId) (fill : Nat) (s : State) : Host.Outcome State Fault Refusal :=
  ok s dt fun h => h.whenB (h.portOn p && decide (20 < fill) && decide (fill ≤ 32)) fun h =>
    h.onPort p fun x => { x with fill := fill - 1, idleDel := inc48 x.idleDel }

/-- Below 12 blocks an idle block is inserted between frames (R296). -/
def execIdleInsert (dt : Nat) (p : PortId) (fill : Nat) (s : State) : Host.Outcome State Fault Refusal :=
  ok s dt fun h => h.whenB (h.portOn p && decide (fill < 12)) fun h =>
    h.onPort p fun x => { x with fill := fill + 1, idleIns := inc48 x.idleIns }

/-- The elastic buffer is full or empty within a frame: the frame ends as errored and the buffer returns to 16 blocks (R297). -/
def execElasticError (dt : Nat) (p : PortId) (_ : Bool) (s : State) : Host.Outcome State Fault Refusal :=
  ok s dt fun h => h.whenB (h.portOn p) fun h =>
    h.onPort p fun x => { x with errored := true, elasticErr := inc x.elasticErr, fill := 16 }

end Sys2Proof.Machine
end

