-- ==== Sys2Proof/Machine/Lookout.lean ====
section
/-! DEFINITION. The Lookout port and JTAG (R30, R391 to R395). -/
namespace Sys2Proof.Machine

/-- READ (Table 18.1): bytes from the address upward; a misaligned address gives zeros. Only the counts of R356 to R358 move. -/
def execLookoutRead (dt : Nat) (address : Word) (length : Nat) (s : State) : Host.Outcome State Fault Refusal :=
  ok s dt fun h => h.whenB (1 ≤ h.sta.stage) fun h =>
    let a := address.toNat
    let mis := a % 4 != 0
    let data := if mis then List.replicate length 0 else h.spaceBytes s.mem a length
    let bad := mis || h.anyUnmapped s.mem a length
    let h := h.whenB (!mis) fun h => h.noteRead s.mem a length
    { h with lko := { h.lko with badAddr := bad, spiReads := inc h.lko.spiReads, sdo := data } }

/-- STATUS: LKO_STATUS bits [7:0], repeated (Table 18.1). -/
def execLookoutStatus (dt length : Nat) (s : State) : Host.Outcome State Fault Refusal :=
  ok s dt fun h => h.whenB (1 ≤ h.sta.stage) fun h =>
    { h with lko := { h.lko with sdo := List.replicate length (BitVec.ofNat 8 h.lkoStatus) } }

/-- Any other first byte: the transaction is ignored and counted (R392). -/
def execLookoutUnknownOpcode (dt : Nat) (opcode : Byte) (s : State) : Host.Outcome State Fault Refusal :=
  ok s dt fun h => h.whenB (1 ≤ h.sta.stage && opcode != 0x0B && opcode != 0x05) fun h =>
    { h with lko := { h.lko with spiRefused := inc h.lko.spiRefused, sdo := [] } }

/-- JTAG offers boundary scan and IDCODE only (R30); it works from S1 (R63). -/
def execJtagAccess (dt : Nat) (idcode : Bool) (s : State) : Host.Outcome State Fault Refusal :=
  ok s dt fun h => h.whenB (1 ≤ h.sta.stage && idcode) fun h => h.onPins fun p => { p with tdo := Config.idcode.toNat }

end Sys2Proof.Machine
end

