-- ==== Sys2Proof/Machine/Pinout.lean ====
section
/-! DEFINITION. What every pin of Table 3.3 shows in each stage (R64): a function of the state. -/
namespace Sys2Proof.Machine

/-- What a pin shows. -/
inductive Drive where
  /-- high impedance, without and with the pin's internal pull-down -/
  | highZ
  | pullDown
  | low
  | high
  /-- an open-drain output that does not pull -/
  | released
  /-- zero differential current -/
  | zeroCurrent
  /-- electrical idle -/
  | idle
  /-- an input that nothing looks at -/
  | ignored
  /-- in use: it carries the signal that its own rules state -/
  | active
  /-- two bytes in a period of a clock: at its rising and at its falling edge -/
  | edges (rise fall : Byte)
  /-- a bias level: code and range -/
  | analog (code range : Nat)
  deriving DecidableEq, Repr

/-- The pins of Table 3.3, by row. -/
inductive Pin where
  | txo (n : PathId)
  | paen (n : PathId)
  | lnaen (n : PathId)
  | trsw (n : PathId)
  | bias (n : PathId)
  | femBus (q : QuadId)
  | ltx (l : LaneId)
  | rclkOut
  | tout (i : Fin 8)
  | tcap (i : Fin 2)
  | nvCs
  | nvRst
  | trc
  | armIo
  | fireIo
  | stat (i : Fin 3)
  | alarmN
  deriving DecidableEq, Repr

/-- A level. -/
def Drive.ofLevel (b : Bool) : Drive := if b then .high else .low

namespace Hw

/-- TRC_D in the present period of TRC_CLK: bytes 2i and 2i + 1 of the packet being sent, zeros between packets and where no stream runs
(R406). -/
def trcData (h : Hw) : Byte × Byte :=
  match h.traceStream, h.lko.trace.getLast? with
  | true, some p =>
    let i := h.lko.trcCredit * 8 / h.tracePeriod
    ((pktBytes p).getD (2 * i) 0, (pktBytes p).getD (2 * i + 1) 0)
  | _, _ => (0, 0)
/-- The package pulls FIRE_IO: for 256 cc from 6 cc after each trigger (R385). -/
def fireIoLow (h : Hw) : Bool :=
  decide (h.up < h.cap.fireLast) || h.cap.fireUntil.any fun t => decide (h.cap.fireFrom ≤ h.up) && decide (h.up < t)
/-- The state of a pin. NV_RST_N is low for the 10 µs with which S2 begins (R58), which lie inside the command that enters S2. -/
def drive (h : Hw) : Pin → Drive
  | .txo n => if h.dacForced n.val then .zeroCurrent else .active
  | .paen n => if h.sta.stage = 0 then .pullDown else .ofLevel (decide (7 ≤ h.sta.stage) && (h.path n.val).paen)
  | .lnaen n => if h.sta.stage = 0 then .pullDown else .ofLevel (decide (7 ≤ h.sta.stage) && (h.path n.val).lnaen)
  | .trsw n => if h.sta.stage = 0 then .pullDown else .ofLevel (decide (7 ≤ h.sta.stage) && (h.path n.val).trsw)
  | .bias n =>
    let b := (h.path n.val).bias
    if h.sta.stage < 4 then .pullDown
    else if h.sta.stage < 7 then let s := h.biasSafe n.val; .analog s.1 s.2
    else if b.range = 3 then .pullDown
    else .analog b.code b.range
  | .femBus _ => if h.sta.stage < 4 then .highZ else .active
  | .ltx l => if getN h.pins.ltx l.val false then .active else .idle
  | .rclkOut => if decide (5 ≤ h.sta.stage) && (h.port 0).rclk then .active else .highZ
  | .tout i => if h.sta.stage = 0 then .pullDown else .ofLevel (getN h.tim.toutLevel i.val false)
  | .tcap _ => if h.tim.stepped then .active else .ignored
  | .nvCs =>
    if h.sta.stage = 0 then .highZ else if h.sta.stage = 2 || decide (4 ≤ h.sta.stage) && h.img.calWriteBusy then .active else .high
  | .nvRst => if h.sta.stage = 0 then .highZ else .high
  | .trc => if decide (4 ≤ h.sta.stage) && h.tracePeriod != 0 then .edges h.trcData.1 h.trcData.2 else .low
  | .armIo => if h.sta.stage < 7 then .highZ else if h.sys.pkgPos = 0 then .ofLevel h.pins.armIo else .active
  | .fireIo => if h.sta.stage < 7 then .highZ else if h.fireIoLow then .low else .released
  | .stat i => .ofLevel (bit h.pins.stat i.val)
  | .alarmN => if h.pins.alarm then .low else .released

end Hw
end Sys2Proof.Machine
end

