-- ==== Sys2Proof/Machine/Quanta.lean ====
section
/-! DEFINITION. Quanta abandoned at a closing tick (R25, R350), the single step at its tick (R266). -/
namespace Sys2Proof.Machine

/-- What is left of a window at engine t at the closing tick (R350): the instruction in issue completes, the active job is
abandoned and the engine goes on at 0x0010; descriptors still queued are removed. -/
def abandonAt (h : Hw) (m : Mem) (t : EngId) : Hw :=
  let e := h.eng t
  let h := match e.job with
    | some j =>
      let h := h.each e.load fun h _ => loadReturn h m t
      let pc := (h.eng t).pc
      let h := h.onTor t fun e => { e with loops := [], calls := [], job := none, abandoned := true, pc := 0x10, state := 1, justSet := false }
      let h := h.dropJob t j
      h.whenB (h.traceFlow t) fun h =>
        h.trace { type := 0x06, source := t, info := pc % 65536, cc := low32 h.tim.c, lo := 0, hi := 0 }
    | none => h
  let h := h.each e.jobs fun h j => h.dropJob t j
  h.onTor t fun e => { e with jobs := [] }

/-- The closing tick of engine t's window comes while its work is unfinished (R350). -/
def execQuantumAbandon (t : EngId) (s : State) : Host.Outcome State Fault Refusal :=
  ok s 0 fun h => h.whenB (h.tim.open_ && ((h.eng t).job.isSome || !(h.eng t).jobs.isEmpty)) fun h => abandonAt h.toTick s.mem t

/-- The step, at the next tick of the old grid after the frequency phase (Table 12.4, R266): the old window closes. -/
def execTimeStep (s : State) : Host.Outcome State Fault Refusal :=
  ok s 0 fun h => h.whenB (h.sta.stage == 6 && h.tim.acquired && !h.tim.stepped && h.tim.open_) fun h =>
    (((h.toTick).each (List.finRange 16) fun h t => abandonAt h s.mem t).each (List.range 32) (dmaExpire s.mem)).applyStep

end Sys2Proof.Machine
end

