-- ==== Sys2Proof/Machine/Search.lean ====
section
/-! DEFINITION. What Cairn computes (R164, R165, R168 to R174) and its reports (R177, R178). Sums and products between the roundings that
the spec states are exact, values held in the work area aside (log 100). -/
namespace Sys2Proof.Machine

/-- A detection (Table 8.6), its metric as a ratio of powers. -/
structure Detection where
  family : Nat
  ext : Bool
  edge : Bool
  signature : Nat
  row : Nat
  col : Nat
  delayPs : Nat
  freqMhz : Int
  ratio : Rat
  power : Int
  deriving DecidableEq, Repr

namespace Cairn
open Dsp

/-! ### Complex arithmetic -/

/-- A complex number. -/
abbrev Cx := Rat × Rat
def mul (x y : Cx) : Cx := (x.1 * y.1 - x.2 * y.2, x.1 * y.2 + x.2 * y.1)
def sum (l : List Cx) : Cx := l.foldl (fun a x => (a.1 + x.1, a.2 + x.2)) (0, 0)
def power (x : Cx) : Rat := x.1 * x.1 + x.2 * x.2
/-- e^(j2π a / n), n a multiple of 4. -/
def cis (a : Int) (n : Nat) : Cx := let b := (a % (n : Int)).toNat; (cosOf b n, sinOf b n)
/-- A sample. -/
def cx (x : Sig) : Cx := (x.i, x.q)

/-! ### Beams (R170, R171) -/

/-- The lowest `n` bits of a number in reverse. -/
def reverseBits : Nat → Nat → Nat
  | 0, _ => 0
  | n + 1, j => j % 2 * 2 ^ n + reverseBits n (j / 2)
/-- Grid row and column of beam number j of an occasion (R171). -/
def beamOf (o : Occasion) (j : Nat) : Nat × Nat :=
  let r := reverseBits (Nat.log2 (o.rows * o.cols)) j
  ((o.row0 + r / o.cols) % o.gridRows, (o.col0 + r % o.cols) % o.gridCols)
/-- Beam numbers of an extension block (R176). -/
def beamsOf (o : Occasion) (b : Nat) : List Nat := (List.range (blockBeams o b)).map fun i => o.beams + 64 * b + i
/-- B_π(i, j) of the paths' values x (R170). -/
def beam (geo : List Geo) (o : Occasion) (pol i j : Nat) (x : Nat → Cx) : Cx :=
  sum ((List.range 64).filterMap fun p =>
    (geo[p]?.filter fun g => g.pol == pol).map fun g =>
      mul (x p) (cis (4 * (i * g.row * o.gridCols + j * g.col * o.gridRows) : Nat) (4 * o.gridRows * o.gridCols)))

/-! ### Sequences (R164, R165) -/

/-- conj(X(k)) of a Zadoff-Chu family (R164). -/
def conjZc (f : Family) (k : Nat) : Cx := cis (2 * f.root * k * (k + 1) : Nat) (4 * f.length)
/-- Search rate of a family in Hz (R163). -/
def rateOf (f : Family) : Nat := familyNs f * familyHz f.scs
/-- Tone of group g of signature s (R165). -/
def toneOf (f : Family) (s g : Nat) : Nat := (s + f.hop.getD (g % f.root) 0) % f.length
/-- The share of the search samples' noise that a correlation output carries, by the number of values summed and what they are divided by. -/
def noiseGain (f : Family) : Rat :=
  if f.kind = 2 then (f.root * f.cs * familyNs f : Nat) else (f.length : Rat) / familyNs f

end Cairn

namespace Hw
open Dsp Cairn

/-! ### The correlator (R168) -/

/-- Twice the centre of a family's band in Hz from the carrier's centre: the band begins half a spacing below the first subcarrier of
START_PRB (R164, R166). -/
def bandMid2 (h : Hw) (o : Occasion) (f : Family) : Int :=
  (24 * (o.startPrb : Int) - 12 * h.nRbNow o.carrier - 1) * scsHz (h.scsOf o.carrier) + f.length * familyHz f.scs
/-- First sample at a rate at or after the opening of the burst (R166). -/
def burstAt (h : Hw) (rate : Nat) (o : Occasion) : Nat := firstAt rate (h.tickAt o.target)
/-- Path p is enabled for the uplink at C = c (R170). -/
def hears (h : Hw) (p c : Nat) : Bool := ((h.path p).adc.find? fun w => decide (w.c ≤ c)).any (·.on)
/-- The carrier's stream mixed to the middle of the family's band, decimated to the search rate, and rounded (R168); samples of a path that
is not enabled for the uplink count as zero (R170). -/
def corrStream (h : Hw) (o : Occasion) (f : Family) (p : Nat) : Stream :=
  let rate := h.fftRate o.carrier
  let n0 := (h.burstAt rate o : Int)
  let mid := h.bandMid2 o f
  let mixed : Stream := fun n =>
    let z := mul (cx (h.fftStream p o.carrier n)) (cis (-(mid * (n - n0))) (2 * rate))
    { i := z.1, q := z.2, flag := (h.fftStream p o.carrier n).flag }
  let low := quant (fir (.cairn f.length f.scs) 1 (rate / rateOf f) (quant mixed))
  fun n => if h.hears p (n.toNat * Config.fc / rateOf f) then low n else {}
/-- First search sample of repetition r of a Zadoff-Chu family: MAX_DELAY and r repetition periods after the opening (R167). -/
def repAt (h : Hw) (o : Occasion) (f : Family) (r : Nat) : Nat :=
  ceilDiv ((h.tickAt o.target * 100000 + o.maxDelay * 983040) * rateOf f) (Config.fc * 100000) + r * familyNs f
/-- First search sample of the window of symbol group g of repetition r of a tone-hopping family (R165, R167). -/
def groupAt (h : Hw) (o : Occasion) (f : Family) (r g : Nat) : Nat :=
  h.burstAt (rateOf f) o + familyNs f * ((r * f.root + g) * (4 * f.cs + 1) + 1) / 4
/-- One lag of repetition r of a Zadoff-Chu family (R168): N_s-point FFT, the L used bins times conj(X(k)), N_s-point inverse FFT. Lags count
from the opening of the burst: the turn takes out the time from there to the window's first sample. -/
def lagZc (h : Hw) (o : Occasion) (f : Family) (p r lag : Nat) : Cx :=
  let ns := familyNs f
  let s0 := h.repAt o f r
  let x := h.corrStream o f p
  let bin := fun (k : Nat) => (k : Int) - ((f.length - 1) / 2 : Nat)
  let y := fun (k : Nat) => sum ((List.range ns).map fun n => mul (cx (x (s0 + n : Nat))) (cis (-(bin k * n)) ns))
  let late := (s0 * Config.fc : Int) - h.tickAt o.target * rateOf f
  let z := sum ((List.range f.length).map fun k =>
    mul (mul (y k) (conjZc f k)) (mul (cis (-(bin k * late)) (ns * Config.fc)) (cis (bin k * lag) ns)))
  (z.1 / ns, z.2 / ns)
/-- One delay bin of a start tone of repetition r of a tone-hopping family (R165): the symbols of a group summed, then the N_s-point DFT over
the tone positions of the groups. Each group's phase counts from the opening of its window (log 101). -/
def lagTone (h : Hw) (o : Occasion) (f : Family) (p r lag : Nat) : Cx :=
  let ns := familyNs f
  let x := h.corrStream o f p
  let mid := h.bandMid2 o f
  sum ((List.range f.root).map fun g =>
    let tone := toneOf f (lag / ns) g
    let s := h.groupAt o f r g
    let y := sum ((List.range (f.cs * ns)).map fun m =>
      mul (cx (x (s + m : Nat))) (cis (-((2 * (tone : Int) + 1 - f.length) * m)) (4 * ns / 2)))
    mul (mul y (cis (mid * ((s : Int) - h.burstAt (rateOf f) o)) (4 * rateOf f / 2))) (cis (tone * (lag % ns) : Nat) ns))
/-- A correlation output. -/
def lagOf (h : Hw) (o : Occasion) (f : Family) (p r lag : Nat) : Cx := if f.kind = 2 then h.lagTone o f p r lag else h.lagZc o f p r lag
/-- The coherent sum of group g for a hypothesis (R172): repetition i of the group turned by e^(-j2π f_h i T_rep). -/
def coherent (h : Hw) (o : Occasion) (f : Family) (p hyp g lag : Nat) : Cx :=
  let z := sum ((List.range o.coh).map fun i =>
    mul (h.lagOf o f p (g * o.coh + i) lag) (cis (-((2 * (hyp : Int) + 1 - o.freqHyp) * i)) (4 * o.coh)))
  (Config.work z.1, Config.work z.2)
/-- Power of both polarisations of a beam in group g (R170, R172), the sums of the paths in `gone` read as zero (R178). -/
def beamPower (h : Hw) (o : Occasion) (f : Family) (gone : List Nat) (j hyp g lag : Nat) : Rat :=
  let at_ := beamOf o j
  let x := fun p => if gone.contains p then (0, 0) else h.coherent o f p hyp g lag
  power (beam h.image.geometry o 0 at_.1 at_.2 x) + power (beam h.image.geometry o 1 at_.1 at_.2 x)
/-- The families of an occasion, with their places in it. -/
def famsIn (h : Hw) (o : Occasion) : List (Family × Nat) := (o.families.filterMap h.family).zipIdx
/-- Place of a coherent sum in a path's buffer: families, hypotheses and lags in order. -/
def sumPlace (h : Hw) (o : Occasion) (fam hyp lag : Nat) : Nat :=
  sumL (((h.famsIn o).take fam).map fun f => o.freqHyp * famBins f.1) + hyp * (((h.famsIn o)[fam]?).map fun f => famBins f.1).getD 0 + lag
/-- Paths whose sum at a place of the buffer is lost (R178). -/
def sumsLost (l : List WorkUe) (place : Nat) : List Nat :=
  (l.filter fun e => !e.corrected && e.cell == place).filterMap fun e => e.buffer.map (·.val)
/-- The cells of group g, every beam that the occasion may evaluate among them (R172), as the words met with errors leave them. -/
def groupCells (h : Hw) (o : Occasion) (g : Nat) (ue : List WorkUe) : List Cell :=
  ((h.famsIn o).map fun f => ((List.range (o.beams + o.ext)).map fun j => ((List.range o.freqHyp).map fun hyp =>
    (List.range (famBins f.1)).map fun lag =>
      { fam := f.2, beam := j, hyp := hyp, lag := lag
        p := h.beamPower o f.1 (if ue.isEmpty then [] else sumsLost ue (h.sumPlace o f.2 hyp lag)) j hyp g lag : Cell }).flatten).flatten).flatten
/-- The power of a group added into the cells, held as the work area holds it. -/
def addCells (old new : List Cell) : List Cell :=
  if old.isEmpty then new.map fun c => { c with p := Config.work c.p }
  else List.zipWith (fun a b => { a with p := Config.work (a.p + b.p) }) old new
/-- The instant at which group g of an occasion begins, in 10^-5 cc; the first one begins with the span (R167). -/
def groupEdge (h : Hw) (o : Occasion) (g : Nat) : Nat :=
  h.tickFine o.target + if g = 0 then 0 else occFine (o.families.filterMap h.family) o.maxDelay o.coh g
/-- A flagged sample of an enabled path lies in the correlator's input between two instants of the span, in 10^-5 cc (R168, R178). -/
def spanFlag (h : Hw) (o : Occasion) (a b : Nat) : Bool :=
  let rate := h.fftRate o.carrier
  let at_ := fun (t : Nat) => ceilDiv (t * rate) (Config.fc * 100000)
  (List.range 64).any fun p => (h.path p).adc.any (·.on) && (List.range (at_ b - at_ a)).any fun i =>
    let n := at_ a + i
    h.hears p (ccOf rate n) && (h.fftStream p o.carrier n).flag
/-- Group `groups` of an occasion has ended at the pins, for its slowest family (R167). -/
def groupEnded (h : Hw) (o : Occasion) : Bool :=
  decide (h.tickFine o.target + occFine (o.families.filterMap h.family) o.maxDelay o.coh (o.groups + 1) ≤ h.nowFine)
/-- C from which the samples of an active occasion's present group are still needed, a window before it included. -/
def searchFrom (h : Hw) : Nat :=
  let start := fun (o : Occasion) =>
    let fs := o.families.filterMap h.family
    h.tickAt (o.target - 16) + (fs.map fun f => o.groups * o.coh * repPeriod f).foldl Nat.min (2 ^ 64)
  (h.crn.occasions.filter (·.active)).foldl (fun a o => Nat.min a (start o)) (2 ^ 64)
/-- Words of the work area that a failure has reached before and that the occasion reads (R178, R358; log 129). -/
def workMet (m : Mem) (o : Occasion) (ue : List WorkUe) : List WorkUe :=
  m.bad.filterMap fun e =>
    let a := 8 * e.1
    if 0x20A00000 ≤ a ∧ a < 0x21000000 ∧ m.valid.contains e.1 ∧ !(ue.any fun x => x.address / 8 == e.1) then
      (Config.workPlace o.order e.1).map fun x =>
        { address := a, cell := x.1, corrected := !e.2, buffer := if h : x.2 < 64 then some ⟨x.2, h⟩ else none }
    else none
/-- Words met with errors in the work area: each counts as a read that finds it so (R356 to R358), and keeps its error until it is written
whole. -/
def workErrors (h : Hw) (m : Mem) (l : List WorkUe) : Hw × Mem :=
  let m := l.foldl (fun m x => m.spoil (x.address / 8) (!x.corrected)) m
  (h.each l fun h x => match m.err (x.address / 8) with
    | some ue => h.noteWord (x.address / 8) ue
    | none => h, m)
/-- Cells with those of uncorrectable words at zero. -/
def zeroed (l : List WorkUe) (c : List Cell) : List Cell :=
  c.zipIdx.map fun x => if l.any fun e => e.cell == x.2 && !e.corrected && e.buffer.isNone then { x.1 with p := 0 } else x.1

end Hw

/-- A coherent group of an occasion ends (R170, R172, R176): its power goes into the cells; an extension block that was not evaluated for the
group before is dropped. -/
def execCairnGroupEnd (dt occ : Nat) (ue : List WorkUe) (s : State) : Host.Outcome State Fault Refusal :=
  okM s dt fun h m =>
    match h.crn.occasions.find? fun o => o.tag == occ && o.active && decide (o.groups < o.noncoh) && h.groupEnded o with
    | none => (h, m)
    | some o =>
      let ue := ue ++ Hw.workMet m o ue
      let kept := if o.groups = 0 then o.blocks else o.blocks.filter o.evaluated.contains
      let lost := o.blocks.length - kept.length
      let o' := { o with
        groups := o.groups + 1, blocks := kept, quanta := [], evaluated := [], extPartial := o.extPartial || lost != 0
        ovr := o.ovr || h.spanFlag o (h.groupEdge o o.groups) (h.groupEdge o (o.groups + 1)), memUe := o.memUe || ue.any (!·.corrected)
        cells := Hw.addCells (Hw.zeroed ue o.cells) (h.groupCells o o.groups ue) }
      let r := h.workErrors m ue
      (r.1.onCrn fun x => { x with
        occasions := x.occasions.map fun y => if y.order = o.order then o' else y, extDropped := cnt 32 x.extDropped lost }, r.2)

/-! ### The back-end (R173, R174) -/

/-- The median of a Gamma(K, 1) variate, K from 1 to 16, to 12 places (R173). -/
def gammaMedian (k : Nat) : Rat :=
  ([693147180560, 1678346990017, 2674060313724, 3672060748851, 4670908882796, 5670161188712, 6669637074550, 7669249442501,
    8668951184370, 9668714614714, 10668522403836, 11668363153045, 12668229058739, 13668114599345, 14668015758331, 15667929544317].getD (k - 1) 0 : Nat) / 1000000000000
/-- The middle of a list in ascending order; of an even number, the mean of the two in the middle (log 102). -/
def median (l : List Rat) : Rat :=
  let s := l.insertionSort (· ≤ ·)
  let n := s.length
  if n % 2 = 1 then s.getD (n / 2) 0 else (s.getD (n / 2 - 1) 0 + s.getD (n / 2) 0) / 2
/-- A ratio of powers lies at or above a level in 0.01 dB. -/
def atLeastDb (r : Rat) (x : Nat) : Bool := decide ((10 : Rat) ^ x ≤ r ^ 1000)
/-- Parabola through a point and its neighbours: the offset of its top, within ±1/2; 0 where it has none. -/
def parabola (a b c : Rat) : Rat :=
  let d := a - 2 * b + c
  if d = 0 then 0 else
    let x := (a - c) / (2 * d)
    if x < -1 / 2 then -1 / 2 else if 1 / 2 < x then 1 / 2 else x

namespace Hw
open Cairn

/-- The cells that a report goes by: those of the guaranteed beams and of the blocks that completed (R176). -/
def cellsDone (o : Occasion) : List Cell :=
  let ext := ((o.blocks.filter o.keeps).map (beamsOf o)).flatten
  o.cells.filter fun c => decide (c.beam < o.beams) || ext.contains c.beam
/-- σ² of a family before its scale: the median over its cells over K ν_K (R173). K is the number of groups summed, GROUPS_DONE, which a slot
change may keep below the K admitted (DEDUCED from Table 8.6, log 102). -/
def noiseOf (o : Occasion) (l : List Cell) (fam : Nat) : Rat := median ((l.filter fun c => c.fam == fam).map (·.p)) / gammaMedian o.groups
/-- NOISE of a family in 0.01 dB over 0 dBFS (R173): per path and repetition at the correlator input, of the paths that were enabled when
the occasion began (log 102). -/
def noiseLevel (o : Occasion) (l : List Cell) (f : Family × Nat) : Int :=
  Config.decibel (noiseOf o l f.2 / ((o.pathsUsed.length * o.coh : Nat) * noiseGain f.1 * (16384 * 16384)))
/-- Rows or columns a and b of a grid of n lie within one index of each other, with wrap. -/
def nearGrid (n a b : Nat) : Bool := a == b || (a + 1) % n == b || (b + 1) % n == a
/-- P of a cell is a maximum (R174): no neighbour exceeds it. -/
def isPeak (o : Occasion) (ns : Nat) (l : List Cell) (c : Cell) : Bool :=
  let at_ := beamOf o c.beam
  !l.any fun d =>
    let b := beamOf o d.beam
    d.fam == c.fam && nearGrid o.gridRows at_.1 b.1 && nearGrid o.gridCols at_.2 b.2 && d.lag / ns == c.lag / ns &&
      decide (d.lag ≤ c.lag + 2) && decide (c.lag ≤ d.lag + 2) && decide (d.hyp ≤ c.hyp + 1) && decide (c.hyp ≤ d.hyp + 1) && decide (c.p < d.p)
/-- An offset in a ring of n from a start. -/
def ringFrom (n start x : Nat) : Nat := (x + n - start % n) % n
/-- A cell as a detection, refined (R174, Table 8.6). The edges are those of the sector, where it is no whole ring of the grid, of a
signature set's lag bins and of the hypotheses; a refined delay below the opening of the burst is given as 0; K in the metric is
GROUPS_DONE, as in the noise (DEDUCED, log 102). -/
def detect (o : Occasion) (l : List Cell) (f : Family × Nat) (c : Cell) : Detection :=
  let ns := familyNs f.1
  let n := c.lag % ns
  let hz := familyHz f.1.scs
  let at_ := beamOf o c.beam
  let p := fun (hyp lag : Nat) => ((l.find? fun d => d.fam == c.fam && d.beam == c.beam && d.hyp == hyp && d.lag == lag).map (·.p)).getD 0
  let lagEdge := n == 0 || n + 1 == ns
  let hypEdge := c.hyp == 0 || c.hyp + 1 == o.freqHyp
  let i := ringFrom o.gridRows o.row0 at_.1
  let j := ringFrom o.gridCols o.col0 at_.2
  let rowEdge := decide (o.rows < o.gridRows) && (i == 0 || i + 1 == o.rows)
  let colEdge := decide (o.cols < o.gridCols) && (j == 0 || j + 1 == o.cols)
  let lag : Rat := n + if lagEdge then 0 else parabola (p c.hyp (c.lag - 1)) c.p (p c.hyp (c.lag + 1))
  let hyp : Rat := c.hyp + if hypEdge then 0 else parabola (p (c.hyp - 1) c.lag) c.p (p (c.hyp + 1) c.lag)
  let sig := if f.1.kind = 2 then c.lag / ns else n * f.1.length / (f.1.cs * ns)
  let start : Rat := if f.1.kind = 2 then 0 else (sig * f.1.cs * ns : Nat) / (f.1.length : Rat)
  let df : Rat := (Config.fc : Rat) / (2 * o.coh * repPeriod f.1 : Nat)
  let noise := noiseOf o l f.2
  { family := o.families.getD f.2 0, ext := decide (o.beams ≤ c.beam), edge := lagEdge || hypEdge || rowEdge || colEdge
    signature := sig, row := at_.1, col := at_.2, delayPs := (showRat ((lag - start) * 1000000000000 / (ns * hz : Nat))).toNat
    freqMhz := showRat ((hyp - ((o.freqHyp - 1 : Nat) : Rat) / 2) * df * 1000)
    ratio := c.p / (o.groups * noise)
    power := Config.burstPower (c.p / noise) (noise / (o.coh : Rat)) }
/-- The detections of an occasion (R174): cells at or above THRESHOLD that are maxima, with no delay above MAX_DELAY, in descending order of
the metric. -/
def detections (h : Hw) (o : Occasion) : List Detection :=
  let thr := ((h.template o.template).map (·.threshold)).getD 0
  let l := cellsDone o
  let all := ((h.famsIn o).map fun f =>
    (l.filter fun c => c.fam == f.2 && atLeastDb (c.p / (o.groups * noiseOf o l f.2)) thr && isPeak o (familyNs f.1) l c).map (detect o l f)).flatten
  let tie := fun (d : Detection) => (((d.family * 2 ^ 16 + d.signature) * 2 ^ 8 + d.row) * 2 ^ 8 + d.col) * 2 ^ 32 + d.delayPs
  (sortBy tie (all.filter fun d => decide (d.delayPs ≤ o.maxDelay * 10000))).insertionSort fun a b => b.ratio ≤ a.ratio

end Hw

/-- A detection entry (Table 8.6). -/
def detBytes (o : Occasion) (d : Detection) : Bytes :=
  le 1 d.family ++ le 1 (b2n d.ext + 2 * b2n d.edge) ++ le 2 d.signature ++ le 1 d.row ++ le 1 d.col ++ le 2 0 ++ le 4 d.delayPs ++
    le 4 (code 32 d.freqMhz) ++ le 2 (Nat.min 65535 (Config.decibel d.ratio).toNat) ++ le 2 (code 16 d.power) ++ le 1 o.coh ++ le 1 o.groups ++ le 2 0
/-- The mask of path or family numbers. -/
def maskOf (l : List Nat) : Nat := (l.eraseDups).foldl (fun a i => a + 2 ^ i) 0

/-- The back-end finishes an occasion and its report is sent (R173, R174, R177, R178, R189), the extension blocks that still lack a group
dropped (R176). DESIGN CHOICE (log 102): in a FAILED report GROUPS_DONE, BEAMS_DONE and PATHS_USED keep what was reached and NOISE reads
-32,768; Table 8.7 says only that the header is filled from the admission values. -/
def execCairnReportSend (dt occ : Nat) (ue : List WorkUe) (s : State) : Host.Outcome State Fault Refusal :=
  okM s dt fun h m =>
    match h.crn.occasions.find? fun o => o.tag == occ && decide (o.closing ≤ h.tim.k) with
    | none => (h, m)
    | some o =>
      let ue := ue ++ Hw.workMet m o ue
      let kept := o.blocks.filter o.keeps
      let lost := o.blocks.length - kept.length
      let o := { o with
        cells := Hw.zeroed ue o.cells, memUe := o.memUe || ue.any (!·.corrected), blocks := kept, extPartial := o.extPartial || lost != 0 }
      let good := if o.failed || o.groups == 0 then [] else h.detections o
      let dets := good.take 256
      let trunc := decide (256 < good.length)
      let done := o.beams + sumL (kept.map (blockBeams o))
      let noise := if o.failed || o.groups == 0 then [] else (h.famsIn o).map fun f => Hw.noiseLevel o (Hw.cellsDone o) f
      let status := b2n o.failed + 2 * b2n trunc + 4 * b2n o.ovr + 8 * b2n o.cut + 16 * b2n (!o.changed.isEmpty) + 32 * b2n o.memUe +
        64 * b2n o.extPartial
      let head := le 4 o.tag ++ le 4 o.target ++ le 4 o.closing ++ le 1 o.template ++ le 1 status ++ le 2 (maskOf o.families) ++
        le 2 (o.rows * o.cols) ++ le 2 o.beams ++ le 2 done ++ le 1 o.coh ++ le 1 o.noncoh ++ le 1 o.freqHyp ++ le 1 o.gridRows ++ le 1 o.gridCols ++
        le 1 o.groups ++ le 2 dets.length ++ le 2 0 ++ le 4 (Nat.min 0xFFFFFFFF good.length) ++
        ((List.range 4).map fun i => le 2 (code 16 (noise.getD i (-32768)))).flatten ++
        le 8 (maskOf (o.pathsUsed.filter fun n => !o.changed.contains n)) ++ List.replicate 12 0
      let seq := (assoc o.flow h.fhl.genSeq).getD 0
      let r := h.workErrors m ue
      let h := r.1.onFhl fun f => { f with genSeq := assocSet o.flow ((seq + 1) % 2 ^ 32) f.genSeq }
      let h := h.onCrn fun x => { x with
        occasions := x.occasions.filter fun y => y.order != o.order, lastTag := o.tag, lastCount := dets.length, lastStatus := status
        detections := cnt 48 x.detections dets.length, truncated := if trunc then inc x.truncated else x.truncated
        failed := if o.failed then inc x.failed else x.failed
        extDropped := cnt 32 x.extDropped lost, extDone := cnt 32 x.extDone kept.length }
      (h.send (.generic o.port o.dst o.vlan o.eaxc seq (head ++ (dets.map (detBytes o)).flatten)), r.2)

end Sys2Proof.Machine
end

