-- ==== Sys2Proof/Machine/Sections.lean ====
section
/-! DEFINITION. Downlink sections, Spur sections and uplink requests: admission (R93 to R95, R113, R116, R121 to R123, R138, R190,
R201 to R203, R431), the failures of Spur frames (R117, R118), weighting (R130, R135, R136), and the uplink sections sent (R124 to
R126, R139, R198, R200). -/
namespace Sys2Proof.Machine
namespace Hw

/-- Ranges [a, a+n) and [b, b+m) overlap. -/
def overlap (a n b m : Nat) : Bool := decide (a < b + m) && decide (b < a + n)
/-- Blocks of window k (Table 6.6). -/
def blocksAt (h : Hw) (k : Nat) : Nat := blocksIn (h.winLen k)
/-- A Spur section of the same beam and window names another beam ID (R138). -/
def tdClash (h : Hw) (down : Bool) (layer k beam : Nat) : Bool :=
  if down then h.fhl.dl.any fun d => d.spur && d.target == k && d.layer == layer && d.beam != beam
  else h.fhl.ul.any fun u => u.spur && u.target == k && u.layer == layer && u.beam != beam
/-- Relations of a section (R122, R123, R138, R431 step 4), its overlaps aside. -/
def rangeBad (h : Hw) (sl : Slot) (f : Flow) (k start count : Nat) : Bool :=
  if sl.isSpur then decide (h.blocksAt k < start + count)
  else
    let n := sl.prbs f.carrier
    decide (n < start + count) || k % ticksPerHalf h.scs % sl.span h.scs f.carrier != 0 || start % sl.granularity != 0 ||
      (count % sl.granularity != 0 && start + count != n)
/-- A stage, slot, symbol, restart or time state that forbids a section (Table 3.5, R95, R113, R190, R268). -/
def sectionForbidden (h : Hw) (sl : Slot) (f : Flow) (down : Bool) (k : Nat) : Bool :=
  let span := if sl.isSpur then 1 else sl.span h.scs f.carrier
  let ar := h.around k
  if down then h.muting || h.txRestarts ar.1 ar.2 k || !h.symbolSome sl k span 1
  else h.rxRestarts ar.1 ar.2 k || !h.symbolSome sl k span 2
/-- The charge of a section: DL_SECTION or UL_SECTION by PRB, or TD_BEAM once per beam and window (R140, R220, R221). -/
def sectionCharge (h : Hw) (sl : Slot) (f : Flow) (down : Bool) (k count : Nat) : List (Nat × Nat) :=
  let paths := if down then h.dlPaths k else h.ulPaths k
  if sl.isSpur then (if h.trl.tdCharged.contains (k, b2n down, f.layer) then [] else h.charges k 5 1 paths)
  else h.charges k (if down then 1 else 2) count paths
/-- A charge reserved; that of a Spur beam is noted. -/
def takeCharge (h : Hw) (sl : Slot) (f : Flow) (down : Bool) (k : Nat) (c : List (Nat × Nat)) : Hw :=
  let h := h.reserve k c
  h.whenB (sl.isSpur && !h.trl.tdCharged.contains (k, b2n down, f.layer)) fun h =>
    h.onTrl fun t => { t with tdCharged := t.tdCharged ++ [(k, b2n down, f.layer)] }
/-- The budget step of a section: the Treeline test and the timing check, each with its counter (R136, R223). -/
def budgetStep (h : Hw) (k : Nat) (c : List (Nat × Nat)) (fits down : Bool) : Hw × Nat :=
  let lvl := h.budgetFails [(k, c)]
  let h := match lvl with
    | some l => h.countLevel l
    | none => h
  let h := h.whenB (!fits) fun h => h.onMas fun m =>
    if down then { m with timeRefusedDl := inc m.timeRefusedDl } else { m with timeRefusedUl := inc m.timeRefusedUl }
  (h, if lvl.isSome || !fits then 3 else 0)

/-- The record checks of a downlink section before its buffer, in the order of R201 and R431. -/
def dlRules (h : Hw) (sl : Slot) (f : Flow) (k ta : Nat) (r : SectionRec) : Nat :=
  let m := mantOf sl f.compression
  firstReason [ifBad (h.before7 k) 10, h.window k ta sl.minLead sl.earlyLimit, ifBad (h.sectionForbidden sl f true k) 10, ifBad (r.count == 0) 8,
    h.beamBad r.beam k,
    ifBad (h.rangeBad sl f k r.start r.count || (sl.isSpur && h.tdClash true f.layer k r.beam) ||
      (h.fhl.dl.any fun d => d.flow == f.id && d.target == k && overlap d.start d.count r.start r.count) ||
      (!sl.isSpur && m != 16 && !expOk m r.payload r.count)) 8,
    ifBad (h.weightGone r.beam k) 9]
/-- Admission of one downlink section that arrives at C = ta. -/
def admitDl (h : Hw) (m : MsgHdr) (ta : Nat) (r : SectionRec) (k : Nat) : Hw × Nat :=
  match h.recAt k, h.msgFlow m with
  | some sl, some f =>
    let why := h.dlRules sl f k ta r
    let size := payloadSize sl.isSpur (mantOf sl f.compression) r.count
    if why ≠ 0 then (h, why)
    else if 6291456 < h.bufUsed + size then (h, 4)
    else
      let h := h.massifAdvance
      let d : DlItem := { flow := f.id, target := k, start := r.start, count := r.count, beam := r.beam, bytes := size, spur := sl.isSpur
                          payload := r.payload, epoch := m.epoch % 16, order := h.fhl.order, carrier := f.carrier, layer := f.layer
                          left := if sl.isSpur then 0 else r.count * prbWork
                          todo := if sl.isSpur then 0 else r.count * prbWork, mant := mantOf sl f.compression }
      let c := h.sectionCharge sl f true k r.count
      let b := h.budgetStep k c (sl.isSpur || h.dlFits d) true
      if b.2 ≠ 0 then b
      else ((b.1.takeCharge sl f true k c).onFhl fun x => { x with dl := x.dl ++ [d], order := x.order + 1 }, 0)
  | _, _ => (h, 8)

/-- Bits that an uplink section takes on the line: payload and 70 bytes of headers, 66 untagged (Table 9.15a). -/
def egressBits (size vlan : Nat) : Nat := 8 * (size + if vlan = 0xFFFF then 66 else 70)
/-- Forwarding is active under the FLOW_SET expected at a tick (R210). -/
def fwdAt (h : Hw) (k : Nat) : Bool := (h.ownFlows (h.slotAt k)).all (fun f => f.port != 1) && (h.port 1).linkUp
/-- The uplink egress check (R203): what the sections of one closing tick take stays within UL_DEADLINE - 1.5 µs. -/
def egressFits (h : Hw) (sl : Slot) (k closing size vlan : Nat) : Bool :=
  let all := egressBits size vlan + sumL ((h.fhl.ul.filter fun u => u.closing == closing).map fun u => egressBits u.bytes u.vlan)
  let slow := if h.fwdAt k then 2 else 1
  decide (all * slow ≤ (sl.ulDeadline - 1500) * h.lineRate 0) && decide (1500 ≤ sl.ulDeadline)
/-- The record checks of an uplink request before the table of requests. -/
def ulRules (h : Hw) (sl : Slot) (f : Flow) (k ta : Nat) (r : SectionRec) : Nat :=
  let size := payloadSize sl.isSpur (mantOf sl f.compression) r.count
  firstReason [ifBad (h.before7 k) 10, ifBad (decide (h.tickAt k ≤ ta)) 1, ifBad (h.leadAbove k ta sl.earlyLimit) 2,
    ifBad (h.sectionForbidden sl f false k) 10, ifBad (r.count == 0) 8, h.beamBad r.beam k,
    ifBad (h.rangeBad sl f k r.start r.count || (sl.isSpur && h.tdClash false f.layer k r.beam) ||
      (h.fhl.ul.any fun u => u.flow == f.id && u.target == k && overlap u.start u.count r.start r.count) || decide (9166 < size)) 8,
    ifBad (h.weightGone r.beam k) 9]
/-- Admission of one uplink request. -/
def admitUl (h : Hw) (m : MsgHdr) (r : SectionRec) (k : Nat) : Hw × Nat :=
  match h.recAt k, h.msgFlow m with
  | some sl, some f =>
    let why := h.ulRules sl f k h.tim.c r
    let size := payloadSize sl.isSpur (mantOf sl f.compression) r.count
    let closing := k + if sl.isSpur then 1 else sl.span h.scs f.carrier
    if why ≠ 0 then (h, why)
    else if decide (8192 ≤ h.fhl.ul.length) || !h.egressFits sl k closing size f.vlan then (h, 4)
    else
      let h := h.massifAdvance
      let u : UlItem := { flow := f.id, target := k, closing := closing, start := r.start, count := r.count, beam := r.beam, bytes := size
                          epoch := m.epoch % 16, carrier := f.carrier, layer := f.layer, spur := sl.isSpur, deadline := sl.ulDeadline
                          order := h.fhl.order, left := if sl.isSpur then 0 else r.count * prbWork
                          todo := if sl.isSpur then 0 else r.count * prbWork, compression := f.compression
                          eaxc := f.eaxc, vlan := f.vlan, dst := f.dstMac, port := f.port }
      let c := h.sectionCharge sl f false k r.count
      let b := h.budgetStep k c (sl.isSpur || h.ulFits u) false
      if b.2 ≠ 0 then b
      else ((b.1.takeCharge sl f false k c).onFhl fun x => { x with ul := x.ul ++ [u], order := x.order + 1 }, 0)
  | _, _ => (h, 8)

end Hw

/-- A downlink SECTION whose message has passed its frame check sequence (R193, R201). -/
def execDlSection (dt : Nat) (m : MsgHdr) (idx : Nat) (r : SectionRec) (s : State) : Host.Outcome State Fault Refusal :=
  ok s dt fun h => (h.judge m idx 0x10 0 fun h k => h.admitDl m h.tim.c r k).1

/-- The headers of a downlink message for a Spur tick, `rest` bytes of its frame still to come (R116, R201). -/
def execSpurSectionHeaders (dt : Nat) (m : MsgHdr) (r : SectionRec) (rest : Nat) (s : State) : Host.Outcome State Fault Refusal :=
  ok s dt fun h =>
    let spur := (h.recAt (h.msgTick m)).any Slot.isSpur
    h.whenB (spur || !h.announced7) fun h =>
      let ta := h.tim.c + ceilDiv (8 * rest * 98304) (100000 * h.lineRate m.port)
      let h := h.whenB (h.arrives m.port) fun h => h.onPort m.port fun x => { x with judged := true }
      (h.judge m 0 0x10 0 fun h k => h.admitDl m ta r k).1

namespace Hw

/-- SPUR_FCS_BAD with what its indication carries (R117). -/
def spurAlarm (h : Hw) (flow seq target : Nat) : Hw :=
  let e := (((h.ownFlows (h.slotAt target)).find? fun f => f.id == flow).map (·.eaxc)).getD 0xFFFF
  h.happen { code := 0x0403, arg := flow * 256 + seq % 256, extra := low32 target, tick := some target, ctx := some (e, flow, seq % 256) }
/-- An admitted Spur section of a flow and tick. -/
def spurHeld (h : Hw) (flow target : Nat) : Bool := h.fhl.dl.any fun d => d.spur && d.flow == flow && d.target == target

end Hw

/-- The frame check sequence of an admitted Spur frame fails (R117). -/
def execSpurFcsBad (dt flow seq target : Nat) (s : State) : Host.Outcome State Fault Refusal :=
  ok s dt fun h => h.whenB (h.spurHeld flow target) fun h =>
    (h.onFhl fun f => { f with spurFcsBad := inc f.spurFcsBad }).spurAlarm flow seq target

/-- An admitted Spur frame ends after `received` bytes of its payload (R118). -/
def execSpurTrunc (dt flow seq target received : Nat) (s : State) : Host.Outcome State Fault Refusal :=
  ok s dt fun h => h.whenB (h.spurHeld flow target) fun h =>
    let last := (h.fhl.dl.filter fun d => d.spur && d.flow == flow && d.target == target).getLast?.map (·.order)
    (h.onFhl fun f => { f with
      spurTrunc := inc f.spurTrunc
      dl := f.dl.map fun d => if some d.order = last then { d with truncAt := some received } else d }).spurAlarm flow seq target

/-- An uplink SECTION request (R93, R193). -/
def execUlSectionRequest (dt : Nat) (m : MsgHdr) (idx : Nat) (r : SectionRec) (s : State) : Host.Outcome State Fault Refusal :=
  ok s dt fun h => (h.judge m idx 0x10 2 fun h k => h.admitUl m r k).1

/-! ### Weighting of the downlink (R130, R135, R136) -/

/-- Massif finishes weighting a downlink section: the first in order of target tick and admission that is not weighted, between its
start at tick k - 2 and its deadline (R135). Its weights have been read for this use (R133, R141). -/
def execSectionWeighted (dt flow target start : Nat) (s : State) : Host.Outcome State Fault Refusal :=
  ok s dt fun h =>
    let is := fun (d : DlItem) => !d.spur && d.flow == flow && d.target == target && d.start == start
    let next := (Hw.sortDl (h.fhl.dl.filter fun d => !d.spur && !d.weighted)).head?
    h.whenB (h.tim.open_ && next.any is && decide (target ≤ h.tim.k + 2) && decide (h.nowFine + Hw.nsFine 4000 ≤ h.tickFine target)) fun h =>
      let h := h.massifAdvance.weigh s.mem is
      h.onFhl fun f => { f with dl := f.dl.map fun d => if is d then { d with weighted := true, left := 0, todo := 0 } else d }

/-- The weighting deadline of the symbol of a tick, 4 µs before it: every section of the symbol has been weighted, and its place in the
packet buffer is released (R135). -/
def execWeightingDeadline (dt target : Nat) (s : State) : Host.Outcome State Fault Refusal :=
  ok s dt fun h => h.whenB (h.tim.open_ && decide (h.tickFine target ≤ h.nowFine + Hw.nsFine 4000)) fun h =>
    let h := h.massifAdvance.weigh s.mem fun d => !d.spur && d.target == target
    h.onFhl fun f => { f with
      dl := f.dl.map fun d => if !d.spur && d.target == target then { d with weighted := true, left := 0, todo := 0, bytes := 0 } else d }

/-! ### Uplink sections (R125, R139, R198) -/

/-- z of one subcarrier or sample, before saturation: the sum over the paths combined of conj(w) x, over 2^18 (R125). -/
def combine1 (w : List (Nat × IQ)) (x : List (List IQ)) (m : Nat) : Int × Int :=
  let ps := w.map fun pw => (pw.2, (x.getD pw.1 []).getD m ⟨0, 0⟩)
  (cround (sumZ (ps.map fun a => a.1.i * a.2.i + a.1.q * a.2.q)) 262144, cround (sumZ (ps.map fun a => a.1.i * a.2.q - a.1.q * a.2.i)) 262144)

/-- A request can be combined (R94, R137, R139): past its closing tick, when no other request of that tick comes before it in the order of
R94; in a Spur slot once the last of its samples has come, 2 cc each. -/
def Hw.ulReady (h : Hw) (u : UlItem) : Bool :=
  if u.spur then decide (h.tickAt u.target + 128 * (u.start + u.count) ≤ h.tim.c)
  else decide (h.tickAt u.closing ≤ h.tim.c) &&
    h.fhl.ul.all fun x => x.spur || x.closing != u.closing || x.taken.isNone || decide (Hw.keyR94 u ≤ Hw.keyR94 x)

/-- The weight of a path for a request: read on the target tick in a Spur slot (R139), else now. -/
def Hw.ulWeight (h : Hw) (m : Mem) (u : UlItem) (p : Nat) : IQ := match u.ws with
  | some l => l.getD p ⟨0, 0⟩
  | none => h.weightOf m u.beam u.target p

/-- An admitted request is combined and sent on its flow (R94, R125, R137, R198, R200). -/
def execUlSectionSend (dt flow target start : Nat) (s : State) : Host.Outcome State Fault Refusal :=
  ok s dt fun h =>
    match h.fhl.ul.find? fun u => u.flow == flow && u.target == target && u.start == start with
    | none => h
    | some u =>
      match u.taken with
      | none => h
      | some (slot, paths) =>
        h.whenB (h.ulReady u) fun h =>
          let got := u.formed.getD (h.ulFormed u)
          let h := h.massifAdvance
          let h := h.whenB u.ws.isNone fun h => h.readWeights s.mem u.beam (h.dynVersion (u.beam - 4096) u.target)
          let mant := ((h.slotRec slot).map fun sl => mantOf sl u.compression).getD 16
          let w := (paths.map fun p => (p, h.ulWeight s.mem u p)).filter fun pw => pw.2.i != 0 || pw.2.q != 0
          let raw := ((List.range ((if u.spur then 64 else 12) * u.count)).map fun m => let z := combine1 w got.1 m; [z.1, z.2]).flatten
          let v := raw.map sat16
          let sat := (raw.filter fun z => sat16 z ≠ z).length
          let p := compressAll (if u.spur then 16 else mant) u.count v
          let ovr := w.any fun pw => got.2.contains pw.1
          let st := getN h.fhl.seqs u.flow {}
          let h := h.onMas fun a => { a with ulSat := cnt 32 a.ulSat sat }
          let h := h.onFhl fun f => { f with
            bfpSat := cnt 32 f.bfpSat p.2, ul := f.ul.filter fun y => y.order != u.order
            seqs := updN f.seqs u.flow fun z => { z with nextTx := (z.nextTx + 1) % 256 } }
          h.send (.ulSection u.port u.dst u.vlan u.eaxc st.nextTx u.flow u.epoch (b2n ovr + 2 * b2n u.reduced) (low32 u.target) u.start u.count
            u.beam p.1)

end Sys2Proof.Machine
end

