-- ==== Sys2Proof/Machine/Real.lean ====
section
/-! DEFINITION. The exponential, the logarithm and powers of the stress formula (R313), whose rounding the spec does not state: computed in
fixed point of 2^-128, with an error of a few units there (DESIGN CHOICE, log 13). -/
namespace Sys2Proof.Machine
namespace Real

/-- One, ln 2 and ln 10 in units of 2^-128. -/
def one : Int := 2 ^ 128
def ln2 : Int := 235865763225513294137944142764154484399
def ln10 : Int := 783529105480883066805338482703447369891
/-- A rational in units of 2^-128, rounded down. -/
def fix (x : Rat) : Int := x.num * one / x.den
/-- So many units of 2^-128. -/
def ofFix (x : Int) : Rat := (x : Rat) / (one : Rat)
/-- The terms r^i / i!, r^(i+1) / (i+1)!, ... of the exponential series, the first of them `t`. -/
def expTerms (r : Int) : Nat → Nat → Int → Int
  | 0, _, _ => 0
  | n + 1, i, t => t + expTerms r n (i + 1) (t * r / (one * (i + 1 : Nat)))
/-- e^x: 2^n e^r with 0 ≤ r < ln 2. -/
def exp (x : Rat) : Rat :=
  let n := fix x / ln2
  let s := ofFix (expTerms (fix x - n * ln2) 40 0 one)
  if 0 ≤ n then s * (2 : Rat) ^ n.toNat else s / (2 : Rat) ^ (-n).toNat
/-- The terms z^(2k+1) / (2k+1), ... of the series of artanh z, the power of the first of them `t`, z² = `q`. -/
def artanhTerms (q : Int) : Nat → Nat → Int → Int
  | 0, _, _ => 0
  | n + 1, k, t => t / (2 * k + 1 : Nat) + artanhTerms q n (k + 1) (t * q / one)
/-- ln x of a positive x = m 2^n, in units of 2^-128: n ln 2 + 2 artanh ((m - 1) / (m + 1)). -/
def lnFix (x : Rat) : Int :=
  let n : Int := (Nat.log2 x.num.toNat : Int) - Nat.log2 x.den
  let m := if 0 ≤ n then x / (2 : Rat) ^ n.toNat else x * (2 : Rat) ^ (-n).toNat
  let z := fix ((m - 1) / (m + 1))
  n * ln2 + 2 * artanhTerms (z * z / one) 44 0 z
/-- x^y of x ≥ 0; 0^0, which R313 gives no value, is open (log 13). -/
def power (x y : Rat) : Rat := if x = 0 then (if y = 0 then Config.openRat 5 else 0) else exp (y * ofFix (lnFix x))
/-- 10 log10 x of a positive x. -/
def decibels (x : Rat) : Rat := (10 * lnFix x : Int) / (ln10 : Rat)

end Real
end Sys2Proof.Machine
end

