-- ==== Sys2Proof/Machine/Window.lean ====
section
/-! DEFINITION. What a tick does with the window that it closes: quanta abandoned (R25, R350), DMA lists unfinished (R369), what the window's meters, counts and
errors showed (R84, R90, R99, R141, R150, R204, R356, R361), heat (R217), and, where it ends a frame, stress (R313) and the marks that
a frame keeps. -/
namespace Sys2Proof.Machine
namespace Hw

/-! ### Readings of the window -/

/-- Sensor readings: 115 °C spoils the frame for a resumption, 125 °C trips (R228). -/
def takeSensors (h : Hw) (l : List (Fin 32 × Option Int)) : Hw :=
  h.each l fun h r =>
    let h := h.onTrl fun t => { t with sensors := upd t.sensors r.1 fun _ => r.2, tripHot := t.tripHot || r.2.any fun x => decide (1150 ≤ x) }
    h.whenB (r.2.any fun x => decide (1250 ≤ x)) fun h => h.tripNow r.1
/-- Receive meters and counts of the window of `cc` cycles just closed (R84, R89, R90, R92, Table 4.7). -/
def takeRx (h : Hw) (k cc : Nat) : Hw :=
  h.onPaths fun n p =>
    if !p.rxOn then { p with ovrLast := false }
    else
      let adc := ((h.adcNow n).take (6 * cc)).map adcCode
      let flags := adc.map (·.2)
      let c := ovrCount p.quiet flags
      { p with
        rxPower := h.meter n h.tim.tickC cc, ovrLast := flags.any id
        quiet := quietAfter p.quiet flags + (6 * cc - adc.length)
        ovrSamples := cnt 48 p.ovrSamples c.1, ovrEvents := cnt 32 p.ovrEvents c.2
        fsSamples := cnt 48 p.fsSamples (adc.filter fullScale).length
        ddcSat := cnt 32 p.ddcSat (h.ddcSats n h.tim.tickC cc), fftSat := cnt 32 p.fftSat (h.fftSats n k) }
/-- Transmit meters and counts of that window (R99, R104, Table 5.10). -/
def takeTx (h : Hw) (cc : Nat) : Hw :=
  h.onPaths fun n p =>
    if !p.txOn then p
    else
      let c := h.tim.tickC
      let x := h.cfrCounts n c cc
      { p with
        txPower := h.dacPower n c cc, ducSat := cnt 32 p.ducSat (h.ducSats n c cc), dacSat := cnt 32 p.dacSat (h.dacSats n c cc)
        cfrPeaks := cnt 48 p.cfrPeaks x.1, cfrMissed := cnt 32 p.cfrMissed x.2 }
/-- One parity error read from the downlink packet buffer (R204): the PRB or block counts as zero. -/
def bufError (h : Hw) (x : Nat × Nat × Nat) : Hw :=
  let first := !h.fhl.bufParityFrame
  let hit := fun (d : DlItem) => d.flow == x.1 && d.target == x.2.1 && decide (d.start ≤ x.2.2) && decide (x.2.2 < d.start + d.count)
  let h := h.onFhl fun f => { f with
    bufParity := inc f.bufParity, bufParityFrame := true
    dl := f.dl.map fun d => if hit d then { d with zeroed := (x.2.2 - d.start) :: d.zeroed } else d }
  h.whenB first fun h => h.alarm 0x0404 0
/-- `reads` reads of a bad entry of a path's active bank (R150): counted, and reported at the first read of the entry in the frame. -/
def bankError (h : Hw) (n key reads : Nat) : Hw :=
  let d := (h.path n).dpd
  let first := !d.parSeen.contains (d.active, key)
  h.whenB (reads != 0) fun h =>
    let h := h.onPath n fun p => { p with dpd := { p.dpd with
      parity := cnt 32 p.dpd.parity reads, parSeen := if first then (p.dpd.active, key) :: p.dpd.parSeen else p.dpd.parSeen } }
    h.whenB first fun h => h.alarm 0x0601 (signed 16 (n * 64 + b2n d.active * 32 + key / 256)) (key % 256)
/-- The bad entries that path n's predistorter has read in the window of `cc` cycles just closed. -/
def bankErrors (h : Hw) (cc n : Nat) : Hw :=
  let d := (h.path n).dpd
  h.each ((badEntries d).map fun key => (key, h.badReads n key h.tim.tickC cc)) fun h x =>
    h.bankError n x.1 x.2
/-- Bits of a bank entry change: a byte in which their number is odd no longer agrees with its parity, or agrees again (R150, R361). -/
def bankUpset (h : Hw) (x : DpdUpset) : Hw :=
  let e := x.table.val * 256 + x.entry.val
  h.onPath x.path fun p =>
    let d := putEntry p.dpd x.bank e (getEntry p.dpd x.bank e ^^^ x.flips)
    let odd := (List.range 4).filter fun i => popcount 8 (x.flips.toNat / 256 ^ i % 256) % 2 == 1
    { p with dpd := { d with badPar := odd.foldl (fun l i =>
      if l.contains (x.bank, 4 * e + i) then l.erase (x.bank, 4 * e + i) else (x.bank, 4 * e + i) :: l) d.badPar } }
/-- Share of the guaranteed lanes used in a window of `cc`, 0.1 %: the time the direction worked, and 1/16 of the lanes for each
time-domain beam, eight of which take half (R127, R140, Table 6.8; rounding: log 12). -/
def laneShare (busy beams cc : Nat) : Nat := Nat.min 1000 (showRat ((busy : Rat) / (100 * cc : Nat) + (125 * beams : Nat) / 2)).toNat
/-- Massif's use of its lanes in window k. -/
def takeLanes (h : Hw) (k : Nat) : Hw :=
  let h := h.massifAdvance
  let dl := (((h.fhl.dl.filter fun d => d.spur && d.target == k).map (·.layer)).eraseDups).length
  let ul := (((h.fhl.ul.filter fun u => u.spur && u.target == k).map (·.layer)).eraseDups).length
  let cc := h.winLen k
  h.onMas fun m => { m with
    busyDl := 0, busyUl := 0
    frameDl := Nat.max m.frameDl (laneShare m.busyDl dl cc), frameUl := Nat.max m.frameUl (laneShare m.busyUl ul cc) }
/-- The window's part in the mean power of the frame (R313), where PAEN has been high in it (log 13). -/
def takePaen (h : Hw) : Hw :=
  h.onPaths fun _ p =>
    if p.fem.paenSeen then { p with fem := { p.fem with
      paenWindows := p.fem.paenWindows + 1, powerSum := p.fem.powerSum + p.txPower, paenSeen := false } }
    else p

/-! ### The end of a frame -/

/-- F_T of R313 at a FEM temperature in 0.1 °C: EA over k_B is in kelvin. -/
def heatFactor (y : Policy) (tFem : Rat) : Rat :=
  let kelvin := fun (x : Rat) => x / 10 + 5463 / 20
  min ((y.rateMax : Rat) / 256) (Real.exp ((y.ea : Rat) * 100000 / 8617 * (1 / kelvin y.tRef - 1 / kelvin tFem)))
/-- F of R313, from the frame's readings: the mean drain current in mA, and the output power over P_RATED in dB. -/
def stressFactor (y : Policy) (id : FemId) (f : Fem) (tFem : Rat) : Rat :=
  let iD : Rat := if f.iCount = 0 then 0 else (f.iSum : Rat) / (f.iCount : Rat) * (id.isnsGain : Rat) / 65536
  let mean : Rat := if f.paenWindows = 0 then 0 else (f.powerSum : Rat) / (f.paenWindows : Rat)
  let pOver : Rat := (mean + (id.gain : Rat) - (id.pRated : Rat)) / 100 + Real.decibels ((id.dacFs : Rat) ^ 2 * 25 / 4000)
  min ((y.rateMax : Rat) / 256)
    (Real.power (iD / (id.iRated : Rat)) ((y.aI : Rat) / 4096) * Real.power 10 ((y.aP : Rat) / 4096 * pOver / 10) * heatFactor y tFem)
/-- ΔS of R313 in units of 2^-40 of 0.001 stress-hours. -/
def stressUnits (y : Policy) (id : FemId) (f : Fem) (tFem : Rat) : Nat :=
  let d : Rat := min 1 ((f.paenCc : Rat) / 9830400)
  let s : Rat := (d * stressFactor y id f tFem + (1 - d) * ((y.wOff : Rat) / 65536) * heatFactor y tFem) / 360000
  (showRat (s * 1000 * (usedUnit : Rat))).toNat
/-- Stress of the frame just ended on path n, whose bias is at its operating level (R313). -/
def accrue (h : Hw) (n : Nat) : Hw :=
  let p := h.path n
  match p.fem.id with
  | none => h
  | some id =>
    h.whenB (p.bias.operating && !p.retired) fun h =>
      let ds := stressUnits h.image.policy id p.fem (h.femTempOf (n / 4))
      h.onPath n fun p => { p with fem := { p.fem with
        used := p.fem.used + ds, onTime := p.fem.onTime + ds, biasedTime := p.fem.biasedTime + ds, dirty := true } }
/-- Every path's stress, the span with PAEN high counted up to now, and the sums of the next frame at zero. -/
def accrueAll (h : Hw) : Hw :=
  let up := h.up
  let h := h.onPaths fun _ p => p.setPaen up p.paen
  (h.each (List.range 64) accrue).onPaths fun _ p => { p with fem := { p.fem with iSum := 0, iCount := 0, paenWindows := 0, paenCc := 0, powerSum := 0 } }
/-- A frame ends: its stress, the ages that count frame ticks (R160, R219), the peak shares (Table 6.8), and the marks of what has been
reported once in it (R141, R150, R204, R357, R361). -/
def frameEnd (h : Hw) : Hw :=
  let h := h.accrueAll
  let h := h.onPaths fun _ p => { p with dpd := { p.dpd with age := Nat.min 65535 (p.dpd.age + 1), parSeen := [] } }
  let h := h.onQuads fun _ x => { x with hkAge := x.hkAge + 1 }
  let h := h.onMas fun m => { m with peakDl := m.frameDl, peakUl := m.frameUl, frameDl := 0, frameUl := 0, ueSeen := [] }
  let h := h.onFhl fun f => { f with bufParityFrame := false }
  { h with smem := vmapi h.smem fun _ x => { x with ueFrame := false }, fifoSeen := false }

/-! ### The close -/

/-- A solve quantum that no CAL_SOLVE_DONE has ended ends with its window (R250). -/
def countSolve (h : Hw) (k : Nat) : Hw :=
  h.whenB (h.trl.grants.contains { window := k, cls := 2, unit := 2 }) fun h => h.onCal fun c =>
    { c with run := c.run.map fun r => if r.solved + 1 < solveNeed h.scs r then { r with solved := r.solved + 1 } else r }
/-- Reservations and grants of windows up to k fall away. -/
def prune (h : Hw) (k : Nat) : Hw :=
  h.onTrl fun t => { t with
    res := t.res.filter fun r => k < r.1.1, tdCharged := t.tdCharged.filter fun r => k < r.1, grants := [] }
/-- Window k closes, and where `frame` holds its frame ends with it. -/
def closeWindow (h : Hw) (m : Mem) (w : WindowIn) (k : Nat) (frame : Bool) : Hw :=
  let h := ((h.each (List.finRange 16) fun h t => abandonAt h m t).each (List.range 32) (dmaExpire m)).capClose
  let cc := h.tim.c - h.tim.tickC
  let h := (((h.takeSensors w.sensors).takeRx k cc).keepUl k).each w.bufParity bufError
  let h := (((h.takeLanes k).airClose m k).takeTx cc).capTake
  let h := (h.each (List.range 64) fun h n => h.bankErrors cc n).each w.bankUpsets bankUpset
  let h := h.each w.egressParity fun h x =>
    { h.fifoError x.1 1 with out.flips := h.out.flips ++ [{ port := x.1, frame := x.2.1, octet := x.2.2.1, flips := x.2.2.2.toNat }] }
  let h := h.takePaen
  let h := h.whenB (7 ≤ h.sta.stage) fun h => h.addHeat k
  let h := (h.countSolve k).prune k
  let h := h.onPaths fun _ p => { p with dpd := { p.dpd with writers := [], posters := [] } }
  let h := h.onQuads fun _ x => { x with calSel := if x.calSel = 4 then 3 else x.calSel, obs := { x.obs with granted := false } }
  h.whenB frame frameEnd

end Hw

/-- Bits that failed in the window (R355, R356). -/
def Mem.upsets (m : Mem) (l : List (Nat × Bool)) : Mem := l.foldl Mem.upset m

end Sys2Proof.Machine
end

