-- ==== Sys2Proof/Machine/Order.lean ====
section
/-! DEFINITION. Steps 1 to 6 of a tick (Table 1.7): slot changes (R27 to R29, R65 to R70, R95, R113, R151), retirements and
restorations (R26, R312, R318, R319), calibration (R233, R242 to R245), bank switches (R147, R151), the states of the chains (R102,
R112), and what a frame tick recomputes (R154, R216, R227, R228, R314, R315). -/
namespace Sys2Proof.Machine
namespace Hw

/-! ### Step 1: the slot -/

/-- The reference slot of a bank lies too far from a new slot, or in another zone (R151). -/
def bankFar (h : Hw) (new : Slot) (ref : Option Nat) : Bool :=
  (ref.bind h.slotRec).any fun r =>
    let a := spanMid4 r.inUse
    let b := spanMid4 new.inUse
    decide (80000 < ((a : Int) - b).natAbs) || txZone a != txZone b
/-- Banks go back to DPD_INIT where their reference slot lies too far from a new slot. -/
def bankInit (h : Hw) (new : Slot) : Hw :=
  h.onPaths fun n p => if h.bankFar new p.dpd.refSlot then { p with dpd := dpdReload p.dpd (h.dpdInitOf n) } else p
/-- Every flow's receive sequence loses its synchronisation, and transmit sequences start again (R43, R189). -/
def unsync (h : Hw) : Hw :=
  h.onFhl fun f => { f with seqs := vmapi f.seqs fun i s => if i < 128 then { s with synced := false, nextTx := 0 } else s }
/-- A slot takes effect on tick k; one that is in force already changes nothing (R27, R29). The flows' sequences start again with the epoch's
advance (R43, R188), which the first entry into slot 7 is not (R187). An occasion that it cuts has taken the samples up to here (R178). -/
def enterSlot (h : Hw) (new k : Nat) : Hw :=
  let old := h.mode.slot
  if old = some new then h
  else
    let oldR := old.bind h.slotRec
    let newR := h.slotRec new
    let rx := h.rxRestarts oldR newR k
    let tx := h.txRestarts oldR newR k
    let cuts := fun (o : Occasion) => decide (o.target < k) && decide (k < o.closing)
    let marks := (h.crn.occasions.filter fun o => cuts o && !o.cut && h.spanFlag o (h.groupEdge o o.groups) (h.tim.c * 100000)).map (·.order)
    let flows := (oldR.map (·.flowSet)) != (newR.map (·.flowSet))
    let up := h.up
    let c := h.tim.c
    let ep := h.epochAfter h.mode.epoch old new
    let h := { h with mode := { h.mode with slot := some new, epoch := ep, slotCount := h.mode.slotCount + 1, enteredAt := some up } }
    let h := if old.isSome && flows then h.unsync else h
    let h := h.onPaths fun _ p => { p with rxStart := if rx then c else p.rxStart, txStart := if tx then c else p.txStart }
    let h := match newR with
      | some r => h.bankInit r
      | none => h
    let lost := sumL ((h.crn.occasions.filter cuts).map fun o => (o.blocks.filter (!o.keeps ·)).length)
    h.onCrn fun x => { x with
      occasions := x.occasions.map fun o => if cuts o then { o.stop c with ovr := o.ovr || marks.contains o.order } else o
      extDropped := cnt 32 x.extDropped lost }
/-- The paths of the start slot that have no adapted bank carry the settling backoff (R69). -/
def settleStart (h : Hw) : Hw :=
  match h.slotNow with
  | none => h
  | some s =>
    if s.dpdMode = 1 ∨ s.dpdMode = 2 then
      h.onPaths fun n p => if bit s.txMask n && p.dpd.refSlot.isNone then { p with dpd := { p.dpd with settling := true } } else p
    else h
/-- S8 is declared (R68, R70). -/
def declareS8 (h : Hw) : Hw := (h.enterStage 8).ceaseAll 0x010D
/-- A fallback takes effect on tick k: it overrides what shares its tick, and void selections are discarded (R27, R28, R70). -/
def applyFallback (h : Hw) (k : Nat) : Hw :=
  let out := fun (m : Select) => m.void || m.tick == k
  let gone := (h.mode.selects.filter out).map (·.slot)
  let ann := match h.sta.announced with
    | some (sl, t) => if t = k then [sl] else []
    | none => []
  let h := { h with mode := { h.mode with selects := h.mode.selects.filter (!out ·), fallback := none } }
  let h := h.each (gone ++ ann) fun h sl => h.alarm 0x0401 sl
  let h := h.enterSlot 7 k
  if ann.isEmpty then h else (h.onSta fun s => { s with announced := none }).declareS8
/-- An announced entry takes effect on its tick (R65, R67, R68). -/
def applyAnnounced (h : Hw) (slot k : Nat) : Hw :=
  let s7 := h.sta.stage == 6
  let h := (h.onSta fun s => { s with announced := none }).enterSlot slot k
  if s7 then h.enterStage 7 else (if h.sta.wornAtEntry then h else h.settleStart).declareS8
/-- A selected slot takes effect on its tick. -/
def applySelect (h : Hw) (k : Nat) : Hw :=
  match h.mode.selects.find? fun m => m.tick == k && !m.void with
  | none => h
  | some x => ({ h with mode := { h.mode with selects := h.mode.selects.filter fun m => m.void || m.tick != k } }).enterSlot x.slot k
/-- Step 1 of tick k. -/
def step1 (h : Hw) (k : Nat) : Hw :=
  if h.mode.fallback = some k then h.applyFallback k
  else match h.sta.announced with
    | some (sl, t) => if t = k then h.applyAnnounced sl k else h.applySelect k
    | none => h.applySelect k

/-! ### Step 2: retirements, then restorations -/

/-- A path's state changes during the collection of an occasion (R178). -/
def markChanged (h : Hw) (n : Nat) : Hw :=
  let go := fun (o : Occasion) =>
    if o.active && decide (h.tim.k < o.closing) then { o with changed := n :: o.changed.filter (· ≠ n) } else o
  h.onCrn fun x => { x with occasions := x.occasions.map go }
/-- The retirements of path n that are due by tick k. One of a path retired already ends a restore of the same tick (Table 1.7). -/
def retireDue (h : Hw) (k n : Nat) : Hw :=
  let due := (h.path n).retireAt.filter fun r => decide (r.1 ≤ k)
  if due.isEmpty then h
  else
    let was := (h.path n).retired
    let cause := ((due.find? fun r => r.2 != 6).map (·.2)).getD 6
    let write := cause == 6 && (h.path n).fem.id.isSome
    let h := h.onPath n fun p => { p with retireAt := p.retireAt.filter fun r => decide (k < r.1) }
    if was then h.onPath n fun p => if p.restore.any fun r => r.kr == some k then { p with restore := none } else p
    else
      let up := h.sta.since
      let h := h.onPath n fun p =>
        let p := p.setPaen up false
        { p with retired := true, disabled := false, lnaen := false, fem := { p.fem with failCause := cause, writeDue := p.fem.writeDue || write } }
      let h := h.whenB (write && !(h.quad (n / 4)).busStuck) fun h => h.busAdd (n / 4) 4 n
      (h.calLeave n k).markChanged n
/-- A restore of path n that is due by tick k takes effect, or has none where the FEM's alarm pin is still active (R312). -/
def restoreDue (h : Hw) (k n : Nat) : Hw :=
  match (h.path n).restore with
  | none => h
  | some r =>
    h.whenB (r.kr.any (· ≤ k)) fun h =>
      let h := h.onPath n fun p => { p with restore := none }
      if r.alarm then h.alarm 0x0507 n
      else
        (h.onPath n fun p => { p with
          retired := false, disabled := false, fem := { p.fem with failCause := 0, missedPolls := 0, biasRun := 0, reflRun := 0 } }).markChanged n
/-- The target tick of an accepted PATH_RESTORE comes: the read of a retired path starts (R312). -/
def restoreStart (h : Hw) (k n : Nat) : Hw :=
  h.whenB ((h.path n).restoreAt.any (· ≤ k)) fun h =>
    let go := (h.path n).retired && (h.path n).restore.isNone
    let h := h.onPath n fun p =>
      { p with restoreAt := p.restoreAt.filter (k < ·), restore := if go then some { target := k } else p.restore }
    h.whenB go fun h => h.busAdd (n / 4) 3 n
/-- WORN_NO_SPARE: the fallback tick is set, later selections become void, and uplink requests from then on are reduced (R28, R70). -/
def wornNoSpare (h : Hw) (kf : Nat) : Hw :=
  let h := h.alarm 0x0402 (h.retiredCount : Int)
  let void := fun (m : Select) => if kf ≤ m.tick then { m with void := true } else m
  let less := fun (u : UlItem) => if kf ≤ u.target then { u with reduced := true } else u
  let h : Hw := { h with mode := { h.mode with fallback := some kf, selects := h.mode.selects.map void } }
  h.onFhl fun f => { f with ul := f.ul.map less }
/-- The allowance that the count is checked against, and the fallback tick: those of the slot in force, or in S7 those of an announced
start slot (R28, R70). -/
def allowanceAt (h : Hw) (k : Nat) : Option (Nat × Nat) :=
  match h.sta.announced, h.sta.stage == 7 with
  | some (sl, kf), true => if sl = 7 then none else (h.slotRec sl).map fun r => (r.allowance, kf)
  | _, _ => h.slotNow.map fun r => (r.allowance, (k / h.perFrame + 1) * h.perFrame)
/-- Step 2 of tick k. -/
def step2 (h : Hw) (k : Nat) : Hw :=
  let before := h.retiredCount
  let all := List.range 64
  let h := h.each all fun h n => h.retireDue k n
  let h := h.each all fun h n => h.restoreDue k n
  let h := h.each all fun h n => h.restoreStart k n
  match h.allowanceAt k with
  | some (a, kf) =>
    h.whenB (h.mode.fallback.isNone && decide (before ≤ a) && decide (a < h.retiredCount)) fun h => h.wornNoSpare kf
  | none => h

/-! ### Step 3: calibration -/

/-- The injected conversions of a frame tick at the ADCs that a run holds (R242). -/
def calInject (h : Hw) : Hw :=
  h.whenB h.calCollects fun h => h.each (List.range 16) fun h q =>
    h.whenB ((h.quad q).calHeld && ((h.quad q).injAt h.up).injPending.isNone) fun h => h.injectAsk q 8 true
/-- A transmit run is in progress. -/
def calTxRun (h : Hw) : Bool := h.cal.run.any fun r => r.started && calHas r true
/-- The observation receivers that no run holds any more resume at a frame tick (R156). -/
def obsRelease (h : Hw) : Hw :=
  h.whenB (!h.calTxRun) fun h => h.each (List.range 16) fun h q =>
    let o := (h.quad q).obs
    h.whenB o.onCal fun h => (h.onQuad q fun x => { x with obs := { x.obs with onCal := false, state := 0 } }).obsMove q o.cur
/-- A run at a slot change of step 1 on tick k: an abort of the same tick is the first cause in the order of Table 11.3 (R244, R245). -/
def calSlot (h : Hw) (k : Nat) : Hw := (h.calAbortAt k).calSlotChanged k
/-- Step 3 of tick k. -/
def step3 (h : Hw) (k : Nat) (frame : Bool) : Hw :=
  let h := (h.calAbortAt k).calCommit k
  let h := h.whenB frame calInject
  let h := ((h.calStart k).calAcquired).calPicks
  h.whenB frame obsRelease

/-! ### Step 4: banks -/

/-- Step 4 on path n: LOAD_INIT discards a switch; a switch is made whatever the slot (R147, R151). -/
def bankStep (h : Hw) (ref : Option Nat) (k n : Nat) : Hw :=
  let d := (h.path n).dpd
  if d.loadPending then
    h.onPath n fun p => { p with dpd := { dpdReload p.dpd (h.dpdInitOf n) with loadPending := false, switchPending := false, posters := [] } }
  else if d.switchPending then (h.onPath n fun p => { p with dpd := dpdSwitch p.dpd k ref }).cease 0x0605 n
  else h
/-- Step 4 of tick k. -/
def step4 (h : Hw) (k : Nat) : Hw :=
  let ref := if h.adaptS7 then some h.image.startSlot else h.mode.slot
  h.each (List.range 64) fun h n => h.bankStep ref k n

/-! ### The chains -/

/-- What the slot in force and the path's state make of its chains (R90, R102, R109, R111, R112, R120). -/
def chains (h : Hw) (frame : Bool) : Hw :=
  let sl := h.slotNow
  let c := h.tim.c
  let mix := sl.any fun s => txZone (spanMid4 s.inUse) == 2
  let noDpd := !(sl.any fun s => s.dpdMode != 0)
  let slB := (sl.map (·.backoff)).getD 0
  h.onPaths fun n p =>
    let rx := sl.any fun s => h.maskBit s s.rxMask h.retired n
    let tx := sl.any fun s => h.maskBit s s.txMask h.retired n
    let en := tx && !p.retired
    let start := en && !p.txLive && frame
    let run := tx && (p.txRun || start)
    { p with
      rxPower := if rx then p.rxPower else -32768, txPower := if tx then p.txPower else -32768
      rxOn := rx, rxStart := if rx && !p.rxOn then c else p.rxStart
      txOn := tx, txLive := en && (p.txLive || frame), started := p.started || start, txStart := if start then c else p.txStart
      txRun := run, rxFrom := if rx && !p.rxOn then c else p.rxFrom, rxTo := if p.rxOn && !rx then c else p.rxTo
      txFrom := if run && !p.txRun then c else p.txFrom, txTo := if p.txRun && !run then c else p.txTo
      dacMix := mix, cfrPlaceB := sl.isSome && noDpd, dpdBypass := noDpd
      backoff := if sl.isNone then 0 else Nat.min 24 (slB + (if p.fem.worn then 6 else 0) + if p.dpd.settling then 6 else 0) }

/-! ### Step 6: frame ticks -/

/-- The latest reading of some sensor is at or above 115 °C: an unlisted one keeps its latest reading (R228; log 53). -/
def sensorHot (h : Hw) : Bool := h.trl.sensors.toList.any fun r => r.any fun x => decide (1150 ≤ x)
/-- A trip ends where no reading of the frame that this tick closes was at or above 115 °C and no sensor stands there (R228, R229). -/
def tripFrame (h : Hw) (k : Nat) : Hw :=
  let h := h.whenB (h.trl.trip && !h.trl.tripHot && !h.sensorHot) fun h =>
    let up := h.up
    let h := h.happen { code := 0x0901, arg := (h.trl.tripSensor : Int), cease := true, tick := some k }
    let h := h.onTrl fun t => { t with trip := false, tripEnd := some up }
    h.onPaths fun _ p => { p with mutedTrip := false }
  h.onTrl fun t => { t with tripHot := false }
/-- A received share becomes the array ceiling (R227). -/
def applyShare (h : Hw) : Hw :=
  h.onTrl fun t => match t.shareNext with
    | some x => { t with share := some x, shareNext := none, shareReceived := true }
    | none => t
/-- What a frame tick does on the FEM buses: the recovery of each stuck one is repeated (R304), and status polls and the life writes that
are due are queued (R312, R314, R315). -/
def femFrame (h : Hw) : Hw :=
  let h := h.busPut (((List.range 16).filter fun q => (h.quad q).busStuck).map BusItem.recover)
  h.each (List.range 64) fun h n =>
    let p := h.path n
    let q := n / 4
    let h := h.whenB (!p.retired || p.restore.any (·.read)) fun h => h.busAdd q 2 n
    h.whenB (p.fem.writeDue && !(h.quad q).busStuck) fun h => h.busAdd q 4 n
/-- Step 6 of frame tick k; `first` on the tick on which slot 7 takes effect in S7 (R216). -/
def step6 (h : Hw) (k : Nat) (first : Bool) : Hw :=
  let h := (h.tripFrame k).applyShare
  let h := h.whenB (7 ≤ h.sta.stage) fun h => (h.setCeilings first).reportCeilings k first
  let h := h.onTrl fun t => { t with heat := Vector.replicate 3 0 }
  let h := h.whenB (first || (7 ≤ h.sta.stage && k / h.perFrame % 10 == 0)) sendShares
  h.femFrame

/-! ### The observation scheduler (R153, R154) -/

/-- The scheduler of a quad at a tick: it idles, starts a rotation, tries a lost quad again at a frame tick, or leaves a path that is no
longer eligible. -/
def obsTick (h : Hw) (frame : Bool) (q : Nat) : Hw :=
  let o := (h.quad q).obs
  let leave := fun (h : Hw) => if o.state = 1 then h.busLeave q 1 (4 * q + o.cur) else h
  if o.onCal then h
  else if !h.obsServes then
    if o.state = 0 then h else (leave h).onQuad q fun x => { x with obs := { x.obs with state := 0, failed := 0 } }
  else if o.state = 0 then
    match (h.obsList q).head? with
    | some j => if o.lost && !frame then h else (h.onQuad q fun x => { x with obs := { x.obs with failed := 0 } }).obsSelect q j
    | none => h
  else if h.obsEligible q o.cur then h
  else (leave h).obsMove q o.cur

end Hw
end Sys2Proof.Machine
end

