-- ==== Sys2Proof/Machine/Grants.lean ====
section
/-! DEFINITION. Step 7 of a tick: discretionary quanta granted class by class (R25, R157, R224, R225, R250, R386) and the job descriptors
posted to the engines (R346, R347). -/
namespace Sys2Proof.Machine

/-- A quantum on offer: its unit as a descriptor or a grant names it, its charges, and the engine whose queue takes its descriptor. -/
structure Cand where
  unit : Nat
  charge : List (Nat × Nat)
  engine : Option EngId := none
  job : Nat := 0
  /-- occasion of an extension block -/
  order : Nat := 0

namespace Hw

/-- A job descriptor into an engine's queue, or, where 32 wait there, a quantum abandoned (R346, R347). -/
def post (h : Hw) (t : EngId) (job unit : Nat) (mandatory : Bool) (k : Nat) : Hw :=
  let j : Job := { w0 := BitVec.ofNat 32 (job + 65536 * (unit % 256) + 2 ^ 24 * b2n mandatory), tick := low32 k }
  if 32 ≤ (h.eng t).jobs.length then h.dropJob t j
  else (h.onTor t fun e => { e with jobs := e.jobs ++ [j] }).pulse (16 + t.val)
/-- An engine that takes descriptors: one that is neither halted nor without a program. -/
def takes (h : Hw) (t : EngId) : Bool := (h.eng t).state == 1 || (h.eng t).state == 2
/-- One candidate of class c in window k, `n` granted before it: granted and started by `act`, or skipped (R224). -/
def offer1 (k c : Nat) (act : Hw → Cand → Hw) (a : Hw × Nat) (x : Cand) : Hw × Nat :=
  let h := a.1
  let lim := getN h.trl.classLimit (c - 1) 0xFF
  if lim ≠ 0xFF ∧ lim ≤ a.2 then a
  else if (h.lacking k x.charge).isEmpty then
    let h := (h.reserve k x.charge).onTrl fun t =>
      { t with granted := updN t.granted (c - 1) inc48, grants := t.grants ++ [{ window := k, cls := c, unit := x.unit }] }
    let h := act h x
    let h := match x.engine with
      | some t => h.post t x.job x.unit false k
      | none => h
    (h, a.2 + 1)
  else (h.onTrl fun t => { t with skipped := updN t.skipped (c - 1) inc }, a.2)
/-- The candidates of class c, in their order of offer. -/
def offer (h : Hw) (k c : Nat) (l : List Cand) (act : Hw → Cand → Hw := fun h _ => h) : Hw := (l.foldl (offer1 k c act) (h, 0)).1

/-! ### Candidates (Table 10.5) -/

/-- The scheduler of quad q could observe the symbol that opens on tick k (R155, R157). -/
def obsNow (h : Hw) (q k : Nat) : Bool :=
  let o := (h.quad q).obs
  o.state == 3 && o.enable && h.slotNow.any fun sl => h.tddCode sl q k == 1
/-- Class 1: one quantum per quad with an eligible path: the symbol's observation, or a run of firmware (R153, R157). -/
def dpdCands (h : Hw) (k : Nat) : List Cand :=
  ((List.range 16).map fun i => (h.trl.lastQuad + 1 + i) % 16).filterMap fun q =>
    let x := h.quad q
    let has := h.obsServes && !x.obs.onCal && (h.obsList q).any fun i => !bit x.obs.failed i
    let ps := [4 * q + x.obs.cur]
    let ch := if h.adaptS7 then chargesIn h h.image.startSlot 0x0100 1 ps else h.charges k 0x0100 1 ps
    if !has then none
    else if h.obsNow q k then some { unit := q, charge := ch }
    else if h.takes x.route then some { unit := q, charge := ch, engine := some x.route, job := 0x0100 }
    else none
/-- Class 2: the steps of the calibration run (R250). -/
def calCands (h : Hw) (k : Nat) : List Cand :=
  (h.calOffers k).map fun o => { unit := o.1, charge := h.charges k 0x0101 1 o.2 }
/-- Class 3: extension blocks, earliest REPORT_TICK first, in ascending order of their beams (R171, R176): those that wait to be
evaluated for the group that ended last. -/
def crnCands (h : Hw) (k : Nat) : List Cand :=
  if !(h.slotNow.any fun s => s.cairn == 1) then []
  else
    let os := sortBy (·.report) (h.crn.occasions.filter fun o => decide (1 ≤ o.groups) && !o.cut && !o.failed && decide (k < o.report))
    (os.map fun o =>
      let t := getN h.crn.route (o.contexts.headD 0) 0
      if !h.takes t then []
      else (o.blocks.filter fun b => !(o.evaluated.contains b || o.quanta.any (·.block == b))).map fun b =>
        ({ unit := b, charge := h.charges k 0x0102 (o.families.length * o.freqHyp * blockBeams o b * o.coh) [], engine := some t
           job := 0x0102, order := o.order } : Cand)).flatten
/-- Class 4: set-ups with data waiting (R386). A quantum concerns the enabled paths of the flanks whose segments it sends (R221). -/
def capCands (h : Hw) (k : Nat) : List Cand :=
  h.capOffers.map fun o =>
    let fs := (h.capQuantum o.1).map (·.flank)
    { unit := o.1, charge := h.charges k 0x0103 o.2 ((List.range 64).filter fun n => fs.contains (n / 16) && (h.txEnabled n || h.rxEnabled n)) }
/-- Class 5: the statistics quanta that engines offer (R346). -/
def statCands (h : Hw) (k : Nat) : List Cand :=
  ((List.finRange 16).map fun t =>
    if h.takes t then (List.range (h.eng t).statOffer).map fun i =>
      ({ unit := i, charge := h.charges k 0x0104 1 [], engine := some t, job := 0x0104 } : Cand)
    else []).flatten

/-- Step 7 of tick k. -/
def step7 (h : Hw) (m : Mem) (k : Nat) : Hw :=
  let h := h.offer k 1 (h.dpdCands k) fun h x =>
    (h.onTrl fun t => { t with lastQuad := x.unit }).whenB x.engine.isNone fun h =>
      h.onQuad x.unit fun q => { q with obs := { q.obs with granted := true } }
  let h := h.offer k 2 (h.calCands k) fun h x => h.whenB (x.unit == 1) fun h => h.calBegin k
  let h := h.offer k 3 (h.crnCands k) fun h x =>
    h.onCrn fun c => { c with occasions := c.occasions.map fun o => if o.order = x.order then
      { o with quanta := o.quanta ++ [{ block := x.unit, engine := (x.engine.map (·.val)).getD 0, tick := low32 k }] } else o }
  let h := h.offer k 4 (h.capCands k) fun h x => h.capSend m x.unit
  h.offer k 5 (h.statCands k)

end Hw
end Sys2Proof.Machine
end

