-- ==== Sys2Proof/Machine/Start.lean ====
section
/-! DEFINITION. Step 8 of a tick: the items of the window start (R4, R93, R178, R190, R346), Massif's latch (R133), and what follows the
tick at the pins: tones (R115), BIAS (R320 to R322), TRSW, PAEN and LNAEN (R190), and wear (R317). -/
namespace Sys2Proof.Machine
namespace Hw

/-! ### Occasions, requests -/

/-- Occasions begin on their target tick and stop collecting on their closing tick (R167). One whose target tick finds another slot in force
than it was admitted under collects nothing and is reported CUT_BY_SLOT (DESIGN CHOICE, log 127: Table 8.7 speaks of a slot change during
the span). -/
def occStart (h : Hw) (k : Nat) : Hw :=
  let en := (List.range 64).filter h.rxEnabled
  let slot := h.mode.slot
  let c := h.tim.c
  let go := fun (o : Occasion) =>
    if o.target = k then (if slot = some o.slot then { o with active := true, pathsUsed := en } else { o with cut := true, stopAt := some c })
    else if o.closing ≤ k then { o with active := false } else o
  let news := h.crn.occasions.filter fun o => o.target == k
  let h := h.onCrn fun x => { x with occasions := x.occasions.map go }
  h.each news fun h o => h.onCrn fun x => { x with tags := vmapi x.tags fun c t => if o.contexts.contains c then o.tag else t }
/-- The SEARCH shares of window k: one mandatory descriptor for each collecting occasion; an engine that does not run delivers the
occasion FAILED (R346, R351). -/
def shares1 (h : Hw) (k : Nat) (o : Occasion) : Hw :=
  let c := o.contexts.headD 0
  let t := getN h.crn.route c 0
  if h.takes t then h.post t 4 c true k else h.failContext c
/-- Every share of window k. -/
def searchShares (h : Hw) (k : Nat) : Hw :=
  h.each (h.crn.occasions.filter fun o => decide (o.target ≤ k) && decide (k < o.closing) && !o.cut && !o.failed) fun h o => h.shares1 k o
/-- The uplink requests of tick k take the slot in force and the paths they combine: enabled ones of quads whose whole symbol is uplink
(R120, R133, R190). -/
def ulStart (h : Hw) (k : Nat) : Hw :=
  match h.slotNow with
  | none => h
  | some sl =>
    let ps := fun (u : UlItem) => (List.range 64).filter fun n => h.rxEnabled n && h.symbolIs sl (n / 4) k (u.closing - k) 2
    let take := fun (u : UlItem) => if u.target = k then { u with taken := some (sl.slot, ps u) } else u
    h.onFhl fun f => { f with ul := f.ul.map take }
/-- Massif latches the downlink symbol of tick k + 2 at tick k (R133). -/
def latchNext (h : Hw) (k : Nat) : Hw :=
  h.whenB (((h.expected (k + 2)).bind h.slotRec).any fun sl => h.symbolSome sl (k + 2) 1 1) fun h => h.latch k

/-! ### BIAS (R321, R322) -/

/-- The path is enabled for the downlink on tick t, as far as it is known now. -/
def txAt (h : Hw) (n t : Nat) : Bool := ((h.expected t).bind h.slotRec).any fun sl => h.enabledTx sl (h.retiredAt t) n
/-- A code moved toward a value by at most 16 codes. -/
def toward (x y : Nat) : Nat := if x < y then Nat.min y (x + 16) else Nat.max y (x - 16)
/-- BIAS of a path whose two levels differ in range or source: the change is made break-before-make, ahead of enabling and one tick after
disabling, with PAEN forced low about it. -/
def biasBreak (h : Hw) (k n lead : Nat) (op : Nat × Nat) (frame : Bool) : Hw :=
  let b := (h.path n).bias
  let on := h.txEnabled n
  let soon := (List.range lead).any fun i => h.txAt n (k + 1 + i)
  let change := fun (h : Hw) (up : Bool) => h.onPath n fun p =>
    { p with bias := { p.bias with operating := up, brk := true, range := 3, forcedTo := some (k + lead - 1), due := none } }
  if !b.operating then
    if on || soon then change h true
    else if h.txAt n (k + lead + 1) then h.onPath n fun p => { p with bias := { p.bias with forcedTo := some k } }
    else h
  else if on || soon then
    h.onPath n fun p => { p with bias := { p.bias with due := none, code := if frame && !b.brk then toward b.code op.1 else b.code } }
  else match b.due with
    | some (t, _) => if t ≤ k then change h false else h
    | none => h.onPath n fun p => { p with bias := { p.bias with due := some (k + 1, false), forcedTo := some k } }
/-- BIAS of path n at tick k. -/
def biasTick (h : Hw) (k n : Nat) (frame : Bool) : Hw :=
  let h := h.onPath n fun p => { p with bias := { p.bias with forcedTo := p.bias.forcedTo.filter (k ≤ ·) } }
  let safe := h.biasSafe n
  match (h.path n).fem.id with
  | none => h
  | some id =>
    let op := h.biasOp n id
    if op.2 ≠ safe.2 then h.biasBreak k n (if h.scs = 2 then 2 else 1) op frame
    else
      let on := h.txEnabled n
      let was := (h.path n).bias.operating
      h.onPath n fun p => { p with bias := { p.bias with
        operating := on, range := safe.2
        code := if !on then safe.1 else if !was then op.1 else if frame then toward p.bias.code op.1 else p.bias.code } }

/-! ### Pins and wear -/

/-- TRSW, PAEN and LNAEN take the positions of the tick's TDD code, from S7 on (Table 9.4, R26, R228, R322). -/
def tddPins (h : Hw) (k : Nat) : Hw :=
  match h.slotNow with
  | none => h
  | some sl =>
    let trip := h.trl.trip
    let up := h.up
    h.onPaths fun n p =>
      let c := h.tddCode sl (n / 4) k
      let on := c == 1 && h.enabledTx sl h.retired n && !p.disabled && p.bias.forcedTo.isNone && !trip
      let p := p.setPaen up on
      { p with trsw := c == 1, lnaen := c == 2 && h.enabledRx sl h.retired n, fem := { p.fem with paenSeen := on } }
/-- A FEM whose USED has reached RATED_SH is worn: its life page is written on this frame tick (R314, R317). -/
def wearTick (h : Hw) (n : Nat) : Hw :=
  let f := (h.path n).fem
  h.whenB (!f.worn && f.isWorn) fun h =>
    let live := !(h.path n).retired
    let h := (h.onPath n fun p => { p with fem := { p.fem with worn := true, writeDue := p.fem.writeDue || live } }).alarm 0x0509 n
    h.whenB (live && !(h.quad (n / 4)).busStuck) fun h => h.busAdd (n / 4) 4 n
/-- Step 8 of tick k, and what the tick does at the pins. -/
def step8 (h : Hw) (m : Mem) (k : Nat) (frame : Bool) : Hw :=
  let h := (h.occStart k).searchShares k
  let h := ((h.airTick m k).ulStart k).latchNext k
  let up := h.up
  let h := h.onPaths fun _ p => { p with tone := toneApply p.tone up }
  let h := h.each (List.range 64) fun h n => h.biasTick k n frame
  let h := h.whenB (7 ≤ h.sta.stage) fun h => h.tddPins k
  h.whenB frame fun h => h.each (List.range 64) wearTick

end Hw
end Sys2Proof.Machine
end

