-- ==== Sys2Proof/Machine/Tick.lean ====
section
/-! DEFINITION. TICK (R27): the window that closes, then steps 1 to 8 of Table 1.7 for the window that opens. -/
namespace Sys2Proof.Machine
namespace Hw

/-- Window k opens: its event lines pulse (R343), its SYNC packet is made (R405), and the ENG writes of the window before take effect
(R115, R225, R346). -/
def openWindow (h : Hw) (k : Nat) (frame : Bool) : Hw :=
  let c := h.tickAt k
  let h := h.onTim fun t => { t with k := k, tickC := c, open_ := true }
  let h := (h.pulse 0).whenB (h.isSlotTick k) fun h => h.pulse 1
  let h := h.whenB frame fun h => h.pulse 2
  let h := h.whenB (frame && h.traceOn) fun h =>
    h.trace { type := 1, source := 0xFF, info := 0, cc := low32 h.tim.c, lo := low32 k, hi := low32 (todS h.now) }
  let h := h.onTrl fun t => { t with
    classLimit := vmapi t.classLimit fun i x => (getN t.classNext i none).getD x, classNext := Vector.replicate 5 none }
  let h := h.onCrn fun x => { x with
    route := vmapi x.route fun i r => (getN x.routeNext i none).getD r, routeNext := Vector.replicate 4 none }
  let h := h.onQuads fun _ x => { x with route := x.routeNext.getD x.route, routeNext := none }
  let h := h.onTors fun _ e => { e with statOffer := e.statNext.getD e.statOffer, statNext := none }
  let n := h.runningEngines
  let h := h.onTrl fun t => { t with pool := n }
  h.onFhl fun f => { f with control := f.control.filter (k < ·) }
/-- Steps 1 to 8 of tick k. -/
def steps (h : Hw) (m : Mem) (k : Nat) (frame : Bool) : Hw :=
  let slot := h.mode.slot
  let stage := h.sta.stage
  let h := h.whenB frame fun h => h.step1 k
  let first := stage == 6 && h.sta.stage == 7
  let h := (h.whenB (h.mode.slot != slot) fun h => h.calSlot k).step2 k
  let h := h.step3 k frame
  let h := (h.step4 k).chains frame
  let h := h.whenB frame fun h => h.step6 k first
  let h := capTick (h.each (List.range 16) fun h q => h.obsTick frame q) k
  let h := h.whenB (7 ≤ h.sta.stage) fun h => h.step7 m k
  h.step8 m k frame
/-- The converters' samples of the window that opens now; 16 windows stay, and what an occasion's current group still needs (R75, R172), with
the trims under which they are read (R79). -/
def takeAdc (h : Hw) (l : List RxWin) : Hw :=
  let from_ := h.searchFrom
  h.onPaths fun n p =>
    let adc := { c := h.tim.c, x := ((l.find? fun x => x.path.val == n).map (·.adc)).getD [] } ::
      (p.adc.take 15 ++ (p.adc.drop 15).filter fun w => decide (from_ ≤ w.c))
    let since := (adc.getLast?.map (·.c)).getD 0
    { p with adc := adc, rxOld := p.rxOld.filter fun o => decide (since < o.1), txOld := p.txOld.filter fun o => decide (since < o.1) }
/-- The same of the observation receivers; 4 windows stay (R152). -/
def takeObs (h : Hw) (l : List (QuadId × List (Int × Bool))) : Hw :=
  h.onQuads fun q x => { x with obs := { x.obs with
    adc := { c := h.tim.c, x := ((l.find? fun y => y.1.val == q).map (·.2)).getD [] } :: x.obs.adc.take 3 } }
/-- A converter that the window finds powered down samples nothing (R74); what the window makes of a path for the uplink is noted. -/
def dropAdc (h : Hw) : Hw :=
  let now := h.tim.c
  h.onPaths fun n p => { p with adc := p.adc.map fun w => if w.c = now then { w with on := h.rxEnabled n, x := if p.rxOn then w.x else [] } else w }
/-- What Massif has handed the transmit chains for the window that opens, and where their input is forced to zero (R112). -/
def takeSym (h : Hw) (k : Nat) : Hw :=
  { h with txWins := ({ tick := k, c := h.tim.c, sym := h.out.sym, forced := (List.range 64).filter h.inputForced } :: h.txWins).take 16 }
/-- The tick comes and the window that stands open closes: `w` is what it has shown. -/
def closed (h : Hw) (m : Mem) (w : WindowIn) : Hw :=
  let h := (h.toTick.takeAdc w.rx).takeObs w.obs
  h.whenB h.tim.open_ fun h => h.closeWindow m w h.tim.k (h.isFrame h.nextTick)
/-- The next tick. -/
def tick (h : Hw) (m : Mem) (w : WindowIn) : Hw :=
  let k := h.nextTick
  let frame := h.isFrame k
  (((h.closed m w).openWindow k frame).steps m k frame).dropAdc.takeSym k

end Hw

/-- A tick comes (R27); step 5 needs nothing: a use names its version by its own tick (R129). There are ticks from S4 on (R63). -/
def execTick (w : WindowIn) (s : State) : Host.Outcome State Fault Refusal :=
  okM s 0 fun h m =>
    if h.sta.stage < 4 then (h, m)
    else
      let m := if h.tim.open_ then m.upsets w.upsets else m
      (h.tick m w, if h.tim.open_ then (h.closed m w).capWrite m else m)

end Sys2Proof.Machine
end

