-- ==== Sys2Proof/Machine/TorAlu.lean ====
section
/-! DEFINITION. Tor moves and ALU instructions (Tables 15.3 and 15.6). -/
namespace Sys2Proof.Machine

/-- What a write of a register code produces for address generation (Table 15.8). -/
def codeProd (c : BitVec 6) : List (Nat × Nat) := if 0x10 ≤ c.toNat then [(2, c.toNat - 0x10)] else []

/-- MVI: the immediate, sign-extended, or the extension (Table 15.3). -/
def execMvi (t : EngId) (x : Bool) (dst : BitVec 6) (imm : BitVec 16) (ext : Word) (s : State) : Host.Outcome State Fault Refusal :=
  torStep s t (xWords x) (Tor.writable dst && immLegal x imm) [] (codeProd dst) fun e =>
    e.writeCode dst (BitVec.ofInt 32 (immVal x imm ext))

/-- MOV (Tables 15.2 and 15.3). -/
def execMov (t : EngId) (x : Bool) (dst src : BitVec 6) (s : State) : Host.Outcome State Fault Refusal :=
  torStep s t 1 (!x && Tor.writable dst && decide (src.toNat ≤ 0x30)) (if src.toNat < 16 then [Tor.needD src.toNat] else []) (codeProd dst)
    fun e => e.writeCode dst ((e.readCode src).getD 0)

/-- ADD. -/
def execAdd (t : EngId) (x : Bool) (d a b : BitVec 4) (ext : Word) (s : State) : Host.Outcome State Fault Refusal :=
  torAlu s t x a b ext fun e u v => (e.setD d (u + v)).flagsAdd u v

/-- SUB. -/
def execSub (t : EngId) (x : Bool) (d a b : BitVec 4) (ext : Word) (s : State) : Host.Outcome State Fault Refusal :=
  torAlu s t x a b ext fun e u v => (e.setD d (u - v)).flagsSub u v

/-- AND. -/
def execAnd (t : EngId) (x : Bool) (d a b : BitVec 4) (ext : Word) (s : State) : Host.Outcome State Fault Refusal :=
  torAlu s t x a b ext fun e u v => (e.setD d (u &&& v)).flagsZN (u &&& v)

/-- OR. -/
def execOr (t : EngId) (x : Bool) (d a b : BitVec 4) (ext : Word) (s : State) : Host.Outcome State Fault Refusal :=
  torAlu s t x a b ext fun e u v => (e.setD d (u ||| v)).flagsZN (u ||| v)

/-- XOR. -/
def execXor (t : EngId) (x : Bool) (d a b : BitVec 4) (ext : Word) (s : State) : Host.Outcome State Fault Refusal :=
  torAlu s t x a b ext fun e u v => (e.setD d (u ^^^ v)).flagsZN (u ^^^ v)

/-- SHL: C is the last bit out at the top. -/
def execShl (t : EngId) (x : Bool) (d a b : BitVec 4) (ext : Word) (s : State) : Host.Outcome State Fault Refusal :=
  torShift s t x d a b ext (fun u k => u <<< k) fun u k => u.getLsbD (32 - k)

/-- SAR: C is the last bit out at the bottom. -/
def execSar (t : EngId) (x : Bool) (d a b : BitVec 4) (ext : Word) (s : State) : Host.Outcome State Fault Refusal :=
  torShift s t x d a b ext (fun u k => u.sshiftRight k) fun u k => u.getLsbD (k - 1)

/-- SHR: C is the last bit out at the bottom. -/
def execShr (t : EngId) (x : Bool) (d a b : BitVec 4) (ext : Word) (s : State) : Host.Outcome State Fault Refusal :=
  torShift s t x d a b ext (fun u k => u >>> k) fun u k => u.getLsbD (k - 1)

/-- ADD2: each half summed and saturated. -/
def execAdd2 (t : EngId) (x : Bool) (d a b : BitVec 4) (ext : Word) (s : State) : Host.Outcome State Fault Refusal :=
  torAlu s t x a b ext fun e u v => (e.pair false u v).2.setD d (e.pair false u v).1

/-- SUB2: each half subtracted and saturated. -/
def execSub2 (t : EngId) (x : Bool) (d a b : BitVec 4) (ext : Word) (s : State) : Host.Outcome State Fault Refusal :=
  torAlu s t x a b ext fun e u v => (e.pair true u v).2.setD d (e.pair true u v).1

/-- CMP: the flags of a subtraction, nothing written. -/
def execCmp (t : EngId) (x : Bool) (_d a b : BitVec 4) (ext : Word) (s : State) : Host.Outcome State Fault Refusal :=
  torAlu s t x a b ext fun e u v => e.flagsSub u v

/-- MODP: a post-modify without an access (R336). -/
def execModp (t : EngId) (x : Bool) (p : BitVec 3) (byImm : Bool) (imm : BitVec 16) (ext : Word) (s : State) :
    Host.Outcome State Fault Refusal :=
  torStep s t (xWords x) (immLegal x imm) (if byImm then Tor.needMod p else Tor.needStep p) [] fun e =>
    e.postMod p (if byImm then immVal x imm ext else e.mStep p)

end Sys2Proof.Machine
end

