-- ==== Sys2Proof/Machine/TorFlow.lean ====
section
/-! DEFINITION. Tor instructions of program flow, events and jobs (Table 15.3, R342 to R350). -/
namespace Sys2Proof.Machine

/-- HALT (Table 15.3, R348). -/
def execHalt (t : EngId) (x : Bool) (z : BitVec 17) (code : Byte) (s : State) : Host.Outcome State Fault Refusal :=
  torRun s t 1 (!x && z == 0) fun h m => (h.torHalt t 2 code.toNat, m)

/-- NOP (Table 15.3). -/
def execNop (t : EngId) (x : Bool) (z : BitVec 25) (s : State) : Host.Outcome State Fault Refusal :=
  torStep s t 1 (!x && z == 0) [] [] id

/-- LOOP (R342): a COUNT of 0 without X takes the count from D15; a count of 0 skips the body. -/
def execLoop (t : EngId) (x : Bool) (body : BitVec 9) (count : BitVec 16) (ext : Word) (s : State) : Host.Outcome State Fault Refusal :=
  torRun s t (xWords x) (body != 0 && immLegal x count) fun h m =>
    let e := h.eng t
    let n := if x then ext.toNat else if count = 0 then (getN e.d 15 0).toNat % 65536 else count.toNat
    let start := e.pc + 4 * xWords x
    let stop := start + 4 * body.toNat
    if n = 0 then (h.onTor t fun e => (e.issue [] [] 1).goSeq stop, m)
    else if 4 ≤ e.loops.length then (h.torHalt t 6, m)
    else
      (h.onTor t fun e =>
        { e.issue [] [] 1 with loops := { start := start, stop := stop, left := n } :: e.loops, pc := start, justSet := false }, m)

/-- BR (Tables 15.3 and 15.5): a taken branch leaves the loops that do not hold its target (R342). -/
def execBr (t : EngId) (x : Bool) (cond : BitVec 4) (off : BitVec 21) (ext : Word) (s : State) : Host.Outcome State Fault Refusal :=
  torRun s t (xWords x) (immLegal x off && decide (cond.toNat < 10)) fun h m =>
    let e := h.eng t
    let next := e.pc + 4 * xWords x
    if (e.holds cond).getD false then
      let dst := Tor.target next (immVal x off ext)
      let h := h.onTor t fun e => { e.issue [] [] 2 with pc := dst, loops := Tor.loopsKept e.loops dst, justSet := false }
      (h.traceJump t e.pc dst, m)
    else (h.onTor t fun e => (e.issue [] [] 1).goSeq next, m)

/-- CALL (Table 15.3): a ninth return address halts the engine (R342). -/
def execCall (t : EngId) (x : Bool) (off : BitVec 21) (ext : Word) (s : State) : Host.Outcome State Fault Refusal :=
  torRun s t (xWords x) (immLegal x off) fun h m =>
    let e := h.eng t
    let next := e.pc + 4 * xWords x
    let dst := Tor.target next (immVal x off ext)
    if 8 ≤ e.calls.length then (h.torHalt t 6, m)
    else
      let h := h.onTor t fun e => { e.issue [] [] 2 with pc := dst, calls := next :: e.calls, justSet := false }
      (h.traceJump t e.pc dst, m)

/-- RET (Table 15.3): an empty call stack halts the engine (R342). -/
def execRet (t : EngId) (x : Bool) (z : BitVec 25) (s : State) : Host.Outcome State Fault Refusal :=
  torRun s t 1 (!x && z == 0) fun h m =>
    let e := h.eng t
    match e.calls with
    | [] => (h.torHalt t 6, m)
    | a :: r =>
      let h := h.onTor t fun e => { e.issue [] [] 2 with calls := r }.goSeq a
      (h.traceJump t e.pc a, m)

/-- The lowest pending slot of a mask (R344). -/
def evHit (e : Tor) (mask : Byte) : Option Nat := (List.range 8).find? fun k => bit mask.toNat k && (getN e.ev k {}).pending
/-- A wait ends on slot `k`: its PENDING clears and EV_LAST names it (R344). -/
def evTake (e : Tor) (k : Nat) : Tor := { e with ev := updN e.ev k fun s => { s with pending := false }, evLast := k }

/-- WAIT (R344): continues at once on a pending slot of the mask, else stops issuing. A mask of 0 is illegal. -/
def execWait (t : EngId) (x : Bool) (mask : Byte) (s : State) : Host.Outcome State Fault Refusal :=
  torRun s t 1 (!x && mask != 0) fun h m =>
    let up := h.up
    (h.onTor t fun e => match evHit e mask with
      | some k => ((evTake e k).issue [] [] 1).goSeq (e.pc + 4)
      | none => { e.issue [] [] 1 with state := 2, waitMask := mask, justSet := false, waitFrom := up }, m)

/-- A waiting engine finds a slot of its mask set and continues (R344). The pulse itself set the slot (R343). The cycles waited count toward
the distances of R341. -/
def execWaitResume (t : EngId) (line : Byte) (s : State) : Host.Outcome State Fault Refusal :=
  ok s 0 fun h =>
    let e := h.eng t
    match evHit e e.waitMask with
    | some k =>
      if e.state = 2 && (getN e.ev k {}).line == line.toNat then
        let up := h.up
        let h := h.onTor t fun e => { evTake e k with state := 1, cyc := e.cyc + (up - e.waitFrom) }.goSeq (e.pc + 4)
        h.whenB (h.traceFlow t) fun h =>
          h.trace { type := 0x04, source := t, info := k, cc := low32 h.tim.c, lo := line.toNat, hi := 0 }
      else h
    | none => h

/-- SIGNAL (R345): a global store is in memory as it is issued, so the line pulses at once (log 19). -/
def execSignal (t : EngId) (x : Bool) (z : BitVec 25) (s : State) : Host.Outcome State Fault Refusal :=
  torRun s t 1 (!x && z == 0) fun h m =>
    ((h.onTor t fun e => (e.issue [] [] 1).goSeq (e.pc + 4)).pulse (144 + t.val), m)

/-- The active job of engine t ends: an extension block that it was has been evaluated (R176). -/
def Hw.jobDone (h : Hw) (t : EngId) : Hw := match (h.eng t).job with
  | some j => h.quantumEnds t j true
  | none => h

/-- DONE (R350): the active job ends; with none it has no effect. -/
def execDone (t : EngId) (x : Bool) (z : BitVec 25) (s : State) : Host.Outcome State Fault Refusal :=
  torRun s t 1 (!x && z == 0) fun h m =>
    let h := h.jobDone t
    (h.onTor t fun e => ({ e.issue [] [] 1 with job := none } : Tor).goSeq (e.pc + 4), m)

/-- JPOP (R347): the next descriptor goes to Dd and Dd+1 and its job becomes active; an empty queue gives zeros and Z. -/
def execJpop (t : EngId) (x : Bool) (d : BitVec 4) (s : State) : Host.Outcome State Fault Refusal :=
  torRun s t 1 (!x && d.toNat % 2 == 0) fun h m =>
    match (h.eng t).jobs with
    | [] => ((h.jobDone t).onTor t fun e =>
        ({ ((e.issue [] [] 1).setD d 0).setD (d + 1) 0 with z := true, job := none }).goSeq (e.pc + 4), m)
    | j :: r =>
      let h := (h.jobDone t).onTor t fun e =>
        ({ ((e.issue [] [] 1).setD d j.w0).setD (d + 1) (BitVec.ofNat 32 j.tick) with
          z := false, jobs := r, job := some j, abandoned := false, quanta := inc e.quanta }).goSeq (e.pc + 4)
      (h.whenB (h.traceFlow t) fun h =>
        h.trace { type := 0x03, source := t, info := 0, cc := low32 h.tim.c, lo := j.w0.toNat, hi := low32 j.tick }, m)

/-- SETS (R340): the new SCALE reaches moves from the second instruction after it on. -/
def execSets (t : EngId) (x : Bool) (scale : BitVec 2) (s : State) : Host.Outcome State Fault Refusal :=
  torRun s t 1 (!x) fun h m =>
    (h.onTor t fun e => { (e.issue [] [] 1).goSeq (e.pc + 4) with prevScale := e.scale, scale := scale, justSet := true }, m)

/-- CLRF (Table 15.3): bit 0 GX, bit 1 SAT, bit 2 UE. -/
def execClrf (t : EngId) (x : Bool) (mask : BitVec 3) (s : State) : Host.Outcome State Fault Refusal :=
  torStep s t 1 (!x) [] [] fun e =>
    { e with gx := e.gx && !bit mask.toNat 0, sat := e.sat && !bit mask.toNat 1, ue := e.ue && !bit mask.toNat 2 }

end Sys2Proof.Machine
end

