-- ==== Sys2Proof/Machine/TorMac.lean ====
section
/-! DEFINITION. Tor multiplies (Tables 15.3 and 15.4, R338, R340). -/
namespace Sys2Proof.Machine

/-- Sum of two complex values. -/
def addIQ (x y : IQ) : IQ := ⟨x.i + y.i, x.q + y.q⟩

/-- CMAC: Aa + Dx × Dy. -/
def execCmac (t : EngId) (x : Bool) (a : BitVec 2) (dx dy : BitVec 4) (s : State) : Host.Outcome State Fault Refusal :=
  torMac s t (!x) a dx dy fun acc u v => addIQ acc (Tor.mulIQ u v)

/-- CMACJ: Aa + Dx × conj(Dy). -/
def execCmacj (t : EngId) (x : Bool) (a : BitVec 2) (dx dy : BitVec 4) (s : State) : Host.Outcome State Fault Refusal :=
  torMac s t (!x) a dx dy fun acc u v => addIQ acc (Tor.mulIQ u (Tor.conj v))

/-- CMSU: Aa - Dx × Dy. -/
def execCmsu (t : EngId) (x : Bool) (a : BitVec 2) (dx dy : BitVec 4) (s : State) : Host.Outcome State Fault Refusal :=
  torMac s t (!x) a dx dy fun acc u v => ⟨acc.i - (Tor.mulIQ u v).i, acc.q - (Tor.mulIQ u v).q⟩

/-- CMUL: Dx × Dy. -/
def execCmul (t : EngId) (x : Bool) (a : BitVec 2) (dx dy : BitVec 4) (s : State) : Host.Outcome State Fault Refusal :=
  torMac s t (!x) a dx dy fun _ u v => Tor.mulIQ u v

/-- RMAC: the real part takes the product of the low halves; the imaginary part stays. -/
def execRmac (t : EngId) (x : Bool) (a : BitVec 2) (dx dy : BitVec 4) (s : State) : Host.Outcome State Fault Refusal :=
  torMac s t (!x) a dx dy fun acc u v => ⟨acc.i + u.i * v.i, acc.q⟩

/-- CLR: Aa := 0; Dx and Dy shall be zero. -/
def execClr (t : EngId) (x : Bool) (a : BitVec 2) (dx dy : BitVec 4) (s : State) : Host.Outcome State Fault Refusal :=
  torMac s t (!x && dx == 0 && dy == 0) a dx dy fun _ _ _ => ⟨0, 0⟩

/-- One of the four products of QMAC into Ai. -/
def qmacOne (e : Tor) (g : BitVec 2) (dy : BitVec 4) (conj replace : Bool) (r : Tor) (i : Nat) : Tor :=
  let v := Tor.iq (e.dReg dy)
  let v := if conj then Tor.conj v else v
  let u := Tor.iq (getN e.d (4 * g.toNat + i) 0)
  let a := BitVec.ofNat 2 i
  let acc := if replace then ⟨0, 0⟩ else Tor.accIQ (e.aReg a)
  r.putA a (addIQ acc (Tor.mulIQ u v))

/-- QMAC: for i = 0 to 3, Ai := (REPLACE ? 0 : Ai) + D(4g+i) × Dy'. -/
def execQmac (t : EngId) (x : Bool) (z : BitVec 2) (g : BitVec 2) (dy : BitVec 4) (conj replace : Bool) (s : State) :
    Host.Outcome State Fault Refusal :=
  torStep s t 1 (!x && z == 0) ((List.range 4).map fun i => Tor.needD (4 * g.toNat + i)) ((List.range 4).map fun i => (3, i))
    fun e => (List.range 4).foldl (qmacOne e g dy conj replace) e

/-- The multiply of FTAP and FTAPZ. -/
def tapMul (e : Tor) (a : BitVec 2) (dx dy : BitVec 4) (conj keep : Bool) : Tor :=
  let v := Tor.iq (e.dReg dy)
  let v := if conj then Tor.conj v else v
  e.putA a (addIQ (if keep then Tor.accIQ (e.aReg a) else ⟨0, 0⟩) (Tor.mulIQ (Tor.iq (e.dReg dx)) v))

/-- FTAP (R338): a multiply-accumulate and two loads that take effect for the next instruction. -/
def execFtap (t : EngId) (x : Bool) (a : BitVec 2) (dx dy : BitVec 4) (conj : Bool) (d1 : BitVec 4) (p1 : BitVec 3) (d2 : BitVec 4)
    (p2 : BitVec 3) (s : State) : Host.Outcome State Fault Refusal :=
  torTap s t (!x) d1 p1 d2 p2 [(3, a.toNat)] fun e => tapMul e a dx dy conj true

/-- FTAPZ: as FTAP with Aa := product. -/
def execFtapz (t : EngId) (x : Bool) (a : BitVec 2) (dx dy : BitVec 4) (conj : Bool) (d1 : BitVec 4) (p1 : BitVec 3) (d2 : BitVec 4)
    (p2 : BitVec 3) (s : State) : Host.Outcome State Fault Refusal :=
  torTap s t (!x) d1 p1 d2 p2 [(3, a.toNat)] fun e => tapMul e a dx dy conj false

/-- DLD: the two loads of FTAP. -/
def execDld (t : EngId) (x : Bool) (z : BitVec 11) (d1 : BitVec 4) (p1 : BitVec 3) (d2 : BitVec 4) (p2 : BitVec 3) (s : State) :
    Host.Outcome State Fault Refusal :=
  torTap s t (!x && z == 0) d1 p1 d2 p2 [] id

end Sys2Proof.Machine
end

