-- ==== Sys2Proof/Machine/TorMem.lean ====
section
/-! DEFINITION. Tor loads, stores and accumulator moves (R335 to R339). -/
namespace Sys2Proof.Machine

/-- LD (R335): from own data at once, from elsewhere when the data return (R337). -/
def execLd (t : EngId) (x : Bool) (d : BitVec 4) (p : BitVec 3) (mode : BitVec 2) (size half : Bool) (imm : BitVec 14) (ext : Word)
    (s : State) : Host.Outcome State Fault Refusal :=
  torRun s t (xWords x) (immLegal x imm && mode != 3) fun h m =>
    let e := h.eng t
    match e.addrOf p mode (immVal x imm ext) with
    | none => (h.torHalt t 3, m)
    | some (a, e') =>
      match loadCause m t a (Tor.sizeBytes size) with
      | some c => ((h.whenB (c == 7) fun h => h.noteRead m (Tor.globalOf t a) (Tor.sizeBytes size)).torHalt t c, m)
      | none =>
        let h := h.onTor t fun e => ({ e with p := e'.p }.issue (Tor.needP p mode) [] 1).goSeq (e.pc + 4 * xWords x)
        (torLoad h m t d a size half, m)

/-- The data of the oldest global load return (R337, R349). -/
def execGlobalLoadReturn (t : EngId) (s : State) : Host.Outcome State Fault Refusal :=
  ok s 0 fun h => loadReturn h s.mem t

/-- The store part of ST and STA: the address formed, its checks, the engine's other effects `f`, then the store. -/
def torStoreStep (s : State) (t : EngId) (x : Bool) (legal : Bool) (p : BitVec 3) (mode : BitVec 2) (imm : BitVec 14) (ext : Word)
    (w : Nat) (ns : List Tor.Need) (val : Tor → Nat) (f : Tor → Tor) : Host.Outcome State Fault Refusal :=
  torRun s t (xWords x) (legal && immLegal x imm && mode != 3) fun h m =>
    let e := h.eng t
    match e.addrOf p mode (immVal x imm ext) with
    | none => (h.torHalt t 3, m)
    | some (a, e') =>
      match Tor.accessCause t a w true with
      | some c => (h.torHalt t c, m)
      | none =>
        let v := val e
        let h := h.onTor t fun e => ({ f e with p := e'.p }.issue (Tor.needP p mode ++ ns) [] 1).goSeq (e.pc + 4 * xWords x)
        storeAt h m t a w v

/-- ST (R335): a word, or the half of Dd that HALF selects. -/
def execSt (t : EngId) (x : Bool) (d : BitVec 4) (p : BitVec 3) (mode : BitVec 2) (size half : Bool) (imm : BitVec 14) (ext : Word)
    (s : State) : Host.Outcome State Fault Refusal :=
  torStoreStep s t x true p mode imm ext (Tor.sizeBytes size) [Tor.needD d.toNat]
    (fun e => if size then (if half then (e.dReg d).toNat / 65536 else (e.dReg d).toNat % 65536) else (e.dReg d).toNat) id

/-- STA (R335, R339): an accumulator moved out to memory; bits [16:14] are zero. -/
def execSta (t : EngId) (x : Bool) (a : BitVec 2) (form : Bool) (p : BitVec 3) (mode : BitVec 2) (z : BitVec 3) (imm : BitVec 14)
    (ext : Word) (s : State) : Host.Outcome State Fault Refusal :=
  torStoreStep s t x (z == 0) p mode imm ext 4 [Tor.needA a] (fun e => (e.moveOut a form).1.toNat)
    fun e => { e with sat := e.sat || (e.moveOut a form).2 }

/-- MVA (R339). -/
def execMva (t : EngId) (x : Bool) (a : BitVec 2) (d : BitVec 4) (form : Bool) (s : State) : Host.Outcome State Fault Refusal :=
  torStep s t 1 (!x) [Tor.needA a] [] fun e => { e.setD d (e.moveOut a form).1 with sat := e.sat || (e.moveOut a form).2 }

/-- LDA: both parts of Dx times 2^15. -/
def execLda (t : EngId) (x : Bool) (a : BitVec 2) (d : BitVec 4) (s : State) : Host.Outcome State Fault Refusal :=
  torStep s t 1 (!x) [] [] fun e =>
    let v := Tor.iq (e.dReg d)
    e.setA a { re := BitVec.ofInt 40 (v.i * 32768), im := BitVec.ofInt 40 (v.q * 32768) }

end Sys2Proof.Machine
end

