-- ==== Sys2Proof/Machine/Writes.lean ====
section
/-! DEFINITION. Writes of ENG fields as commands of their own (R349): what a Tor store to the register does. -/
namespace Sys2Proof.Machine

/-- TIM_CMP_TARGET[n] and ARM written: the comparator waits, or fires at once as LATE (R259). -/
def execTimCmpArm (dt : Nat) (n : PathId) (target : Word) (s : State) : Host.Outcome State Fault Refusal :=
  ok s dt fun h => h.whenB h.engOn fun h => (h.onPath n fun p => { p with cmp := { p.cmp with target := target } }).cmpArm n

/-- An armed comparator whose target TIM_CC has reached fires (R259). -/
def execComparatorFire (dt : Nat) (n : PathId) (s : State) : Host.Outcome State Fault Refusal :=
  ok s dt fun h => h.whenB ((h.path n).cmp.armed && Hw.cmpDue h.tim.c (h.path n).cmp.armedFor) fun h => h.cmpFire n

/-- TXP_TONE_CFG and TXP_TONE_FTW written: PENDING until the next tick (R115). -/
def execToneWrite (dt : Nat) (n : PathId) (cfg : Option Word) (ftw : Option (BitVec 48)) (s : State) :
    Host.Outcome State Fault Refusal :=
  ok s dt fun h => h.whenB h.engOn fun h =>
    let h := match cfg with
      | some w => h.toneCfg n (2 ^ 32 - 1) w.toNat
      | none => h
    match ftw with
    | some f => h.toneFtw n (2 ^ 48 - 1) f.toNat
    | none => h

/-- SWITCH written: a bank switch is requested for the next tick (R147). -/
def execDpdSwitchRequest (dt : Nat) (t : EngId) (n : PathId) (s : State) : Host.Outcome State Fault Refusal :=
  ok s dt fun h => h.whenB (h.engRuns t) fun h => h.dpdRequest (h.dpdBy t) n

/-- LOAD_INIT written: a reload of DPD_INIT is requested for the next tick (R151). -/
def execDpdLoadInit (dt : Nat) (t : EngId) (n : PathId) (s : State) : Host.Outcome State Fault Refusal :=
  ok s dt fun h => h.whenB (h.engRuns t) fun h => h.dpdAskInit n

/-- ROUND_DONE written: the scheduler moves on (R153). -/
def execRoundDone (dt : Nat) (q : QuadId) (s : State) : Host.Outcome State Fault Refusal :=
  ok s dt fun h => h.whenB h.engOn fun h => h.obsRoundDone q

/-- A whole entry of the shadow window written, or dropped and counted (R146, R148). -/
def execDpdShadowWrite (dt : Nat) (t : EngId) (n : PathId) (table : Fin 24) (entry : Fin 256) (value : Word) (s : State) :
    Host.Outcome State Fault Refusal :=
  ok s dt fun h => h.whenB (h.engRuns t) fun h => h.dpdStore (h.dpdBy t) n (table.val * 256 + entry.val) 0xFFFFFFFF value.toNat

/-- A write to the active window is dropped and counted (R146). -/
def execDpdActiveWrite (dt : Nat) (n : PathId) (_ : Fin 24) (_ : Fin 256) (_ : Word) (s : State) :
    Host.Outcome State Fault Refusal :=
  ok s dt fun h => h.whenB h.engOn fun h => h.dpdActiveStore n

/-- The copy of the active bank into the shadow has ended (R148). -/
def execDpdBankCopyDone (dt : Nat) (n : PathId) (s : State) : Host.Outcome State Fault Refusal :=
  ok s dt fun h => h.onPath n fun p => { p with dpd := { p.dpd with shadowReady := true } }

/-- TRL_CLASS_LIMIT[c] written: the limit of a class from the next tick (R225). -/
def execTrlClassLimitWrite (dt : Nat) (c : Fin 5) (limit : Byte) (s : State) : Host.Outcome State Fault Refusal :=
  ok s dt fun h => h.whenB h.engOn fun h => h.classWrite c 0xFF limit.toNat

/-- TOR_ROUTE_CRN or TOR_ROUTE_DPD written: work goes to another engine from the next tick (R346). -/
def execTorRouteWrite (dt : Nat) (crn : Bool) (i : Fin 16) (engine : EngId) (s : State) : Host.Outcome State Fault Refusal :=
  ok s dt fun h => h.whenB h.engOn fun h => if crn then h.routeCrn i 0xF engine.val else h.routeDpd i 0xF engine.val

/-- TOR_STAT_OFFER[t] written: statistics quanta offered from the next tick (R346). -/
def execTorStatOfferWrite (dt : Nat) (t : EngId) (count : Byte) (s : State) : Host.Outcome State Fault Refusal :=
  ok s dt fun h => h.whenB h.engOn fun h => h.offerWrite t 0xFF count.toNat

/-- TOR_EVSEL[t][k] written: the slot names a line and its PENDING clears (R343). -/
def execTorEvselWrite (dt : Nat) (t : EngId) (k : Fin 8) (line : Byte) (enable : Bool) (s : State) :
    Host.Outcome State Fault Refusal :=
  ok s dt fun h => h.whenB h.engOn fun h => h.evselWrite t k 0x1FF (line.toNat + 256 * b2n enable)

/-- A Tor store of a word to an observation register changes only its ENG fields (R349). An address outside the region, or one
that is no multiple of 4, is no store to an observation register. -/
def execEngRegisterWrite (dt : Nat) (t : EngId) (address value : Word) (s : State) : Host.Outcome State Fault Refusal :=
  ok s dt fun h => h.whenB (h.engRuns t && address.toNat % 4 == 0) fun h =>
    match region address.toNat with
    | .observation o => h.engStore t o 0xFFFFFFFF value.toNat
    | _ => h

/-- START written: an injected conversion is requested, or the request is refused (R327). -/
def execHkaInjectStart (dt : Nat) (q : QuadId) (channel : Nat) (s : State) : Host.Outcome State Fault Refusal :=
  ok s dt fun h => h.whenB h.engOn fun h => (h.onQuad q fun x => { x with injCtl := channel % 16 }).injectAsk q (channel % 16) false

end Sys2Proof.Machine
end

