-- ==== Sys2Proof/Machine/Dispatch.lean ====
section
/-! DEFINITION. Dispatch: the meaning of each command, one direct call per constructor. -/
namespace Sys2Proof.Machine

def exec (i : Instr) (s : State) : Host.Outcome State Fault Refusal :=
  match i with
  | .poresetNLow dt => Sys2Proof.Machine.execPoresetNLow dt s
  | .poresetNHigh dt railsOk refclk => Sys2Proof.Machine.execPoresetNHigh dt railsOk refclk s
  | .supplySupervisorTrip dt => Sys2Proof.Machine.execSupplySupervisorTrip dt s
  | .supplyBackInRange dt refclk => Sys2Proof.Machine.execSupplyBackInRange dt refclk s
  | .s1Exit dt romFail refKHz sfdp => Sys2Proof.Machine.execS1Exit dt romFail refKHz sfdp s
  | .refclkRemeasure dt refKHz sfdp => Sys2Proof.Machine.execRefclkRemeasure dt refKHz sfdp s
  | .imageReadDone dt nvm burn => Sys2Proof.Machine.execImageReadDone dt nvm burn s
  | .imgReadRetry dt nvm burn => Sys2Proof.Machine.execImgReadRetry dt nvm burn s
  | .pllLock dt => Sys2Proof.Machine.execPllLock dt s
  | .pllLockTimeout dt failed => Sys2Proof.Machine.execPllLockTimeout dt failed s
  | .calRecordRead dt record => Sys2Proof.Machine.execCalRecordRead dt record s
  | .femDiscoveryDone dt q fems => Sys2Proof.Machine.execFemDiscoveryDone dt q fems s
  | .laneNoLinkTimeout dt => Sys2Proof.Machine.execLaneNoLinkTimeout dt s
  | .ptpNoMasterTimeout dt => Sys2Proof.Machine.execPtpNoMasterTimeout dt s
  | .timeStep => Sys2Proof.Machine.execTimeStep s
  | .slotEntryAnnounce dt => Sys2Proof.Machine.execSlotEntryAnnounce dt s
  | .dpdNoConverge dt => Sys2Proof.Machine.execDpdNoConverge dt s
  | .tick w => Sys2Proof.Machine.execTick w s
  | .quantumAbandon t => Sys2Proof.Machine.execQuantumAbandon t s
  | .dpdStale n => Sys2Proof.Machine.execDpdStale n s
  | .trlQuadStale q => Sys2Proof.Machine.execTrlQuadStale q s
  | .calCollectLimit tx => Sys2Proof.Machine.execCalCollectLimit tx s
  | .frameRx dt p f => Sys2Proof.Machine.execFrameRx dt p f s
  | .dlSection dt h idx r => Sys2Proof.Machine.execDlSection dt h idx r s
  | .spurSectionHeaders dt h r rest => Sys2Proof.Machine.execSpurSectionHeaders dt h r rest s
  | .spurFcsBad dt flow seq target => Sys2Proof.Machine.execSpurFcsBad dt flow seq target s
  | .spurTrunc dt flow seq target received => Sys2Proof.Machine.execSpurTrunc dt flow seq target received s
  | .ulSectionRequest dt h idx r => Sys2Proof.Machine.execUlSectionRequest dt h idx r s
  | .ulSectionSend dt flow target start => Sys2Proof.Machine.execUlSectionSend dt flow target start s
  | .weightLoad dt h idx r => Sys2Proof.Machine.execWeightLoad dt h idx r s
  | .searchOccasion dt h idx r => Sys2Proof.Machine.execSearchOccasion dt h idx r s
  | .cairnGroupEnd dt occ ue => Sys2Proof.Machine.execCairnGroupEnd dt occ ue s
  | .cairnReportSend dt occ ue => Sys2Proof.Machine.execCairnReportSend dt occ ue s
  | .modeSelect dt h idx slot => Sys2Proof.Machine.execModeSelect dt h idx slot s
  | .calibrate dt h idx target policy runTag => Sys2Proof.Machine.execCalibrate dt h idx target policy runTag s
  | .calAbort dt h idx runTag => Sys2Proof.Machine.execCalAbort dt h idx runTag s
  | .captureArm dt h idx setup => Sys2Proof.Machine.execCaptureArm dt h idx setup s
  | .captureDisarm dt h idx setup => Sys2Proof.Machine.execCaptureDisarm dt h idx setup s
  | .pathRetire dt h idx path => Sys2Proof.Machine.execPathRetire dt h idx path s
  | .pathRestore dt h idx path => Sys2Proof.Machine.execPathRestore dt h idx path s
  | .budgetShare dt h idx share => Sys2Proof.Machine.execBudgetShare dt h idx share s
  | .rmaRead dt r => Sys2Proof.Machine.execRmaRead dt r s
  | .rmaWrite dt r => Sys2Proof.Machine.execRmaWrite dt r s
  | .owdRequest dt p l src id action => Sys2Proof.Machine.execOwdRequest dt p l src id action s
  | .owdFollowUp dt p id => Sys2Proof.Machine.execOwdFollowUp dt p id s
  | .owdRemoteRequest dt p id => Sys2Proof.Machine.execOwdRemoteRequest dt p id s
  | .remoteReset dt p dst src vlan id op => Sys2Proof.Machine.execRemoteReset dt p dst src vlan id op s
  | .eventIndicationRx dt p => Sys2Proof.Machine.execEventIndicationRx dt p s
  | .unsupportedMessageType dt h => Sys2Proof.Machine.execUnsupportedMessageType dt h s
  | .ptpAnnounce dt m a => Sys2Proof.Machine.execPtpAnnounce dt m a s
  | .ptpSync dt m twoStep t1 interval => Sys2Proof.Machine.execPtpSync dt m twoStep t1 interval s
  | .ptpFollowUp dt m t1 => Sys2Proof.Machine.execPtpFollowUp dt m t1 s
  | .ptpDelayResp dt m t4 requester interval => Sys2Proof.Machine.execPtpDelayResp dt m t4 requester interval s
  | .ptpDelayReqRx dt m => Sys2Proof.Machine.execPtpDelayReqRx dt m s
  | .delayReqSend dt => Sys2Proof.Machine.execDelayReqSend dt s
  | .masterLoss dt => Sys2Proof.Machine.execMasterLoss dt s
  | .laneSignalDetect dt l => Sys2Proof.Machine.execLaneSignalDetect dt l s
  | .laneCdrLock dt l => Sys2Proof.Machine.execLaneCdrLock dt l s
  | .laneCoarseDone dt l m => Sys2Proof.Machine.execLaneCoarseDone dt l m s
  | .laneMarkerFound dt l number skew => Sys2Proof.Machine.execLaneMarkerFound dt l number skew s
  | .lanePolarityTimeout dt l => Sys2Proof.Machine.execLanePolarityTimeout dt l s
  | .laneLinkUp dt p => Sys2Proof.Machine.execLaneLinkUp dt p s
  | .laneLinkDown dt p cause lost => Sys2Proof.Machine.execLaneLinkDown dt p cause lost s
  | .linkDownRestart dt p => Sys2Proof.Machine.execLinkDownRestart dt p s
  | .laneEyeInterval dt l m => Sys2Proof.Machine.execLaneEyeInterval dt l m s
  | .laneFreezeEnd dt l => Sys2Proof.Machine.execLaneFreezeEnd dt l s
  | .fecUncorrectable dt p => Sys2Proof.Machine.execFecUncorrectable dt p s
  | .fecIntervalEnd dt p corrected symbols => Sys2Proof.Machine.execFecIntervalEnd dt p corrected symbols s
  | .fecDegradedCease dt p => Sys2Proof.Machine.execFecDegradedCease dt p s
  | .remoteFaultRx dt p on => Sys2Proof.Machine.execRemoteFaultRx dt p on s
  | .idleDelete dt p fill => Sys2Proof.Machine.execIdleDelete dt p fill s
  | .idleInsert dt p fill => Sys2Proof.Machine.execIdleInsert dt p fill s
  | .elasticError dt p full => Sys2Proof.Machine.execElasticError dt p full s
  | .thermalTrip dt sensor temp => Sys2Proof.Machine.execThermalTrip dt sensor temp s
  | .alarmNHoldEnd dt => Sys2Proof.Machine.execAlarmNHoldEnd dt s
  | .timCmpArm dt n target => Sys2Proof.Machine.execTimCmpArm dt n target s
  | .comparatorFire dt n => Sys2Proof.Machine.execComparatorFire dt n s
  | .toutRise dt k => Sys2Proof.Machine.execToutRise dt k s
  | .toutFall dt k => Sys2Proof.Machine.execToutFall dt k s
  | .tcapEdge dt k part => Sys2Proof.Machine.execTcapEdge dt k part s
  | .femBusTransactionDone dt q ok high => Sys2Proof.Machine.execFemBusTransactionDone dt q ok high s
  | .femBusStuck dt q => Sys2Proof.Machine.execFemBusStuck dt q s
  | .femStatusPollDone dt n alarm => Sys2Proof.Machine.execFemStatusPollDone dt n alarm s
  | .femIdentityReadDone dt n fem alarm => Sys2Proof.Machine.execFemIdentityReadDone dt n fem alarm s
  | .couplerSelectDone dt q ok => Sys2Proof.Machine.execCouplerSelectDone dt q ok s
  | .couplerSettleDone dt q => Sys2Proof.Machine.execCouplerSettleDone dt q s
  | .femLifeWriteTime dt n => Sys2Proof.Machine.execFemLifeWriteTime dt n s
  | .femLifeWriteDone dt n r => Sys2Proof.Machine.execFemLifeWriteDone dt n r s
  | .hkReading dt q codes => Sys2Proof.Machine.execHkReading dt q codes s
  | .hkaInjectStart dt q channel => Sys2Proof.Machine.execHkaInjectStart dt q channel s
  | .hkInjectDone dt q code => Sys2Proof.Machine.execHkInjectDone dt q code s
  | .biasBreakEnd dt n => Sys2Proof.Machine.execBiasBreakEnd dt n s
  | .obsRecordWritten dt q adc => Sys2Proof.Machine.execObsRecordWritten dt q adc s
  | .dpdBankCopyDone dt n => Sys2Proof.Machine.execDpdBankCopyDone dt n s
  | .dpdSwitchRequest dt t n => Sys2Proof.Machine.execDpdSwitchRequest dt t n s
  | .dpdLoadInit dt t n => Sys2Proof.Machine.execDpdLoadInit dt t n s
  | .roundDone dt q => Sys2Proof.Machine.execRoundDone dt q s
  | .dpdShadowWrite dt t n table entry value => Sys2Proof.Machine.execDpdShadowWrite dt t n table entry value s
  | .dpdActiveWrite dt n table entry value => Sys2Proof.Machine.execDpdActiveWrite dt n table entry value s
  | .toneWrite dt n cfg ftw => Sys2Proof.Machine.execToneWrite dt n cfg ftw s
  | .trlClassLimitWrite dt c limit => Sys2Proof.Machine.execTrlClassLimitWrite dt c limit s
  | .torRouteWrite dt crn k engine => Sys2Proof.Machine.execTorRouteWrite dt crn k engine s
  | .torStatOfferWrite dt t count => Sys2Proof.Machine.execTorStatOfferWrite dt t count s
  | .torEvselWrite dt t k line enable => Sys2Proof.Machine.execTorEvselWrite dt t k line enable s
  | .engRegisterWrite dt t address value => Sys2Proof.Machine.execEngRegisterWrite dt t address value s
  | .calCollectQuantumDone dt m => Sys2Proof.Machine.execCalCollectQuantumDone dt m s
  | .calSolveDone dt => Sys2Proof.Machine.execCalSolveDone dt s
  | .nvmOpDone dt readback => Sys2Proof.Machine.execNvmOpDone dt readback s
  | .nvmWriteFail dt => Sys2Proof.Machine.execNvmWriteFail dt s
  | .captureTrigger dt u => Sys2Proof.Machine.execCaptureTrigger dt u s
  | .firePullEnd dt => Sys2Proof.Machine.execFirePullEnd dt s
  | .fireIoFall dt => Sys2Proof.Machine.execFireIoFall dt s
  | .armIoChange dt level => Sys2Proof.Machine.execArmIoChange dt level s
  | .captureRecordEnd dt setup areas => Sys2Proof.Machine.execCaptureRecordEnd dt setup areas s
  | .captureAreaOpen dt setup => Sys2Proof.Machine.execCaptureAreaOpen dt setup s
  | .dmaCommit dt ch => Sys2Proof.Machine.execDmaCommit dt ch s
  | .dmaRecover dt ch => Sys2Proof.Machine.execDmaRecover dt ch s
  | .dmaIdleHandover dt ch => Sys2Proof.Machine.execDmaIdleHandover dt ch s
  | .dmaBurst dt => Sys2Proof.Machine.execDmaBurst dt s
  | .dmaResponse dt ch => Sys2Proof.Machine.execDmaResponse dt ch s
  | .dmaWindowExpiry dt ch => Sys2Proof.Machine.execDmaWindowExpiry dt ch s
  | .halt t x z code => Sys2Proof.Machine.execHalt t x z code s
  | .nop t x z => Sys2Proof.Machine.execNop t x z s
  | .loop t x body count ext => Sys2Proof.Machine.execLoop t x body count ext s
  | .br t x cond off ext => Sys2Proof.Machine.execBr t x cond off ext s
  | .call t x off ext => Sys2Proof.Machine.execCall t x off ext s
  | .ret t x z => Sys2Proof.Machine.execRet t x z s
  | .wait t x mask => Sys2Proof.Machine.execWait t x mask s
  | .waitResume t line => Sys2Proof.Machine.execWaitResume t line s
  | .signal t x z => Sys2Proof.Machine.execSignal t x z s
  | .done t x z => Sys2Proof.Machine.execDone t x z s
  | .jpop t x d => Sys2Proof.Machine.execJpop t x d s
  | .sets t x scale => Sys2Proof.Machine.execSets t x scale s
  | .clrf t x mask => Sys2Proof.Machine.execClrf t x mask s
  | .mvi t x dst imm ext => Sys2Proof.Machine.execMvi t x dst imm ext s
  | .mov t x dst src => Sys2Proof.Machine.execMov t x dst src s
  | .add t x d a b ext => Sys2Proof.Machine.execAdd t x d a b ext s
  | .sub t x d a b ext => Sys2Proof.Machine.execSub t x d a b ext s
  | .and t x d a b ext => Sys2Proof.Machine.execAnd t x d a b ext s
  | .or t x d a b ext => Sys2Proof.Machine.execOr t x d a b ext s
  | .xor t x d a b ext => Sys2Proof.Machine.execXor t x d a b ext s
  | .shl t x d a b ext => Sys2Proof.Machine.execShl t x d a b ext s
  | .sar t x d a b ext => Sys2Proof.Machine.execSar t x d a b ext s
  | .shr t x d a b ext => Sys2Proof.Machine.execShr t x d a b ext s
  | .add2 t x d a b ext => Sys2Proof.Machine.execAdd2 t x d a b ext s
  | .sub2 t x d a b ext => Sys2Proof.Machine.execSub2 t x d a b ext s
  | .cmp t x d a b ext => Sys2Proof.Machine.execCmp t x d a b ext s
  | .modp t x p byImm imm ext => Sys2Proof.Machine.execModp t x p byImm imm ext s
  | .ld t x d p mode size half imm ext => Sys2Proof.Machine.execLd t x d p mode size half imm ext s
  | .globalLoadReturn t => Sys2Proof.Machine.execGlobalLoadReturn t s
  | .st t x d p mode size half imm ext => Sys2Proof.Machine.execSt t x d p mode size half imm ext s
  | .mva t x a d form => Sys2Proof.Machine.execMva t x a d form s
  | .sta t x a form p mode z imm ext => Sys2Proof.Machine.execSta t x a form p mode z imm ext s
  | .lda t x a d => Sys2Proof.Machine.execLda t x a d s
  | .cmac t x a dx dy => Sys2Proof.Machine.execCmac t x a dx dy s
  | .cmacj t x a dx dy => Sys2Proof.Machine.execCmacj t x a dx dy s
  | .cmsu t x a dx dy => Sys2Proof.Machine.execCmsu t x a dx dy s
  | .cmul t x a dx dy => Sys2Proof.Machine.execCmul t x a dx dy s
  | .rmac t x a dx dy => Sys2Proof.Machine.execRmac t x a dx dy s
  | .clr t x a dx dy => Sys2Proof.Machine.execClr t x a dx dy s
  | .qmac t x z g dy conj replace => Sys2Proof.Machine.execQmac t x z g dy conj replace s
  | .ftap t x a dx dy conj d1 p1 d2 p2 => Sys2Proof.Machine.execFtap t x a dx dy conj d1 p1 d2 p2 s
  | .ftapz t x a dx dy conj d1 p1 d2 p2 => Sys2Proof.Machine.execFtapz t x a dx dy conj d1 p1 d2 p2 s
  | .dld t x z d1 p1 d2 p2 => Sys2Proof.Machine.execDld t x z d1 p1 d2 p2 s
  | .lookoutRead dt address length => Sys2Proof.Machine.execLookoutRead dt address length s
  | .lookoutStatus dt length => Sys2Proof.Machine.execLookoutStatus dt length s
  | .lookoutUnknownOpcode dt opcode => Sys2Proof.Machine.execLookoutUnknownOpcode dt opcode s
  | .jtagAccess dt idcode => Sys2Proof.Machine.execJtagAccess dt idcode s
  | .laneConditionLost dt l => Sys2Proof.Machine.execLaneConditionLost dt l s
  | .sectionWeighted dt flow target start => Sys2Proof.Machine.execSectionWeighted dt flow target start s
  | .weightingDeadline dt target => Sys2Proof.Machine.execWeightingDeadline dt target s

end Sys2Proof.Machine
end

