-- ==== Sys2Proof/Safety.lean ====
section
/-! DEFINITION. What a sound state of the block is, and the terms in which the statements describe a state after a command. -/
namespace Sys2Proof.Machine

/-- Between commands HC0 has taken every happening (R400), and the pins that follow the state hold their levels: ALARM_N (R402),
ARM_IO (R384) and STAT (R71). -/
abbrev Hw.Settled (h : Hw) : Prop :=
  h.lko.pend = [] ∧ h.pins.alarm = h.alarmPin ∧ h.pins.armIo = h.armLevel ∧
    h.pins.stat = if h.sta.stage = 0 then 0 else h.sta.stage - 1

/-- A sound state: nothing is left for HC0, the pins follow the state, and the memories are in canonical form. -/
abbrev State.Sound (s : State) : Prop := s.hw.Settled ∧ s.mem.wf = true

/-- `h` with what HC0's taking of happenings changes as `t` has it: the log and the alarms, the indications waiting to leave, and
the pins that follow the state (R205, R398 to R402). An equation `t = h.told t` says that `t` is `h` but for those. -/
def Hw.told (h t : Hw) : Hw :=
  { h with
    lko := t.lko
    fhl := { h.fhl with queue := t.fhl.queue, indCount := t.fhl.indCount, refusalLost := t.fhl.refusalLost }
    pins := { h.pins with alarm := t.pins.alarm, armIo := t.pins.armIo, stat := t.pins.stat } }

/-- `t` is `h` after a pulse of an event line: every enabled slot that names the line is pending, a slot that was pending already has
lost the pulse (R343, R362), and the event trace may hold a packet of it (R405). -/
def Hw.pulsed (h t : Hw) (line : Nat) : Prop :=
  t = { h with
    tor := t.tor
    lko := { h.lko with trace := t.lko.trace, trcCount := t.lko.trcCount, trcLost := t.lko.trcLost, trcDropped := t.lko.trcDropped }
    out := { h.out with events := h.out.events ++ [line] } } ∧
  ∀ u : EngId, t.eng u = { h.eng u with ev := (t.eng u).ev, evOverrun := (t.eng u).evOverrun } ∧
    ∀ k : Fin 8, getN (t.eng u).ev k {} =
      { getN (h.eng u).ev k {} with
        pending := (getN (h.eng u).ev k {}).pending || (getN (h.eng u).ev k {}).enable && (getN (h.eng u).ev k {}).line == line }

/-- The newest entry of the event log is that of an alarm raised with this code and argument. -/
abbrev Hw.newest (h : Hw) (code : Nat) (arg : Int) : Prop :=
  h.lko.log.head?.map (fun e => (e.code, e.arg, e.cease)) = some (code, arg, false)

/-- The newest entry of the event log is that of a state alarm's end. -/
abbrev Hw.newestCease (h : Hw) (code : Nat) (arg : Int) : Prop :=
  h.lko.log.head?.map (fun e => (e.code, e.arg, e.cease)) = some (code, arg, true)

/-- Engine `t` issues an instruction of `words` words: it runs, awaits no load, and its program words are sound, the first one spelling an
instruction (R334, R348, R349). -/
abbrev State.TorReady (s : State) (t : EngId) (words : Nat) : Prop :=
  (s.hw.eng t).state = 1 ∧ (s.hw.eng t).load = [] ∧ (s.hw.eng t).pc % 4 = 0 ∧ (s.hw.eng t).pc + 4 * words ≤ 65536 ∧
    s.mem.anyUe (0x11000000 + t.val * 0x10000 + (s.hw.eng t).pc) (4 * words) = false ∧
    torKnown s.mem t (0x11000000 + t.val * 0x10000 + (s.hw.eng t).pc) = true

/-- The engine `e` with its place in the program and its count of cycles as `e'` has them (R341, R342): an equation
`e' = e.ran e'` says that `e'` is `e` but for those. -/
def Tor.ran (e e' : Tor) : Tor :=
  { e with pc := e'.pc, loops := e'.loops, justSet := false, cyc := e'.cyc, prods := e'.prods, stalls := e'.stalls, cycles := e'.cycles }

/-- From `s` to `t` nothing changes but engine `n`, the counts of correctable errors of the words it fetched (R357), and the event
pulses of the command before, which are over. -/
def State.OnlyTor (s t : State) (n : EngId) : Prop :=
  t.pending = s.pending ∧ t.mem = s.mem ∧
  t.hw = { s.hw with tor := t.hw.tor, smem := t.hw.smem, out := { s.hw.out with events := [] } } ∧
  ∀ u : EngId, u ≠ n → t.hw.eng u = s.hw.eng u

/-- `s` with the packets and counts of the trace (R404 to R406) as `t` has them. -/
def State.traced (s t : State) : State :=
  { s with hw := { s.hw with lko := { s.hw.lko with
    trace := t.hw.lko.trace, trcCount := t.hw.lko.trcCount, trcLost := t.hw.lko.trcLost, trcDropped := t.hw.lko.trcDropped } } }

/-- As `OnlyTor`, but for packets of the engine's program-flow trace where it runs (R405). -/
def State.OnlyTorFlow (s t : State) (n : EngId) : Prop :=
  (s.traced t).OnlyTor t n ∧ (s.hw.traceFlow n = false → t.hw.lko = s.hw.lko)

/-- `t` is `s` after an instruction of engine `n` that only changes that engine: by `f`, and by going on at the next instruction, or
at the start of the innermost loop whose end it reaches with iterations left (R342). -/
def State.Ran (s t : State) (n : EngId) (words : Nat) (f : Tor → Tor) : Prop :=
  s.OnlyTor t n ∧ t.hw.eng n = (f (s.hw.eng n)).ran (t.hw.eng n) ∧
  (t.hw.eng n).pc = (Tor.loopBack (s.hw.eng n).loops ((s.hw.eng n).pc + 4 * words)).2

/-- `s` with the state of the searches as `t` has it. -/
def State.searched (s t : State) : State := { s with hw := { s.hw with crn := t.hw.crn } }

/-- From `h` to `t` the active job of engine `n` has ended: an extension block of a search that it was counts as evaluated (R176); no
other job touches the searches. -/
def Hw.blockDone (h t : Hw) (n : EngId) : Prop :=
  match (h.eng n).job.bind (h.quantumOf n) with
  | none => t.crn = h.crn
  | some (o, x) => t.crn = { h.crn with occasions := h.crn.occasions.map fun y =>
      if y.order = o.order then { o with quanta := o.quanta.erase x, evaluated := x.block :: o.evaluated } else y }

/-- A message of one record, of type `typ`, length `len` and, for a SECTION, `count`, that passes the message checks of R182 to R192: it
arrives at a port that takes messages after slot 7 was announced, on the command channel (`none`) or on flow `f`, its layout sound, its
epoch the expected one, and its sequence number not used before. -/
def Hw.stands (h : Hw) (m : MsgHdr) (fl : Option Flow) (typ len count : Nat) : Prop :=
  5 ≤ h.sta.stage ∧ (h.port m.port).linkUp = true ∧ (m.port = 0 ∨ h.fwdOn = false) ∧ h.sta.k7.isSome = true ∧
  m.revision = 1 ∧ m.reserved = 0 ∧ m.concat = false ∧ m.size = 12 + len ∧ m.size ≤ m.avail ∧ m.seqE = 0x80 ∧
  m.records = 1 ∧ m.layout = [(typ, len, count)] ∧
  (let fresh := fun (q : SeqState) => q.synced = false ∨ (m.seq % 256 + 256 - q.next) % 256 < 128 ∨ m.seq % 256 ∉ q.seen
   match fl with
   | none => m.msgType = 2 ∧ m.pcId = 0xFFFF ∧ m.flowId = 0xFF ∧ fresh (getN h.fhl.seqs 128 {})
   | some f => m.pcId ≠ 0xFFFF ∧ (h.image.flows.map (·.2)).flatten.any (fun g => g.pkgPos == h.sys.pkgPos && g.eaxc == m.pcId) = true ∧
     h.msgFlow m = some f ∧ f.port = m.port.val ∧ vlanOf f = m.vlan.map (· % 4096) ∧ m.flowId = f.id ∧ m.epoch % 16 = h.epochAt (h.msgTick m) ∧
     fresh (getN h.fhl.seqs f.id {}))

/-- `t` is `h` after a message whose one record was accepted: but for the sequence numbers and the judgement of the message, nothing
else of the fronthaul changes. -/
def Hw.accepted (h t : Hw) : Prop := t = { h with fhl := { h.fhl with seqs := t.fhl.seqs, cur := t.fhl.cur } }

/-- As `accepted`, of a command that is held in the control queue until tick `k` (Table 9.13). -/
def Hw.held (h t : Hw) (k : Nat) : Prop :=
  t = { h with fhl := { h.fhl with seqs := t.fhl.seqs, cur := t.fhl.cur, control := h.fhl.control ++ [k] } }

/-- `t` is `h` after a refusal with a reason, counted under it and reported in one indication with a reason element and a tick element
(R205, R206): of the record `idx` of type `typ`, or of the message (0xFF, 0), on the flow `fid` with the identifier `eaxc`. -/
def Hw.refused (h t : Hw) (m : MsgHdr) (reason eaxc fid idx typ : Nat) : Prop :=
  t = { h with fhl := { h.fhl with
    seqs := t.fhl.seqs, cur := t.fhl.cur, queue := t.fhl.queue, indCount := t.fhl.indCount, refusalLost := t.fhl.refusalLost
    refused := updN h.fhl.refused reason fun c => min (2 ^ 32 - 1) (c + 1) } } ∧
  (h.fhl.queue.length < 256 → t.fhl.indCount = (h.fhl.indCount + 1) % 256 ∧ t.fhl.refusalLost = h.fhl.refusalLost ∧
    t.fhl.queue = h.fhl.queue ++ [.indication 0 m.src m.vlan (be 1 h.fhl.indCount ++ [0x02] ++ be 1 h.fhl.indCount ++ [2] ++
      (be 2 eaxc ++ be 2 (0x400 + reason) ++ be 4 (fid * 2 ^ 24 + m.seq % 256 * 2 ^ 16 + idx * 256 + typ)) ++
      (be 2 eaxc ++ be 2 0x4FF ++ be 4 m.target32))]) ∧
  (256 ≤ h.fhl.queue.length → t.fhl.queue = h.fhl.queue ∧ t.fhl.refusalLost = min (2 ^ 32 - 1) (h.fhl.refusalLost + 1))

end Sys2Proof.Machine
end

