-- ==== Sys2Proof/Certificates/Slice0/Obligations.lean ====
section
/-! DEFINITION. The statements for the provers, in the spec's terms; each cites the rules it rests on. -/
open Sys2Proof Sys2Proof.Machine

/-- One step is the command at the front of the queue, run on the state with the rest of the queue; with nothing waiting the block
idles (the model's queue, log 1). -/
def Obligations.StepTakesFront : Prop :=
  (∀ (s : State) (c : Instr) (rest : List Instr), s.pending = c :: rest → step s = exec c { s with pending := rest }) ∧
  (∀ s : State, s.pending = [] → step s = .next s)

/-- No command stops the block: from every state a step answers a next state (the spec describes an outcome for every happening; one
that its preconditions do not meet changes nothing, log 3). -/
def Obligations.StepAlwaysAnswers : Prop :=
  ∀ s : State, ∃ t, step s = .next t

/-- Every step keeps the memories in canonical form: addresses rising, no zero byte listed, valid words and stored errors rising. -/
def Obligations.StepKeepsMemoryForm : Prop :=
  ∀ s t : State, s.mem.wf = true → step s = .next t → t.mem.wf = true

/-- Every step leaves a settled state settled: HC0 has taken every happening (R400), and ALARM_N (R71, R402), ARM_IO (R384) and
STAT (Table 3.1) hold the levels that the state gives them. -/
def Obligations.StepKeepsSettled : Prop :=
  ∀ s t : State, s.hw.Settled → step s = .next t → t.hw.Settled

/-- The state after reset is sound, and holds what the spec gives for reset: stage S0 with every pin low or inactive (Tables 3.1, 3.3);
no time step and no open window; the registers at the reset values of their tables. -/
def Obligations.ResetState : Prop :=
  let h := State.reset.hw
  State.reset.Sound ∧ State.reset.pending = [] ∧ State.reset.mem = {} ∧
  h.sta.stage = 0 ∧ h.sta.failed = false ∧ h.sta.failAlarm = 0 ∧ h.sta.fineLock = false ∧ h.sta.announced = none ∧
  h.sta.resetCause = false ∧
  (h.pins.poresetN = false ∧ h.pins.alarm = false ∧ h.pins.stat = 0 ∧ h.pins.nvRst = false ∧ h.pins.ltx.toList.all (! ·) = true ∧
    h.pins.armIo = false ∧ h.pins.fireLow = false) ∧
  (h.tim.stepped = false ∧ h.tim.open_ = false ∧ h.tim.clockClass = 0xFF ∧ h.tim.stepTick = 0xFFFFFFFF) ∧
  (h.mode.slot = none ∧ h.mode.epoch = 0 ∧ h.mode.selects = []) ∧
  (∀ n : PathId, let p := h.path n
    p.retired = false ∧ p.paen = false ∧ p.lnaen = false ∧ p.dpdBypass = true ∧ p.rxPower = -32768 ∧ p.txPower = -32768 ∧
    p.dpd.active = false ∧ p.dpd.shadowReady = true ∧ p.dpd.nmse = 0x7FFF ∧ p.tone.mode = 0 ∧ p.cmp.armed = false ∧
    p.qRx = ⟨0x7FFF, 0x7FFF, 0x7FFF⟩ ∧ p.fem.id = none ∧ p.bias.range = 3) ∧
  (∀ q : QuadId, let u := h.quad q
    u.route = q ∧ u.obs.enable = false ∧ u.obs.state = 0 ∧ u.busStuck = false ∧ u.hkRunning = false) ∧
  (∀ t : EngId, let e := h.eng t
    e.state = 0 ∧ e.pc = 0 ∧ e.loops = [] ∧ e.calls = [] ∧ e.jobs = [] ∧ e.load = []) ∧
  (∀ c : ChId, (h.ch c).state = 0 ∧ (h.ch c).flight = []) ∧
  (∀ p : PortId, (h.port p).linkUp = false ∧ (h.port p).fill = 16) ∧
  (∀ i : SetupId, (h.capS i).armed = false ∧ (h.capS i).dead = 0xFFFFFFFF) ∧
  (h.trl.trip = false ∧ h.trl.classLimit.toList = [0xFF, 0xFF, 0xFF, 0xFF, 0xFF] ∧ h.trl.grants = [] ∧ h.trl.res = []) ∧
  (h.fhl.dl = [] ∧ h.fhl.ul = [] ∧ h.fhl.queue = [] ∧ h.crn.occasions = [] ∧ h.crn.route.toList = [0, 1, 2, 3] ∧ h.mas.tags = []) ∧
  (h.cal.run = none ∧ h.cal.commitTick = 0xFFFFFFFF) ∧ h.img.result = 0 ∧ h.img.loaded = none ∧ h.img.failEntry = 0x1FF ∧
  h.lko.log = [] ∧ h.lko.raised = []

/-- As core cycles pass between commands, the count since reset moves; C counts from S3's exit on (R63, R256) and stands before it;
the indications waiting leave by port A in their order, the first as soon as the line is free with no forwarded frame waiting, and port A
sends its frames one after another (R205, R211; the order among own frames is the model's choice, log 104); a holdover counts its seconds
(R270); the trace stream drains oldest first (R406); the event pulses of the command before are over; and the remote accesses outstanding
are answered, so their number is 0 (this clause is the model's choice, log 30). Nothing else changes. -/
def Obligations.TimePasses : Prop :=
  ∀ (h : Hw) (dt : Nat), dt ≠ 0 →
    let t := h.elapse dt
    t = { h with
      sta := { h.sta with since := h.sta.since + dt }
      tim := { h.tim with
        c := if 4 ≤ h.sta.stage then h.tim.c + dt else h.tim.c
        holdoverS := (h.tim.holdFrom.map fun c => min (2 ^ 32 - 1) ((h.sta.since + dt - c) / 983040000)).getD h.tim.holdoverS }
      out := { h.out with events := [], tx := t.out.tx, portA := t.out.portA, trace := t.out.trace }
      fhl := { h.fhl with queue := t.fhl.queue, rmaPending := 0 }
      lko := { h.lko with trace := t.lko.trace, trcCredit := t.lko.trcCredit } } ∧
    (∃ n, t.fhl.queue = h.fhl.queue.drop n ∧ t.out.tx = h.out.tx ++ h.fhl.queue.take n) ∧
    (h.out.portA.fwd = [] → h.out.portA.busy < (h.sta.since + dt) * 100000 → h.fhl.queue ≠ [] →
      t.fhl.queue.length < h.fhl.queue.length) ∧
    (∃ l, t.out.portA.line = h.out.portA.line ++ l) ∧
    (∃ n, t.lko.trace = h.lko.trace.take n ∧ t.out.trace = h.out.trace ++ (h.lko.trace.drop n).reverse) ∧
    (h.traceStream = false → t.lko = h.lko)

/-- What an alarm does in a settled state (R398, R399, R401, R402, Table 18.4): a state alarm already raised does nothing; any other
raise writes one log entry with its number, stage, tick, stamp and SENT, a state alarm is then raised, and an event alarm of a class of
PIN_CLASSES holds ALARM_N. Only what HC0 has for itself changes. The stamp is the time of day of the happening itself (the model's
reading, log 17), and SENT is set from S5 on and from port A's first link on (the model's reading of R401's last sentences, log 108).
What the end of a state alarm does in a settled state (R398, R401): the cease of an alarm that is not raised does nothing; any other
is logged, and the alarm is no longer raised.
The indication of an alarm (R205, R207): from S5 and port A's first link on (log 108) one indication with the alarm element joins the
refusal queue, by port A (the model's choice, log 40), addressed to the DST_MAC and the tag of the lowest-numbered own flow of the FLOW_SET
in force, and numbered by the package's counter, which advances
modulo 256; with 256 waiting it is lost and counted; before that nothing is queued. -/
def Obligations.AlarmsTaken : Prop :=
  (∀ (h : Hw) (code : Nat) (arg : Int) (extra : Nat), h.Settled →
     let t := (h.alarm code arg extra).settle
     let state := Hw.isState code = true
     t = h.told t ∧ t.Settled ∧
     ((state ∧ (code, arg) ∈ h.lko.raised) → t = h) ∧
     (¬ (state ∧ (code, arg) ∈ h.lko.raised) →
       (∃ e : LogEnt, t.lko.log = (e :: h.lko.log).take 4096 ∧
         e.number = h.lko.written % 2 ^ 32 ∧ e.code = code ∧ e.arg = arg ∧ e.extra = extra % 2 ^ 32 ∧ e.cease = false ∧
         e.timeValid = h.tim.stepped ∧ (e.sent = true ↔ 5 ≤ h.sta.stage ∧ h.sta.firstLink = true ∧ h.alarmDst.isSome = true ∧
           h.fhl.queue.length < 256) ∧ e.stage = h.sta.stage ∧ e.at_ = h.sta.since ∧
         e.tick = (if h.sta.stage < 3 then 0xFFFFFFFF else h.tim.k % 2 ^ 32) ∧
         e.tod = if h.sta.stage < 3 then 0 else todUnits h.tim.c) ∧
       t.lko.written = min (2 ^ 48 - 1) (h.lko.written + 1) ∧
       (state → t.lko.raised = h.lko.raised ++ [(code, arg)] ∧ t.lko.holds = h.lko.holds) ∧
       (¬ state → t.lko.raised = h.lko.raised ∧
         t.lko.holds = h.lko.holds ++
           (if h.img.loaded.isSome ∧ h.image.pkg.pinClasses.testBit (code / 256) = true then [h.sta.since] else [])))) ∧
  (∀ (h : Hw) (code : Nat) (arg : Int), h.Settled → Hw.isState code = true →
     let t := (h.cease code arg).settle
     t = h.told t ∧ t.Settled ∧
     ((code, arg) ∉ h.lko.raised → t = h) ∧
     ((code, arg) ∈ h.lko.raised →
       t.newestCease code arg ∧ t.lko.raised = h.lko.raised.erase (code, arg) ∧ t.lko.holds = h.lko.holds ∧
       t.lko.written = min (2 ^ 48 - 1) (h.lko.written + 1))) ∧
  (∀ (h : Hw) (code : Nat) (arg : Int) (extra : Nat), h.Settled → ¬ (Hw.isState code = true ∧ (code, arg) ∈ h.lko.raised) →
     let t := (h.alarm code arg extra).settle
     (h.sta.stage < 5 ∨ h.sta.firstLink = false → t.fhl = h.fhl) ∧
     (5 ≤ h.sta.stage → h.sta.firstLink = true → ∀ f : Flow, h.alarmDst = some f →
       (h.fhl.queue.length < 256 →
         t.fhl.queue = h.fhl.queue ++ [.indication 0 f.dstMac (if f.vlan = 0xFFFF then none else some f.vlan)
           (be 1 h.fhl.indCount ++ [0x00] ++ be 1 h.fhl.indCount ++ [0x01] ++
             (be 2 0xFFFF ++ be 2 0x800 ++ be 4 (code * 65536 + (arg % 65536).toNat)))] ∧
         t.fhl.indCount = (h.fhl.indCount + 1) % 256 ∧ t.fhl.refusalLost = h.fhl.refusalLost) ∧
       (256 ≤ h.fhl.queue.length → t.fhl.queue = h.fhl.queue ∧ t.fhl.indCount = h.fhl.indCount ∧
         t.fhl.refusalLost = min (2 ^ 32 - 1) (h.fhl.refusalLost + 1))))

/-- ADD, SUB and CMP of a ready engine (Tables 15.3 and 15.6): the sum or the difference of Da and Db, or of Da and the extension,
modulo 2^32, goes to Dd, for CMP nowhere; Z and N are those of the result, C the carry out of the sum or the absence of a borrow, V
the overflow of the signed operation. Nothing else changes but the place in the program and the counts of cycles.
AND, OR, XOR and the paired halves of ADD2 and SUB2 of a ready engine (Tables 15.3 and 15.6): the logical instructions set Z and
N; the paired ones saturate each half to 16 bits, set Z when both halves are zero and SAT when either saturated.
SHL, SAR and SHR by k = Db or extension modulo 32, where k is not 0 (Table 15.6): the shifted word, Z and N of it, and the last
bit out in C. A shift by 0 leaves the operand, sets Z and N and leaves C open (log 18). -/
def Obligations.TorArithmetic : Prop :=
  (∀ (s : State) (n : EngId) (x : Bool) (d a b : BitVec 4) (ext : Word),
     s.hw.Settled → s.TorReady n (if x then 2 else 1) → (x = true → b = 0) →
     let e := s.hw.eng n
     let u := e.dReg a
     let w := if x then ext else e.dReg b
     (∃ t, exec (.add n x d a b ext) s = .next t ∧ s.Ran t n (if x then 2 else 1) fun e =>
       { e.setD d (u + w) with
         z := decide (u + w = 0), n := decide ((u + w).toInt < 0), c := decide (2 ^ 32 ≤ u.toNat + w.toNat)
         v := decide ((u + w).toInt ≠ u.toInt + w.toInt) }) ∧
     (∃ t, exec (.sub n x d a b ext) s = .next t ∧ s.Ran t n (if x then 2 else 1) fun e =>
       { e.setD d (u - w) with
         z := decide (u = w), n := decide ((u - w).toInt < 0), c := decide (w.toNat ≤ u.toNat)
         v := decide ((u - w).toInt ≠ u.toInt - w.toInt) }) ∧
     (∃ t, exec (.cmp n x d a b ext) s = .next t ∧ s.Ran t n (if x then 2 else 1) fun e =>
       { e with
         z := decide (u = w), n := decide ((u - w).toInt < 0), c := decide (w.toNat ≤ u.toNat)
         v := decide ((u - w).toInt ≠ u.toInt - w.toInt) })) ∧
  (∀ (s : State) (n : EngId) (x : Bool) (d a b : BitVec 4) (ext : Word),
     s.hw.Settled → s.TorReady n (if x then 2 else 1) → (x = true → b = 0) →
     let e := s.hw.eng n
     let u := e.dReg a
     let w := if x then ext else e.dReg b
     let lo := fun (v : Word) => (v.extractLsb' 0 16).toInt
     let hi := fun (v : Word) => (v.extractLsb' 16 16).toInt
     let cl := fun (v : Int) => max (-32768) (min 32767 v)
     let halves := fun (p q : Int) (e : Tor) =>
       { e.setD d (BitVec.ofInt 16 (cl q) ++ BitVec.ofInt 16 (cl p)) with
         z := decide (p = 0 ∧ q = 0), sat := e.sat || decide (cl p ≠ p) || decide (cl q ≠ q) }
     (∃ t, exec (.and n x d a b ext) s = .next t ∧ s.Ran t n (if x then 2 else 1) fun e =>
       { e.setD d (u &&& w) with z := decide (u &&& w = 0), n := decide ((u &&& w).toInt < 0) }) ∧
     (∃ t, exec (.or n x d a b ext) s = .next t ∧ s.Ran t n (if x then 2 else 1) fun e =>
       { e.setD d (u ||| w) with z := decide (u ||| w = 0), n := decide ((u ||| w).toInt < 0) }) ∧
     (∃ t, exec (.xor n x d a b ext) s = .next t ∧ s.Ran t n (if x then 2 else 1) fun e =>
       { e.setD d (u ^^^ w) with z := decide (u ^^^ w = 0), n := decide ((u ^^^ w).toInt < 0) }) ∧
     (∃ t, exec (.add2 n x d a b ext) s = .next t ∧ s.Ran t n (if x then 2 else 1) (halves (lo u + lo w) (hi u + hi w))) ∧
     (∃ t, exec (.sub2 n x d a b ext) s = .next t ∧ s.Ran t n (if x then 2 else 1) (halves (lo u - lo w) (hi u - hi w)))) ∧
  (∀ (s : State) (n : EngId) (x : Bool) (d a b : BitVec 4) (ext : Word),
     s.hw.Settled → s.TorReady n (if x then 2 else 1) → (x = true → b = 0) →
     let e := s.hw.eng n
     let u := e.dReg a
     let k := (if x then ext else e.dReg b).toNat % 32
     let put := fun (r : Word) (c : Bool) (e : Tor) => { e.setD d r with z := decide (r = 0), n := decide (r.toInt < 0), c := c }
     (k ≠ 0 →
       (∃ t, exec (.shl n x d a b ext) s = .next t ∧
         s.Ran t n (if x then 2 else 1) (put (BitVec.ofNat 32 (u.toNat * 2 ^ k)) (u.toNat.testBit (32 - k)))) ∧
       (∃ t, exec (.sar n x d a b ext) s = .next t ∧
         s.Ran t n (if x then 2 else 1) (put (BitVec.ofInt 32 (u.toInt / 2 ^ k)) (u.toNat.testBit (k - 1)))) ∧
       (∃ t, exec (.shr n x d a b ext) s = .next t ∧
         s.Ran t n (if x then 2 else 1) (put (BitVec.ofNat 32 (u.toNat / 2 ^ k)) (u.toNat.testBit (k - 1))))) ∧
     (k = 0 → ∀ c ∈ [Instr.shl n x d a b ext, Instr.sar n x d a b ext, Instr.shr n x d a b ext],
       ∃ t co, exec c s = .next t ∧ t.hw.free = s.hw.free + 1 ∧
         { s with hw := { s.hw with free := t.hw.free } }.Ran t n (if x then 2 else 1) (put u co)))

/-- NOP, DONE, CLRF, MVI, MOV and MODP of a ready engine (Tables 15.2 and 15.3, R336, R350): each has its one effect on the engine's
registers and nothing else; a search block that ends with DONE counts as evaluated (R176). `put` writes the register of a code of Table
15.2, `get` reads it; ESTAT is code 0x30.
MVA, LDA and SETS of a ready engine (R339, R340): a move out is scaled by the SCALE in force, which right after a SETS is the
earlier one, truncated toward minus infinity and saturated with SAT; LDA loads both parts times 2^15. SETS keeps the earlier SCALE
for the instruction that follows. -/
def Obligations.TorMoves : Prop :=
  (∀ (s : State) (n : EngId) (x : Bool) (ext : Word), s.hw.Settled → s.TorReady n (if x then 2 else 1) →
     let put := fun (c : BitVec 6) (v : Word) (e : Tor) =>
       match c.toNat / 8 with
       | 0 | 1 => { e with d := updN e.d c.toNat fun _ => v }
       | 2 => { e with p := updN e.p (c.toNat % 8) fun _ => v }
       | 3 => { e with m := updN e.m (c.toNat % 8) fun _ => v }
       | 4 => { e with b := updN e.b (c.toNat % 8) fun _ => v }
       | _ => { e with l := updN e.l (c.toNat % 8) fun _ => v }
     let get := fun (c : BitVec 6) (e : Tor) =>
       match c.toNat / 8 with
       | 0 | 1 => getN e.d c.toNat 0
       | 2 => getN e.p (c.toNat % 8) 0
       | 3 => getN e.m (c.toNat % 8) 0
       | 4 => getN e.b (c.toNat % 8) 0
       | 5 => getN e.l (c.toNat % 8) 0
       | _ => BitVec.ofNat 32 (Hw.estat e)
     let post := fun (p : BitVec 3) (step : Int) (e : Tor) =>
       let b := (getN e.b p.toNat 0).toNat
       let l := (getN e.l p.toNat 0).toNat
       { e with p := updN e.p p.toNat fun w => BitVec.ofInt 32 (if l = 0 then w.toNat + step else b + (w.toNat - b + step) % l) }
     (x = false →
       (∃ t, exec (.nop n x 0) s = .next t ∧ s.Ran t n 1 id) ∧
       (∃ t, exec (.done n x 0) s = .next t ∧ s.hw.blockDone t.hw n ∧
         (s.searched t).Ran t n 1 fun e => { e with job := none }) ∧
       (∀ mask : BitVec 3, ∃ t, exec (.clrf n x mask) s = .next t ∧ s.Ran t n 1 fun e =>
         { e with gx := e.gx && !mask.getLsbD 0, sat := e.sat && !mask.getLsbD 1, ue := e.ue && !mask.getLsbD 2 }) ∧
       (∀ dst src : BitVec 6, dst.toNat < 0x30 → src.toNat ≤ 0x30 →
         ∃ t, exec (.mov n x dst src) s = .next t ∧ s.Ran t n 1 (put dst (get src (s.hw.eng n))))) ∧
     (∀ (dst : BitVec 6) (imm : BitVec 16), dst.toNat < 0x30 → (x = true → imm = 0) →
       ∃ t, exec (.mvi n x dst imm ext) s = .next t ∧ s.Ran t n (if x then 2 else 1) (put dst (if x then ext else imm.signExtend 32))) ∧
     (∀ (p : BitVec 3) (imm : BitVec 16), (x = true → imm = 0) →
       (∃ t, exec (.modp n x p false imm ext) s = .next t ∧
         s.Ran t n (if x then 2 else 1) (post p (getN (s.hw.eng n).m p.toNat 0).toInt)) ∧
       (∃ t, exec (.modp n x p true imm ext) s = .next t ∧
         s.Ran t n (if x then 2 else 1) (post p (if x then ext.toInt else imm.toInt))))) ∧
  (∀ (s : State) (n : EngId), s.hw.Settled → s.TorReady n 1 →
     let e := s.hw.eng n
     let sc := (if e.justSet then e.prevScale else e.scale).toNat
     let k : Int := if sc = 3 then -1 else sc
     let cut := fun (f : Int) (x : Int) => ⌊(x : ℚ) * (2 : ℚ) ^ (-(f + k))⌋
     let clamp := fun (w : Nat) (x : Int) => max (-(2 ^ (w - 1))) (min (2 ^ (w - 1) - 1) x)
     (∀ (a : BitVec 2) (d : BitVec 4),
       let re := (getN e.a a.toNat {}).re.toInt
       let im := (getN e.a a.toNat {}).im.toInt
       (∃ t, exec (.mva n false a d true) s = .next t ∧ s.Ran t n 1 fun e =>
         { e.setD d (BitVec.ofInt 32 (clamp 32 (cut 0 re))) with sat := e.sat || decide (clamp 32 (cut 0 re) ≠ cut 0 re) }) ∧
       (∃ t, exec (.mva n false a d false) s = .next t ∧ s.Ran t n 1 fun e =>
         { e.setD d (BitVec.ofInt 16 (clamp 16 (cut 15 im)) ++ BitVec.ofInt 16 (clamp 16 (cut 15 re))) with
           sat := e.sat || decide (clamp 16 (cut 15 re) ≠ cut 15 re) || decide (clamp 16 (cut 15 im) ≠ cut 15 im) }) ∧
       (∃ t, exec (.lda n false a d) s = .next t ∧ s.Ran t n 1 fun e =>
         { e with a := updN e.a a.toNat fun _ =>
           { re := BitVec.ofInt 40 (((e.dReg d).extractLsb' 0 16).toInt * 32768)
             im := BitVec.ofInt 40 (((e.dReg d).extractLsb' 16 16).toInt * 32768) } })) ∧
     (∀ k : BitVec 2, ∃ t, exec (.sets n false k) s = .next t ∧ s.OnlyTor t n ∧
       t.hw.eng n = { e.ran (t.hw.eng n) with prevScale := e.scale, scale := k, justSet := true } ∧
       (t.hw.eng n).pc = (Tor.loopBack e.loops (e.pc + 4)).2))

/-- The multiplies of a ready engine (Tables 15.3 and 15.4, R332, R340): each accumulator part keeps the low 40 bits of its exact new
value, and GX is set where a part left the 40-bit range. CLR takes zero operands. -/
def Obligations.TorMultiplies : Prop :=
  ∀ (s : State) (n : EngId) (a : BitVec 2) (dx dy : BitVec 4), s.hw.Settled → s.TorReady n 1 →
    let e := s.hw.eng n
    let i := fun (r : Nat) => ((getN e.d r 0).extractLsb' 0 16).toInt
    let q := fun (r : Nat) => ((getN e.d r 0).extractLsb' 16 16).toInt
    let out := fun (v : Int) => decide (v < -(2 ^ 39) ∨ 2 ^ 39 ≤ v)
    let put := fun (re im : Int) (e : Tor) =>
      { e with a := updN e.a a.toNat fun _ => { re := BitVec.ofInt 40 re, im := BitVec.ofInt 40 im }, gx := e.gx || out re || out im }
    let are := (getN e.a a.toNat {}).re.toInt
    let aim := (getN e.a a.toNat {}).im.toInt
    let x := dx.toNat
    let y := dy.toNat
    (∃ t, exec (.cmac n false a dx dy) s = .next t ∧
      s.Ran t n 1 (put (are + (i x * i y - q x * q y)) (aim + (i x * q y + q x * i y)))) ∧
    (∃ t, exec (.cmacj n false a dx dy) s = .next t ∧
      s.Ran t n 1 (put (are + (i x * i y + q x * q y)) (aim + (q x * i y - i x * q y)))) ∧
    (∃ t, exec (.cmsu n false a dx dy) s = .next t ∧
      s.Ran t n 1 (put (are - (i x * i y - q x * q y)) (aim - (i x * q y + q x * i y)))) ∧
    (∃ t, exec (.cmul n false a dx dy) s = .next t ∧ s.Ran t n 1 (put (i x * i y - q x * q y) (i x * q y + q x * i y))) ∧
    (∃ t, exec (.rmac n false a dx dy) s = .next t ∧ s.Ran t n 1 (put (are + i x * i y) aim)) ∧
    (∃ t, exec (.clr n false a 0 0) s = .next t ∧ s.Ran t n 1 (put 0 0)) ∧
    (∀ (g : BitVec 2) (conj replace : Bool),
      let sg : Int := if conj then -1 else 1
      let r := fun (j : Nat) => 4 * g.toNat + j
      let re := fun (j : Nat) => (if replace then 0 else (getN e.a j {}).re.toInt) + (i (r j) * i y - q (r j) * (sg * q y))
      let im := fun (j : Nat) => (if replace then 0 else (getN e.a j {}).im.toInt) + (i (r j) * (sg * q y) + q (r j) * i y)
      ∃ t, exec (.qmac n false 0 g dy conj replace) s = .next t ∧ s.Ran t n 1 fun e =>
        { e with
          a := #v[⟨BitVec.ofInt 40 (re 0), BitVec.ofInt 40 (im 0)⟩, ⟨BitVec.ofInt 40 (re 1), BitVec.ofInt 40 (im 1)⟩,
            ⟨BitVec.ofInt 40 (re 2), BitVec.ofInt 40 (im 2)⟩, ⟨BitVec.ofInt 40 (re 3), BitVec.ofInt 40 (im 3)⟩]
          gx := e.gx || (List.range 4).any fun j => out (re j) || out (im j) })

/-- BR, CALL, RET and LOOP of a ready engine (Tables 15.3 and 15.5, R342): offsets count words from the word after the instruction; a
taken branch leaves the loops that do not hold its target; CALL pushes and RET pops the return address; LOOP enters its body with its
count, or skips it when the count is 0, which without an extension may come from D15. -/
def Obligations.TorFlow : Prop :=
  ∀ (s : State) (n : EngId) (x : Bool) (off : BitVec 21) (ext : Word),
    s.hw.Settled → s.TorReady n (if x then 2 else 1) → (x = true → off = 0) →
    let e := s.hw.eng n
    let next := e.pc + (if x then 8 else 4)
    let dst := (BitVec.ofInt 32 (next + 4 * (if x then ext.toInt else off.toInt))).toNat
    let cond := fun (c : Nat) => [true, e.z, !e.z, e.n, !e.n, e.c, !e.c, e.v, e.gx, e.sat].getD c false
    let jumped := fun (t : State) => s.OnlyTorFlow t n
    (∀ c : BitVec 4, c.toNat < 10 →
      (cond c.toNat = true → ∃ t, exec (.br n x c off ext) s = .next t ∧ jumped t ∧
        t.hw.eng n = { e.ran (t.hw.eng n) with pc := dst, loops := Tor.loopsKept e.loops dst }) ∧
      (cond c.toNat = false → ∃ t, exec (.br n x c off ext) s = .next t ∧ s.Ran t n (if x then 2 else 1) id)) ∧
    (e.calls.length < 8 → ∃ t, exec (.call n x off ext) s = .next t ∧ jumped t ∧
      t.hw.eng n = { e.ran (t.hw.eng n) with pc := dst, loops := e.loops, calls := next :: e.calls }) ∧
    (∀ a r, x = false → e.calls = a :: r → ∃ t, exec (.ret n x 0) s = .next t ∧ jumped t ∧
      t.hw.eng n = { e.ran (t.hw.eng n) with calls := r } ∧ (t.hw.eng n).pc = (Tor.loopBack e.loops a).2) ∧
    (∀ (body : BitVec 9) (count : BitVec 16), body ≠ 0 → (x = true → count = 0) →
      let cnt := if x then ext.toNat else if count = 0 then (getN e.d 15 0).toNat % 65536 else count.toNat
      let stop := next + 4 * body.toNat
      (cnt = 0 → ∃ t, exec (.loop n x body count ext) s = .next t ∧ s.OnlyTor t n ∧ t.hw.eng n = e.ran (t.hw.eng n) ∧
        (t.hw.eng n).pc = (Tor.loopBack e.loops stop).2) ∧
      (cnt ≠ 0 → e.loops.length < 4 → ∃ t, exec (.loop n x body count ext) s = .next t ∧ s.OnlyTor t n ∧
        t.hw.eng n = { e.ran (t.hw.eng n) with pc := next, loops := { start := next, stop := stop, left := cnt } :: e.loops }))

/-- WAIT, SIGNAL and JPOP of a ready engine, and the end of a wait (R343 to R347): WAIT takes the lowest pending slot of its mask or
stops the engine; SIGNAL pulses EV144 + n, at once (the instant is the model's choice, log 19); JPOP ends the job before it, a search block
counting as evaluated
(R176), and takes the next descriptor, or zeros with Z.
An engine that executes HALT halts with its code; one whose instruction the tables do not permit halts with ILLEGAL, and a stack
without room or empty, a misaligned or outlying fetch and an uncorrectable program word halt it with theirs (R334, R342, R348,
R349), as does a word that spells no instruction, whatever the command (the model's choice, log 123). It keeps its registers and its
program counter, its quantum is over, and TOR_HALTED is logged. -/
def Obligations.TorEvents : Prop :=
  (∀ (s : State) (n : EngId), s.hw.Settled →
     let e := s.hw.eng n
     let pend := fun (mask : Byte) (k : Nat) => k < 8 ∧ mask.getLsbD k = true ∧ (getN e.ev k {}).pending = true
     let lowest := fun (mask : Byte) (k : Nat) => pend mask k ∧ ∀ j < k, ¬ pend mask j
     let took := fun (k : Nat) (e : Tor) => { e with ev := updN e.ev k fun x => { x with pending := false }, evLast := k }
     (s.TorReady n 1 →
       (∀ mask : Byte, mask ≠ 0 →
         (∀ k, lowest mask k → ∃ t, exec (.wait n false mask) s = .next t ∧ s.Ran t n 1 (took k)) ∧
         ((∀ k, ¬ pend mask k) → ∃ t, exec (.wait n false mask) s = .next t ∧ s.OnlyTor t n ∧
           t.hw.eng n = { e.ran (t.hw.eng n) with
             pc := e.pc, loops := e.loops, state := 2, waitMask := mask, waitFrom := s.hw.up })) ∧
       (∃ t, exec (.signal n false 0) s = .next t ∧ t.pending = s.pending ∧ t.mem = s.mem ∧
         t.hw = { (s.traced t).hw with
           tor := t.hw.tor, smem := t.hw.smem, out := { s.hw.out with events := [144 + n.val] } } ∧
         (∀ (u : EngId) (k : Fin 8), (getN (t.hw.eng u).ev k {}).pending = true ↔
           (getN (s.hw.eng u).ev k {}).pending = true ∨
             (getN (s.hw.eng u).ev k {}).enable = true ∧ (getN (s.hw.eng u).ev k {}).line = 144 + n.val) ∧
         (∀ u : EngId, t.hw.eng u = { (if u = n then e.ran (t.hw.eng n) else s.hw.eng u) with
           ev := (t.hw.eng u).ev, evOverrun := (t.hw.eng u).evOverrun }) ∧
         (t.hw.eng n).pc = (Tor.loopBack e.loops (e.pc + 4)).2) ∧
       (∀ d : BitVec 4, d.toNat % 2 = 0 →
         (e.jobs = [] → ∃ t, exec (.jpop n false d) s = .next t ∧ s.hw.blockDone t.hw n ∧
           (s.searched t).Ran t n 1 fun e => { (e.setD d 0).setD (d + 1) 0 with z := true, job := none }) ∧
         (∀ j r, e.jobs = j :: r → ∃ t, exec (.jpop n false d) s = .next t ∧ s.hw.blockDone t.hw n ∧ (s.searched t).OnlyTorFlow t n ∧
           t.hw.eng n = { ((e.setD d j.w0).setD (d + 1) (BitVec.ofNat 32 j.tick)).ran (t.hw.eng n) with
             z := false, jobs := r, job := some j, abandoned := false, quanta := min (2 ^ 32 - 1) (e.quanta + 1) } ∧
           (t.hw.eng n).pc = (Tor.loopBack e.loops (e.pc + 4)).2))) ∧
     (∀ (line : Byte) (k : Nat), e.state = 2 → lowest e.waitMask k → (getN e.ev k {}).line = line.toNat →
       ∃ t, exec (.waitResume n line) s = .next t ∧ s.OnlyTorFlow t n ∧
         t.hw.eng n = { (took k e).ran (t.hw.eng n) with state := 1 } ∧
         (t.hw.eng n).pc = (Tor.loopBack e.loops (e.pc + 4)).2)) ∧
  (∀ (s : State) (n : EngId) (x : Bool) (ext : Word), s.hw.Settled →
     let e := s.hw.eng n
     let halted := fun (c : Instr) (cause code : Nat) => ∃ t, exec c s = .next t ∧ t.mem = s.mem ∧
       (t.hw.eng n).state = 3 ∧ (t.hw.eng n).cause = cause ∧ (t.hw.eng n).code = code ∧ (t.hw.eng n).pc = e.pc ∧
       (t.hw.eng n).job = none ∧ (t.hw.eng n).load = [] ∧ (t.hw.eng n).d = e.d ∧ (t.hw.eng n).a = e.a ∧ (t.hw.eng n).p = e.p ∧
       (t.hw.eng n).m = e.m ∧ (t.hw.eng n).b = e.b ∧ (t.hw.eng n).l = e.l ∧
       (∃ l ∈ t.hw.lko.log, l.code = 0x0A01 ∧ l.arg = (n.val * 256 + cause : Nat)) ∧
       ∀ u : EngId, u ≠ n → t.hw.eng u = s.hw.eng u
     (∀ code : Byte, s.TorReady n 1 → halted (.halt n false 0 code) 2 code.toNat) ∧
     (s.TorReady n (if x then 2 else 1) →
       (∀ (off : BitVec 21) (c : BitVec 4), 10 ≤ c.toNat → halted (.br n x c off ext) 3 0) ∧
       (∀ count : BitVec 16, halted (.loop n x 0 count ext) 3 0) ∧
       (∀ d p imm size half, halted (.ld n x d p 3 size half imm ext) 3 0 ∧ halted (.st n x d p 3 size half imm ext) 3 0)) ∧
     (s.TorReady n 1 →
       (8 ≤ e.calls.length → ∀ off, halted (.call n false off ext) 6 0) ∧
       (e.calls = [] → halted (.ret n false 0) 6 0) ∧
       (4 ≤ e.loops.length → ∀ (body : BitVec 9) (count : BitVec 16), body ≠ 0 → count ≠ 0 →
         halted (.loop n false body count ext) 6 0) ∧
       (∀ z, halted (.nop n true z) 3 0 ∧ halted (.ret n true z) 3 0 ∧ halted (.done n true z) 3 0) ∧ halted (.wait n false 0) 3 0 ∧ (∀ d : BitVec 4, d.toNat % 2 = 1 → halted (.jpop n false d) 3 0)) ∧
     (e.state = 1 → e.load = [] →
       (e.pc % 4 ≠ 0 → halted (.nop n false 0) 4 0) ∧
       (e.pc % 4 = 0 → 65536 < e.pc + 4 → halted (.nop n false 0) 5 0) ∧
       (e.pc % 4 = 0 → e.pc + 4 ≤ 65536 → s.mem.anyUe (0x11000000 + n.val * 0x10000 + e.pc) 4 = true →
         halted (.nop n false 0) 7 0) ∧
       (e.pc % 4 = 0 → e.pc + 4 ≤ 65536 → s.mem.anyUe (0x11000000 + n.val * 0x10000 + e.pc) 4 = false →
         torDecode n (BitVec.ofNat 32 (unle (s.mem.read (0x11000000 + n.val * 0x10000 + e.pc) 4))) 0 = none →
         halted (.nop n false 0) 3 0)))

/-- LD of a ready engine, and the return of a global load (R335 to R337): the address is Pi plus the immediate in MODE 0, else Pi,
which is then post-modified; a load of sound words of the engine's own data memory, by its local or its global address, writes Dd at
once, any other load of a mapped region waits in issue order and writes Dd when its data return; a halfword leaves the other half of Dd.
ST and STA of a ready engine to data memory or the shared store, and to a region that engines may not write (R335, R339, R349,
R354, Table 16.2): the word, or the half of Dd that HALF selects, or the accumulator moved out, goes to the address that MODE forms, in
little-endian bytes; every byte of memory outside those stored reads as before unless a word that the store merges into was
uncorrectable. A store to the codebook is dropped and counted. A store outside the own data memory joins the posted ones (R337); its
bytes are there at once (the model's choice, log 19).
FTAP, FTAPZ and DLD of a ready engine whose two loads are of sound words of its own data memory (R338): the multiply reads Dx and
Dy as they stood, D1 is loaded from [P1] and D2 from [P2] as the first post-modify leaves it, and both pointers are post-modified by
their own modifiers. -/
def Obligations.TorMemory : Prop :=
  (∀ (s : State) (n : EngId), s.hw.Settled →
     let e := s.hw.eng n
     let post := fun (p : BitVec 3) (step : Int) (e : Tor) =>
       let b := (getN e.b p.toNat 0).toNat
       let l := (getN e.l p.toNat 0).toNat
       { e with p := updN e.p p.toNat fun w => BitVec.ofInt 32 (if l = 0 then w.toNat + step else b + (w.toNat - b + step) % l) }
     let into := fun (old : Word) (size half : Bool) (v : Nat) =>
       match size, half with
       | false, _ => BitVec.ofNat 32 v
       | true, false => old.extractLsb' 16 16 ++ BitVec.ofNat 16 v
       | true, true => BitVec.ofNat 16 v ++ old.extractLsb' 0 16
     (∀ (x : Bool) (d : BitVec 4) (p : BitVec 3) (mode : BitVec 2) (size half : Bool) (imm : BitVec 14) (ext : Word),
       s.TorReady n (if x then 2 else 1) → (x = true → imm = 0) → mode.toNat < 3 →
       let i : Int := if x then ext.toInt else imm.toInt
       let pv := (getN e.p p.toNat 0).toNat
       let a := if mode = 0 then (BitVec.ofInt 32 (pv + i)).toNat else pv
       let step : Int := if mode = 1 then (getN e.m p.toNat 0).toInt else i
       let moved := fun e => if mode = 0 then e else post p step e
       let w := if size then 2 else 4
       a % w = 0 →
       let base := 0x10000000 + n.val * 0x40000
       let g := if a < 0x40000 then base + a else a
       (base ≤ g → g < base + 0x40000 → s.mem.anyUe g w = false →
         ∃ t, exec (.ld n x d p mode size half imm ext) s = .next t ∧ s.Ran t n (if x then 2 else 1) fun e =>
           (moved e).setD d (into (e.dReg d) size half (unle (s.mem.read g w)))) ∧
       (¬ (base ≤ g ∧ g < base + 0x40000) → region a ≠ .unmapped → (∀ o, region a = .prog n.val o → s.mem.anyUe a w = false) →
         ∃ t, exec (.ld n x d p mode size half imm ext) s = .next t ∧ s.Ran t n (if x then 2 else 1) fun e =>
           { moved e with load := [{ dst := d, addr := a, size := size, half := half, at_ := s.hw.sta.since }] })) ∧
     (∀ g rest, e.load = g :: rest →
       let w := if g.size then 2 else 4
       0x20000000 ≤ g.addr → g.addr < 0x21000000 → s.mem.anyUe g.addr w = false →
       ∃ t, exec (.globalLoadReturn n) s = .next t ∧ s.OnlyTor t n ∧
         t.hw.eng n = { e.setD g.dst (into (e.dReg g.dst) g.size g.half (unle (s.mem.read g.addr w))) with
           load := rest, stalls := (t.hw.eng n).stalls, cyc := (t.hw.eng n).cyc })) ∧
  (∀ (s : State) (n : EngId), s.hw.Settled → s.mem.wf = true →
     let e := s.hw.eng n
     let post := fun (p : BitVec 3) (step : Int) (e : Tor) =>
       let b := (getN e.b p.toNat 0).toNat
       let l := (getN e.l p.toNat 0).toNat
       { e with p := updN e.p p.toNat fun w => BitVec.ofInt 32 (if l = 0 then w.toNat + step else b + (w.toNat - b + step) % l) }
     ∀ (x : Bool) (p : BitVec 3) (mode : BitVec 2) (imm : BitVec 14) (ext : Word),
       s.TorReady n (if x then 2 else 1) → (x = true → imm = 0) → mode.toNat < 3 →
       let i : Int := if x then ext.toInt else imm.toInt
       let pv := (getN e.p p.toNat 0).toNat
       let a := if mode = 0 then (BitVec.ofInt 32 (pv + i)).toNat else pv
       let g := if a < 0x40000 then 0x10000000 + n.val * 0x40000 + a else a
       let step : Int := if mode = 1 then (getN e.m p.toNat 0).toInt else i
       let moved := fun e => if mode = 0 then e else post p step e
       let stored := fun (c : Instr) (w v : Nat) (own : Tor → Tor) =>
         a % w = 0 →
         (0x10000000 ≤ g ∧ g < 0x10400000 ∨ 0x20000000 ≤ g ∧ g < 0x21000000 → s.mem.anyUe g w = false →
           ∃ t, exec c s = .next t ∧ t.pending = s.pending ∧ t.hw = { s.hw with
               tor := t.hw.tor, smem := t.hw.smem, out := { s.hw.out with events := [] } } ∧
             (∃ c, t.hw.eng n = { (own (moved e)).ran (t.hw.eng n) with
               posted := if 0x10000000 + n.val * 0x40000 ≤ g ∧ g < 0x10040000 + n.val * 0x40000 then e.posted else c :: e.posted.take 7 }) ∧
             (∀ u : EngId, u ≠ n → t.hw.eng u = s.hw.eng u) ∧
             (∀ j < w, t.mem.get (g + j) = BitVec.ofNat 8 (v / 256 ^ j)) ∧
             ∀ b, b < g ∨ g + w ≤ b → t.mem.get b = s.mem.get b) ∧
         (0x30000000 ≤ g → g < 0x30100000 →
           ∃ t cc, exec c s = .next t ∧ s.Ran t n (if x then 2 else 1) fun e =>
             { own (moved e) with posted := cc :: e.posted.take 7, storeDropped := min (2 ^ 32 - 1) (e.storeDropped + 1) })
       (∀ (d : BitVec 4), let v := (e.dReg d).toNat
         (∀ half, stored (.st n x d p mode false half imm ext) 4 v id) ∧
         stored (.st n x d p mode true false imm ext) 2 (v % 65536) id ∧
         stored (.st n x d p mode true true imm ext) 2 (v / 65536) id) ∧
       (∀ (acc : BitVec 2) (form : Bool), stored (.sta n x acc form p mode 0 imm ext) 4 (e.moveOut acc form).1.toNat fun e =>
         { e with sat := e.sat || (e.moveOut acc form).2 })) ∧
  (∀ (s : State) (n : EngId) (a : BitVec 2) (dx dy d1 d2 : BitVec 4) (p1 p2 : BitVec 3) (conj : Bool),
     s.hw.Settled → s.TorReady n 1 → d1 ≠ d2 →
     let e := s.hw.eng n
     let post := fun (p : BitVec 3) (e : Tor) =>
       let b := (getN e.b p.toNat 0).toNat
       let l := (getN e.l p.toNat 0).toNat
       let step := (getN e.m p.toNat 0).toInt
       { e with p := updN e.p p.toNat fun w => BitVec.ofInt 32 (if l = 0 then w.toNat + step else b + (w.toNat - b + step) % l) }
     let a1 := (getN e.p p1.toNat 0).toNat
     let a2 := (getN (post p1 e).p p2.toNat 0).toNat
     let base := 0x10000000 + n.val * 0x40000
     a1 % 4 = 0 → a1 < 0x40000 → s.mem.anyUe (base + a1) 4 = false →
     a2 % 4 = 0 → a2 < 0x40000 → s.mem.anyUe (base + a2) 4 = false →
     let loads := fun (e : Tor) =>
       ((post p2 (post p1 e)).setD d1 (BitVec.ofNat 32 (unle (s.mem.read (base + a1) 4)))).setD d2
         (BitVec.ofNat 32 (unle (s.mem.read (base + a2) 4)))
     let x := Tor.iq (e.dReg dx)
     let y := if conj then Tor.conj (Tor.iq (e.dReg dy)) else Tor.iq (e.dReg dy)
     let acc := Tor.accIQ (e.aReg a)
     let re := x.i * y.i - x.q * y.q
     let im := x.i * y.q + x.q * y.i
     (∃ t, exec (.ftap n false a dx dy conj d1 p1 d2 p2) s = .next t ∧
       s.Ran t n 1 fun e => loads (e.putA a ⟨acc.i + re, acc.q + im⟩)) ∧
     (∃ t, exec (.ftapz n false a dx dy conj d1 p1 d2 p2) s = .next t ∧ s.Ran t n 1 fun e => loads (e.putA a ⟨re, im⟩)) ∧
     (∃ t, exec (.dld n false 0 d1 p1 d2 p2) s = .next t ∧ s.Ran t n 1 loads))

/-- PORESET_N falling, and a rail staying out of range (R5, R62, R359, R415): stage S0 from any state; every register, buffer, admitted
item and reservation takes its reset value and the memories lose every word; the fuses and straps, the levels of the supplies and of
REFCLK, and the record of what has already left the package stay.
The remote reset (R5, R72, R73) to the package's own address on port A: it is answered; where the calibration record is being written
it then waits, else S1 begins with RESET_CAUSE 1: every register, item and reservation takes its reset value and the memories lose
every word; the fuses and straps and what has left the package stay. Another Op is refused MALFORMED, on the VLAN of the frame (R205);
that its indication carries sequence number 0 and tick 0 is the model's reading (log 40). -/
def Obligations.Resets : Prop :=
  (∀ (s : State) (dt : Nat),
     let h := s.hw.elapse dt
     let wiped := fun (pin rails : Bool) => { State.reset.hw with
       free := h.free, sys := h.sys
       pins := { poresetN := pin, railsOk := rails, refclk := h.pins.refclk }
       out :=
         { tx := h.out.tx, flips := h.out.flips, life := h.out.life, nvm := h.out.nvm, bus := h.out.bus, trace := h.out.trace
           portA := { line := h.out.portA.line } } }
     exec (.poresetNLow dt) s = .next { pending := s.pending, mem := {}, hw := wiped false h.pins.railsOk } ∧
     exec (.supplySupervisorTrip dt) s = .next { pending := s.pending, mem := {}, hw := wiped h.pins.poresetN false }) ∧
  (∀ (s : State) (dt mac src id op : Nat) (vlan : Option Nat), s.hw.Settled → 5 ≤ s.hw.sta.stage → (s.hw.port 0).linkUp = true →
     s.hw.ownMac = some mac →
     let h := s.hw.elapse dt
     let f : TxFrame := .resetResp 0 src id
     let out := { h.out with tx := h.out.tx ++ [f], portA := { h.out.portA with own := h.out.portA.own ++ [f] } }
     (op = 1 → h.img.calWriteBusy = true →
       exec (.remoteReset dt 0 mac src vlan id op) s = .next { s with hw := { h with out := out, sta := { h.sta with resetWait := true } } }) ∧
     (op = 1 → h.img.calWriteBusy = false → ∃ t, exec (.remoteReset dt 0 mac src vlan id op) s = .next t ∧ t.pending = s.pending ∧ t.mem = {} ∧
       t.hw = { State.reset.hw with
         free := h.free, sys := h.sys, pins := t.hw.pins, sta := t.hw.sta
         out :=
           { tx := out.tx, life := h.out.life, nvm := h.out.nvm, bus := h.out.bus, trace := h.out.trace
             portA := { line := h.out.portA.line } } } ∧
       t.hw.sta.stage = 1 ∧ t.hw.sta.resetCause = true ∧ t.hw.sta.k7 = none ∧ t.hw.sta.announced = none ∧ t.hw.pins.nvRst = true ∧
       t.hw.pins.stat = 0 ∧ (∀ l : LaneId, t.hw.pins.ltx[l] = false) ∧ t.hw.pins.poresetN = h.pins.poresetN) ∧
     (op ≠ 1 → ∃ t, exec (.remoteReset dt 0 mac src vlan id op) s = .next t ∧ t.pending = s.pending ∧ t.mem = s.mem ∧ t.hw.sta = h.sta ∧
       t.hw.out = h.out ∧ t.hw.fhl.refused = (updN h.fhl.refused 8 fun c => min (2 ^ 32 - 1) (c + 1)) ∧
       (h.fhl.queue.length < 256 → t.hw.fhl.queue = h.fhl.queue ++ [.indication 0 src vlan (be 1 h.fhl.indCount ++ [0x02] ++
         be 1 h.fhl.indCount ++ [2] ++ (be 2 0xFFFF ++ be 2 0x408 ++ be 4 0xFF00FF00) ++ (be 2 0xFFFF ++ be 2 0x4FF ++ be 4 0))])))

/-- PORESET_N rising, and the rails coming back, in S0 (R60, R61, R415): with the rails in range, REFCLK running and the pin high, S1
follows, RESET_CAUSE is 0, STA_ENTRY_TIME[1] takes the µs since the reset, and NV_RST_N is driven; otherwise only the levels of
the pins change. Model's choices: the µs are whole ones (log 50), and the return of the supplies says whether REFCLK runs (log 54).
The exit from S1 and the remeasurement of REFCLK (R57, R58, R59, R63, R71): a self-test failure holds S1 with HC_ROM_FAIL; a frequency
that is absent or more than 2 % from each permitted one holds it with CLK_REF_ABSENT; otherwise S2 begins with the class found, the NVM
is reset by its pin and by the commands 0x66 and 0x99, its SFDP is read, and the bus runs in the mode that BOOT_SEL asks for as far as
SFDP allows (IMG_BUS_DOWNGRADE where it does not), octal DTR being entered by a write enable and the sequence of SFDP. A valid
remeasurement also ends CLK_REF_ABSENT. That SFDP is read with 8 dummy cycles is the model's choice (log 88). -/
def Obligations.EarlyStages : Prop :=
  (∀ (s : State) (dt : Nat) (ref : Bool), s.hw.Settled → s.hw.sta.stage = 0 →
     let h := s.hw.elapse dt
     let at_ := min (2 ^ 32 - 2) (h.sta.since * 100000 / 98304000)
     let inS1 : Hw := { h with
       pins := { h.pins with poresetN := true, railsOk := true, refclk := true, nvRst := true }
       sta := { h.sta with stage := 1, failed := false, failAlarm := 0, resetCause := false, entry := updN h.sta.entry 1 fun _ => some at_ } }
     (h.pins.poresetN = false → ∀ rails : Bool,
       (rails = true ∧ ref = true → exec (.poresetNHigh dt rails ref) s = .next { s with hw := inS1.settle }) ∧
       (¬ (rails = true ∧ ref = true) → exec (.poresetNHigh dt rails ref) s =
         .next { s with hw := { h with pins := { h.pins with poresetN := true, railsOk := rails, refclk := ref } } })) ∧
     (h.pins.poresetN = true ∧ ref = true → exec (.supplyBackInRange dt ref) s = .next { s with hw := inS1.settle }) ∧
     (¬ (h.pins.poresetN = true ∧ ref = true) → exec (.supplyBackInRange dt ref) s =
       .next { s with hw := { h with pins := { h.pins with railsOk := true, refclk := ref } } })) ∧
  (∀ (s : State) (dt : Nat) (khz : Option Nat) (f : Sfdp), s.hw.Settled → s.hw.sta.stage = 1 →
     let h := s.hw.elapse dt
     let near := fun (x f0 : Nat) => 49 * f0 ≤ 50 * x ∧ 50 * x ≤ 51 * f0
     let hold := fun (code arg : Nat) => ({ h with sta := { h.sta with failed := true, failAlarm := code } } : Hw).alarm code arg
     let want := 2 - h.sys.bootSel
     let mode := if want = 2 ∧ f.octal = true then 2 else if 1 ≤ want ∧ f.quad = true then 1 else 0
     let inS2 := fun (c : Nat) (g : Hw) =>
       let g : Hw := { g with
         sta := { g.sta with
           stage := 2, failed := false, failAlarm := 0, refClass := c
           entry := updN g.sta.entry 2 fun _ => some (min (2 ^ 32 - 2) (g.sta.since * 100000 / 98304000)) }
         pins := { g.pins with nvRstPulses := g.pins.nvRstPulses + 1 }
         img := { g.img with
           busMode := mode, downgraded := decide (mode < want), density := some f.density
           dummyRead := [0, f.quadDummy, f.octalDummy].getD mode 0, dummyStatus := [0, 0, f.statusDummy].getD mode 0 }
         out := { g.out with nvm := g.out.nvm ++
           [{ op := [0x66] }, { op := [0x99] }, { op := [0x5A], addr := some 0, dummy := 8 }] ++
           if mode = 2 then ({ op := [0x06] } : NvmCmd) :: f.enter8d.map fun b => { op := b.take 1, data := b.drop 1 } else [] } }
       if mode < want then g.alarm 0x010A mode else g
     (h.sta.failed = false →
       (∀ c : Fin 2, exec (.s1Exit dt (some c) khz (some f)) s = .next { s with hw := (hold 0x010B c.val).settle }) ∧
       ((∀ x, khz = some x → ¬ near x 122880 ∧ ¬ near x 245760 ∧ ¬ near x 491520) →
         exec (.s1Exit dt none khz (some f)) s = .next { s with hw := (hold 0x0201 0).settle }) ∧
       (h.sys.bootSel < 3 → ∀ x, khz = some x →
         (near x 122880 → exec (.s1Exit dt none khz (some f)) s = .next { s with hw := (inS2 0 h).settle }) ∧
         (near x 245760 → exec (.s1Exit dt none khz (some f)) s = .next { s with hw := (inS2 1 h).settle }) ∧
         (near x 491520 → exec (.s1Exit dt none khz (some f)) s = .next { s with hw := (inS2 2 h).settle }))) ∧
     (h.sta.failed = true → h.sta.failAlarm = 0x0201 →
       ((∀ x, khz = some x → ¬ near x 122880 ∧ ¬ near x 245760 ∧ ¬ near x 491520) →
         exec (.refclkRemeasure dt khz (some f)) s = .next { s with hw := h }) ∧
       (h.sys.bootSel < 3 → ∀ x, khz = some x →
         (near x 122880 → exec (.refclkRemeasure dt khz (some f)) s = .next { s with hw := (inS2 0 (h.cease 0x0201 0)).settle }) ∧
         (near x 245760 → exec (.refclkRemeasure dt khz (some f)) s = .next { s with hw := (inS2 1 (h.cease 0x0201 0)).settle }) ∧
         (near x 491520 → exec (.refclkRemeasure dt khz (some f)) s = .next { s with hw := (inS2 2 (h.cease 0x0201 0)).settle }))))

/-- The commands by which the NVM is read (R58, R59, Table 2.15): a read with a 4-byte address goes out with the opcode of the bus mode,
in octal DTR the opcode and its complement, with the dummy cycles of SFDP, and never beyond the density that SFDP advertises.
The verification of the image in S2 (R46 to R51, R59, Table 2.10): the first check that fails holds S2 with its RESULT, FAIL_ENTRY and
alarm, and clears the memories; TRAILER_MAGIC or a DIGEST other than the SHA-384 of the image has the image read once more, what was read
standing in its destination memories meanwhile, and holds S2 as IMG_DIGEST_FAIL when it fails again; that a re-read with a sound digest
is checked from step 2 on, after IMG_READ_RETRY, is the model's choice (log 121); a programmed OTP field asks for the SHA-384 of PUBKEY and
for a P-384 signature of the image; with
every check passed, RESULT is 1, the sections take effect, LOCK_KEY burns a blank field with the key's hash, and S3 begins, held with
CLK_REF_MISMATCH where the class of REFCLK differs from REFCLK_SEL (R63). A burn that fails holds S2 as IMG_KEY_FAIL, and power lost in
one leaves the field partly programmed (R48). -/
def Obligations.ImageVerified : Prop :=
  (∀ (h : Hw) (a n : Nat), h.img.busMode ≤ 2 →
     let len := min n (h.img.density.getD 0 - a)
     h.nvmRead a n = { h with out := { h.out with nvm := h.out.nvm ++
       if len = 0 then [] else
         [{ op := [[0x13], [0xEC], [0xEE, 0x11]].getD h.img.busMode [], addr := some a, dummy := h.img.dummyRead, len := len }] } }) ∧
  (∀ (s : State) (dt : Nat) (nvm : Bytes) (burn : Burn), s.hw.Settled → s.hw.sta.stage = 2 → s.hw.sta.failed = false →
     let h := s.hw.elapse dt
     let head := verifyHead nvm (h.img.density.getD 0)
     let im := parseImage nvm
     let size := rd nvm 12 4
     let digest := rd nvm size 4 = 0x54525A45 ∧ unbe (slice nvm (size + 8) 48) = sha384 (nvm.take size)
     let key := BitVec.ofNat 384 (sha384 (slice nvm (size + 56) 97))
     let signed := ecdsaOk (slice nvm (size + 56) 97) (nvm.take size) (unbe (slice nvm (size + 156) 48)) (unbe (slice nvm (size + 204) 48))
     let keyFail : Option ImgFail := match h.sys.otp with
       | .blank => none
       | .partly => some { result := 6, alarm := 0x0106 }
       | .programmed k =>
         if im.sigAlg ≠ 1 ∨ key ≠ k then some { result := 6, alarm := 0x0106 }
         else if signed = true then none else some { result := 7, alarm := 0x0107 }
     let lock := im.lockKey = true ∧ h.sys.otp = .blank
     let held := fun (o : Otp) (f : ImgFail) (t : State) => t.pending = s.pending ∧ t.mem = {} ∧
       t.hw = ({ h with
         sys := { h.sys with otp := o }
         sta := { h.sta with failed := true, failAlarm := f.alarm }
         img := { t.hw.img with result := f.result, failEntry := f.entry, id := 0, loaded := h.img.loaded }
         out := { h.out with nvm := (h.readImage nvm).out.nvm } } : Hw).told t.hw ∧
       t.hw.newest f.alarm f.arg
     let pass := fun (m : Mem) (t : State) => t.pending = s.pending ∧ t.mem = loadImage m nvm im ∧
       t.hw.sta.stage = 3 ∧ t.hw.img.result = 1 ∧ t.hw.img.loaded = some im ∧ t.hw.img.id = im.imageId ∧
       (lock → t.hw.sys = { h.sys with otp := .programmed key }) ∧ (¬ lock → t.hw.sys = h.sys) ∧
       (∀ n : PathId, t.hw.path n = { h.path n with dpd := { (h.path n).dpd with
         bank0 := (assoc n.val im.dpdInit).getD [], bank1 := (assoc n.val im.dpdInit).getD [] } }) ∧
       (t.hw.sta.failed = true ↔ h.sta.refClass ≠ im.refclkSel) ∧
       (h.sta.refClass ≠ im.refclkSel → t.hw.newest 0x0202 h.sta.refClass) ∧
       t.hw.tim = h.tim ∧ t.hw.quads = h.quads ∧ t.hw.tor = h.tor ∧ t.hw.fhl.dl = h.fhl.dl ∧ t.hw.lanes = h.lanes ∧
       t.hw.out.nvm = (h.readImage nvm).out.nvm
     let good := keyFail = none ∧ verifyBody h.sys.romKey nvm im = none
     (h.img.result = 0 → h.img.retryPending = false →
       (∀ f, head = some f → ∃ t, exec (.imageReadDone dt nvm burn) s = .next t ∧ held h.sys.otp f t) ∧
       (head = none → ¬ digest →
         exec (.imageReadDone dt nvm burn) s = .next { s with
           mem := loadImage s.mem nvm im
           hw := { h.readImage nvm with img := { h.img with keyLocked := h.sys.otp != .blank, retryPending := true } } }) ∧
       (head = none → digest → ∀ f, (keyFail = some f ∨ keyFail = none ∧ verifyBody h.sys.romKey nvm im = some f) →
         ∃ t, exec (.imageReadDone dt nvm burn) s = .next t ∧ held h.sys.otp f t) ∧
       (head = none → digest → good →
         ((lock → burn = .done) → ∃ t, exec (.imageReadDone dt nvm burn) s = .next t ∧ pass s.mem t) ∧
         (∀ any, lock → burn = .failed any → ∃ t, exec (.imageReadDone dt nvm burn) s = .next t ∧
           held (if any then .partly else .blank) { result := 6, alarm := 0x0106 } t) ∧
         (lock → burn = .powerLost → ∃ t, exec (.imageReadDone dt nvm burn) s = .next t ∧
           t.mem = {} ∧ t.hw.sta.stage = 0 ∧ t.hw.pins.railsOk = false ∧ t.hw.sys = { h.sys with otp := .partly }))) ∧
     (h.img.retryPending = true →
       (¬ digest → ∃ t, exec (.imgReadRetry dt nvm burn) s = .next t ∧ held h.sys.otp { result := 5, alarm := 0x0105 } t) ∧
       (digest → ∀ f, head = some f → ∃ t, exec (.imgReadRetry dt nvm burn) s = .next t ∧ t.mem = {} ∧ t.hw.sta.stage = 2 ∧
         t.hw.sta.failed = true ∧ t.hw.sta.failAlarm = f.alarm ∧ t.hw.img.result = f.result ∧ t.hw.img.failEntry = f.entry ∧
         ∀ a ∈ [0x0109, f.alarm], a ∈ t.hw.lko.log.map (·.code)) ∧
       (head = none → digest → good → (lock → burn = .done) →
         ∃ t, exec (.imgReadRetry dt nvm burn) s = .next t ∧ pass {} t ∧ t.hw.img.retried = true ∧
           (0x0109, 0, false) ∈ t.hw.lko.log.map fun e => (e.code, e.arg, e.cease))))

/-- The PLLs locking in S3, and failing to (R63, R71, R256, Table 3.7): lock begins S4, C counts from 0, no tick window is open, the
ticks of the old grid start at a phase that the spec leaves open, and every BIAS pin takes its safe level; two failed attempts only
count, the third holds S3 with CLK_PLL_LOCK and the lowest code of the PLLs that failed it. -/
def Obligations.PllLock : Prop :=
  ∀ (s : State) (dt : Nat), s.hw.Settled → s.hw.sta.stage = 3 → s.hw.sta.failed = false →
    let h := s.hw.elapse dt
    (∃ t, exec (.pllLock dt) s = .next t ∧ t.pending = s.pending ∧ t.mem = s.mem ∧
      (∃ phase < longLen h.scs, t.hw = ({ h with
        free := h.free + 1
        sta := { h.sta with
          stage := 4, failed := false, failAlarm := 0
          entry := updN h.sta.entry 4 fun _ => some (min (2 ^ 32 - 2) (h.sta.since * 100000 / 98304000)) }
        tim := { h.tim with c := 0, k := 0, open_ := false, gridBase := phase }
        paths := t.hw.paths } : Hw).told t.hw) ∧
      t.hw.lko = h.lko ∧ t.hw.pins.stat = 3 ∧
      ∀ n : PathId, t.hw.path n =
        { h.path n with bias := { (h.path n).bias with
          code := h.image.policy.biasSafe.getD n 0 % 4096
          range := if h.image.policy.biasMode.testBit n then 2 else if (h.image.policy.biasSafe.getD n 0).testBit 12 then 1 else 0 } }) ∧
    (∀ failed : List (Fin 4), failed ≠ [] →
      (h.sta.pllTries < 2 → exec (.pllLockTimeout dt failed) s =
        .next { s with hw := { h with sta := { h.sta with pllTries := h.sta.pllTries + 1 } } }) ∧
      (2 ≤ h.sta.pllTries → ∃ l ∈ failed, (∀ x ∈ failed, l ≤ x) ∧ exec (.pllLockTimeout dt failed) s =
        .next { s with hw := (({ h with sta := { h.sta with pllTries := h.sta.pllTries + 1, failed := true, failAlarm := 0x0203 } } : Hw).alarm
          0x0203 l.val).settle }))

/-- The calibration record read in S4 (R53, R54, R59, R63, R281, Tables 2.12 and 2.13): a valid one gives every path and every observation
receiver
its trims and CAL_STATE 0; one that is erased, of another die or with a wrong CRC, or of a wrong format leaves the nominal trims, sets
CAL_STATE 1, 2 or 3 and raises CAL_RECORD_INVALID. Where discovery has ended on all 16 buses, S5 follows: engines with a program start
at address 0, the others halt for want of one, the housekeeping sequences run and the lanes of the ports in use transmit. That LOCAL_FAULT
of those ports stands from here on is the model's choice (log 89).
The end of FEM discovery on one bus in S4 (R111, R307, R308, R311): a FEM with a valid identity page gives its path its currents and
its life, over reads of 32 bytes at the address 0x50 + i (R302, R305); a life page with no valid copy raises FEM_LIFE_INVALID; one with no
valid identity page is disabled, due to be retired on the
first tick with cause 1, and FEM_ID_LOST is raised; that no life page is written then is the model's reading (log 51). No other path
changes, and the stage stays while another bus or the record is due. -/
def Obligations.StageS4 : Prop :=
  (∀ (s : State) (dt : Nat) (b : Bytes), s.hw.Settled → s.hw.sta.stage = 4 → s.hw.sta.calRead = none →
     let h := (s.hw.elapse dt).nvmRead (s.hw.elapse dt).image.calOffset 4420
     let die := le 16 h.sys.dieId.toNat
     let form := b.length = 4420 ∧ rd b 0 4 = 0x524C4143 ∧ rd b 4 2 = 1 ∧ rd b 6 2 = 4420
     let own := slice b 8 16 = die ∧ rd b 4416 4 = crc32 (die ++ b.take 4416)
     let trim := fun (o : Nat) (th : List Int) => ({
       tap := rd b o 1, int := signed 8 (rd b (o + 1) 1), gain := ⟨signed 16 (rd b (o + 4) 2), signed 16 (rd b (o + 6) 2)⟩, thresh := th } : Trim)
     (h.sta.discovered.length ≠ 16 → form → own →
       ∃ t, exec (.calRecordRead dt b) s = .next t ∧ t.pending = s.pending ∧ t.mem = s.mem ∧
         t.hw = { h with
           img := { h.img with calState := 0 }, sta := { h.sta with calRead := some b }, paths := t.hw.paths, quads := t.hw.quads } ∧
         (∀ n : PathId, t.hw.path n = { h.path n with
           trimSource := true
           rxTrim := trim (64 + 64 * n) ((List.range 32).map fun i => signed 8 (rd b (72 + 64 * n + i) 1))
           txTrim := trim (104 + 64 * n) [] }) ∧
         (∀ q : QuadId, t.hw.quad q = { h.quad q with obs := { (h.quad q).obs with
           trim := trim (4160 + 16 * q) ((List.range 8).map fun i => signed 8 (rd b (4168 + 16 * q + i) 1)) } })) ∧
     (h.sta.discovered.length ≠ 16 → ∀ st : Nat,
       (st = 1 ∧ b.length = 4420 ∧ (∀ x ∈ b, x = 0xFF) ∨ st = 2 ∧ form ∧ ¬ own ∨ st = 3 ∧ ¬ form ∧ ¬ (b.length = 4420 ∧ ∀ x ∈ b, x = 0xFF)) →
       exec (.calRecordRead dt b) s = .next { s with hw := (({ h with
         img := { h.img with calState := st }, sta := { h.sta with calRead := some b } } : Hw).alarm 0x0801 st).settle }) ∧
     (h.sta.discovered.length = 16 → ∃ t, exec (.calRecordRead dt b) s = .next t ∧ t.pending = s.pending ∧ t.mem = s.mem ∧
       t.hw.sta.stage = 5 ∧ t.hw.sta.calRead = some b ∧ (∀ p : PortId, (t.hw.port p).localFault = decide (h.portType p = 1 ∨ h.portType p = 2)) ∧
       (∀ l : LaneId, getN t.hw.pins.ltx l false = decide (h.portType (l / 4) = 1 ∨ h.portType (l / 4) = 2)) ∧ t.hw.sys = h.sys ∧ t.hw.mode = h.mode ∧ t.hw.fhl.dl = h.fhl.dl ∧
       (∀ e : EngId, (e.val ∈ h.image.torProgs → t.hw.eng e = { h.eng e with state := 1, pc := 0 }) ∧
         (e.val ∉ h.image.torProgs → (t.hw.eng e).state = 3 ∧ (t.hw.eng e).cause = 1)) ∧
       (∀ q : QuadId, (t.hw.quad q).hkRunning = true) ∧
       (∀ l : LaneId, t.hw.lane l =
         if h.portType (l / 4) = 1 ∨ h.portType (l / 4) = 2 then { h.lane l with step := 1 } else h.lane l))) ∧
  (∀ (s : State) (dt : Nat) (q : QuadId) (r0 r1 r2 r3 : FemRead), s.hw.Settled → s.hw.sta.stage = 4 → q ∉ s.hw.sta.discovered →
     s.hw.sta.calRead = none ∨ s.hw.sta.discovered.length < 15 →
     (∀ i : Fin 4, (s.hw.path (4 * q + i)).retired = false ∧ (s.hw.path (4 * q + i)).disabled = false) →
     let h := s.hw.elapse dt
     let rs := [r0, r1, r2, r3]
     ∃ t, exec (.femDiscoveryDone dt q rs) s = .next t ∧ t.pending = s.pending ∧ t.mem = s.mem ∧
       t.hw = ({ h with
         sta := { h.sta with discovered := q :: h.sta.discovered }
         paths := t.hw.paths
         out := { h.out with bus := h.out.bus ++ ((List.range 4).map fun i =>
           if (rs[i]?.bind (·.identity)).isSome then (List.range 24).map fun j => .transfer q (0x50 + i) (be 2 (32 * j)) [] 32 else []).flatten } } : Hw).told t.hw ∧
       (∀ n : PathId, n / 4 ≠ q.val → t.hw.path n = h.path n) ∧
       ∀ (i : Fin 4) (r : FemRead), rs[i]? = some r →
         let n := 4 * q.val + i.val
         let p := h.path n
         (∀ id, r.identity.bind parseIdentity = some id →
           t.hw.path n = { p with fem := femLoad p.fem id r, fsCurrent := id.dacFs } ∧ (t.hw.path n).fem.id = some id ∧
           ((t.hw.path n).fem.lifeInvalid = true ↔ r.lifeA.bind (parseLife id.serial) = none ∧ r.lifeB.bind (parseLife id.serial) = none) ∧
           ((t.hw.path n).fem.lifeInvalid = true → (0x0503, (n : Int), false) ∈ t.hw.lko.log.map fun e => (e.code, e.arg, e.cease))) ∧
         (r.identity.bind parseIdentity = none →
           t.hw.path n = { p with
             disabled := true, retireAt := p.retireAt ++ [(if h.tim.open_ ∨ h.tim.stepped then h.tim.k + 1 else 0, 1)]
             fem := { p.fem with failCause := 1 } } ∧
           (0x0501, (n : Int), false) ∈ t.hw.lko.log.map fun e => (e.code, e.arg, e.cease)))

/-- The announcement of a slot entry (R67, R68, R70, R216): in S6, once the step is applied and the offset is within ±1 µs, and TIME_TOL
where MUTE_ON_TOL is 1, slot 7 is announced for the first frame tick at or after k_c + N + 1, N the normal windows that cover the
largest EARLY_LIMIT, and the first ceilings are set; in S7, with fine lock and the predistortion of the start slot converged, the start
slot is announced, or slot 7 stays with WORN_NO_SPARE where more paths are retired than it allows. -/
def Obligations.SlotEntryAnnounced : Prop :=
  ∀ (s : State) (dt : Nat), s.hw.Settled → s.hw.tim.open_ = true → s.hw.sta.announced = none →
    let h := s.hw.elapse dt
    let abs := if h.tim.theta < 0 then -h.tim.theta else h.tim.theta
    let kf := (h.tim.k + h.windowsFor h.earlyMax + 1 + h.perFrame - 1) / h.perFrame * h.perFrame
    let told := fun (slot : Nat) (worn : Bool) (t : State) => t.pending = s.pending ∧ t.mem = s.mem ∧
      t.hw = ({ h with
        sta := { h.sta with announced := some (slot, kf), k7 := some (h.sta.k7.getD kf), wornAtEntry := worn }
        trl := t.hw.trl, quads := t.hw.quads } : Hw).told t.hw ∧
      (h.sta.stage = 6 ∨ t.hw.trl = h.trl ∧ t.hw.quads = h.quads) ∧ kf % h.perFrame = 0 ∧
      (0x010C, (slot : Int), kf % 2 ^ 32) ∈ t.hw.lko.log.map fun e => (e.code, e.arg, e.extra)
    (h.sta.stage = 6 → h.tim.stepped = true → h.tim.state = 3 → abs ≤ 1000 →
      (h.image.pkg.muteOnTol = 1 → abs ≤ (h.image.pkg.timeTol : Rat)) →
      ∃ t, exec (.slotEntryAnnounce dt) s = .next t ∧ told 7 h.sta.wornAtEntry t ∧ t.hw.trl.ceilings = true ∧
        (∀ d : Fin 3, getN t.hw.trl.dieCeil d 0 = Hw.dieCeiling (h.dieHot d) d 0)) ∧
    (h.sta.stage = 7 → h.sta.fineLock = true → h.converged = true → ∀ r, h.startRec = some r →
      (h.retiredCount ≤ r.allowance → ∃ t, exec (.slotEntryAnnounce dt) s = .next t ∧
        told h.image.startSlot (decide (h.image.startSlot = 7)) t) ∧
      (r.allowance < h.retiredCount → ∃ t, exec (.slotEntryAnnounce dt) s = .next t ∧ told 7 true t ∧
        (0x0402, (h.retiredCount : Int), false) ∈ t.hw.lko.log.map fun e => (e.code, e.arg, e.cease)))

/-- The waits of S5 and S6 that run out (R71, Table 3.7): without a link at port A 1 s after S5's entry, S5 is held and LANE_NO_LINK
raised; without a selected master 10 s after S6's entry, S6 is held and PTP_NO_MASTER raised.
DPD_NO_CONVERGE and the end of a pin hold (R70, R402): 60 s after fine lock without convergence in S7 the alarm is raised with the
number of paths that have not converged; 100 ms after the oldest event alarm that holds ALARM_N its hold ends.
What the clock of frames reports (R160, R219): a path whose DPD_AGE exceeds 100 in a slot with predistortion raises DPD_STALE; a quad
whose housekeeping results are more than two frames old is marked STALE and raises TRL_QUAD_STALE. -/
def Obligations.Waits : Prop :=
  (∀ (s : State) (dt e : Nat), s.hw.Settled →
     let h := s.hw.elapse dt
     let us := h.sta.since * 100000 / 98304000
     let held := fun (code : Nat) => (({ h with sta := { h.sta with failed := true, failAlarm := code } } : Hw).alarm code 0).settle
     (h.sta.stage = 5 → h.sta.failed = false → (h.port 0).linkUp = false → getN h.sta.entry 5 none = some e → e + 1000000 ≤ us →
       exec (.laneNoLinkTimeout dt) s = .next { s with hw := held 0x0301 }) ∧
     (h.sta.stage = 6 → h.tim.state ≤ 1 → getN h.sta.entry 6 none = some e → e + 10000000 ≤ us →
       exec (.ptpNoMasterTimeout dt) s = .next { s with hw := held 0x0204 })) ∧
  (∀ (s : State) (dt : Nat), s.hw.Settled →
     let h := s.hw.elapse dt
     (h.sta.stage = 7 → h.sta.announced = none → h.converged = false → ∀ c, h.sta.fineAt = some c → c + 60 * 983040000 ≤ h.sta.since →
       exec (.dpdNoConverge dt) s = .next { s with hw := (h.alarm 0x010D h.unconverged.length).settle }) ∧
     (∀ c r, h.lko.holds = c :: r → c + 98304000 ≤ h.sta.since →
       exec (.alarmNHoldEnd dt) s = .next { s with hw := (({ h with lko := { h.lko with holds := r } } : Hw)).settle })) ∧
  (∀ (s : State), s.hw.Settled →
     let h := { s.hw with out := { s.hw.out with events := [] } }
     (∀ (n : PathId) (sl : Slot), 100 < (h.path n).dpd.age → h.slotNow = some sl → (sl.dpdMode = 1 ∨ sl.dpdMode = 2) →
       exec (.dpdStale n) s = .next { s with hw := (h.alarm 0x0605 n).settle }) ∧
     (∀ q : QuadId, 2 < (h.quad q).hkAge → (h.quad q).hkRunning = true →
       exec (.trlQuadStale q) s = .next { s with hw := (({ h with
         quads := updN h.quads q fun x => { x with stale := true } } : Hw).alarm 0x0902 q).settle }))

/-- An Announce that the local slave may use (R262, R263, Table 12.2), with no other master qualified: it is counted and kept with the one
before it; from the selected master it refreshes what TIM_STATUS shows; the second within four Announce intervals qualifies its sender,
which is selected where none is, ends PTP_NO_MASTER and the hold of S6, and begins the frequency phase or, after the step, steering.
Delay exchanges and the loss of a master (R263, R264, R269, R283): a Delay_Req goes to port A once its interval has passed, addressed as
the selected master's Syncs (one must have come: log 107), with t3 at the lane pins, and is paired with the latest Sync, whose Follow_Up
may still be awaited, when the exchange waits for it too (log 131); else the Delay_Resp to it gives d = ((t2 - t1 - c_s) + (t4 - t3 - c_r))
/ 2 and D; three Announce intervals or 1 s
without the selected master begin holdover, with PTP_NO_MASTER raised and the rate held at y. -/
def Obligations.PtpMaster : Prop :=
  (∀ (s : State) (dt : Nat) (m : PtpHdr) (a : AnnounceData), s.hw.Settled →
     let h := s.hw.elapse dt
     let up := h.sta.since
     let others := h.tim.masters.filter fun x => x.source != m.source
     let old := h.tim.masters.find? fun x => x.source == m.source
     let heard := up :: ((old.map (·.heard)).getD []).take 1
     let kept : Tim := { h.tim with
       announceRx := min (2 ^ 32 - 1) (h.tim.announceRx + 1), masters := others ++ [{ source := m.source, data := a, heard := heard }] }
     m.port = 0 → (h.port 0).linkUp = true → m.tagged = false → (m.dst = 0x011B19000000 ∨ m.dst = 0x0180C200000E) → m.version = 2 → m.sdoId = 0 →
     m.domain = h.image.pkg.ptpDomain → h.tcActive = false → (∀ x ∈ others, qualified up x = false ∧ some x.source ≠ h.tim.selected) →
     (h.tim.selected = some m.source → exec (.ptpAnnounce dt m a) s = .next { s with hw := { h with tim := { kept with
       lastAnnounce := up, clockClass := a.clockClass, stepsRemoved := a.stepsRemoved, utcOffset := a.utcOffset } } }) ∧
     (h.tim.selected = none → old = none → exec (.ptpAnnounce dt m a) s = .next { s with hw := { h with tim := kept } }) ∧
     (h.tim.selected = none → ∀ o b r, old = some o → o.heard = b :: r → up ≤ b + 4 * a.interval →
       ∃ t, exec (.ptpAnnounce dt m a) s = .next t ∧ t.pending = s.pending ∧ t.mem = s.mem ∧
         t.hw = ({ h with
           tim := { t.hw.tim with masters := kept.masters }
           sta := if h.sta.failAlarm = 0x0204 then { h.sta with failed := false, failAlarm := 0 } else h.sta } : Hw).told t.hw ∧
         t.hw.tim.selected = some m.source ∧ t.hw.tim.masterId = m.source / 65536 ∧ t.hw.tim.clockClass = a.clockClass ∧
         t.hw.tim.stepsRemoved = a.stepsRemoved ∧ t.hw.tim.utcOffset = a.utcOffset ∧ t.hw.tim.reqInterval = 61440000 ∧
         t.hw.tim.holdFrom = none ∧ t.hw.tim.state = (if h.tim.stepped then 3 else 2) ∧ t.hw.tim.c = h.tim.c ∧ t.hw.tim.k = h.tim.k ∧
         t.hw.tim.theta = h.tim.theta ∧ t.hw.tim.y = h.tim.y ∧ t.hw.tim.r = h.tim.r ∧ t.hw.tim.stepped = h.tim.stepped ∧
         ∀ x ∈ t.hw.lko.raised, x.1 ≠ 0x0204)) ∧
  (∀ (s : State) (dt : Nat), s.hw.Settled →
     let h := s.hw.elapse dt
     (∀ dst, h.tim.selected.isSome = true → h.tim.syncDst = some dst → h.tim.reqAt + h.tim.reqInterval ≤ h.sta.since →
       let t3 : Int := (todUnits h.tim.c : Int) + todUnits (if h.portType 0 = 2 then 60 else if (h.portCfg 0).testBit 2 then 68 else 38)
       let f := TxFrame.delayReq dst h.tim.reqSeq t3
       exec (.delayReqSend dt) s = .next { s with hw := { h with
         tim := { h.tim with
           delayReq := some (h.tim.reqSeq, t3), reqAt := h.sta.since
           reqSync := if h.tim.waiting.isSome then h.tim.waiting else h.tim.latest, reqOpen := h.tim.waiting.isSome
           reqSeq := (h.tim.reqSeq + 1) % 65536, delayReqTx := min (2 ^ 48 - 1) (h.tim.delayReqTx + 1) }
         out := { h.out with tx := h.out.tx ++ [f], portA := { h.out.portA with own := h.out.portA.own ++ [f] } } } }) ∧
     (∀ (m : PtpHdr) (t4 : Int) (interval : Nat) (mac : Nat) (t3 : Int) (y : SyncRec),
       m.port = 0 → (h.port 0).linkUp = true → m.tagged = false → (m.dst = 0x011B19000000 ∨ m.dst = 0x0180C200000E) → m.version = 2 → m.sdoId = 0 →
       m.domain = h.image.pkg.ptpDomain → h.tcActive = false → h.tim.selected = some m.source → h.ownMac = some mac →
       h.tim.delayReq = some (m.seq, t3) → h.tim.reqSync = some y → h.tim.delays.length < 31 → h.tim.acquired = true →
       let ds := ((((y.t2 - y.t1 - y.cs) + (t4 - t3 - m.correction) : Int) : Rat) / 131072) :: h.tim.delays
       (h.tim.reqOpen = true → exec (.ptpDelayResp dt m t4 (clockId mac * 65536 + 1) interval) s = .next { s with hw := { h with
         tim := { h.tim with
           delayRespRx := min (2 ^ 48 - 1) (h.tim.delayRespRx + 1), reqInterval := interval, delayReq := none
           exchange := some (y, t4 - t3 - m.correction), reqOpen := false } } }) ∧
       (h.tim.reqOpen = false →
         exec (.ptpDelayResp dt m t4 (clockId mac * 65536 + 1) interval) s = .next { s with hw := { h with tim := { h.tim with
         delayRespRx := min (2 ^ 48 - 1) (h.tim.delayRespRx + 1), delays := ds, delayCount := h.tim.delayCount + 1
         sinceCompare := h.tim.sinceCompare + 1, mpd := meanQ (ds.take 16), reqInterval := interval, delayReq := none } } })) ∧
     (∀ src x, h.tim.selected = some src → h.tim.masters.find? (fun z => some z.source == some src) = some x →
       (h.tim.lastAnnounce + 3 * x.data.interval ≤ h.sta.since ∨ h.tim.lastSync + 983040000 ≤ h.sta.since) →
       h.tim.y ≤ 50000000 → -50000000 ≤ h.tim.y → h.tim.freqLimit = false →
       exec (.masterLoss dt) s = .next { s with hw := (({ h with tim := { h.tim with
         masters := h.tim.masters.filter fun z => some z.source != some src
         selected := none, state := 4, waiting := none, delayReq := none, reqOpen := false, exchange := none, holdFrom := some h.sta.since, holdoverS := 0
         losses := min (2 ^ 32 - 1) (h.tim.losses + 1), r := h.tim.y } } : Hw).alarm 0x0204 0).settle }))

/-- Syncs of the selected master before the step (R264): a two-step Sync waits for its Follow_Up; a one-step Sync, or the Follow_Up of
the waiting one, gives the offset o = t2 - t1 - c_s - D, t2 the time of the frame at the lane pins (R261, R283) and D the path delay as
the Sync came, and θ becomes the mean of the latest 16 offsets. Where the frequency phase is not yet due to end, nothing else changes, but
that the Follow_Up gives t1 and its correction to a request paired with its Sync, or completes the exchange that waits for it (that an
exchange waits for the Follow_Up is the model's reading, log 131).
Steering (R254, R265, R267): after the step a one-step Sync of the selected master, with θ within TIME_TOL and the asked rate
within ±50 ppm, moves y by p × interval / 16 s with p = -θ / 4 s limited by SLEW_LIMIT, and r becomes y + p. -/
def Obligations.PtpOffset : Prop :=
  (∀ (s : State) (dt : Nat) (m : PtpHdr) (t1 : Int) (interval : Nat), s.hw.Settled →
     let h := s.hw.elapse dt
     let t2 : Int := (todUnits h.tim.c : Int) - 32768 * (h.lane m.lane).deskew -
       todUnits (if h.portType 0 = 2 then 140 else if (h.portCfg 0).testBit 2 then 128 else 30)
     let D := meanQ (h.tim.delays.take 16)
     m.port = 0 → (h.port 0).linkUp = true → m.tagged = false → (m.dst = 0x011B19000000 ∨ m.dst = 0x0180C200000E) → m.version = 2 → m.sdoId = 0 →
     m.domain = h.image.pkg.ptpDomain → h.tcActive = false → h.tim.selected = some m.source → 7680000 ≤ interval → interval ≤ 983040000 →
     h.tim.delays ≠ [] → h.tim.stepped = false → h.tim.recovering = false → (h.tim.acquired = true ∨ h.tim.syncCount + 1 < 8) →
     let used := fun (t : Tim) (y : SyncRec) =>
       let os := ((((y.t2 - y.t1 - y.cs : Int) : Rat) / 65536 - y.d) :: t.offsets).take 16
       { t with
         syncRx := min (2 ^ 48 - 1) (t.syncRx + 1), latest := some y, waiting := none, syncs := (y :: t.syncs).take 8, offsets := os
         syncCount := t.syncCount + 1, theta := meanQ os }
     let came := fun (two : Bool) => { h.tim with lastSync := h.sta.since, syncInterval := interval, twoStep := two, syncDst := some m.dst }
     let rec_ := fun (t1 : Int) => ({ seq := m.seq, t1 := t1, t2 := t2, cs := m.correction, d := D } : SyncRec)
     let full := fun (y : SyncRec) => { y with t1 := t1, cs := y.cs + m.correction }
     exec (.ptpSync dt m true t1 interval) s = .next { s with hw := { h with tim := { came true with waiting := some (rec_ 0) } } } ∧
     exec (.ptpSync dt m false t1 interval) s = .next { s with hw := { h with tim := used (came false) (rec_ t1) } } ∧
     (∀ w, h.tim.waiting = some w → w.seq = m.seq → h.tim.exchange = none →
       (h.tim.reqOpen = false → exec (.ptpFollowUp dt m t1) s = .next { s with hw := { h with tim := used h.tim (full w) } }) ∧
       (∀ y, h.tim.reqOpen = true → h.tim.reqSync = some y → y.seq = m.seq → exec (.ptpFollowUp dt m t1) s =
         .next { s with hw := { h with tim := { used h.tim (full w) with reqSync := some (full y), reqOpen := false } } })) ∧
     (∀ y back, h.tim.waiting = none → h.tim.reqOpen = false → h.tim.exchange = some (y, back) → y.seq = m.seq → h.tim.acquired = true →
       h.tim.delays.length < 31 →
       let ds := ((((y.t2 - t1 - (y.cs + m.correction)) + back : Int) : Rat) / 131072) :: h.tim.delays
       exec (.ptpFollowUp dt m t1) s = .next { s with hw := { h with tim := { h.tim with
         exchange := none, delays := ds, delayCount := h.tim.delayCount + 1, sinceCompare := h.tim.sinceCompare + 1
         mpd := meanQ (ds.take 16) } } })) ∧
  (∀ (s : State) (dt : Nat) (m : PtpHdr) (t1 : Int) (interval : Nat), s.hw.Settled →
     let h := s.hw.elapse dt
     let t2 : Int := (todUnits h.tim.c : Int) - 32768 * (h.lane m.lane).deskew -
       todUnits (if h.portType 0 = 2 then 140 else if (h.portCfg 0).testBit 2 then 128 else 30)
     let o := (((t2 - t1 - m.correction : Int) : Rat) / 65536 - meanQ (h.tim.delays.take 16))
     let theta := meanQ ((o :: h.tim.offsets).take 16)
     let slew := (h.image.pkg.slewLimit : Rat) * 1000
     let p := min slew (max (-slew) (-theta * 250))
     let lim := fun (x : Rat) => min 50000000 (max (-50000000) x)
     let y := lim (h.tim.y + p * (interval : Rat) / 15728640000)
     m.port = 0 → (h.port 0).linkUp = true → m.tagged = false → (m.dst = 0x011B19000000 ∨ m.dst = 0x0180C200000E) → m.version = 2 → m.sdoId = 0 →
     m.domain = h.image.pkg.ptpDomain → h.tcActive = false → h.tim.selected = some m.source → 7680000 ≤ interval → interval ≤ 983040000 →
     h.tim.delays ≠ [] → h.tim.stepped = true → h.tim.recovering = false → h.tim.freqLimit = false → h.tim.outOfTol = false →
     theta ≤ (h.image.pkg.timeTol : Rat) → -(h.image.pkg.timeTol : Rat) ≤ theta → y + p ≤ 50000000 → -50000000 ≤ y + p →
     ∃ t, exec (.ptpSync dt m false t1 interval) s = .next t ∧ t.pending = s.pending ∧ t.mem = s.mem ∧
       t.hw = { h with tim := t.hw.tim, sta := t.hw.sta } ∧ t.hw.tim.theta = theta ∧ t.hw.tim.y = y ∧ t.hw.tim.r = y + p ∧
       t.hw.tim.outOfTol = false ∧ t.hw.tim.c = h.tim.c ∧ t.hw.tim.k = h.tim.k ∧ t.hw.tim.state = h.tim.state ∧
       t.hw.sta = { h.sta with
         fineRun := min 64 (h.sta.fineRun + 1), fineLock := decide (64 ≤ h.sta.fineRun + 1)
         fineAt := if 64 ≤ h.sta.fineRun + 1 ∧ h.sta.fineLock = false then some h.sta.since else h.sta.fineAt })

/-- A Delay_Req of another clock (R272, R273, R283): the own slave has no use for it, and it is counted; with the transparent clock active
an
untagged one leaves by the other port with its residence time from lane pins to lane pins, in ns × 2^16, added to its correctionField,
which saturates. -/
def Obligations.TransparentClock : Prop :=
  ∀ (s : State) (dt : Nat) (m : PtpHdr), s.hw.Settled →
    let h := s.hw.elapse dt
    let fec := fun (p : Nat) (rs baser none_ : Nat) => if h.portType p = 2 then rs else if (h.portCfg p).testBit 2 then baser else none_
    let time : Int := todUnits (m.residence + fec m.port 140 128 30 + fec (1 - m.port.val) 60 68 38) + 32768 * (h.lane m.lane).deskew
    let sum := m.correction + time
    let cf := if sum < -(2 ^ 63) ∨ 2 ^ 63 - 1 < sum then 2 ^ 63 - 1 else sum
    let ignored := upd h.tim.ptpIgnored m.port fun n => min (2 ^ 32 - 1) (n + 1)
    (h.port m.port).linkUp = true →
    (h.tcActive = false ∨ m.tagged = true →
      exec (.ptpDelayReqRx dt m) s = .next { s with hw := { h with tim := { h.tim with ptpIgnored := ignored } } }) ∧
    (h.tcActive = true → m.tagged = false →
      exec (.ptpDelayReqRx dt m) s = .next { s with hw := { h with
        tim := { h.tim with
          ptpIgnored := ignored
          tcA2b := if m.port = 0 then min (2 ^ 48 - 1) (h.tim.tcA2b + 1) else h.tim.tcA2b
          tcB2a := if m.port = 0 then h.tim.tcB2a else min (2 ^ 48 - 1) (h.tim.tcB2a + 1) }
        out := { h.out with
          tx := h.out.tx ++ [.ptpForward (1 - m.port.val) cf]
          portA := if m.port = 1 then { h.out.portA with fwd := h.out.portA.fwd ++ [.ptpForward 0 cf] } else h.out.portA } } })

/-- Comparators (R259): arming clears FIRED, LATE and CLEARED_BY_STEP and leaves the comparator armed where the target lies ahead of
TIM_CC; a target that reads as zero or negative fires at once with LATE and is counted; an armed one fires when the target that its arming
took
is reached. Firing clears ARMED, sets FIRED and pulses EV64 + n.
TOUT pins and TCAP captures after the step (R276, R277): a pin rises at its next time START + n × PERIOD_NS, in MODE 0 once, and falls
after min(PERIOD_NS / 2, 100,000 ns), in MODE 0 after 100,000 ns, each time on the nearest DAC clock edge; an edge on TCAP[i] enters the
time of day, to 1/12 cc, into the next of 16 entries
and pulses EV48 + i, or counts as missed less than 100 ns after the latest captured one. -/
def Obligations.TimePins : Prop :=
  (∀ (s : State) (dt : Nat) (n : PathId), s.hw.Settled → 5 ≤ s.hw.sta.stage →
     let h := s.hw.elapse dt
     let due := fun (target : Word) => (target - BitVec.ofNat 32 h.tim.c).toInt ≤ 0
     let fired := fun (t : State) (c : Cmp) => t.pending = s.pending ∧ t.mem = s.mem ∧
       ({ h with paths := updN h.paths n fun p => { p with cmp := { c with armed := false, fired := true } } } : Hw).pulsed t.hw (64 + n.val)
     (∀ target : Word, ¬ due target → exec (.timCmpArm dt n target) s = .next { s with hw := { h with
       paths := updN h.paths n fun p => { p with cmp := { p.cmp with
         target := target, armedFor := target, armed := true, fired := false, late := false, clearedByStep := false } } } }) ∧
     (∀ target : Word, due target → ∃ t, exec (.timCmpArm dt n target) s = .next t ∧ fired t { (h.path n).cmp with
       target := target, armedFor := target, late := true, clearedByStep := false, lateCount := min (2 ^ 32 - 1) ((h.path n).cmp.lateCount + 1) }) ∧
     ((h.path n).cmp.armed = true → due (h.path n).cmp.armedFor →
       ∃ t, exec (.comparatorFire dt n) s = .next t ∧ fired t (h.path n).cmp)) ∧
  (∀ (s : State) (dt : Nat), s.hw.Settled → s.hw.tim.stepped = true →
     let h := s.hw.elapse dt
     (∀ (i : Fin 8) (x : Tout), h.image.touts.find? (fun y => y.pin == i.val) = some x →
       let n := getN h.tim.toutNext i 0
       let start := x.startS * 1000000000 + x.startNs
       let edge := fun (ns2 : Nat) => (ns2 * 98304 * 24 + 200000) / 400000
       let up := edge (2 * (start + n * x.periodNs))
       let down := edge (2 * (start + (n - 1) * x.periodNs) + if x.mode = 0 then 200000 else min x.periodNs 200000)
       (up < 12 * (h.tim.c + 1) → (x.mode = 0 → n = 0) →
         exec (.toutRise dt i) s = .next { s with hw := { h with tim := { h.tim with
           toutAt := updN h.tim.toutAt i fun _ => up, toutLevel := updN h.tim.toutLevel i fun _ => true, toutNext := updN h.tim.toutNext i fun _ => n + 1 } } }) ∧
       (getN h.tim.toutLevel i false = true → down < 12 * (h.tim.c + 1) →
         exec (.toutFall dt i) s = .next { s with hw := { h with tim := { h.tim with
           toutAt := updN h.tim.toutAt i fun _ => down, toutLevel := updN h.tim.toutLevel i fun _ => false } } })) ∧
     (∀ (i : Fin 2) (part : Fin 12),
       let at_ := 12 * h.tim.c + part.val
       let soon := getN h.tim.tcapAny i false = true ∧ (at_ - getN h.tim.tcapC i 0) * 100000 < 1200 * 98304
       let j := (getN h.tim.tcapLast i 0 + 1) % 16
       (soon → exec (.tcapEdge dt i part) s = .next { s with hw := { h with tim := { h.tim with
         tcapMissed := updN h.tim.tcapMissed i fun x => min (2 ^ 32 - 1) (x + 1) } } }) ∧
       (¬ soon → ∃ t, exec (.tcapEdge dt i part) s = .next t ∧ t.pending = s.pending ∧ t.mem = s.mem ∧
         ({ h with tim := { h.tim with
           tcap := updN h.tim.tcap i fun r => updN r j fun _ => (at_ * 100000 + 9) / 18
           tcapLast := updN h.tim.tcapLast i fun _ => j, tcapAny := updN h.tim.tcapAny i fun _ => true
           tcapC := updN h.tim.tcapC i fun _ => at_ } } : Hw).pulsed t.hw (48 + i.val))))

/-- A tick from S4 on (R8, R23, R27, R343, R346): the next window opens at its tick with its index, C at least at the tick's place on the
grid (a tick given late takes effect at the present C: the model's choice, log 56); EV0 pulses, EV1 on a slot tick, EV2 on a frame tick;
the limits, routes and offers written since the tick before are in force;
every quantum granted is for this window; memory changes only where bits have failed (that the tick names them is the model's choice,
log 73) and in the capture banks where a set-up is ready or recording (R382). Before S4 there is no tick. -/
def Obligations.TickOpensWindow : Prop :=
  ∀ (s : State) (w : WindowIn), s.hw.Settled →
    let h := s.hw
    let k := h.nextTick
    (4 ≤ h.sta.stage → ∃ t, exec (.tick w) s = .next t ∧ t.pending = s.pending ∧
      (h.tim.open_ = false → t.mem = s.mem) ∧
      (h.tim.open_ = true → (∀ i : SetupId, (h.capS i).readyAt = none ∧ (h.capS i).trig = none) →
        t.mem = w.upsets.foldl Mem.upset s.mem) ∧
      ((∀ c ∈ h.image.caps, capOk c = true ∧ (h.capS c.inst).offset + capSize c ≤ 0x200000) →
        ∀ b, b < 0x40000000 ∨ 0x40800000 ≤ b → t.mem.get b = s.mem.get b) ∧
      t.hw.tim.k = k ∧ t.hw.tim.tickC = h.tickAt k ∧ t.hw.tim.c = max h.tim.c (h.tickAt k) ∧ t.hw.tim.open_ = true ∧
      t.hw.tim.stepped = h.tim.stepped ∧ t.hw.sys = h.sys ∧ t.hw.img.loaded = h.img.loaded ∧
      0 ∈ t.hw.out.events ∧ (k % 14 = 0 → 1 ∈ t.hw.out.events) ∧ (k % h.perFrame = 0 → 2 ∈ t.hw.out.events) ∧
      (∀ c : Fin 5, getN t.hw.trl.classLimit c 0 = (getN h.trl.classNext c none).getD (getN h.trl.classLimit c 0)) ∧
      (∀ q : QuadId, (t.hw.quad q).route = (h.quad q).routeNext.getD (h.quad q).route) ∧
      (∀ c : Fin 4, getN t.hw.crn.route c 0 = (getN h.crn.routeNext c none).getD (getN h.crn.route c 0)) ∧
      (∀ e : EngId, (t.hw.eng e).statOffer = (h.eng e).statNext.getD (h.eng e).statOffer) ∧
      (h.tim.open_ = true → ∀ g ∈ t.hw.trl.grants, g.window = k)) ∧
    (h.sta.stage < 4 → exec (.tick w) s = .next { s with hw := { h with out := { h.out with events := [] } } })

/-- Slot changes at a tick (R27, R29, R65, R67, R68, R70): an announced entry takes effect on its frame tick and begins S7 or S8; without
one, an accepted selection for that tick takes effect; a fallback due on it brings slot 7 whatever else is due; a tick that is no
frame tick, or on which nothing is due, keeps the slot.
Retirement at a tick (R26, R319, Table 1.7): a path whose retirement is due, and for which no restore is under way, is retired, with
its PAEN and LNAEN low and its cause kept; a cause other than the baseband's own takes precedence. -/
def Obligations.TickChangesSlot : Prop :=
  (∀ (s : State) (w : WindowIn), s.hw.Settled → 4 ≤ s.hw.sta.stage →
     let h := s.hw
     let k := h.nextTick
     let frame := k % h.perFrame = 0
     ∃ t, exec (.tick w) s = .next t ∧
       (¬ frame → t.hw.mode.slot = h.mode.slot ∧ t.hw.sta.stage = h.sta.stage) ∧
       (frame → h.mode.fallback = some k → t.hw.mode.slot = some 7) ∧
       (frame → h.mode.fallback ≠ some k → ∀ sl, h.sta.announced = some (sl, k) →
         t.hw.mode.slot = some sl ∧ t.hw.sta.announced = none ∧ t.hw.sta.stage = if h.sta.stage = 6 then 7 else 8) ∧
       (frame → h.mode.fallback ≠ some k → (∀ sl, h.sta.announced ≠ some (sl, k)) →
         t.hw.sta.stage = h.sta.stage ∧
         (∀ x, h.mode.selects.find? (fun m => m.tick == k && !m.void) = some x → t.hw.mode.slot = some x.slot) ∧
         (h.mode.selects.find? (fun m => m.tick == k && !m.void) = none → t.hw.mode.slot = h.mode.slot))) ∧
  (∀ (s : State) (w : WindowIn) (n : PathId), s.hw.Settled → 4 ≤ s.hw.sta.stage →
     let h := s.hw
     let p := h.path n
     let due := p.retireAt.filter fun r => decide (r.1 ≤ h.nextTick)
     p.retired = false → p.restore = none → due ≠ [] →
     ∃ t, exec (.tick w) s = .next t ∧ (t.hw.path n).retired = true ∧ (t.hw.path n).paen = false ∧ (t.hw.path n).lnaen = false ∧
       (t.hw.path n).disabled = false ∧ (t.hw.path n).retireAt = p.retireAt.filter (fun r => decide (h.nextTick < r.1)) ∧
       (t.hw.path n).fem.failCause = ((due.find? fun r => r.2 != 6).map (·.2)).getD 6)

/-- The single step clears every armed comparator without firing it, and sets CLEARED_BY_STEP (R260). -/
def Obligations.StepClearsComparators : Prop :=
  ∀ s : State, s.hw.Settled → s.hw.sta.stage = 6 → s.hw.tim.acquired = true → s.hw.tim.stepped = false → s.hw.tim.open_ = true →
    ∃ t, exec .timeStep s = .next t ∧ ∀ n : PathId,
      (t.hw.path n).cmp = if (s.hw.path n).cmp.armed then { (s.hw.path n).cmp with armed := false, clearedByStep := true } else (s.hw.path n).cmp

/-- The single step (R266), where no engine holds a quantum and no DMA channel runs: at the next tick of the old grid θ, the mean of the
8 offsets of the frequency phase, rounded to whole cc with an exact half to even, is subtracted from C; the window closes and none is open
until the first tick of the new grid; that the index stands one below that
tick and nothing else of the closing is done is the model's reading (logs 23, 39), as is that a trip that stands marks its frame as not
cooled (tripHot, log 53); TIME_STEPPED is set,
TIM_STEP_SIZE and TIM_STEP_TICK are written, θ keeps the remainder, and TIME_STEP_APPLIED is logged. -/
def Obligations.TimeStep : Prop :=
  ∀ s : State, s.hw.Settled → s.hw.sta.stage = 6 → s.hw.tim.acquired = true → s.hw.tim.stepped = false → s.hw.tim.open_ = true →
    (∀ e : EngId, (s.hw.eng e).job = none ∧ (s.hw.eng e).jobs = []) → (∀ c : ChId, (s.hw.ch c).state ≠ 1) →
    let h := s.hw
    let cTick := max h.tim.c (h.tim.gridBase + gridC h.scs (h.tim.k + 1))
    let n := cround (h.tim.stepTheta.num * 98304) (h.tim.stepTheta.den * 100000)
    let c := ((cTick : Int) - n).toNat
    let ns : Rat := (n : Rat) * 100000 / 98304
    ∃ t, exec .timeStep s = .next t ∧ t.pending = s.pending ∧ t.mem = s.mem ∧
      t.hw = ({ h.elapse (cTick - h.tim.c) with
        tim := t.hw.tim, paths := t.hw.paths, trl := { h.trl with tripHot := h.trl.tripHot || h.trl.trip } } : Hw).told t.hw ∧
      t.hw.tim.c = c ∧ t.hw.tim.open_ = false ∧ t.hw.tim.stepped = true ∧ t.hw.tim.state = 3 ∧ t.hw.tim.k = firstTick h.scs c - 1 ∧
      t.hw.tim.stepTick = firstTick h.scs c % 2 ^ 32 ∧ t.hw.tim.theta = h.tim.theta - ns ∧ t.hw.tim.y = h.tim.y ∧ t.hw.tim.r = h.tim.r ∧
      (ns.den = 1 → t.hw.tim.stepSize = ns.num) ∧
      (t.hw.lko.log.head?.map fun e => (e.code, e.extra, e.cease)) = some (0x0207, firstTick h.scs c % 2 ^ 32, false)

/-- A quantum still active at its closing tick, no mandatory share and without a load on its way (R25, R350): its engine clears both
stacks, marks the job inactive, sets ABANDONED and goes on at 0x0010; waiting descriptors leave the queue; each is counted; every
other register of the engine stays. Nothing else changes, but that an abandoned DPD_ADAPT quantum is counted at its quad, its switch
request is cleared, unless another quantum posted it too, and the active bank copied over each shadow that it wrote (R149), and that the
block of an abandoned CAIRN_EXTRA
quantum is dropped from its occasion, which is then EXT_PARTIAL, and counted (R176). -/
def Obligations.QuantumAbandoned : Prop :=
  ∀ (s : State) (e : EngId) (j : Job), s.hw.Settled → 4 ≤ s.hw.sta.stage → s.hw.tim.open_ = true → (s.hw.eng e).job = some j →
    (s.hw.eng e).load = [] →
    let type := fun (x : Job) => x.w0.toNat % 65536
    let plain := fun (x : Job) => type x ≠ 0x0100 ∧ type x ≠ 0x0102 ∧ x.w0.getLsbD 24 = false
    s.hw.traceFlow e = false →
    let h := s.hw.toTick
    let r := h.eng e
    let tor := updN h.tor e fun _ => { r with
      loops := [], calls := [], job := none, jobs := [], abandoned := true, pc := 0x10, state := 1, justSet := false
      abandonedCnt := Nat.min (2 ^ 32 - 1) (r.abandonedCnt + 1 + r.jobs.length) }
    (plain j → (∀ x ∈ r.jobs, plain x) → exec (.quantumAbandon e) s = .next { s with hw := { h with tor := tor } }) ∧
    (j.w0.getLsbD 24 = false → r.jobs = [] →
      (∀ q : QuadId, type j = 0x0100 → j.w0.toNat / 65536 % 256 = q.val →
        let key := 16 * e.val + q.val
        ∃ t, exec (.quantumAbandon e) s = .next t ∧ t.pending = s.pending ∧ t.mem = s.mem ∧
          t.hw = { h with tor := tor, paths := t.hw.paths, quads := updN h.quads q fun x => { x with obs := { x.obs with
            abandoned := Nat.min (2 ^ 32 - 1) (x.obs.abandoned + 1) } } } ∧
          ∀ n : PathId, let d := (h.path n).dpd
            let kept := if d.active then d.bank1 else d.bank0
            (key ∉ d.writers → t.hw.path n = h.path n) ∧
            (key ∈ d.writers → t.hw.path n = { h.path n with dpd := { d with
              bank0 := kept, bank1 := kept, shadowReady := false, switchPending := d.switchPending && (!d.posters.contains key || d.posters.any (· ≠ key))
              badPar := d.badPar.filter fun x => x.1 == d.active
              writers := d.writers.filter (· ≠ key), posters := d.posters.filter (· ≠ key) } })) ∧
      (∀ o x, type j = 0x0102 → h.quantumOf e j = some (o, x) →
        exec (.quantumAbandon e) s = .next { s with hw := { h with tor := tor, crn := { h.crn with
          occasions := h.crn.occasions.map fun y =>
            if y.order = o.order then { o with quanta := o.quanta.erase x, blocks := o.blocks.erase x.block, extPartial := true } else y
          extDropped := Nat.min (2 ^ 32 - 1) (h.crn.extDropped + 1) } } }))

/-- The bring-up of a lane from S5 on (R287, R288, R291, R294, R295, Table 13.5): signal gives the equaliser its start values, on the
scales 0 to 31 and -64 to 63; lock begins coarse adaptation; an eye at or above the lock level, 20 mV at 53.125 Gb/s and 40 mV at
25.78125 Gb/s, begins the marker search without inversion, a frozen equaliser keeping its values; four marker periods without a marker
invert the lane; a lane without link that loses its condition returns to step 1,
and its port, no longer aligned, has LOCAL_FAULT (the model's choice, log 89).
The markers of a port's fourth lane (R288, R289, R290): with the four lane numbers all different and the arrivals within 64 ns, every
lane is delayed to the latest and the port is aligned; a repeated number or more skew raises LANE_ORDER, and the port is not aligned. That
LOCAL_FAULT stands while the port is not aligned, and no Remote Fault then, is the model's choice (log 89). -/
def Obligations.LaneBringUp : Prop :=
  (∀ (s : State) (dt : Nat) (l : LaneId), s.hw.Settled → 5 ≤ s.hw.sta.stage →
     let h := s.hw.elapse dt
     let type := h.portType (l / 4)
     let x := h.lane l
     let tp := fun (m : EyeMeas) => (List.range 12).map fun j => max (-64) (min 63 (m.taps.getD j 0))
     type = 1 ∨ type = 2 →
     (x.step = 1 → ∃ t, exec (.laneSignalDetect dt l) s = .next t ∧ t.pending = s.pending ∧ t.mem = s.mem ∧
       t.hw = { h with lanes := updN h.lanes l fun x => { x with step := 2, ctle := (t.hw.lane l).ctle, taps := (t.hw.lane l).taps } } ∧
       (t.hw.lane l).ctle ≤ 31 ∧ (t.hw.lane l).taps.length = 12 ∧ ∀ v ∈ (t.hw.lane l).taps, -64 ≤ v ∧ v ≤ 63) ∧
     (x.step = 2 → exec (.laneCdrLock dt l) s = .next { s with hw := { h with
       lanes := updN h.lanes l fun x => { x with step := 3, adapt := 1 } } }) ∧
     (∀ m : EyeMeas, x.step = 3 → (if type = 2 then 20 else 40) ≤ m.eh →
       exec (.laneCoarseDone dt l m) s = .next { s with hw := { h with lanes := updN h.lanes l fun x =>
         let y := { x with step := 4, inverted := false, ew := m.ew, eh := m.eh, ehMax := 0 }
         if x.adapt = 3 then y else { y with adapt := 2, ctle := min 31 m.ctle, taps := tp m } } }) ∧
     (x.step = 4 → exec (.lanePolarityTimeout dt l) s = .next { s with hw := { h with
       lanes := updN h.lanes l fun x => { x with inverted := !x.inverted, polTries := min (2 ^ 32 - 1) (x.polTries + 1) } } }) ∧
     ((h.port (l / 4)).linkUp = false → 2 ≤ x.step → ∃ t, exec (.laneConditionLost dt l) s = .next t ∧ t.pending = s.pending ∧ t.mem = s.mem ∧
       t.hw = ({ h with lanes := t.hw.lanes, ports := t.hw.ports } : Hw).told t.hw ∧
       (t.hw.lane l).step = 1 ∧ (t.hw.lane l).number = none ∧ (t.hw.lane l).snapValid = false ∧ (t.hw.lane l).inverted = false ∧
       (t.hw.port (l / 4)).aligned = false ∧ (t.hw.port (l / 4)).localFault = true ∧ (t.hw.port (l / 4)).remoteFault = false ∧
       ∀ j : LaneId, j ≠ l → t.hw.lane j = { h.lane j with deskew := (t.hw.lane j).deskew })) ∧
  (∀ (s : State) (dt : Nat) (p : PortId) (l0 l1 l2 l3 : Lane) (number skew : Nat), s.hw.Settled → 5 ≤ s.hw.sta.stage →
     let h := s.hw.elapse dt
     h.portType p = 1 ∨ h.portType p = 2 →
     (h.lane (4 * p) = l0 ∧ h.lane (4 * p + 1) = l1 ∧ h.lane (4 * p + 2) = l2 ∧ h.lane (4 * p + 3) = l3) →
     l0.step = 5 ∧ l1.step = 5 ∧ l2.step = 5 ∧ l3.step = 4 → (h.port p).orderFault = false →
     ∀ a b c : Nat, l0.number = some a → l1.number = some b → l2.number = some c → a < 4 → b < 4 → c < 4 → number < 4 →
     let l : LaneId := Fin.ofNat 8 (4 * p.val + 3)
     let late := max (max l0.skew l1.skew) (max l2.skew skew)
     let early := min (min l0.skew l1.skew) (min l2.skew skew)
     let good := ([a, b, c, number].Nodup) ∧ late ≤ early + 128
     ∃ t, exec (.laneMarkerFound dt l number skew) s = .next t ∧ t.pending = s.pending ∧ t.mem = s.mem ∧
       t.hw = ({ h with lanes := t.hw.lanes, ports := t.hw.ports } : Hw).told t.hw ∧
       (∀ j : LaneId, j / 4 ≠ p.val → t.hw.lane j = h.lane j) ∧ (∀ j : PortId, j ≠ p → t.hw.port j = h.port j) ∧
       (t.hw.lane l).number = some number ∧ (t.hw.lane l).step = 5 ∧ (t.hw.lane l).deskew = min 128 (late - skew) ∧
       (t.hw.lane (4 * p)).deskew = min 128 (late - l0.skew) ∧
       (good → t.hw.port p = { h.port p with aligned := true, localFault := false } ∧ t.hw.lko = h.lko) ∧
       (¬ good → t.hw.port p = { h.port p with aligned := false, orderFault := true, localFault := true, remoteFault := false } ∧
         (0x0306, (p.val : Int)) ∈ t.hw.lko.raised))

/-- Link (R286, R290, R298, R299, R401, Table 3.1): an aligned port gets link, LANE_LINK_UP is raised and LANE_LINK_DOWN of the loss before
it
ends; port A's ends the hold of S5 and begins S6. Losing link keeps its cause, raises LANE_LINK_DOWN, fails the frame in reception,
and restarts at step 1 the lanes that lost signal or lock and at step 3 the others; after 10 ms without link every lane restarts.
LOCAL_FAULT of a port that is not aligned is the model's choice (log 89).
FEC, remote faults and the elastic buffer (R284, R286, R296, R297): an uncorrectable codeword is counted and marks its interval; at the end
of an interval with one LANE_FEC_DEGRADED is raised, and after 1 s without one it ends (that BIP errors come with the interval's end is the
model's choice, log 44); Remote Fault received at an aligned port is kept and raised, and
ends with its reception (that the command says which is the model's choice, log 38); an
idle block leaves above 20 blocks and enters below 12; an overrun fails the frame and returns the buffer to 16. -/
def Obligations.LinkState : Prop :=
  (∀ (s : State) (dt : Nat) (p : PortId), s.hw.Settled →
     let h := s.hw.elapse dt
     let x := h.port p
     let us := fun (cc : Nat) => cc * 100000 / 98304000
     (5 ≤ h.sta.stage → (h.portType p = 1 ∨ h.portType p = 2) → x.aligned = true → x.linkUp = false →
       ∃ t, exec (.laneLinkUp dt p) s = .next t ∧ t.pending = s.pending ∧ t.mem = s.mem ∧
         t.hw = ({ h with ports := t.hw.ports, sta := t.hw.sta, tim := t.hw.tim } : Hw).told t.hw ∧
         t.hw.port p = { x with
           linkUp := true, localFault := false, errored := false, judged := false, restarted := false, downAt := none, rclk := decide (p = 0)
           linkTime := (x.downAt.map fun c => us (h.sta.since - c)).getD x.linkTime } ∧
         (∀ j : PortId, j ≠ p → t.hw.port j = h.port j) ∧
         (∀ c, x.downAt = some c → h.lko.raised.Nodup → (0x0303, ((p.val * 256 + x.downCause : Nat) : Int)) ∉ t.hw.lko.raised) ∧
         (0x0302, (p.val : Int), false) ∈ (t.hw.lko.log.map fun e => (e.code, e.arg, e.cease)) ∧
         (p = 0 → t.hw.sta.firstLink = true) ∧
         (p = 0 → h.sta.stage = 5 → t.hw.sta.stage = 6 ∧ t.hw.sta.failed = false ∧
           t.hw.tim = { h.tim with state := if h.tim.state = 0 then 1 else h.tim.state }) ∧
         (¬ (p = 0 ∧ h.sta.stage = 5) → t.hw.sta.stage = h.sta.stage ∧ t.hw.tim = h.tim)) ∧
     (∀ (cause : Nat) (lost : List LaneId), x.linkUp = true → 1 ≤ cause → cause ≤ 5 →
       ∃ t, exec (.laneLinkDown dt p cause lost) s = .next t ∧ t.pending = s.pending ∧ t.mem = s.mem ∧
         t.hw = ({ h with ports := t.hw.ports, lanes := t.hw.lanes } : Hw).told t.hw ∧
         t.hw.port p = { x with
           linkUp := false, downCause := cause, downAt := some h.sta.since, restarted := false
           linkDowns := min (2 ^ 32 - 1) (x.linkDowns + 1), errored := true, rclk := false, remoteFault := false
           localFault := true, aligned := false, orderFault := false } ∧
         (0x0303, ((p.val * 256 + cause : Nat) : Int)) ∈ t.hw.lko.raised ∧
         ∀ l : LaneId, (l / 4 ≠ p.val → t.hw.lane l = h.lane l) ∧
           (l / 4 = p.val → l ∈ lost → (t.hw.lane l).step = 1 ∧ (t.hw.lane l).snapValid = false) ∧
           (l / 4 = p.val → l ∉ lost → (t.hw.lane l).step = if 3 ≤ (h.lane l).step then 3 else (h.lane l).step)) ∧
     (∀ c, x.linkUp = false → x.restarted = false → x.downAt = some c → c + 9830400 ≤ h.sta.since →
       ∃ t, exec (.linkDownRestart dt p) s = .next t ∧ t.pending = s.pending ∧ t.mem = s.mem ∧
         t.hw = ({ h with ports := t.hw.ports, lanes := t.hw.lanes } : Hw).told t.hw ∧
         t.hw.port p = { x with restarted := true, aligned := false, orderFault := false, localFault := true, remoteFault := false } ∧
         ∀ l : LaneId, (l / 4 ≠ p.val → t.hw.lane l = h.lane l) ∧
           (l / 4 = p.val → (t.hw.lane l).step = 1 ∧ (t.hw.lane l).number = none ∧ (t.hw.lane l).snapValid = false))) ∧
  (∀ (s : State) (dt : Nat) (p : PortId), s.hw.Settled →
     let h := s.hw.elapse dt
     let x := h.port p
     let port := fun (y : Port) => ({ h with ports := updN h.ports p fun _ => y } : Hw)
     let on := 5 ≤ h.sta.stage ∧ (h.portType p = 1 ∨ h.portType p = 2)
     let fec := h.portType p = 2 ∨ (h.portCfg p).testBit 2 = true
     (on → fec → exec (.fecUncorrectable dt p) s = .next { s with hw := port { x with
       uncorrCw := min (2 ^ 32 - 1) (x.uncorrCw + 1), uncorrNow := true, lastUncorr := h.sta.since } }) ∧
     (∀ n : Nat, on → fec →
       let y := { x with corrCw := min (2 ^ 48 - 1) (x.corrCw + n), uncorrNow := false, fecDegraded := x.fecDegraded || x.uncorrNow }
       exec (.fecIntervalEnd dt p n []) s = .next { s with hw := (if x.uncorrNow then (port y).alarm 0x0304 p else port y).settle }) ∧
     (∀ (n c : Nat) (l : LaneId), on → l / 4 = p.val →
       (¬ fec → exec (.fecIntervalEnd dt p n [(l, c)]) s = .next { s with hw := { h with
         lanes := updN h.lanes l fun y => { y with bip := min (2 ^ 32 - 1) (y.bip + c) } } }) ∧
       (fec → x.uncorrNow = false → exec (.fecIntervalEnd dt p n [(l, c)]) s = .next { s with hw := {
         port { x with corrCw := min (2 ^ 48 - 1) (x.corrCw + n) } with
         lanes := updN h.lanes l fun y => { y with symbols := min (2 ^ 48 - 1) (y.symbols + c) } } })) ∧
     (x.fecDegraded = true → x.lastUncorr + 983040000 ≤ h.sta.since →
       exec (.fecDegradedCease dt p) s = .next { s with hw := ((port { x with fecDegraded := false }).cease 0x0304 p).settle }) ∧
     (on → x.aligned = true →
       exec (.remoteFaultRx dt p true) s = .next { s with hw := ((port { x with remoteFault := true }).alarm 0x0305 p).settle } ∧
       exec (.remoteFaultRx dt p false) s = .next { s with hw :=
         (if x.remoteFault then (port { x with remoteFault := false }).cease 0x0305 p else port x).settle }) ∧
     (∀ fill : Nat, on →
       (20 < fill → fill ≤ 32 → exec (.idleDelete dt p fill) s =
         .next { s with hw := port { x with fill := fill - 1, idleDel := min (2 ^ 48 - 1) (x.idleDel + 1) } }) ∧
       (fill < 12 → exec (.idleInsert dt p fill) s =
         .next { s with hw := port { x with fill := fill + 1, idleIns := min (2 ^ 48 - 1) (x.idleIns + 1) } })) ∧
     (∀ full : Bool, on → exec (.elasticError dt p full) s =
       .next { s with hw := port { x with errored := true, elasticErr := min (2 ^ 32 - 1) (x.elasticErr + 1), fill := 16 } }))

/-- The end of an eye interval and of a freeze (R292 to R295): a frozen equaliser keeps its values, and so does the snapshot rule where
the eye is at least three quarters of the highest; where the guard acts (a CTLE or tap at a rail, or a tap moved past the
threshold while the eye fell) the equaliser returns to its snapshot, LANE_EQ_REVERT is raised and counted, and the fourth action within 1 s
freezes it; a freeze ends after 1 s. An eye below the lock level returns the lane to step 1, and a port with link loses it for want of
alignment (the last is the model's reading, log 126). -/
def Obligations.EyeGuard : Prop :=
  ∀ (s : State) (dt : Nat) (l : LaneId) (m : EyeMeas), s.hw.Settled → 5 ≤ s.hw.sta.stage →
    let h := s.hw.elapse dt
    let x := h.lane l
    let type := h.portType (l / 4)
    let top := max x.ehMax m.eh
    let thr : Int := 4 * 2 ^ (h.portCfg (l / 4) / 64 % 4)
    let ct := min 31 m.ctle
    let tp := (List.range 12).map fun j => max (-64) (min 63 (m.taps.getD j 0))
    let acts := ct = 0 ∨ ct = 31 ∨ (∃ t ∈ tp, t = -64 ∨ t = 63) ∨
      m.eh < x.eh ∧ ∃ i < 12, thr < tp.getD i 0 - x.taps.getD i 0 ∨ tp.getD i 0 - x.taps.getD i 0 < -thr
    let low := m.eh < if type = 2 then 20 else 40
    type = 1 ∨ type = 2 → 4 ≤ x.step →
    (¬ low → x.adapt ≠ 3 → ¬ acts → exec (.laneEyeInterval dt l m) s = .next { s with hw := { h with lanes := updN h.lanes l fun x =>
      let y := { x with ew := m.ew, eh := m.eh, ehMax := top, ctle := ct, taps := tp }
      if 3 * top ≤ 4 * m.eh then { y with snapValid := true, snapCtle := ct, snapTaps := tp, ehSnap := m.eh } else y } }) ∧
    (¬ low → x.adapt ≠ 3 → acts → x.snapValid = true →
      let recent := (h.sta.since :: x.acts).filter fun c => decide (h.sta.since < c + 983040000)
      let back := { x with
        ew := m.ew, eh := m.eh, ehMax := top, ctle := x.snapCtle, taps := x.snapTaps, reverts := min (2 ^ 32 - 1) (x.reverts + 1), acts := recent }
      exec (.laneEyeInterval dt l m) s = .next { s with hw :=
        (if recent.length < 4 then ({ h with lanes := updN h.lanes l fun _ => back } : Hw).alarm 0x0307 l
         else (({ h with lanes := updN h.lanes l fun _ => { back with adapt := 3 } } : Hw).alarm 0x0307 l).alarm 0x0308 l).settle }) ∧
    (low → ∃ t, exec (.laneEyeInterval dt l m) s = .next t ∧ t.pending = s.pending ∧ t.mem = s.mem ∧
      t.hw = ({ h with lanes := t.hw.lanes, ports := t.hw.ports } : Hw).told t.hw ∧ (t.hw.lane l).step = 1 ∧ (t.hw.lane l).snapValid = false ∧
      (t.hw.port (l / 4)).aligned = false ∧ (t.hw.port (l / 4)).localFault = true ∧
      ((h.port (l / 4)).linkUp = true → (t.hw.port (l / 4)).linkUp = false ∧ (t.hw.port (l / 4)).downCause = 3 ∧
        (0x0303, ((l.val / 4 * 256 + 3 : Nat) : Int)) ∈ t.hw.lko.raised)) ∧
    (¬ low → x.adapt = 3 → ∃ t, exec (.laneEyeInterval dt l m) s = .next t ∧ t.pending = s.pending ∧ t.mem = s.mem ∧
      t.hw = { h with lanes := t.hw.lanes } ∧ (∀ j : LaneId, j ≠ l → t.hw.lane j = h.lane j) ∧
      (t.hw.lane l).ctle = x.ctle ∧ (t.hw.lane l).taps = x.taps ∧ (t.hw.lane l).eh = m.eh ∧ (t.hw.lane l).adapt = 3) ∧
    (∀ c r, x.adapt = 3 → x.acts = c :: r → c + 983040000 ≤ h.sta.since →
      exec (.laneFreezeEnd dt l) s = .next { s with hw := (({ h with
        lanes := updN h.lanes l fun x => { x with adapt := 2, acts := [] } } : Hw).cease 0x0308 l).settle })

/-- The FEM buses from S4 on (R303, R304): an attempt that succeeds ends the transaction in progress; one that fails is counted and
tried again, and the third ends the transaction, and where a line is low then and more is to be sent, nine clock pulses and a STOP come
first (that the level is known at an attempt's end is the model's choice, log 130); a bus held low for 10 ms is STUCK, is sent nine clock
pulses and a STOP, raises
FEM_BUS_STUCK, and its paths not yet retired or failed are disabled and due to be retired on the next tick with cause 2; once both lines
are high again the bus is no longer STUCK, the alarm ends, and the life writes that waited are queued.
Status polls (R315): an answered poll, the read of a byte of register 0 at the address 0x58 + i, of a sound FEM keeps its ALARM_PIN; a FEM
whose alarm pin is active, or that misses a third
poll in a row, fails: its PAEN goes low at once, it is due to be retired on the next tick, and its alarm is raised.
The read of a FEM whose path is to be restored (R111, R151, R311, R312): no valid identity page ends the restore with FEM_ID_LOST,
no FEM present and the current 20 mA; a valid one loads the FEM and its current, sets the restore for the first frame tick at or after the
target and three ticks
from now, and gives a FEM of another serial number its DPD_INIT banks with the settling backoff. -/
def Obligations.FemTraffic : Prop :=
  (∀ (s : State) (dt : Nat) (q : QuadId), s.hw.Settled → 4 ≤ s.hw.sta.stage →
     let h := s.hw.elapse dt
     let quad := fun (f : Quad → Quad) => { s with hw := { h with quads := updN h.quads q f } }
     let cleared := fun (high : Bool) (queue : List (Nat × Nat)) (t : State) =>
       if high = false ∧ queue ≠ [] then { t with hw := { t.hw with out := { h.out with bus := h.out.bus ++ [.recover q] } } } else t
     (∀ high, (h.quad q).busStuck = false →
       exec (.femBusTransactionDone dt q true high) s = .next (quad fun x => { x with busQueue := x.busQueue.drop 1, busTries := 0 }) ∧
       ((h.quad q).busTries < 2 → exec (.femBusTransactionDone dt q false high) s = .next (cleared high (h.quad q).busQueue (quad fun x =>
         { x with busNack := min (2 ^ 32 - 1) (x.busNack + 1), busTries := x.busTries + 1 }))) ∧
       (2 ≤ (h.quad q).busTries → exec (.femBusTransactionDone dt q false high) s =
         .next (cleared high ((h.quad q).busQueue.drop 1) (quad fun x =>
           { x with busNack := min (2 ^ 32 - 1) (x.busNack + 1), busTries := 0, busQueue := x.busQueue.drop 1 })))) ∧
     ((h.quad q).busStuck = true →
       exec (.femBusTransactionDone dt q false false) s = .next { s with hw := h } ∧
       ∀ good, ∃ t, exec (.femBusTransactionDone dt q good true) s = .next t ∧ t.pending = s.pending ∧ t.mem = s.mem ∧
         t.hw = ({ h with quads := updN h.quads q fun x => { x with busStuck := false, busQueue := (t.hw.quad q).busQueue } } : Hw).told t.hw ∧
         t.hw.lko.raised = h.lko.raised.erase (0x0502, (q.val : Int)) ∧
         ∀ n : PathId, n / 4 = q.val → (h.path n).fem.writeDue = true → (4, n.val) ∈ (t.hw.quad q).busQueue) ∧
     ((h.quad q).busStuck = false → ∃ t, exec (.femBusStuck dt q) s = .next t ∧ t.pending = s.pending ∧ t.mem = s.mem ∧
       t.hw = ({ h with
         quads := updN h.quads q fun x => { x with busStuck := true }, paths := t.hw.paths
         out := { h.out with bus := h.out.bus ++ [.recover q] } } : Hw).told t.hw ∧
       (0x0502, (q.val : Int)) ∈ t.hw.lko.raised ∧
       ∀ n : PathId,
         let p := h.path n
         t.hw.path n = if n / 4 = q.val ∧ p.retired = false ∧ p.disabled = false then { p with
           paen := false, paenMoved := p.paenMoved || p.paen, disabled := true
           retireAt := p.retireAt ++ [(if h.tim.open_ ∨ h.tim.stepped then h.tim.k + 1 else 0, 2)]
           fem := { p.fem with
             failCause := 2, pageCause := 2, flags := p.fem.flags ||| 2, writeDue := true, dirty := true
             paenCc := if p.paen then p.fem.paenCc + (h.sta.since - p.fem.paenFrom) else p.fem.paenCc, paenFrom := h.sta.since } }
         else p)) ∧
  (∀ (s : State) (dt : Nat) (n : PathId), s.hw.Settled → 4 ≤ s.hw.sta.stage →
     (s.hw.path n).retired = false → (s.hw.path n).disabled = false → (s.hw.path n).restore = none →
     let h := s.hw.elapse dt
     let p := h.path n
     let due := if h.tim.open_ ∨ h.tim.stepped then h.tim.k + 1 else 0
     let dropped := fun (x : Quad) => if (2, n.val) ∈ x.busQueue then { x with busQueue := x.busQueue.erase (2, n.val), busTries := 0 } else x
     let quads := updN h.quads (n / 4) dropped
     let polled := { h.out with bus := h.out.bus ++ [.transfer (n / 4) (0x58 + n % 4) [0] [] 1] }
     let set_ := fun (o : Out) (f : Fem) => { h with quads := quads, out := o, paths := updN h.paths n fun p => { p with fem := f } }
     let failed := fun (o : Out) (cause alarmCode : Nat) (f : Fem) (t : State) => t.pending = s.pending ∧ t.mem = s.mem ∧
       t.hw = ({ h with quads := t.hw.quads, out := o, paths := updN h.paths n fun p => { p with
         paen := false, paenMoved := p.paenMoved || p.paen, disabled := true, retireAt := p.retireAt ++ [(due, cause)]
         fem := { f with
           failCause := cause, pageCause := cause, flags := f.flags ||| 2, writeDue := true, dirty := true
           paenCc := if p.paen then p.fem.paenCc + (h.sta.since - p.fem.paenFrom) else p.fem.paenCc, paenFrom := h.sta.since } } } : Hw).told t.hw ∧
       (∀ j : QuadId, j.val ≠ n / 4 → t.hw.quad j = h.quad j) ∧
       ((h.quad (n / 4)).busStuck = false → (4, n.val) ∈ (t.hw.quad (n / 4)).busQueue) ∧ t.hw.newest alarmCode n
     (exec (.femStatusPollDone dt n (some false)) s = .next { s with hw := set_ polled { p.fem with missedPolls := 0, alarmPin := false } }) ∧
     (∃ t, exec (.femStatusPollDone dt n (some true)) s = .next t ∧ failed polled 5 0x0507 { p.fem with missedPolls := 0, alarmPin := true } t) ∧
     (p.fem.missedPolls < 2 →
       exec (.femStatusPollDone dt n none) s = .next { s with hw := set_ h.out { p.fem with missedPolls := p.fem.missedPolls + 1 } }) ∧
     (2 ≤ p.fem.missedPolls →
       ∃ t, exec (.femStatusPollDone dt n none) s = .next t ∧ failed h.out 1 0x0501 { p.fem with missedPolls := p.fem.missedPolls + 1 } t)) ∧
  (∀ (s : State) (dt : Nat) (n : PathId) (fem : FemRead) (alarm : Bool) (r : Restore), s.hw.Settled → 4 ≤ s.hw.sta.stage →
     (s.hw.path n).restore = some r → r.read = false → (s.hw.path n).retired = true → r.target ≤ s.hw.tim.k →
     let h := s.hw.elapse dt
     let quads := updN h.quads (n / 4) fun (x : Quad) =>
       if (3, n.val) ∈ x.busQueue then { x with busQueue := x.busQueue.erase (3, n.val), busTries := 0 } else x
     let out := { h.out with bus := h.out.bus ++ if fem.identity.isSome then
       ((List.range 24).map fun j => .transfer (n / 4) (0x50 + n % 4) (be 2 (32 * j)) [] 32) ++ [.transfer (n / 4) (0x58 + n % 4) [0] [] 1] else [] }
     (fem.identity.bind parseIdentity = none → exec (.femIdentityReadDone dt n fem (some alarm)) s = .next { s with hw :=
       (({ h with quads := quads, out := out, paths := updN h.paths n fun p => { p with
         restore := none, fsCurrent := 20, fem := { p.fem with id := none } } } : Hw).alarm 0x0501 n).settle }) ∧
     (∀ id, fem.identity.bind parseIdentity = some id →
       let w := (assoc n.val h.image.dpdInit).getD []
       let kr := (max r.target (h.tim.k + 3) + h.perFrame - 1) / h.perFrame * h.perFrame
       ∃ t, exec (.femIdentityReadDone dt n fem (some alarm)) s = .next t ∧ t.pending = s.pending ∧ t.mem = s.mem ∧
         t.hw = ({ h with quads := quads, out := out, paths := updN h.paths n fun p => { p with
           fem := { femLoad p.fem id fem with alarmPin := alarm }, fsCurrent := id.dacFs
           restore := some { r with read := true, kr := some kr, alarm := alarm }
           dpd := if p.fem.lastSerial = some id.serial then p.dpd
             else { p.dpd with bank0 := w, bank1 := w, shadowReady := true, settling := true, refSlot := none, badPar := [] } } } : Hw).told t.hw ∧
         (t.hw.path n).fem.id = some id))

/-- Life pages (R308, R314, R316): a write time makes a write due; a write whose read-back agrees leaves a copy with the next SEQ in the
older half of the page (0x0100 or 0x0200 of the FEM's memory), over a read of SERIAL, 16 writes of 16 bytes and the read-back, with the
WORN and FAILED flags that hold (R317), is counted, and ends FEM_WRITE_FAIL; one that fails raises it;
one that finds the FEM gone fails the FEM. -/
def Obligations.FemLife : Prop :=
  ∀ (s : State) (dt : Nat) (n : PathId), s.hw.Settled → 4 ≤ s.hw.sta.stage →
    let h := s.hw.elapse dt
    let p := h.path n
    let f := p.fem
    let quads := updN h.quads (n / 4) fun (x : Quad) =>
      if (4, n.val) ∈ x.busQueue then { x with busQueue := x.busQueue.erase (4, n.val), busTries := 0 } else x
    let m := (todS (todUnits h.tim.c) - 2 * (n % 4)) / 900
    (p.retired = false → f.id.isSome = true → f.lifeM < m → exec (.femLifeWriteTime dt n) s = .next { s with hw := { h with
      paths := updN h.paths n fun p => { p with fem := { p.fem with lifeM := m, writeDue := true } } } }) ∧
    (f.writeDue = true → (h.quad (n / 4)).busStuck = false →
      (∀ id, f.id = some id → ∃ t, exec (.femLifeWriteDone dt n .ok) s = .next t ∧ t.pending = s.pending ∧ t.mem = s.mem ∧
        t.hw = ({ h with quads := quads, paths := updN h.paths n fun p => { p with fem := { p.fem with
          lifeWrites := min (2 ^ 32 - 1) (f.lifeWrites + 1), seq := (f.seq + 1) % 2 ^ 32, newerA := !f.newerA, dirty := false
          writeDue := false, writeFail := false, flags := (t.hw.path n).fem.flags } }, out := t.hw.out } : Hw).told t.hw ∧
        (t.hw.path n).fem.flags = (if id.rated * 1000 * 2 ^ 40 ≤ f.used then 1 else 0) + (if f.flags.testBit 1 then 2 else 0) ∧
        (∃ bytes : Bytes,
          let at_ := if f.newerA then 0x0200 else 0x0100
          let tr := fun (a : Nat) (data : Bytes) (len : Nat) => BusItem.transfer (n / 4) (0x50 + n % 4) (be 2 a) data len
          t.hw.out = { h.out with
            life := h.out.life ++ [(n.val, at_, bytes)]
            bus := h.out.bus ++ ([tr 16 [] 8] ++ ((List.range 16).map fun j => tr (at_ + 16 * j) ((bytes.drop (16 * j)).take 16) 0) ++
              (List.range 8).map fun j => tr (at_ + 32 * j) [] 32) } ∧
          bytes.length = 256 ∧ rd bytes 0 4 = 0x464C4654 ∧ rd bytes 254 2 = crc16 (bytes.take 254) ∧ rd bytes 8 4 = (f.seq + 1) % 2 ^ 32 ∧
          rd bytes 16 8 = id.serial % 2 ^ 64) ∧
        ((0x0504, (n.val : Int)) ∈ h.lko.raised → f.writeFail = true → (0x0504, (n.val : Int), true) ∈
          t.hw.lko.log.map fun e => (e.code, e.arg, e.cease))) ∧
      exec (.femLifeWriteDone dt n .failed) s = .next { s with hw := (({ h with
        quads := quads, paths := updN h.paths n fun p => { p with fem := { p.fem with writeFail := true, writeDue := false } } } : Hw).alarm
          0x0504 n).settle } ∧
      (p.retired = false → p.disabled = false → ∃ t, exec (.femLifeWriteDone dt n .idLost) s = .next t ∧ (t.hw.path n).disabled = true ∧
        (t.hw.path n).paen = false ∧ (t.hw.path n).fem.failCause = 1 ∧ t.hw.newest 0x0501 n ∧
        ∀ j : PathId, j ≠ n → t.hw.path j = h.path j))

/-- A housekeeping reading (R313, R324 to R326, Table 14.14): the mean of an entry's codes, in 1/16 code, with OVR, MIXED and PAEN, is the
channel's HKA_RESULT with its tick; the over-range codes and the conversions are counted; the sequence goes on at its next entry. A FEM
temperature without over-range is the quad's, and its age starts again.
FEM checks of housekeeping (R315): a drain current or reflected power outside its limits on BIAS_COUNT or REFL_COUNT readings in a
row of a sound FEM fails it with cause 3 or 4 and FEM_BIAS_FAULT or FEM_REFL_FAULT; below that count only the run grows; a reading
within the limits ends the run; a reading during which PAEN changed is not judged. -/
def Obligations.HkReading : Prop :=
  (∀ (s : State) (dt : Nat) (q : QuadId) (codes : List HkCode) (seq : List HkEntry) (e : HkEntry), s.hw.Settled →
     let h := s.hw.elapse dt
     let u := h.quad q
     u.hkRunning = true → assoc q.val h.image.hkSeq = some seq → seq[u.hkEntry]? = some e → codes.length = e.rep + 1 →
     let total := 16 * sumL (codes.map (·.code))
     let bad := (codes.filter (·.ovr)).length
     let next_ := if u.hkEntry + 1 < seq.length then u.hkEntry + 1 else 0
     total % (e.rep + 1) = 0 →
     let mean := total / (e.rep + 1)
     let still := vmapi h.paths fun j p => if j / 4 = q.val then { p with paenMoved := false } else p
     let read := fun (x : Quad) => { x with
       hk := updN x.hk e.channel fun r => {
         mean := mean, ovr := decide (0 < bad), mixed := false, paen := false, valid := true, tick := h.tim.k % 2 ^ 32
         count := min (2 ^ 32 - 1) (r.count + bad) }
       conv := min (2 ^ 48 - 1) (x.conv + codes.length), hkEntry := next_ }
     (e.channel = 8 → bad = 0 → ∃ t, exec (.hkReading dt q codes) s = .next t ∧ t.pending = s.pending ∧ t.mem = s.mem ∧
       t.hw = { h with quads := updN h.quads q (fun x => { read x with femTemp := (t.hw.quad q).femTemp, hkAge := 0 }), paths := t.hw.paths } ∧
       (t.hw.quad q).femTemp = some (femDegrees h mean) ∧
       ∀ j : PathId, t.hw.path j = if j / 4 = q.val ∧ (h.path j).fem.id.isSome = true then { getN still j {} with
         fem := { (h.path j).fem with tMax := some (((h.path j).fem.tMax.map fun y => max y (femDegrees h mean)).getD (femDegrees h mean)) } } else getN still j {}) ∧
     (e.channel = 11 → exec (.hkReading dt q codes) s = .next { s with hw := { h with quads := updN h.quads q read, paths := still } }) ∧
     (e.channel = 9 → bad = 0 → u.supplyOut = false →
       16 * h.image.policy.supplyMin ≤ mean → mean ≤ 16 * h.image.policy.supplyMax →
       exec (.hkReading dt q codes) s = .next { s with hw := { h with quads := updN h.quads q read, paths := still } }) ∧
     (e.channel = 9 → bad = 0 → u.supplyOut = false → mean < 16 * h.image.policy.supplyMin →
       exec (.hkReading dt q codes) s = .next { s with hw := (({ h with
         quads := updN h.quads q (fun x => { read x with supplyOut := true }), paths := still } : Hw).alarm 0x0508 q).settle })) ∧
  (∀ (s : State) (dt : Nat) (q : QuadId) (i : Fin 4) (code : HkCode) (seq : List HkEntry) (e : HkEntry) (id : FemId), s.hw.Settled →
     let h := s.hw.elapse dt
     let u := h.quad q
     let n := 4 * q.val + i.val
     let p := h.path n
     u.hkRunning = true → assoc q.val h.image.hkSeq = some seq → seq[u.hkEntry]? = some e → e.rep = 0 → p.fem.id = some id →
     p.retired = false → p.disabled = false → p.paen = true →
     let mean := 16 * code.code
     let still := fun (j : PathId) => if j / 4 = q.val then { h.path j with paenMoved := false } else h.path j
     let ended := fun (t : State) => (t.hw.path n).disabled = true ∧ (t.hw.path n).paen = false
     (e.channel = i.val → p.paenMoved = false →
       let out := code.ovr = true ∨ mean * id.isnsGain < id.iOnMin * 65536 ∨ id.iOnMax * 65536 < mean * id.isnsGain
       ∃ t, exec (.hkReading dt q [code]) s = .next t ∧ (∀ j : PathId, j.val ≠ n → t.hw.path j = still j) ∧
         (t.hw.path n).fem.iSum = p.fem.iSum + mean ∧ (t.hw.path n).fem.iCount = p.fem.iCount + 1 ∧
         (¬ out → (t.hw.path n).fem.biasRun = 0 ∧ (t.hw.path n).disabled = false) ∧
         (out → (t.hw.path n).fem.biasRun = p.fem.biasRun + 1) ∧
         (out → p.fem.biasRun + 1 < h.image.policy.biasCount → (t.hw.path n).disabled = false ∧ t.hw.lko = h.lko) ∧
         (out → h.image.policy.biasCount ≤ p.fem.biasRun + 1 → ended t ∧ (t.hw.path n).fem.failCause = 3 ∧ t.hw.newest 0x0505 n)) ∧
     (e.channel = 4 + i.val → p.paenMoved = false →
       let out := code.ovr = true ∨ id.reflMax * 65536 < id.pdOffset * 65536 + (mean : Int) * id.pdGain
       ∃ t, exec (.hkReading dt q [code]) s = .next t ∧ (∀ j : PathId, j.val ≠ n → t.hw.path j = still j) ∧
         (¬ out → (t.hw.path n).fem.reflRun = 0 ∧ (t.hw.path n).disabled = false) ∧
         (out → p.fem.reflRun + 1 < h.image.policy.reflCount → (t.hw.path n).fem.reflRun = p.fem.reflRun + 1 ∧ t.hw.lko = h.lko) ∧
         (out → h.image.policy.reflCount ≤ p.fem.reflRun + 1 → ended t ∧ (t.hw.path n).fem.failCause = 4 ∧ t.hw.newest 0x0506 n)) ∧
     (e.channel = i.val → p.paenMoved = true → ∃ t, exec (.hkReading dt q [code]) s = .next t ∧ (t.hw.path n).fem.biasRun = p.fem.biasRun ∧
       (t.hw.path n).disabled = false ∧ (t.hw.path n).paenMoved = false ∧ (getN (t.hw.quad q).hk i {}).mixed = true))

/-- HKA_INJECT_START and HK_INJECT_DONE complete (R242, R327). From S5 on a request written to a quad, of any channel, is refused and
counted where one waits, a calibration run holds the ADC or the channel is 12 to 15, and is taken in every other case for the slot after
the one in progress (Table 14.11; `injAt` is the class at this instant: one that waited for a slot is in progress from its start on, and
one whose slot has ended waits for its result only). A conversion whose slot has ended, else one in progress, else one that waits, has its
code, over-range flag and channel written at its end, is counted, and pulses EV128 + q; a reading of the FEM temperature that a collecting
run asked for widens that run's range; nothing else changes
but for the run's own taking of the ADC.
BIAS_BREAK_END completes (R320, R322, Table 14.13): BIAS, whose change of range or source was made break-before-make, drives the level
it changed to: the safe level of FEM_POLICY, which a path without a FEM takes too, or the operating level of its FEM, in the range of its
BIAS_MODE and with a code of at most 4,095. Only that path's BIAS changes. -/
def Obligations.HkInject : Prop :=
  ((∀ (s : State) (dt : Nat) (q : QuadId) (c : Nat), s.hw.Settled → 5 ≤ s.hw.sta.stage →
     let h := s.hw.elapse dt
     let u := (h.quad q).injAt h.sta.since
     let slot := u.slotFrom + (((h.sta.since - u.slotFrom) * 100 / 49152 + 1) * 49152 + 99) / 100
     let refused := u.calHeld = true ∨ u.injPending.isSome = true ∨ 12 ≤ c % 16
     (refused → exec (.hkaInjectStart dt q c) s = .next { s with hw := { h with quads := updN h.quads q fun _ => { u with
       injCtl := c % 16, injRefused := true, injRefusedCnt := min (2 ^ 32 - 1) (u.injRefusedCnt + 1) } } }) ∧
     (¬ refused → exec (.hkaInjectStart dt q c) s = .next { s with hw := { h with quads := updN h.quads q fun _ => { u with
       injCtl := c % 16, injPending := some (c % 16, false), injFrom := slot, injRefused := false } } })) ∧
   (∀ (s : State) (dt : Nat) (q : QuadId) (code : HkCode) (c : Nat) (cal : Bool), s.hw.Settled →
     let h := s.hw.elapse dt
     let u := (h.quad q).injAt h.sta.since
     let deg := femDegrees h (16 * code.code)
     let use := cal = true ∧ c = 8 ∧ code.ovr = false ∧ h.calCollects = true
     let late := u.injLate ≠ []
     (u.injLate.head? = some (c, cal) ∨ ¬ late ∧ (u.injBusy = some (c, cal) ∨ u.injBusy = none ∧ u.injPending = some (c, cal))) →
     ∃ t, exec (.hkInjectDone dt q code) s = .next t ∧ t.pending = s.pending ∧ t.mem = s.mem ∧
       (∀ j : QuadId, j ≠ q → t.hw.quad j = h.quad j) ∧
       ({ h with quads := updN h.quads q fun _ => { u with
         injLate := u.injLate.drop 1, injBusy := if late then u.injBusy else none, injPending := (t.hw.quad q).injPending
         injFrom := (t.hw.quad q).injFrom, injRefused := (t.hw.quad q).injRefused, calHeld := (t.hw.quad q).calHeld
         injCode := code.code, injOvr := code.ovr, injChannel := c, injValid := true
         injDone := min (2 ^ 32 - 1) (u.injDone + 1), conv := min (2 ^ 48 - 1) (u.conv + 1)
         hk := updN u.hk c fun r => { r with count := min (2 ^ 32 - 1) (r.count + if code.ovr then 1 else 0) }
         calTemp := if use then some ((u.calTemp.map fun r => (min r.1 deg, max r.2 deg)).getD (deg, deg)) else u.calTemp } } : Hw).pulsed
           t.hw (128 + q.val) ∧
       (h.calCollects = false → (t.hw.quad q).injPending = (if late ∨ u.injBusy.isSome then u.injPending else none) ∧
         (t.hw.quad q).injFrom = u.injFrom ∧ (t.hw.quad q).calHeld = u.calHeld ∧
         (t.hw.quad q).injRefused = u.injRefused))) ∧
  (∀ (s : State) (dt : Nat) (n : PathId), s.hw.Settled → (s.hw.path n).bias.brk = true →
     let h := s.hw.elapse dt
     let p := h.path n
     let safe := h.image.policy.biasSafe.getD n 0
     (p.bias.operating = false ∨ p.fem.id = none → exec (.biasBreakEnd dt n) s = .next { s with hw := { h with
       paths := updN h.paths n fun p => { p with
         bias := { p.bias with
           brk := false, code := safe % 4096
           range := if h.image.policy.biasMode.testBit n then 2 else if safe.testBit 12 then 1 else 0 } } } }) ∧
     (∀ id, p.bias.operating = true → p.fem.id = some id →
       let x : Rat := (id.biasNom : Rat) + (id.biasTc : Rat) * (h.femTempOf (n / 4) / 10 - 25) / 16
       ∃ code ≤ 4095, exec (.biasBreakEnd dt n) s = .next { s with hw := { h with
         paths := updN h.paths n fun p => { p with bias := { p.bias with brk := false, code := code, range := id.biasMode } } } } ∧
         (x.den = 1 → 0 ≤ x.num → x.num ≤ 4095 → (code : Int) = x.num)))

/-- Couplers (R154, R238, R309): a selection whose write and read-back agree, the broadcast of i to register 1 and its read at 0x58 + i,
selects this path's coupler and no other of the quad, starts settling and ends DPD_OBS_LOST; when settling ends the receiver may observe,
and not before (in a calibration run the model's reading, logs 61, 106);
one that fails is counted, raises DPD_OBS_SWITCH_FAIL and, where every path of the quad has failed, DPD_OBS_LOST. For a calibration run
the same holds of the path that it collects next, whose failure is noted for the run.
An observed downlink symbol (R152, R155, R157, Table 7.2): one whose 4,096 recorded samples of x have a mean power below -30 dBFS, and
every one during a thermal trip, is skipped and counted; otherwise a record of a 32-byte header and, of each sample, x, u and the
observed y in 12 bytes goes into a slot of the quad's buffer in the shared store, the count of earlier observed symbols modulo BUF_SLOTS
(the model's reading of the slot and of the mean, logs 97 and 98); it is counted, with OVR where an observed sample was over range, and
EV32 + q pulses; no byte outside the record changes.
The end of a round (R68, R153, R154): a round whose NMSE is -35 dB or better counts towards the two in a row that a path keeps, and
one that wrote none or a worse one breaks the row (log 96); the scheduler of the quad moves to the next eligible path above the present one
that has not failed
in this rotation, or begins a new rotation at the lowest eligible path, the same one anew where it is alone (the
model's choice, log 99), and its selection is put on the bus at once (the model's reading, log 106); a quad without an eligible path idles.
-/
def Obligations.ObservationRounds : Prop :=
  (∀ (s : State) (dt : Nat) (q : QuadId), s.hw.Settled → 4 ≤ s.hw.sta.stage →
     let h := s.hw.elapse dt
     let o := (h.quad q).obs
     let cal := o.onCal = true ∧ (h.quad q).calSel = 1
     let i := if cal then (h.quad q).calCur else o.cur
     let n := 4 * q.val + i
     i < 4 → (∀ x ∈ (h.quad q).busQueue, x.1 = 1 → x.2 = n) →
     (o.state = 1 ∨ cal → ∃ t, exec (.couplerSelectDone dt q true) s = .next t ∧ t.pending = s.pending ∧ t.mem = s.mem ∧
       t.hw = ({ h with
         quads := updN h.quads q fun x =>
           { (if (1, n) ∈ x.busQueue then { x with busQueue := x.busQueue.erase (1, n), busTries := 0 } else x) with
             calSel := if cal then 2 else x.calSel, obs := { x.obs with state := if cal then o.state else 2, lost := false } }
         out := { h.out with bus := h.out.bus ++
           [.transfer q 0x5C [1] [BitVec.ofNat 8 i] 0, .transfer q (0x58 + i) [1] [] 1] }
         paths := t.hw.paths } : Hw).told t.hw ∧
       t.hw.lko.raised = (if o.lost then h.lko.raised.erase (0x0603, (q.val : Int)) else h.lko.raised) ∧
       ∀ j : PathId, t.hw.path j = if j / 4 = q.val then { h.path j with
         fem := { (h.path j).fem with couplerSel := decide (j.val = n) } } else h.path j) ∧
     (o.onCal = true → (h.quad q).calSel = 2 → exec (.couplerSettleDone dt q) s = .next { s with hw := { h with
       quads := updN h.quads q fun x => { x with calSel := 3 } } }) ∧
     (cal → ∃ t, exec (.couplerSelectDone dt q false) s = .next t ∧ t.pending = s.pending ∧ t.mem = s.mem ∧
       t.hw = ({ h with quads := t.hw.quads, paths := updN h.paths n fun p => { p with calTx := { p.calTx with obsSelect := true } } } : Hw).told
         t.hw ∧ (t.hw.quad q).obs = { o with selFail := min (2 ^ 32 - 1) (o.selFail + 1) } ∧ t.hw.newest 0x0602 n) ∧
     (¬ (o.onCal = true ∧ (h.quad q).calSel = 2) → o.state = 2 → exec (.couplerSettleDone dt q) s = .next { s with hw := { h with
       quads := updN h.quads q fun x => { x with obs := { x.obs with state := 3 } } } }) ∧
     (¬ cal → o.state = 1 → (∀ i < 4, h.obsEligible q i = true → i = o.cur ∨ o.failed.testBit i = true) →
       ∃ t, exec (.couplerSelectDone dt q false) s = .next t ∧ t.pending = s.pending ∧ t.mem = s.mem ∧
         t.hw = ({ h with quads := t.hw.quads } : Hw).told t.hw ∧ (∀ j : QuadId, j ≠ q → t.hw.quad j = h.quad j) ∧
         (t.hw.quad q).obs = { o with state := 0, lost := true, failed := o.failed ||| 2 ^ o.cur, selFail := min (2 ^ 32 - 1) (o.selFail + 1) } ∧
         (0x0602, (n : Int), false) ∈ (t.hw.lko.log.map fun e => (e.code, e.arg, e.cease)) ∧ (0x0603, (q.val : Int)) ∈ t.hw.lko.raised)) ∧
  (∀ (s : State) (dt : Nat) (q : QuadId) (adc : List (Int × Bool)) (sl : Slot), s.hw.Settled →
     let h := s.hw.elapse dt
     let o := (h.quad q).obs
     let n := 4 * q.val + o.cur
     let slot := o.observed % (o.bufSlots + 1)
     let a := o.base / 16 * 16 + slot * 49184
     let first := Dsp.firstAt 1474560000 h.tim.tickC
     let x := Hw.run4096 (Dsp.quant (h.trimmed n)) first
     let u := Hw.run4096 (Dsp.quant (h.shaped n)) first
     let seen := h.obsStream q adc h.tim.tickC
     let y := Hw.run4096 seen first
     let ovr := (List.range 4096).any fun j => (seen (first + j : Nat)).flag
     let weak := h.trl.trip = true ∨ 1000 * Hw.energy x < 4096 * 32767 * 32767
     let bytes := fun (z : IQ) => le 2 (code 16 z.i) ++ le 2 (code 16 z.q)
     o.state = 3 → o.granted = true → o.enable = true → h.tim.open_ = true → h.slotNow = some sl → h.tddCode sl q h.tim.k = 1 →
     (weak → exec (.obsRecordWritten dt q adc) s = .next { s with hw := { h with
       quads := updN h.quads q fun x => { x with obs := { x.obs with granted := false, skipped := min (2 ^ 32 - 1) (o.skipped + 1) } } } }) ∧
     (¬ weak → 0x20000000 ≤ a → a + 49184 ≤ 0x21000000 → s.mem.bad = [] →
       ∃ t, exec (.obsRecordWritten dt q adc) s = .next t ∧ t.pending = s.pending ∧
         ({ h with quads := updN h.quads q fun x => { x with obs := { x.obs with
           granted := false, observed := o.observed + 1, slot := slot, symbols := min (2 ^ 48 - 1) (o.symbols + 1), ovrLast := ovr
           ovr := if ovr then min (2 ^ 32 - 1) (o.ovr + 1) else o.ovr } } } : Hw).pulsed t.hw (32 + q.val) ∧
         (∀ b : Nat, (b < a ∨ a + 49184 ≤ b) → t.mem.get b = s.mem.get b) ∧
         (∀ i < 4096, t.mem.read (a + 32 + 12 * i) 12 =
           bytes (x.getD i ⟨0, 0⟩) ++ bytes (u.getD i ⟨0, 0⟩) ++ bytes (y.getD i ⟨0, 0⟩)) ∧
         t.mem.read a 4 = le 4 (h.tim.k % 2 ^ 32) ∧ t.mem.read (a + 4) 1 = le 1 n ∧
         t.mem.read (a + 6) 1 = le 1 ((if ovr then 1 else 0) + 2 * if (h.path n).dpd.settling then 1 else 0))) ∧
  (∀ (s : State) (dt : Nat) (q : QuadId), s.hw.Settled → 5 ≤ s.hw.sta.stage →
     let h := s.hw.elapse dt
     let o := (h.quad q).obs
     let able := fun (i : Nat) => i < 4 ∧ h.obsEligible q i = true
     let above := fun (i : Nat) => able i ∧ o.cur < i ∧ o.failed.testBit i = false
     (o.state = 1 ∨ o.state = 2 ∨ o.state = 3) → o.onCal = false → h.obsServes = true →
     ∃ t, exec (.roundDone dt q) s = .next t ∧ t.pending = s.pending ∧ t.mem = s.mem ∧
       t.hw = { h with
         quads := updN h.quads q fun x => { x with busQueue := (t.hw.quad q).busQueue, obs := (t.hw.quad q).obs }
         paths := updN h.paths (4 * q + o.cur) fun p => { p with dpd := { p.dpd with
           goodRounds := if 2 ≤ p.dpd.goodRounds then 2 else if p.dpd.rated = true ∧ p.dpd.nmse ≤ -3500 then p.dpd.goodRounds + 1 else 0
           rated := false, asked := false, badRounds := if p.dpd.asked then 0 else p.dpd.badRounds + 1 } } } ∧
       (∀ j, above j → (∀ i, above i → j ≤ i) → (t.hw.quad q).obs = { o with cur := j, state := 1 } ∧ (1, 4 * q.val + j) ∈ (t.hw.quad q).busQueue) ∧
       ((∀ i, ¬ above i) → ∀ j, able j → (∀ i, able i → j ≤ i) →
         (t.hw.quad q).obs = { o with cur := j, state := 1, failed := 0 } ∧ (1, 4 * q.val + j) ∈ (t.hw.quad q).busQueue) ∧
       ((∀ i, ¬ able i) → (t.hw.quad q).obs = { o with state := 0, failed := 0 }))

/-- Writes of predistorter banks (R146, R147, R148, R149): a running engine's write of an entry of the shadow window changes that entry of
the shadow
bank and no other, gives its bytes sound parity (R150), and notes the DPD_ADAPT quantum that makes it, as a switch request does; while
SHADOW_READY is 0 or a switch is pending it is dropped and counted, as is every write to the active
window; when the copy of the active bank has ended SHADOW_READY is 1. LOAD_INIT after three rounds in a row without a switch raises
DPD_DIVERGED (R159; the model's reading, log 81). -/
def Obligations.DpdBankWrites : Prop :=
  ∀ (s : State) (dt : Nat) (e : EngId) (n : PathId) (table : Fin 24) (entry : Fin 256) (value : Word), s.hw.Settled → 5 ≤ s.hw.sta.stage →
    let h := s.hw.elapse dt
    let d := (h.path n).dpd
    let key := table.val * 256 + entry.val
    let set_ := fun (y : Dpd) => { s with hw := { h with paths := updN h.paths n fun p => { p with dpd := y } } }
    let quantum := match (h.eng e).job with
      | some j => if j.w0.toNat % 65536 = 0x0100 then [16 * e.val + j.w0.toNat / 65536 % 256 % 16] else []
      | none => []
    let noted := fun (l : List Nat) => quantum ++ l.filter fun x => !quantum.contains x
    let asker := if quantum = [] then [256] else quantum
    let dropped := set_ { d with dropped := min (2 ^ 32 - 1) (d.dropped + 1) }
    ((h.eng e).state = 1 → d.shadowReady = true → d.switchPending = false →
      ∃ t, exec (.dpdShadowWrite dt e n table entry value) s = .next t ∧
        t = set_ { d with
          bank0 := (t.hw.path n).dpd.bank0, bank1 := (t.hw.path n).dpd.bank1, writers := noted d.writers
          badPar := d.badPar.filter fun x => !(x.1 != d.active && x.2 / 4 == key) } ∧
        (if d.active then (t.hw.path n).dpd.bank1 = d.bank1 else (t.hw.path n).dpd.bank0 = d.bank0) ∧
        (∀ k, (assoc k (if d.active then (t.hw.path n).dpd.bank0 else (t.hw.path n).dpd.bank1)).getD 0 =
          if k = key then value else (assoc k (if d.active then d.bank0 else d.bank1)).getD 0)) ∧
    ((h.eng e).state = 1 → d.shadowReady = false ∨ d.switchPending = true →
      exec (.dpdShadowWrite dt e n table entry value) s = .next dropped) ∧
    exec (.dpdActiveWrite dt n table entry value) s = .next dropped ∧
    exec (.dpdBankCopyDone dt n) s = .next (set_ { d with shadowReady := true }) ∧
    ((h.eng e).state = 1 → exec (.dpdSwitchRequest dt e n) s = .next (set_ { d with
      switchPending := true, asked := true
      posters := asker ++ d.posters.filter fun x => !asker.contains x })) ∧
    (let o := (h.quad (n / 4)).obs
     let now := o.state = 3 ∧ o.cur = n % 4 ∧ d.asked = false
     let rounds := d.badRounds + if now then 1 else 0
     let loads := set_ { d with loadPending := true, badRounds := 0, asked := d.asked || decide now }
     ((h.eng e).state = 1 → rounds < 3 → exec (.dpdLoadInit dt e n) s = .next loads) ∧
     ((h.eng e).state = 1 → 3 ≤ rounds →
       ∃ t, exec (.dpdLoadInit dt e n) s = .next t ∧ t.pending = s.pending ∧ t.mem = s.mem ∧ t.hw = loads.hw.told t.hw ∧ t.hw.newest 0x0604 n))

/-- ENG registers that take effect on the next tick (R115, R225, R343, R346, R349), from S5 on: a written tone waits as PENDING; a
written class limit, route or statistics offer waits for the tick; TOR_EVSEL names its line at once and loses its pending bit. That writes
count from S5 on is the model's choice (log 47).
A running engine's store of a word to an observation register changes its ENG fields (R349, R394): to TRL_CLASS_LIMIT[c],
TOR_ROUTE_DPD[q], TOR_STAT_OFFER[u] and DPD_OBS_BUF[q] at their addresses it writes those; to a register of SYS_, IMG_ or STA_, which have
no ENG field, it changes nothing. That element 1 of the class limits lies first is the model's reading (log 36). -/
def Obligations.EngineRegisters : Prop :=
  (∀ (s : State) (dt : Nat), s.hw.Settled → 5 ≤ s.hw.sta.stage →
     let h := s.hw.elapse dt
     (∀ (n : PathId) (w : Word) (f : BitVec 48),
       exec (.toneWrite dt n (some w) (some f)) s = .next { s with hw := { h with paths := updN h.paths n fun p => { p with
         tone := { p.tone with nextCfg := some (w &&& 0xFFFF0003), nextFtw := some f } } } } ∧
       exec (.toneWrite dt n (some w) none) s = .next { s with hw := { h with paths := updN h.paths n fun p => { p with
         tone := { p.tone with nextCfg := some (w &&& 0xFFFF0003) } } } }) ∧
     (∀ (c : Fin 5) (v : Byte), exec (.trlClassLimitWrite dt c v) s = .next { s with hw := { h with trl := { h.trl with
       classNext := updN h.trl.classNext c fun _ => some v.toNat } } }) ∧
     (∀ (i : Fin 16) (e : EngId),
       (i.val < 4 → exec (.torRouteWrite dt true i e) s = .next { s with hw := { h with crn := { h.crn with
         routeNext := updN h.crn.routeNext i fun _ => some e } } }) ∧
       exec (.torRouteWrite dt false i e) s = .next { s with hw := { h with quads := updN h.quads i fun x => { x with routeNext := some e } } }) ∧
     (∀ (e : EngId) (v : Byte), exec (.torStatOfferWrite dt e v) s = .next { s with hw := { h with
       tor := updN h.tor e fun x => { x with statNext := some v.toNat } } }) ∧
     (∀ (e : EngId) (k : Fin 8) (line : Byte) (en : Bool), exec (.torEvselWrite dt e k line en) s = .next { s with hw := { h with
       tor := updN h.tor e fun x => { x with ev := updN x.ev k fun _ => { line := line.toNat, enable := en, pending := false } } } })) ∧
  (∀ (s : State) (dt : Nat) (e : EngId) (v : Word), s.hw.Settled → 5 ≤ s.hw.sta.stage → (s.hw.eng e).state = 1 →
     let h := s.hw.elapse dt
     (∀ c : Fin 5, exec (.engRegisterWrite dt e (BitVec.ofNat 32 (0x80240060 + 4 * c.val)) v) s =
       .next { s with hw := { h with trl := { h.trl with classNext := updN h.trl.classNext c fun _ => some (v.toNat % 256) } } }) ∧
     (∀ q : QuadId, exec (.engRegisterWrite dt e (BitVec.ofNat 32 (0x80400300 + 4 * q.val)) v) s =
       .next { s with hw := { h with quads := updN h.quads q fun x => { x with routeNext := some (Fin.ofNat 16 v.toNat) } } }) ∧
     (∀ u : EngId, exec (.engRegisterWrite dt e (BitVec.ofNat 32 (0x804002C0 + 4 * u.val)) v) s =
       .next { s with hw := { h with tor := updN h.tor u fun x => { x with statNext := some (v.toNat % 256) } } }) ∧
     (∀ q : QuadId, exec (.engRegisterWrite dt e (BitVec.ofNat 32 (0x80180340 + 4 * q.val)) v) s =
       .next { s with hw := { h with quads := updN h.quads q fun x => { x with obs := { x.obs with base := v.toNat } } } }) ∧
     (∀ a : Word, a.toNat % 4 = 0 → 0x80000000 ≤ a.toNat → a.toNat < 0x800C0000 → exec (.engRegisterWrite dt e a v) s = .next { s with hw := h }))

/-- DMA_CNT_STATUS[ch] as Lookout reads it (R372): bits 0, 1 and 2 say whether DMA_LISTS, DMA_ERRORS and DMA_BYTES of the channel are
saturated, and the other bits read zero; that a counter at its maximum counts as saturated is the model's reading (log 15). -/
def Obligations.DmaCountStatus : Prop :=
  ∀ (h : Hw) (m : Mem) (c : ChId),
    let d := h.ch c
    unle (h.spaceBytes m (0x80440500 + 4 * c.val) 4) =
      (if d.lists = 2 ^ 32 - 1 then 1 else 0) + (if d.errors = 2 ^ 32 - 1 then 2 else 0) + (if d.bytes = 2 ^ 48 - 1 then 4 else 0)

/-- DMA channels as engines drive them (R366, R368, R369, R370): COMMIT and RECOVER, from S5 on; an IDLE channel that finds COMMIT set takes
its shadow set whole in an open window (R23), clears COMMIT and runs, bound to that window, without a pulse, from the next cycle on: COMMIT
and the set count as they stood at the cycle's start, and a COMMIT of the cycle itself stays for the next hand-over; RECOVER moves ERROR to
IDLE and nothing else, CAUSE and the address stay. A channel still RUNNING at the closing tick of its window ends in ERROR with cause WINDOW
at the first byte not yet issued, counted, and EV192 + ch pulses; with bursts in flight it first lets them complete.
Bursts of DMA in an open window (R23, R364, R365, R366, R368, Table 16.10): in one cc one burst is issued, by the waiting channel of
highest priority, within a priority the first after the one granted last there; an entry that comes into use is read then, and stands as
read
until its last byte has been issued; a burst takes min(64, bytes left in either entry) bytes, read from the source as it stands. Its
response
writes them to the destination and no other byte, and counts them; the last one ends the list: counted, EV160 + ch, and the shadow set taken
over where COMMIT was set at the cycle's start. A response that erred writes nothing, and its entries are shown; after the last one the
channel is in ERROR with the cause and the address, EV192 + ch pulses in place of the completion, and COMMIT keeps its value. -/
def Obligations.DmaTransfers : Prop :=
  (∀ (s : State) (dt : Nat) (c : ChId), s.hw.Settled →
     let h := s.hw.elapse dt
     let d := h.ch c
     let set_ := fun (x : Dma) => { h with dma := updN h.dma c fun _ => x }
     let now := h.sta.since
     let this := d.cycle = some now
     let begun := if this then d else { d with cycle := some now, sh0 := d.sh, commit0 := d.commit, asked := false, stores := [] }
     let asked := decide this && d.asked
     (5 ≤ h.sta.stage →
       exec (.dmaCommit dt c) s = .next { s with hw := set_ { begun with commit := true, asked := true } } ∧
       exec (.dmaRecover dt c) s = .next { s with hw := if d.state = 2 then set_ { d with state := 0, moved := some now } else h }) ∧
     (h.tim.open_ = true → d.state = 0 → d.moved ≠ some now → begun.commit0 = true →
       exec (.dmaIdleHandover dt c) s = .next { s with hw := set_ { d with
         act := if this then d.sh0 else d.sh, commit := asked, state := 1, srcEntry := 0, dstEntry := 0, srcOff := 0, dstOff := 0, issued := false
         srcNow := none, dstNow := none, srcNext := 0, flight := [], failing := none, window := h.tim.k, moved := some now
         by_ := d.nextBy, nextBy := if asked then d.nextBy else [] } }) ∧
     (d.state = 1 → d.failing = none → d.issued = false → h.tim.open_ = true → (d.window < h.tim.k ∨ h.tickAt (d.window + 1) ≤ h.tim.c) →
       s.mem.bad = [] → ∀ first : Nat,
       (let list := d.act.src + 8 * d.srcEntry
        let a := unle (s.mem.read list 4)
        let n := unle (s.mem.read (list + 4) 4)
        (∃ sl, d.srcNow = some (first - d.srcOff, sl)) ∧ d.srcOff ≤ first ∨
          d.srcNow = none ∧ d.act.src % 16 = 0 ∧ 0x20000000 ≤ d.act.src ∧ d.act.src + 8 * d.act.srcCount ≤ 0x21000000 ∧
            d.srcEntry < d.act.srcCount ∧ a % 16 = 0 ∧ n % 16 = 0 ∧ 0 < n ∧ first = a) →
       (d.flight ≠ [] → exec (.dmaWindowExpiry dt c) s = .next { s with hw := set_ { d with failing := some (5, first) } }) ∧
       (d.flight = [] → ∃ t, exec (.dmaWindowExpiry dt c) s = .next t ∧ t.pending = s.pending ∧ t.mem = s.mem ∧
         (set_ { d with state := 2, cause := 5, errAddr := first, errors := min (2 ^ 32 - 1) (d.errors + 1) }).pulsed t.hw (192 + c.val)))) ∧
  (∀ (s : State) (dt : Nat) (c : ChId), s.hw.Settled → s.mem.wf = true → s.mem.bad = [] →
     let h := s.hw.elapse dt
     let d := h.ch c
     let now := h.sta.since
     let set_ := fun (x : Dma) => { h with dma := updN h.dma c fun _ => x }
     let word := fun (a : Nat) => unle (s.mem.read a 4)
     let waits := fun (x : Dma) =>
       h.tim.open_ = true ∧ x.state = 1 ∧ x.failing = none ∧ x.issued = false ∧ x.flight.length < 8 ∧ x.moved ≠ some now
     let shared := fun (a n : Nat) => 0x20000000 ≤ a ∧ a + n ≤ 0x21000000
     let last := fun (p : Nat) => getN h.dmaLast p 31
     (h.dmaAt ≠ some now → waits d → d.act.prio < 4 → last d.act.prio < 32 →
       (∀ x : ChId, x ≠ c → waits (h.ch x) →
         ((h.ch x).srcNow.isSome = true ∧ (h.ch x).dstNow.isSome = true ∧ (h.ch x).srcEntry < (h.ch x).act.srcCount ∧
           (h.ch x).dstEntry < (h.ch x).act.dstCount) ∧
         ((h.ch x).act.prio < d.act.prio ∨
           (h.ch x).act.prio = d.act.prio ∧ (c.val + 31 - last d.act.prio) % 32 < (x.val + 31 - last d.act.prio) % 32)) →
       d.srcEntry < d.act.srcCount → d.dstEntry < d.act.dstCount →
       let listed := fun (list count i : Nat) => list % 16 = 0 ∧ shared list (8 * count) ∧ word (list + 8 * i) % 16 = 0 ∧
         word (list + 8 * i + 4) % 16 = 0 ∧ 0 < word (list + 8 * i + 4)
       (d.srcNow = none → listed d.act.src d.act.srcCount d.srcEntry) → (d.dstNow = none → listed d.act.dst d.act.dstCount d.dstEntry) →
       let x := d.srcNow.getD (word (d.act.src + 8 * d.srcEntry), word (d.act.src + 8 * d.srcEntry + 4))
       let y := d.dstNow.getD (word (d.act.dst + 8 * d.dstEntry), word (d.act.dst + 8 * d.dstEntry + 4))
       shared x.1 x.2 → shared y.1 y.2 → d.srcOff < x.2 → d.dstOff < y.2 →
       let n := min 64 (min (x.2 - d.srcOff) (y.2 - d.dstOff))
       let sEnd := d.srcOff + n = x.2
       let dEnd := d.dstOff + n = y.2
       let se := if sEnd then d.srcEntry + 1 else d.srcEntry
       let de := if dEnd then d.dstEntry + 1 else d.dstEntry
       exec (.dmaBurst dt) s = .next { s with hw := { set_ { d with
         flight := d.flight ++ [{
           src := x.1 + d.srcOff, dst := y.1 + d.dstOff, data := s.mem.read (x.1 + d.srcOff) n, err := none
           srcEntry := d.srcEntry, dstEntry := d.dstEntry }]
         srcNow := if sEnd then none else some x, dstNow := if dEnd then none else some y, srcNext := x.1 + d.srcOff + n
         srcEntry := se, dstEntry := de, srcOff := if sEnd then 0 else d.srcOff + n, dstOff := if dEnd then 0 else d.dstOff + n
         issued := decide (se = d.act.srcCount) && decide (de = d.act.dstCount) } with
         dmaLast := updN h.dmaLast d.act.prio fun _ => c.val, dmaAt := some now } }) ∧
     (h.dmaAt = some now → exec (.dmaBurst dt) s = .next { s with hw := h }) ∧
     (∀ b r, d.flight = b :: r → d.state = 1 → d.failing = none →
       let bytes := min (2 ^ 48 - 1) (d.bytes + b.data.length)
       let written := fun (t : State) => (∀ a, (a < b.dst ∨ b.dst + b.data.length ≤ a) → t.mem.get a = s.mem.get a) ∧
         ∀ i < b.data.length, t.mem.get (b.dst + i) = b.data.getD i 0
       let this := d.cycle = some now
       let asked := decide this && d.asked
       let met := fun (e : Nat × Nat) => { d with flight := r, failing := some e, srcEntry := b.srcEntry, dstEntry := b.dstEntry }
       (b.err = none → shared b.dst b.data.length → ¬ (r = [] ∧ d.issued = true) → ∃ t, exec (.dmaResponse dt c) s = .next t ∧
         t.pending = s.pending ∧ written t ∧ t.hw = set_ { d with flight := r, bytes := bytes }) ∧
       (b.err = none → shared b.dst b.data.length → r = [] → d.issued = true → ∃ t, exec (.dmaResponse dt c) s = .next t ∧
         t.pending = s.pending ∧ written t ∧
         (set_ (if (if this then d.commit0 else d.commit) = true ∧ h.tim.open_ = true then
             { d with
               act := if this then d.sh0 else d.sh, commit := asked, srcEntry := 0, dstEntry := 0, srcOff := 0, dstOff := 0, issued := false
               srcNow := none, dstNow := none, srcNext := 0, window := h.tim.k, moved := some now, by_ := d.nextBy
               nextBy := if asked then d.nextBy else [], flight := [], bytes := bytes, lists := min (2 ^ 32 - 1) (d.lists + 1) }
           else { d with state := 0, moved := some now, flight := [], bytes := bytes, lists := min (2 ^ 32 - 1) (d.lists + 1) })).pulsed
             t.hw (160 + c.val)) ∧
       (∀ e, b.err = some e → r ≠ [] → exec (.dmaResponse dt c) s = .next { s with hw := set_ (met e) }) ∧
       (∀ e, b.err = some e → r = [] → ∃ t, exec (.dmaResponse dt c) s = .next t ∧ t.pending = s.pending ∧ t.mem = s.mem ∧
         (set_ { met e with
           failing := none, state := 2, cause := e.1, errAddr := e.2, errors := min (2 ^ 32 - 1) (d.errors + 1) }).pulsed t.hw (192 + c.val))))

/-- The Lookout port and JTAG, from S1 on (R30, R391, R392, R395, Table 18.1): READ gives bytes from the address upward and is counted,
zeros and BAD_ADDR at an address that is no multiple of 4, a zero and BAD_ADDR for a byte of no mapped region; STATUS gives the low
byte of LKO_STATUS again and again; any other first byte is ignored and counted; IDCODE puts the device's code on TDO. Nothing else
of the block changes. -/
def Obligations.LookoutPort : Prop :=
  ∀ (s : State) (dt n : Nat), s.hw.Settled → 1 ≤ s.hw.sta.stage →
    let h := s.hw.elapse dt
    let set_ := fun (l : Lko) => { s with hw := { h with lko := l } }
    let got := fun (bad : Bool) (b : Bytes) => { h.lko with badAddr := bad, spiReads := min (2 ^ 32 - 1) (h.lko.spiReads + 1), sdo := b }
    (∀ a : Word, a.toNat % 4 ≠ 0 → exec (.lookoutRead dt a n) s = .next (set_ (got true (List.replicate n 0)))) ∧
    (∀ a : Word, a.toNat % 4 = 0 → 0x20000000 ≤ a.toNat → a.toNat + n ≤ 0x21000000 → s.mem.bad = [] →
      exec (.lookoutRead dt a n) s = .next (set_ (got false ((List.range n).map fun i => s.mem.get (a.toNat + i))))) ∧
    (∀ a : Word, a.toNat % 4 = 0 → 0x50000000 ≤ a.toNat → a.toNat + n ≤ 0x80000000 → 0 < n →
      exec (.lookoutRead dt a n) s = .next (set_ (got true (List.replicate n 0)))) ∧
    exec (.lookoutRead dt 0x8050000C 4) s = .next (set_ (got false (le 4 h.lko.spiReads))) ∧
    exec (.lookoutStatus dt n) s = .next (set_ { h.lko with
      sdo := List.replicate n (BitVec.ofNat 8 (1 + 2 * b2n h.lko.badAddr + 4 * b2n h.tim.stepped)) }) ∧
    (∀ op : Byte, op ≠ 0x0B → op ≠ 0x05 → exec (.lookoutUnknownOpcode dt op) s = .next (set_ { h.lko with
      spiRefused := min (2 ^ 32 - 1) (h.lko.spiRefused + 1), sdo := [] })) ∧
    exec (.jtagAccess dt true) s = .next { s with hw := { h with pins := { h.pins with tdo := Config.idcode.toNat } } }

/-- The thermal trip (R228, Table 10.9): the first reading of 125 °C or more, from S1 on, begins the trip: TRL_TRIPS advances, every PAEN
goes low,
what is on air is lost and counted, and TRL_TRIP is raised with the sensor as argument. A trip that holds is not begun again. -/
def Obligations.ThermalTrip : Prop :=
  ∀ (s : State) (dt : Nat) (sensor : Fin 32) (temp : Int), s.hw.Settled → 1 ≤ s.hw.sta.stage → 1250 ≤ temp →
    let h := s.hw.elapse dt
    let read := updN h.trl.sensors sensor fun _ => some temp
    (h.trl.trip = true → exec (.thermalTrip dt sensor temp) s = .next { s with hw := { h with
      trl := { h.trl with sensors := read, tripHot := true } } }) ∧
    (h.trl.trip = false → ∃ t, exec (.thermalTrip dt sensor temp) s = .next t ∧ t.pending = s.pending ∧ t.mem = s.mem ∧
      t.hw = ({ h with
        paths := t.hw.paths, out := { h.out with air := h.out.air.map fun a => { a with lost := true } }
        trl := { h.trl with
          sensors := read, tripHot := true, trip := true, tripSensor := sensor.val, tripTick := if h.tim.open_ then h.tim.k else 0
          tripFrom := h.sta.since, trips := min (2 ^ 32 - 1) (h.trl.trips + 1)
          tripLost := min (2 ^ 32 - 1) (h.trl.tripLost + (h.out.air.filter fun a => !a.lost).length) } } : Hw).told t.hw ∧
      (∀ n : PathId, t.hw.path n =
        let p := h.path n
        let paenFor := if p.paen then p.fem.paenCc + (h.sta.since - p.fem.paenFrom) else p.fem.paenCc
        { p with
          paen := false, paenMoved := p.paenMoved || p.paen, mutedTrip := true
          fem := { p.fem with paenCc := paenFor, paenFrom := h.sta.since } }) ∧
      ((0x0901, (sensor.val : Int)) ∉ h.lko.raised → t.hw.newest 0x0901 sensor.val) ∧ (0x0901, (sensor.val : Int)) ∈ t.hw.lko.raised)

/-- Collection quanta of a run (R235, R238): a receive quantum with a flagged sample in a path of P_cal is discarded and counted; another
adds its covariances and codes to the sums and 2,048 samples to every path of P_cal, and changes no other path. A transmit symbol of the
path observed adds 4,096 samples and its correlations where its power is at least TX_ENERGY_FLOOR and no observed sample was over range; a
weaker one, and one during a thermal trip (Table 11.4), marks the path's energy low. The grant is used up; collection goes on while a path
of the side lacks MIN_SAMPLES, and the quad's rotation selects the next one. That only a settled quad observes, and that the next path is
selected and put on the bus at once, is the model's reading (logs 61, 106). -/
def Obligations.CalCollection : Prop :=
  ∀ (s : State) (dt : Nat) (r : Run), s.hw.Settled → s.hw.tim.open_ = true → s.hw.cal.run = some r → r.started = true → s.hw.cal.state = 2 →
    let h := s.hw.elapse dt
    let used := fun (u : Nat) => { h.trl with grants := h.trl.grants.erase { window := h.tim.k, cls := 2, unit := u } }
    let granted := fun (u : Nat) => ({ window := h.tim.k, cls := 2, unit := u } : Grant) ∈ h.trl.grants
    let min_ := h.image.calLimits.minSamples
    let adds := fun (k : Nat) (power : Int) (c d : CalPath) =>
      d = { c with samples := min (2 ^ 32 - 1) (c.samples + k), powerSum := c.powerSum + Config.linear power, quanta := c.quanta + 1
                   powerMin := d.powerMin, powerMax := d.powerMax } ∧ d.powerMin ≤ power ∧ power ≤ d.powerMax
    (r.target ≠ 1 → r.rxDone = false → granted 0 →
      ∀ n₀ : PathId, (h.path n₀).calRx.inRun = true → (h.path n₀).calRx.samples + 2048 < min_ → (h.path n₀).calRx.samples + 2048 < 2 ^ 32 - 1 →
        ∃ t, exec (.calCollectQuantumDone dt .rx) s = .next t ∧ t.pending = s.pending ∧ t.mem = s.mem ∧
          if ∃ n : PathId, (h.path n).calRx.inRun = true ∧ h.monitorFlag n = true then
            t.hw = { h with trl := used 0, cal := { h.cal with ovrDiscarded := min (2 ^ 32 - 1) (h.cal.ovrDiscarded + 1) } }
          else
            t.hw = { h with trl := used 0, paths := t.hw.paths, cal := { h.cal with sums := h.sumsRx (h.pcal false) h.cal.sums } } ∧
            ∀ n : PathId, ((h.path n).calRx.inRun = false → t.hw.path n = h.path n) ∧
              ((h.path n).calRx.inRun = true → t.hw.path n = { h.path n with calRx := (t.hw.path n).calRx } ∧
                adds 2048 (h.meter n h.tim.tickC (h.winLen h.tim.k)) (h.path n).calRx (t.hw.path n).calRx)) ∧
    (r.target = 1 ∨ r.target = 2 → r.txDone = false → granted 1 → ∀ (q : QuadId) (adc : List (Int × Bool)) (n m : PathId),
      (∀ u : QuadId, (h.quad u).calSel = 4 ↔ u = q) → n.val = 4 * q.val + (h.quad q).calCur →
      m ≠ n → (h.path m).calTx.inRun = true → (h.path m).calTx.samples < min_ →
      let power := Hw.levelOver (h.compositeRun n) 32767
      let weak := h.trl.trip = true ∨ power < h.image.calLimits.txEnergyFloor
      let counts := ¬ weak ∧ h.observedFlag q adc = false
      ∃ t, exec (.calCollectQuantumDone dt (.tx [(q, adc)])) s = .next t ∧ t.pending = s.pending ∧ t.mem = s.mem ∧
        (∃ sums quads, t.hw = { h with trl := used 1, paths := t.hw.paths, quads := quads, cal := { h.cal with sums := sums } } ∧
          (counts → sums = h.sumsTx n adc h.cal.sums) ∧ (¬ counts → sums = h.cal.sums)) ∧
        (∀ u : QuadId, (u ≠ q → t.hw.quad u = h.quad u) ∧
          (u = q → match t.hw.calNextTx q with
            | none => t.hw.quad q = { h.quad q with calSel := 0 }
            | some j => (j / 4 = q.val ∧ t.hw.calWants j = true) ∧ (1, j) ∈ (t.hw.quad q).busQueue ∧
              t.hw.quad q = { h.quad q with calSel := 1, calCur := j % 4, busQueue := (t.hw.quad q).busQueue })) ∧
        ∀ j : PathId, (j ≠ n → t.hw.path j = h.path j) ∧
          (j = n → t.hw.path n = { h.path n with calTx := (t.hw.path n).calTx } ∧
            (weak → (t.hw.path n).calTx = { (h.path n).calTx with lowEnergy := true }) ∧
            (¬ weak → ¬ counts → (t.hw.path n).calTx = (h.path n).calTx) ∧
            (counts → adds 4096 power (h.path n).calTx (t.hw.path n).calTx)))

/-- The limit of collection (R234, R240, Table 11.3), 1,000 frames after TARGET_TICK, of a run with one side: a transmit path short of
samples
that had a symbol below the energy floor ends the run TX_ENERGY_LOW; a receive path short of samples, with the geometry sound, ends it
SAMPLES_SHORT: CAL_NOT_APPLIED is raised with TARGET × 256 + CAUSE, the run is over and the ADCs are released. Where every receive path
passes every check, no spread lies above SPREAD_MAX and no quad's temperature has drifted by more than 5 K, the run goes on to its solve.
The end of a receive run's solve (R241, R243): the solve gives each path of P_cal its delay in steps of 31.79 ps less the rounded
lateness, its gain by the factor that corrects the response, rounded, and its thresholds less the rounded offsets. Where every delay, gain
and threshold lies within its field, the commit is due on the first frame tick at or after k_s + 2, CAL_COMMIT_TICK holds it and
CAL_COMMIT_PENDING is raised with RUN_TAG; where one does not, the run ends CORRECTION_RANGE and no trim changes. -/
def Obligations.CalOutcome : Prop :=
  (∀ (s : State) (r : Run), s.hw.Settled → s.hw.cal.run = some r → r.started = true →
     r.tick + 1000 * s.hw.perFrame ≤ s.hw.tim.k →
     let h := { s.hw with out := { s.hw.out with events := [] } }
     let min_ := h.image.calLimits.minSamples
     let free := fun (x : Quad) => { x with calHeld := false, calTemp := none }
     let spread := fun (pol : Nat) => h.cal.sums.spread (h.polPaths pol)
     let ended := fun (tx : Bool) (cause : Nat) (t : State) => t.pending = s.pending ∧ t.mem = s.mem ∧
       t.hw = ({ h with paths := t.hw.paths, quads := h.calDrops.quads.map free, cal := { h.cal with
         run := none, state := 0, outcome := 2, cause := cause, adcHeld := false, notApplied := min (2 ^ 32 - 1) (h.cal.notApplied + 1)
         spread0 := if tx then h.cal.spread0 else spread 0, spread1 := if tx then h.cal.spread1 else spread 1 } } : Hw).told t.hw ∧
       t.hw.newest 0x0805 (r.target * 256 + cause : Nat) ∧ ∀ n : PathId, t.hw.path n = { h.path n with
         calRx := { (h.path n).calRx with fail := (t.hw.path n).calRx.fail }, calTx := { (h.path n).calTx with fail := (t.hw.path n).calTx.fail } }
     (r.target = 1 → r.txDone = false → (∀ n : PathId, (h.path n).calTx.inRun = true → (h.path n).calTx.obsSelect = false) →
       (∃ n : PathId, (h.path n).calTx.inRun = true ∧ (h.path n).calTx.samples < min_ ∧ (h.path n).calTx.lowEnergy = true) →
       ∃ t, exec (.calCollectLimit true) s = .next t ∧ ended true 6 t) ∧
     (r.target = 0 → r.rxDone = false → h.geometryFails = [] →
       (∃ n : PathId, (h.path n).calRx.inRun = true ∧ (h.path n).calRx.samples < min_) →
       ∃ t, exec (.calCollectLimit false) s = .next t ∧ ended false 4 t ∧
         ∀ n : PathId, (h.path n).calRx.inRun = true → (h.path n).calRx.samples < min_ → (t.hw.path n).calRx.fail.testBit 3 = true) ∧
     (r.target = 0 → r.rxDone = false → h.geometryFails = [] →
       (∀ n : PathId, (h.path n).calRx.inRun = true → min_ ≤ (h.path n).calRx.samples ∧
         (0 < (h.path n).calRx.quanta → h.image.calLimits.powerFloor ≤ Hw.meanPower (h.path n).calRx)) →
       (∀ (q : QuadId) lo hi, (h.quad q).calTemp = some (lo, hi) → hi - lo ≤ 50) →
       spread 0 ≤ h.image.calLimits.spreadMax → spread 1 ≤ h.image.calLimits.spreadMax →
       ∃ t, exec (.calCollectLimit false) s = .next t ∧ t.pending = s.pending ∧ t.mem = s.mem ∧
         t.hw = { h with paths := t.hw.paths, quads := h.quads.map free, cal := { h.cal with
           run := some { r with rxDone := true }, state := 3, adcHeld := false, spread0 := spread 0, spread1 := spread 1 } } ∧
         ∀ n : PathId, t.hw.path n = { h.path n with calRx := { (h.path n).calRx with fail := (t.hw.path n).calRx.fail } })) ∧
  (∀ (s : State) (dt : Nat) (r : Run), s.hw.Settled → s.hw.tim.open_ = true → s.hw.cal.run = some r → r.target = 0 →
     r.newRx = [] → r.newTx = [] → r.newObs = [] → s.hw.cal.state = 3 → r.solved + 1 = 120 * 2 ^ s.hw.scs →
     ({ window := s.hw.tim.k, cls := 2, unit := 2 } : Grant) ∈ s.hw.trl.grants →
     let h := s.hw.elapse dt
     let rx := h.solveRxOf (h.pcal false)
     let used := { h.trl with grants := h.trl.grants.erase { window := h.tim.k, cls := 2, unit := 2 } }
     let within := fun (lo hi v : Int) => lo ≤ v ∧ v ≤ hi
     let sound := fun (p : Solved) => within 0 1023 p.v ∧ within (-32768) 32767 p.gain.i ∧ within (-32768) 32767 p.gain.q ∧
       ∀ x ∈ p.thresh, within (-128) 127 x
     (∀ p ∈ rx, (h.path p.path).calRx.inRun = true ∧ ∃ l : List Resp,
       let t := (h.path p.path).rxTrim
       let c := Solve.factor h.midAlias l
       p.v = (t.int + 8) * 64 + t.tap - croundQ (Solve.late l * 100 / 3179) ∧
       p.gain = ⟨croundQ (t.gain.i * c.1 - t.gain.q * c.2), croundQ (t.gain.i * c.2 + t.gain.q * c.1)⟩ ∧
       p.thresh = (List.range 32).map fun i => t.th i - croundQ (Config.offset (histOf p.path h.cal.sums.hist) i)) ∧
     ((∀ p ∈ rx, sound p) →
       let kc := (h.tim.k + 3 + h.perFrame - 1) / h.perFrame * h.perFrame
       ∃ t, exec (.calSolveDone dt) s = .next t ∧ t.pending = s.pending ∧ t.mem = s.mem ∧
         t.hw = ({ h with trl := used, cal := { h.cal with
           state := 4, commitTick := kc % 2 ^ 32
           run := some { r with solved := r.solved + 1, commit := some kc, newRx := rx } } } : Hw).told t.hw ∧
         t.hw.newest 0x0803 (signed 16 r.tag) ∧ t.hw.lko.log.head?.map (·.extra) = some (kc % 2 ^ 32)) ∧
     ((∃ p ∈ rx, ¬ sound p) → ∃ t, exec (.calSolveDone dt) s = .next t ∧ t.pending = s.pending ∧ t.mem = s.mem ∧
       t.hw = ({ h with
         trl := used, paths := t.hw.paths, quads := h.calDrops.quads.map fun y => { y with calHeld := false, calTemp := none }
         cal := { h.cal with
           run := none, state := 0, outcome := 2, cause := 10, adcHeld := false
           notApplied := min (2 ^ 32 - 1) (h.cal.notApplied + 1) } } : Hw).told t.hw ∧
       t.hw.newest 0x0805 10 ∧ ∀ n : PathId, t.hw.path n = { h.path n with calRx := { (h.path n).calRx with fail := (t.hw.path n).calRx.fail } }))

/-- The write of the calibration record (R55, R59, R247, Table 18.9): erases of the two sectors at CAL_OFFSET, page programs of the
record's 256-byte pages and
the read-back follow one another, each erase and program after a write enable and before one status poll (that it is one is the model's
choice, log 88), the opcodes followed by their
complements in octal DTR; a read-back of 4,420 bytes with its CRC over the die's ID ends it with CAL_STATE 0 and CAL_STORED, and a wrong one
with CAL_STORE_FAIL 3; an operation busy 2 s after its issue ends it with CAL_STORE_FAIL 1 for an erase, 2 for a page. -/
def Obligations.CalRecordWrite : Prop :=
  ∀ (s : State) (dt : Nat) (b : Bytes), s.hw.Settled → s.hw.img.calWriteBusy = true → s.hw.sta.resetWait = false →
    s.hw.img.writes.length = 1 →
    let h := s.hw.elapse dt
    let record := h.img.writes.headD []
    let done_ := { h.img with writes := [], calWriteBusy := false, writeOp := 0, writeAt := h.sta.since }
    let sound := b.length = 4420 ∧ rd b 4416 4 = crc32 (le 16 h.sys.dieId.toNat ++ b.take 4416)
    let mode := h.img.busMode
    let op := fun (x : Byte) => if mode = 2 then [x, ~~~x] else [x]
    let change := fun (x : Byte) (a : Nat) (data : Bytes) =>
      [({ op := op 0x06 } : NvmCmd), { op := op x, addr := some a, data := data }, { op := op 0x05, dummy := h.img.dummyStatus, len := 1 }]
    let page := fun (j : Nat) => 256 * (j - 2)
    let left := (h.img.density.getD 0) - h.image.calOffset
    let issue := fun (j : Nat) =>
      if j < 2 then change 0x21 (h.image.calOffset + 4096 * j) []
      else if j < 20 then change 0x12 (h.image.calOffset + page j) ((record.drop (page j)).take 256)
      else if min record.length left = 0 then []
      else [{ op := op (if mode = 0 then 0x13 else if mode = 1 then 0xEC else 0xEE), addr := some h.image.calOffset
              dummy := h.img.dummyRead, len := min record.length left }]
    (h.img.writeOp < 20 → exec (.nvmOpDone dt b) s = .next { s with hw := { h with
      img := { h.img with writeOp := h.img.writeOp + 1, writeAt := h.sta.since }
      out := { h.out with nvm := h.out.nvm ++ issue (h.img.writeOp + 1) } } }) ∧
    (20 ≤ h.img.writeOp → sound → ∃ t, exec (.nvmOpDone dt b) s = .next t ∧ t.pending = s.pending ∧ t.mem = s.mem ∧
      t.hw = ({ h with img := { done_ with calState := 0 }, cal := { h.cal with stores := min (2 ^ 32 - 1) (h.cal.stores + 1) } } : Hw).told t.hw ∧
      t.hw.newest 0x0806 (signed 16 (rd record 24 4))) ∧
    (20 ≤ h.img.writeOp → ¬ sound → ∃ t, exec (.nvmOpDone dt b) s = .next t ∧ t.pending = s.pending ∧ t.mem = s.mem ∧
      t.hw = ({ h with img := done_ } : Hw).told t.hw ∧ t.hw.newest 0x0802 3) ∧
    (h.img.writeOp < 20 → h.img.writeAt + 2 * 983040000 ≤ h.sta.since → ∃ t, exec (.nvmWriteFail dt) s = .next t ∧ t.pending = s.pending ∧
      t.mem = s.mem ∧ t.hw = ({ h with img := done_ } : Hw).told t.hw ∧ t.hw.newest 0x0802 (if h.img.writeOp < 2 then 1 else 2))

/-- The message checks of a record on the command channel (R66, R182, R188, R201, R205): before slot 7 is announced the record is refused
MODE_FORBIDS and nothing else is checked; then a header that breaks R182 is MALFORMED; a number used before is DUPLICATE; a number
ahead is counted in FHL_SEQ_GAP and becomes the last used, one behind in FHL_REORDER; it stays used where the layout is MALFORMED. -/
def Obligations.MessageChecks : Prop :=
  ∀ (s : State) (dt slot : Nat) (m : MsgHdr), s.hw.Settled →
    let h := s.hw.elapse dt
    let q := getN h.fhl.seqs 128 {}
    let n := m.seq % 256
    let d := (n + 256 - q.next) % 256
    5 ≤ h.sta.stage → (h.port m.port).linkUp = true → m.port = 0 → m.msgType = 2 → m.layout = [(0x20, 8, 0)] →
    let answers := fun (reason idx typ : Nat) (seqs : Vector SeqState 129) => ∃ t, exec (.modeSelect dt m 0 slot) s = .next t ∧
      t.pending = s.pending ∧ t.mem = s.mem ∧ h.refused t.hw m reason 0xFFFF 0xFF idx typ ∧ t.hw.fhl.seqs = seqs
    (h.sta.k7 = none → answers 10 0 0x20 h.fhl.seqs) ∧
    (h.sta.k7.isSome = true → (m.revision ≠ 1 ∨ m.reserved ≠ 0 ∨ m.concat = true ∨ m.avail < m.size ∨ m.size < 12) → answers 8 0xFF 0 h.fhl.seqs) ∧
    (h.sta.k7.isSome = true → m.revision = 1 → m.reserved = 0 → m.concat = false → 12 ≤ m.size → m.size ≤ m.avail → m.pcId = 0xFFFF →
      m.flowId = 0xFF →
      (m.seqE ≠ 0x80 → answers 8 0xFF 0 h.fhl.seqs) ∧
      (m.seqE = 0x80 → h.fromHead m = false →
        (q.synced = true → 128 ≤ d → n ∈ q.seen → answers 7 0xFF 0 h.fhl.seqs) ∧
        (q.synced = true → 128 ≤ d → n ∉ q.seen → m.records ≠ 1 → answers 8 0xFF 0
          (updN h.fhl.seqs 128 fun q => { q with reorder := min (2 ^ 32 - 1) (q.reorder + 1), seen := n :: q.seen })) ∧
        (q.synced = true → d < 128 → m.records ≠ 1 → ∃ seen, answers 8 0xFF 0
          (updN h.fhl.seqs 128 fun q => { q with gap := min (2 ^ 32 - 1) (q.gap + d), next := (n + 1) % 256, seen := seen }) ∧ n ∈ seen ∧
            ∀ x < 256, x ∈ seen ↔ x = n ∨ x ∈ q.seen ∧ d ≤ (x + 256 - q.next) % 256)))

/-- MODE_SELECT (R29, R66, R202): for a frame tick for which none is accepted, whose lead is at least the largest EARLY_LIMIT and a normal
window and at most 2,000 ms, and for a slot of the image, it is accepted in S8 and held until its tick. It is LATE, EARLY, MODE_FORBIDS
before S8, MALFORMED for a slot above 7, for another tick or a tick already taken, NOT_IN_IMAGE for a slot the image lacks, and
BUFFER while the queue is full. That a tick before the first of slot 7 gives MODE_FORBIDS ahead of the lead, and that a void selection
does not count as taken, is the model's reading (logs 66, 68). -/
def Obligations.ModeSelect : Prop :=
  ∀ (s : State) (dt slot : Nat) (m : MsgHdr), s.hw.Settled →
    let h := s.hw.elapse dt
    let k := h.msgTick m
    let lead : Int := (h.tickAt k : Int) * 100000 - h.tim.c * 100000
    let lo : Int := (h.earlyMax : Int) * 98304 + normalLen h.scs * 100000
    let hi : Int := 2000000000 * 98304
    let taken := ∃ x ∈ h.mode.selects, x.tick = k ∧ x.void = false
    let refused := fun (reason : Nat) => ∃ t, exec (.modeSelect dt m 0 slot) s = .next t ∧ t.pending = s.pending ∧ t.mem = s.mem ∧
      h.refused t.hw m reason 0xFFFF 0xFF 0 0x20
    h.stands m none 0x20 8 0 →
    (∀ k7, h.sta.k7 = some k7 → k < k7 → refused 10) ∧
    (∀ k7, h.sta.k7 = some k7 → k7 ≤ k →
      (lead < lo → refused 1) ∧ (lo ≤ lead → hi < lead → refused 2) ∧
      (lo ≤ lead → lead ≤ hi → (h.sta.stage < 8 → refused 10) ∧
        (8 ≤ h.sta.stage → (7 < slot → refused 8) ∧ (slot ≤ 7 → h.slotRec slot = none → refused 12) ∧
          (slot ≤ 7 → (h.slotRec slot).isSome = true → ((k % h.perFrame ≠ 0 ∨ taken) → refused 8) ∧
            (k % h.perFrame = 0 → ¬ taken → (2048 ≤ h.fhl.control.length → refused 4) ∧
              (h.fhl.control.length < 2048 → ∃ t, exec (.modeSelect dt m 0 slot) s = .next t ∧ t.pending = s.pending ∧ t.mem = s.mem ∧
                ({ h with mode := { h.mode with
                  selects := h.mode.selects ++ [{ tick := k, slot := slot, void := false }] } } : Hw).held t.hw k))))))

/-- CALIBRATE and CAL_ABORT (R231, R244, Table 9.11), in S8: within MIN_LEAD and 2,000 ms, for a slot that is not of kind Foothill, with no
run in progress, a run is admitted, counted, its tag and what it is to do shown; while one is in progress it is BUFFER. CAL_ABORT of
the run's tag takes effect on the next tick; of another tag it is MALFORMED.
The other commands of the baseband, from S7 on (R197, R227, R312, R319, R375), within MIN_LEAD and 2,000 ms: CAPTURE_ARM of a set-up of
the image that is not armed and shares nothing with an armed one, CAPTURE_DISARM of an armed one, PATH_RETIRE with cause 6 and
PATH_RESTORE of a path are accepted for their tick; disarming one that is not armed, and a path above 63, are MALFORMED. BUDGET_SHARE
from the array head gives the share of the package's own position, due on the next frame tick; from another it is MODE_FORBIDS. That
arming and disarming are judged on the state that the records accepted so far give the target tick is the model's reading (log 64). -/
def Obligations.Commands : Prop :=
  (∀ (s : State) (dt tag k7 : Nat) (m : MsgHdr), s.hw.Settled → 8 ≤ s.hw.sta.stage → s.hw.sta.k7 = some k7 →
     s.hw.fhl.control.length < 2048 →
     let h := s.hw.elapse dt
     let k := h.msgTick m
     let lead : Int := (h.tickAt k : Int) * 100000 - h.tim.c * 100000
     (∀ (target policy : Nat) (sl : Slot), h.stands m none 0x21 12 0 → k7 ≤ k → h.recAt k = some sl → sl.kind ≠ 4 →
       (sl.minLead : Int) * 98304 ≤ lead → lead ≤ 2000000000 * 98304 → target ≤ 2 → policy ≤ 1 →
       (h.cal.run = none → ∃ t, exec (.calibrate dt m 0 target policy tag) s = .next t ∧ t.pending = s.pending ∧ t.mem = s.mem ∧
         ({ h with cal := { h.cal with
           run := some { tag := tag, target := target, policy := policy, tick := k }, state := 0, target := target, policy := policy
           outcome := 0, cause := 0, runTag := tag % 2 ^ 32, commitTick := 0xFFFFFFFF
           runs := min (2 ^ 32 - 1) (h.cal.runs + 1) } } : Hw).held t.hw k) ∧
       (h.cal.run.isSome = true → ∃ t, exec (.calibrate dt m 0 target policy tag) s = .next t ∧ t.pending = s.pending ∧ t.mem = s.mem ∧
         h.refused t.hw m 4 0xFFFF 0xFF 0 0x21)) ∧
     (h.stands m none 0x22 8 0 → k7 ≤ h.tim.k + 1 →
       (∀ r, h.cal.run = some r → r.tag = tag → ∃ t, exec (.calAbort dt m 0 tag) s = .next t ∧ t.pending = s.pending ∧ t.mem = s.mem ∧
         ({ h with cal := { h.cal with run := some { r with abortAt := some (h.tim.k + 1) } } } : Hw).held t.hw (h.tim.k + 1)) ∧
       ((∀ r, h.cal.run = some r → r.tag ≠ tag) → ∃ t, exec (.calAbort dt m 0 tag) s = .next t ∧ t.pending = s.pending ∧ t.mem = s.mem ∧
         h.refused t.hw m 8 0xFFFF 0xFF 0 0x22))) ∧
  (∀ (s : State) (dt k7 : Nat) (m : MsgHdr) (sl : Slot), s.hw.Settled → 7 ≤ s.hw.sta.stage → s.hw.sta.k7 = some k7 →
     s.hw.fhl.control.length < 2048 →
     let h := s.hw.elapse dt
     let k := h.msgTick m
     let lead : Int := (h.tickAt k : Int) * 100000 - h.tim.c * 100000
     (k7 ≤ k → h.recAt k = some sl → (sl.minLead : Int) * 98304 ≤ lead → lead ≤ 2000000000 * 98304 →
       (∀ (n : Nat) (a : CapSetup), h.image.caps.find? (fun c => c.inst == n) = some a → n ≤ 31 →
         (h.stands m none 0x23 8 0 → h.armedAt n k = false →
           (∀ i < 32, i ≠ n → h.armedAt i k = true → ∀ b, h.image.caps.find? (fun c => c.inst == i) = some b → Hw.capShare a b = false) →
           ∃ t, exec (.captureArm dt m 0 n) s = .next t ∧ t.pending = s.pending ∧ t.mem = s.mem ∧
             ({ h with cap := { h.cap with orders := h.cap.orders ++ [(k, n, true)] } } : Hw).held t.hw k) ∧
         (h.stands m none 0x24 8 0 → h.armedAt n k = true → ∃ t, exec (.captureDisarm dt m 0 n) s = .next t ∧ t.pending = s.pending ∧
           t.mem = s.mem ∧ ({ h with cap := { h.cap with orders := h.cap.orders ++ [(k, n, false)] } } : Hw).held t.hw k) ∧
         (h.stands m none 0x24 8 0 → h.armedAt n k = false → ∃ t, exec (.captureDisarm dt m 0 n) s = .next t ∧ t.pending = s.pending ∧
           t.mem = s.mem ∧ h.refused t.hw m 8 0xFFFF 0xFF 0 0x24)) ∧
       (∀ n : Nat,
         (h.stands m none 0x25 8 0 → n ≤ 63 → ∃ t, exec (.pathRetire dt m 0 n) s = .next t ∧ t.pending = s.pending ∧ t.mem = s.mem ∧
           ({ h with paths := updN h.paths n fun p => { p with retireAt := p.retireAt ++ [(k, 6)] } } : Hw).held t.hw k) ∧
         (h.stands m none 0x26 8 0 → n ≤ 63 → ∃ t, exec (.pathRestore dt m 0 n) s = .next t ∧ t.pending = s.pending ∧ t.mem = s.mem ∧
           ({ h with paths := updN h.paths n fun p => { p with restoreAt := p.restoreAt ++ [k] } } : Hw).held t.hw k) ∧
         (h.stands m none 0x25 8 0 → 63 < n → ∃ t, exec (.pathRetire dt m 0 n) s = .next t ∧ t.pending = s.pending ∧ t.mem = s.mem ∧
           h.refused t.hw m 8 0xFFFF 0xFF 0 0x25))) ∧
     (∀ share : List Nat, h.stands m none 0x27 12 0 →
       let kf := (h.tim.k + 1 + h.perFrame - 1) / h.perFrame * h.perFrame
       k7 ≤ kf →
       (h.sys.pkgPos ≠ 0 → h.macOf 0 = some m.src → ∃ t, exec (.budgetShare dt m 0 share) s = .next t ∧ t.pending = s.pending ∧ t.mem = s.mem ∧
         ({ h with trl := { h.trl with shareNext := some (share.getD h.sys.pkgPos 0) } } : Hw).held t.hw kf) ∧
       (h.sys.pkgPos = 0 ∨ h.macOf 0 ≠ some m.src → ∃ t, exec (.budgetShare dt m 0 share) s = .next t ∧ t.pending = s.pending ∧
         t.mem = s.mem ∧ h.refused t.hw m 10 0xFFFF 0xFF 0 0x27)))

/-- The other message types (R30, R183, R208, R209, Table 9.2), from S5 on, on port A: a remote memory access read of mapped memory is
answered
with its bytes and counted, a misaligned one or one beyond 16 outstanding with a failure; a write is answered with a failure and
refused WRITE_FORBIDDEN; a one-way delay request is answered at once with the time of day, less the deskew of its lane (R283), and the
port's fixed delay; a follow-up
changes nothing; a remote request and an event indication are counted; a type that is never received is refused MALFORMED. That these
indications carry sequence number 0 and tick 0 is the model's reading (log 40); that accesses stay outstanding until time passes is its
choice (log 30). -/
def Obligations.OtherMessages : Prop :=
  ∀ (s : State) (dt : Nat), s.hw.Settled → 5 ≤ s.hw.sta.stage → (s.hw.port 0).linkUp = true →
    let h := s.hw.elapse dt
    let sent := fun (x : TxFrame) (g : Hw) => { g with out := { g.out with
      tx := g.out.tx ++ [x], portA := { g.out.portA with own := g.out.portA.own ++ [x] } } }
    let asked : Hw := { h with fhl := { h.fhl with rmaPending := h.fhl.rmaPending + 1 } }
    let other := fun (src : Nat) (vlan : Option Nat) (reason : Nat) (g t : Hw) =>
      t = { g with fhl := { g.fhl with
        queue := t.fhl.queue, indCount := t.fhl.indCount, refusalLost := t.fhl.refusalLost
        refused := updN g.fhl.refused reason fun c => min (2 ^ 32 - 1) (c + 1) } } ∧
      (g.fhl.queue.length < 256 → t.fhl.queue = g.fhl.queue ++ [.indication 0 src vlan (be 1 g.fhl.indCount ++ [0x02] ++ be 1 g.fhl.indCount ++
        [2] ++ (be 2 0xFFFF ++ be 2 (0x400 + reason) ++ be 4 0xFF00FF00) ++ (be 2 0xFFFF ++ be 2 0x4FF ++ be 4 0))])
    (∀ r : Rma, r.port = 0 → r.rw = 0 → r.length % 4 = 0 →
      (r.address % 4 = 0 → 0x20000000 ≤ r.address → r.address + r.length ≤ 0x21000000 → 4 ≤ r.length → r.length ≤ 8192 → s.mem.bad = [] →
        h.fhl.rmaPending < 16 →
        let data := (List.range r.length).map fun i => s.mem.get (r.address + i)
        let counted : Hw := { asked with fhl := { asked.fhl with rmaReads := min (2 ^ 32 - 1) (h.fhl.rmaReads + 1) } }
        exec (.rmaRead dt r) s = .next { s with hw := sent (.rma 0 r.src r.id 1 r.element r.address data) counted }) ∧
      (r.address % 4 ≠ 0 ∨ r.address / 2 ^ 32 ≠ 0 ∨ 16 ≤ h.fhl.rmaPending ∨ r.length < 4 ∨ 8192 < r.length →
        exec (.rmaRead dt r) s = .next { s with hw := sent (.rma 0 r.src r.id 2 r.element r.address []) asked })) ∧
    (∀ r : Rma, r.port = 0 →
      (r.rw = 0x10 → ∃ t, exec (.rmaWrite dt r) s = .next t ∧ t.pending = s.pending ∧ t.mem = s.mem ∧
        other r.src r.vlan 11 (sent (.rma 0 r.src r.id 2 r.element r.address []) asked) t.hw) ∧
      (r.rw = 0x20 → ∃ t, exec (.rmaWrite dt r) s = .next t ∧ t.pending = s.pending ∧ t.mem = s.mem ∧ other r.src r.vlan 11 h t.hw)) ∧
    (∀ (l : LaneId) (src id action : Nat), action ≤ 1 →
      let delay := (if h.portType 0 = 2 then 14242 else if (h.portCfg 0).testBit 2 then 13021 else 3052) * 65536 / 100
      let counted : Hw := { h with fhl := { h.fhl with owdResp := min (2 ^ 32 - 1) (h.fhl.owdResp + 1) } }
      let stamp := (todUnits h.tim.c : Int) - 32768 * (h.lane l).deskew
      exec (.owdRequest dt 0 l src id action) s = .next { s with hw := sent (.owd 0 src id stamp.toNat delay) counted }) ∧
    (∀ src : Nat, exec (.owdFollowUp dt 0 src) s = .next { s with hw := h }) ∧
    (∀ src : Nat, exec (.owdRemoteRequest dt 0 src) s = .next { s with hw := { h with
      fhl := { h.fhl with unsupported := min (2 ^ 32 - 1) (h.fhl.unsupported + 1) } } }) ∧
    exec (.eventIndicationRx dt 0) s = .next { s with hw := { h with
      fhl := { h.fhl with unsupported := min (2 ^ 32 - 1) (h.fhl.unsupported + 1) } } } ∧
    (∀ m : MsgHdr, m.port = 0 → (m.msgType = 1 ∨ m.msgType = 3 ∨ 7 < m.msgType) → ∃ t, exec (.unsupportedMessageType dt m) s = .next t ∧
      t.pending = s.pending ∧ t.mem = s.mem ∧ other m.src m.vlan 8 h t.hw)

/-- FRAME_RX completes for every frame, which ends at a port with link, or is cut as its link goes down, from S5 on (R180, R210, R298):
below 64 bytes it
counts as undersize and nothing else; otherwise it is counted. A PTP frame is left to its own row, or ignored and counted, signalling
and management passing through an active transparent clock (R262, R272). Another is forwarded where forwarding is on and it is not for the
package, or dropped under the first reason that holds: a bad frame check sequence or an error block (R284), more than 9,216 bytes, another
EtherType or a second tag. A message to the package that no record's row judges is refused MALFORMED, or MODE_FORBIDS before slot 7 is
announced (R66, R182, R192). Parity errors of the port's FIFO are counted (R361). Forwarded frames leave unchanged. The model's reading or
choice: the frame check sequence judged ahead of the type, undersize frames outside RX_FRAMES (log 67); the CRC-32 (log 103); signalling and
management passed on without checks (log 113). -/
def Obligations.FrameReceived : Prop :=
  ∀ (s : State) (dt : Nat) (p : PortId) (f : RxFrame), s.hw.Settled →
    let e := s.hw.elapse dt
    let here := 5 ≤ s.hw.sta.stage ∧ ((s.hw.port p).linkUp = true ∨ (s.hw.port p).errored = true)
    (∃ t, exec (.frameRx dt p f) s = .next t ∧ t.pending = s.pending ∧ t.mem = s.mem ∧ (here → 0 < f.fifoParity →
      t.hw.fifoSeen = true ∧ t.hw.fifoParity = min (2 ^ 32 - 1) (e.fifoParity + f.fifoParity))) ∧
    (¬ here → exec (.frameRx dt p f) s = .next { s with hw := e }) ∧
    (here → f.fifoParity = 0 →
      let h : Hw := { e with ports := updN e.ports p fun x => { x with errored := false, judged := false } }
      let good := f.fcsOk = true ∧ f.errorBlock = false ∧ (s.hw.port p).errored = false
      let up32 := fun (v : Vector Nat 2) => updN v p fun c => min (2 ^ 32 - 1) (c + 1)
      let got : Fhl := { h.fhl with rxFrames := updN h.fhl.rxFrames p fun c => min (2 ^ 48 - 1) (c + 1) }
      let becomes := fun (x : Hw) => exec (.frameRx dt p f) s = .next { s with hw := x }
      let ends := fun (x : Fhl) => becomes { h with fhl := x }
      let passes := fun (x : Hw) (q : Nat) =>
        let y : TxFrame := .forward q f.octets
        becomes { x with out := { x.out with
          tx := x.out.tx ++ [y], portA := if q = 0 then { x.out.portA with fwd := x.out.portA.fwd ++ [y] } else x.out.portA } }
      (f.len < 64 → ends { h.fhl with undersize := up32 h.fhl.undersize }) ∧
      (64 ≤ f.len → f.etherType = 0x88F7 →
        let row := f.ptpType ∈ [0, 1, 8, 9, 0xB]
        let through := h.tcActive = true ∧ f.tags = 0 ∧ (row ∨ f.ptpType = 0xC ∨ f.ptpType = 0xD)
        let ignored : Hw := { h with fhl := got, tim := { h.tim with ptpIgnored := up32 h.tim.ptpIgnored } }
        (through → row → ends got) ∧ (through → ¬ row → passes ignored (1 - p.val)) ∧
        (¬ through → ¬ good → ends { got with fcsBad := up32 got.fcsBad }) ∧
        (¬ through → good → 9216 < f.len → ends { got with oversize := up32 got.oversize }) ∧
        (¬ through → good → f.len ≤ 9216 → h.tcActive = false → 1 < f.tags → ends { got with otherDropped := up32 got.otherDropped }) ∧
        (¬ through → good → f.len ≤ 9216 → (h.tcActive = true ∨ f.tags ≤ 1) → (row → ends got) ∧ (¬ row → becomes ignored))) ∧
      (64 ≤ f.len → f.etherType ≠ 0x88F7 → (h.fwdOn = false ∨ p = 0 ∧ h.ownMac = some f.dst) →
        (¬ good → if (s.hw.port p).judged then ends got else ends { got with fcsBad := up32 got.fcsBad }) ∧
        (good → 9216 < f.len → ends { got with oversize := up32 got.oversize }) ∧
        (good → f.len ≤ 9216 → f.etherType ≠ 0xAEFE ∨ 1 < f.tags → ends { got with otherDropped := up32 got.otherDropped }) ∧
        (good → f.len ≤ 9216 → f.etherType = 0xAEFE → f.tags ≤ 1 →
          let m := parseMsg p f
          let mine := h.ownMac = some f.dst
          let data := m.msgType = 0 ∨ m.msgType = 2
          let refused := fun (reason : Nat) => ∃ t, exec (.frameRx dt p f) s = .next t ∧ t.pending = s.pending ∧ t.mem = s.mem ∧
            ({ h with fhl := got } : Hw).refused t.hw m reason 0xFFFF 0xFF 0xFF 0
          (¬ mine ∨ data ∧ rowOpens m = true ∨ ¬ data ∧ (m.msgType < 4 ∨ 7 < m.msgType ∨ Hw.commonOk m = true) → ends got) ∧
          (mine → data → rowOpens m = false → (h.sta.k7 = none → refused 10) ∧
            (h.sta.k7.isSome = true → Hw.commonOk m = false ∨ m.size < 12 → refused 8)))) ∧
      (64 ≤ f.len → f.etherType ≠ 0x88F7 → h.fwdOn = true →
        (p = 1 → passes { h with fhl := { got with fwdB2a := min (2 ^ 48 - 1) (got.fwdB2a + 1) } } 0) ∧
        (p = 0 → h.ownMac ≠ some f.dst → f.dst / 2 ^ 40 % 2 = 1 → ends { got with otherDropped := up32 got.otherDropped }) ∧
        (p = 0 → h.ownMac ≠ some f.dst → f.dst / 2 ^ 40 % 2 ≠ 1 → (h.port 1).linkUp = true →
          passes { h with fhl := { got with fwdA2b := min (2 ^ 48 - 1) (got.fwdA2b + 1) } } 1) ∧
        (p = 0 → h.ownMac ≠ some f.dst → f.dst / 2 ^ 40 % 2 ≠ 1 → (h.port 1).linkUp = false →
          ends { got with fwdDrop := min (2 ^ 32 - 1) (got.fwdDrop + 1) })))

/-- WEIGHT_LOAD (R129, R130, R195, R201), in S8 on a control flow: a load that arrives before tick e − 2, for an enabled dynamic ID, later
than every version stored, that displaces none in use, is admitted: the 64 weights go into an empty version slot, else that of the
earlier version, no other byte changes, the version's tick is e, and one unit of job WEIGHT_LOAD is reserved at tick e. It is LATE from
tick e − 2 on, NOT_IN_IMAGE for another ID, MALFORMED for a static ID and for a tick not later than a version's, BUFFER where a version in
use would go. -/
def Obligations.WeightLoads : Prop :=
  ∀ (s : State) (dt k7 : Nat) (m : MsgHdr) (r : WeightRec) (f : Flow) (sl : Slot), s.hw.Settled → s.mem.wf = true → s.mem.bad = [] →
    s.hw.sta.k7 = some k7 → 8 ≤ s.hw.sta.stage →
    let h := s.hw.elapse dt
    let e := h.msgTick m
    let lead : Int := (h.tickAt e : Int) * 100000 - h.tim.c * 100000
    let d := r.beam - 4096
    let tag := fun (v : Nat) => assoc (2 * d + v) h.mas.tags
    let v := if tag 0 = none then 0 else if tag 1 = none then 1 else if (tag 0).getD 0 < (tag 1).getD 0 then 0 else 1
    let charge := h.charges e 3 1 []
    m.msgType = 2 → f.dir = 2 → h.stands m (some f) 0x11 264 0 → h.recAt e = some sl → sl.kind ≠ 4 → k7 ≤ e →
    let refused := fun (reason : Nat) => ∃ t, exec (.weightLoad dt m 0 r) s = .next t ∧ t.pending = s.pending ∧ t.mem = s.mem ∧
      h.refused t.hw m reason f.eaxc f.id 0 0x11
    (h.tickAt (e - 2) ≤ h.tim.c → refused 1) ∧
    (h.tim.c < h.tickAt (e - 2) → lead ≤ sl.earlyLimit * 98304 →
      (r.beam < 4096 → refused 8) ∧
      (4096 ≤ r.beam → ¬ (r.beam < 4608 ∧ ∃ x ∈ h.image.dynEnable, x.1 ≤ r.beam ∧ r.beam < x.1 + x.2) → refused 12) ∧
      (4096 ≤ r.beam → r.beam < 4608 → (∃ x ∈ h.image.dynEnable, x.1 ≤ r.beam ∧ r.beam < x.1 + x.2) →
        ((∃ i t, i < 2 ∧ tag i = some t ∧ e ≤ t) → refused 8) ∧
        ((∀ i t, i < 2 → tag i = some t → t < e) →
          (h.dynInUse d = true → refused 4) ∧
          (h.dynInUse d = false → h.fhl.control.length < 2048 → h.budgetFails [(e, charge)] = none →
            ∃ t, exec (.weightLoad dt m 0 r) s = .next t ∧ t.pending = s.pending ∧
              t.hw = { h with
                fhl := { h.fhl with seqs := t.hw.fhl.seqs, cur := t.hw.fhl.cur }
                mas := { h.mas with tags := t.hw.mas.tags }, trl := { h.trl with res := t.hw.trl.res } } ∧
              (∀ j, assoc j t.hw.mas.tags = if j = 2 * d + v then some e else assoc j h.mas.tags) ∧
              (∀ w u, (assoc (w, u) t.hw.trl.res).getD 0 = (assoc (w, u) h.trl.res).getD 0 + if w = e then onUnit charge u else 0) ∧
              (∀ p i, p < 64 → i < 4 → t.mem.get (dynamicAddr d v p + i) = (le 4 (r.weight.getD p 0).toNat).getD i 0) ∧
              ∀ a, (∀ p < 64, a < dynamicAddr d v p ∨ dynamicAddr d v p + 4 ≤ a) → t.mem.get a = s.mem.get a))))

/-- Downlink sections (R116, R121 to R123, R136, R138, R200 to R203, R223): a section on a downlink flow, in a Spur slot judged on its
headers
at the time its last byte will arrive, whose lead lies in the window, that nothing forbids and that breaks no rule, with room in the
packet buffer, within the budget and in Massif's time, is admitted: held whole, and its charge reserved in the window of its tick. It
is LATE or EARLY, MALFORMED where it overlaps an admitted section of its flow and tick, BUFFER where the 6 MiB lack room, and BUDGET,
counted at the lowest level that fails, where Treeline lacks room. -/
def Obligations.DownlinkSections : Prop :=
  ∀ (s : State) (dt rest k7 : Nat) (m : MsgHdr) (r : SectionRec) (f : Flow) (sl : Slot), s.hw.Settled → s.hw.sta.k7 = some k7 →
    let h := s.hw.elapse dt
    let k := h.msgTick m
    let spur := sl.isSpur
    let cmd := if spur then Instr.spurSectionHeaders dt m r rest else Instr.dlSection dt m 0 r
    let ta := if spur then h.tim.c + ceilDiv (8 * rest * 98304) (100000 * h.lineRate m.port) else h.tim.c
    let lead : Int := (h.tickAt k : Int) * 100000 - ta * 100000
    let mant := if f.compression = 1 then 16 else sl.mantissa
    let size := if spur then 256 * r.count else if mant = 16 then 48 * r.count else ((4 + 24 * mant) * r.count + 7) / 8
    let bare := fun (d : DlItem) => { d with left := 0, todo := 0 }
    let item : DlItem := {
      flow := f.id, target := k, start := r.start, count := r.count, beam := r.beam, bytes := size, spur := spur, payload := r.payload
      epoch := m.epoch % 16, order := h.fhl.order, carrier := f.carrier, layer := f.layer, mant := mant
      left := if spur then 0 else r.count * 150000, todo := if spur then 0 else r.count * 150000 }
    let charge := h.sectionCharge sl f true k r.count
    m.msgType = 0 → f.dir = 0 → h.stands m (some f) 0x10 (12 + size) r.count → h.recAt k = some sl → k7 ≤ k →
    let refused := fun (reason : Nat) => ∃ t, exec cmd s = .next t ∧ t.pending = s.pending ∧ t.mem = s.mem ∧
      h.refused t.hw m reason f.eaxc f.id 0 0x10
    (lead < sl.minLead * 98304 → refused 1) ∧
    ((sl.minLead : Int) * 98304 ≤ lead → (sl.earlyLimit : Int) * 98304 < lead → refused 2) ∧
    ((sl.minLead : Int) * 98304 ≤ lead → lead ≤ sl.earlyLimit * 98304 → h.sectionForbidden sl f true k = false → 1 ≤ r.count →
      h.beamBad r.beam k = 0 →
      (if spur then r.start + r.count ≤ h.blocksAt k ∧ ∀ d ∈ h.fhl.dl, d.spur = true → d.target = k → d.layer = f.layer → d.beam = r.beam
        else r.start + r.count ≤ sl.prbs f.carrier ∧ k % ticksPerHalf h.scs % sl.span h.scs f.carrier = 0 ∧ r.start % sl.granularity = 0 ∧
          (r.count % sl.granularity = 0 ∨ r.start + r.count = sl.prbs f.carrier) ∧ (mant = 16 ∨ expOk mant r.payload r.count = true)) →
      ((∃ d ∈ h.fhl.dl, d.flow = f.id ∧ d.target = k ∧ d.start < r.start + r.count ∧ r.start < d.start + d.count) → refused 8) ∧
      ((∀ d ∈ h.fhl.dl, d.flow = f.id → d.target = k → d.start + d.count ≤ r.start ∨ r.start + r.count ≤ d.start) →
        (r.beam < 4096 ∨ (h.dynVersion (r.beam - 4096) k).isSome = true) →
        (6291456 < h.bufUsed + size → refused 4) ∧
        (h.bufUsed + size ≤ 6291456 → (spur = true ∨ h.massifAdvance.dlFits item = true) →
          (∀ l, h.budgetFails [(k, charge)] = some l → ∃ t, exec cmd s = .next t ∧ t.pending = s.pending ∧ t.mem = s.mem ∧
            t.hw.trl = { h.trl with refusedLevel := updN h.trl.refusedLevel l fun c => min (2 ^ 32 - 1) (c + 1) } ∧
            t.hw.fhl.refused = updN h.fhl.refused 3 (fun c => min (2 ^ 32 - 1) (c + 1)) ∧ t.hw.fhl.dl.map bare = h.fhl.dl.map bare) ∧
          (h.budgetFails [(k, charge)] = none → ∃ t, exec cmd s = .next t ∧ t.pending = s.pending ∧ t.mem = s.mem ∧
            t.hw = { h with
              fhl := { h.fhl with seqs := t.hw.fhl.seqs, cur := t.hw.fhl.cur, dl := t.hw.fhl.dl, ul := t.hw.fhl.ul, order := h.fhl.order + 1 }
              mas := { h.mas with
                dlAt := h.tim.c * 100000, ulAt := h.tim.c * 100000, runAt := h.tim.c * 100000, busyDl := t.hw.mas.busyDl
                busyUl := t.hw.mas.busyUl, lendDl := t.hw.mas.lendDl, lendUl := t.hw.mas.lendUl }
              trl := { h.trl with res := t.hw.trl.res, tdCharged := t.hw.trl.tdCharged } } ∧
            t.hw.fhl.dl.map bare = h.fhl.dl.map bare ++ [bare item] ∧ t.hw.fhl.ul.length = h.fhl.ul.length ∧
            (spur = false → t.hw.trl.tdCharged = h.trl.tdCharged) ∧ (spur = true → (k, 1, f.layer) ∈ t.hw.trl.tdCharged) ∧
            ∀ w u, (assoc (w, u) t.hw.trl.res).getD 0 = (assoc (w, u) h.trl.res).getD 0 + if w = k then onUnit charge u else 0))))

/-- What becomes of admitted Spur frames and of weighting (R117, R118, R135, R203): a bad frame check sequence is counted, SPUR_FCS_BAD
raised
with flow, sequence number and target tick, and nothing recalled; a truncated frame's section ends at the bytes received as well. The
section that is next in the order of target tick and admission is done when it is weighted, by its deadline, 4 µs before its tick, and no
other command of weighting does anything (the model's reading, logs 31 and 3); at the deadline every section of the symbol is done, with its
weights read, and its place in the packet buffer is free. -/
def Obligations.SectionsWorkedOff : Prop :=
  ∀ (s : State) (dt flow seq target : Nat), s.hw.Settled →
    let h := s.hw.elapse dt
    let mine := fun (d : DlItem) => d.spur = true ∧ d.flow = flow ∧ d.target = target
    let bare := fun (d : DlItem) => { d with left := 0, todo := 0, ws := none }
    let worked := fun (t : State) => t.pending = s.pending ∧ t.mem = s.mem ∧ t.hw = { h with
      fhl := { h.fhl with dl := t.hw.fhl.dl, ul := t.hw.fhl.ul }
      mas := { h.mas with
        dlAt := h.tim.c * 100000, ulAt := h.tim.c * 100000, runAt := h.tim.c * 100000, busyDl := t.hw.mas.busyDl
        busyUl := t.hw.mas.busyUl, lendDl := t.hw.mas.lendDl, lendUl := t.hw.mas.lendUl } }
    ((∃ d ∈ h.fhl.dl, mine d) → ∃ t, exec (.spurFcsBad dt flow seq target) s = .next t ∧ t.pending = s.pending ∧ t.mem = s.mem ∧
      t.hw = ({ h with fhl := { h.fhl with spurFcsBad := min (2 ^ 32 - 1) (h.fhl.spurFcsBad + 1) } } : Hw).told t.hw ∧
      t.hw.newest 0x0403 (flow * 256 + seq % 256 : Nat) ∧ t.hw.lko.log.head?.map (·.extra) = some (target % 2 ^ 32)) ∧
    (∀ (a b : List DlItem) (d : DlItem) (received : Nat), h.fhl.dl = a ++ d :: b → mine d → (∀ x ∈ b, ¬ mine x) →
      (∀ x ∈ a ++ b, x.order ≠ d.order) → ∃ t, exec (.spurTrunc dt flow seq target received) s = .next t ∧ t.pending = s.pending ∧
      t.mem = s.mem ∧ t.hw = ({ h with fhl := { h.fhl with
        spurTrunc := min (2 ^ 32 - 1) (h.fhl.spurTrunc + 1), dl := a ++ { d with truncAt := some received } :: b } } : Hw).told t.hw ∧
      t.hw.newest 0x0403 (flow * 256 + seq % 256 : Nat)) ∧
    (s.mem.bad = [] → ∀ start : Nat,
      let this := fun (d : DlItem) => d.spur = false ∧ d.flow = flow ∧ d.target = target ∧ d.start = start
      let first := fun (d : DlItem) => d ∈ h.fhl.dl ∧ this d ∧ d.weighted = false ∧ ∀ x ∈ h.fhl.dl, x.spur = false → x.weighted = false →
        x = d ∨ d.target * 2 ^ 64 + d.order < x.target * 2 ^ 64 + x.order
      let due := h.tim.open_ = true ∧ target ≤ h.tim.k + 2 ∧ h.tim.c * 100000 + 4000 * 98304 ≤ h.tickAt target * 100000
      (due → (∃ d, first d) → ∃ t, exec (.sectionWeighted dt flow target start) s = .next t ∧ worked t ∧
        t.hw.fhl.dl.map bare = h.fhl.dl.map (fun d => if this d then { bare d with weighted := true } else bare d) ∧
        ∀ d ∈ t.hw.fhl.dl, this d → d.left = 0 ∧ d.todo = 0 ∧ d.ws.isSome = true) ∧
      (¬ due ∨ (∀ d ∈ h.fhl.dl, this d → d.weighted = true) → exec (.sectionWeighted dt flow target start) s = .next { s with hw := h })) ∧
    (s.mem.bad = [] → h.tim.open_ = true → h.tickAt target * 100000 ≤ h.tim.c * 100000 + 4000 * 98304 →
      ∃ t, exec (.weightingDeadline dt target) s = .next t ∧ worked t ∧
        t.hw.fhl.dl.map bare = h.fhl.dl.map (fun d =>
          if d.spur = false ∧ d.target = target then { bare d with weighted := true, bytes := 0 } else bare d) ∧
        ∀ d ∈ t.hw.fhl.dl, d.spur = false → d.target = target → d.left = 0 ∧ d.todo = 0 ∧ d.ws.isSome = true)

/-- Uplink sections (R93, R94, R122, R125, R198, R203): a request on an uplink flow for a tick that has not come, within EARLY_LIMIT, that
nothing forbids and that breaks no rule, with room for it and within time and budget, is admitted; it is LATE for a tick that has come.
At its symbol's end the request taken that is first in the order of carrier, start PRB and flow among those of its closing tick is combined
over the paths in use, each value the convergent sum of conj(w) × x over 2^18 saturated to 16 bits, x being the outputs of the FFT that the
request keeps from its closing tick on, and sent on its flow under the next number; the request is gone. -/
def Obligations.UplinkSections : Prop :=
  ∀ (s : State) (dt : Nat), s.hw.Settled →
    let h := s.hw.elapse dt
    let bare := fun (u : UlItem) => { u with left := 0, todo := 0 }
    let lanes := fun (t : State) (sat : Nat) => { h.mas with
      dlAt := h.tim.c * 100000, ulAt := h.tim.c * 100000, runAt := h.tim.c * 100000, busyDl := t.hw.mas.busyDl
      busyUl := t.hw.mas.busyUl, lendDl := t.hw.mas.lendDl, lendUl := t.hw.mas.lendUl, ulSat := min (2 ^ 32 - 1) (h.mas.ulSat + sat) }
    (∀ (k7 : Nat) (m : MsgHdr) (r : SectionRec) (f : Flow) (sl : Slot), s.hw.sta.k7 = some k7 →
      let k := h.msgTick m
      let lead : Int := (h.tickAt k : Int) * 100000 - h.tim.c * 100000
      let mant := if f.compression = 1 then 16 else sl.mantissa
      let size := if mant = 16 then 48 * r.count else ((4 + 24 * mant) * r.count + 7) / 8
      let closing := k + sl.span h.scs f.carrier
      let item : UlItem := {
        flow := f.id, target := k, closing := closing, start := r.start, count := r.count, beam := r.beam, bytes := size
        epoch := m.epoch % 16, carrier := f.carrier, layer := f.layer, deadline := sl.ulDeadline, order := h.fhl.order
        left := r.count * 150000, todo := r.count * 150000, compression := f.compression, eaxc := f.eaxc, vlan := f.vlan, dst := f.dstMac, port := f.port }
      let charge := h.sectionCharge sl f false k r.count
      m.msgType = 2 → f.dir = 1 → h.stands m (some f) 0x10 12 r.count → h.recAt k = some sl → sl.isSpur = false → k7 ≤ k →
      (lead ≤ 0 → ∃ t, exec (.ulSectionRequest dt m 0 r) s = .next t ∧ t.pending = s.pending ∧ t.mem = s.mem ∧
        h.refused t.hw m 1 f.eaxc f.id 0 0x10) ∧
      (0 < lead → lead ≤ sl.earlyLimit * 98304 → h.sectionForbidden sl f false k = false → 1 ≤ r.count → h.beamBad r.beam k = 0 →
        r.start + r.count ≤ sl.prbs f.carrier → k % ticksPerHalf h.scs % sl.span h.scs f.carrier = 0 → r.start % sl.granularity = 0 →
        (r.count % sl.granularity = 0 ∨ r.start + r.count = sl.prbs f.carrier) → size ≤ 9166 →
        (∀ u ∈ h.fhl.ul, u.flow = f.id → u.target = k → u.start + u.count ≤ r.start ∨ r.start + r.count ≤ u.start) →
        (r.beam < 4096 ∨ (h.dynVersion (r.beam - 4096) k).isSome = true) → h.fhl.ul.length < 8192 →
        h.egressFits sl k closing size f.vlan = true → h.massifAdvance.ulFits item = true → h.budgetFails [(k, charge)] = none →
        ∃ t, exec (.ulSectionRequest dt m 0 r) s = .next t ∧ t.pending = s.pending ∧ t.mem = s.mem ∧
          t.hw = { h with
            fhl := { h.fhl with seqs := t.hw.fhl.seqs, cur := t.hw.fhl.cur, dl := t.hw.fhl.dl, ul := t.hw.fhl.ul, order := h.fhl.order + 1 }
            mas := { lanes t 0 with ulSat := h.mas.ulSat }
            trl := { h.trl with res := t.hw.trl.res } } ∧
          t.hw.fhl.ul.map bare = h.fhl.ul.map bare ++ [bare item] ∧ t.hw.fhl.dl.length = h.fhl.dl.length ∧
          ∀ w u, (assoc (w, u) t.hw.trl.res).getD 0 = (assoc (w, u) h.trl.res).getD 0 + if w = k then onUnit charge u else 0)) ∧
    (∀ (u : UlItem) (slot : Nat) (sl : Slot) (paths : List Nat) (x : List (List IQ)) (flagged : List Nat),
      h.fhl.ul.find? (fun y => y.flow == u.flow && y.target == u.target && y.start == u.start) = some u → u.taken = some (slot, paths) →
      u.spur = false → u.formed = some (x, flagged) → h.tickAt u.closing ≤ h.tim.c → h.slotRec slot = some sl → s.mem.bad = [] →
      (∀ y ∈ h.fhl.ul, y.spur = false → y.closing = u.closing → y.taken.isSome = true →
        u.carrier * 2 ^ 32 + u.start * 2 ^ 8 + u.flow ≤ y.carrier * 2 ^ 32 + y.start * 2 ^ 8 + y.flow) →
      let n := (getN h.fhl.seqs u.flow {}).nextTx
      let w := h.weightOf s.mem u.beam u.target
      let at_ := fun (p j : Nat) => (x.getD p []).getD j ⟨0, 0⟩
      let z := fun (j : Nat) =>
        [cround (sumZ (paths.map fun p => (w p).i * (at_ p j).i + (w p).q * (at_ p j).q)) 262144,
          cround (sumZ (paths.map fun p => (w p).i * (at_ p j).q - (w p).q * (at_ p j).i)) 262144]
      let raw := ((List.range (12 * u.count)).map z).flatten
      let payload := compressAll (if u.compression = 1 then 16 else sl.mantissa) u.count (raw.map sat16)
      let ovr := ∃ p ∈ paths, w p ≠ ⟨0, 0⟩ ∧ p ∈ flagged
      ∃ t, exec (.ulSectionSend dt u.flow u.target u.start) s = .next t ∧ t.pending = s.pending ∧ t.mem = s.mem ∧
        t.hw = { h with
          fhl := { h.fhl with
            dl := t.hw.fhl.dl, ul := t.hw.fhl.ul, bfpSat := min (2 ^ 32 - 1) (h.fhl.bfpSat + payload.2)
            seqs := updN h.fhl.seqs u.flow fun q => { q with nextTx := (n + 1) % 256 } }
          mas := lanes t (raw.filter fun v => decide (sat16 v ≠ v)).length
          out := t.hw.out } ∧
        t.hw.fhl.ul.map bare = (h.fhl.ul.filter fun y => y.order != u.order).map bare ∧
        ∃ flags, let y : TxFrame :=
            .ulSection u.port u.dst u.vlan u.eaxc n u.flow u.epoch flags (u.target % 2 ^ 32) u.start u.count u.beam payload.1
          t.hw.out = { h.out with
            tx := h.out.tx ++ [y]
            portA := if u.port = 0 then { h.out.portA with own := h.out.portA.own ++ [y] } else h.out.portA } ∧ (flags % 2 = 1 ↔ ovr) ∧ (flags / 2 = 1 ↔ u.reduced = true) ∧ flags < 4)

/-- Search occasions (R166, R167, R175, R176, R178): an occasion for a slot with Cairn, in S8, whose parameters are within their limits, is
refused BUFFER where contexts lack or no power of two of beams from BEAMS_MIN on fits the work area; from the largest that fits its depth
is lowered step by step, first beams, which become extension beams, then K, then C, until every window of its span has room: it is admitted
so, holding the context and bytes of each family, and its charges are reserved; where no lower depth is left it is BUDGET. It is
MODE_FORBIDS in a slot without Cairn, MALFORMED for a field outside its range. That the ceilings of template and slot limit the beams too
and that the lowest free contexts are taken is the model's reading (log 71). At the end of a coherent group, which the time of its slowest
family gives, one more group is done, its power is added into the cells, and an extension block that was not evaluated for the group before
is dropped and counted; a word of the work area found with an error is counted in its memory and keeps it, and what it held is zero where it
is uncorrectable.
The report of an occasion (R174, R176, R177, R178, R189, Tables 8.5 and 8.6): sent at or after the closing tick on the occasion's flow
under its next sequence number, a header of 64 bytes and 24 for each of the first 256 detections, which lie in descending order of the
metric, none below the threshold or beyond MAX_DELAY, and none at all where the occasion failed or finished no group; the extension blocks
not evaluated for the last group are dropped and counted, the others counted as done; the occasion is then over. -/
def Obligations.SearchOccasions : Prop :=
  (∀ (s : State) (dt : Nat), s.hw.Settled →
     let h := s.hw.elapse dt
     (∀ (k7 : Nat) (m : MsgHdr) (r : SearchRec) (f : Flow) (sl : Slot) (t : Template), s.hw.sta.k7 = some k7 → 8 ≤ s.hw.sta.stage →
       let k := h.msgTick m
       let lead : Int := (h.tickAt k : Int) * 100000 - h.tim.c * 100000
       let mask := (List.range 16).filter fun i => r.families.testBit i
       let fs := mask.filterMap fun i => h.image.families.find? fun f => f.inst == i
       let report := (fullTick h.tim.k r.reportTick).getD 0
       let top := min (r.rows * r.cols) (min sl.cairnBeams t.maxBeams)
       let c := min r.cohReq (min sl.cairnCoh t.maxCoh)
       let n := min r.noncohReq (min sl.cairnNoncoh t.maxNoncoh)
       let span := h.occClosing fs k r.maxDelay c n
       let bytes := fun (b : Nat) => sumL (fs.map fun x => 512 * r.freqHyp * famBins x + 2 * r.freqHyp * famBins x * b)
       let fits := fun (j : Nat) => 2 ^ j ≤ top ∧ bytes (2 ^ j) ≤ h.workFree k span
       let closing := fun (d : Depth) => h.occClosing fs k r.maxDelay d.c d.k
       let charges := fun (d : Depth) => (List.range (closing d - k)).map fun i =>
         (k + i, h.charges (k + i) 4 (ceilDiv (fs.length * r.freqHyp * d.b * d.c * d.k) (report - k)) [])
       let lower := fun (d : Depth) =>
         if r.beamsMin < d.b then some { d with e := d.e + d.b / 2, b := d.b / 2 }
         else if r.noncohMin < d.k then some { d with k := max (d.k / 2) r.noncohMin }
         else if r.cohMin < d.c then some { d with c := max (d.c / 2) r.cohMin } else none
       let free := (List.range 4).filter fun x => !(h.contextsHeld k span).contains x
       m.msgType = 2 → f.dir = 2 → h.stands m (some f) 0x12 36 0 → h.recAt k = some sl → k7 ≤ k →
       (sl.minLead : Int) * 98304 ≤ lead → lead ≤ sl.earlyLimit * 98304 → r.rows < 256 → r.cols < 256 →
       let none_ : Hw := { h with crn := { h.crn with refused := min (2 ^ 32 - 1) (h.crn.refused + 1) } }
       let refused := fun (reason : Nat) => ∃ t, exec (.searchOccasion dt m 0 r) s = .next t ∧ t.pending = s.pending ∧ t.mem = s.mem ∧
         none_.refused t.hw m reason f.eaxc f.id 0 0x12
       (sl.cairn ≠ 1 → refused 10) ∧
       (sl.cairn = 1 → sl.kind ≠ 4 → (searchForm r = false → refused 8) ∧
         (searchForm r = true → fs.length = mask.length → h.image.templates.find? (fun t => t.inst == r.template) = some t →
           (∀ i ∈ mask, t.familyMask.testBit i = true) → h.searchRelations sl t r k report = true → h.fhl.control.length < 2048 →
           (free.length < fs.length → refused 4) ∧
           (fs.length ≤ free.length → (∀ j, fits j → 2 ^ j < r.beamsMin) → refused 4) ∧
           (fs.length ≤ free.length → ∀ (j i : Nat) (d : Nat → Depth), fits j → (∀ x, fits x → x ≤ j) → r.beamsMin ≤ 2 ^ j →
             d 0 = { b := 2 ^ j, c := c, k := n, e := 0 } →
             (∀ x < i, h.budgetFails (charges (d x)) ≠ none ∧ lower (d x) = some (d (x + 1))) →
             (∀ l, h.budgetFails (charges (d i)) = some l → lower (d i) = none → ∃ t, exec (.searchOccasion dt m 0 r) s = .next t ∧
               t.pending = s.pending ∧ t.mem = s.mem ∧ ({ none_ with trl := { h.trl with
                 refusedLevel := updN h.trl.refusedLevel l fun x => min (2 ^ 32 - 1) (x + 1) } } : Hw).refused t.hw m 3 f.eaxc f.id 0 0x12) ∧
             (h.budgetFails (charges (d i)) = none →
             ∃ (t : State) (o : Occasion), exec (.searchOccasion dt m 0 r) s = .next t ∧ t.pending = s.pending ∧ t.mem = s.mem ∧
               t.hw = { h with
                 fhl := { h.fhl with seqs := t.hw.fhl.seqs, cur := t.hw.fhl.cur, control := h.fhl.control ++ [k], order := h.fhl.order + 1 }
                 crn := { h.crn with
                   occasions := h.crn.occasions ++ [o], admitted := min (2 ^ 32 - 1) (h.crn.admitted + 1)
                   cut := if (d i).b = r.rows * r.cols ∧ (d i).c = r.cohReq ∧ (d i).k = r.noncohReq then h.crn.cut
                     else min (2 ^ 32 - 1) (h.crn.cut + 1) }
                 trl := { h.trl with res := t.hw.trl.res } } ∧
               o.tag = r.occTag % 2 ^ 32 ∧ o.flow = f.id ∧ o.target = k ∧ o.closing = closing (d i) ∧ o.report = report ∧ o.families = mask ∧
               o.beams = (d i).b ∧ o.ext = (d i).e ∧ o.coh = (d i).c ∧ o.noncoh = (d i).k ∧ o.bytes = bytes ((d i).b + (d i).e) ∧
               o.contexts = free.take fs.length ∧ o.groups = 0 ∧ o.active = false ∧ o.failed = false ∧
               ∀ w ∈ charges (d i), ∀ u,
                 (assoc (w.1, u) t.hw.trl.res).getD 0 = (assoc (w.1, u) h.trl.res).getD 0 + onUnit w.2 u))))) ∧
     (∀ (o : Occasion) (a b : List Occasion) (ue : List WorkUe), h.crn.occasions = a ++ o :: b → s.mem.bad = [] →
       (∀ x ∈ a ++ b, x.order ≠ o.order ∧ x.tag ≠ o.tag) → o.active = true → o.groups < o.noncoh →
       let due := h.tickAt o.target * 100000 + occFine (o.families.filterMap h.family) o.maxDelay o.coh (o.groups + 1) ≤ h.tim.c * 100000
       let kept := if o.groups = 0 then o.blocks else o.blocks.filter fun x => decide (x ∈ o.evaluated)
       let lost := o.blocks.length - kept.length
       let sound := o.cells.zipIdx.map fun x =>
         if ∃ e ∈ ue, e.cell = x.2 ∧ e.corrected = false ∧ e.buffer = none then { x.1 with p := 0 } else x.1
       let new := h.groupCells o o.groups ue
       let o' := { o with
         groups := o.groups + 1, blocks := kept, quanta := [], evaluated := [], extPartial := o.extPartial || decide (0 < lost)
         ovr := o.ovr || h.spanFlag o (h.groupEdge o o.groups) (h.groupEdge o (o.groups + 1))
         memUe := o.memUe || decide (∃ e ∈ ue, e.corrected = false)
         cells := if o.cells = [] then new.map fun x => { x with p := Config.work x.p }
           else List.zipWith (fun x y => { x with p := Config.work (x.p + y.p) }) sound new }
       let crn := { h.crn with occasions := a ++ o' :: b, extDropped := min (2 ^ 32 - 1) (h.crn.extDropped + lost) }
       (¬ due → exec (.cairnGroupEnd dt o.tag ue) s = .next { s with hw := h }) ∧
       (due → ∃ t, exec (.cairnGroupEnd dt o.tag ue) s = .next t ∧ t.pending = s.pending ∧ t.mem.cells = s.mem.cells ∧
         t.hw = ({ h with crn := crn, smem := t.hw.smem } : Hw).told t.hw ∧ (ue = [] → t.hw = { h with crn := crn } ∧ t.mem = s.mem) ∧
         ∀ e, ue = [e] → t.mem.err (e.address / 8) = some (!e.corrected) ∧
           ∀ j, secded (8 * (e.address / 8)) = some j → j < h.smem.size →
             (e.corrected = false → (getN t.hw.smem j {}).ue = min (2 ^ 32 - 1) ((getN h.smem j {}).ue + 1)) ∧
             (e.corrected = true → (getN t.hw.smem j {}).corr = min (2 ^ 32 - 1) ((getN h.smem j {}).corr + 1))))) ∧
  (∀ (s : State) (dt : Nat) (o : Occasion) (t : Template) (a b : List Occasion) (ue : List WorkUe), s.hw.Settled → s.mem.bad = [] →
     let h := s.hw.elapse dt
     h.crn.occasions = a ++ o :: b → (∀ x ∈ a ++ b, x.order ≠ o.order ∧ x.tag ≠ o.tag) → o.closing ≤ h.tim.k →
     h.image.templates.find? (fun t => t.inst == o.template) = some t →
     let kept := o.blocks.filter o.keeps
     let lost := o.blocks.length - kept.length
     let o' := { o with
       cells := Hw.zeroed ue o.cells, memUe := o.memUe || ue.any (!·.corrected), blocks := kept, extPartial := o.extPartial || decide (0 < lost) }
     let good := if o.failed = true ∨ o.groups = 0 then [] else h.detections o'
     let n := min 256 good.length
     let seq := (assoc o.flow h.fhl.genSeq).getD 0
     (∀ d ∈ good, d.delayPs ≤ o.maxDelay * 10000 ∧ (10 : Rat) ^ t.threshold ≤ d.ratio ^ 1000) ∧
     (good.Pairwise fun x y => y.ratio ≤ x.ratio) ∧
     ∃ (t' : State) (payload : Bytes), exec (.cairnReportSend dt o.tag ue) s = .next t' ∧ t'.pending = s.pending ∧ t'.mem.cells = s.mem.cells ∧ (ue = [] → t'.mem = s.mem) ∧
       (let y : TxFrame := .generic o.port o.dst o.vlan o.eaxc seq payload
        let g : Hw := { h with
         fhl := { h.fhl with genSeq := assocSet o.flow ((seq + 1) % 2 ^ 32) h.fhl.genSeq }
         out := { h.out with
           tx := h.out.tx ++ [y]
           portA := if o.port = 0 then { h.out.portA with own := h.out.portA.own ++ [y] } else h.out.portA }
         smem := t'.hw.smem
         crn := { h.crn with
           occasions := a ++ b, lastTag := o.tag, lastCount := n, lastStatus := t'.hw.crn.lastStatus
           detections := min (2 ^ 48 - 1) (h.crn.detections + n)
           truncated := if 256 < good.length then min (2 ^ 32 - 1) (h.crn.truncated + 1) else h.crn.truncated
           failed := if o.failed then min (2 ^ 32 - 1) (h.crn.failed + 1) else h.crn.failed
           extDropped := min (2 ^ 32 - 1) (h.crn.extDropped + lost), extDone := min (2 ^ 32 - 1) (h.crn.extDone + kept.length) } }
        t'.hw = g.told t'.hw ∧ (ue = [] → t'.hw = { g with smem := h.smem })) ∧
       payload.length = 64 + 24 * n ∧ payload.drop 64 = ((good.take 256).map (detBytes o')).flatten ∧
       rd payload 0 4 = o.tag % 2 ^ 32 ∧ rd payload 4 4 = o.target % 2 ^ 32 ∧ rd payload 8 4 = o.closing % 2 ^ 32 ∧
       rd payload 13 1 = t'.hw.crn.lastStatus ∧ ((t'.hw.crn.lastStatus).testBit 0 = o.failed) ∧
       ((t'.hw.crn.lastStatus).testBit 1 = decide (256 < good.length)) ∧ ((t'.hw.crn.lastStatus).testBit 2 = o.ovr) ∧
       ((t'.hw.crn.lastStatus).testBit 6 = o'.extPartial) ∧ rd payload 16 2 = o.rows * o.cols % 65536 ∧
       rd payload 18 2 = o.beams % 65536 ∧ rd payload 27 1 = o.groups % 256 ∧ rd payload 28 2 = n ∧
       rd payload 32 4 = min 0xFFFFFFFF good.length)

/-- Triggers of capture (R377, R381, R382, R384, R385): the condition of a unit is an over-range flag, a level above or below a threshold,
or
a FEM's alarm, each false on a path whose receiver is off; newly met on the paths in care it counts a hit for the armed set-up that
holds the unit; without FIRE_IN the set-up, ready, starts a record with that cause, and recording counts the trigger as missed; with
FIRE_IN the unit starts none: the record comes with the pin's edge, with cause 2 and the units that drove it. With FIRE_OUT the trigger
pulls FIRE_IO low, or prolongs the pull, until 262 cc after it; when the pull ends the pin is released. Behind the array head, a low ARM_IO
ends the readiness of an ARRAY set-up. That the pin reads low from the trigger on is the model's reading (log 82), as is when a
condition is newly met (log 63). -/
def Obligations.CaptureTriggers : Prop :=
  ∀ (s : State) (dt i : Nat) (c : CapSetup), s.hw.Settled →
    let h := s.hw.elapse dt
    let x := h.capS i
    let now := h.sta.since
    i < 32 → x.armed = true → h.image.caps.find? (fun c => c.inst == i) = some c →
    let set_ := fun (y : Cap) (k : CapAll) => { k with setups := updN k.setups i fun _ => y }
    let trig := fun (cause hits r : Nat) (vec : BitVec 64) => ({
      cause := cause, hits := hits, validPre := min c.pre ((now - r) * 3 / Hw.capPer3 c (h.slotField (·.preset))), missed := x.missed
      tick := h.tim.k % 2 ^ 32, cc := h.tim.c - h.tim.tickC, tod := todUnits h.tim.c, vector := vec, at_ := now
      per3 := Hw.capPer3 c (h.slotField (·.preset)), rate := capRate c (h.slotField (·.preset))
      n := Dsp.firstAt (capRate c (h.slotField (·.preset))) h.tim.c } : Trig)
    let missed := { x with missed := min 0xFFFFFFFF (x.missed + 1), missedCnt := min (2 ^ 32 - 1) (x.missedCnt + 1) }
    (∀ (u : Fin 2) (vec : BitVec 64), c.sources.testBit u.val = true →
      (∀ j < i, (h.capS j).armed = true → ∀ d, h.image.caps.find? (fun c => c.inst == j) = some d → d.sources.testBit u.val = false) →
      let cond := if u = 0 then c.cond0 else c.cond1
      let level : Int := -100 * (cond / 4 % 64 : Nat)
      let met := fun (n : PathId) => (h.path n).rxOn = true ∧
        if cond % 4 = 0 then (h.monitor n (h.tim.c / 2 : Nat)).flag = true else if cond % 4 = 1 then level < (h.path n).rxPower
        else if cond % 4 = 2 then (h.path n).rxPower < level else (h.path n).fem.alarmPin = true
      (∀ n : PathId, vec.getLsbD n = true ↔ met n) →
      vec &&& (if u = 0 then c.care0 else c.care1) = (if u = 0 then c.value0 else c.value1) &&& (if u = 0 then c.care0 else c.care1) →
      let hit : CapAll := { h.cap with unitHits := updN h.cap.unitHits u fun n => min (2 ^ 32 - 1) (n + 1) }
      let out := c.sources.testBit 5
      let goes := fun (k : CapAll) => exec (.captureTrigger dt u) s = .next { s with hw := { h with
        cap := k, pins := { h.pins with fireLow := h.pins.fireLow || out } } }
      let pulls := fun (y : Cap) => if out then { y with fireHits := 2 ^ u.val } else y
      let pulled : CapAll := if out then { hit with fireFrom := now + 6, fireUntil := some (now + 262) } else hit
      (out = false ∨ h.cap.fireUntil = none →
        (c.sources.testBit 3 = true → goes (set_ (pulls x) pulled)) ∧
        (c.sources.testBit 3 = false →
          (∀ r, x.trig = none → x.readyAt = some r →
            goes (set_ { pulls x with trig := some (trig u (2 ^ u.val) r vec), missed := 0 } pulled)) ∧
          (∀ t, x.trig = some t → t.at_ < now → goes (set_ (pulls missed) pulled)))) ∧
      (out = true → c.sources.testBit 3 = true → ∀ e, h.cap.fireUntil = some e → now + 6 ≤ e → h.cap.fireFrom ≠ now + 6 →
        goes { hit with fireUntil := some (now + 262) })) ∧
    (∀ r, x.trig = none → x.readyAt = some r → c.sources.testBit 3 = true →
      (∀ j < 32, j ≠ i → (h.capS j).armed = true → ∀ d, h.image.caps.find? (fun c => c.inst == j) = some d → d.sources.testBit 3 = false) →
      let hits := if h.cap.fireUntil.isSome = true ∧ h.cap.fireFrom ≤ now then x.fireHits else 0
      exec (.fireIoFall dt) s = .next { s with hw := { h with cap := set_ { x with trig := some (trig 2 hits r 0), missed := 0 } h.cap } }) ∧
    (∀ e, h.cap.fireUntil = some e → e ≤ now → exec (.firePullEnd dt) s = .next { s with hw := { h with
      cap := { h.cap with fireUntil := none, setups := h.cap.setups.map fun y => { y with fireHits := 0 } }
      pins := { h.pins with fireLow := false } } }) ∧
    (h.sys.pkgPos ≠ 0 → ∃ t, exec (.armIoChange dt false) s = .next t ∧ t.pending = s.pending ∧ t.mem = s.mem ∧
      t.hw = { h with pins := { h.pins with armIo := false }, cap := { h.cap with setups := t.hw.cap.setups } } ∧
      (c.sources.testBit 6 = true → x.trig = none → t.hw.capS i = { x with readyAt := none }) ∧
      (c.sources.testBit 6 = false ∨ x.trig.isSome = true → t.hw.capS i = x)) ∧
    (h.sys.pkgPos ≠ 0 → c.sources.testBit 6 = true → x.areaOpen = true → x.trig = none → x.readyAt = none → x.rearm = false →
      ∃ t, exec (.armIoChange dt true) s = .next t ∧ t.pending = s.pending ∧ t.mem = s.mem ∧ t.hw.pins.armIo = true ∧
        t.hw.capS i = { x with readyAt := some now, taken := [] })

/-- Records of capture (R376, R382, R383, Table 17.3): when the last sample and the header are written, the record stands in the bank of
each flank with its number, trigger, valid samples and the samples that the taps have shown; only the record areas change; EV224 + SETUP
pulses; with ONCE the set-up disarms, else its next area begins to open, after this one, or at 0 where S bytes do not remain; with STREAM
the record waits to be streamed on every flank, and the next area waits with FULL_WAIT where it would overlap a record. An area opened after
S / 512 cc is cleared and the set-up ready; one that would overlap a record disarms a set-up without STREAM, with ENDED_FULL and
CAP_BANK_FULL, and makes one with STREAM wait with FULL_WAIT. -/
def Obligations.CaptureRecords : Prop :=
  ∀ (s : State) (dt : Nat) (i : SetupId) (c : CapSetup), s.hw.Settled → s.mem.wf = true → s.mem.bad = [] →
    let h := s.hw.elapse dt
    let x := h.capS i
    let now := h.sta.since
    let size := capSize c
    let flanks := (List.range 4).filter fun f => c.flankMask.testBit f
    let outside := fun (a : Nat) => ∀ f ∈ flanks, a < 0x40000000 + f * 2097152 + x.offset ∨ 0x40000000 + f * 2097152 + x.offset + size ≤ a
    h.image.caps.find? (fun c => c.inst == i.val) = some c → x.offset % 16 = 0 → size % 16 = 0 → x.offset + size ≤ 2097152 → 64 ≤ size →
    let stream := c.flankMask.testBit 4
    (∀ (t₀ : Trig) (obs : List (QuadId × Nat × List (Int × Bool))), x.trig = some t₀ →
      let done_ := t₀.at_ + (c.length - c.pre - 1) * t₀.per3 / 3
      done_ + 16 ≤ now →
      let see := capSample ((h.capGiven obs).capSee c :: x.taken) t₀
      ∃ t, exec (.captureRecordEnd dt i obs) s = .next t ∧ t.pending = s.pending ∧ (∀ a, outside a → t.mem.get a = s.mem.get a) ∧
        (∀ f ∈ flanks,
          let a := 0x40000000 + f * 2097152 + x.offset
          t.mem.get a = BitVec.ofNat 8 i.val ∧ t.mem.get (a + 2) = BitVec.ofNat 8 f ∧ t.mem.get (a + 3) = BitVec.ofNat 8 t₀.cause ∧
            t.mem.get (a + 4) = BitVec.ofNat 8 t₀.hits ∧ (∀ j < 2, t.mem.get (a + 6 + j) = (le 2 x.recNo).getD j 0) ∧
            (∀ j < 4, t.mem.get (a + 12 + j) = (le 4 t₀.validPre).getD j 0) ∧ (∀ j < 4, t.mem.get (a + 16 + j) = (le 4 t₀.tick).getD j 0) ∧
            (∀ j < 4, t.mem.get (a + 40 + j) = (le 4 t₀.missed).getD j 0) ∧
            (let data := capAreas c t₀ (unitsOf c f) see
             ∀ j < data.length, t.mem.get (a + 64 + j) = data.getD j 0)) ∧
        (let next_ := if x.offset + size + size ≤ 2097152 then x.offset + size else 0
         let recs := h.cap.recs ++ [({ setup := i.val, no := x.recNo, offset := x.offset, size := size, trigTick := t₀.tick, flanks := flanks
                                       stream := stream, left := if stream then flanks else [] } : CapRec)]
         let full := stream = true ∧ ∃ r ∈ recs, (∃ f ∈ flanks, f ∈ r.flanks) ∧ r.offset < next_ + size ∧ next_ < r.offset + r.size
         let ended := { x with
           trig := none, readyAt := none, areaOpen := false, recNo := (x.recNo + 1) % 65536, endAt := some done_, lastNo := x.recNo
           lastHits := t₀.hits, lastCause := t₀.cause, lastShort := decide (t₀.validPre < c.pre), lastValid := true
           records := min (2 ^ 32 - 1) (x.records + 1) }
         let goes_on := if c.sources.testBit 7 = true ∨ x.disarmAfter = true then
             { ended with armed := false, opening := none, rearm := false, fullWait := false, disarmAfter := false, missed := 0 }
           else { ended with
             offset := next_, rearm := true, fullWait := decide full, opening := if full then none else some now }
         ({ h with cap := { h.cap with
           setups := updN h.cap.setups i fun _ => goes_on, recs := recs } } : Hw).pulsed { t.hw with pins := h.pins } (224 + i.val))) ∧
    (∀ b, x.opening = some b → x.armed = true → x.trig = none → x.readyAt = none →
      let meets := ∃ r ∈ h.cap.recs, (∃ f ∈ flanks, f ∈ r.flanks) ∧ r.offset < x.offset + size ∧ x.offset < r.offset + r.size
      (¬ meets → b + (size + 511) / 512 ≤ now → (c.sources.testBit 6 = false ∨ h.sys.pkgPos = 0 ∨ h.pins.armIo = true) →
        ∃ t, exec (.captureAreaOpen dt i) s = .next t ∧ t.pending = s.pending ∧ (∀ a, outside a → t.mem.get a = s.mem.get a) ∧
          (∀ a, ¬ outside a → t.mem.get a = 0) ∧
          t.hw = { h with cap := { h.cap with setups := updN h.cap.setups i fun y => { y with
            opening := none, areaOpen := true, readyAt := some now, taken := [], rearm := false
            dead := (t.hw.capS i).dead, deadLast := (t.hw.capS i).deadLast } } } ∧
          (∀ e, x.rearm = true → x.endAt = some e → (t.hw.capS i).dead = min 0xFFFFFFFE (now - e) ∧
            (t.hw.capS i).deadLast = min 0xFFFFFFFE (now - e)) ∧
          (x.rearm = true → x.endAt = none → (t.hw.capS i).dead = 0xFFFFFFFF)) ∧
      (meets → stream = true → exec (.captureAreaOpen dt i) s = .next { s with hw := { h with cap := { h.cap with
        setups := updN h.cap.setups i fun y => { y with opening := none, fullWait := true } } } }) ∧
      (meets → stream = false → ∃ t, exec (.captureAreaOpen dt i) s = .next t ∧ t.pending = s.pending ∧ t.mem = s.mem ∧
        t.hw = ({ h with cap := { h.cap with setups := updN h.cap.setups i fun y => { y with
          armed := false, opening := none, areaOpen := false, readyAt := none, rearm := false, fullWait := false, disarmAfter := false, missed := 0
          endedFull := true } } } : Hw).told t.hw ∧ t.hw.newest 0x0A05 i.val))

/-- What the chains do to samples (R81, R90, R104, R107, R111, R112, R143): a predistorter passes its input where its bank is bypassed or
all
its tables are zero, and its output has 16 bits; an NCO stands at 0 at a slot entry and advances by its word each sample; a block
cancels at most MAX_PEAKS candidates, each above the threshold, and counts the others as missed; a flagged sample is counted, and an
event needs 64 unflagged samples before it; the DAC code has 14 bits, and is zero before S7, in a trip and while the DAC is powered down;
zero is forced at the input of the chain of a path that is not enabled, or in a symbol that is not downlink, and the chain's input is zero
in a window where it is forced, while what the chain holds runs out. -/
def Obligations.SampleChains : Prop :=
  ∀ (h : Hw) (p : PathId) (x : Int → IQ) (n re : Int),
    let r := h.dpdSample p x n
    ((-32768 ≤ (x n).i ∧ (x n).i ≤ 32767) → (-32768 ≤ (x n).q ∧ (x n).q ≤ 32767) →
      (((h.path p).dpdBypass = true ∨ ∀ e, h.dpdWord p true e = 0) → r = x n)) ∧
    (-32768 ≤ r.i ∧ r.i ≤ 32767 ∧ -32768 ≤ r.q ∧ r.q ≤ 32767) ∧
    (∀ ftw, h.mode.enteredAt = some h.up → h.ncoPhase 6 1 ftw = 0) ∧
    (∀ (ftw e : Nat), h.mode.enteredAt = some e → e ≤ h.up →
      ({ h with sta := { h.sta with since := h.sta.since + 1 } } : Hw).ncoPhase 6 1 ftw = (h.ncoPhase 6 1 ftw + 6 * ftw) % 2 ^ 48) ∧
    (∀ (c : Cfr) (b : Nat) (before after : IQ) (block : List IQ),
      let z := cfrBlock c b before block after
      z.1.length = z.2.1 ∧ z.2.1 ≤ c.maxPeaks ∧ z.2.1 + z.2.2 ≤ block.length ∧ (0 < z.2.2 → z.2.1 = c.maxPeaks) ∧
        ∀ i ∈ z.1, ∃ y, block[i]? = some y ∧ aboveT c.threshold b y = true) ∧
    (∀ (quiet : Nat) (flags : List Bool), (ovrCount quiet flags).1 = (flags.filter id).length ∧
      (ovrCount quiet flags).2 ≤ (ovrCount quiet flags).1 ∧ 64 * (ovrCount quiet flags).2 ≤ quiet + flags.length) ∧
    (-8192 ≤ h.dacSample p re ∧ h.dacSample p re ≤ 8191) ∧
    ((h.sta.stage < 7 ∨ h.trl.trip = true ∨ (h.path p).txOn = false) → h.dacSample p re = 0) ∧
    ((h.txEnabled p = false ∨ ∀ sl, h.slotNow = some sl → h.tddCode sl (p.val / 4) h.tim.k ≠ 1) → h.inputForced p = true) ∧
    (∀ (w : TxWin) (older : List TxWin) (c : Nat), h.txWins = w :: older → p.val ∈ w.forced →
      let rate := if h.fftN c = 0 then 491520000 else h.fftRate c
      w.c ≤ n.toNat * 983040000 / rate → h.chainIn p c n = {})

/-- The encoding of Tor instructions (R10, R331, R334, R348, R359, Tables 15.3 to 15.6): the words of every instruction, with every field at
every value, decode to that instruction. An OP, an ALU operation or a MAC sub-operation that the tables do not give is refused by decode,
and no
other word is refused by decode (what else R334 makes illegal shows at execution; bits that the decoder does not name are log 34). The word
at an engine's program counter is read in little-endian order, and where nothing was loaded it is HALT with
code 0. -/
def Obligations.TorWords : Prop :=
  (∀ (i : Instr) (w : Word), torWord i = some w → ∃ t : EngId, torDecode t w (torExt i) = some i) ∧
  (∀ (t : EngId) (w ext : Word), torDecode t w ext = none ↔
    w.toNat / 2 ^ 26 ∉ [0, 1, 2, 3, 4, 5, 6, 7, 8, 9, 10, 11, 16, 17, 18, 19, 24, 25, 26, 27, 28, 32, 33, 34, 35, 36] ∨
      (w.toNat / 2 ^ 26 = 18 ∧ 11 ≤ w.toNat / 2 ^ 21 % 16) ∨ (w.toNat / 2 ^ 26 = 32 ∧ 6 ≤ w.toNat / 2 ^ 12 % 8)) ∧
  (∀ (s : State) (t : EngId), (∀ k < 8, s.mem.get (0x11000000 + t.val * 0x10000 + (s.hw.eng t).pc + k) = 0) →
    s.torNext t = some (.halt t false 0 0)) ∧
  (∀ (s : State) (t : EngId) (b0 b1 b2 b3 : Byte), let a := 0x11000000 + t.val * 0x10000 + (s.hw.eng t).pc
    s.mem.anyUe a 4 = false → [s.mem.get a, s.mem.get (a + 1), s.mem.get (a + 2), s.mem.get (a + 3)] = [b0, b1, b2, b3] →
    ∃ ext, s.torNext t = torDecode t (b3 ++ b2 ++ b1 ++ b0) ext)
end

