-- ==== Sys2Proof/Laws/State.lean ====
section
/-! SUPPORT. What each update of the state changes and leaves: one lemma per update and field, so that no proof unfolds a record
update; and the entries of vectors after an update. -/
namespace Sys2Proof.Machine

/-! ### Vectors -/

theorem getN_of_lt {α : Type} {n : Nat} (v : Vector α n) {i : Nat} (d : α) (h : i < n) : getN v i d = v[i] := by
  simp [getN, h]

@[simp] theorem getN_updN_same {α : Type} {n : Nat} (v : Vector α n) {i : Nat} (f : α → α) (d : α) (h : i < n) :
    getN (updN v i f) i d = f (getN v i d) := by
  simp [getN, updN, upd, h]

theorem getN_updN_ne {α : Type} {n : Nat} (v : Vector α n) {i j : Nat} (f : α → α) (d : α) (h : j ≠ i) :
    getN (updN v i f) j d = getN v j d := by
  unfold getN updN
  split
  · split
    · exact Vector.getElem_set_ne _ _ (Ne.symm h)
    · rfl
  · rfl

theorem getN_vmapi {α : Type} {n : Nat} (v : Vector α n) (f : Nat → α → α) (d : α) {i : Nat} (h : i < n) :
    getN (vmapi v f) i d = f i (getN v i d) := by
  simp [getN, vmapi, h]

theorem getN_vmapi_out {α : Type} {n : Nat} (v : Vector α n) (f : Nat → α → α) (d : α) {i : Nat} (h : ¬ i < n) :
    getN (vmapi v f) i d = d := by
  simp [getN, h]

/-! ### The state -/

@[simp] theorem State.on_pending (s : State) (f : Hw → Hw) : (s.on f).pending = s.pending := rfl
@[simp] theorem State.on_mem (s : State) (f : Hw → Hw) : (s.on f).mem = s.mem := rfl
@[simp] theorem State.on_hw (s : State) (f : Hw → Hw) : (s.on f).hw = f s.hw := rfl

namespace Hw

/-! ### Conditions and repetition -/

@[simp] theorem whenB_true (h : Hw) (f : Hw → Hw) : h.whenB true f = f h := rfl
@[simp] theorem whenB_false (h : Hw) (f : Hw → Hw) : h.whenB false f = h := rfl

/-- What `f` keeps, `f` under a condition keeps. -/
theorem whenB_keep {β : Type} (g : Hw → β) (h : Hw) (c : Bool) (f : Hw → Hw) (hf : g (f h) = g h) : g (h.whenB c f) = g h := by
  cases c
  · rfl
  · exact hf

/-- What `f` keeps for every entry, `f` over a list keeps. -/
theorem each_keep {β α : Type} (g : Hw → β) (f : Hw → α → Hw) (hf : ∀ h x, g (f h x) = g h) (l : List α) (h : Hw) :
    g (h.each l f) = g h := by
  unfold Hw.each
  induction l generalizing h with
  | nil => rfl
  | cons x r ih => exact (ih (f h x)).trans (hf h x)

@[simp] theorem each_nil {α : Type} (h : Hw) (f : Hw → α → Hw) : h.each [] f = h := rfl
@[simp] theorem each_cons {α : Type} (h : Hw) (x : α) (r : List α) (f : Hw → α → Hw) : h.each (x :: r) f = (f h x).each r f := rfl

/-! ### onPath -/

@[simp] theorem onPath_free (h : Hw) (n : Nat) (f : Path → Path) : (h.onPath n f).free = h.free := rfl
@[simp] theorem onPath_sys (h : Hw) (n : Nat) (f : Path → Path) : (h.onPath n f).sys = h.sys := rfl
@[simp] theorem onPath_pins (h : Hw) (n : Nat) (f : Path → Path) : (h.onPath n f).pins = h.pins := rfl
@[simp] theorem onPath_sta (h : Hw) (n : Nat) (f : Path → Path) : (h.onPath n f).sta = h.sta := rfl
@[simp] theorem onPath_img (h : Hw) (n : Nat) (f : Path → Path) : (h.onPath n f).img = h.img := rfl
@[simp] theorem onPath_tim (h : Hw) (n : Nat) (f : Path → Path) : (h.onPath n f).tim = h.tim := rfl
@[simp] theorem onPath_mode (h : Hw) (n : Nat) (f : Path → Path) : (h.onPath n f).mode = h.mode := rfl
@[simp] theorem onPath_paths (h : Hw) (n : Nat) (f : Path → Path) : (h.onPath n f).paths = updN h.paths n f := rfl
@[simp] theorem onPath_quads (h : Hw) (n : Nat) (f : Path → Path) : (h.onPath n f).quads = h.quads := rfl
@[simp] theorem onPath_mas (h : Hw) (n : Nat) (f : Path → Path) : (h.onPath n f).mas = h.mas := rfl
@[simp] theorem onPath_txWins (h : Hw) (n : Nat) (f : Path → Path) : (h.onPath n f).txWins = h.txWins := rfl
@[simp] theorem onPath_crn (h : Hw) (n : Nat) (f : Path → Path) : (h.onPath n f).crn = h.crn := rfl
@[simp] theorem onPath_fhl (h : Hw) (n : Nat) (f : Path → Path) : (h.onPath n f).fhl = h.fhl := rfl
@[simp] theorem onPath_trl (h : Hw) (n : Nat) (f : Path → Path) : (h.onPath n f).trl = h.trl := rfl
@[simp] theorem onPath_cal (h : Hw) (n : Nat) (f : Path → Path) : (h.onPath n f).cal = h.cal := rfl
@[simp] theorem onPath_lanes (h : Hw) (n : Nat) (f : Path → Path) : (h.onPath n f).lanes = h.lanes := rfl
@[simp] theorem onPath_ports (h : Hw) (n : Nat) (f : Path → Path) : (h.onPath n f).ports = h.ports := rfl
@[simp] theorem onPath_tor (h : Hw) (n : Nat) (f : Path → Path) : (h.onPath n f).tor = h.tor := rfl
@[simp] theorem onPath_smem (h : Hw) (n : Nat) (f : Path → Path) : (h.onPath n f).smem = h.smem := rfl
@[simp] theorem onPath_fifoParity (h : Hw) (n : Nat) (f : Path → Path) : (h.onPath n f).fifoParity = h.fifoParity := rfl
@[simp] theorem onPath_fifoSeen (h : Hw) (n : Nat) (f : Path → Path) : (h.onPath n f).fifoSeen = h.fifoSeen := rfl
@[simp] theorem onPath_dma (h : Hw) (n : Nat) (f : Path → Path) : (h.onPath n f).dma = h.dma := rfl
@[simp] theorem onPath_dmaLast (h : Hw) (n : Nat) (f : Path → Path) : (h.onPath n f).dmaLast = h.dmaLast := rfl
@[simp] theorem onPath_dmaAt (h : Hw) (n : Nat) (f : Path → Path) : (h.onPath n f).dmaAt = h.dmaAt := rfl
@[simp] theorem onPath_cap (h : Hw) (n : Nat) (f : Path → Path) : (h.onPath n f).cap = h.cap := rfl
@[simp] theorem onPath_lko (h : Hw) (n : Nat) (f : Path → Path) : (h.onPath n f).lko = h.lko := rfl
@[simp] theorem onPath_out (h : Hw) (n : Nat) (f : Path → Path) : (h.onPath n f).out = h.out := rfl

/-! ### onPaths -/

@[simp] theorem onPaths_free (h : Hw) (f : Nat → Path → Path) : (h.onPaths f).free = h.free := rfl
@[simp] theorem onPaths_sys (h : Hw) (f : Nat → Path → Path) : (h.onPaths f).sys = h.sys := rfl
@[simp] theorem onPaths_pins (h : Hw) (f : Nat → Path → Path) : (h.onPaths f).pins = h.pins := rfl
@[simp] theorem onPaths_sta (h : Hw) (f : Nat → Path → Path) : (h.onPaths f).sta = h.sta := rfl
@[simp] theorem onPaths_img (h : Hw) (f : Nat → Path → Path) : (h.onPaths f).img = h.img := rfl
@[simp] theorem onPaths_tim (h : Hw) (f : Nat → Path → Path) : (h.onPaths f).tim = h.tim := rfl
@[simp] theorem onPaths_mode (h : Hw) (f : Nat → Path → Path) : (h.onPaths f).mode = h.mode := rfl
@[simp] theorem onPaths_paths (h : Hw) (f : Nat → Path → Path) : (h.onPaths f).paths = vmapi h.paths f := rfl
@[simp] theorem onPaths_quads (h : Hw) (f : Nat → Path → Path) : (h.onPaths f).quads = h.quads := rfl
@[simp] theorem onPaths_mas (h : Hw) (f : Nat → Path → Path) : (h.onPaths f).mas = h.mas := rfl
@[simp] theorem onPaths_txWins (h : Hw) (f : Nat → Path → Path) : (h.onPaths f).txWins = h.txWins := rfl
@[simp] theorem onPaths_crn (h : Hw) (f : Nat → Path → Path) : (h.onPaths f).crn = h.crn := rfl
@[simp] theorem onPaths_fhl (h : Hw) (f : Nat → Path → Path) : (h.onPaths f).fhl = h.fhl := rfl
@[simp] theorem onPaths_trl (h : Hw) (f : Nat → Path → Path) : (h.onPaths f).trl = h.trl := rfl
@[simp] theorem onPaths_cal (h : Hw) (f : Nat → Path → Path) : (h.onPaths f).cal = h.cal := rfl
@[simp] theorem onPaths_lanes (h : Hw) (f : Nat → Path → Path) : (h.onPaths f).lanes = h.lanes := rfl
@[simp] theorem onPaths_ports (h : Hw) (f : Nat → Path → Path) : (h.onPaths f).ports = h.ports := rfl
@[simp] theorem onPaths_tor (h : Hw) (f : Nat → Path → Path) : (h.onPaths f).tor = h.tor := rfl
@[simp] theorem onPaths_smem (h : Hw) (f : Nat → Path → Path) : (h.onPaths f).smem = h.smem := rfl
@[simp] theorem onPaths_fifoParity (h : Hw) (f : Nat → Path → Path) : (h.onPaths f).fifoParity = h.fifoParity := rfl
@[simp] theorem onPaths_fifoSeen (h : Hw) (f : Nat → Path → Path) : (h.onPaths f).fifoSeen = h.fifoSeen := rfl
@[simp] theorem onPaths_dma (h : Hw) (f : Nat → Path → Path) : (h.onPaths f).dma = h.dma := rfl
@[simp] theorem onPaths_dmaLast (h : Hw) (f : Nat → Path → Path) : (h.onPaths f).dmaLast = h.dmaLast := rfl
@[simp] theorem onPaths_dmaAt (h : Hw) (f : Nat → Path → Path) : (h.onPaths f).dmaAt = h.dmaAt := rfl
@[simp] theorem onPaths_cap (h : Hw) (f : Nat → Path → Path) : (h.onPaths f).cap = h.cap := rfl
@[simp] theorem onPaths_lko (h : Hw) (f : Nat → Path → Path) : (h.onPaths f).lko = h.lko := rfl
@[simp] theorem onPaths_out (h : Hw) (f : Nat → Path → Path) : (h.onPaths f).out = h.out := rfl

/-! ### onQuad -/

@[simp] theorem onQuad_free (h : Hw) (n : Nat) (f : Quad → Quad) : (h.onQuad n f).free = h.free := rfl
@[simp] theorem onQuad_sys (h : Hw) (n : Nat) (f : Quad → Quad) : (h.onQuad n f).sys = h.sys := rfl
@[simp] theorem onQuad_pins (h : Hw) (n : Nat) (f : Quad → Quad) : (h.onQuad n f).pins = h.pins := rfl
@[simp] theorem onQuad_sta (h : Hw) (n : Nat) (f : Quad → Quad) : (h.onQuad n f).sta = h.sta := rfl
@[simp] theorem onQuad_img (h : Hw) (n : Nat) (f : Quad → Quad) : (h.onQuad n f).img = h.img := rfl
@[simp] theorem onQuad_tim (h : Hw) (n : Nat) (f : Quad → Quad) : (h.onQuad n f).tim = h.tim := rfl
@[simp] theorem onQuad_mode (h : Hw) (n : Nat) (f : Quad → Quad) : (h.onQuad n f).mode = h.mode := rfl
@[simp] theorem onQuad_paths (h : Hw) (n : Nat) (f : Quad → Quad) : (h.onQuad n f).paths = h.paths := rfl
@[simp] theorem onQuad_quads (h : Hw) (n : Nat) (f : Quad → Quad) : (h.onQuad n f).quads = updN h.quads n f := rfl
@[simp] theorem onQuad_mas (h : Hw) (n : Nat) (f : Quad → Quad) : (h.onQuad n f).mas = h.mas := rfl
@[simp] theorem onQuad_txWins (h : Hw) (n : Nat) (f : Quad → Quad) : (h.onQuad n f).txWins = h.txWins := rfl
@[simp] theorem onQuad_crn (h : Hw) (n : Nat) (f : Quad → Quad) : (h.onQuad n f).crn = h.crn := rfl
@[simp] theorem onQuad_fhl (h : Hw) (n : Nat) (f : Quad → Quad) : (h.onQuad n f).fhl = h.fhl := rfl
@[simp] theorem onQuad_trl (h : Hw) (n : Nat) (f : Quad → Quad) : (h.onQuad n f).trl = h.trl := rfl
@[simp] theorem onQuad_cal (h : Hw) (n : Nat) (f : Quad → Quad) : (h.onQuad n f).cal = h.cal := rfl
@[simp] theorem onQuad_lanes (h : Hw) (n : Nat) (f : Quad → Quad) : (h.onQuad n f).lanes = h.lanes := rfl
@[simp] theorem onQuad_ports (h : Hw) (n : Nat) (f : Quad → Quad) : (h.onQuad n f).ports = h.ports := rfl
@[simp] theorem onQuad_tor (h : Hw) (n : Nat) (f : Quad → Quad) : (h.onQuad n f).tor = h.tor := rfl
@[simp] theorem onQuad_smem (h : Hw) (n : Nat) (f : Quad → Quad) : (h.onQuad n f).smem = h.smem := rfl
@[simp] theorem onQuad_fifoParity (h : Hw) (n : Nat) (f : Quad → Quad) : (h.onQuad n f).fifoParity = h.fifoParity := rfl
@[simp] theorem onQuad_fifoSeen (h : Hw) (n : Nat) (f : Quad → Quad) : (h.onQuad n f).fifoSeen = h.fifoSeen := rfl
@[simp] theorem onQuad_dma (h : Hw) (n : Nat) (f : Quad → Quad) : (h.onQuad n f).dma = h.dma := rfl
@[simp] theorem onQuad_dmaLast (h : Hw) (n : Nat) (f : Quad → Quad) : (h.onQuad n f).dmaLast = h.dmaLast := rfl
@[simp] theorem onQuad_dmaAt (h : Hw) (n : Nat) (f : Quad → Quad) : (h.onQuad n f).dmaAt = h.dmaAt := rfl
@[simp] theorem onQuad_cap (h : Hw) (n : Nat) (f : Quad → Quad) : (h.onQuad n f).cap = h.cap := rfl
@[simp] theorem onQuad_lko (h : Hw) (n : Nat) (f : Quad → Quad) : (h.onQuad n f).lko = h.lko := rfl
@[simp] theorem onQuad_out (h : Hw) (n : Nat) (f : Quad → Quad) : (h.onQuad n f).out = h.out := rfl

/-! ### onQuads -/

@[simp] theorem onQuads_free (h : Hw) (f : Nat → Quad → Quad) : (h.onQuads f).free = h.free := rfl
@[simp] theorem onQuads_sys (h : Hw) (f : Nat → Quad → Quad) : (h.onQuads f).sys = h.sys := rfl
@[simp] theorem onQuads_pins (h : Hw) (f : Nat → Quad → Quad) : (h.onQuads f).pins = h.pins := rfl
@[simp] theorem onQuads_sta (h : Hw) (f : Nat → Quad → Quad) : (h.onQuads f).sta = h.sta := rfl
@[simp] theorem onQuads_img (h : Hw) (f : Nat → Quad → Quad) : (h.onQuads f).img = h.img := rfl
@[simp] theorem onQuads_tim (h : Hw) (f : Nat → Quad → Quad) : (h.onQuads f).tim = h.tim := rfl
@[simp] theorem onQuads_mode (h : Hw) (f : Nat → Quad → Quad) : (h.onQuads f).mode = h.mode := rfl
@[simp] theorem onQuads_paths (h : Hw) (f : Nat → Quad → Quad) : (h.onQuads f).paths = h.paths := rfl
@[simp] theorem onQuads_quads (h : Hw) (f : Nat → Quad → Quad) : (h.onQuads f).quads = vmapi h.quads f := rfl
@[simp] theorem onQuads_mas (h : Hw) (f : Nat → Quad → Quad) : (h.onQuads f).mas = h.mas := rfl
@[simp] theorem onQuads_txWins (h : Hw) (f : Nat → Quad → Quad) : (h.onQuads f).txWins = h.txWins := rfl
@[simp] theorem onQuads_crn (h : Hw) (f : Nat → Quad → Quad) : (h.onQuads f).crn = h.crn := rfl
@[simp] theorem onQuads_fhl (h : Hw) (f : Nat → Quad → Quad) : (h.onQuads f).fhl = h.fhl := rfl
@[simp] theorem onQuads_trl (h : Hw) (f : Nat → Quad → Quad) : (h.onQuads f).trl = h.trl := rfl
@[simp] theorem onQuads_cal (h : Hw) (f : Nat → Quad → Quad) : (h.onQuads f).cal = h.cal := rfl
@[simp] theorem onQuads_lanes (h : Hw) (f : Nat → Quad → Quad) : (h.onQuads f).lanes = h.lanes := rfl
@[simp] theorem onQuads_ports (h : Hw) (f : Nat → Quad → Quad) : (h.onQuads f).ports = h.ports := rfl
@[simp] theorem onQuads_tor (h : Hw) (f : Nat → Quad → Quad) : (h.onQuads f).tor = h.tor := rfl
@[simp] theorem onQuads_smem (h : Hw) (f : Nat → Quad → Quad) : (h.onQuads f).smem = h.smem := rfl
@[simp] theorem onQuads_fifoParity (h : Hw) (f : Nat → Quad → Quad) : (h.onQuads f).fifoParity = h.fifoParity := rfl
@[simp] theorem onQuads_fifoSeen (h : Hw) (f : Nat → Quad → Quad) : (h.onQuads f).fifoSeen = h.fifoSeen := rfl
@[simp] theorem onQuads_dma (h : Hw) (f : Nat → Quad → Quad) : (h.onQuads f).dma = h.dma := rfl
@[simp] theorem onQuads_dmaLast (h : Hw) (f : Nat → Quad → Quad) : (h.onQuads f).dmaLast = h.dmaLast := rfl
@[simp] theorem onQuads_dmaAt (h : Hw) (f : Nat → Quad → Quad) : (h.onQuads f).dmaAt = h.dmaAt := rfl
@[simp] theorem onQuads_cap (h : Hw) (f : Nat → Quad → Quad) : (h.onQuads f).cap = h.cap := rfl
@[simp] theorem onQuads_lko (h : Hw) (f : Nat → Quad → Quad) : (h.onQuads f).lko = h.lko := rfl
@[simp] theorem onQuads_out (h : Hw) (f : Nat → Quad → Quad) : (h.onQuads f).out = h.out := rfl

/-! ### onTor -/

@[simp] theorem onTor_free (h : Hw) (n : Nat) (f : Tor → Tor) : (h.onTor n f).free = h.free := rfl
@[simp] theorem onTor_sys (h : Hw) (n : Nat) (f : Tor → Tor) : (h.onTor n f).sys = h.sys := rfl
@[simp] theorem onTor_pins (h : Hw) (n : Nat) (f : Tor → Tor) : (h.onTor n f).pins = h.pins := rfl
@[simp] theorem onTor_sta (h : Hw) (n : Nat) (f : Tor → Tor) : (h.onTor n f).sta = h.sta := rfl
@[simp] theorem onTor_img (h : Hw) (n : Nat) (f : Tor → Tor) : (h.onTor n f).img = h.img := rfl
@[simp] theorem onTor_tim (h : Hw) (n : Nat) (f : Tor → Tor) : (h.onTor n f).tim = h.tim := rfl
@[simp] theorem onTor_mode (h : Hw) (n : Nat) (f : Tor → Tor) : (h.onTor n f).mode = h.mode := rfl
@[simp] theorem onTor_paths (h : Hw) (n : Nat) (f : Tor → Tor) : (h.onTor n f).paths = h.paths := rfl
@[simp] theorem onTor_quads (h : Hw) (n : Nat) (f : Tor → Tor) : (h.onTor n f).quads = h.quads := rfl
@[simp] theorem onTor_mas (h : Hw) (n : Nat) (f : Tor → Tor) : (h.onTor n f).mas = h.mas := rfl
@[simp] theorem onTor_txWins (h : Hw) (n : Nat) (f : Tor → Tor) : (h.onTor n f).txWins = h.txWins := rfl
@[simp] theorem onTor_crn (h : Hw) (n : Nat) (f : Tor → Tor) : (h.onTor n f).crn = h.crn := rfl
@[simp] theorem onTor_fhl (h : Hw) (n : Nat) (f : Tor → Tor) : (h.onTor n f).fhl = h.fhl := rfl
@[simp] theorem onTor_trl (h : Hw) (n : Nat) (f : Tor → Tor) : (h.onTor n f).trl = h.trl := rfl
@[simp] theorem onTor_cal (h : Hw) (n : Nat) (f : Tor → Tor) : (h.onTor n f).cal = h.cal := rfl
@[simp] theorem onTor_lanes (h : Hw) (n : Nat) (f : Tor → Tor) : (h.onTor n f).lanes = h.lanes := rfl
@[simp] theorem onTor_ports (h : Hw) (n : Nat) (f : Tor → Tor) : (h.onTor n f).ports = h.ports := rfl
@[simp] theorem onTor_tor (h : Hw) (n : Nat) (f : Tor → Tor) : (h.onTor n f).tor = updN h.tor n f := rfl
@[simp] theorem onTor_smem (h : Hw) (n : Nat) (f : Tor → Tor) : (h.onTor n f).smem = h.smem := rfl
@[simp] theorem onTor_fifoParity (h : Hw) (n : Nat) (f : Tor → Tor) : (h.onTor n f).fifoParity = h.fifoParity := rfl
@[simp] theorem onTor_fifoSeen (h : Hw) (n : Nat) (f : Tor → Tor) : (h.onTor n f).fifoSeen = h.fifoSeen := rfl
@[simp] theorem onTor_dma (h : Hw) (n : Nat) (f : Tor → Tor) : (h.onTor n f).dma = h.dma := rfl
@[simp] theorem onTor_dmaLast (h : Hw) (n : Nat) (f : Tor → Tor) : (h.onTor n f).dmaLast = h.dmaLast := rfl
@[simp] theorem onTor_dmaAt (h : Hw) (n : Nat) (f : Tor → Tor) : (h.onTor n f).dmaAt = h.dmaAt := rfl
@[simp] theorem onTor_cap (h : Hw) (n : Nat) (f : Tor → Tor) : (h.onTor n f).cap = h.cap := rfl
@[simp] theorem onTor_lko (h : Hw) (n : Nat) (f : Tor → Tor) : (h.onTor n f).lko = h.lko := rfl
@[simp] theorem onTor_out (h : Hw) (n : Nat) (f : Tor → Tor) : (h.onTor n f).out = h.out := rfl

/-! ### onTors -/

@[simp] theorem onTors_free (h : Hw) (f : Nat → Tor → Tor) : (h.onTors f).free = h.free := rfl
@[simp] theorem onTors_sys (h : Hw) (f : Nat → Tor → Tor) : (h.onTors f).sys = h.sys := rfl
@[simp] theorem onTors_pins (h : Hw) (f : Nat → Tor → Tor) : (h.onTors f).pins = h.pins := rfl
@[simp] theorem onTors_sta (h : Hw) (f : Nat → Tor → Tor) : (h.onTors f).sta = h.sta := rfl
@[simp] theorem onTors_img (h : Hw) (f : Nat → Tor → Tor) : (h.onTors f).img = h.img := rfl
@[simp] theorem onTors_tim (h : Hw) (f : Nat → Tor → Tor) : (h.onTors f).tim = h.tim := rfl
@[simp] theorem onTors_mode (h : Hw) (f : Nat → Tor → Tor) : (h.onTors f).mode = h.mode := rfl
@[simp] theorem onTors_paths (h : Hw) (f : Nat → Tor → Tor) : (h.onTors f).paths = h.paths := rfl
@[simp] theorem onTors_quads (h : Hw) (f : Nat → Tor → Tor) : (h.onTors f).quads = h.quads := rfl
@[simp] theorem onTors_mas (h : Hw) (f : Nat → Tor → Tor) : (h.onTors f).mas = h.mas := rfl
@[simp] theorem onTors_txWins (h : Hw) (f : Nat → Tor → Tor) : (h.onTors f).txWins = h.txWins := rfl
@[simp] theorem onTors_crn (h : Hw) (f : Nat → Tor → Tor) : (h.onTors f).crn = h.crn := rfl
@[simp] theorem onTors_fhl (h : Hw) (f : Nat → Tor → Tor) : (h.onTors f).fhl = h.fhl := rfl
@[simp] theorem onTors_trl (h : Hw) (f : Nat → Tor → Tor) : (h.onTors f).trl = h.trl := rfl
@[simp] theorem onTors_cal (h : Hw) (f : Nat → Tor → Tor) : (h.onTors f).cal = h.cal := rfl
@[simp] theorem onTors_lanes (h : Hw) (f : Nat → Tor → Tor) : (h.onTors f).lanes = h.lanes := rfl
@[simp] theorem onTors_ports (h : Hw) (f : Nat → Tor → Tor) : (h.onTors f).ports = h.ports := rfl
@[simp] theorem onTors_tor (h : Hw) (f : Nat → Tor → Tor) : (h.onTors f).tor = vmapi h.tor f := rfl
@[simp] theorem onTors_smem (h : Hw) (f : Nat → Tor → Tor) : (h.onTors f).smem = h.smem := rfl
@[simp] theorem onTors_fifoParity (h : Hw) (f : Nat → Tor → Tor) : (h.onTors f).fifoParity = h.fifoParity := rfl
@[simp] theorem onTors_fifoSeen (h : Hw) (f : Nat → Tor → Tor) : (h.onTors f).fifoSeen = h.fifoSeen := rfl
@[simp] theorem onTors_dma (h : Hw) (f : Nat → Tor → Tor) : (h.onTors f).dma = h.dma := rfl
@[simp] theorem onTors_dmaLast (h : Hw) (f : Nat → Tor → Tor) : (h.onTors f).dmaLast = h.dmaLast := rfl
@[simp] theorem onTors_dmaAt (h : Hw) (f : Nat → Tor → Tor) : (h.onTors f).dmaAt = h.dmaAt := rfl
@[simp] theorem onTors_cap (h : Hw) (f : Nat → Tor → Tor) : (h.onTors f).cap = h.cap := rfl
@[simp] theorem onTors_lko (h : Hw) (f : Nat → Tor → Tor) : (h.onTors f).lko = h.lko := rfl
@[simp] theorem onTors_out (h : Hw) (f : Nat → Tor → Tor) : (h.onTors f).out = h.out := rfl

/-! ### onLane -/

@[simp] theorem onLane_free (h : Hw) (n : Nat) (f : Lane → Lane) : (h.onLane n f).free = h.free := rfl
@[simp] theorem onLane_sys (h : Hw) (n : Nat) (f : Lane → Lane) : (h.onLane n f).sys = h.sys := rfl
@[simp] theorem onLane_pins (h : Hw) (n : Nat) (f : Lane → Lane) : (h.onLane n f).pins = h.pins := rfl
@[simp] theorem onLane_sta (h : Hw) (n : Nat) (f : Lane → Lane) : (h.onLane n f).sta = h.sta := rfl
@[simp] theorem onLane_img (h : Hw) (n : Nat) (f : Lane → Lane) : (h.onLane n f).img = h.img := rfl
@[simp] theorem onLane_tim (h : Hw) (n : Nat) (f : Lane → Lane) : (h.onLane n f).tim = h.tim := rfl
@[simp] theorem onLane_mode (h : Hw) (n : Nat) (f : Lane → Lane) : (h.onLane n f).mode = h.mode := rfl
@[simp] theorem onLane_paths (h : Hw) (n : Nat) (f : Lane → Lane) : (h.onLane n f).paths = h.paths := rfl
@[simp] theorem onLane_quads (h : Hw) (n : Nat) (f : Lane → Lane) : (h.onLane n f).quads = h.quads := rfl
@[simp] theorem onLane_mas (h : Hw) (n : Nat) (f : Lane → Lane) : (h.onLane n f).mas = h.mas := rfl
@[simp] theorem onLane_txWins (h : Hw) (n : Nat) (f : Lane → Lane) : (h.onLane n f).txWins = h.txWins := rfl
@[simp] theorem onLane_crn (h : Hw) (n : Nat) (f : Lane → Lane) : (h.onLane n f).crn = h.crn := rfl
@[simp] theorem onLane_fhl (h : Hw) (n : Nat) (f : Lane → Lane) : (h.onLane n f).fhl = h.fhl := rfl
@[simp] theorem onLane_trl (h : Hw) (n : Nat) (f : Lane → Lane) : (h.onLane n f).trl = h.trl := rfl
@[simp] theorem onLane_cal (h : Hw) (n : Nat) (f : Lane → Lane) : (h.onLane n f).cal = h.cal := rfl
@[simp] theorem onLane_lanes (h : Hw) (n : Nat) (f : Lane → Lane) : (h.onLane n f).lanes = updN h.lanes n f := rfl
@[simp] theorem onLane_ports (h : Hw) (n : Nat) (f : Lane → Lane) : (h.onLane n f).ports = h.ports := rfl
@[simp] theorem onLane_tor (h : Hw) (n : Nat) (f : Lane → Lane) : (h.onLane n f).tor = h.tor := rfl
@[simp] theorem onLane_smem (h : Hw) (n : Nat) (f : Lane → Lane) : (h.onLane n f).smem = h.smem := rfl
@[simp] theorem onLane_fifoParity (h : Hw) (n : Nat) (f : Lane → Lane) : (h.onLane n f).fifoParity = h.fifoParity := rfl
@[simp] theorem onLane_fifoSeen (h : Hw) (n : Nat) (f : Lane → Lane) : (h.onLane n f).fifoSeen = h.fifoSeen := rfl
@[simp] theorem onLane_dma (h : Hw) (n : Nat) (f : Lane → Lane) : (h.onLane n f).dma = h.dma := rfl
@[simp] theorem onLane_dmaLast (h : Hw) (n : Nat) (f : Lane → Lane) : (h.onLane n f).dmaLast = h.dmaLast := rfl
@[simp] theorem onLane_dmaAt (h : Hw) (n : Nat) (f : Lane → Lane) : (h.onLane n f).dmaAt = h.dmaAt := rfl
@[simp] theorem onLane_cap (h : Hw) (n : Nat) (f : Lane → Lane) : (h.onLane n f).cap = h.cap := rfl
@[simp] theorem onLane_lko (h : Hw) (n : Nat) (f : Lane → Lane) : (h.onLane n f).lko = h.lko := rfl
@[simp] theorem onLane_out (h : Hw) (n : Nat) (f : Lane → Lane) : (h.onLane n f).out = h.out := rfl

/-! ### onPort -/

@[simp] theorem onPort_free (h : Hw) (n : Nat) (f : Port → Port) : (h.onPort n f).free = h.free := rfl
@[simp] theorem onPort_sys (h : Hw) (n : Nat) (f : Port → Port) : (h.onPort n f).sys = h.sys := rfl
@[simp] theorem onPort_pins (h : Hw) (n : Nat) (f : Port → Port) : (h.onPort n f).pins = h.pins := rfl
@[simp] theorem onPort_sta (h : Hw) (n : Nat) (f : Port → Port) : (h.onPort n f).sta = h.sta := rfl
@[simp] theorem onPort_img (h : Hw) (n : Nat) (f : Port → Port) : (h.onPort n f).img = h.img := rfl
@[simp] theorem onPort_tim (h : Hw) (n : Nat) (f : Port → Port) : (h.onPort n f).tim = h.tim := rfl
@[simp] theorem onPort_mode (h : Hw) (n : Nat) (f : Port → Port) : (h.onPort n f).mode = h.mode := rfl
@[simp] theorem onPort_paths (h : Hw) (n : Nat) (f : Port → Port) : (h.onPort n f).paths = h.paths := rfl
@[simp] theorem onPort_quads (h : Hw) (n : Nat) (f : Port → Port) : (h.onPort n f).quads = h.quads := rfl
@[simp] theorem onPort_mas (h : Hw) (n : Nat) (f : Port → Port) : (h.onPort n f).mas = h.mas := rfl
@[simp] theorem onPort_txWins (h : Hw) (n : Nat) (f : Port → Port) : (h.onPort n f).txWins = h.txWins := rfl
@[simp] theorem onPort_crn (h : Hw) (n : Nat) (f : Port → Port) : (h.onPort n f).crn = h.crn := rfl
@[simp] theorem onPort_fhl (h : Hw) (n : Nat) (f : Port → Port) : (h.onPort n f).fhl = h.fhl := rfl
@[simp] theorem onPort_trl (h : Hw) (n : Nat) (f : Port → Port) : (h.onPort n f).trl = h.trl := rfl
@[simp] theorem onPort_cal (h : Hw) (n : Nat) (f : Port → Port) : (h.onPort n f).cal = h.cal := rfl
@[simp] theorem onPort_lanes (h : Hw) (n : Nat) (f : Port → Port) : (h.onPort n f).lanes = h.lanes := rfl
@[simp] theorem onPort_ports (h : Hw) (n : Nat) (f : Port → Port) : (h.onPort n f).ports = updN h.ports n f := rfl
@[simp] theorem onPort_tor (h : Hw) (n : Nat) (f : Port → Port) : (h.onPort n f).tor = h.tor := rfl
@[simp] theorem onPort_smem (h : Hw) (n : Nat) (f : Port → Port) : (h.onPort n f).smem = h.smem := rfl
@[simp] theorem onPort_fifoParity (h : Hw) (n : Nat) (f : Port → Port) : (h.onPort n f).fifoParity = h.fifoParity := rfl
@[simp] theorem onPort_fifoSeen (h : Hw) (n : Nat) (f : Port → Port) : (h.onPort n f).fifoSeen = h.fifoSeen := rfl
@[simp] theorem onPort_dma (h : Hw) (n : Nat) (f : Port → Port) : (h.onPort n f).dma = h.dma := rfl
@[simp] theorem onPort_dmaLast (h : Hw) (n : Nat) (f : Port → Port) : (h.onPort n f).dmaLast = h.dmaLast := rfl
@[simp] theorem onPort_dmaAt (h : Hw) (n : Nat) (f : Port → Port) : (h.onPort n f).dmaAt = h.dmaAt := rfl
@[simp] theorem onPort_cap (h : Hw) (n : Nat) (f : Port → Port) : (h.onPort n f).cap = h.cap := rfl
@[simp] theorem onPort_lko (h : Hw) (n : Nat) (f : Port → Port) : (h.onPort n f).lko = h.lko := rfl
@[simp] theorem onPort_out (h : Hw) (n : Nat) (f : Port → Port) : (h.onPort n f).out = h.out := rfl

/-! ### onDma -/

@[simp] theorem onDma_free (h : Hw) (n : Nat) (f : Dma → Dma) : (h.onDma n f).free = h.free := rfl
@[simp] theorem onDma_sys (h : Hw) (n : Nat) (f : Dma → Dma) : (h.onDma n f).sys = h.sys := rfl
@[simp] theorem onDma_pins (h : Hw) (n : Nat) (f : Dma → Dma) : (h.onDma n f).pins = h.pins := rfl
@[simp] theorem onDma_sta (h : Hw) (n : Nat) (f : Dma → Dma) : (h.onDma n f).sta = h.sta := rfl
@[simp] theorem onDma_img (h : Hw) (n : Nat) (f : Dma → Dma) : (h.onDma n f).img = h.img := rfl
@[simp] theorem onDma_tim (h : Hw) (n : Nat) (f : Dma → Dma) : (h.onDma n f).tim = h.tim := rfl
@[simp] theorem onDma_mode (h : Hw) (n : Nat) (f : Dma → Dma) : (h.onDma n f).mode = h.mode := rfl
@[simp] theorem onDma_paths (h : Hw) (n : Nat) (f : Dma → Dma) : (h.onDma n f).paths = h.paths := rfl
@[simp] theorem onDma_quads (h : Hw) (n : Nat) (f : Dma → Dma) : (h.onDma n f).quads = h.quads := rfl
@[simp] theorem onDma_mas (h : Hw) (n : Nat) (f : Dma → Dma) : (h.onDma n f).mas = h.mas := rfl
@[simp] theorem onDma_txWins (h : Hw) (n : Nat) (f : Dma → Dma) : (h.onDma n f).txWins = h.txWins := rfl
@[simp] theorem onDma_crn (h : Hw) (n : Nat) (f : Dma → Dma) : (h.onDma n f).crn = h.crn := rfl
@[simp] theorem onDma_fhl (h : Hw) (n : Nat) (f : Dma → Dma) : (h.onDma n f).fhl = h.fhl := rfl
@[simp] theorem onDma_trl (h : Hw) (n : Nat) (f : Dma → Dma) : (h.onDma n f).trl = h.trl := rfl
@[simp] theorem onDma_cal (h : Hw) (n : Nat) (f : Dma → Dma) : (h.onDma n f).cal = h.cal := rfl
@[simp] theorem onDma_lanes (h : Hw) (n : Nat) (f : Dma → Dma) : (h.onDma n f).lanes = h.lanes := rfl
@[simp] theorem onDma_ports (h : Hw) (n : Nat) (f : Dma → Dma) : (h.onDma n f).ports = h.ports := rfl
@[simp] theorem onDma_tor (h : Hw) (n : Nat) (f : Dma → Dma) : (h.onDma n f).tor = h.tor := rfl
@[simp] theorem onDma_smem (h : Hw) (n : Nat) (f : Dma → Dma) : (h.onDma n f).smem = h.smem := rfl
@[simp] theorem onDma_fifoParity (h : Hw) (n : Nat) (f : Dma → Dma) : (h.onDma n f).fifoParity = h.fifoParity := rfl
@[simp] theorem onDma_fifoSeen (h : Hw) (n : Nat) (f : Dma → Dma) : (h.onDma n f).fifoSeen = h.fifoSeen := rfl
@[simp] theorem onDma_dma (h : Hw) (n : Nat) (f : Dma → Dma) : (h.onDma n f).dma = updN h.dma n f := rfl
@[simp] theorem onDma_dmaLast (h : Hw) (n : Nat) (f : Dma → Dma) : (h.onDma n f).dmaLast = h.dmaLast := rfl
@[simp] theorem onDma_dmaAt (h : Hw) (n : Nat) (f : Dma → Dma) : (h.onDma n f).dmaAt = h.dmaAt := rfl
@[simp] theorem onDma_cap (h : Hw) (n : Nat) (f : Dma → Dma) : (h.onDma n f).cap = h.cap := rfl
@[simp] theorem onDma_lko (h : Hw) (n : Nat) (f : Dma → Dma) : (h.onDma n f).lko = h.lko := rfl
@[simp] theorem onDma_out (h : Hw) (n : Nat) (f : Dma → Dma) : (h.onDma n f).out = h.out := rfl

/-! ### onCap -/

@[simp] theorem onCap_free (h : Hw) (n : Nat) (f : Cap → Cap) : (h.onCap n f).free = h.free := rfl
@[simp] theorem onCap_sys (h : Hw) (n : Nat) (f : Cap → Cap) : (h.onCap n f).sys = h.sys := rfl
@[simp] theorem onCap_pins (h : Hw) (n : Nat) (f : Cap → Cap) : (h.onCap n f).pins = h.pins := rfl
@[simp] theorem onCap_sta (h : Hw) (n : Nat) (f : Cap → Cap) : (h.onCap n f).sta = h.sta := rfl
@[simp] theorem onCap_img (h : Hw) (n : Nat) (f : Cap → Cap) : (h.onCap n f).img = h.img := rfl
@[simp] theorem onCap_tim (h : Hw) (n : Nat) (f : Cap → Cap) : (h.onCap n f).tim = h.tim := rfl
@[simp] theorem onCap_mode (h : Hw) (n : Nat) (f : Cap → Cap) : (h.onCap n f).mode = h.mode := rfl
@[simp] theorem onCap_paths (h : Hw) (n : Nat) (f : Cap → Cap) : (h.onCap n f).paths = h.paths := rfl
@[simp] theorem onCap_quads (h : Hw) (n : Nat) (f : Cap → Cap) : (h.onCap n f).quads = h.quads := rfl
@[simp] theorem onCap_mas (h : Hw) (n : Nat) (f : Cap → Cap) : (h.onCap n f).mas = h.mas := rfl
@[simp] theorem onCap_txWins (h : Hw) (n : Nat) (f : Cap → Cap) : (h.onCap n f).txWins = h.txWins := rfl
@[simp] theorem onCap_crn (h : Hw) (n : Nat) (f : Cap → Cap) : (h.onCap n f).crn = h.crn := rfl
@[simp] theorem onCap_fhl (h : Hw) (n : Nat) (f : Cap → Cap) : (h.onCap n f).fhl = h.fhl := rfl
@[simp] theorem onCap_trl (h : Hw) (n : Nat) (f : Cap → Cap) : (h.onCap n f).trl = h.trl := rfl
@[simp] theorem onCap_cal (h : Hw) (n : Nat) (f : Cap → Cap) : (h.onCap n f).cal = h.cal := rfl
@[simp] theorem onCap_lanes (h : Hw) (n : Nat) (f : Cap → Cap) : (h.onCap n f).lanes = h.lanes := rfl
@[simp] theorem onCap_ports (h : Hw) (n : Nat) (f : Cap → Cap) : (h.onCap n f).ports = h.ports := rfl
@[simp] theorem onCap_tor (h : Hw) (n : Nat) (f : Cap → Cap) : (h.onCap n f).tor = h.tor := rfl
@[simp] theorem onCap_smem (h : Hw) (n : Nat) (f : Cap → Cap) : (h.onCap n f).smem = h.smem := rfl
@[simp] theorem onCap_fifoParity (h : Hw) (n : Nat) (f : Cap → Cap) : (h.onCap n f).fifoParity = h.fifoParity := rfl
@[simp] theorem onCap_fifoSeen (h : Hw) (n : Nat) (f : Cap → Cap) : (h.onCap n f).fifoSeen = h.fifoSeen := rfl
@[simp] theorem onCap_dma (h : Hw) (n : Nat) (f : Cap → Cap) : (h.onCap n f).dma = h.dma := rfl
@[simp] theorem onCap_dmaLast (h : Hw) (n : Nat) (f : Cap → Cap) : (h.onCap n f).dmaLast = h.dmaLast := rfl
@[simp] theorem onCap_dmaAt (h : Hw) (n : Nat) (f : Cap → Cap) : (h.onCap n f).dmaAt = h.dmaAt := rfl
@[simp] theorem onCap_cap (h : Hw) (n : Nat) (f : Cap → Cap) : (h.onCap n f).cap = { h.cap with setups := updN h.cap.setups n f } := rfl
@[simp] theorem onCap_lko (h : Hw) (n : Nat) (f : Cap → Cap) : (h.onCap n f).lko = h.lko := rfl
@[simp] theorem onCap_out (h : Hw) (n : Nat) (f : Cap → Cap) : (h.onCap n f).out = h.out := rfl

/-! ### onFhl -/

@[simp] theorem onFhl_free (h : Hw) (f : Fhl → Fhl) : (h.onFhl f).free = h.free := rfl
@[simp] theorem onFhl_sys (h : Hw) (f : Fhl → Fhl) : (h.onFhl f).sys = h.sys := rfl
@[simp] theorem onFhl_pins (h : Hw) (f : Fhl → Fhl) : (h.onFhl f).pins = h.pins := rfl
@[simp] theorem onFhl_sta (h : Hw) (f : Fhl → Fhl) : (h.onFhl f).sta = h.sta := rfl
@[simp] theorem onFhl_img (h : Hw) (f : Fhl → Fhl) : (h.onFhl f).img = h.img := rfl
@[simp] theorem onFhl_tim (h : Hw) (f : Fhl → Fhl) : (h.onFhl f).tim = h.tim := rfl
@[simp] theorem onFhl_mode (h : Hw) (f : Fhl → Fhl) : (h.onFhl f).mode = h.mode := rfl
@[simp] theorem onFhl_paths (h : Hw) (f : Fhl → Fhl) : (h.onFhl f).paths = h.paths := rfl
@[simp] theorem onFhl_quads (h : Hw) (f : Fhl → Fhl) : (h.onFhl f).quads = h.quads := rfl
@[simp] theorem onFhl_mas (h : Hw) (f : Fhl → Fhl) : (h.onFhl f).mas = h.mas := rfl
@[simp] theorem onFhl_txWins (h : Hw) (f : Fhl → Fhl) : (h.onFhl f).txWins = h.txWins := rfl
@[simp] theorem onFhl_crn (h : Hw) (f : Fhl → Fhl) : (h.onFhl f).crn = h.crn := rfl
@[simp] theorem onFhl_fhl (h : Hw) (f : Fhl → Fhl) : (h.onFhl f).fhl = f h.fhl := rfl
@[simp] theorem onFhl_trl (h : Hw) (f : Fhl → Fhl) : (h.onFhl f).trl = h.trl := rfl
@[simp] theorem onFhl_cal (h : Hw) (f : Fhl → Fhl) : (h.onFhl f).cal = h.cal := rfl
@[simp] theorem onFhl_lanes (h : Hw) (f : Fhl → Fhl) : (h.onFhl f).lanes = h.lanes := rfl
@[simp] theorem onFhl_ports (h : Hw) (f : Fhl → Fhl) : (h.onFhl f).ports = h.ports := rfl
@[simp] theorem onFhl_tor (h : Hw) (f : Fhl → Fhl) : (h.onFhl f).tor = h.tor := rfl
@[simp] theorem onFhl_smem (h : Hw) (f : Fhl → Fhl) : (h.onFhl f).smem = h.smem := rfl
@[simp] theorem onFhl_fifoParity (h : Hw) (f : Fhl → Fhl) : (h.onFhl f).fifoParity = h.fifoParity := rfl
@[simp] theorem onFhl_fifoSeen (h : Hw) (f : Fhl → Fhl) : (h.onFhl f).fifoSeen = h.fifoSeen := rfl
@[simp] theorem onFhl_dma (h : Hw) (f : Fhl → Fhl) : (h.onFhl f).dma = h.dma := rfl
@[simp] theorem onFhl_dmaLast (h : Hw) (f : Fhl → Fhl) : (h.onFhl f).dmaLast = h.dmaLast := rfl
@[simp] theorem onFhl_dmaAt (h : Hw) (f : Fhl → Fhl) : (h.onFhl f).dmaAt = h.dmaAt := rfl
@[simp] theorem onFhl_cap (h : Hw) (f : Fhl → Fhl) : (h.onFhl f).cap = h.cap := rfl
@[simp] theorem onFhl_lko (h : Hw) (f : Fhl → Fhl) : (h.onFhl f).lko = h.lko := rfl
@[simp] theorem onFhl_out (h : Hw) (f : Fhl → Fhl) : (h.onFhl f).out = h.out := rfl

/-! ### onTrl -/

@[simp] theorem onTrl_free (h : Hw) (f : Trl → Trl) : (h.onTrl f).free = h.free := rfl
@[simp] theorem onTrl_sys (h : Hw) (f : Trl → Trl) : (h.onTrl f).sys = h.sys := rfl
@[simp] theorem onTrl_pins (h : Hw) (f : Trl → Trl) : (h.onTrl f).pins = h.pins := rfl
@[simp] theorem onTrl_sta (h : Hw) (f : Trl → Trl) : (h.onTrl f).sta = h.sta := rfl
@[simp] theorem onTrl_img (h : Hw) (f : Trl → Trl) : (h.onTrl f).img = h.img := rfl
@[simp] theorem onTrl_tim (h : Hw) (f : Trl → Trl) : (h.onTrl f).tim = h.tim := rfl
@[simp] theorem onTrl_mode (h : Hw) (f : Trl → Trl) : (h.onTrl f).mode = h.mode := rfl
@[simp] theorem onTrl_paths (h : Hw) (f : Trl → Trl) : (h.onTrl f).paths = h.paths := rfl
@[simp] theorem onTrl_quads (h : Hw) (f : Trl → Trl) : (h.onTrl f).quads = h.quads := rfl
@[simp] theorem onTrl_mas (h : Hw) (f : Trl → Trl) : (h.onTrl f).mas = h.mas := rfl
@[simp] theorem onTrl_txWins (h : Hw) (f : Trl → Trl) : (h.onTrl f).txWins = h.txWins := rfl
@[simp] theorem onTrl_crn (h : Hw) (f : Trl → Trl) : (h.onTrl f).crn = h.crn := rfl
@[simp] theorem onTrl_fhl (h : Hw) (f : Trl → Trl) : (h.onTrl f).fhl = h.fhl := rfl
@[simp] theorem onTrl_trl (h : Hw) (f : Trl → Trl) : (h.onTrl f).trl = f h.trl := rfl
@[simp] theorem onTrl_cal (h : Hw) (f : Trl → Trl) : (h.onTrl f).cal = h.cal := rfl
@[simp] theorem onTrl_lanes (h : Hw) (f : Trl → Trl) : (h.onTrl f).lanes = h.lanes := rfl
@[simp] theorem onTrl_ports (h : Hw) (f : Trl → Trl) : (h.onTrl f).ports = h.ports := rfl
@[simp] theorem onTrl_tor (h : Hw) (f : Trl → Trl) : (h.onTrl f).tor = h.tor := rfl
@[simp] theorem onTrl_smem (h : Hw) (f : Trl → Trl) : (h.onTrl f).smem = h.smem := rfl
@[simp] theorem onTrl_fifoParity (h : Hw) (f : Trl → Trl) : (h.onTrl f).fifoParity = h.fifoParity := rfl
@[simp] theorem onTrl_fifoSeen (h : Hw) (f : Trl → Trl) : (h.onTrl f).fifoSeen = h.fifoSeen := rfl
@[simp] theorem onTrl_dma (h : Hw) (f : Trl → Trl) : (h.onTrl f).dma = h.dma := rfl
@[simp] theorem onTrl_dmaLast (h : Hw) (f : Trl → Trl) : (h.onTrl f).dmaLast = h.dmaLast := rfl
@[simp] theorem onTrl_dmaAt (h : Hw) (f : Trl → Trl) : (h.onTrl f).dmaAt = h.dmaAt := rfl
@[simp] theorem onTrl_cap (h : Hw) (f : Trl → Trl) : (h.onTrl f).cap = h.cap := rfl
@[simp] theorem onTrl_lko (h : Hw) (f : Trl → Trl) : (h.onTrl f).lko = h.lko := rfl
@[simp] theorem onTrl_out (h : Hw) (f : Trl → Trl) : (h.onTrl f).out = h.out := rfl

/-! ### onTim -/

@[simp] theorem onTim_free (h : Hw) (f : Tim → Tim) : (h.onTim f).free = h.free := rfl
@[simp] theorem onTim_sys (h : Hw) (f : Tim → Tim) : (h.onTim f).sys = h.sys := rfl
@[simp] theorem onTim_pins (h : Hw) (f : Tim → Tim) : (h.onTim f).pins = h.pins := rfl
@[simp] theorem onTim_sta (h : Hw) (f : Tim → Tim) : (h.onTim f).sta = h.sta := rfl
@[simp] theorem onTim_img (h : Hw) (f : Tim → Tim) : (h.onTim f).img = h.img := rfl
@[simp] theorem onTim_tim (h : Hw) (f : Tim → Tim) : (h.onTim f).tim = f h.tim := rfl
@[simp] theorem onTim_mode (h : Hw) (f : Tim → Tim) : (h.onTim f).mode = h.mode := rfl
@[simp] theorem onTim_paths (h : Hw) (f : Tim → Tim) : (h.onTim f).paths = h.paths := rfl
@[simp] theorem onTim_quads (h : Hw) (f : Tim → Tim) : (h.onTim f).quads = h.quads := rfl
@[simp] theorem onTim_mas (h : Hw) (f : Tim → Tim) : (h.onTim f).mas = h.mas := rfl
@[simp] theorem onTim_txWins (h : Hw) (f : Tim → Tim) : (h.onTim f).txWins = h.txWins := rfl
@[simp] theorem onTim_crn (h : Hw) (f : Tim → Tim) : (h.onTim f).crn = h.crn := rfl
@[simp] theorem onTim_fhl (h : Hw) (f : Tim → Tim) : (h.onTim f).fhl = h.fhl := rfl
@[simp] theorem onTim_trl (h : Hw) (f : Tim → Tim) : (h.onTim f).trl = h.trl := rfl
@[simp] theorem onTim_cal (h : Hw) (f : Tim → Tim) : (h.onTim f).cal = h.cal := rfl
@[simp] theorem onTim_lanes (h : Hw) (f : Tim → Tim) : (h.onTim f).lanes = h.lanes := rfl
@[simp] theorem onTim_ports (h : Hw) (f : Tim → Tim) : (h.onTim f).ports = h.ports := rfl
@[simp] theorem onTim_tor (h : Hw) (f : Tim → Tim) : (h.onTim f).tor = h.tor := rfl
@[simp] theorem onTim_smem (h : Hw) (f : Tim → Tim) : (h.onTim f).smem = h.smem := rfl
@[simp] theorem onTim_fifoParity (h : Hw) (f : Tim → Tim) : (h.onTim f).fifoParity = h.fifoParity := rfl
@[simp] theorem onTim_fifoSeen (h : Hw) (f : Tim → Tim) : (h.onTim f).fifoSeen = h.fifoSeen := rfl
@[simp] theorem onTim_dma (h : Hw) (f : Tim → Tim) : (h.onTim f).dma = h.dma := rfl
@[simp] theorem onTim_dmaLast (h : Hw) (f : Tim → Tim) : (h.onTim f).dmaLast = h.dmaLast := rfl
@[simp] theorem onTim_dmaAt (h : Hw) (f : Tim → Tim) : (h.onTim f).dmaAt = h.dmaAt := rfl
@[simp] theorem onTim_cap (h : Hw) (f : Tim → Tim) : (h.onTim f).cap = h.cap := rfl
@[simp] theorem onTim_lko (h : Hw) (f : Tim → Tim) : (h.onTim f).lko = h.lko := rfl
@[simp] theorem onTim_out (h : Hw) (f : Tim → Tim) : (h.onTim f).out = h.out := rfl

/-! ### onSta -/

@[simp] theorem onSta_free (h : Hw) (f : Sta → Sta) : (h.onSta f).free = h.free := rfl
@[simp] theorem onSta_sys (h : Hw) (f : Sta → Sta) : (h.onSta f).sys = h.sys := rfl
@[simp] theorem onSta_pins (h : Hw) (f : Sta → Sta) : (h.onSta f).pins = h.pins := rfl
@[simp] theorem onSta_sta (h : Hw) (f : Sta → Sta) : (h.onSta f).sta = f h.sta := rfl
@[simp] theorem onSta_img (h : Hw) (f : Sta → Sta) : (h.onSta f).img = h.img := rfl
@[simp] theorem onSta_tim (h : Hw) (f : Sta → Sta) : (h.onSta f).tim = h.tim := rfl
@[simp] theorem onSta_mode (h : Hw) (f : Sta → Sta) : (h.onSta f).mode = h.mode := rfl
@[simp] theorem onSta_paths (h : Hw) (f : Sta → Sta) : (h.onSta f).paths = h.paths := rfl
@[simp] theorem onSta_quads (h : Hw) (f : Sta → Sta) : (h.onSta f).quads = h.quads := rfl
@[simp] theorem onSta_mas (h : Hw) (f : Sta → Sta) : (h.onSta f).mas = h.mas := rfl
@[simp] theorem onSta_txWins (h : Hw) (f : Sta → Sta) : (h.onSta f).txWins = h.txWins := rfl
@[simp] theorem onSta_crn (h : Hw) (f : Sta → Sta) : (h.onSta f).crn = h.crn := rfl
@[simp] theorem onSta_fhl (h : Hw) (f : Sta → Sta) : (h.onSta f).fhl = h.fhl := rfl
@[simp] theorem onSta_trl (h : Hw) (f : Sta → Sta) : (h.onSta f).trl = h.trl := rfl
@[simp] theorem onSta_cal (h : Hw) (f : Sta → Sta) : (h.onSta f).cal = h.cal := rfl
@[simp] theorem onSta_lanes (h : Hw) (f : Sta → Sta) : (h.onSta f).lanes = h.lanes := rfl
@[simp] theorem onSta_ports (h : Hw) (f : Sta → Sta) : (h.onSta f).ports = h.ports := rfl
@[simp] theorem onSta_tor (h : Hw) (f : Sta → Sta) : (h.onSta f).tor = h.tor := rfl
@[simp] theorem onSta_smem (h : Hw) (f : Sta → Sta) : (h.onSta f).smem = h.smem := rfl
@[simp] theorem onSta_fifoParity (h : Hw) (f : Sta → Sta) : (h.onSta f).fifoParity = h.fifoParity := rfl
@[simp] theorem onSta_fifoSeen (h : Hw) (f : Sta → Sta) : (h.onSta f).fifoSeen = h.fifoSeen := rfl
@[simp] theorem onSta_dma (h : Hw) (f : Sta → Sta) : (h.onSta f).dma = h.dma := rfl
@[simp] theorem onSta_dmaLast (h : Hw) (f : Sta → Sta) : (h.onSta f).dmaLast = h.dmaLast := rfl
@[simp] theorem onSta_dmaAt (h : Hw) (f : Sta → Sta) : (h.onSta f).dmaAt = h.dmaAt := rfl
@[simp] theorem onSta_cap (h : Hw) (f : Sta → Sta) : (h.onSta f).cap = h.cap := rfl
@[simp] theorem onSta_lko (h : Hw) (f : Sta → Sta) : (h.onSta f).lko = h.lko := rfl
@[simp] theorem onSta_out (h : Hw) (f : Sta → Sta) : (h.onSta f).out = h.out := rfl

/-! ### onCal -/

@[simp] theorem onCal_free (h : Hw) (f : Cal → Cal) : (h.onCal f).free = h.free := rfl
@[simp] theorem onCal_sys (h : Hw) (f : Cal → Cal) : (h.onCal f).sys = h.sys := rfl
@[simp] theorem onCal_pins (h : Hw) (f : Cal → Cal) : (h.onCal f).pins = h.pins := rfl
@[simp] theorem onCal_sta (h : Hw) (f : Cal → Cal) : (h.onCal f).sta = h.sta := rfl
@[simp] theorem onCal_img (h : Hw) (f : Cal → Cal) : (h.onCal f).img = h.img := rfl
@[simp] theorem onCal_tim (h : Hw) (f : Cal → Cal) : (h.onCal f).tim = h.tim := rfl
@[simp] theorem onCal_mode (h : Hw) (f : Cal → Cal) : (h.onCal f).mode = h.mode := rfl
@[simp] theorem onCal_paths (h : Hw) (f : Cal → Cal) : (h.onCal f).paths = h.paths := rfl
@[simp] theorem onCal_quads (h : Hw) (f : Cal → Cal) : (h.onCal f).quads = h.quads := rfl
@[simp] theorem onCal_mas (h : Hw) (f : Cal → Cal) : (h.onCal f).mas = h.mas := rfl
@[simp] theorem onCal_txWins (h : Hw) (f : Cal → Cal) : (h.onCal f).txWins = h.txWins := rfl
@[simp] theorem onCal_crn (h : Hw) (f : Cal → Cal) : (h.onCal f).crn = h.crn := rfl
@[simp] theorem onCal_fhl (h : Hw) (f : Cal → Cal) : (h.onCal f).fhl = h.fhl := rfl
@[simp] theorem onCal_trl (h : Hw) (f : Cal → Cal) : (h.onCal f).trl = h.trl := rfl
@[simp] theorem onCal_cal (h : Hw) (f : Cal → Cal) : (h.onCal f).cal = f h.cal := rfl
@[simp] theorem onCal_lanes (h : Hw) (f : Cal → Cal) : (h.onCal f).lanes = h.lanes := rfl
@[simp] theorem onCal_ports (h : Hw) (f : Cal → Cal) : (h.onCal f).ports = h.ports := rfl
@[simp] theorem onCal_tor (h : Hw) (f : Cal → Cal) : (h.onCal f).tor = h.tor := rfl
@[simp] theorem onCal_smem (h : Hw) (f : Cal → Cal) : (h.onCal f).smem = h.smem := rfl
@[simp] theorem onCal_fifoParity (h : Hw) (f : Cal → Cal) : (h.onCal f).fifoParity = h.fifoParity := rfl
@[simp] theorem onCal_fifoSeen (h : Hw) (f : Cal → Cal) : (h.onCal f).fifoSeen = h.fifoSeen := rfl
@[simp] theorem onCal_dma (h : Hw) (f : Cal → Cal) : (h.onCal f).dma = h.dma := rfl
@[simp] theorem onCal_dmaLast (h : Hw) (f : Cal → Cal) : (h.onCal f).dmaLast = h.dmaLast := rfl
@[simp] theorem onCal_dmaAt (h : Hw) (f : Cal → Cal) : (h.onCal f).dmaAt = h.dmaAt := rfl
@[simp] theorem onCal_cap (h : Hw) (f : Cal → Cal) : (h.onCal f).cap = h.cap := rfl
@[simp] theorem onCal_lko (h : Hw) (f : Cal → Cal) : (h.onCal f).lko = h.lko := rfl
@[simp] theorem onCal_out (h : Hw) (f : Cal → Cal) : (h.onCal f).out = h.out := rfl

/-! ### onMas -/

@[simp] theorem onMas_free (h : Hw) (f : Mas → Mas) : (h.onMas f).free = h.free := rfl
@[simp] theorem onMas_sys (h : Hw) (f : Mas → Mas) : (h.onMas f).sys = h.sys := rfl
@[simp] theorem onMas_pins (h : Hw) (f : Mas → Mas) : (h.onMas f).pins = h.pins := rfl
@[simp] theorem onMas_sta (h : Hw) (f : Mas → Mas) : (h.onMas f).sta = h.sta := rfl
@[simp] theorem onMas_img (h : Hw) (f : Mas → Mas) : (h.onMas f).img = h.img := rfl
@[simp] theorem onMas_tim (h : Hw) (f : Mas → Mas) : (h.onMas f).tim = h.tim := rfl
@[simp] theorem onMas_mode (h : Hw) (f : Mas → Mas) : (h.onMas f).mode = h.mode := rfl
@[simp] theorem onMas_paths (h : Hw) (f : Mas → Mas) : (h.onMas f).paths = h.paths := rfl
@[simp] theorem onMas_quads (h : Hw) (f : Mas → Mas) : (h.onMas f).quads = h.quads := rfl
@[simp] theorem onMas_mas (h : Hw) (f : Mas → Mas) : (h.onMas f).mas = f h.mas := rfl
@[simp] theorem onMas_txWins (h : Hw) (f : Mas → Mas) : (h.onMas f).txWins = h.txWins := rfl
@[simp] theorem onMas_crn (h : Hw) (f : Mas → Mas) : (h.onMas f).crn = h.crn := rfl
@[simp] theorem onMas_fhl (h : Hw) (f : Mas → Mas) : (h.onMas f).fhl = h.fhl := rfl
@[simp] theorem onMas_trl (h : Hw) (f : Mas → Mas) : (h.onMas f).trl = h.trl := rfl
@[simp] theorem onMas_cal (h : Hw) (f : Mas → Mas) : (h.onMas f).cal = h.cal := rfl
@[simp] theorem onMas_lanes (h : Hw) (f : Mas → Mas) : (h.onMas f).lanes = h.lanes := rfl
@[simp] theorem onMas_ports (h : Hw) (f : Mas → Mas) : (h.onMas f).ports = h.ports := rfl
@[simp] theorem onMas_tor (h : Hw) (f : Mas → Mas) : (h.onMas f).tor = h.tor := rfl
@[simp] theorem onMas_smem (h : Hw) (f : Mas → Mas) : (h.onMas f).smem = h.smem := rfl
@[simp] theorem onMas_fifoParity (h : Hw) (f : Mas → Mas) : (h.onMas f).fifoParity = h.fifoParity := rfl
@[simp] theorem onMas_fifoSeen (h : Hw) (f : Mas → Mas) : (h.onMas f).fifoSeen = h.fifoSeen := rfl
@[simp] theorem onMas_dma (h : Hw) (f : Mas → Mas) : (h.onMas f).dma = h.dma := rfl
@[simp] theorem onMas_dmaLast (h : Hw) (f : Mas → Mas) : (h.onMas f).dmaLast = h.dmaLast := rfl
@[simp] theorem onMas_dmaAt (h : Hw) (f : Mas → Mas) : (h.onMas f).dmaAt = h.dmaAt := rfl
@[simp] theorem onMas_cap (h : Hw) (f : Mas → Mas) : (h.onMas f).cap = h.cap := rfl
@[simp] theorem onMas_lko (h : Hw) (f : Mas → Mas) : (h.onMas f).lko = h.lko := rfl
@[simp] theorem onMas_out (h : Hw) (f : Mas → Mas) : (h.onMas f).out = h.out := rfl

/-! ### onCrn -/

@[simp] theorem onCrn_free (h : Hw) (f : Crn → Crn) : (h.onCrn f).free = h.free := rfl
@[simp] theorem onCrn_sys (h : Hw) (f : Crn → Crn) : (h.onCrn f).sys = h.sys := rfl
@[simp] theorem onCrn_pins (h : Hw) (f : Crn → Crn) : (h.onCrn f).pins = h.pins := rfl
@[simp] theorem onCrn_sta (h : Hw) (f : Crn → Crn) : (h.onCrn f).sta = h.sta := rfl
@[simp] theorem onCrn_img (h : Hw) (f : Crn → Crn) : (h.onCrn f).img = h.img := rfl
@[simp] theorem onCrn_tim (h : Hw) (f : Crn → Crn) : (h.onCrn f).tim = h.tim := rfl
@[simp] theorem onCrn_mode (h : Hw) (f : Crn → Crn) : (h.onCrn f).mode = h.mode := rfl
@[simp] theorem onCrn_paths (h : Hw) (f : Crn → Crn) : (h.onCrn f).paths = h.paths := rfl
@[simp] theorem onCrn_quads (h : Hw) (f : Crn → Crn) : (h.onCrn f).quads = h.quads := rfl
@[simp] theorem onCrn_mas (h : Hw) (f : Crn → Crn) : (h.onCrn f).mas = h.mas := rfl
@[simp] theorem onCrn_txWins (h : Hw) (f : Crn → Crn) : (h.onCrn f).txWins = h.txWins := rfl
@[simp] theorem onCrn_crn (h : Hw) (f : Crn → Crn) : (h.onCrn f).crn = f h.crn := rfl
@[simp] theorem onCrn_fhl (h : Hw) (f : Crn → Crn) : (h.onCrn f).fhl = h.fhl := rfl
@[simp] theorem onCrn_trl (h : Hw) (f : Crn → Crn) : (h.onCrn f).trl = h.trl := rfl
@[simp] theorem onCrn_cal (h : Hw) (f : Crn → Crn) : (h.onCrn f).cal = h.cal := rfl
@[simp] theorem onCrn_lanes (h : Hw) (f : Crn → Crn) : (h.onCrn f).lanes = h.lanes := rfl
@[simp] theorem onCrn_ports (h : Hw) (f : Crn → Crn) : (h.onCrn f).ports = h.ports := rfl
@[simp] theorem onCrn_tor (h : Hw) (f : Crn → Crn) : (h.onCrn f).tor = h.tor := rfl
@[simp] theorem onCrn_smem (h : Hw) (f : Crn → Crn) : (h.onCrn f).smem = h.smem := rfl
@[simp] theorem onCrn_fifoParity (h : Hw) (f : Crn → Crn) : (h.onCrn f).fifoParity = h.fifoParity := rfl
@[simp] theorem onCrn_fifoSeen (h : Hw) (f : Crn → Crn) : (h.onCrn f).fifoSeen = h.fifoSeen := rfl
@[simp] theorem onCrn_dma (h : Hw) (f : Crn → Crn) : (h.onCrn f).dma = h.dma := rfl
@[simp] theorem onCrn_dmaLast (h : Hw) (f : Crn → Crn) : (h.onCrn f).dmaLast = h.dmaLast := rfl
@[simp] theorem onCrn_dmaAt (h : Hw) (f : Crn → Crn) : (h.onCrn f).dmaAt = h.dmaAt := rfl
@[simp] theorem onCrn_cap (h : Hw) (f : Crn → Crn) : (h.onCrn f).cap = h.cap := rfl
@[simp] theorem onCrn_lko (h : Hw) (f : Crn → Crn) : (h.onCrn f).lko = h.lko := rfl
@[simp] theorem onCrn_out (h : Hw) (f : Crn → Crn) : (h.onCrn f).out = h.out := rfl

/-! ### onPins -/

@[simp] theorem onPins_free (h : Hw) (f : Pins → Pins) : (h.onPins f).free = h.free := rfl
@[simp] theorem onPins_sys (h : Hw) (f : Pins → Pins) : (h.onPins f).sys = h.sys := rfl
@[simp] theorem onPins_pins (h : Hw) (f : Pins → Pins) : (h.onPins f).pins = f h.pins := rfl
@[simp] theorem onPins_sta (h : Hw) (f : Pins → Pins) : (h.onPins f).sta = h.sta := rfl
@[simp] theorem onPins_img (h : Hw) (f : Pins → Pins) : (h.onPins f).img = h.img := rfl
@[simp] theorem onPins_tim (h : Hw) (f : Pins → Pins) : (h.onPins f).tim = h.tim := rfl
@[simp] theorem onPins_mode (h : Hw) (f : Pins → Pins) : (h.onPins f).mode = h.mode := rfl
@[simp] theorem onPins_paths (h : Hw) (f : Pins → Pins) : (h.onPins f).paths = h.paths := rfl
@[simp] theorem onPins_quads (h : Hw) (f : Pins → Pins) : (h.onPins f).quads = h.quads := rfl
@[simp] theorem onPins_mas (h : Hw) (f : Pins → Pins) : (h.onPins f).mas = h.mas := rfl
@[simp] theorem onPins_txWins (h : Hw) (f : Pins → Pins) : (h.onPins f).txWins = h.txWins := rfl
@[simp] theorem onPins_crn (h : Hw) (f : Pins → Pins) : (h.onPins f).crn = h.crn := rfl
@[simp] theorem onPins_fhl (h : Hw) (f : Pins → Pins) : (h.onPins f).fhl = h.fhl := rfl
@[simp] theorem onPins_trl (h : Hw) (f : Pins → Pins) : (h.onPins f).trl = h.trl := rfl
@[simp] theorem onPins_cal (h : Hw) (f : Pins → Pins) : (h.onPins f).cal = h.cal := rfl
@[simp] theorem onPins_lanes (h : Hw) (f : Pins → Pins) : (h.onPins f).lanes = h.lanes := rfl
@[simp] theorem onPins_ports (h : Hw) (f : Pins → Pins) : (h.onPins f).ports = h.ports := rfl
@[simp] theorem onPins_tor (h : Hw) (f : Pins → Pins) : (h.onPins f).tor = h.tor := rfl
@[simp] theorem onPins_smem (h : Hw) (f : Pins → Pins) : (h.onPins f).smem = h.smem := rfl
@[simp] theorem onPins_fifoParity (h : Hw) (f : Pins → Pins) : (h.onPins f).fifoParity = h.fifoParity := rfl
@[simp] theorem onPins_fifoSeen (h : Hw) (f : Pins → Pins) : (h.onPins f).fifoSeen = h.fifoSeen := rfl
@[simp] theorem onPins_dma (h : Hw) (f : Pins → Pins) : (h.onPins f).dma = h.dma := rfl
@[simp] theorem onPins_dmaLast (h : Hw) (f : Pins → Pins) : (h.onPins f).dmaLast = h.dmaLast := rfl
@[simp] theorem onPins_dmaAt (h : Hw) (f : Pins → Pins) : (h.onPins f).dmaAt = h.dmaAt := rfl
@[simp] theorem onPins_cap (h : Hw) (f : Pins → Pins) : (h.onPins f).cap = h.cap := rfl
@[simp] theorem onPins_lko (h : Hw) (f : Pins → Pins) : (h.onPins f).lko = h.lko := rfl
@[simp] theorem onPins_out (h : Hw) (f : Pins → Pins) : (h.onPins f).out = h.out := rfl

/-! ### send -/

@[simp] theorem send_free (h : Hw) (f : TxFrame) : (h.send f).free = h.free := rfl
@[simp] theorem send_sys (h : Hw) (f : TxFrame) : (h.send f).sys = h.sys := rfl
@[simp] theorem send_pins (h : Hw) (f : TxFrame) : (h.send f).pins = h.pins := rfl
@[simp] theorem send_sta (h : Hw) (f : TxFrame) : (h.send f).sta = h.sta := rfl
@[simp] theorem send_img (h : Hw) (f : TxFrame) : (h.send f).img = h.img := rfl
@[simp] theorem send_tim (h : Hw) (f : TxFrame) : (h.send f).tim = h.tim := rfl
@[simp] theorem send_mode (h : Hw) (f : TxFrame) : (h.send f).mode = h.mode := rfl
@[simp] theorem send_paths (h : Hw) (f : TxFrame) : (h.send f).paths = h.paths := rfl
@[simp] theorem send_quads (h : Hw) (f : TxFrame) : (h.send f).quads = h.quads := rfl
@[simp] theorem send_mas (h : Hw) (f : TxFrame) : (h.send f).mas = h.mas := rfl
@[simp] theorem send_txWins (h : Hw) (f : TxFrame) : (h.send f).txWins = h.txWins := rfl
@[simp] theorem send_crn (h : Hw) (f : TxFrame) : (h.send f).crn = h.crn := rfl
@[simp] theorem send_fhl (h : Hw) (f : TxFrame) : (h.send f).fhl = h.fhl := rfl
@[simp] theorem send_trl (h : Hw) (f : TxFrame) : (h.send f).trl = h.trl := rfl
@[simp] theorem send_cal (h : Hw) (f : TxFrame) : (h.send f).cal = h.cal := rfl
@[simp] theorem send_lanes (h : Hw) (f : TxFrame) : (h.send f).lanes = h.lanes := rfl
@[simp] theorem send_ports (h : Hw) (f : TxFrame) : (h.send f).ports = h.ports := rfl
@[simp] theorem send_tor (h : Hw) (f : TxFrame) : (h.send f).tor = h.tor := rfl
@[simp] theorem send_smem (h : Hw) (f : TxFrame) : (h.send f).smem = h.smem := rfl
@[simp] theorem send_fifoParity (h : Hw) (f : TxFrame) : (h.send f).fifoParity = h.fifoParity := rfl
@[simp] theorem send_fifoSeen (h : Hw) (f : TxFrame) : (h.send f).fifoSeen = h.fifoSeen := rfl
@[simp] theorem send_dma (h : Hw) (f : TxFrame) : (h.send f).dma = h.dma := rfl
@[simp] theorem send_dmaLast (h : Hw) (f : TxFrame) : (h.send f).dmaLast = h.dmaLast := rfl
@[simp] theorem send_dmaAt (h : Hw) (f : TxFrame) : (h.send f).dmaAt = h.dmaAt := rfl
@[simp] theorem send_cap (h : Hw) (f : TxFrame) : (h.send f).cap = h.cap := rfl
@[simp] theorem send_lko (h : Hw) (f : TxFrame) : (h.send f).lko = h.lko := rfl
@[simp] theorem send_out (h : Hw) (f : TxFrame) : (h.send f).out = { h.out with tx := h.out.tx ++ [f], portA := h.out.portA.put f } := rfl

/-! ### happen -/

@[simp] theorem happen_free (h : Hw) (x : Happening) : (h.happen x).free = h.free := rfl
@[simp] theorem happen_sys (h : Hw) (x : Happening) : (h.happen x).sys = h.sys := rfl
@[simp] theorem happen_pins (h : Hw) (x : Happening) : (h.happen x).pins = h.pins := rfl
@[simp] theorem happen_sta (h : Hw) (x : Happening) : (h.happen x).sta = h.sta := rfl
@[simp] theorem happen_img (h : Hw) (x : Happening) : (h.happen x).img = h.img := rfl
@[simp] theorem happen_tim (h : Hw) (x : Happening) : (h.happen x).tim = h.tim := rfl
@[simp] theorem happen_mode (h : Hw) (x : Happening) : (h.happen x).mode = h.mode := rfl
@[simp] theorem happen_paths (h : Hw) (x : Happening) : (h.happen x).paths = h.paths := rfl
@[simp] theorem happen_quads (h : Hw) (x : Happening) : (h.happen x).quads = h.quads := rfl
@[simp] theorem happen_mas (h : Hw) (x : Happening) : (h.happen x).mas = h.mas := rfl
@[simp] theorem happen_txWins (h : Hw) (x : Happening) : (h.happen x).txWins = h.txWins := rfl
@[simp] theorem happen_crn (h : Hw) (x : Happening) : (h.happen x).crn = h.crn := rfl
@[simp] theorem happen_fhl (h : Hw) (x : Happening) : (h.happen x).fhl = h.fhl := rfl
@[simp] theorem happen_trl (h : Hw) (x : Happening) : (h.happen x).trl = h.trl := rfl
@[simp] theorem happen_cal (h : Hw) (x : Happening) : (h.happen x).cal = h.cal := rfl
@[simp] theorem happen_lanes (h : Hw) (x : Happening) : (h.happen x).lanes = h.lanes := rfl
@[simp] theorem happen_ports (h : Hw) (x : Happening) : (h.happen x).ports = h.ports := rfl
@[simp] theorem happen_tor (h : Hw) (x : Happening) : (h.happen x).tor = h.tor := rfl
@[simp] theorem happen_smem (h : Hw) (x : Happening) : (h.happen x).smem = h.smem := rfl
@[simp] theorem happen_fifoParity (h : Hw) (x : Happening) : (h.happen x).fifoParity = h.fifoParity := rfl
@[simp] theorem happen_fifoSeen (h : Hw) (x : Happening) : (h.happen x).fifoSeen = h.fifoSeen := rfl
@[simp] theorem happen_dma (h : Hw) (x : Happening) : (h.happen x).dma = h.dma := rfl
@[simp] theorem happen_dmaLast (h : Hw) (x : Happening) : (h.happen x).dmaLast = h.dmaLast := rfl
@[simp] theorem happen_dmaAt (h : Hw) (x : Happening) : (h.happen x).dmaAt = h.dmaAt := rfl
@[simp] theorem happen_cap (h : Hw) (x : Happening) : (h.happen x).cap = h.cap := rfl
@[simp] theorem happen_lko (h : Hw) (x : Happening) : (h.happen x).lko = { h.lko with pend := h.lko.pend ++ [h.seen x] } := rfl
@[simp] theorem happen_out (h : Hw) (x : Happening) : (h.happen x).out = h.out := rfl

/-! ### alarm -/

@[simp] theorem alarm_free (h : Hw) (c : Nat) (g : Int) (e : Nat) : (h.alarm c g e).free = h.free := rfl
@[simp] theorem alarm_sys (h : Hw) (c : Nat) (g : Int) (e : Nat) : (h.alarm c g e).sys = h.sys := rfl
@[simp] theorem alarm_pins (h : Hw) (c : Nat) (g : Int) (e : Nat) : (h.alarm c g e).pins = h.pins := rfl
@[simp] theorem alarm_sta (h : Hw) (c : Nat) (g : Int) (e : Nat) : (h.alarm c g e).sta = h.sta := rfl
@[simp] theorem alarm_img (h : Hw) (c : Nat) (g : Int) (e : Nat) : (h.alarm c g e).img = h.img := rfl
@[simp] theorem alarm_tim (h : Hw) (c : Nat) (g : Int) (e : Nat) : (h.alarm c g e).tim = h.tim := rfl
@[simp] theorem alarm_mode (h : Hw) (c : Nat) (g : Int) (e : Nat) : (h.alarm c g e).mode = h.mode := rfl
@[simp] theorem alarm_paths (h : Hw) (c : Nat) (g : Int) (e : Nat) : (h.alarm c g e).paths = h.paths := rfl
@[simp] theorem alarm_quads (h : Hw) (c : Nat) (g : Int) (e : Nat) : (h.alarm c g e).quads = h.quads := rfl
@[simp] theorem alarm_mas (h : Hw) (c : Nat) (g : Int) (e : Nat) : (h.alarm c g e).mas = h.mas := rfl
@[simp] theorem alarm_txWins (h : Hw) (c : Nat) (g : Int) (e : Nat) : (h.alarm c g e).txWins = h.txWins := rfl
@[simp] theorem alarm_crn (h : Hw) (c : Nat) (g : Int) (e : Nat) : (h.alarm c g e).crn = h.crn := rfl
@[simp] theorem alarm_fhl (h : Hw) (c : Nat) (g : Int) (e : Nat) : (h.alarm c g e).fhl = h.fhl := rfl
@[simp] theorem alarm_trl (h : Hw) (c : Nat) (g : Int) (e : Nat) : (h.alarm c g e).trl = h.trl := rfl
@[simp] theorem alarm_cal (h : Hw) (c : Nat) (g : Int) (e : Nat) : (h.alarm c g e).cal = h.cal := rfl
@[simp] theorem alarm_lanes (h : Hw) (c : Nat) (g : Int) (e : Nat) : (h.alarm c g e).lanes = h.lanes := rfl
@[simp] theorem alarm_ports (h : Hw) (c : Nat) (g : Int) (e : Nat) : (h.alarm c g e).ports = h.ports := rfl
@[simp] theorem alarm_tor (h : Hw) (c : Nat) (g : Int) (e : Nat) : (h.alarm c g e).tor = h.tor := rfl
@[simp] theorem alarm_smem (h : Hw) (c : Nat) (g : Int) (e : Nat) : (h.alarm c g e).smem = h.smem := rfl
@[simp] theorem alarm_fifoParity (h : Hw) (c : Nat) (g : Int) (e : Nat) : (h.alarm c g e).fifoParity = h.fifoParity := rfl
@[simp] theorem alarm_fifoSeen (h : Hw) (c : Nat) (g : Int) (e : Nat) : (h.alarm c g e).fifoSeen = h.fifoSeen := rfl
@[simp] theorem alarm_dma (h : Hw) (c : Nat) (g : Int) (e : Nat) : (h.alarm c g e).dma = h.dma := rfl
@[simp] theorem alarm_dmaLast (h : Hw) (c : Nat) (g : Int) (e : Nat) : (h.alarm c g e).dmaLast = h.dmaLast := rfl
@[simp] theorem alarm_dmaAt (h : Hw) (c : Nat) (g : Int) (e : Nat) : (h.alarm c g e).dmaAt = h.dmaAt := rfl
@[simp] theorem alarm_cap (h : Hw) (c : Nat) (g : Int) (e : Nat) : (h.alarm c g e).cap = h.cap := rfl
@[simp] theorem alarm_lko (h : Hw) (c : Nat) (g : Int) (e : Nat) : (h.alarm c g e).lko = { h.lko with pend := h.lko.pend ++ [h.seen { code := c, arg := g, extra := e }] } := rfl
@[simp] theorem alarm_out (h : Hw) (c : Nat) (g : Int) (e : Nat) : (h.alarm c g e).out = h.out := rfl

/-! ### cease -/

@[simp] theorem cease_free (h : Hw) (c : Nat) (g : Int) : (h.cease c g).free = h.free := rfl
@[simp] theorem cease_sys (h : Hw) (c : Nat) (g : Int) : (h.cease c g).sys = h.sys := rfl
@[simp] theorem cease_pins (h : Hw) (c : Nat) (g : Int) : (h.cease c g).pins = h.pins := rfl
@[simp] theorem cease_sta (h : Hw) (c : Nat) (g : Int) : (h.cease c g).sta = h.sta := rfl
@[simp] theorem cease_img (h : Hw) (c : Nat) (g : Int) : (h.cease c g).img = h.img := rfl
@[simp] theorem cease_tim (h : Hw) (c : Nat) (g : Int) : (h.cease c g).tim = h.tim := rfl
@[simp] theorem cease_mode (h : Hw) (c : Nat) (g : Int) : (h.cease c g).mode = h.mode := rfl
@[simp] theorem cease_paths (h : Hw) (c : Nat) (g : Int) : (h.cease c g).paths = h.paths := rfl
@[simp] theorem cease_quads (h : Hw) (c : Nat) (g : Int) : (h.cease c g).quads = h.quads := rfl
@[simp] theorem cease_mas (h : Hw) (c : Nat) (g : Int) : (h.cease c g).mas = h.mas := rfl
@[simp] theorem cease_txWins (h : Hw) (c : Nat) (g : Int) : (h.cease c g).txWins = h.txWins := rfl
@[simp] theorem cease_crn (h : Hw) (c : Nat) (g : Int) : (h.cease c g).crn = h.crn := rfl
@[simp] theorem cease_fhl (h : Hw) (c : Nat) (g : Int) : (h.cease c g).fhl = h.fhl := rfl
@[simp] theorem cease_trl (h : Hw) (c : Nat) (g : Int) : (h.cease c g).trl = h.trl := rfl
@[simp] theorem cease_cal (h : Hw) (c : Nat) (g : Int) : (h.cease c g).cal = h.cal := rfl
@[simp] theorem cease_lanes (h : Hw) (c : Nat) (g : Int) : (h.cease c g).lanes = h.lanes := rfl
@[simp] theorem cease_ports (h : Hw) (c : Nat) (g : Int) : (h.cease c g).ports = h.ports := rfl
@[simp] theorem cease_tor (h : Hw) (c : Nat) (g : Int) : (h.cease c g).tor = h.tor := rfl
@[simp] theorem cease_smem (h : Hw) (c : Nat) (g : Int) : (h.cease c g).smem = h.smem := rfl
@[simp] theorem cease_fifoParity (h : Hw) (c : Nat) (g : Int) : (h.cease c g).fifoParity = h.fifoParity := rfl
@[simp] theorem cease_fifoSeen (h : Hw) (c : Nat) (g : Int) : (h.cease c g).fifoSeen = h.fifoSeen := rfl
@[simp] theorem cease_dma (h : Hw) (c : Nat) (g : Int) : (h.cease c g).dma = h.dma := rfl
@[simp] theorem cease_dmaLast (h : Hw) (c : Nat) (g : Int) : (h.cease c g).dmaLast = h.dmaLast := rfl
@[simp] theorem cease_dmaAt (h : Hw) (c : Nat) (g : Int) : (h.cease c g).dmaAt = h.dmaAt := rfl
@[simp] theorem cease_cap (h : Hw) (c : Nat) (g : Int) : (h.cease c g).cap = h.cap := rfl
@[simp] theorem cease_lko (h : Hw) (c : Nat) (g : Int) : (h.cease c g).lko = { h.lko with pend := h.lko.pend ++ [h.seen { code := c, arg := g, cease := true }] } := rfl
@[simp] theorem cease_out (h : Hw) (c : Nat) (g : Int) : (h.cease c g).out = h.out := rfl

/-! ### Entries after an update -/

theorem onPath_path (h : Hw) {n : Nat} (f : Path → Path) (hn : n < 64) : (h.onPath n f).path n = f (h.path n) :=
  getN_updN_same _ f _ hn
theorem onPath_path_ne (h : Hw) {n m : Nat} (f : Path → Path) (hm : m ≠ n) : (h.onPath n f).path m = h.path m :=
  getN_updN_ne _ f _ hm
theorem onPaths_path (h : Hw) (f : Nat → Path → Path) {n : Nat} (hn : n < 64) : (h.onPaths f).path n = f n (h.path n) :=
  getN_vmapi _ f _ hn
theorem onQuad_quad (h : Hw) {n : Nat} (f : Quad → Quad) (hn : n < 16) : (h.onQuad n f).quad n = f (h.quad n) :=
  getN_updN_same _ f _ hn
theorem onQuad_quad_ne (h : Hw) {n m : Nat} (f : Quad → Quad) (hm : m ≠ n) : (h.onQuad n f).quad m = h.quad m :=
  getN_updN_ne _ f _ hm
theorem onQuads_quad (h : Hw) (f : Nat → Quad → Quad) {n : Nat} (hn : n < 16) : (h.onQuads f).quad n = f n (h.quad n) :=
  getN_vmapi _ f _ hn
theorem onTor_eng (h : Hw) {n : Nat} (f : Tor → Tor) (hn : n < 16) : (h.onTor n f).eng n = f (h.eng n) :=
  getN_updN_same _ f _ hn
theorem onTor_eng_ne (h : Hw) {n m : Nat} (f : Tor → Tor) (hm : m ≠ n) : (h.onTor n f).eng m = h.eng m :=
  getN_updN_ne _ f _ hm
theorem onTors_eng (h : Hw) (f : Nat → Tor → Tor) {n : Nat} (hn : n < 16) : (h.onTors f).eng n = f n (h.eng n) :=
  getN_vmapi _ f _ hn
theorem onLane_lane (h : Hw) {n : Nat} (f : Lane → Lane) (hn : n < 8) : (h.onLane n f).lane n = f (h.lane n) :=
  getN_updN_same _ f _ hn
theorem onLane_lane_ne (h : Hw) {n m : Nat} (f : Lane → Lane) (hm : m ≠ n) : (h.onLane n f).lane m = h.lane m :=
  getN_updN_ne _ f _ hm
theorem onPort_port (h : Hw) {n : Nat} (f : Port → Port) (hn : n < 2) : (h.onPort n f).port n = f (h.port n) :=
  getN_updN_same _ f _ hn
theorem onPort_port_ne (h : Hw) {n m : Nat} (f : Port → Port) (hm : m ≠ n) : (h.onPort n f).port m = h.port m :=
  getN_updN_ne _ f _ hm
theorem onDma_ch (h : Hw) {n : Nat} (f : Dma → Dma) (hn : n < 32) : (h.onDma n f).ch n = f (h.ch n) :=
  getN_updN_same _ f _ hn
theorem onDma_ch_ne (h : Hw) {n m : Nat} (f : Dma → Dma) (hm : m ≠ n) : (h.onDma n f).ch m = h.ch m :=
  getN_updN_ne _ f _ hm
theorem onCap_capS (h : Hw) {n : Nat} (f : Cap → Cap) (hn : n < 32) : (h.onCap n f).capS n = f (h.capS n) :=
  getN_updN_same _ f _ hn
theorem onCap_capS_ne (h : Hw) {n m : Nat} (f : Cap → Cap) (hm : m ≠ n) : (h.onCap n f).capS m = h.capS m :=
  getN_updN_ne _ f _ hm

end Hw
end Sys2Proof.Machine
end

