-- ==== Sys2Proof/Laws/Settle.lean ====
section
/-! SUPPORT. What the passing of time and the end of a command can change (R205, R256, R400, R402), said once: every meaning begins
with the one and ends with the other. -/
namespace Sys2Proof.Machine
namespace Hw

/-! ### Indications -/

/-- All that `elapse`, `settle` and the alarms leave alone. -/
def core (h : Hw) : Nat × Sys × Img × Mode × Vector Path 64 × Vector Quad 16 × Mas × List TxWin × Crn × Trl × Cal × Vector Lane 8 × Vector Port 2 ×
    Vector Tor 16 × Vector SMem 45 × Nat × Bool × Vector Dma 32 × Vector Nat 4 × Option Nat × CapAll :=
  (h.free, h.sys, h.img, h.mode, h.paths, h.quads, h.mas, h.txWins, h.crn, h.trl, h.cal, h.lanes, h.ports, h.tor, h.smem, h.fifoParity,
    h.fifoSeen, h.dma, h.dmaLast, h.dmaAt, h.cap)

/-- The fronthaul state with the parts that an indication changes set to fixed values. -/
def fhlRest (h : Hw) : Fhl := { h.fhl with queue := [], indCount := 0, refusalLost := 0 }

/-- The fronthaul state with those that the passing of time changes set to fixed values. -/
def fhlStill (h : Hw) : Fhl := { h.fhl with queue := [], rmaPending := 0 }

/-- What HC0's taking of a happening leaves. -/
def kept (h : Hw) : (Nat × Sys × Img × Mode × Vector Path 64 × Vector Quad 16 × Mas × List TxWin × Crn × Trl × Cal × Vector Lane 8 × Vector Port 2 ×
    Vector Tor 16 × Vector SMem 45 × Nat × Bool × Vector Dma 32 × Vector Nat 4 × Option Nat × CapAll) × Sta × Tim × Out × Fhl × Pins :=
  (h.core, h.sta, h.tim, h.out, h.fhlRest, h.pins)

theorem indicate_kept (h : Hw) (d : Nat) (v : Option Nat) (ty : Nat) (els : List Bytes) : (h.indicate d v ty els).kept = h.kept := by
  unfold indicate
  split <;> rfl

theorem indicate_lko (h : Hw) (d : Nat) (v : Option Nat) (ty : Nat) (els : List Bytes) : (h.indicate d v ty els).lko = h.lko := by
  unfold indicate
  split <;> rfl

theorem sendAlarm_kept (h : Hw) (x : Happening) : (h.sendAlarm x).kept = h.kept := by
  unfold sendAlarm
  split
  · rfl
  · exact indicate_kept ..

theorem sendAlarm_lko (h : Hw) (x : Happening) : (h.sendAlarm x).lko = h.lko := by
  unfold sendAlarm
  split
  · rfl
  · exact indicate_lko ..

theorem logEntry_kept (h : Hw) (x : Happening) (b : Bool) : (h.logEntry x b).kept = h.kept := rfl

theorem take1_kept (h : Hw) (x : Happening) : (h.take1 x).kept = h.kept := by
  unfold take1
  extract_lets key dup sent h1 h2
  have e : h2.kept = h.kept :=
    (whenB_keep kept h1 _ _ (sendAlarm_kept h1 x)).trans (logEntry_kept h x sent)
  split
  · rfl
  · split
    · exact e
    · split <;> exact e

theorem take1_pend (h : Hw) (x : Happening) : (h.take1 x).lko.pend = h.lko.pend := by
  unfold take1
  extract_lets key dup sent h1 h2
  have e : h2.lko.pend = h.lko.pend :=
    whenB_keep (fun h => h.lko.pend) h1 _ _ (by rw [sendAlarm_lko])
  split
  · rfl
  · split
    · exact e
    · split <;> exact e

/-- The registers after HC0 has taken the happenings, before the pins follow. -/
def taken (h : Hw) : Hw := ({ h with lko := { h.lko with pend := [] } }).each (sortBy order h.lko.pend) take1

theorem settle_eq (h : Hw) : h.settle = h.taken.onPins fun p =>
    { p with alarm := h.taken.alarmPin, armIo := h.taken.armLevel, stat := if h.taken.sta.stage = 0 then 0 else h.taken.sta.stage - 1 } := rfl

theorem taken_kept (h : Hw) : h.taken.kept = h.kept := each_keep kept take1 take1_kept _ _

/-- With no happening waiting HC0 takes nothing. -/
theorem taken_nil (h : Hw) (e : h.lko.pend = []) : h.taken = h := by
  unfold taken
  rw [e]
  have : ({ h with lko := { h.lko with pend := [] } } : Hw) = h := by rw [← e]
  simp [sortBy, this]

/-- One happening waiting is the one HC0 takes. -/
theorem taken_one (h : Hw) (x : Happening) (e : h.lko.pend = [x]) :
    h.taken = ({ h with lko := { h.lko with pend := [] } } : Hw).take1 x := by
  unfold taken
  rw [e]
  rfl

theorem taken_pend (h : Hw) : h.taken.lko.pend = [] := each_keep (fun h => h.lko.pend) take1 take1_pend _ _

/-! ### The end of a command -/

theorem settle_core (h : Hw) : h.settle.core = h.core := congrArg Prod.fst (taken_kept h)
@[simp] theorem settle_free (h : Hw) : h.settle.free = h.free := congrArg (fun r => r.1) (settle_core h)
@[simp] theorem settle_sys (h : Hw) : h.settle.sys = h.sys := congrArg (fun r => r.2.1) (settle_core h)
@[simp] theorem settle_img (h : Hw) : h.settle.img = h.img := congrArg (fun r => r.2.2.1) (settle_core h)
@[simp] theorem settle_mode (h : Hw) : h.settle.mode = h.mode := congrArg (fun r => r.2.2.2.1) (settle_core h)
@[simp] theorem settle_paths (h : Hw) : h.settle.paths = h.paths := congrArg (fun r => r.2.2.2.2.1) (settle_core h)
@[simp] theorem settle_quads (h : Hw) : h.settle.quads = h.quads := congrArg (fun r => r.2.2.2.2.2.1) (settle_core h)
@[simp] theorem settle_mas (h : Hw) : h.settle.mas = h.mas := congrArg (fun r => r.2.2.2.2.2.2.1) (settle_core h)
@[simp] theorem settle_txWins (h : Hw) : h.settle.txWins = h.txWins := congrArg (fun r => r.2.2.2.2.2.2.2.1) (settle_core h)
@[simp] theorem settle_crn (h : Hw) : h.settle.crn = h.crn := congrArg (fun r => r.2.2.2.2.2.2.2.2.1) (settle_core h)
@[simp] theorem settle_trl (h : Hw) : h.settle.trl = h.trl := congrArg (fun r => r.2.2.2.2.2.2.2.2.2.1) (settle_core h)
@[simp] theorem settle_cal (h : Hw) : h.settle.cal = h.cal := congrArg (fun r => r.2.2.2.2.2.2.2.2.2.2.1) (settle_core h)
@[simp] theorem settle_lanes (h : Hw) : h.settle.lanes = h.lanes := congrArg (fun r => r.2.2.2.2.2.2.2.2.2.2.2.1) (settle_core h)
@[simp] theorem settle_ports (h : Hw) : h.settle.ports = h.ports := congrArg (fun r => r.2.2.2.2.2.2.2.2.2.2.2.2.1) (settle_core h)
@[simp] theorem settle_tor (h : Hw) : h.settle.tor = h.tor := congrArg (fun r => r.2.2.2.2.2.2.2.2.2.2.2.2.2.1) (settle_core h)
@[simp] theorem settle_smem (h : Hw) : h.settle.smem = h.smem := congrArg (fun r => r.2.2.2.2.2.2.2.2.2.2.2.2.2.2.1) (settle_core h)
@[simp] theorem settle_fifoParity (h : Hw) : h.settle.fifoParity = h.fifoParity := congrArg (fun r => r.2.2.2.2.2.2.2.2.2.2.2.2.2.2.2.1) (settle_core h)
@[simp] theorem settle_fifoSeen (h : Hw) : h.settle.fifoSeen = h.fifoSeen := congrArg (fun r => r.2.2.2.2.2.2.2.2.2.2.2.2.2.2.2.2.1) (settle_core h)
@[simp] theorem settle_dma (h : Hw) : h.settle.dma = h.dma := congrArg (fun r => r.2.2.2.2.2.2.2.2.2.2.2.2.2.2.2.2.2.1) (settle_core h)
@[simp] theorem settle_dmaLast (h : Hw) : h.settle.dmaLast = h.dmaLast := congrArg (fun r => r.2.2.2.2.2.2.2.2.2.2.2.2.2.2.2.2.2.2.1) (settle_core h)
@[simp] theorem settle_dmaAt (h : Hw) : h.settle.dmaAt = h.dmaAt := congrArg (fun r => r.2.2.2.2.2.2.2.2.2.2.2.2.2.2.2.2.2.2.2.1) (settle_core h)
@[simp] theorem settle_cap (h : Hw) : h.settle.cap = h.cap := congrArg (fun r => r.2.2.2.2.2.2.2.2.2.2.2.2.2.2.2.2.2.2.2.2) (settle_core h)
@[simp] theorem settle_sta (h : Hw) : h.settle.sta = h.sta := congrArg (fun r => r.2.1) (taken_kept h)
@[simp] theorem settle_tim (h : Hw) : h.settle.tim = h.tim := congrArg (fun r => r.2.2.1) (taken_kept h)
@[simp] theorem settle_out (h : Hw) : h.settle.out = h.out := congrArg (fun r => r.2.2.2.1) (taken_kept h)
theorem settle_fhlRest (h : Hw) : h.settle.fhlRest = h.fhlRest := congrArg (fun r => r.2.2.2.2.1) (taken_kept h)
@[simp] theorem settle_fhl_seqs (h : Hw) : h.settle.fhl.seqs = h.fhl.seqs := congrArg (fun r => r.seqs) (settle_fhlRest h)
@[simp] theorem settle_fhl_genSeq (h : Hw) : h.settle.fhl.genSeq = h.fhl.genSeq := congrArg (fun r => r.genSeq) (settle_fhlRest h)
@[simp] theorem settle_fhl_dl (h : Hw) : h.settle.fhl.dl = h.fhl.dl := congrArg (fun r => r.dl) (settle_fhlRest h)
@[simp] theorem settle_fhl_ul (h : Hw) : h.settle.fhl.ul = h.fhl.ul := congrArg (fun r => r.ul) (settle_fhlRest h)
@[simp] theorem settle_fhl_control (h : Hw) : h.settle.fhl.control = h.fhl.control := congrArg (fun r => r.control) (settle_fhlRest h)
@[simp] theorem settle_fhl_order (h : Hw) : h.settle.fhl.order = h.fhl.order := congrArg (fun r => r.order) (settle_fhlRest h)
@[simp] theorem settle_fhl_cur (h : Hw) : h.settle.fhl.cur = h.fhl.cur := congrArg (fun r => r.cur) (settle_fhlRest h)
@[simp] theorem settle_fhl_rxFrames (h : Hw) : h.settle.fhl.rxFrames = h.fhl.rxFrames := congrArg (fun r => r.rxFrames) (settle_fhlRest h)
@[simp] theorem settle_fhl_fcsBad (h : Hw) : h.settle.fhl.fcsBad = h.fhl.fcsBad := congrArg (fun r => r.fcsBad) (settle_fhlRest h)
@[simp] theorem settle_fhl_oversize (h : Hw) : h.settle.fhl.oversize = h.fhl.oversize := congrArg (fun r => r.oversize) (settle_fhlRest h)
@[simp] theorem settle_fhl_otherDropped (h : Hw) : h.settle.fhl.otherDropped = h.fhl.otherDropped := congrArg (fun r => r.otherDropped) (settle_fhlRest h)
@[simp] theorem settle_fhl_undersize (h : Hw) : h.settle.fhl.undersize = h.fhl.undersize := congrArg (fun r => r.undersize) (settle_fhlRest h)
@[simp] theorem settle_fhl_refused (h : Hw) : h.settle.fhl.refused = h.fhl.refused := congrArg (fun r => r.refused) (settle_fhlRest h)
@[simp] theorem settle_fhl_fwdA2b (h : Hw) : h.settle.fhl.fwdA2b = h.fhl.fwdA2b := congrArg (fun r => r.fwdA2b) (settle_fhlRest h)
@[simp] theorem settle_fhl_fwdB2a (h : Hw) : h.settle.fhl.fwdB2a = h.fhl.fwdB2a := congrArg (fun r => r.fwdB2a) (settle_fhlRest h)
@[simp] theorem settle_fhl_fwdDrop (h : Hw) : h.settle.fhl.fwdDrop = h.fhl.fwdDrop := congrArg (fun r => r.fwdDrop) (settle_fhlRest h)
@[simp] theorem settle_fhl_bfpSat (h : Hw) : h.settle.fhl.bfpSat = h.fhl.bfpSat := congrArg (fun r => r.bfpSat) (settle_fhlRest h)
@[simp] theorem settle_fhl_bufParity (h : Hw) : h.settle.fhl.bufParity = h.fhl.bufParity := congrArg (fun r => r.bufParity) (settle_fhlRest h)
@[simp] theorem settle_fhl_bufParityFrame (h : Hw) : h.settle.fhl.bufParityFrame = h.fhl.bufParityFrame := congrArg (fun r => r.bufParityFrame) (settle_fhlRest h)
@[simp] theorem settle_fhl_rmaReads (h : Hw) : h.settle.fhl.rmaReads = h.fhl.rmaReads := congrArg (fun r => r.rmaReads) (settle_fhlRest h)
@[simp] theorem settle_fhl_owdResp (h : Hw) : h.settle.fhl.owdResp = h.fhl.owdResp := congrArg (fun r => r.owdResp) (settle_fhlRest h)
@[simp] theorem settle_fhl_unsupported (h : Hw) : h.settle.fhl.unsupported = h.fhl.unsupported := congrArg (fun r => r.unsupported) (settle_fhlRest h)
@[simp] theorem settle_fhl_spurFcsBad (h : Hw) : h.settle.fhl.spurFcsBad = h.fhl.spurFcsBad := congrArg (fun r => r.spurFcsBad) (settle_fhlRest h)
@[simp] theorem settle_fhl_spurTrunc (h : Hw) : h.settle.fhl.spurTrunc = h.fhl.spurTrunc := congrArg (fun r => r.spurTrunc) (settle_fhlRest h)
@[simp] theorem settle_fhl_rmaPending (h : Hw) : h.settle.fhl.rmaPending = h.fhl.rmaPending := congrArg (fun r => r.rmaPending) (settle_fhlRest h)
@[simp] theorem settle_pend (h : Hw) : h.settle.lko.pend = [] := taken_pend h
@[simp] theorem settle_pin_poresetN (h : Hw) : h.settle.pins.poresetN = h.pins.poresetN := congrArg (fun r => r.2.2.2.2.2.poresetN) (taken_kept h)
@[simp] theorem settle_pin_railsOk (h : Hw) : h.settle.pins.railsOk = h.pins.railsOk := congrArg (fun r => r.2.2.2.2.2.railsOk) (taken_kept h)
@[simp] theorem settle_pin_refclk (h : Hw) : h.settle.pins.refclk = h.pins.refclk := congrArg (fun r => r.2.2.2.2.2.refclk) (taken_kept h)
@[simp] theorem settle_pin_nvRst (h : Hw) : h.settle.pins.nvRst = h.pins.nvRst := congrArg (fun r => r.2.2.2.2.2.nvRst) (taken_kept h)
@[simp] theorem settle_pin_nvRstPulses (h : Hw) : h.settle.pins.nvRstPulses = h.pins.nvRstPulses := congrArg (fun r => r.2.2.2.2.2.nvRstPulses) (taken_kept h)
@[simp] theorem settle_pin_ltx (h : Hw) : h.settle.pins.ltx = h.pins.ltx := congrArg (fun r => r.2.2.2.2.2.ltx) (taken_kept h)
@[simp] theorem settle_pin_fireLow (h : Hw) : h.settle.pins.fireLow = h.pins.fireLow := congrArg (fun r => r.2.2.2.2.2.fireLow) (taken_kept h)
@[simp] theorem settle_pin_tdo (h : Hw) : h.settle.pins.tdo = h.pins.tdo := congrArg (fun r => r.2.2.2.2.2.tdo) (taken_kept h)
@[simp] theorem settle_pin_stat (h : Hw) : h.settle.pins.stat = if h.sta.stage = 0 then 0 else h.sta.stage - 1 := by
  have e : h.taken.sta = h.sta := congrArg (fun r => r.2.1) (taken_kept h)
  rw [← e]
  rfl

/-- With no happening waiting, the end of a command only sets the pins that follow the state. -/
theorem settle_nil (h : Hw) (e : h.lko.pend = []) : h.settle = h.onPins fun p =>
    { p with alarm := h.alarmPin, armIo := h.armLevel, stat := if h.sta.stage = 0 then 0 else h.sta.stage - 1 } := by
  rw [settle_eq, taken_nil h e]

/-- The end of a command leaves a settled state as it is. -/
theorem settle_of_settled (h : Hw) (hs : h.Settled) : h.settle = h := by
  rw [settle_nil h hs.1]
  obtain ⟨-, h2, h3, h4⟩ := hs
  unfold onPins
  rw [← h2, ← h3, ← h4]

/-- After a command HC0 has taken every happening, and the pins that follow the state hold the levels it gives them. -/
theorem settle_settled (h : Hw) : h.settle.Settled := by
  refine ⟨taken_pend h, rfl, ?_, rfl⟩
  rw [settle_eq]
  show h.taken.armLevel = _
  by_cases e : h.taken.sys.pkgPos = 0
  · simp [armLevel, e, capS, image]
  · simp [armLevel, e]

/-! ### Time passing -/

/-- What the draining of the trace leaves (R406): all but the trace itself and the packets that its port has sent. -/
def still (h : Hw) : (Nat × Sys × Img × Mode × Vector Path 64 × Vector Quad 16 × Mas × List TxWin × Crn × Trl × Cal × Vector Lane 8 × Vector Port 2 ×
    Vector Tor 16 × Vector SMem 45 × Nat × Bool × Vector Dma 32 × Vector Nat 4 × Option Nat × CapAll) × Sta × Tim × Out × Fhl × Pins :=
  (h.core, h.sta, h.tim, { h.out with trace := [] }, h.fhl, h.pins)

theorem drainTrace_still (h : Hw) (d : Nat) : (h.drainTrace d).still = h.still := by
  unfold drainTrace
  split
  · dsimp only
    split <;> rfl
  · rfl

theorem drainTrace_lko (h : Hw) (d : Nat) :
    (h.drainTrace d).lko.pend = h.lko.pend ∧ (h.drainTrace d).lko.raised = h.lko.raised ∧ (h.drainTrace d).lko.holds = h.lko.holds := by
  unfold drainTrace
  split
  · dsimp only
    split <;> exact ⟨rfl, rfl, rfl⟩
  · exact ⟨rfl, rfl, rfl⟩

/-- What port A has begun to send in `d` core cycles, and the indications that wait on (R211). -/
def served (h : Hw) (d : Nat) : Egress × List TxFrame :=
  h.out.portA.serve (h.lineRate 0) (h.sta.since * 100000) ((h.sta.since + d) * 100000)
    (h.fhl.queue.length + h.out.portA.own.length + h.out.portA.fwd.length) h.fhl.queue

/-- The registers after `d` core cycles, the trace still to drain. -/
def elapsed (h : Hw) (d : Nat) : Hw :=
  { h with
    sta := { h.sta with since := h.sta.since + d }
    tim :=
      let t := { h.tim with c := if h.clockOn then h.tim.c + d else h.tim.c }
      match h.tim.holdFrom with
      | some c0 => { t with holdoverS := Nat.min 0xFFFFFFFF ((h.sta.since + d - c0) / Config.fc) }
      | none => t
    out :=
      { h.out with
        events := [], tx := h.out.tx ++ h.fhl.queue.take (h.fhl.queue.length - (h.served d).2.length), portA := (h.served d).1 }
    fhl := { h.fhl with queue := (h.served d).2, rmaPending := 0 } }

theorem elapse_pos (h : Hw) {d : Nat} (hd : d ≠ 0) : h.elapse d = (h.elapsed d).drainTrace d := by
  unfold elapse elapsed served serveA
  rw [if_neg hd]
  have e : (({ h with out := { h.out with events := [] } } : Hw).onSta fun s => { s with since := s.since + d }).clockOn = h.clockOn := rfl
  simp only [e]
  cases h.clockOn <;> simp only [whenB_true, whenB_false, onTim_sta, onSta_sta, onTim_out, onSta_out, onTim_fhl, onSta_fhl, Nat.add_sub_cancel] <;> rfl

/-- The frame that port A serves next is the first of the indications or leaves them as they are. -/
theorem pick_queue (e : Egress) (q : List TxFrame) (f : TxFrame) (e' : Egress) (q' : List TxFrame) (hp : e.pick q = some (f, e', q')) :
    ∃ n, q' = q.drop n := by
  unfold Egress.pick at hp
  split at hp
  · cases hp
  · cases hp
    exact ⟨1, rfl⟩
  · cases hp
    exact ⟨0, rfl⟩
  · cases hp
    exact ⟨0, rfl⟩
  · split at hp <;> cases hp
    · exact ⟨0, rfl⟩
    · exact ⟨1, rfl⟩
  · split at hp <;> cases hp <;> exact ⟨0, rfl⟩

/-- Port A takes the indications in their order. -/
theorem serve_queue (rate t u n : Nat) (e : Egress) (q : List TxFrame) : ∃ k, (e.serve rate t u n q).2 = q.drop k := by
  induction n generalizing e q with
  | zero => exact ⟨0, rfl⟩
  | succ n ih =>
    unfold Egress.serve
    split
    · exact ⟨0, rfl⟩
    · split
      · exact ⟨0, rfl⟩
      · next f e' q' hp =>
        obtain ⟨k, hk⟩ := ih (e'.start rate t f) q'
        obtain ⟨j, rfl⟩ := pick_queue e q f e' q' hp
        exact ⟨j + k, hk.trans (List.drop_drop ..)⟩

/-- The indications that time leaves waiting, and those that have left: the queue in its order, cut in two (R205, R211). -/
theorem elapsed_queue (h : Hw) (d : Nat) :
    ∃ n, (h.elapsed d).fhl.queue = h.fhl.queue.drop n ∧ (h.elapsed d).out.tx = h.out.tx ++ h.fhl.queue.take n := by
  obtain ⟨k, hk⟩ := serve_queue (h.lineRate 0) (h.sta.since * 100000) ((h.sta.since + d) * 100000)
    (h.fhl.queue.length + h.out.portA.own.length + h.out.portA.fwd.length) h.out.portA h.fhl.queue
  refine ⟨h.fhl.queue.length - (h.served d).2.length, ?_, rfl⟩
  show (h.served d).2 = _
  rw [show (h.served d).2 = h.fhl.queue.drop k from hk, List.length_drop]
  rcases Nat.le_total k h.fhl.queue.length with hle | hle
  · rw [Nat.sub_sub_self hle]
  · rw [Nat.sub_eq_zero_of_le hle, Nat.sub_zero, List.drop_length, List.drop_eq_nil_of_le hle]

theorem elapse_core (h : Hw) (d : Nat) : (h.elapse d).core = h.core := by
  by_cases hd : d = 0
  · subst hd
    rfl
  · rw [elapse_pos h hd]
    exact congrArg Prod.fst (drainTrace_still _ d)
@[simp] theorem elapse_free (h : Hw) (d : Nat) : (h.elapse d).free = h.free := congrArg (fun r => r.1) (elapse_core h d)
@[simp] theorem elapse_sys (h : Hw) (d : Nat) : (h.elapse d).sys = h.sys := congrArg (fun r => r.2.1) (elapse_core h d)
@[simp] theorem elapse_img (h : Hw) (d : Nat) : (h.elapse d).img = h.img := congrArg (fun r => r.2.2.1) (elapse_core h d)
@[simp] theorem elapse_mode (h : Hw) (d : Nat) : (h.elapse d).mode = h.mode := congrArg (fun r => r.2.2.2.1) (elapse_core h d)
@[simp] theorem elapse_paths (h : Hw) (d : Nat) : (h.elapse d).paths = h.paths := congrArg (fun r => r.2.2.2.2.1) (elapse_core h d)
@[simp] theorem elapse_quads (h : Hw) (d : Nat) : (h.elapse d).quads = h.quads := congrArg (fun r => r.2.2.2.2.2.1) (elapse_core h d)
@[simp] theorem elapse_mas (h : Hw) (d : Nat) : (h.elapse d).mas = h.mas := congrArg (fun r => r.2.2.2.2.2.2.1) (elapse_core h d)
@[simp] theorem elapse_txWins (h : Hw) (d : Nat) : (h.elapse d).txWins = h.txWins := congrArg (fun r => r.2.2.2.2.2.2.2.1) (elapse_core h d)
@[simp] theorem elapse_crn (h : Hw) (d : Nat) : (h.elapse d).crn = h.crn := congrArg (fun r => r.2.2.2.2.2.2.2.2.1) (elapse_core h d)
@[simp] theorem elapse_trl (h : Hw) (d : Nat) : (h.elapse d).trl = h.trl := congrArg (fun r => r.2.2.2.2.2.2.2.2.2.1) (elapse_core h d)
@[simp] theorem elapse_cal (h : Hw) (d : Nat) : (h.elapse d).cal = h.cal := congrArg (fun r => r.2.2.2.2.2.2.2.2.2.2.1) (elapse_core h d)
@[simp] theorem elapse_lanes (h : Hw) (d : Nat) : (h.elapse d).lanes = h.lanes := congrArg (fun r => r.2.2.2.2.2.2.2.2.2.2.2.1) (elapse_core h d)
@[simp] theorem elapse_ports (h : Hw) (d : Nat) : (h.elapse d).ports = h.ports := congrArg (fun r => r.2.2.2.2.2.2.2.2.2.2.2.2.1) (elapse_core h d)
@[simp] theorem elapse_tor (h : Hw) (d : Nat) : (h.elapse d).tor = h.tor := congrArg (fun r => r.2.2.2.2.2.2.2.2.2.2.2.2.2.1) (elapse_core h d)
@[simp] theorem elapse_smem (h : Hw) (d : Nat) : (h.elapse d).smem = h.smem := congrArg (fun r => r.2.2.2.2.2.2.2.2.2.2.2.2.2.2.1) (elapse_core h d)
@[simp] theorem elapse_fifoParity (h : Hw) (d : Nat) : (h.elapse d).fifoParity = h.fifoParity := congrArg (fun r => r.2.2.2.2.2.2.2.2.2.2.2.2.2.2.2.1) (elapse_core h d)
@[simp] theorem elapse_fifoSeen (h : Hw) (d : Nat) : (h.elapse d).fifoSeen = h.fifoSeen := congrArg (fun r => r.2.2.2.2.2.2.2.2.2.2.2.2.2.2.2.2.1) (elapse_core h d)
@[simp] theorem elapse_dma (h : Hw) (d : Nat) : (h.elapse d).dma = h.dma := congrArg (fun r => r.2.2.2.2.2.2.2.2.2.2.2.2.2.2.2.2.2.1) (elapse_core h d)
@[simp] theorem elapse_dmaLast (h : Hw) (d : Nat) : (h.elapse d).dmaLast = h.dmaLast := congrArg (fun r => r.2.2.2.2.2.2.2.2.2.2.2.2.2.2.2.2.2.2.1) (elapse_core h d)
@[simp] theorem elapse_dmaAt (h : Hw) (d : Nat) : (h.elapse d).dmaAt = h.dmaAt := congrArg (fun r => r.2.2.2.2.2.2.2.2.2.2.2.2.2.2.2.2.2.2.2.1) (elapse_core h d)
@[simp] theorem elapse_cap (h : Hw) (d : Nat) : (h.elapse d).cap = h.cap := congrArg (fun r => r.2.2.2.2.2.2.2.2.2.2.2.2.2.2.2.2.2.2.2.2) (elapse_core h d)
@[simp] theorem elapse_pins (h : Hw) (d : Nat) : (h.elapse d).pins = h.pins := by
  by_cases hd : d = 0
  · subst hd
    rfl
  · rw [elapse_pos h hd]
    exact congrArg (fun r => r.2.2.2.2.2) (drainTrace_still _ d)

@[simp] theorem elapse_pend (h : Hw) (d : Nat) : (h.elapse d).lko.pend = h.lko.pend := by
  by_cases hd : d = 0
  · subst hd
    rfl
  · rw [elapse_pos h hd, (drainTrace_lko _ d).1]
    rfl

/-- No time passing ends the event pulses only. -/
theorem elapse_zero (h : Hw) : h.elapse 0 = { h with out := { h.out with events := [] } } := rfl

/-- The start-up state after `d` core cycles: only the count since reset moves. -/
@[simp] theorem elapse_sta (h : Hw) (d : Nat) : (h.elapse d).sta = { h.sta with since := h.sta.since + d } := by
  by_cases hd : d = 0
  · subst hd
    rfl
  · rw [elapse_pos h hd]
    exact congrArg (fun r => r.2.1) (drainTrace_still _ d)

/-- Time after `d` core cycles: C counts from S3's exit on, and so do the seconds of a holdover. -/
theorem elapse_tim (h : Hw) {d : Nat} (hd : d ≠ 0) : (h.elapse d).tim = (h.elapsed d).tim := by
  rw [elapse_pos h hd]
  exact congrArg (fun r => r.2.2.1) (drainTrace_still _ d)

@[simp] theorem elapse_c (h : Hw) (d : Nat) : (h.elapse d).tim.c = if h.clockOn then h.tim.c + d else h.tim.c := by
  by_cases hd : d = 0
  · subst hd
    rw [elapse_zero]
    split <;> rfl
  · rw [elapse_tim h hd]
    unfold elapsed
    dsimp only
    split <;> rfl

/-- What leaves on the lanes as time passes: of the queued indications those whose turn has come, in their order (R205, R211). -/
theorem elapse_queue (h : Hw) {d : Nat} (hd : d ≠ 0) :
    ∃ n, (h.elapse d).fhl.queue = h.fhl.queue.drop n ∧ (h.elapse d).out.tx = h.out.tx ++ h.fhl.queue.take n := by
  rw [elapse_pos h hd]
  obtain ⟨n, a, b⟩ := elapsed_queue h d
  have e := drainTrace_still (h.elapsed d) d
  exact ⟨n, (congrArg (fun r => r.2.2.2.2.1.queue) e).trans a, (congrArg (fun r => r.2.2.2.1.tx) e).trans b⟩

theorem elapse_fhlStill (h : Hw) (d : Nat) : (h.elapse d).fhlStill = h.fhlStill := by
  by_cases hd : d = 0
  · subst hd
    rfl
  · rw [elapse_pos h hd]
    exact congrArg (fun r => ({ r.2.2.2.2.1 with queue := [], rmaPending := 0 } : Fhl)) (drainTrace_still (h.elapsed d) d)
@[simp] theorem elapse_fhl_seqs (h : Hw) (d : Nat) : (h.elapse d).fhl.seqs = h.fhl.seqs := congrArg (fun r => r.seqs) (elapse_fhlStill h d)
@[simp] theorem elapse_fhl_genSeq (h : Hw) (d : Nat) : (h.elapse d).fhl.genSeq = h.fhl.genSeq := congrArg (fun r => r.genSeq) (elapse_fhlStill h d)
@[simp] theorem elapse_fhl_dl (h : Hw) (d : Nat) : (h.elapse d).fhl.dl = h.fhl.dl := congrArg (fun r => r.dl) (elapse_fhlStill h d)
@[simp] theorem elapse_fhl_ul (h : Hw) (d : Nat) : (h.elapse d).fhl.ul = h.fhl.ul := congrArg (fun r => r.ul) (elapse_fhlStill h d)
@[simp] theorem elapse_fhl_control (h : Hw) (d : Nat) : (h.elapse d).fhl.control = h.fhl.control := congrArg (fun r => r.control) (elapse_fhlStill h d)
@[simp] theorem elapse_fhl_order (h : Hw) (d : Nat) : (h.elapse d).fhl.order = h.fhl.order := congrArg (fun r => r.order) (elapse_fhlStill h d)
@[simp] theorem elapse_fhl_cur (h : Hw) (d : Nat) : (h.elapse d).fhl.cur = h.fhl.cur := congrArg (fun r => r.cur) (elapse_fhlStill h d)
@[simp] theorem elapse_fhl_rxFrames (h : Hw) (d : Nat) : (h.elapse d).fhl.rxFrames = h.fhl.rxFrames := congrArg (fun r => r.rxFrames) (elapse_fhlStill h d)
@[simp] theorem elapse_fhl_fcsBad (h : Hw) (d : Nat) : (h.elapse d).fhl.fcsBad = h.fhl.fcsBad := congrArg (fun r => r.fcsBad) (elapse_fhlStill h d)
@[simp] theorem elapse_fhl_oversize (h : Hw) (d : Nat) : (h.elapse d).fhl.oversize = h.fhl.oversize := congrArg (fun r => r.oversize) (elapse_fhlStill h d)
@[simp] theorem elapse_fhl_otherDropped (h : Hw) (d : Nat) : (h.elapse d).fhl.otherDropped = h.fhl.otherDropped := congrArg (fun r => r.otherDropped) (elapse_fhlStill h d)
@[simp] theorem elapse_fhl_undersize (h : Hw) (d : Nat) : (h.elapse d).fhl.undersize = h.fhl.undersize := congrArg (fun r => r.undersize) (elapse_fhlStill h d)
@[simp] theorem elapse_fhl_refused (h : Hw) (d : Nat) : (h.elapse d).fhl.refused = h.fhl.refused := congrArg (fun r => r.refused) (elapse_fhlStill h d)
@[simp] theorem elapse_fhl_fwdA2b (h : Hw) (d : Nat) : (h.elapse d).fhl.fwdA2b = h.fhl.fwdA2b := congrArg (fun r => r.fwdA2b) (elapse_fhlStill h d)
@[simp] theorem elapse_fhl_fwdB2a (h : Hw) (d : Nat) : (h.elapse d).fhl.fwdB2a = h.fhl.fwdB2a := congrArg (fun r => r.fwdB2a) (elapse_fhlStill h d)
@[simp] theorem elapse_fhl_fwdDrop (h : Hw) (d : Nat) : (h.elapse d).fhl.fwdDrop = h.fhl.fwdDrop := congrArg (fun r => r.fwdDrop) (elapse_fhlStill h d)
@[simp] theorem elapse_fhl_bfpSat (h : Hw) (d : Nat) : (h.elapse d).fhl.bfpSat = h.fhl.bfpSat := congrArg (fun r => r.bfpSat) (elapse_fhlStill h d)
@[simp] theorem elapse_fhl_bufParity (h : Hw) (d : Nat) : (h.elapse d).fhl.bufParity = h.fhl.bufParity := congrArg (fun r => r.bufParity) (elapse_fhlStill h d)
@[simp] theorem elapse_fhl_bufParityFrame (h : Hw) (d : Nat) : (h.elapse d).fhl.bufParityFrame = h.fhl.bufParityFrame := congrArg (fun r => r.bufParityFrame) (elapse_fhlStill h d)
@[simp] theorem elapse_fhl_rmaReads (h : Hw) (d : Nat) : (h.elapse d).fhl.rmaReads = h.fhl.rmaReads := congrArg (fun r => r.rmaReads) (elapse_fhlStill h d)
@[simp] theorem elapse_fhl_owdResp (h : Hw) (d : Nat) : (h.elapse d).fhl.owdResp = h.fhl.owdResp := congrArg (fun r => r.owdResp) (elapse_fhlStill h d)
@[simp] theorem elapse_fhl_unsupported (h : Hw) (d : Nat) : (h.elapse d).fhl.unsupported = h.fhl.unsupported := congrArg (fun r => r.unsupported) (elapse_fhlStill h d)
@[simp] theorem elapse_fhl_spurFcsBad (h : Hw) (d : Nat) : (h.elapse d).fhl.spurFcsBad = h.fhl.spurFcsBad := congrArg (fun r => r.spurFcsBad) (elapse_fhlStill h d)
@[simp] theorem elapse_fhl_spurTrunc (h : Hw) (d : Nat) : (h.elapse d).fhl.spurTrunc = h.fhl.spurTrunc := congrArg (fun r => r.spurTrunc) (elapse_fhlStill h d)
@[simp] theorem elapse_fhl_indCount (h : Hw) (d : Nat) : (h.elapse d).fhl.indCount = h.fhl.indCount := congrArg (fun r => r.indCount) (elapse_fhlStill h d)
@[simp] theorem elapse_fhl_refusalLost (h : Hw) (d : Nat) : (h.elapse d).fhl.refusalLost = h.fhl.refusalLost := congrArg (fun r => r.refusalLost) (elapse_fhlStill h d)

/-- Time passing keeps a state settled. -/
theorem elapse_settled (h : Hw) (hs : h.Settled) (d : Nat) : (h.elapse d).Settled := by
  by_cases hd : d = 0
  · subst hd
    exact hs
  · have hk : (h.elapse d).lko.raised = h.lko.raised ∧ (h.elapse d).lko.holds = h.lko.holds := by
      rw [elapse_pos h hd]
      exact (drainTrace_lko _ d).2
    refine ⟨by rw [elapse_pend]; exact hs.1, ?_, ?_, ?_⟩
    · rw [elapse_pins, hs.2.1]
      simp [alarmPin, hk.1, hk.2, image]
    · rw [elapse_pins, hs.2.2.1]
      simp [armLevel, capS, image]
    · rw [elapse_pins, hs.2.2.2]
      simp

end Hw

/-! ### The two forms of every meaning -/

/-- A meaning of the form `ok` answers a next state: the registers after time has passed and the effect, settled; queue and
memories kept. -/
theorem ok_eq (s : State) (d : Nat) (f : Hw → Hw) : ok s d f = .next { s with hw := (f (s.hw.elapse d)).settle } := rfl

/-- A meaning of the form `okM` answers a next state, whose memories are those that its effect gives. -/
theorem okM_eq (s : State) (d : Nat) (f : Hw → Mem → Hw × Mem) :
    okM s d f = .next { s with hw := (f (s.hw.elapse d) s.mem).1.settle, mem := (f (s.hw.elapse d) s.mem).2 } := rfl

end Sys2Proof.Machine
end

