-- ==== Sys2Proof/Laws/Effects.lean ====
section
/-! SUPPORT. The forms in which a meaning's effect is stated: one that raises nothing, one that raises one happening, and what HC0
does with that happening (R398 to R402). -/
namespace Sys2Proof.Machine

/-- An effect that leaves the registers settled is the next state as it stands. -/
theorem ok_quiet (s : State) (d : Nat) (f : Hw → Hw) (hs : (f (s.hw.elapse d)).Settled) :
    ok s d f = .next { s with hw := f (s.hw.elapse d) } := by
  rw [ok_eq, Hw.settle_of_settled _ hs]

/-- An effect that changes nothing leaves what the passing of time leaves. -/
theorem ok_still (s : State) (d : Nat) (f : Hw → Hw) (hs : s.hw.Settled) (e : f (s.hw.elapse d) = s.hw.elapse d) :
    ok s d f = .next { s with hw := s.hw.elapse d } := by
  rw [ok_quiet, e]
  rw [e]
  exact Hw.elapse_settled _ hs d

namespace Hw

/-- Fronthaul states that agree but for what an indication changes. -/
theorem fhl_of_rest (f g : Fhl)
    (r : { f with queue := [], indCount := 0, refusalLost := 0 } = { g with queue := [], indCount := 0, refusalLost := 0 }) :
    f = { g with queue := f.queue, indCount := f.indCount, refusalLost := f.refusalLost } := by
  cases f
  cases g
  simp only [Fhl.mk.injEq] at r ⊢
  simp_all

/-- HC0's taking of happenings changes the log, the alarms, the indications and the pins that follow the state, nothing else. -/
theorem settle_told (g : Hw) (p : List Happening) (h : Hw) (e : h = { g with lko := { g.lko with pend := p } }) :
    h.settle = g.told h.settle := by
  have k := settle_core h
  have r := settle_fhlRest h
  have a := congrArg (fun r => r.2.1) (taken_kept h)
  have b := congrArg (fun r => r.2.2.1) (taken_kept h)
  have c := congrArg (fun r => r.2.2.2.1) (taken_kept h)
  have p1 := settle_pin_poresetN h
  have p2 := settle_pin_railsOk h
  have p3 := settle_pin_refclk h
  have p4 := settle_pin_nvRst h
  have p5 := settle_pin_nvRstPulses h
  have p6 := settle_pin_ltx h
  have p7 := settle_pin_fireLow h
  have p8 := settle_pin_tdo h
  have a' := settle_sta h
  have b' := settle_tim h
  have c' := settle_out h
  generalize h.settle = t at *
  subst e
  clear a b c
  cases t with | mk t1 t2 t3 t4 t5 t6 t7 t8 t9 t10 t11 t12 t13 t14 t15 t16 t17 t18 t19 t20 t21 t22 t23 t24 t25 t26 t27 =>
  simp only [core, fhlRest] at k r
  obtain ⟨rfl, rfl, rfl, rfl, rfl, rfl, rfl, rfl, rfl, rfl, rfl, rfl, rfl, rfl, rfl, rfl, rfl, rfl, rfl, rfl, rfl⟩ := k
  simp only at a' b' c' p1 p2 p3 p4 p5 p6 p7 p8
  subst a' b' c'
  unfold told
  congr 1
  · cases t3
    simp_all
  · exact fhl_of_rest t13 g.fhl r

end Hw
end Sys2Proof.Machine
end

