-- ==== Sys2Proof/Laws/Mem.lean ====
section
/-! SUPPORT. The addressed memories: the canonical form is kept by every operation, and what a byte reads after a write. -/
namespace Sys2Proof.Machine

theorem assoc_none {κ α : Type} [DecidableEq κ] (k : κ) (l : List (κ × α)) (h : ∀ c ∈ l, c.1 ≠ k) : assoc k l = none := by
  induction l with
  | nil => rfl
  | cons c r ih =>
    obtain ⟨a, v⟩ := c
    have h1 : a ≠ k := h (a, v) (by simp)
    rw [assoc, if_neg h1]
    exact ih fun c hc => h c (by simp [hc])

namespace Mem

/-! ### Rising lists -/

theorem rising_iff (l : List Nat) : rising l = true ↔ l.Pairwise (· < ·) := by
  induction l with
  | nil => simp [rising]
  | cons a r ih =>
    cases r with
    | nil => simp [rising]
    | cons b r =>
      rw [rising, Bool.and_eq_true, decide_eq_true_iff, ih]
      constructor
      · rintro ⟨h1, h2⟩
        refine List.Pairwise.cons ?_ h2
        intro x hx
        rcases List.mem_cons.mp hx with rfl | hx
        · exact h1
        · exact lt_trans h1 (List.rel_of_pairwise_cons h2 hx)
      · intro h
        exact ⟨List.rel_of_pairwise_cons h (by simp), h.of_cons⟩

/-- The canonical form of the cells, as a proposition. -/
def CellsWf (l : List Host.Cell) : Prop := (l.map (·.1)).Pairwise (· < ·) ∧ ∀ c ∈ l, c.2 ≠ 0

theorem wf_iff (m : Mem) : m.wf = true ↔
    CellsWf m.cells ∧ m.valid.Pairwise (· < ·) ∧ (m.bad.map (·.1)).Pairwise (· < ·) := by
  simp [wf, CellsWf, rising_iff, and_assoc]

theorem wf_empty : ({} : Mem).wf = true := rfl

/-! ### Insertion -/

theorem mem_insertCell {a : Nat} {b : Byte} {l : List Host.Cell} {c : Host.Cell} (h : c ∈ insertCell a b l) :
    c = (a, b) ∧ b ≠ 0 ∨ c ∈ l := by
  induction l with
  | nil =>
    unfold insertCell at h
    split at h
    · simp at h
    · rename_i hb
      exact .inl ⟨by simpa using h, hb⟩
  | cons k r ih =>
    obtain ⟨k, v⟩ := k
    unfold insertCell at h
    split at h
    · split at h
      · exact .inr h
      · rename_i hb
        rcases List.mem_cons.mp h with h | h
        · exact .inl ⟨h, hb⟩
        · exact .inr h
    · split at h
      · split at h
        · exact .inr (List.mem_cons_of_mem _ h)
        · rename_i hb
          rcases List.mem_cons.mp h with h | h
          · exact .inl ⟨h, hb⟩
          · exact .inr (List.mem_cons_of_mem _ h)
      · rcases List.mem_cons.mp h with h | h
        · exact .inr (by simp [h])
        · rcases ih h with h | h
          · exact .inl h
          · exact .inr (List.mem_cons_of_mem _ h)

theorem insertCell_wf (a : Nat) (b : Byte) (l : List Host.Cell) (h : CellsWf l) : CellsWf (insertCell a b l) := by
  refine ⟨?_, ?_⟩
  · induction l with
    | nil =>
      unfold insertCell
      split <;> simp
    | cons k r ih =>
      obtain ⟨k, v⟩ := k
      obtain ⟨h1, h2⟩ := h
      have hr : CellsWf r := ⟨by simpa using h1.of_cons, fun c hc => h2 c (List.mem_cons_of_mem _ hc)⟩
      have hk : ∀ c ∈ r, k < c.1 := fun c hc => List.rel_of_pairwise_cons h1 (List.mem_map_of_mem hc)
      unfold insertCell
      split
      · rename_i hak
        split
        · exact h1
        · refine List.Pairwise.cons ?_ h1
          intro x hx
          rcases List.mem_cons.mp hx with rfl | hx
          · exact hak
          · obtain ⟨c, hc, rfl⟩ := List.mem_map.mp hx
            exact lt_trans hak (hk c hc)
      · split
        · rename_i hak
          subst hak
          split
          · exact hr.1
          · exact h1
        · rename_i h3 h4
          refine List.Pairwise.cons ?_ (ih hr)
          intro x hx
          obtain ⟨c, hc, rfl⟩ := List.mem_map.mp hx
          rcases mem_insertCell hc with ⟨rfl, -⟩ | hc
          · show k < a
            omega
          · exact hk c hc
  · intro c hc
    rcases mem_insertCell hc with ⟨rfl, hb⟩ | hc
    · exact hb
    · exact h.2 c hc

theorem insertNum_wf (a : Nat) (l : List Nat) (h : l.Pairwise (· < ·)) : (insertNum a l).Pairwise (· < ·) := by
  have mem : ∀ l x, x ∈ insertNum a l → x = a ∨ x ∈ l := by
    intro l x
    induction l with
    | nil => simp [insertNum]
    | cons k r ih =>
      unfold insertNum
      split
      · simp
      · split
        · exact fun h => .inr h
        · simp only [List.mem_cons]
          rintro (rfl | h)
          · exact .inr (.inl rfl)
          · rcases ih h with h | h
            · exact .inl h
            · exact .inr (.inr h)
  induction l with
  | nil => simp [insertNum]
  | cons k r ih =>
    unfold insertNum
    split
    · rename_i hak
      refine List.Pairwise.cons ?_ h
      intro x hx
      rcases List.mem_cons.mp hx with rfl | hx
      · exact hak
      · exact lt_trans hak (List.rel_of_pairwise_cons h hx)
    · split
      · exact h
      · refine List.Pairwise.cons ?_ (ih h.of_cons)
        intro x hx
        rcases mem r x hx with rfl | hx
        · omega
        · exact List.rel_of_pairwise_cons h hx

theorem insertBad_wf (w : Nat) (u : Bool) (l : List (Nat × Bool)) (h : (l.map (·.1)).Pairwise (· < ·)) :
    ((insertBad w u l).map (·.1)).Pairwise (· < ·) := by
  have keys : ∀ l : List (Nat × Bool), (insertBad w u l).map (·.1) = insertNum w (l.map (·.1)) := by
    intro l
    induction l with
    | nil => rfl
    | cons k r ih =>
      obtain ⟨k, v⟩ := k
      simp only [insertBad, List.map_cons, insertNum]
      split
      · rfl
      · split
        · rename_i e
          simp [e]
        · simp [ih]
  rw [keys]
  exact insertNum_wf _ _ h

/-! ### Every memory operation keeps the canonical form -/

theorem filter_cells_wf (p : Host.Cell → Bool) (l : List Host.Cell) (h : CellsWf l) : CellsWf (l.filter p) :=
  ⟨h.1.sublist (List.Sublist.map _ List.filter_sublist), fun c hc => h.2 c (List.mem_of_mem_filter hc)⟩

theorem filter_bad_wf (p : Nat × Bool → Bool) (l : List (Nat × Bool)) (h : (l.map (·.1)).Pairwise (· < ·)) :
    ((l.filter p).map (·.1)).Pairwise (· < ·) :=
  h.sublist (List.Sublist.map _ List.filter_sublist)

theorem put_wf (m : Mem) (a : Nat) (b : Byte) (h : m.wf = true) : (m.put a b).wf = true := by
  rw [wf_iff] at h ⊢
  exact ⟨insertCell_wf a b _ h.1, h.2⟩

theorem clear_wf (m : Mem) (a n : Nat) (h : m.wf = true) : (m.clear a n).wf = true := by
  rw [wf_iff] at h ⊢
  exact ⟨filter_cells_wf _ _ h.1, h.2.1.sublist List.filter_sublist, filter_bad_wf _ _ h.2.2⟩

theorem freshen_wf (m : Mem) (w : Nat) (h : m.wf = true) : (m.freshen w).wf = true := by
  unfold freshen
  rw [wf_iff] at h
  split
  · rw [wf_iff]
    exact ⟨filter_cells_wf _ _ h.1, insertNum_wf _ _ h.2.1, filter_bad_wf _ _ h.2.2⟩
  · rw [wf_iff]
    exact ⟨h.1, insertNum_wf _ _ h.2.1, filter_bad_wf _ _ h.2.2⟩

theorem write_wf (m : Mem) (a : Nat) (l : Bytes) (h : m.wf = true) : (m.write a l).wf = true := by
  induction l generalizing m a with
  | nil => exact h
  | cons b r ih => exact ih _ _ (put_wf _ _ _ (freshen_wf _ _ h))

theorem upset_wf (m : Mem) (u : Nat × Bool) (h : m.wf = true) : (m.upset u).wf = true := by
  unfold upset
  split
  · rw [wf_iff] at h ⊢
    exact ⟨h.1, h.2.1, insertBad_wf _ _ _ h.2.2⟩
  · exact h

theorem foldl_wf {α : Type} (f : Mem → α → Mem) (hf : ∀ m x, m.wf = true → (f m x).wf = true) (l : List α) (m : Mem)
    (h : m.wf = true) : (l.foldl f m).wf = true := by
  induction l generalizing m with
  | nil => exact h
  | cons x r ih => exact ih _ (hf _ _ h)

/-! ### Reading after writing -/

theorem get_of_not_mem (m : Mem) (a : Nat) (h : ∀ c ∈ m.cells, c.1 ≠ a) : m.get a = 0 := by
  simp [get, assoc_none a m.cells h]

theorem assoc_insertCell_ne {a x : Nat} (b : Byte) (l : List Host.Cell) (h : x ≠ a) : assoc x (insertCell a b l) = assoc x l := by
  induction l with
  | nil =>
    unfold insertCell
    split
    · rfl
    · simp [assoc, Ne.symm h]
  | cons k r ih =>
    obtain ⟨k, v⟩ := k
    unfold insertCell
    split
    · split
      · rfl
      · simp [assoc, Ne.symm h]
    · split
      · rename_i e
        subst e
        split
        · simp [assoc, Ne.symm h]
        · simp [assoc, Ne.symm h]
      · simp [assoc, ih]

theorem get_insertCell (a : Nat) (b : Byte) (l : List Host.Cell) (h : CellsWf l) : (assoc a (insertCell a b l)).getD 0 = b := by
  induction l with
  | nil =>
    unfold insertCell
    split
    · rename_i e
      simp [assoc, e]
    · simp [assoc]
  | cons k r ih =>
    obtain ⟨k, v⟩ := k
    obtain ⟨h1, h2⟩ := h
    have hr : CellsWf r := ⟨by simpa using h1.of_cons, fun c hc => h2 c (List.mem_cons_of_mem _ hc)⟩
    have hk : ∀ c ∈ r, k < c.1 := fun c hc => List.rel_of_pairwise_cons h1 (List.mem_map_of_mem hc)
    unfold insertCell
    split
    · rename_i hak
      split
      · rename_i e
        rw [assoc_none a ((k, v) :: r) (by
          intro c hc
          rcases List.mem_cons.mp hc with rfl | hc
          · exact (Nat.ne_of_lt hak).symm
          · exact (Nat.ne_of_lt (lt_trans hak (hk c hc))).symm)]
        simp [e]
      · simp [assoc]
    · split
      · rename_i e
        subst e
        split
        · rename_i e
          rw [assoc_none a r fun c hc => (Nat.ne_of_lt (hk c hc)).symm]
          simp [e]
        · simp [assoc]
      · rename_i h3 h4
        rw [assoc, if_neg (Ne.symm h4)]
        exact ih hr

/-- A byte just stored reads back. -/
theorem get_put_same (m : Mem) (a : Nat) (b : Byte) (h : m.wf = true) : (m.put a b).get a = b :=
  get_insertCell a b m.cells ((wf_iff m).mp h).1

/-- A store leaves every other byte. -/
theorem get_put_ne (m : Mem) {a x : Nat} (b : Byte) (h : x ≠ a) : (m.put a b).get x = m.get x := by
  simp only [get, put, assoc_insertCell_ne b m.cells h]

theorem assoc_filter {α : Type} (p : Nat × α → Bool) (x : Nat) (hp : ∀ v, p (x, v) = true) (l : List (Nat × α)) :
    assoc x (l.filter p) = assoc x l := by
  induction l with
  | nil => rfl
  | cons k r ih =>
    obtain ⟨k, v⟩ := k
    by_cases e : k = x
    · subst e
      simp [hp, assoc]
    · rw [List.filter_cons]
      split
      · simp [assoc, e, ih]
      · simp [assoc, e, ih]

/-- Freshening a word leaves the bytes of every other word. -/
theorem get_freshen_ne (m : Mem) {w x : Nat} (h : x / 8 ≠ w) : (m.freshen w).get x = m.get x := by
  unfold freshen
  split
  · simp only [get]
    rw [assoc_filter (fun c => decide (c.1 / 8 ≠ w)) x (fun v => by simp [h])]
  · rfl

/-- Freshening a word that is not uncorrectable leaves its bytes. -/
theorem get_freshen (m : Mem) (w x : Nat) (h : m.err w ≠ some true) : (m.freshen w).get x = m.get x := by
  simp [freshen, h, get]

/-- A write leaves every byte outside the words it touches. -/
theorem get_write_out (m : Mem) (a : Nat) (l : Bytes) (x : Nat) (h : ∀ i < l.length, (a + i) / 8 ≠ x / 8) :
    (m.write a l).get x = m.get x := by
  induction l generalizing m a with
  | nil => rfl
  | cons b r ih =>
    rw [write, ih]
    · have h0 : a / 8 ≠ x / 8 := h 0 (by simp)
      rw [get_put_ne _ _ (by rintro rfl; exact h0 rfl), get_freshen_ne _ (Ne.symm h0)]
    · intro i hi
      have := h (i + 1) (by simpa using hi)
      rwa [Nat.add_assoc, Nat.add_comm 1 i]

end Mem
end Sys2Proof.Machine
end

