-- ==== Sys2Proof/Laws/Outputs.lean ====
section
/-! SUPPORT. What the operations that put something out change: the record of what has left the block, and nothing else. -/
namespace Sys2Proof.Machine
namespace Hw

theorem nvm_changes (h : Hw) (l : List NvmCmd) : h.nvm l = { h with out := { h.out with nvm := h.out.nvm ++ l } } := rfl
theorem busPut_changes (h : Hw) (l : List BusItem) : h.busPut l = { h with out := { h.out with bus := h.out.bus ++ l } } := rfl
theorem send_changes (h : Hw) (f : TxFrame) :
    h.send f = { h with out := { h.out with tx := h.out.tx ++ [f], portA := h.out.portA.put f } } := rfl

/-- A read issues one command, or none where the density leaves nothing to read. -/
theorem nvmRead_changes (h : Hw) (a n : Nat) : ∃ l : List NvmCmd, l.length ≤ 1 ∧ h.nvmRead a n = h.nvm l := by
  by_cases e : (Nat.min n (h.img.density.getD 0 - a) != 0) = true
  · refine ⟨[{ op := nvmOp h.img.busMode (nvmReadOp h.img.busMode), addr := some a, dummy := h.img.dummyRead
               len := Nat.min n (h.img.density.getD 0 - a) }], Nat.le_refl 1, ?_⟩
    simp only [nvmRead, e, whenB_true]
  · refine ⟨[], Nat.zero_le 1, ?_⟩
    simp only [nvmRead, Bool.eq_false_iff.mpr e]
    simp [whenB, nvm]
/-- Every operation of the record write issues NVM commands and changes nothing else (R55). -/
theorem nvmWriteOp_changes (h : Hw) (b : Bytes) (j : Nat) : ∃ l : List NvmCmd, h.nvmWriteOp b j = h.nvm l := by
  unfold nvmWriteOp
  split
  · exact ⟨_, rfl⟩
  split
  · exact ⟨_, rfl⟩
  · obtain ⟨l, _, e⟩ := nvmRead_changes h h.image.calOffset b.length
    exact ⟨l, e⟩

end Hw

/-- A frame put at port A waits in one of its two queues; the line is as it was (R211). -/
theorem Egress.put_line (e : Egress) (f : TxFrame) : (e.put f).line = e.line ∧ (e.put f).busy = e.busy ∧ (e.put f).fwdTurn = e.fwdTurn := by
  unfold Egress.put
  split
  · exact ⟨rfl, rfl, rfl⟩
  split <;> exact ⟨rfl, rfl, rfl⟩

end Sys2Proof.Machine
end

