-- ==== Sys2Proof/Laws/Tor.lean ====
section
/-! SUPPORT. What a Tor instruction does whatever it is: when it issues, what the fetch changes, and what an instruction that only
changes its engine leaves (R334, R341, R342, R348, R349, R357). -/
namespace Sys2Proof.Machine

/-- A correctable error noted in a read changes only the protection registers. -/
theorem Hw.noteWord_false (h : Hw) (w : Nat) : h.noteWord w false = { h with smem := (h.noteWord w false).smem } := by
  unfold Hw.noteWord
  split <;> rfl

/-- A read without an uncorrectable word changes only the protection registers. -/
theorem Hw.noteRead_sound (h : Hw) (m : Mem) (a n : Nat) (hu : m.anyUe a n = false) :
    h.noteRead m a n = { h with smem := (h.noteRead m a n).smem } := by
  unfold Hw.noteRead
  unfold Mem.anyUe at hu
  generalize Mem.words a n = l at hu
  induction l generalizing h with
  | nil => rfl
  | cons w r ih =>
    simp only [List.any_cons, Bool.or_eq_false_iff] at hu
    rw [Hw.each_cons]
    match e : m.err w with
    | none =>
      simp only
      exact ih h hu.2
    | some true => simp [e] at hu
    | some false =>
      simp only
      have t2 : ∀ x, ({ h.noteWord w false with smem := x } : Hw) = { h with smem := x } := fun x => by rw [Hw.noteWord_false]
      exact (ih (h.noteWord w false) hu.2).trans (t2 _)

/-- The registers right after the fetch of an instruction that issues. -/
def Hw.fetched (h : Hw) (m : Mem) (t : EngId) (words : Nat) : Hw :=
  (h.elapse 0).noteRead m (0x11000000 + t.val * 0x10000 + (h.eng t).pc) (4 * words)

theorem Hw.fetched_eq (h : Hw) (m : Mem) (t : EngId) (words : Nat)
    (hu : m.anyUe (0x11000000 + t.val * 0x10000 + (h.eng t).pc) (4 * words) = false) :
    h.fetched m t words = { h with smem := (h.fetched m t words).smem, out := { h.out with events := [] } } :=
  Hw.noteRead_sound _ _ _ _ hu

/-- An instruction that issues and is legal has its effect on the registers after the fetch. -/
theorem torRun_ready (s : State) (t : EngId) (words : Nat) (f : Hw → Mem → Hw × Mem) (hr : s.TorReady t words) :
    torRun s t words true f =
      .next { s with hw := (f (s.hw.fetched s.mem t words) s.mem).1.settle, mem := (f (s.hw.fetched s.mem t words) s.mem).2 } := by
  obtain ⟨h1, h2, h3, h4, h5, h6⟩ := hr
  unfold torRun
  rw [okM_eq]
  have e : ((s.hw.elapse 0).eng t) = s.hw.eng t := rfl
  have h4' : ¬ 65536 < (s.hw.eng t).pc + 4 * words := by omega
  simp only [e, h1, h2, h3, h4', h5, h6, Hw.fetched]
  simp

/-- A settled state whose engines, protection registers, output and free count alone change stays as it is at a command's end. -/
theorem Hw.settle_still_tor (h : Hw) (hs : h.Settled) (tor : Vector Tor 16) (sm : Vector SMem 45) (o : Out) (fr : Nat) :
    ({ h with tor := tor, smem := sm, out := o, free := fr } : Hw).settle = { h with tor := tor, smem := sm, out := o, free := fr } :=
  Hw.settle_of_settled _ hs

theorem Hw.fetched_eng (h : Hw) (m : Mem) (t u : EngId) (words : Nat)
    (hu : m.anyUe (0x11000000 + t.val * 0x10000 + (h.eng t).pc) (4 * words) = false) : (h.fetched m t words).eng u = h.eng u := by
  rw [Hw.fetched_eq h m t words hu]
  rfl

/-- An instruction whose effect is on its engine alone, and on the number of the next free value. -/
theorem torRun_only (s : State) (t : EngId) (words fr : Nat) (fx : Hw → Mem → Hw × Mem) (F : Tor → Tor) (hs : s.hw.Settled)
    (hr : s.TorReady t words)
    (hfx : fx (s.hw.fetched s.mem t words) s.mem = ({ (s.hw.fetched s.mem t words).onTor t F with free := fr }, s.mem)) :
    ∃ t', torRun s t words true fx = .next t' ∧ { s with hw := { s.hw with free := fr } }.OnlyTor t' t ∧
      t'.hw.eng t = F (s.hw.eng t) := by
  rw [torRun_ready s t words _ hr, hfx]
  refine ⟨_, rfl, ?_⟩
  rw [Hw.fetched_eq s.hw s.mem t words hr.2.2.2.2.1]
  generalize (s.hw.fetched s.mem t words).smem = sm
  generalize hT : updN s.hw.tor t.val F = T
  have e := Hw.settle_still_tor s.hw hs T sm { s.hw.out with events := [] } fr
  have hh : ({ ({ s.hw with smem := sm, out := { s.hw.out with events := [] } } : Hw).onTor t.val F with free := fr } : Hw) =
      { s.hw with tor := T, smem := sm, out := { s.hw.out with events := [] }, free := fr } := by rw [← hT]; rfl
  have hE : getN T t.val ({} : Tor) = F (s.hw.eng t) := by
    rw [← hT, getN_updN_same _ _ _ t.isLt]
    rfl
  simp only [hh]
  rw [show ({ s.hw with tor := T, smem := sm, out := { s.hw.out with events := [] }, free := fr } : Hw).settle = _ from e]
  refine ⟨⟨rfl, rfl, rfl, ?_⟩, hE⟩
  intro u hu
  show getN T u.val ({} : Tor) = _
  rw [← hT]
  exact getN_updN_ne _ _ _ (fun h => hu (Fin.ext h))

/-- The same, in the form that a statement's goal unifies with. -/
theorem torRun_only_imp (s : State) (t : EngId) (words fr : Nat) (fx : Hw → Mem → Hw × Mem) (F : Tor → Tor) (P : State → Prop)
    (hs : s.hw.Settled) (hr : s.TorReady t words)
    (hfx : fx (s.hw.fetched s.mem t words) s.mem = ({ (s.hw.fetched s.mem t words).onTor t F with free := fr }, s.mem))
    (hP : ∀ t', { s with hw := { s.hw with free := fr } }.OnlyTor t' t → t'.hw.eng t = F (s.hw.eng t) → P t') :
    ∃ t', torRun s t words true fx = .next t' ∧ P t' := by
  obtain ⟨t', h1, h2, h3⟩ := torRun_only s t words fr fx F hs hr hfx
  exact ⟨t', h1, hP t' h2 h3⟩

/-- An instruction with its own effect `g` on its engine that goes on in sequence. -/
theorem torRun_ran (s : State) (t : EngId) (words fr : Nat) (ns : List Tor.Need) (ps : List (Nat × Nat)) (fx : Hw → Mem → Hw × Mem)
    (f g : Tor → Tor) (hs : s.hw.Settled) (hr : s.TorReady t words)
    (hfx : fx (s.hw.fetched s.mem t words) s.mem =
      ({ (s.hw.fetched s.mem t words).onTor t fun e => (f (e.issue ns ps 1)).goSeq (e.pc + 4 * words) with free := fr }, s.mem))
    (hf : ∀ c p st cy, f { s.hw.eng t with cyc := c, prods := p, stalls := st, cycles := cy } =
      { g (s.hw.eng t) with cyc := c, prods := p, stalls := st, cycles := cy })
    (hl : (g (s.hw.eng t)).loops = (s.hw.eng t).loops) :
    ∃ t', torRun s t words true fx = .next t' ∧ { s with hw := { s.hw with free := fr } }.Ran t' t words g := by
  obtain ⟨t', h1, h2, h3⟩ := torRun_only s t words fr fx _ hs hr hfx
  have hF : f ((s.hw.eng t).issue ns ps 1) = { g (s.hw.eng t) with
      cyc := ((s.hw.eng t).issue ns ps 1).cyc, prods := ((s.hw.eng t).issue ns ps 1).prods
      stalls := ((s.hw.eng t).issue ns ps 1).stalls, cycles := ((s.hw.eng t).issue ns ps 1).cycles } := hf _ _ _ _
  refine ⟨t', h1, h2, ?_, ?_⟩
  · rw [h3, hF]
    simp only [Tor.goSeq, Tor.ran]
    rfl
  · rw [h3, hF]
    simp only [Tor.goSeq, hl]
    rfl

/-- The same for an instruction that `torStep` defines. -/
theorem torStep_ran (s : State) (t : EngId) (words : Nat) (ns : List Tor.Need) (ps : List (Nat × Nat)) (f g : Tor → Tor)
    (hs : s.hw.Settled) (hr : s.TorReady t words)
    (hf : ∀ c p st cy, f { s.hw.eng t with cyc := c, prods := p, stalls := st, cycles := cy } =
      { g (s.hw.eng t) with cyc := c, prods := p, stalls := st, cycles := cy })
    (hl : (g (s.hw.eng t)).loops = (s.hw.eng t).loops) :
    ∃ t', torStep s t words true ns ps f = .next t' ∧ s.Ran t' t words g :=
  torRun_ran s t words s.hw.free ns ps _ f g hs hr (by rw [Hw.fetched_eq s.hw s.mem t words hr.2.2.2.2.1]; rfl) hf hl

/-- A packet changes only the trace. -/
theorem Hw.trace_eq (h : Hw) (p : Pkt) : h.trace p = { h with lko := { h.lko with
    trace := (h.trace p).lko.trace, trcCount := (h.trace p).lko.trcCount, trcLost := (h.trace p).lko.trcLost
    trcDropped := (h.trace p).lko.trcDropped } } := by
  unfold Hw.trace
  dsimp only
  split
  · generalize (if h.lko.trcLost = 0 then [] else _ : List Pkt) = ovf
    by_cases c : traceRoom ≤ h.lko.trace.length + ovf.length <;> simp only [c, if_true, if_false] <;> rfl
  · rfl

/-- An instruction whose effect is on its engine alone, and that sends a packet of the program-flow trace where it runs (R405). -/
theorem torRun_flow (s : State) (t : EngId) (words : Nat) (fx : Hw → Mem → Hw × Mem) (F : Tor → Tor) (pk : Pkt) (hs : s.hw.Settled)
    (hr : s.TorReady t words)
    (hfx : fx (s.hw.fetched s.mem t words) s.mem =
      (((s.hw.fetched s.mem t words).onTor t F).whenB (s.hw.traceFlow t) (fun h => h.trace pk), s.mem)) :
    ∃ t', torRun s t words true fx = .next t' ∧ s.OnlyTorFlow t' t ∧ t'.hw.eng t = F (s.hw.eng t) := by
  cases hb : s.hw.traceFlow t
  · obtain ⟨t', h1, h2, h3⟩ := torRun_only s t words s.hw.free fx F hs hr (by
      rw [hfx, hb, Hw.fetched_eq s.hw s.mem t words hr.2.2.2.2.1]
      rfl)
    have hl : t'.hw.lko = s.hw.lko := by rw [h2.2.2.1]
    refine ⟨t', h1, ⟨?_, fun _ => hl⟩, h3⟩
    have : s.traced t' = s := by
      unfold State.traced
      rw [hl]
    rw [this]
    exact h2
  · rw [torRun_ready s t words _ hr, hfx, hb, Hw.whenB_true, Hw.fetched_eq s.hw s.mem t words hr.2.2.2.2.1]
    generalize (s.hw.fetched s.mem t words).smem = sm
    generalize hB : ({ s.hw with smem := sm, out := { s.hw.out with events := [] } } : Hw).onTor t.val F = B
    have hY := Hw.trace_eq B pk
    generalize B.trace pk = Y at hY ⊢
    have hYs : Y.Settled := by
      rw [hY, ← hB]
      exact hs
    have hT : Y.tor = B.tor := by rw [hY]
    have hS : Y.smem = B.smem := by rw [hY]
    refine ⟨_, rfl, ?_⟩
    simp only [Hw.settle_of_settled Y hYs]
    refine ⟨⟨⟨rfl, rfl, ?_, ?_⟩, fun h => by rw [hb] at h; cases h⟩, ?_⟩
    · show Y = _
      rw [hT, hS]
      refine hY.trans ?_
      subst hB
      rfl
    · intro u hu
      show getN Y.tor _ _ = _
      rw [hT, ← hB]
      exact getN_updN_ne _ _ _ (fun h => hu (Fin.ext h))
    · show getN Y.tor _ _ = _
      rw [hT, ← hB]
      exact getN_updN_same _ _ _ t.isLt

/-- The same, in the form that a statement's goal unifies with. -/
theorem torRun_flow_imp (s : State) (t : EngId) (words : Nat) (fx : Hw → Mem → Hw × Mem) (F : Tor → Tor) (pk : Pkt) (P : State → Prop)
    (hs : s.hw.Settled) (hr : s.TorReady t words)
    (hfx : fx (s.hw.fetched s.mem t words) s.mem =
      (((s.hw.fetched s.mem t words).onTor t F).whenB (s.hw.traceFlow t) (fun h => h.trace pk), s.mem))
    (hP : ∀ t', s.OnlyTorFlow t' t → t'.hw.eng t = F (s.hw.eng t) → P t') :
    ∃ t', torRun s t words true fx = .next t' ∧ P t' := by
  obtain ⟨t', h1, h2, h3⟩ := torRun_flow s t words fx F pk hs hr hfx
  exact ⟨t', h1, hP t' h2 h3⟩

end Sys2Proof.Machine
end

