-- ==== Sys2Proof/Machine/Wire.lean ====
section
/-! DEFINITION. The octets of the frames that the package makes (R10, R180, R182, R189, R191 to R193, R198): the Ethernet, eCPRI and event
indication headers in network byte order, the Thaod section header and its record little-endian. -/
namespace Sys2Proof.Machine

/-- An eCPRI message behind its common header (Table 9.1). -/
def ecpriOctets (type : Nat) (b : Bytes) : Bytes := be 1 0x10 ++ be 1 type ++ be 2 b.length ++ b
/-- An Ethernet II frame with its padding and its frame check sequence (R180; log 103). -/
def etherOctets (dst src : Nat) (tci : Option Nat) (etherType : Nat) (b : Bytes) : Bytes :=
  let tag := match tci with
    | some v => be 2 0x8100 ++ be 2 v
    | none => []
  let f := be 6 dst ++ be 6 src ++ tag ++ be 2 etherType ++ b
  let f := f ++ List.replicate (60 - f.length) 0
  f ++ le 4 (crc32 f)
/-- Thaod section header (Table 9.5). -/
def sectionHeader (flow epoch flags records target : Nat) : Bytes :=
  le 1 flow ++ le 1 epoch ++ le 1 flags ++ le 1 records ++ le 4 target
/-- SECTION record with its payload (Table 9.7). -/
def sectionRecord (start count beam : Nat) (payload : Bytes) : Bytes :=
  le 1 0x10 ++ le 1 0 ++ le 2 (12 + payload.length) ++ le 2 start ++ le 2 count ++ le 2 beam ++ le 2 0 ++ payload
/-- BUDGET_SHARE record (Table 9.11). -/
def shareRecord (share : List Nat) : Bytes :=
  le 1 0x27 ++ le 1 0 ++ le 2 12 ++ ((List.range 4).map fun i => le 2 (share.getD i 0)).flatten

/-- A reading in 2^-16 ns as a timestamp of 6 octets of seconds and 4 of whole nanoseconds (log 116). -/
def stampOctets (u : Nat) : Bytes := be 6 (todS u) ++ be 4 (todNs u)
/-- A Delay_Req of a port identity in a domain (R261, R263; IEEE 1588, log 116). -/
def delayReqOctets (domain source seq : Nat) : Bytes :=
  be 1 1 ++ be 1 2 ++ be 2 44 ++ be 1 domain ++ be 1 0 ++ be 2 0 ++ be 8 0 ++ be 4 0 ++ be 10 source ++ be 2 seq ++ be 1 1 ++ be 1 0x7F ++ be 10 0

/-- eCPRI message type, destination, tag and body of the frames that the package makes; BUDGET_SHARE has no sequence number that the spec
gives, and PTP messages are no eCPRI messages (log 116). -/
def TxFrame.message : TxFrame → Option (Nat × Nat × Option Nat × Bytes)
  | .indication _ dst vlan pl => some (7, dst, vlan, pl)
  | .ulSection _ dst vlan eaxc seq flow epoch flags target start count beam pl =>
    some (0, dst, if vlan = 0xFFFF then none else some vlan,
      be 2 eaxc ++ be 1 seq ++ be 1 0x80 ++ sectionHeader flow epoch flags 1 target ++ sectionRecord start count beam pl)
  | .generic _ dst vlan eaxc seq pl => some (3, dst, if vlan = 0xFFFF then none else some vlan, be 4 eaxc ++ be 4 seq ++ pl)
  | .rma _ dst id rw element address data =>
    some (4, dst, none, be 1 id ++ be 1 rw ++ be 2 element ++ be 6 address ++ be 2 data.length ++ data)
  | .owd _ dst id t2 comp => some (5, dst, none, be 1 id ++ be 1 2 ++ stampOctets t2 ++ be 8 comp)
  | .resetResp _ dst id => some (6, dst, none, be 2 id ++ be 1 2)
  | _ => none

/-- The octets of a frame, sent from the package's own address (R181); a forwarded frame leaves unchanged (R210). -/
def Hw.octets (h : Hw) : TxFrame → Option Bytes
  | .forward _ b => some b
  | .delayReq dst seq _ =>
    some (etherOctets dst (h.ownMac.getD 0) none 0x88F7 (delayReqOctets h.image.pkg.ptpDomain (clockId (h.ownMac.getD 0) * 65536 + 1) seq))
  | f => f.message.map fun m => etherOctets m.2.1 (h.ownMac.getD 0) m.2.2.1 0xAEFE (ecpriOctets m.1 m.2.2.2)
/-- A PTP event message passed on: its octets with another correctionField and a new frame check sequence (R272, R273). -/
def ptpPassed (b : Bytes) (correction : Int) : Bytes :=
  let f := b.take 22 ++ be 8 (code 64 correction) ++ (b.take (b.length - 4)).drop 30
  f ++ le 4 (crc32 f)
/-- The octets of a frame with a byte that its egress FIFO gave wrong (R361): the byte is sent as read. DESIGN CHOICE (log 132): the frame
check sequence is the one made before. -/
def EgressFlip.apply (b : Bytes) (x : EgressFlip) : Bytes :=
  b.set x.octet ((b.getD x.octet 0) ^^^ BitVec.ofNat 8 x.flips)
/-- The octets of the n-th frame that leaves by a port. -/
def Hw.sentOctets (h : Hw) (p n : Nat) : Option Bytes :=
  (((h.out.tx.filter fun f => f.port == p)[n]?).bind h.octets).map fun b =>
    (h.out.flips.filter fun x => x.port == p && x.frame == n).foldl EgressFlip.apply b

end Sys2Proof.Machine
end

