-- ==== Sys2Proof/Laws/Wire.lean ====
section
/-! SUPPORT. The frames that the package makes are as long as their egress takes them to be (R211). -/
namespace Sys2Proof.Machine

@[simp] theorem le_len (w x : Nat) : (le w x).length = w := by
  induction w generalizing x with
  | zero => rfl
  | succ w ih => simp [le, ih]
@[simp] theorem be_len (w x : Nat) : (be w x).length = w := by simp [be]
@[simp] theorem ecpriOctets_len (t : Nat) (b : Bytes) : (ecpriOctets t b).length = 4 + b.length := by
  simp [ecpriOctets]; omega
@[simp] theorem sectionHeader_len (a b c d e : Nat) : (sectionHeader a b c d e).length = 8 := by simp [sectionHeader]
@[simp] theorem sectionRecord_len (a b c : Nat) (p : Bytes) : (sectionRecord a b c p).length = 12 + p.length := by
  simp [sectionRecord]; omega

theorem nat_max_eq (a b : Nat) : Nat.max a b = max a b := rfl

@[simp] theorem stampOctets_len (u : Nat) : (stampOctets u).length = 10 := by simp [stampOctets]
@[simp] theorem delayReqOctets_len (d p n : Nat) : (delayReqOctets d p n).length = 44 := by simp [delayReqOctets]

/-- The octets of a frame, its check sequence included, number what port A counts for it. -/
theorem octets_len {h : Hw} {f : TxFrame} {b : Bytes} (e : h.octets f = some b) : b.length = f.len := by
  cases f <;> simp only [Hw.octets, TxFrame.message, Option.map_none, Option.map_some, reduceCtorEq, Option.some.injEq] at e <;>
    subst e <;> simp only [etherOctets, TxFrame.len, frameBytes, b2n, nat_max_eq]
  case indication v _ => cases v <;> simp <;> omega
  case ulSection v _ _ _ _ _ _ _ _ _ _ => by_cases hv : v = 0xFFFF <;> simp [hv] <;> omega
  case generic v _ _ _ => by_cases hv : v = 0xFFFF <;> simp [hv] <;> omega
  all_goals (simp <;> omega)

end Sys2Proof.Machine
end

