-- ==== Sys2Proof/Machine/Balls.lean ====
section
/-! DEFINITION. The ball map of the package (R409 to R412): row names, the place of every signal, and the supply fields. -/
namespace Sys2Proof.Machine

/-- Letters of the row names, in order (R409). -/
def rowLetters : List Char := "ABCDEFGHJKLMNPTUVWY".toList
/-- Name of a row by its index, 1 to 54: one letter, then A and B ahead of each letter. -/
def rowName (i : Nat) : String :=
  let c := rowLetters.getD ((i - 1) % 19) 'A'
  String.ofList (if i ≤ 19 then [c] else if i ≤ 38 then ['A', c] else ['B', c])

/-- A signal of Tables 19.2 and 19.3; `neg` the N pin of a pair. -/
inductive Signal where
  | txo (n : PathId) (neg : Bool)
  | rxi (n : PathId) (neg : Bool)
  | obi (q : QuadId) (neg : Bool)
  | bias (n : PathId)
  | paen (n : PathId)
  | lnaen (n : PathId)
  | trsw (n : PathId)
  | fscl (q : QuadId)
  | fsda (q : QuadId)
  | hk (q : QuadId) (k : Fin 12)
  | ltx (l : LaneId) (neg : Bool)
  | lrx (l : LaneId) (neg : Bool)
  | refclk (neg : Bool)
  | rclkOut (neg : Bool)
  | nvDq (i : Fin 8)
  | nvClk
  | nvDqs
  | nvCsN
  | nvRstN
  | trcD (i : Fin 8)
  | trcClk
  | lkSck
  | lkCsN
  | lkSdi
  | lkSdo
  | tout (i : Fin 8)
  | tcap (i : Fin 2)
  | armIo
  | fireIo
  | bootSel (i : Fin 2)
  | pkgPos (i : Fin 2)
  | poresetN
  | stat (i : Fin 3)
  | alarmN
  | tck
  | tms
  | tdi
  | tdo
  | trstN
  deriving DecidableEq, Repr

/-- 1 for the N pin of a pair. -/
def negOf (neg : Bool) : Nat := if neg then 1 else 0
/-- Rows of an RF pin by flank. -/
def rfRow (rows : List Nat) (n : PathId) : Nat := rows.getD (n.val / 16) 0
/-- The row of a control pin of a path: `k`-th of its four rows on the North die or on the South die. -/
def controlPlace (n : PathId) (k : Nat) : Nat × Nat := if n.val < 32 then (12 + k, 4 + n.val) else (42 - k, 4 + (n.val - 32))
/-- The row that a quad's FEM bus and housekeeping inputs share. -/
def quadRow (q : QuadId) : Nat := if q.val < 8 then 12 + q.val else 50 - q.val

/-- Row index and column of a signal's ball (R410, R411). -/
def Signal.place : Signal → Nat × Nat
  | .txo n neg => (rfRow [2, 6, 53, 49] n, 4 + 3 * (n.val % 16) + negOf neg)
  | .rxi n neg => (rfRow [4, 8, 51, 47] n, 4 + 3 * (n.val % 16) + negOf neg)
  | .obi q neg => (if q.val < 8 then 10 else 45, 4 + 6 * (q.val % 8) + negOf neg)
  | .bias n => controlPlace n 0
  | .paen n => controlPlace n 1
  | .lnaen n => controlPlace n 2
  | .trsw n => controlPlace n 3
  | .fscl q => (quadRow q, 38)
  | .fsda q => (quadRow q, 39)
  | .hk q k => (quadRow q, 40 + k.val)
  | .ltx l neg => (20 + 3 * l.val, 53 + negOf neg)
  | .lrx l neg => (21 + 3 * l.val, 53 + negOf neg)
  | .refclk neg => (20, 1 + negOf neg)
  | .rclkOut neg => (22, 1 + negOf neg)
  | .nvDq i => (24 + i.val, 1)
  | .nvClk => (24, 2)
  | .nvDqs => (25, 2)
  | .nvCsN => (26, 2)
  | .nvRstN => (27, 2)
  | .trcD i => (32 + i.val, 1)
  | .trcClk => (32, 2)
  | .lkSck => (33, 2)
  | .lkCsN => (34, 2)
  | .lkSdi => (35, 2)
  | .lkSdo => (36, 2)
  | .tout i => (40 + i.val, 1)
  | .tcap i => (40 + i.val, 2)
  | .armIo => (42, 2)
  | .fireIo => (43, 2)
  | .bootSel i => (20 + i.val, 3)
  | .pkgPos i => (22 + i.val, 3)
  | .poresetN => (24, 3)
  | .stat i => (25 + i.val, 3)
  | .alarmN => (28, 3)
  | .tck => (29, 3)
  | .tms => (30, 3)
  | .tdi => (31, 3)
  | .tdo => (32, 3)
  | .trstN => (33, 3)
/-- Name of a signal's ball, as row and column. -/
def Signal.ball (s : Signal) : String × Nat := (rowName s.place.1, s.place.2)

/-- The supply rails. -/
inductive Rail where
  | core | rf | a1p2 | a1p8 | io | hk
  deriving DecidableEq, Repr

/-- The rail that the supply fields give a ball (R412, Table 19.4); `ballAt` puts it together with the signals. -/
def railAt (row col : Nat) : Option Rail :=
  let within := fun a b => decide (a ≤ col) && decide (col ≤ b)
  if (row + col) % 2 = 0 then none
  else if (16 ≤ row ∧ row ≤ 19) ∨ (35 ≤ row ∧ row ≤ 38) then
    if within 4 19 then some .rf else if within 20 27 then some .a1p2 else if within 28 31 then some .a1p8
    else if within 32 35 then some .hk else none
  else if 20 ≤ row ∧ row ≤ 34 then
    if within 4 45 then some .core else if within 46 47 then some .rf else if within 48 49 then some .a1p2
    else if within 50 50 then some .a1p8 else if within 51 51 then some .io else none
  else none

/-- Every signal of Tables 19.2 and 19.3. -/
def signals : List Signal :=
  let pn := fun (f : Bool → Signal) => [f false, f true]
  (List.finRange 64).flatMap (fun n => pn (.txo n) ++ pn (.rxi n) ++ [.bias n, .paen n, .lnaen n, .trsw n]) ++
  (List.finRange 16).flatMap (fun q => pn (.obi q) ++ [.fscl q, .fsda q] ++ (List.finRange 12).map (.hk q)) ++
  (List.finRange 8).flatMap (fun i => pn (.ltx i) ++ pn (.lrx i) ++ [.nvDq i, .trcD i, .tout i]) ++
  pn .refclk ++ pn .rclkOut ++ [.nvClk, .nvDqs, .nvCsN, .nvRstN, .trcClk, .lkSck, .lkCsN, .lkSdi, .lkSdo, .tcap 0, .tcap 1, .armIo, .fireIo,
    .bootSel 0, .bootSel 1, .pkgPos 0, .pkgPos 1, .poresetN, .stat 0, .stat 1, .stat 2, .alarmN, .tck, .tms, .tdi, .tdo, .trstN]

/-- What a ball of the array is. -/
inductive Ball where
  | signal (s : Signal)
  | rail (r : Rail)
  | vss
  deriving DecidableEq, Repr

/-- The ball at a row index and column of the full array of 54 by 54: every ball that is neither a signal nor a supply ball is VSS (R409,
R412). -/
def ballAt (row col : Nat) : Option Ball :=
  if 1 ≤ row ∧ row ≤ 54 ∧ 1 ≤ col ∧ col ≤ 54 then
    some (match signals.find? fun s => s.place == (row, col) with
      | some s => .signal s
      | none => ((railAt row col).map Ball.rail).getD .vss)
  else none
/-- The balls of a rail (Table 19.5). -/
def railBalls (r : Rail) : Nat :=
  sumN ((List.range 54).map fun i => ((List.range 54).filter fun j => railAt (i + 1) (j + 1) == some r).length)
where
  /-- Sum of a list. -/
  sumN : List Nat → Nat
    | [] => 0
    | a :: l => a + sumN l
/-- The VSS balls: those that no signal and no rail takes. -/
def vssBalls : Nat := 54 * 54 - signals.length - railBalls.sumN ([.core, .rf, .a1p2, .a1p8, .io, .hk].map railBalls)

end Sys2Proof.Machine
end

