-- ==== Sys2Proof/Machine/Rows.lean ====
section
/-! DEFINITION. The commands that the octets of a frame stand for (R10): the bodies of the Thaod records little-endian (Tables 9.7, 9.9 to
9.11), the eCPRI messages and the PTP messages in network byte order (R208, R209, R261). The rows of the table follow a FRAME_RX with what
this file reads from its octets. Layouts that the spec does not print are those of eCPRI 2.0 and IEEE 1588 (PRESUMED, log 116). -/
namespace Sys2Proof.Machine

/-! ### Record bodies (little-endian) -/

/-- SECTION (Table 9.7). -/
def parseSection (b : Bytes) : SectionRec := { start := rd b 4 2, count := rd b 6 2, beam := rd b 8 2, payload := b.drop 12 }
/-- WEIGHT_LOAD (Table 9.9): Q1.15 I, then Q, of paths p0 to p63. -/
def parseWeights (b : Bytes) : WeightRec :=
  { beam := rd b 4 2, weight := (List.range 64).map fun p => BitVec.ofNat 32 (rd b (8 + 4 * p) 4) }
/-- SEARCH_OCCASION (Table 9.10). -/
def parseSearch (b : Bytes) : SearchRec :=
  { occTag := rd b 4 4, reportTick := rd b 8 4, maxDelay := rd b 12 4, families := rd b 16 2, startPrb := rd b 18 2, beamsMin := rd b 20 2
    template := rd b 22 1, carrier := rd b 23 1, row0 := rd b 24 1, rows := rd b 25 1, col0 := rd b 26 1, cols := rd b 27 1
    cohReq := rd b 28 1, cohMin := rd b 29 1, noncohReq := rd b 30 1, noncohMin := rd b 31 1, freqHyp := rd b 32 1 }
/-- The command of a record on its message, the idx-th (Tables 1.8, 9.6, 9.11); `none` for a type outside Table 1.8. -/
def recordRow (m : MsgHdr) (idx : Nat) (b : Bytes) : Option Instr :=
  match rd b 0 1 with
  | 0x10 => some (if m.msgType = 0 then .dlSection 0 m idx (parseSection b) else .ulSectionRequest 0 m idx (parseSection b))
  | 0x11 => some (.weightLoad 0 m idx (parseWeights b))
  | 0x12 => some (.searchOccasion 0 m idx (parseSearch b))
  | 0x20 => some (.modeSelect 0 m idx (rd b 4 1))
  | 0x21 => some (.calibrate 0 m idx (rd b 4 1) (rd b 5 1) (rd b 8 4))
  | 0x22 => some (.calAbort 0 m idx (rd b 4 4))
  | 0x23 => some (.captureArm 0 m idx (rd b 4 1))
  | 0x24 => some (.captureDisarm 0 m idx (rd b 4 1))
  | 0x25 => some (.pathRetire 0 m idx (rd b 4 1))
  | 0x26 => some (.pathRestore 0 m idx (rd b 4 1))
  | 0x27 => some (.budgetShare 0 m idx ((List.range 4).map fun i => rd b (4 + 2 * i) 2))
  | _ => none
/-- The commands of the records in some bytes, from the idx-th on. -/
def recordRows (m : MsgHdr) : Nat → Nat → Bytes → List Instr
  | 0, _, _ => []
  | n + 1, idx, b =>
    let l := rd b 2 2
    if b.length < 4 ∨ l < 4 then [] else (recordRow m idx (b.take l)).toList ++ recordRows m n (idx + 1) (b.drop l)

/-! ### eCPRI messages (network byte order) -/

/-- Remote memory access (R208), behind the common header. -/
def parseRma (p : PortId) (f : RxFrame) : Rma :=
  let b := f.body.drop 4
  { port := p, src := f.src, vlan := f.tci, id := netAt b 0 1, rw := netAt b 1 1, element := netAt b 2 2, address := netAt b 4 6
    length := netAt b 10 2 }
/-- The commands of an eCPRI message to the package's own address, its start block on lane l (Table 9.2). -/
def ecpriRows (p : PortId) (l : LaneId) (f : RxFrame) : List Instr :=
  let m := parseMsg p f
  let b := f.body.drop 4
  if m.msgType = 0 ∨ m.msgType = 2 then
    if rowOpens m then recordRows m 64 0 ((f.body.take (4 + m.size)).drop 16) else []
  else if 4 ≤ m.msgType ∧ m.msgType ≤ 7 ∧ !Hw.commonOk m then []
  else if m.msgType = 4 then [if [0x10, 0x20].contains (parseRma p f).rw then .rmaWrite 0 (parseRma p f) else .rmaRead 0 (parseRma p f)]
  else if m.msgType = 5 then
    let a := netAt b 1 1
    if a ≤ 1 then [.owdRequest 0 p l f.src (netAt b 0 1) a]
    else if a = 5 then [.owdFollowUp 0 p (netAt b 0 1)]
    else if a = 3 ∨ a = 4 then [.owdRemoteRequest 0 p (netAt b 0 1)] else []
  else if m.msgType = 6 then [.remoteReset 0 p f.dst f.src f.tci (netAt b 0 2) (netAt b 2 1)]
  else if m.msgType = 7 then [.eventIndicationRx 0 p]
  else [.unsupportedMessageType 0 m]

/-! ### PTP messages (network byte order) -/

/-- A timestamp of 6 octets of seconds and 4 of nanoseconds, in 2^-16 ns. -/
def ptpTime (b : Bytes) (o : Nat) : Int := (((netAt b o 6) * 1000000000 + netAt b (o + 6) 4) * 65536 : Nat)
/-- An interval of 2^n s in cc. -/
def ptpInterval (n : Int) : Nat := if 0 ≤ n then Config.fc * 2 ^ n.toNat else Config.fc / 2 ^ (-n).toNat
/-- The common header of a PTP message, whose start block stands on lane l and which stays for `residence` cc if it is passed on. -/
def parsePtp (p : PortId) (l : LaneId) (residence : Nat) (f : RxFrame) : PtpHdr :=
  let b := f.body
  { port := p, lane := l, tagged := f.tags != 0, dst := f.dst, version := netAt b 1 1 % 16, sdoId := netAt b 0 1 / 16, domain := netAt b 4 1
    seq := netAt b 30 2, source := netAt b 20 10, correction := signed 64 (netAt b 8 8), residence := residence }
/-- The data of an Announce. -/
def parseAnnounce (b : Bytes) : AnnounceData :=
  { clockClass := netAt b 48 1, accuracy := netAt b 49 1, variance := netAt b 50 2, priority2 := netAt b 52 1, grandmaster := netAt b 53 8
    stepsRemoved := netAt b 61 2, utcOffset := signed 16 (netAt b 44 2), interval := ptpInterval (signed 8 (netAt b 33 1)) }
/-- The commands of a PTP message. -/
def ptpRows (p : PortId) (l : LaneId) (residence : Nat) (f : RxFrame) : List Instr :=
  let m := parsePtp p l residence f
  let b := f.body
  let iv := ptpInterval (signed 8 (netAt b 33 1))
  match f.ptpType with
  | 0 => [.ptpSync 0 m (netAt b 6 1 / 2 % 2 == 1) (ptpTime b 34) iv]
  | 1 => [.ptpDelayReqRx 0 m]
  | 8 => [.ptpFollowUp 0 m (ptpTime b 34)]
  | 9 => [.ptpDelayResp 0 m (ptpTime b 34) (netAt b 44 10) iv]
  | 0xB => [.ptpAnnounce 0 m (parseAnnounce b)]
  | _ => []

/-- The commands that a frame stands for where `execFrameRx` passes it to its handlers: a PTP message, or an eCPRI message to the package's
own address. A Spur frame has been judged on its headers (R116). -/
def Hw.frameRows (h : Hw) (p : PortId) (l : LaneId) (residence : Nat) (f : RxFrame) : List Instr :=
  let good := f.fcsOk && !f.errorBlock && f.fifoParity == 0
  if f.len < 64 ∨ (h.port p).judged then []
  else if f.etherType = 0x88F7 then
    if (h.tcActive && f.tags == 0) || (good && decide (f.len ≤ 9216) && (h.tcActive || decide (f.tags ≤ 1))) then ptpRows p l residence f else []
  else if (h.fwdOn && p == 1) || !good || decide (9216 < f.len) || f.etherType != 0xAEFE || decide (1 < f.tags) || h.ownMac != some f.dst then []
  else ecpriRows p l f

end Sys2Proof.Machine
end

