-- ==== Sys2Proof/WellFormed.lean ====
section
/-! DEFINITION. Well-formed commands: every operand lies within the field that carries it. The meanings are total and do not need this;
it says which commands stand for something that can reach the block. -/
namespace Sys2Proof

/-- A number that a field of `w` bits holds. -/
def fits (w x : Nat) : Bool := decide (x < 2 ^ w)
/-- A signed number that a field of `w` bits holds. -/
def fitsZ (w : Nat) (x : Int) : Bool := decide (-(2 ^ (w - 1) : Int) ≤ x) && decide (x < 2 ^ (w - 1))
/-- No path, lane, quad or sensor is listed twice. -/
def once (l : List Nat) : Bool := decide l.Nodup

/-- Eight-bit, sixteen-bit and other fields of Tables 9.1, 9.4 and 9.5, and of the frame around them (R181, R186). -/
def MsgHdr.wf (h : MsgHdr) : Bool :=
  fits 48 h.src && h.vlan.all (fits 16) && fits 4 h.revision && fits 3 h.reserved && fits 8 h.msgType && fits 16 h.size && fits 16 h.avail &&
    fits 16 h.pcId && fits 8 h.seq && fits 8 h.seqE && fits 8 h.flowId && fits 4 h.epoch && fits 8 h.flags && fits 8 h.records &&
    fits 32 h.target32 && h.layout.all fun r => fits 8 r.1 && fits 16 r.2.1 && fits 16 r.2.2
/-- Fields of a SECTION (Table 9.7). -/
def SectionRec.wf (r : SectionRec) : Bool := fits 16 r.start && fits 16 r.count && fits 16 r.beam && fits 16 r.payload.length
/-- Fields of a WEIGHT_LOAD (Table 9.9). -/
def WeightRec.wf (r : WeightRec) : Bool := fits 16 r.beam && r.weight.length == 64
/-- Fields of a SEARCH_OCCASION (Table 9.10). -/
def SearchRec.wf (r : SearchRec) : Bool :=
  fits 32 r.occTag && fits 32 r.reportTick && fits 32 r.maxDelay && fits 16 r.families && fits 16 r.startPrb && fits 16 r.beamsMin &&
    [r.template, r.carrier, r.row0, r.rows, r.col0, r.cols, r.cohReq, r.cohMin, r.noncohReq, r.noncohMin, r.freqHyp].all (fits 8)
/-- An Ethernet frame has its addresses, EtherType and frame check sequence (R180). -/
def RxFrame.wf (f : RxFrame) : Bool := decide (18 ≤ f.octets.length)
/-- Fields of a remote memory access (R208). -/
def Rma.wf (r : Rma) : Bool :=
  fits 48 r.src && r.vlan.all (fits 16) && fits 8 r.id && fits 8 r.rw && fits 16 r.element && fits 48 r.address && fits 16 r.length
/-- Fields of a PTP header (Table 12.2). -/
def PtpHdr.wf (m : PtpHdr) : Bool :=
  fits 48 m.dst && fits 4 m.version && fits 12 m.sdoId && fits 8 m.domain && fits 16 m.seq && fits 80 m.source && fitsZ 64 m.correction
/-- Fields of an Announce. -/
def AnnounceData.wf (a : AnnounceData) : Bool :=
  fits 8 a.clockClass && fits 8 a.accuracy && fits 16 a.variance && fits 8 a.priority2 && fits 64 a.grandmaster && fits 16 a.stepsRemoved &&
    fitsZ 16 a.utcOffset
/-- Samples of a 12-bit ADC (R75). -/
def adcWf (l : List (Int × Bool)) : Bool := l.all fun x => fitsZ 12 x.1
/-- What a window shows: one entry for each path or sensor, and 64-bit words of the address space. -/
def WindowIn.wf (w : WindowIn) : Bool :=
  once (w.rx.map (·.path.val)) && once (w.sensors.map (·.1.val)) && w.rx.all (fun x => adcWf x.adc) && w.upsets.all fun u => fits 29 u.1
/-- An eye measurement (Tables 13.9, 13.5). -/
def EyeMeas.wf (m : EyeMeas) : Bool := fits 7 m.ew && fits 9 m.eh && fits 5 m.ctle && m.taps.length == 12 && m.taps.all (fitsZ 7)
/-- Twelve-bit codes of the housekeeping converter (R324). -/
def HkCode.wf (c : HkCode) : Bool := fits 12 c.code
/-- Pages of 256 bytes (R306). -/
def FemRead.wf (f : FemRead) : Bool := [f.identity, f.lifeA, f.lifeB].all fun p => p.all fun b => b.length == 256
/-- A transmit collection quantum names each quad once. -/
def CalMeas.wf : CalMeas → Bool
  | .rx => true
  | .tx obs => once (obs.map (·.1.val)) && obs.all fun o => adcWf o.2

/-- Every operand of a command lies within the field that carries it. The operands of the Tor instructions, the numbers of paths, quads,
lanes, engines and channels, and words and bytes carry their bounds in their types. -/
def Instr.wf : Instr → Bool
  | .calRecordRead _ b => b.length == 4420
  | .nvmOpDone _ b => b.length == 0 || b.length == 4420
  | .femDiscoveryDone _ _ fems => fems.length == 4 && fems.all FemRead.wf
  | .femIdentityReadDone _ _ f _ => f.wf
  | .tick w => w.wf
  | .frameRx _ _ f => f.wf
  | .dlSection _ h i r => h.wf && r.wf && fits 8 i
  | .spurSectionHeaders _ h r _ => h.wf && r.wf
  | .ulSectionRequest _ h i r => h.wf && r.wf && fits 8 i
  | .spurFcsBad _ f q _ => fits 8 f && fits 8 q
  | .spurTrunc _ f q _ _ => fits 8 f && fits 8 q
  | .ulSectionSend _ f _ _ => fits 8 f
  | .sectionWeighted _ f _ _ => fits 8 f
  | .weightLoad _ h i r => h.wf && r.wf && fits 8 i
  | .searchOccasion _ h i r => h.wf && r.wf && fits 8 i
  | .cairnGroupEnd _ o ue => fits 32 o && ue.all fun u => fits 32 u.address
  | .cairnReportSend _ o ue => fits 32 o && ue.all fun u => fits 32 u.address
  | .modeSelect _ h i s => h.wf && fits 8 i && fits 8 s
  | .calibrate _ h i t p g => h.wf && fits 8 i && fits 8 t && fits 8 p && fits 32 g
  | .calAbort _ h i g => h.wf && fits 8 i && fits 32 g
  | .captureArm _ h i s => h.wf && fits 8 i && fits 8 s
  | .captureDisarm _ h i s => h.wf && fits 8 i && fits 8 s
  | .pathRetire _ h i n => h.wf && fits 8 i && fits 8 n
  | .pathRestore _ h i n => h.wf && fits 8 i && fits 8 n
  | .budgetShare _ h i s => h.wf && fits 8 i && s.length == 4 && s.all (fits 16)
  | .rmaRead _ r => r.wf
  | .rmaWrite _ r => r.wf
  | .owdRequest _ _ _ src i a => fits 48 src && fits 8 i && fits 8 a
  | .owdFollowUp _ _ i => fits 8 i
  | .owdRemoteRequest _ _ i => fits 8 i
  | .remoteReset _ _ d src v i o => fits 48 d && fits 48 src && v.all (fits 16) && fits 16 i && fits 8 o
  | .unsupportedMessageType _ h => h.wf
  | .ptpAnnounce _ m a => m.wf && a.wf
  | .ptpSync _ m _ _ _ => m.wf
  | .ptpFollowUp _ m _ => m.wf
  | .ptpDelayResp _ m _ req _ => m.wf && fits 80 req
  | .ptpDelayReqRx _ m => m.wf
  | .laneCoarseDone _ _ m => m.wf
  | .laneEyeInterval _ _ m => m.wf
  | .laneMarkerFound _ _ n _ => fits 2 n
  | .laneLinkDown _ _ c _ => decide (c ≤ 5)
  | .idleDelete _ _ f => decide (f ≤ 32)
  | .idleInsert _ _ f => decide (f ≤ 32)
  | .thermalTrip _ _ t => fitsZ 12 t
  | .hkReading _ _ codes => !codes.isEmpty && codes.all HkCode.wf
  | .hkaInjectStart _ _ c => fits 4 c
  | .hkInjectDone _ _ c => c.wf
  | .obsRecordWritten _ _ adc => adcWf adc
  | .calCollectQuantumDone _ m => m.wf
  | .captureRecordEnd _ _ obs => once (obs.map (·.1.val)) && obs.all fun o => adcWf o.2.2
  | .lookoutRead _ _ n => fits 24 n
  | .poresetNLow _ | .poresetNHigh _ _ _ | .supplySupervisorTrip _ | .supplyBackInRange _ _ | .s1Exit _ _ _ _ | .refclkRemeasure _ _ _
  | .imageReadDone _ _ _ | .imgReadRetry _ _ _ | .pllLock _ | .pllLockTimeout _ _ | .laneNoLinkTimeout _ | .ptpNoMasterTimeout _ | .timeStep
  | .slotEntryAnnounce _ | .dpdNoConverge _ | .quantumAbandon _ | .dpdStale _ | .trlQuadStale _ | .calCollectLimit _ | .calSolveDone _
  | .eventIndicationRx _ _ | .delayReqSend _ | .masterLoss _ | .laneSignalDetect _ _ | .laneCdrLock _ _ | .lanePolarityTimeout _ _
  | .laneLinkUp _ _ | .linkDownRestart _ _ | .laneFreezeEnd _ _ | .fecUncorrectable _ _ | .fecIntervalEnd _ _ _ _ | .fecDegradedCease _ _
  | .remoteFaultRx _ _ _ | .elasticError _ _ _ | .alarmNHoldEnd _ | .timCmpArm _ _ _ | .comparatorFire _ _ | .toutRise _ _ | .toutFall _ _
  | .tcapEdge _ _ _ | .femBusTransactionDone _ _ _ _ | .femBusStuck _ _ | .femStatusPollDone _ _ _ | .couplerSelectDone _ _ _
  | .couplerSettleDone _ _ | .femLifeWriteTime _ _ | .femLifeWriteDone _ _ _ | .biasBreakEnd _ _ | .dpdBankCopyDone _ _
  | .dpdSwitchRequest _ _ _ | .dpdLoadInit _ _ _ | .roundDone _ _ | .dpdShadowWrite _ _ _ _ _ _ | .dpdActiveWrite _ _ _ _ _
  | .toneWrite _ _ _ _ | .trlClassLimitWrite _ _ _ | .torRouteWrite _ _ _ _ | .torStatOfferWrite _ _ _ | .torEvselWrite _ _ _ _ _
  | .engRegisterWrite _ _ _ _ | .nvmWriteFail _ | .captureTrigger _ _ | .firePullEnd _ | .fireIoFall _ | .armIoChange _ _
  | .captureAreaOpen _ _ | .dmaCommit _ _ | .dmaRecover _ _ | .dmaIdleHandover _ _ | .dmaBurst _ | .dmaResponse _ _
  | .dmaWindowExpiry _ _ | .halt _ _ _ _ | .nop _ _ _ | .loop _ _ _ _ _ | .br _ _ _ _ _ | .call _ _ _ _ | .ret _ _ _ | .wait _ _ _
  | .waitResume _ _ | .signal _ _ _ | .done _ _ _ | .jpop _ _ _ | .sets _ _ _ | .clrf _ _ _ | .mvi _ _ _ _ _ | .mov _ _ _ _
  | .add _ _ _ _ _ _ | .sub _ _ _ _ _ _ | .and _ _ _ _ _ _ | .or _ _ _ _ _ _ | .xor _ _ _ _ _ _ | .shl _ _ _ _ _ _
  | .sar _ _ _ _ _ _ | .shr _ _ _ _ _ _ | .add2 _ _ _ _ _ _ | .sub2 _ _ _ _ _ _ | .cmp _ _ _ _ _ _ | .modp _ _ _ _ _ _
  | .ld _ _ _ _ _ _ _ _ _ | .globalLoadReturn _ | .st _ _ _ _ _ _ _ _ _ | .mva _ _ _ _ _ | .sta _ _ _ _ _ _ _ _ _ | .lda _ _ _ _
  | .cmac _ _ _ _ _ | .cmacj _ _ _ _ _ | .cmsu _ _ _ _ _ | .cmul _ _ _ _ _ | .rmac _ _ _ _ _ | .clr _ _ _ _ _ | .qmac _ _ _ _ _ _ _
  | .ftap _ _ _ _ _ _ _ _ _ _ | .ftapz _ _ _ _ _ _ _ _ _ _ | .dld _ _ _ _ _ _ _ | .lookoutStatus _ _ | .lookoutUnknownOpcode _ _
  | .jtagAccess _ _ | .laneConditionLost _ _ | .weightingDeadline _ _ => true

end Sys2Proof
end

