-- ==== Sys2Proof/Tests/Slice0.lean ====
section
/-! SUPPORT. Tests: for each statement one or more theorems named wit_<statement> with a state and operands that meet its hypotheses and
what the command then does, for each kind of ill-formed command a refusal, and the worked examples of the spec. The tests run one
after another, so that the compiler does not hold all their evaluations at once. -/
namespace Sys2Proof.Tests
open Sys2Proof.Machine
set_option Elab.async false

/-! ### A small machine in S8 -/

/-- A Foothill slot 7, a Summit slot 0 with Cairn and predistortion, and a Spur slot 1, each on one 100 MHz carrier at 30 kHz; the even
slots of the TDD pattern are downlink, the odd ones uplink. -/
def slotOf (n kind : Nat) : Slot := {
  slot := n, kind := kind, nCarriers := 1, preset := 0, txMask := 2 ^ 64 - 1, rxMask := 2 ^ 64 - 1, carriers := [⟨3500000, 100, 1⟩]
  layersDl := 8, layersUl := 8, lmhzDl := 800, lmhzUl := 800, granularity := 1, mantissa := 9, minLead := 100000, ulDeadline := 100000
  earlyLimit := 1000000, dpdMode := if kind = 4 then 0 else 1, cairn := if kind = 0 then 1 else 0, allowance := 2, backoff := 0, tdBeams := 1
  renorm := 0, flowSet := 0, tdd := 0, cairnBeams := 16, cairnCoh := 8, cairnNoncoh := 2 }
/-- A flow on port A of the package. -/
def flowOf (id dir eaxc : Nat) : Flow := {
  id := id, dir := dir, carrier := 0, layer := 0, port := 0, pkgPos := 0, eaxc := eaxc, vlan := 0xFFFF, dstMac := 0x020000000001
  srcMac := 0x020000000002, compression := 0 }
/-- A capture set-up of tap 0 on flank 0 with a set of sources; unit 0 waits for the FEM alarm of path 0. -/
def capOf (inst sources : Nat) : CapSetup := {
  inst := inst, tap := 0, flankMask := 1, length := 128, pre := 64, cond0 := 3, cond1 := 0, value0 := 1, care0 := 1, value1 := 1, care1 := 1
  sources := sources }
/-- The image of the tests. -/
def testImage : Image := {
  startSlot := 0, refScs := 1
  pkg := { powerCap := 3000, portCfg := [2, 2], timeTol := 100, pinClasses := 2 ^ 9 }
  slots := [slotOf 0 0, slotOf 1 2, slotOf 7 4]
  flows := [(0, [flowOf 0 0 0x10, flowOf 1 1 0x11, flowOf 2 2 0x12, { flowOf 3 0 0x13 with port := 1 }])]
  tdds := [{ inst := 0, periodSlots := 2, quadMask := 0xFFFF, codes := List.replicate 14 1 ++ List.replicate 14 2 }]
  dynEnable := [(4096, 16)]
  geometry := (List.range 64).map fun n => { row := n / 8, col := n % 8, pol := 0, x := 0, y := 0 }
  families := [{ inst := 0, kind := 0, root := 1, length := 139, cs := 13, scs := 3, hop := [] }]
  templates := [{ inst := 0, familyMask := 1, gridOs := 1, maxBeams := 16, maxCoh := 8, maxNoncoh := 2, threshold := 500 }]
  hkSeq := (List.range 16).map fun q => (q, [⟨8, 0, 0⟩, ⟨9, 0, 0⟩])
  policy := { tFemMax := 850, supplyMin := 100, supplyMax := 4000, biasCount := 2, reflCount := 2, biasSafe := List.replicate 64 0 }
  caps := [capOf 0 1, capOf 1 0x28, capOf 2 0x81]
  calLimits := { minSamples := 4096, spreadMax := 600, powerFloor := -6000, txEnergyFloor := -3000 } }
/-- S8 in slot 0, the window of tick 5601 open. -/
def lab : State := { State.reset with hw := { State.reset.hw with
  sta := { stage := 8, k7 := some 280, since := 983040000, wornAtEntry := false, firstLink := true }
  img := { loaded := some testImage }
  pins := { poresetN := true, railsOk := true, refclk := true, stat := 7, ltx := Vector.replicate 8 true }
  tim := { c := gridC 1 5601, k := 5601, tickC := gridC 1 5601, open_ := true, stepped := true, acquired := true, state := 4 }
  mode := { slot := some 0 }
  trl := { ceilings := true }
  ports := Vector.replicate 2 { linkUp := true } } }
/-- The machine with something changed. -/
def labOn (f : Hw → Hw) : State := { lab with hw := f lab.hw }
/-- The state that a command leaves. -/
def after (i : Instr) (s : State) : State := match exec i s with
  | .next t => t
  | _ => s
/-- A message of one record on the command channel, for a tick. -/
def msgOf (typ len k : Nat) : MsgHdr := {
  port := 0, src := 0x020000000001, vlan := none, revision := 1, reserved := 0, concat := false, msgType := 2, size := 12 + len, avail := 12 + len
  pcId := 0xFFFF, seq := 0, seqE := 0x80, flowId := 0xFF, epoch := 0, flags := 0, records := 1, target32 := k, layout := [(typ, len, 0)] }
/-- The same on a flow. -/
def flowMsg (msgType id eaxc typ len count k : Nat) : MsgHdr :=
  { msgOf typ len k with msgType := msgType, pcId := eaxc, flowId := id, layout := [(typ, len, count)] }

/-! ### The step, alarms and the passing of time (R398 to R402) -/

theorem wit_ResetState_sound : State.reset.Sound := by decide +kernel
theorem wit_StepTakesFront : step { State.reset with pending := [.poresetNHigh 10 true true] } =
    .next (after (.poresetNHigh 10 true true) State.reset) := rfl
theorem wit_StepAlwaysAnswers_idle : step State.reset = .next State.reset := rfl
theorem wit_StepKeeps : lab.Sound ∧ ∃ t, step { lab with pending := [.poresetNLow 0] } = .next t := ⟨by decide +kernel, _, rfl⟩
theorem wit_TimePasses :
    let t := (labOn fun h => { h with tim := { h.tim with holdFrom := some 0 }, fhl := { h.fhl with rmaPending := 3 } }).hw.elapse 983040000
    (t.sta.since, t.tim.c - lab.hw.tim.c, t.tim.holdoverS, t.fhl.rmaPending) = (1966080000, 983040000, 2, 0) := by decide +kernel
theorem wit_AlarmsTaken :
    let t := (lab.hw.alarm 0x0901 9).settle
    let u := (t.cease 0x0901 9).settle
    let v := (lab.hw.alarm 0x0904 0).settle
    lab.hw.Settled ∧ Hw.isState 0x0901 = true ∧ Hw.isState 0x0904 = false ∧ (0x0901, 9) ∉ lab.hw.lko.raised ∧ t.newest 0x0901 9 ∧
      t.lko.raised = [(0x0901, 9)] ∧ t.pins.alarm = true ∧ u.newestCease 0x0901 9 ∧ u.lko.raised = [] ∧ u.lko.written = 2 ∧
      u.pins.alarm = false ∧ v.lko.holds = [983040000] ∧ v.pins.alarm = true ∧ v.newest 0x0904 0 := by decide +kernel
theorem wit_AlarmsTaken_indicated :
    let t := (lab.hw.alarm 0x0901 9).settle
    let full := (labOn fun h => { h with fhl := { h.fhl with queue := List.replicate 256 (.rma 0 0 0 0 0 0 []) } }).hw
    lab.hw.alarmDst = some (flowOf 0 0 0x10) ∧
      t.fhl.queue = [.indication 0 0x020000000001 none [0, 0, 0, 1, 0xFF, 0xFF, 8, 0, 9, 1, 0, 9]] ∧
      (full.alarm 0x0901 9).settle.fhl.refusalLost = 1 := by decide +kernel

/-! ### Tor engines (chapter 15) -/

/-- Engine 0 runs, with something changed. -/
def labTor (f : Tor → Tor) : State := labOn fun h => { h with tor := updN h.tor 0 fun e => f { e with state := 1 } }
/-- Engine 0 after a command. -/
def tor0 (s : State) : Tor := s.hw.eng 0
/-- D registers from 0 on, the others zero. -/
def dOf (l : List Word) (e : Tor) : Tor := { e with d := Vector.ofFn fun i => l.getD i 0 }
/-- Flags Z, N, C, V, GX, SAT. -/
def flagsOf (e : Tor) : List Bool := [e.z, e.n, e.c, e.v, e.gx, e.sat]
/-- The hypotheses of the statements on instructions. -/
abbrev readyFor (s : State) (words : Nat) : Prop := s.hw.Settled ∧ s.TorReady 0 words

theorem wit_TorArithmetic :
    let s := labTor (dOf [0x7FFFFFFF, 1, 0x80000000, 5, 0xFFFFFFFF])
    readyFor s 1 ∧ readyFor s 2 ∧
      ((tor0 (after (.add 0 false 6 0 1 0) s)).dReg 6, flagsOf (tor0 (after (.add 0 false 6 0 1 0) s))) =
        (0x80000000, [false, true, false, true, false, false]) ∧
      ((tor0 (after (.add 0 true 6 4 0 1) s)).dReg 6, flagsOf (tor0 (after (.add 0 true 6 4 0 1) s)), (tor0 (after (.add 0 true 6 4 0 1) s)).pc) =
        (0, [true, false, true, false, false, false], 8) ∧
      ((tor0 (after (.sub 0 false 6 1 3 0) s)).dReg 6, flagsOf (tor0 (after (.sub 0 false 6 1 3 0) s))) =
        (0xFFFFFFFC, [false, true, false, false, false, false]) ∧
      flagsOf (tor0 (after (.cmp 0 false 0 3 3 0) s)) = [true, false, true, false, false, false] := by decide +kernel
theorem wit_TorArithmetic_pairs :
    let s := labTor (dOf [0x7FFF0001, 0x00010002, 0x80000000, 0x00010000])
    ((tor0 (after (.add2 0 false 6 0 1 0) s)).dReg 6, (tor0 (after (.add2 0 false 6 0 1 0) s)).sat) = (0x7FFF0003, true) ∧
      ((tor0 (after (.sub2 0 false 6 2 3 0) s)).dReg 6, (tor0 (after (.sub2 0 false 6 2 3 0) s)).sat) = (0x80000000, true) ∧
      (tor0 (after (.and 0 false 6 0 1 0) s)).dReg 6 = 0x00010000 ∧ (tor0 (after (.or 0 false 6 0 1 0) s)).dReg 6 = 0x7FFF0003 ∧
      (tor0 (after (.xor 0 true 6 0 0 0x7FFF0001) s)).z = true := by decide +kernel
theorem wit_TorArithmetic_shifts :
    let s := labTor (dOf [0x80000001, 33, 0])
    readyFor s 1 ∧ ((s.hw.eng 0).dReg 1).toNat % 32 = 1 ∧ ((s.hw.eng 0).dReg 2).toNat % 32 = 0 ∧
      ((tor0 (after (.shl 0 false 6 0 1 0) s)).dReg 6, (tor0 (after (.shl 0 false 6 0 1 0) s)).c) = (2, true) ∧
      ((tor0 (after (.sar 0 false 6 0 1 0) s)).dReg 6, (tor0 (after (.sar 0 false 6 0 1 0) s)).c) = (0xC0000000, true) ∧
      ((tor0 (after (.shr 0 true 6 0 0 31) s)).dReg 6, (tor0 (after (.shr 0 true 6 0 0 31) s)).c) = (1, false) ∧
      (tor0 (after (.shr 0 false 6 0 2 0) s)).dReg 6 = 0x80000001 := by decide +kernel
theorem wit_TorMoves :
    let s := labTor fun e => { dOf [7] e with p := updN (updN e.p 0 fun _ => 0x10F0) 1 fun _ => 0x20, m := updN e.m 0 fun _ => 0x20
                                              b := updN e.b 0 fun _ => 0x1000, l := updN e.l 0 fun _ => 0x100 }
    readyFor s 1 ∧ readyFor s 2 ∧ (tor0 (after (.nop 0 false 0) s)).pc = 4 ∧
      (tor0 (after (.mvi 0 false 0x12 0xFFFE 0) s)).p[2] = 0xFFFFFFFE ∧ (tor0 (after (.mvi 0 true 0x12 0 0x12345678) s)).p[2] = 0x12345678 ∧
      (tor0 (after (.mov 0 false 0x2F 0) s)).l[7] = 7 ∧ (tor0 (after (.modp 0 false 0 false 0 0) s)).p[0] = 0x1010 ∧
      (tor0 (after (.modp 0 false 1 true 0xFFFC 0) s)).p[1] = 0x1C := by decide +kernel
theorem wit_TorMoves_out :
    let s := labTor fun e => { dOf [0x00030002] e with scale := 1, a := updN e.a 0 fun _ => { re := 0x0100000000, im := -65537 } }
    readyFor s 1 ∧ ((tor0 (after (.mva 0 false 0 6 true) s)).dReg 6, (tor0 (after (.mva 0 false 0 6 true) s)).sat) = (0x7FFFFFFF, true) ∧
      (tor0 (after (.mva 0 false 0 6 false) s)).dReg 6 = 0xFFFE7FFF ∧
      (tor0 (after (.mva 0 false 0 6 false) (after (.sets 0 false 0) s))).dReg 6 = 0xFFFE7FFF ∧
      (tor0 (after (.mva 0 false 0 6 false) (after (.nop 0 false 0) (after (.sets 0 false 3) s)))).dReg 6 = 0xFFFB7FFF ∧
      (tor0 (after (.lda 0 false 2 0) s)).a[2] = ⟨0x10000, 0x18000⟩ := by decide +kernel
theorem wit_TorMultiplies :
    let s := labTor fun e => { dOf [0x00040003, 0xFFFE0002, 0x80008000] e with a := Vector.replicate 4 ⟨0x7FFFFFFFFF, 10⟩ }
    let t := after (.cmac 0 false 0 0 1) s
    let q := after (.qmac 0 false 0 0 1 true true) s
    readyFor s 1 ∧ ((tor0 t).a[0], (tor0 t).gx) = (⟨BitVec.ofInt 40 (2 ^ 39 - 1 + 14), 12⟩, true) ∧
      (tor0 (after (.cmul 0 false 1 0 1) s)).a[1] = ⟨14, 2⟩ ∧ (tor0 (after (.cmacj 0 false 1 0 1) s)).a[1] = ⟨0x7FFFFFFFFF - 2, 24⟩ ∧
      (tor0 (after (.cmsu 0 false 1 0 1) s)).a[1] = ⟨0x7FFFFFFFFF - 14, 8⟩ ∧ (tor0 (after (.cmul 0 false 1 2 2) s)).a[1] = ⟨0, 0x80000000⟩ ∧
      (tor0 (after (.clr 0 false 0 0 0) s)).a[0] = ⟨0, 0⟩ ∧ (tor0 q).a[0] = ⟨-2, 14⟩ ∧ (tor0 q).a[1] = ⟨8, 0⟩ := by decide +kernel
theorem wit_TorFlow :
    let s := labTor fun e => { dOf [] e with
      pc := 100, z := true, calls := [16], loops := [{ start := 40, stop := 104, left := 2 }, { start := 0, stop := 200, left := 5 }] }
    let go := fun (i : Instr) => let e := tor0 (after i s); (e.pc, e.loops.length, e.calls)
    readyFor s 1 ∧ readyFor s 2 ∧ go (.br 0 false 1 (-2) 0) = (96, 2, [16]) ∧ go (.br 0 false 1 10 0) = (144, 1, [16]) ∧
      go (.br 0 false 2 10 0) = (40, 2, [16]) ∧ go (.br 0 true 1 0 100) = (508, 0, [16]) ∧ go (.call 0 false 10 0) = (144, 2, [104, 16]) ∧
      go (.ret 0 false 0) = (16, 2, []) ∧ go (.loop 0 false 3 0 0) = (116, 2, [16]) ∧ go (.loop 0 false 3 4 0) = (104, 3, [16]) := by
  decide +kernel
theorem wit_TorEvents :
    let s := labTor fun e => { e with
      ev := updN (updN e.ev 2 fun _ => ⟨144, true, true⟩) 5 fun _ => ⟨144, true, false⟩
      jobs := [{ w0 := 0x12345678, tick := 5601 }] }
    let w := after (.wait 0 false 0x24) s
    let v := after (.wait 0 false 0x20) s
    let r := after (.waitResume 0 144) (after (.signal 1 false 0) v)
    let g := after (.signal 0 false 0) s
    readyFor s 1 ∧ ((tor0 w).pc, (tor0 w).evLast, (tor0 w).ev[2].pending) = (4, 2, false) ∧
      ((tor0 v).pc, (tor0 v).state, (tor0 v).waitMask) = (0, 2, 0x20) ∧ (tor0 r).state = 2 ∧
      ((tor0 g).ev[5].pending, (tor0 g).evOverrun, g.hw.out.events) = (true, 1, [144]) ∧
      ((tor0 (after (.jpop 0 false 6) s)).dReg 6, (tor0 (after (.jpop 0 false 6) s)).dReg 7) = (0x12345678, 5601) ∧
      (tor0 (after (.jpop 0 false 6) (labTor id))).z = true := by decide +kernel
theorem wit_TorEvents_resume :
    let s := labOn fun h => { h with tor := updN h.tor 0 fun e => { e with
      state := 2, waitMask := 0x28, ev := updN (updN e.ev 3 fun _ => ⟨7, true, true⟩) 5 fun _ => ⟨9, true, true⟩ } }
    let t := after (.waitResume 0 7) s
    s.hw.Settled ∧ ((tor0 t).state, (tor0 t).evLast, (tor0 t).pc, (tor0 t).ev[3].pending, (tor0 t).ev[5].pending) = (1, 3, 4, false, true) := by
  decide +kernel
/-- State, cause and code of engine 0 after an instruction, and whether TOR_HALTED is the newest entry. -/
def haltOf (i : Instr) (s : State) : List Nat × Bool :=
  let t := after i s
  ([(tor0 t).state, (tor0 t).cause, (tor0 t).code, (tor0 t).pc], decide (t.hw.newest 0x0A01 (tor0 t).cause))
theorem wit_TorEvents_halts :
    let s := labTor fun e => { e with pc := 8, calls := List.replicate 8 0, loops := List.replicate 4 ⟨0, 800, 1⟩ }
    readyFor s 1 ∧ readyFor s 2 ∧ haltOf (.halt 0 false 0 0x5A) s = ([3, 2, 0x5A, 8], true) ∧
      haltOf (.br 0 false 10 0 0) s = ([3, 3, 0, 8], true) ∧ haltOf (.loop 0 true 0 0 5) s = ([3, 3, 0, 8], true) ∧
      haltOf (.ld 0 false 0 0 3 false false 0 0) s = ([3, 3, 0, 8], true) ∧ haltOf (.call 0 false 0 0) s = ([3, 6, 0, 8], true) ∧
      haltOf (.ret 0 false 0) (labTor id) = ([3, 6, 0, 0], true) ∧ haltOf (.loop 0 false 1 1 0) s = ([3, 6, 0, 8], true) ∧
      haltOf (.wait 0 false 0) s = ([3, 3, 0, 8], true) ∧ haltOf (.jpop 0 false 1) s = ([3, 3, 0, 8], true) ∧
      haltOf (.nop 0 false 0) (labTor fun e => { e with pc := 2 }) = ([3, 4, 0, 2], true) ∧
      haltOf (.nop 0 false 0) (labTor fun e => { e with pc := 65536 }) = ([3, 5, 0, 65536], true) := by decide +kernel
theorem wit_TorEvents_words :
    let bad := { labTor id with mem := { lab.mem with valid := [0x11000000 / 8], bad := [(0x11000000 / 8, true)] } }
    let odd := { labTor id with mem := lab.mem.write 0x11000000 [0, 0, 0, 0xFC] }
    readyFor (labTor id) 1 ∧ bad.mem.anyUe 0x11000000 4 = true ∧ (haltOf (.nop 0 false 0) bad).1 = [3, 7, 0, 0] ∧
      torDecode 0 0xFC000000 0 = none ∧ haltOf (.nop 0 false 0) odd = ([3, 3, 0, 0], true) := by decide +kernel
/-- Engine 0 with a word in data memory at 0x1000 and one in the shared store, and P0 there. -/
def labLd : State := { labTor (fun e => { dOf [0xAABBCCDD] e with
    p := updN (updN (updN e.p 0 fun _ => 0x1000) 1 fun _ => 0x20000004) 2 fun _ => 0x30000000, m := updN e.m 0 fun _ => 4 }) with
  mem := (lab.mem.write 0x10001000 [0x11, 0x22, 0x33, 0x44, 0x55, 0x66]).write 0x20000004 [1, 2, 3, 4] }
theorem wit_TorMemory_loads :
    let one := fun (i : Instr) => let e := tor0 (after i labLd); (e.dReg 0, e.p[0], e.load.length)
    let g := after (.ld 0 false 5 1 0 false false 0 0) labLd
    readyFor labLd 1 ∧ labLd.mem.anyUe 0x10001000 4 = false ∧ one (.ld 0 false 0 0 0 false false 0 0) = (0x44332211, 0x1000, 0) ∧
      one (.ld 0 false 0 0 1 true false 0 0) = (0xAABB2211, 0x1004, 0) ∧ one (.ld 0 false 0 0 2 true true 2 0) = (0x2211CCDD, 0x1002, 0) ∧
      one (.ld 0 true 0 0 0 true false 0 4) = (0xAABB6655, 0x1000, 0) ∧ ((tor0 g).load.map (·.addr)) = [0x20000004] ∧
      (tor0 (after (.globalLoadReturn 0) g)).dReg 5 = 0x04030201 := by decide +kernel
theorem wit_TorMemory_own :
    let s := { labLd with hw := { labLd.hw with tor := updN labLd.hw.tor 0 fun e => { e with p := updN e.p 0 fun _ => 0x10001000 } } }
    let t := after (.ld 0 false 0 0 0 false false 0 0) s
    ((tor0 t).dReg 0, (tor0 t).load.length) = (0x44332211, 0) := by decide +kernel
theorem wit_TorMemory_stores :
    let st := fun (i : Instr) (a n : Nat) => (after i labLd).mem.read a n
    readyFor labLd 1 ∧ labLd.mem.wf = true ∧ st (.st 0 false 0 0 0 false false 0 0) 0x10001000 4 = [0xDD, 0xCC, 0xBB, 0xAA] ∧
      st (.st 0 false 0 0 0 true true 2 0) 0x10001000 6 = [0x11, 0x22, 0xBB, 0xAA, 0x55, 0x66] ∧
      st (.st 0 false 0 1 0 true false 0 0) 0x20000004 4 = [0xDD, 0xCC, 3, 4] ∧
      (tor0 (after (.st 0 false 0 2 0 false false 0 0) labLd)).storeDropped = 1 ∧
      st (.sta 0 false 0 false 0 0 0 0 0) 0x10001000 4 = [0, 0, 0, 0] := by decide +kernel
theorem wit_TorMemory_taps :
    let s := { labLd with hw := { labLd.hw with tor := updN labLd.hw.tor 0 fun e =>
      { dOf [0x00020001, 0x00030002] e with p := updN e.p 1 fun _ => 0x1004, m := updN (updN e.m 0 fun _ => 4) 1 fun _ => 8
                                            a := updN e.a 0 fun _ => ⟨100, 0⟩ } } }
    let t := tor0 (after (.ftap 0 false 0 0 1 false 0 0 1 1) s)
    let z := tor0 (after (.ftapz 0 false 0 0 1 true 0 0 1 1) s)
    let d := tor0 (after (.dld 0 false 0 0 0 1 1) s)
    readyFor s 1 ∧ s.mem.anyUe 0x10001000 8 = false ∧ t.a[0] = ⟨96, 7⟩ ∧ (t.dReg 0, t.dReg 1, t.p[0], t.p[1]) = (0x44332211, 0x6655, 0x1004, 0x100C) ∧
      z.a[0] = ⟨8, 1⟩ ∧ (d.dReg 0, d.dReg 1) = (0x44332211, 0x6655) := by decide +kernel

/-! ### The start sequence (R35 to R73) -/

/-- Bytes filled up with zeros. -/
def padTo (n : Nat) (b : Bytes) : Bytes := b ++ List.replicate (n - b.length) 0
/-- Section table entries laid out one after the other, each section from a multiple of 16 on: type, instance, records, record size (1:
raw), bytes of the section. -/
def layOut : Nat → List (Nat × Nat × Nat × Nat × Bytes) → Bytes × Bytes
  | _, [] => ([], [])
  | o, (ty, inst, n, size, b) :: r =>
    let next := layOut (o + (b.length + 15) / 16 * 16) r
    (le 2 ty ++ le 2 inst ++ le 4 o ++ le 4 b.length ++ le 2 size ++ le 2 n ++ next.1, padTo ((b.length + 15) / 16 * 16) b ++ next.2)
/-- A COST_TABLE record. -/
def costBytes (job scope die : Nat) : Bytes := padTo 16 (le 2 job ++ le 1 scope ++ le 1 die)
/-- Bytes of a number, the most significant first. -/
def wide (n x : Nat) : Bytes := (le n x).reverse
/-- A public key; container and trailer are signed under its private key (made outside the model, with Python's integers). -/
def testKey : Nat :=
  0x0421b3aedcba65a1d220b4f8ad8806540fe1cf1298807b8f5bcebc094ee421255a1012b3e5f6b60591560bdef45e58d931563d2205edfd8d9a76669e4be32c99b7efc07d64ec1d068b3691d116dc0f01fc22ebaddd8ab4a3a66db415a2dc0d5f3e
/-- Its SHA-384, by Python's hashlib. -/
def testKeyHash : BitVec 384 :=
  0x99dcba8ea4568b3d23c24e6eccbd74372542df4b49798320d97d8f5429d35e34cbe23ce83eda527ede6459570f3d89fc
/-- A firmware container of version 0x0001_0002 with a body of 16 zeros, its digest and signature (Table 2.8b). -/
def testContainer : Bytes :=
  padTo 512 (le 4 0x57464348 ++ le 2 1 ++ le 2 0 ++ le 4 0x00010002 ++ le 4 16 ++
    wide 48 0xae40659da1193cdec8df474b5e36416a82473b83d32dbbe1dd6df8ec9499d24902ca08c334876bc8e69e818beecc046a ++ wide 97 testKey ++ le 3 0 ++
    wide 48 0xc1c088a61ce6dabd2cb8bb2b581132fb19cbde5ea31bc6c8892cb3c23482a2a8a43f4e3cd8d056761f301ad18b7b3370 ++
    wide 48 0x95ead8375ef79e3f0ee83e63c805bba908994a1f8bb3eced7030006c0d934582a9731ea50b2aff50595ebc141d6ac9a1) ++ List.replicate 16 0
/-- The sections of a smallest image: one Foothill slot 7 of one carrier. -/
def smallSections : List (Nat × Nat × Nat × Nat × Bytes) :=
  [(0x0042, 0, 64, 8, (List.range 64).flatMap fun n => le 1 (n / 8) ++ le 1 (n % 8) ++ List.replicate 6 0)] ++
  ((List.range 16).map fun q => (0x0090, q, 10, 4, (List.range 10).flatMap fun c => [BitVec.ofNat 8 c, 0, 0, 0])) ++
  [(0x0091, 0, 1, 512, padTo 512 (List.replicate 10 0 ++ le 2 0x100 ++ List.replicate 18 0 ++ [1, 1] ++ List.replicate 6 0 ++ le 2 4095)),
   (0x0010, 0, 1, 128, padTo 128 (le 2 300 ++ le 2 0 ++ [24, 5, 0, 0] ++ le 2 10 ++ le 4 100 ++ [0] ++ le 4 20)),
   (0x0012, 0, 1, 96, padTo 96 ([1, 0] ++ le 2 0xFFFF ++ le 4 0x5555555)),
   (0x0020, 7, 1, 128, padTo 128 ([7, 4, 1, 2] ++ le 8 0x1111111111111111 ++ le 8 0x1111111111111111 ++
      padTo 32 (le 4 3500000 ++ le 2 100 ++ [1]) ++ [1, 1] ++ le 2 100 ++ le 2 100 ++ [1, 9] ++ le 4 14000 ++ le 4 30000 ++ le 4 50000 ++
      [0, 0, 64, 12])),
   (0x0021, 7, 7, 16, costBytes 0 3 0 ++ costBytes 0 3 1 ++ costBytes 0 3 2 ++ costBytes 1 3 2 ++ costBytes 2 3 2 ++ costBytes 0x0103 3 2 ++
      costBytes 0x0104 3 2),
   (0x0030, 0, 1, 32, padTo 32 ([0, 0, 0, 0, 0, 0] ++ le 2 0x10 ++ le 2 0xFFFF ++ le 6 0x020000000001 ++ le 6 0x020000000002)),
   (0x0080, 0, 0, 1, testContainer),
   (0x00B0, 0, 1, 64, padTo 64 (le 2 0 ++ le 2 100 ++ le 4 65536))]
/-- The signed region of 4,096 bytes, with LOCK_KEY and without a signature. -/
def smallBody : Bytes :=
  let x := layOut (256 + 16 * 25) smallSections
  padTo 4096 (padTo 256 (le 4 0x4E4B5A45 ++ le 2 1 ++ le 2 256 ++ le 2 0x6464 ++ [0xB0, 0] ++ le 4 4096 ++ le 2 25 ++ [7, 1, 0, 1, 0, 0] ++
    le 4 65536 ++ le 4 0x1D) ++ x.1 ++ x.2)
/-- The image with that region and its trailer (Table 2.9); `magic` is right as 0x5452_5A45. -/
def smallImage (magic digest r s : Nat) : Bytes :=
  smallBody ++ padTo 256 (le 4 magic ++ le 4 0 ++ wide 48 digest ++ wide 97 testKey ++ le 3 0 ++ wide 48 r ++ wide 48 s)
/-- The image that asks for the key burn, unsigned: its digest is that of Python's hashlib. -/
def lockImage : Bytes := smallImage 0x54525A45
  0x17c86c5748ad13a0b602de60fb7e0d7fe3753c653f532df8b84f404270b78b433ce048303eb9a175512fbda68700d6c3 0 0
/-- A stage of the start sequence, on a machine fresh from reset. -/
def atStage (n : Nat) (f : Hw → Hw) : State := { State.reset with hw := f { State.reset.hw with
  pins := { poresetN := true, railsOk := true, refclk := true, stat := n - 1 }, sta := { stage := n, since := 983040 } } }
/-- S2 with an NVM of 32 MiB. -/
def inS2 : State := atStage 2 fun h => { h with img := { density := some 33554432 }, sys := { h.sys with romKey := testKeyHash } }
/-- Stage, whether it is held, RESULT, FAIL_ENTRY and the newest entry. -/
def imgOut (i : Instr) (s : State) : List Nat × List (Nat × Int) :=
  let t := (after i s).hw
  ([t.sta.stage, b2n t.sta.failed, t.img.result, t.img.failEntry], (t.lko.log.take 1).map fun e => (e.code, e.arg))

theorem wit_ResetState : (State.reset.hw.sta.stage, State.reset.hw.img.failEntry, State.reset.hw.lko.log) = (0, 0x1FF, []) := by decide +kernel
theorem wit_Resets : (after (.poresetNLow 5) lab).hw.sta.stage = 0 ∧ (after (.supplySupervisorTrip 5) lab).hw.pins.railsOk = false := by
  decide +kernel
theorem wit_EarlyStages_s0 :
    let s := { State.reset with hw := { State.reset.hw with sta := { State.reset.hw.sta with since := 98304 } } }
    let t := after (.poresetNHigh 0 true true) s
    s.hw.Settled ∧ s.hw.sta.stage = 0 ∧ s.hw.pins.poresetN = false ∧ (t.hw.sta.stage, t.hw.sta.entry[1], t.hw.pins.nvRst) = (1, some 100, true) ∧
      (after (.supplyBackInRange 0 true) (after (.poresetNHigh 0 false true) s)).hw.sta.stage = 1 ∧
      (after (.poresetNHigh 0 true false) s).hw.sta.stage = 0 := by decide +kernel
theorem wit_EarlyStages_s1 :
    let s := atStage 1 id
    let f : Sfdp := { octal := false, quad := true, density := 33554432 }
    let t := after (.s1Exit 0 none (some 245000) (some f)) s
    let b := after (.s1Exit 0 none (some 240000) (some f)) s
    s.hw.Settled ∧ s.hw.sta.stage = 1 ∧ s.hw.sys.bootSel = 0 ∧ (t.hw.sta.stage, t.hw.sta.refClass, t.hw.img.busMode) = (2, 1, 1) ∧
      t.hw.newest 0x010A 1 ∧ b.hw.newest 0x0201 0 ∧ (b.hw.sta.stage, b.hw.pins.alarm) = (1, true) ∧
      (after (.refclkRemeasure 0 none (some f)) b).hw.sta.failed = true ∧ (after (.refclkRemeasure 0 (some 491520) (some f)) b).hw.sta.refClass = 2 ∧
      (after (.s1Exit 0 (some 1) none none) s).hw.newest 0x010B 1 := by decide +kernel
theorem wit_ImageVerified_head : verifyHead lockImage 33554432 = none ∧ verifyHead lockImage 65536 ≠ none := by decide +kernel
/-- The blocks that the SHA-384 of the signed region takes in. -/
def lockBlocks : List Bytes := chunks 128 33 (Sha384.padded (lockImage.take 4096))
/-! Hash values on the way, by a SHA-384 in Python whose last one hashlib confirms. -/
theorem lockBlocks_8 : (lockBlocks.take 8).foldl Sha384.block Sha384.start =
    [0x7C9612AD3C847472, 0x0AC67D45561D83A6, 0xACDE543AB45D90A9, 0xE3BB183B0D50ED4B, 0x8228EDD253663087, 0x422FF53C11545FB6,
     0x1D35555E204A9E65, 0x543C817B839411C4] := by decide +kernel
theorem lockBlocks_16 : ((lockBlocks.drop 8).take 8).foldl Sha384.block
    [0x7C9612AD3C847472, 0x0AC67D45561D83A6, 0xACDE543AB45D90A9, 0xE3BB183B0D50ED4B, 0x8228EDD253663087, 0x422FF53C11545FB6,
     0x1D35555E204A9E65, 0x543C817B839411C4] =
    [0x9746C3F499DB0507, 0x791E8624AC1E7909, 0x2886A8B7F24EF10D, 0xD7BB6A5F00C53456, 0x6C01A5B6A1019E79, 0x923A3B835687DC88,
     0x7FD02EBBA6A9224C, 0x9ACA9AFF303D651D] := by decide +kernel
theorem lockBlocks_24 : (((lockBlocks.drop 8).drop 8).take 8).foldl Sha384.block
    [0x9746C3F499DB0507, 0x791E8624AC1E7909, 0x2886A8B7F24EF10D, 0xD7BB6A5F00C53456, 0x6C01A5B6A1019E79, 0x923A3B835687DC88,
     0x7FD02EBBA6A9224C, 0x9ACA9AFF303D651D] =
    [0x0AB99F9A0318569A, 0xAAB72CF71CDB204B, 0xE25B797D6A5DF40C, 0xCBB43A8ECF8669DC, 0xA0E056C4DF61DA17, 0x3425581B8A18CF78,
     0x229864567662EA04, 0x1BE5CDB97FD8A34B] := by decide +kernel
theorem lockBlocks_33 : (((lockBlocks.drop 8).drop 8).drop 8).foldl Sha384.block
    [0x0AB99F9A0318569A, 0xAAB72CF71CDB204B, 0xE25B797D6A5DF40C, 0xCBB43A8ECF8669DC, 0xA0E056C4DF61DA17, 0x3425581B8A18CF78,
     0x229864567662EA04, 0x1BE5CDB97FD8A34B] =
    [0x17C86C5748AD13A0, 0xB602DE60FB7E0D7F, 0xE3753C653F532DF8, 0xB84F404270B78B43, 0x3CE048303EB9A175, 0x512FBDA68700D6C3,
     0x9DF930806FA6A4EB, 0x2C795DAAB25A7B64] := by decide +kernel
/-- A fold over a list in two parts. -/
theorem foldl_take_drop {α β : Type} (f : β → α → β) (b : β) (n : Nat) (l : List α) :
    (l.drop n).foldl f ((l.take n).foldl f b) = l.foldl f b := by rw [← List.foldl_append, List.take_append_drop]
theorem sha384_lockImage : sha384 (lockImage.take 4096) =
    0x17c86c5748ad13a0b602de60fb7e0d7fe3753c653f532df8b84f404270b78b433ce048303eb9a175512fbda68700d6c3 := by
  have h := foldl_take_drop Sha384.block Sha384.start 8 lockBlocks
  rw [lockBlocks_8, ← foldl_take_drop _ _ 8, lockBlocks_16, ← foldl_take_drop _ _ 8, lockBlocks_24, lockBlocks_33] at h
  have n : (Sha384.padded (lockImage.take 4096)).length / 128 = 33 := by decide +kernel
  show Sha384.join (((chunks 128 _ _).foldl Sha384.block Sha384.start).take 6) = _
  rw [n]
  show Sha384.join ((lockBlocks.foldl Sha384.block Sha384.start).take 6) = _
  rw [← h]
  decide +kernel
theorem lockImage_trailer : unle (trailer lockImage 0 4) = 0x54525A45 ∧ rd lockImage 12 4 = 4096 ∧ unbe (trailer lockImage 8 48) =
    0x17c86c5748ad13a0b602de60fb7e0d7fe3753c653f532df8b84f404270b78b433ce048303eb9a175512fbda68700d6c3 := by decide +kernel
theorem lockImage_ranges_1 : ((parseImage lockImage).secs.take 4).all (rangeOk lockImage) = true := by decide +kernel
theorem lockImage_ranges_2 : (((parseImage lockImage).secs.drop 4).take 7).all (rangeOk lockImage) = true := by decide +kernel
theorem lockImage_ranges_3 : ((((parseImage lockImage).secs.drop 4).drop 7).take 7).all (rangeOk lockImage) = true := by decide +kernel
theorem lockImage_ranges_4 : ((((parseImage lockImage).secs.drop 4).drop 7).drop 7).all (rangeOk lockImage) = true := by decide +kernel
theorem all_take_drop {α : Type} {f : α → Bool} {l : List α} (n : Nat) (h : (l.take n).all f = true) (g : (l.drop n).all f = true) :
    l.all f = true := by rw [← List.take_append_drop n l, List.all_append, h, g]; rfl
theorem lockImage_ranges : ((parseImage lockImage).secs.findIdx? fun s => !rangeOk lockImage s) = none := by
  simpa [List.findIdx?_eq_none_iff] using all_take_drop 4 lockImage_ranges_1
    (all_take_drop 7 lockImage_ranges_2 (all_take_drop 7 lockImage_ranges_3 lockImage_ranges_4))
theorem stepNine_none {nvm : Bytes} {im : Image} (h1 : requiredFail nvm im = none) (h2 : (im.secs.findIdx? fun s => !rangeOk nvm s) = none)
    (h3 : crossFail im = none) (h4 : costFail im = none) (h5 : paddingOk nvm im = true) : stepNine nvm im = none := by
  simp only [stepNine, h1, h2, h3, h4, h5, ↓reduceIte]
theorem lockImage_required : requiredFail lockImage (parseImage lockImage) = none := by decide +kernel
theorem lockImage_cross : crossFail (parseImage lockImage) = none := by decide +kernel
theorem lockImage_cost : costFail (parseImage lockImage) = none := by decide +kernel
theorem lockImage_padding : paddingOk lockImage (parseImage lockImage) = true := by decide +kernel
theorem lockImage_nine : stepNine lockImage (parseImage lockImage) = none :=
  stepNine_none lockImage_required lockImage_ranges lockImage_cross lockImage_cost lockImage_padding
/-- Its section table entry of the firmware container. -/
def lockEntry : Sec := { type := 0x80, inst := 0, offset := 2944, length := 528, recSize := 1, recCount := 0 }
theorem lockImage_entry : hcEntry (parseImage lockImage) = some (lockEntry, 23) := by decide +kernel
theorem lockImage_slice : slice lockImage lockEntry.offset lockEntry.length = testContainer := by decide +kernel
/-- Every check of Table 2.10 passes for this image in S2, the firmware container's too. -/
theorem wit_ImageVerified_pass : (inS2.hw.Settled ∧ inS2.hw.img.result = 0) ∧ digestPasses lockImage = true ∧
    verifyBody inS2.hw.sys.romKey lockImage (parseImage lockImage) = none := by
  refine ⟨by decide +kernel, ?_, ?_⟩
  · unfold digestPasses
    rw [lockImage_trailer.1, lockImage_trailer.2.1, lockImage_trailer.2.2, sha384_lockImage]
    rfl
  · rw [verifyBody, lockImage_entry]
    show (if containerOk inS2.hw.sys.romKey lockImage lockEntry then verifyBody.nine lockImage (parseImage lockImage) else _) = none
    rw [verifyBody.nine, lockImage_nine, containerOk, lockImage_slice]
    decide +kernel
/-- What follows: RESULT 1, the key burned and S3. -/
theorem wit_ImageVerified_passed :
    let t := inS2.hw.imgBurn {} lockImage (parseImage lockImage) .done
    ([t.1.sta.stage, b2n t.1.sta.failed, t.1.img.result], t.1.sys.otp) = ([3, 0, 1], .programmed testKeyHash) ∧
      (t.1.image.imageId, t.1.image.slots.map (·.kind)) = (0x1D, [4]) := by decide +kernel
theorem wit_ImageVerified_burn :
    let t := inS2.hw.imgBurn {} lockImage (parseImage lockImage) (.failed true)
    (t.1.img.result, t.1.sta.failed, t.1.sys.otp) = (6, true, .partly) := by decide +kernel
theorem wit_ImageVerified_fails :
    imgOut (.imageReadDone 0 (0 :: lockImage) .done) inS2 = ([2, 1, 2, 0x1FF], [(0x0102, 0)]) := by decide +kernel
theorem wit_ImageVerified_retry :
    let bad := smallImage 0 0 0 0
    let t := after (.imageReadDone 0 bad .done) inS2
    (t.hw.img.retryPending, t.hw.sta.failed) = (true, false) ∧ imgOut (.imgReadRetry 0 bad .done) t = ([2, 1, 5, 0x1FF], [(0x0105, 0)]) := by
  decide +kernel
/-- An image whose signed region of 16 bytes has a sound digest, by Python's hashlib, and whose head is zero. -/
def shortImage : Bytes := List.replicate 12 0 ++ le 4 16 ++ le 4 0x54525A45 ++ le 4 0 ++
  be 48 0xbe62d203ffd588a88e746e49a81dfad18ad402b3ef566a6315e90a3d501ca32b21877ced87e5cfac36dd1fed2bb8fbaa
theorem wit_ImageVerified_reread :
    let s := { inS2 with hw := { inS2.hw with img := { inS2.hw.img with retryPending := true } } }
    let t := after (.imgReadRetry 0 shortImage .done) s
    imgOut (.imgReadRetry 0 shortImage .done) s = ([2, 1, 2, 0x1FF], [(0x0109, 0)]) ∧ (t.hw.lko.log.map (·.code)) = [0x0109, 0x0102] := by decide +kernel
/-- With a key burned: another key, SIG_ALG 0, a signature of zeros and a field partly programmed do not pass. -/
theorem wit_ImageVerified_key :
    (verifyKey (.programmed 0) 1 lockImage).map (·.alarm) = some 0x0106 ∧ (verifyKey (.programmed testKeyHash) 0 lockImage).map (·.result) = some 6 ∧
      (verifyKey (.programmed testKeyHash) 1 lockImage).map (·.result) = some 7 ∧ (verifyKey .partly 1 lockImage).map (·.result) = some 6 := by
  decide +kernel
theorem wit_ImageVerified_table :
    imgOut (.imageReadDone 0 (lockImage.take 258 ++ [1, 0] ++ lockImage.drop 260) .done) inS2 = ([2, 1, 3, 0], [(0x0103, 0)]) := by decide +kernel

theorem wit_PllLock :
    let s := atStage 3 fun h => { h with img := { loaded := some testImage } }
    let a := after (.pllLockTimeout 0 [2, 1]) s
    let c := after (.pllLockTimeout 0 [3, 1]) (after (.pllLockTimeout 0 [3]) a)
    s.hw.Settled ∧ s.hw.sta.failed = false ∧ ((after (.pllLock 0) s).hw.sta.stage, (after (.pllLock 0) s).hw.tim.c) = (4, 0) ∧
      (a.hw.sta.pllTries, a.hw.sta.failed) = (1, false) ∧ (c.hw.sta.pllTries, c.hw.sta.failed) = (3, true) ∧ c.hw.newest 0x0203 1 := by
  decide +kernel
/-- S4 with the image of the tests, discovery ended on some buses. -/
def inS4 (found : List QuadId) : State := atStage 4 fun h => { h with
  img := { loaded := some testImage }, sta := { h.sta with discovered := found } }
theorem wit_StageS4_record :
    let u := after (.calRecordRead 0 []) (inS4 [])
    (inS4 []).hw.Settled ∧ (inS4 []).hw.sta.calRead = none ∧ u.hw.img.calState = 3 ∧ u.hw.newest 0x0801 3 := by decide +kernel
/-- A calibration record of zeros for a die whose DIE_ID is zero; its CRC is that of the standard CRC-32 over the DIE_ID and bytes 0 to
4415 (R53). -/
def zeroRecord : Bytes := le 4 0x524C4143 ++ le 2 1 ++ le 2 4420 ++ List.replicate 4408 0 ++ le 4 0x33941003
set_option maxRecDepth 1000000 in
theorem wit_StageS4_valid :
    let s := atStage 4 id
    let t := after (.calRecordRead 0 zeroRecord) s
    s.hw.Settled ∧ (t.hw.img.calState, (t.hw.path 63).trimSource, (t.hw.path 63).rxTrim.thresh.length) = (0, true, 32) := by decide +kernel
set_option maxRecDepth 100000 in
theorem wit_StageS4_exit :
    let s := inS4 (List.finRange 16)
    let t := after (.calRecordRead 0 []) s
    s.hw.Settled ∧ s.hw.sta.discovered.length = 16 ∧ (t.hw.sta.stage, t.hw.pins.ltx, (t.hw.eng 3).cause) = (5, Vector.replicate 8 true, 1) := by decide +kernel
/-- An identity page with a serial number, 4 A at most, its CRC right. -/
def idPage (serial : Nat) : Bytes :=
  let b := padTo 254 (le 4 0x4D454654 ++ le 2 1 ++ List.replicate 5 0 ++ [30] ++ List.replicate 4 0 ++ le 8 serial ++ le 4 5000 ++ le 2 900 ++
    le 2 3000 ++ le 2 0 ++ [5, 0] ++ le 2 1000 ++ le 2 0 ++ le 2 100 ++ le 2 900 ++ le 2 50 ++ le 2 0x8000)
  b ++ le 2 (crc16 b)
/-- A FEM with that page and no life. -/
def femOf (serial : Nat) : FemRead := { identity := some (idPage serial), lifeA := none, lifeB := none }
/-- A FEM that does not answer. -/
def noFem : FemRead := { identity := none, lifeA := none, lifeB := none }
set_option maxRecDepth 100000 in
theorem wit_StageS4_discovery :
    let t := after (.femDiscoveryDone 0 2 [femOf 7, noFem, noFem, noFem]) (inS4 [])
    ((inS4 []).hw.path 8).retired = false ∧ ((t.hw.path 8).fem.id.map fun i => (i.serial, i.dacFs)) = some (7, 30) ∧
      (t.hw.path 8).fem.lifeInvalid = true ∧ (t.hw.path 9).retireAt = [(0, 1)] ∧
      (t.hw.lko.log.map fun e => (e.code, e.arg)) = [(0x0503, 8), (0x0501, 11), (0x0501, 10), (0x0501, 9)] := by decide +kernel
/-- The laboratory in an earlier stage. -/
def labAt (n : Nat) (f : Hw → Hw) : State := labOn fun h => f { h with
  sta := { h.sta with stage := n }, mode := {}, pins := { h.pins with stat := n - 1 } }
theorem wit_SlotEntryAnnounced :
    let s := labAt 6 fun h => { h with sta := { h.sta with k7 := none }, tim := { h.tim with state := 3 } }
    let t := after (.slotEntryAnnounce 0) s
    s.hw.Settled ∧ s.hw.tim.stepped = true ∧ s.hw.tim.state = 3 ∧ s.hw.tim.theta = 0 ∧ s.hw.sta.announced = none ∧
      (t.hw.sta.announced, t.hw.sta.k7) = (some (7, 5880), some 5880) ∧ t.hw.newest 0x010C 7 ∧ t.hw.trl.ceilings = true := by decide +kernel
theorem wit_SlotEntryAnnounced_start :
    let s := labAt 7 fun h => { h with sta := { h.sta with fineLock := true }, paths := vmapi h.paths fun _ p => { p with dpd := { p.dpd with goodRounds := 2 } } }
    let w := { s with hw := { s.hw with paths := vmapi s.hw.paths fun n p => { p with retired := decide (n < 3) } } }
    s.hw.Settled ∧ s.hw.converged = true ∧ (s.hw.startRec.map (·.allowance)) = some 2 ∧
      (after (.slotEntryAnnounce 0) s).hw.sta.announced = some (0, 5880) ∧ w.hw.retiredCount = 3 ∧ w.hw.converged = true ∧
      (after (.slotEntryAnnounce 0) w).hw.sta.announced = some (7, 5880) ∧ (after (.slotEntryAnnounce 0) w).hw.sta.wornAtEntry = true := by
  decide +kernel
theorem wit_Waits_start :
    let s := labAt 5 fun h => { h with
      sta := { h.sta with entry := updN h.sta.entry 5 fun _ => some 0 }, ports := Vector.replicate 2 {} }
    let m := labAt 6 fun h => { h with sta := { h.sta with entry := updN h.sta.entry 6 fun _ => some 0, since := 10 * 983040000 }, tim := { h.tim with state := 1 } }
    s.hw.Settled ∧ m.hw.Settled ∧ (after (.laneNoLinkTimeout 0) s).hw.newest 0x0301 0 ∧ (after (.laneNoLinkTimeout 0) s).hw.pins.alarm = true ∧
      (after (.ptpNoMasterTimeout 0) m).hw.newest 0x0204 0 := by decide +kernel
theorem wit_Waits_converge :
    let s := labAt 7 fun h => { h with
      sta := { h.sta with fineAt := some 0, since := 60 * 983040000 }, lko := { h.lko with holds := [983040, 2000000] }, pins := { h.pins with alarm := true } }
    s.hw.Settled ∧ s.hw.converged = false ∧ (after (.dpdNoConverge 0) s).hw.newest 0x010D 16 ∧
      (after (.alarmNHoldEnd 0) s).hw.lko.holds = [2000000] := by decide +kernel
theorem wit_Waits_stale :
    let s := labOn fun h => { h with
      paths := updN h.paths 5 fun p => { p with dpd := { p.dpd with age := 101 } }
      quads := updN h.quads 3 fun q => { q with hkAge := 3, hkRunning := true } }
    s.hw.Settled ∧ (s.hw.slotNow.map (·.dpdMode)) = some 1 ∧ (after (.dpdStale 5) s).hw.newest 0x0605 5 ∧
      (after (.trlQuadStale 3) s).hw.newest 0x0902 3 ∧ ((after (.trlQuadStale 3) s).hw.quad 3).stale = true := by decide +kernel

/-! ### Time (R256 to R277) -/

/-- A header from the master 77 on port A. -/
def ptpOf (seq : Nat) : PtpHdr := {
  port := 0, lane := 0, tagged := false, dst := 0x011B19000000, version := 2, sdoId := 0, domain := 0, seq := seq, source := 77, correction := 0
  residence := 491520 }
/-- An Announce every 0.5 s. -/
def annOf : AnnounceData := {
  clockClass := 6, accuracy := 0x21, variance := 100, priority2 := 1, grandmaster := 5, stepsRemoved := 2, utcOffset := 37, interval := 491520000 }
/-- No master is selected yet; one was heard 0.5 s ago. -/
def labNew (heard : List Nat) : State := labOn fun h => { h with tim := { h.tim with
  state := 1, masters := if heard = [] then [] else [{ source := 77, data := annOf, heard := heard }] } }
theorem wit_PtpMaster_announce :
    let s := labNew [983040000 - 491520000]
    let t := after (.ptpAnnounce 0 (ptpOf 1) annOf) s
    let u := after (.ptpAnnounce 0 (ptpOf 1) { annOf with clockClass := 7 }) t
    s.hw.Settled ∧ (s.hw.port 0).linkUp = true ∧ s.hw.tcActive = false ∧ s.hw.image.pkg.ptpDomain = 0 ∧
      (t.hw.tim.selected, t.hw.tim.clockClass, t.hw.tim.state, t.hw.tim.announceRx) = (some 77, 6, 3, 1) ∧ u.hw.tim.clockClass = 7 ∧
      (after (.ptpAnnounce 0 (ptpOf 1) annOf) (labNew [])).hw.tim.selected = none := by decide +kernel
/-- Master 77 is selected, one delay of 500 ns known, and a Delay_Req of number 9 sent. -/
def labPtp (f : Tim → Tim) : State := labOn fun h => { h with tim := f { h.tim with
  selected := some 77, state := 3, masters := [{ source := 77, data := annOf, heard := [983040000] }], lastAnnounce := 983040000
  lastSync := 983040000, syncDst := some 0x0180C200000E, delays := [500], delayReq := some (9, 0), reqSync := some { seq := 3, t1 := 0, t2 := 65536 * 600, cs := 0 } } }
/-- t1 of a Sync that arrives now, sent 600 ns before it reached the lane pins, which is 140 cc before its stamp (Table 13.3). -/
def t1Now : Int := (todUnits lab.hw.tim.c : Int) - todUnits 140 - 65536 * 600
theorem wit_PtpOffset_sync :
    let s := labPtp fun t => { t with stepped := false, waiting := some { seq := 4, t1 := 0, t2 := 65536 * 700, cs := 0, d := 500 } }
    let a := after (.ptpSync 0 (ptpOf 5) true 0 61440000) s
    let b := after (.ptpSync 0 (ptpOf 5) false t1Now 61440000) s
    let c := after (.ptpFollowUp 0 (ptpOf 4) 0) s
    s.hw.Settled ∧ s.hw.tim.delays = [500] ∧ s.hw.tim.acquired = true ∧ (a.hw.tim.waiting.map (·.seq)) = some 5 ∧
      (b.hw.tim.theta, b.hw.tim.syncRx, b.hw.tim.waiting) = (100, 1, none) ∧ c.hw.tim.theta = 200 := by decide +kernel
theorem wit_PtpOffset_steering :
    let s := { labPtp id with hw := { (labPtp id).hw with img := { (labPtp id).hw.img with
      loaded := some { testImage with pkg := { testImage.pkg with slewLimit := 100 } } } } }
    let t := after (.ptpSync 0 (ptpOf 5) false t1Now 61440000) s
    s.hw.Settled ∧ s.hw.tim.stepped = true ∧ s.hw.image.pkg.timeTol = 100 ∧
      (t.hw.tim.theta, t.hw.tim.y, t.hw.tim.r, t.hw.tim.outOfTol, t.hw.sta.fineRun) = (100, -97.65625, -25097.65625, false, 1) := by decide +kernel
theorem wit_PtpOffset_exchange :
    let y : SyncRec := { seq := 4, t1 := 0, t2 := 65536 * 600, cs := 0, d := 500 }
    let s := labPtp fun t => { t with waiting := none, exchange := some (y, 65536 * 420), reqOpen := false }
    let u := labPtp fun t => { t with stepped := false, waiting := some y, reqOpen := true, reqSync := some y }
    let a := (after (.ptpFollowUp 0 (ptpOf 4) 0) s).hw.tim
    let b := (after (.ptpFollowUp 0 (ptpOf 4) 6553600) u).hw.tim
    (a.exchange, a.mpd, a.delays) = (none, 505, [510, 500]) ∧ (b.reqOpen, b.reqSync.map (·.t1), b.theta) = (false, some 6553600, 0) := by decide +kernel
theorem wit_PtpMaster_delay :
    let s := labPtp fun t => { t with reqInterval := 61440000 }
    let r := after (.delayReqSend 0) s
    let d := after (.ptpDelayResp 0 (ptpOf 9) (65536 * 400) (clockId 0x020000000002 * 65536 + 1) 122880000) s
    s.hw.Settled ∧ s.hw.ownMac = some 0x020000000002 ∧ (r.hw.tim.delayReqTx, r.hw.out.tx) = (1, [.delayReq 0x0180C200000E 0 (todUnits lab.hw.tim.c + todUnits 60)]) ∧
      (d.hw.tim.mpd, d.hw.tim.reqInterval, d.hw.tim.delays) = (500, 122880000, [500, 500]) := by decide +kernel
theorem wit_PtpMaster_loss :
    let s := labPtp fun t => { t with lastSync := 0, y := 1000, r := 2000 }
    let t := after (.masterLoss 0) s
    s.hw.Settled ∧ (t.hw.tim.selected, t.hw.tim.state, t.hw.tim.r, t.hw.tim.losses, t.hw.tim.masters) = (none, 4, 1000, 1, []) ∧
      t.hw.newest 0x0204 0 := by decide +kernel
/-- A chain: every flow leaves by port A, and both ports have link. -/
def labChain : State := labOn fun h => { h with
  img := { h.img with loaded := some { testImage with flows := [(0, [flowOf 0 0 0x10])] } } }
/-- The residence of 500 µs, and 140 cc and 60 cc of Table 13.3: 500,203.45 ns. -/
theorem wit_TransparentClock :
    let t := after (.ptpDelayReqRx 0 (ptpOf 1)) labChain
    let m := { ptpOf 1 with correction := 2 ^ 63 - 1, port := 1 }
    labChain.hw.Settled ∧ labChain.hw.tcActive = true ∧ lab.hw.tcActive = false ∧ t.hw.tim.tcA2b = 1 ∧
      t.hw.out.tx = [.ptpForward 1 32781333333] ∧ (after (.ptpDelayReqRx 0 m) labChain).hw.out.tx = [.ptpForward 0 (2 ^ 63 - 1)] ∧
      (after (.ptpDelayReqRx 0 (ptpOf 1)) lab).hw.tim.ptpIgnored = #v[1, 0] ∧ (after (.ptpDelayReqRx 0 (ptpOf 1)) lab).hw.out.tx = [] := by
  decide +kernel
theorem wit_TimePins_comparators :
    let c := BitVec.ofNat 32 lab.hw.tim.c
    let a := after (.timCmpArm 0 3 (c + 10)) lab
    let b := after (.comparatorFire 10 3) a
    let l := after (.timCmpArm 0 3 c) lab
    lab.hw.Settled ∧ ((a.hw.path 3).cmp.armed, (a.hw.path 3).cmp.late) = (true, false) ∧
      ((after (.comparatorFire 9 3) a).hw.path 3).cmp.fired = false ∧ ((b.hw.path 3).cmp.fired, b.hw.out.events) = (true, [67]) ∧
      ((l.hw.path 3).cmp.fired, (l.hw.path 3).cmp.late, (l.hw.path 3).cmp.lateCount, l.hw.out.events) = (true, true, 1, [67]) := by decide +kernel
theorem wit_TimePins_tout :
    let i := { testImage with touts := [{ pin := 2, mode := 1, startS := 0, startNs := 99000000, periodNs := 1000000 }] }
    let s := labOn fun h => { h with img := { h.img with loaded := some i } }
    let t := after (.toutRise 0 2) s
    s.hw.Settled ∧ s.hw.tim.stepped = true ∧ (t.hw.tim.toutLevel[2], t.hw.tim.toutNext[2]) = (true, 1) ∧
      (after (.toutFall 0 2) t).hw.tim.toutLevel[2] = false := by decide +kernel
theorem wit_TimePins_tcap :
    let t := after (.tcapEdge 0 1 0) lab
    let u := after (.tcapEdge 98 1 3) t
    let v := after (.tcapEdge 98 1 4) t
    (t.hw.tim.tcapLast[1], t.hw.tim.tcap[1][0], t.hw.out.events) = (0, todUnits lab.hw.tim.c, [49]) ∧
      (u.hw.tim.tcapLast[1], u.hw.tim.tcapMissed[1]) = (0, 1) ∧
      (v.hw.tim.tcapLast[1], v.hw.tim.tcap[1][1]) = (1, todTwelfths (12 * (lab.hw.tim.c + 98) + 4)) := by decide +kernel

/-! ### Ticks (R23 to R29, R257, R266) -/

/-- What the windows of the tests show: nothing. -/
def quiet : WindowIn := { rx := [], sensors := [], bankUpsets := [], upsets := [], bufParity := [], egressParity := [] }
set_option maxRecDepth 100000 in
theorem wit_TickOpensWindow :
    let s := labOn fun h => { h with trl := { h.trl with classNext := updN h.trl.classNext 2 fun _ => some 7 } }
    let t := after (.tick quiet) s
    s.hw.Settled ∧ s.hw.tim.open_ = true ∧ (t.hw.tim.k, t.hw.tim.tickC) = (5602, gridC 1 5602) ∧ 0 ∈ t.hw.out.events ∧
      t.hw.trl.classLimit[2] = 7 := by decide +kernel
/-- The window before a frame tick, with something changed. -/
def labFrame (f : Hw → Hw) : State := labOn fun h => f { h with tim := { h.tim with c := gridC 1 5879, k := 5879, tickC := gridC 1 5879 } }
set_option maxRecDepth 100000 in
theorem wit_TickChangesSlot :
    let s := labFrame fun h => { h with mode := { h.mode with selects := [⟨5880, 1, false⟩] } }
    s.hw.Settled ∧ s.hw.nextTick % s.hw.perFrame = 0 ∧ (after (.tick quiet) s).hw.mode.slot = some 1 := by decide +kernel
set_option maxRecDepth 100000 in
theorem wit_TickChangesSlot_fallback :
    let f := labFrame fun h => { h with mode := { h.mode with selects := [⟨5880, 1, false⟩], fallback := some 5880 } }
    (after (.tick quiet) f).hw.mode.slot = some 7 := by decide +kernel
set_option maxRecDepth 100000 in
theorem wit_TickChangesSlot_kept : (after (.tick quiet) (labFrame id)).hw.mode.slot = some 0 ∧ (after (.tick quiet) lab).hw.mode.slot = some 0 := by
  decide +kernel
set_option maxRecDepth 100000 in
theorem wit_TickChangesSlot_announced :
    let s := labFrame fun h => { h with
      sta := { h.sta with stage := 7, announced := some (0, 5880) }, mode := { h.mode with slot := some 7 }, pins := { h.pins with stat := 6 } }
    let t := after (.tick quiet) s
    s.hw.Settled ∧ (t.hw.mode.slot, t.hw.sta.stage, t.hw.sta.announced) = (some 0, 8, none) := by decide +kernel
set_option maxRecDepth 100000 in
theorem wit_TickChangesSlot_retires :
    let s := labOn fun h => { h with paths := updN h.paths 9 fun p => { p with retireAt := [(5602, 6), (5602, 3), (5700, 6)], paen := true } }
    let t := after (.tick quiet) s
    s.hw.Settled ∧ ((t.hw.path 9).retired, (t.hw.path 9).paen, (t.hw.path 9).fem.failCause, (t.hw.path 9).retireAt) = (true, false, 3, [(5700, 6)]) := by
  decide +kernel
/-- S6, the time acquired on the old grid, θ given. -/
def labStep (theta : Rat) : State := labAt 6 fun h => { h with
  tim := { h.tim with stepped := false, theta := theta, stepTheta := theta, gridBase := 1000, state := 2, c := 1000 + gridC 1 5601 }
  paths := updN h.paths 2 fun p => { p with cmp := { p.cmp with armed := true } } }
theorem wit_TimeStep :
    let s := labStep 100000
    let t := after .timeStep s
    s.hw.Settled ∧ s.hw.tim.acquired = true ∧ (∀ e : EngId, (s.hw.eng e).job = none ∧ (s.hw.eng e).jobs = []) ∧
      (∀ c : ChId, (s.hw.ch c).state ≠ 1) ∧ (t.hw.tim.c, t.hw.tim.stepped, t.hw.tim.open_, t.hw.tim.theta) = (gridC 1 5602 + 1000 - 98304, true, false, 0) ∧
      t.hw.tim.stepSize = 100000 ∧ (t.hw.lko.log.head?.map (·.code)) = some 0x0207 := by decide +kernel
theorem wit_StepClearsComparators :
    let t := after .timeStep (labStep 0)
    ((t.hw.path 2).cmp.armed, (t.hw.path 2).cmp.clearedByStep, (t.hw.path 2).cmp.fired, (t.hw.path 3).cmp.clearedByStep) =
      (false, true, false, false) := by decide +kernel
theorem wit_QuantumAbandoned :
    let j : Job := { w0 := 0x0102, tick := 5601 }
    let s := labTor fun e => { e with job := some j, jobs := [j, j], pc := 400, loops := [⟨0, 800, 2⟩] }
    let t := after (.quantumAbandon 0) s
    s.hw.Settled ∧ s.hw.traceFlow 0 = false ∧
      ((tor0 t).pc, (tor0 t).job, (tor0 t).jobs, (tor0 t).abandoned, (tor0 t).abandonedCnt) = (0x10, none, [], true, 3) := by decide +kernel

/-! ### Lanes and ports (R284 to R299) -/

theorem wit_LaneBringUp :
    let m : EyeMeas := { ew := 30, eh := 20, ctle := 9, taps := List.replicate 12 0 }
    let at_ := fun (n : Nat) => labOn fun h => { h with ports := updN h.ports 0 fun p => { p with linkUp := false }, lanes := updN h.lanes 2 fun x => { x with step := n } }
    let lane := fun (i : Instr) (n : Nat) => let x := (after i (at_ n)).hw.lane 2; (x.step, x.adapt, x.inverted)
    (at_ 1).hw.Settled ∧ (at_ 1).hw.portType 0 = 2 ∧ lane (.laneSignalDetect 0 2) 1 = (2, 0, false) ∧ lane (.laneCdrLock 0 2) 2 = (3, 1, false) ∧
      lane (.laneCoarseDone 0 2 m) 3 = (4, 2, false) ∧ lane (.laneCoarseDone 0 2 { m with eh := 19 }) 3 = (3, 0, false) ∧
      lane (.lanePolarityTimeout 0 2) 4 = (4, 0, true) ∧ lane (.laneConditionLost 0 2) 4 = (1, 0, false) := by decide +kernel
/-- Three lanes of port A found their markers, the fourth searches. -/
def labMarks : State := labOn fun h => { h with
  ports := updN h.ports 0 fun p => { p with linkUp := false }
  lanes := vmapi h.lanes fun l x => if l < 3 then { x with step := 5, number := some l, skew := 10 * l } else { x with step := 4 } }
theorem wit_LaneBringUp_markers :
    let t := after (.laneMarkerFound 0 3 3 128) labMarks
    let u := after (.laneMarkerFound 0 3 3 129) labMarks
    let v := after (.laneMarkerFound 0 3 2 30) labMarks
    labMarks.hw.Settled ∧ ((t.hw.port 0).aligned, (t.hw.lane 0).deskew, (t.hw.lane 3).deskew) = (true, 128, 0) ∧
      ((u.hw.port 0).aligned, (u.hw.port 0).orderFault) = (false, true) ∧ (v.hw.port 0).orderFault = true ∧ v.hw.newest 0x0306 0 := by decide +kernel
theorem wit_LinkState :
    let a := labAt 5 fun h => { h with ports := updN h.ports 0 fun p => { p with linkUp := false, aligned := true } }
    let t := after (.laneLinkUp 0 0) a
    let d := after (.laneLinkDown 0 0 2 [1]) (labOn fun h => { h with lanes := vmapi h.lanes fun _ x => { x with step := 5 } })
    let r := after (.linkDownRestart 9830400 0) d
    a.hw.Settled ∧ (t.hw.sta.stage, (t.hw.port 0).linkUp) = (6, true) ∧ ((d.hw.port 0).downCause, (d.hw.port 0).linkUp) = (2, false) ∧
      [(d.hw.lane 0).step, (d.hw.lane 1).step, (d.hw.lane 4).step] = [3, 1, 5] ∧ (r.hw.port 0).restarted = true ∧ (r.hw.lane 0).step = 1 ∧
      (after (.linkDownRestart 9830399 0) d).hw.lko.log.length = d.hw.lko.log.length := by decide +kernel
theorem wit_EyeGuard :
    let taps := List.replicate 12 (0 : Int)
    let s := labOn fun h => { h with lanes := updN h.lanes 1 fun x => { x with step := 4, adapt := 2, taps := taps, eh := 100, ehMax := 100, snapValid := true, snapCtle := 5, snapTaps := taps } }
    let f := { s with hw := { s.hw with lanes := updN s.hw.lanes 1 fun x => { x with acts := [983039999, 983039998, 983039997] } } }
    let m : EyeMeas := { ew := 30, eh := 75, ctle := 9, taps := taps }
    let a := after (.laneEyeInterval 0 1 m) s
    let b := after (.laneEyeInterval 0 1 { m with ctle := 31 }) s
    let c := after (.laneEyeInterval 0 1 { m with ctle := 0 }) f
    let e := after (.laneFreezeEnd 983040000 1) c
    s.hw.Settled ∧ f.hw.Settled ∧ ((a.hw.lane 1).snapCtle, (a.hw.lane 1).ehSnap) = (9, 75) ∧
      ((b.hw.lane 1).ctle, (b.hw.lane 1).reverts, (b.hw.lane 1).adapt) = (5, 1, 2) ∧ b.hw.newest 0x0307 1 ∧ (c.hw.lane 1).adapt = 3 ∧
      c.hw.newest 0x0308 1 ∧ (e.hw.lane 1).adapt = 2 ∧ e.hw.newestCease 0x0308 1 := by decide +kernel
theorem wit_EyeGuard_low :
    let s := labOn fun h => { h with lanes := updN h.lanes 1 fun x => { x with step := 5, adapt := 2, eh := 100, ehMax := 100, snapValid := true } }
    let m : EyeMeas := { ew := 30, eh := 19, ctle := 9, taps := List.replicate 12 0 }
    let t := after (.laneEyeInterval 0 1 m) s
    s.hw.portType 0 = 2 ∧ ((t.hw.lane 1).step, (t.hw.lane 1).snapValid, (t.hw.port 0).linkUp, (t.hw.port 0).downCause) = (1, false, false, 3) ∧
      t.hw.lko.raised = [(0x0303, 3)] ∧ ((after (.laneEyeInterval 0 1 { m with eh := 20 }) s).hw.lane 1).step = 5 := by decide +kernel
theorem wit_LinkState_errors :
    let u := after (.fecUncorrectable 0 0) lab
    let e := after (.fecIntervalEnd 0 0 7 []) u
    let c := after (.fecDegradedCease 983040000 0) e
    let r := after (.remoteFaultRx 0 0 true) (labOn fun h => { h with ports := updN h.ports 0 fun p => { p with aligned := true } })
    lab.hw.portType 0 = 2 ∧ ((u.hw.port 0).uncorrCw, (u.hw.port 0).errored) = (1, false) ∧ (e.hw.port 0).corrCw = 7 ∧ e.hw.newest 0x0304 0 ∧
      c.hw.newestCease 0x0304 0 ∧ r.hw.newest 0x0305 0 ∧ (after (.remoteFaultRx 0 0 false) r).hw.newestCease 0x0305 0 ∧ ((after (.idleDelete 0 0 21) lab).hw.port 0).fill = 20 ∧
      ((after (.idleDelete 0 0 20) lab).hw.port 0).fill = 16 ∧ ((after (.idleInsert 0 0 11) lab).hw.port 0).fill = 12 ∧
      ((after (.elasticError 0 0 true) lab).hw.port 0).elasticErr = 1 := by decide +kernel

/-! ### FEMs, couplers, housekeeping (R303 to R327) -/

/-- The identity of a FEM. -/
def someFem : FemId := {
  dacFs := 30, serial := 7, rated := 5000, iRated := 900, pRated := 3000, gain := 0, headroom := 5, biasMode := 0, biasNom := 1000, biasTc := 0
  iOnMin := 100, iOnMax := 900, iOffMax := 50, isnsGain := 0x8000, pdOffset := 0, pdGain := 0x8000, reflMax := 500 }
/-- Every FEM is known, and every PAEN high. -/
def labFem (f : Hw → Hw) : State := labOn fun h => f { h with paths := vmapi h.paths fun _ p => { p with
  paen := true, fem := { p.fem with id := some someFem, lastSerial := some 7 } } }
theorem wit_FemTraffic_bus :
    let s := labFem fun h => { h with quads := updN h.quads 2 fun x => { x with busQueue := [(2, 8), (2, 9)] } }
    let q := fun (s : State) => let x := s.hw.quad 2; (x.busQueue, x.busNack, x.busTries)
    let one := after (.femBusTransactionDone 0 2 false true) s
    let t := after (.femBusStuck 0 2) s
    s.hw.Settled ∧ q (after (.femBusTransactionDone 0 2 true true) s) = ([(2, 9)], 0, 0) ∧ q one = ([(2, 8), (2, 9)], 1, 1) ∧
      q (after (.femBusTransactionDone 0 2 false true) (after (.femBusTransactionDone 0 2 false true) one)) = ([(2, 9)], 3, 0) ∧
      (t.hw.path 9).disabled = true ∧ (t.hw.path 9).retireAt = [(5602, 2)] ∧ (t.hw.path 12).disabled = false ∧ t.hw.newest 0x0502 2 := by
  decide +kernel
theorem wit_FemTraffic_recover :
    let s := labFem fun h => { h with quads := updN h.quads 2 fun x => { x with busQueue := [(2, 8), (2, 9)] } }
    let t := after (.femBusTransactionDone 0 2 false false) s
    let u := after (.femBusStuck 0 2) s
    let v := after (.femBusTransactionDone 0 2 true true) u
    t.hw.out.bus = [.recover 2] ∧ (after (.femBusTransactionDone 0 2 false true) s).hw.out.bus = [] ∧
      ((u.hw.quad 2).busStuck, (v.hw.quad 2).busStuck, u.hw.lko.raised, v.hw.lko.raised) = (true, false, [(0x0502, 2)], []) := by
  decide +kernel
theorem wit_FemTraffic_poll :
    let s := labFem fun h => { h with paths := updN h.paths 5 fun p => { p with fem := { p.fem with missedPolls := 1 } } }
    let a := after (.femStatusPollDone 0 5 (some true)) s
    let m := after (.femStatusPollDone 0 5 none) s
    let f := after (.femStatusPollDone 0 5 none) m
    s.hw.Settled ∧ (a.hw.path 5).fem.failCause = 5 ∧ a.hw.newest 0x0507 5 ∧ ((m.hw.path 5).fem.missedPolls, (m.hw.path 5).disabled) = (2, false) ∧
      ((f.hw.path 5).disabled, (f.hw.path 5).paen, (f.hw.path 5).retireAt) = (true, false, [(5602, 1)]) ∧
      ((after (.femStatusPollDone 0 5 (some false)) s).hw.path 5).fem.missedPolls = 0 := by decide +kernel
set_option maxRecDepth 100000 in
theorem wit_FemTraffic_restore :
    let s := labFem fun h => { h with paths := updN h.paths 5 fun p => { p with retired := true, restore := some { target := 5601 } } }
    let t := after (.femIdentityReadDone 0 5 (femOf 8) (some false)) s
    let u := after (.femIdentityReadDone 0 5 noFem (some false)) s
    s.hw.Settled ∧ ((t.hw.path 5).restore.bind (·.kr)) = some 5880 ∧ (t.hw.path 5).dpd.settling = true ∧ (u.hw.path 5).restore = none ∧
      u.hw.newest 0x0501 5 := by decide +kernel
theorem wit_ObservationRounds_coupler :
    let s := labFem fun h => { h with quads := updN h.quads 1 fun x => { x with obs := { x.obs with state := 1, cur := 2, failed := 0xB } } }
    let t := after (.couplerSelectDone 0 1 true) s
    let f := after (.couplerSelectDone 0 1 false) s
    let g := after (.couplerSelectDone 0 1 true) { f with hw := { f.hw with quads := updN f.hw.quads 1 fun x => { x with obs := { x.obs with state := 1 } } } }
    s.hw.Settled ∧ ((t.hw.quad 1).obs.state, (t.hw.path 6).fem.couplerSel, (t.hw.path 5).fem.couplerSel) = (2, true, false) ∧
      ((after (.couplerSettleDone 0 1) t).hw.quad 1).obs.state = 3 ∧ ((f.hw.quad 1).obs.lost, (f.hw.quad 1).obs.failed) = (true, 0xF) ∧
      f.hw.lko.raised = [(0x0603, 1)] ∧ g.hw.newestCease 0x0603 1 := by decide +kernel
set_option maxRecDepth 100000 in
theorem wit_FemLife :
    let s := labFem fun h => { h with
      tim := { h.tim with c := 983040000 * 907 }, paths := updN h.paths 3 fun p => { p with fem := { p.fem with writeDue := true, seq := 5, newerA := true } } }
    let w := after (.femLifeWriteDone 0 3 .ok) s
    let f := after (.femLifeWriteDone 0 3 .failed) s
    let i := after (.femLifeWriteDone 0 3 .idLost) s
    s.hw.Settled ∧ ((after (.femLifeWriteTime 0 3) s).hw.path 3).fem.lifeM = 1 ∧
      (w.hw.out.life.map fun x => (x.1, x.2.1, x.2.2.length, rd x.2.2 8 4)) = [(3, 0x0200, 256, 6)] ∧ (w.hw.path 3).fem.newerA = false ∧
      f.hw.newest 0x0504 3 ∧ (i.hw.path 3).fem.failCause = 1 := by decide +kernel
/-- A quad whose housekeeping stands at an entry: a FEM temperature or a supply voltage with one code, or the current of path 0. -/
def labHk (entries : List HkEntry) : State := labFem fun h => { h with
  img := { h.img with loaded := some { testImage with hkSeq := [(0, entries)] } }, quads := updN h.quads 0 fun x => { x with hkRunning := true } }
/-- One code. -/
def codeOf (n : Nat) : HkCode := { code := n, ovr := false }
theorem wit_HkReading :
    let s := labHk [⟨8, 1, 0⟩]
    let v := labHk [⟨9, 0, 0⟩]
    let t := after (.hkReading 0 0 [codeOf 1000, codeOf 1001]) s
    let x := after (.hkReading 0 0 [codeOf 99]) v
    s.hw.Settled ∧ v.hw.Settled ∧ ((t.hw.quad 0).hk[8].mean, (t.hw.quad 0).conv, (t.hw.quad 0).femTemp.isSome) = (16008, 2, true) ∧
      x.hw.newest 0x0508 0 ∧ (x.hw.quad 0).supplyOut = true ∧ (after (.hkReading 0 0 [codeOf 100]) v).hw.lko.log = [] ∧
      ((after (.hkReading 0 0 [codeOf 5]) (labHk [⟨11, 0, 0⟩, ⟨8, 0, 0⟩])).hw.quad 0).hkEntry = 1 := by decide +kernel
theorem wit_HkReading_checks :
    let s := labHk [⟨0, 0, 0⟩]
    let r := labHk [⟨4, 0, 0⟩]
    let a := after (.hkReading 0 0 [codeOf 12]) s
    let b := after (.hkReading 0 0 [codeOf 12]) a
    let x := after (.hkReading 0 0 [codeOf 12]) (a.on fun h => h.onPath 0 fun p => { p with paenMoved := true })
    let c := after (.hkReading 0 0 [codeOf 100]) (after (.hkReading 0 0 [codeOf 100]) r)
    s.hw.Settled ∧ ((a.hw.path 0).fem.biasRun, (a.hw.path 0).disabled) = (1, false) ∧ ((b.hw.path 0).disabled, (b.hw.path 0).fem.failCause) = (true, 3) ∧
      b.hw.newest 0x0505 0 ∧ ((after (.hkReading 0 0 [codeOf 13]) a).hw.path 0).fem.biasRun = 0 ∧
      (x.hw.path 0).fem.biasRun = 1 ∧ (x.hw.quad 0).hk[0].mixed = true ∧ (x.hw.path 0).paenMoved = false ∧ (c.hw.path 0).fem.failCause = 4 ∧ c.hw.newest 0x0506 0 := by
  decide +kernel
theorem wit_HkInject :
    let a := after (.hkaInjectStart 0 3 9) lab
    let b := after (.hkaInjectStart 0 3 8) a
    let s := labOn fun h => { h with quads := updN h.quads 3 fun x => { x with
      injBusy := some (9, false), injTo := 983040300, injPending := some (8, false), injFrom := 983040300 } }
    let d := after (.hkInjectDone 0 3 (codeOf 77)) s
    lab.hw.Settled ∧ s.hw.calCollects = false ∧ (a.hw.quad 3).injPending = some (9, false) ∧ ((b.hw.quad 3).injRefused, (b.hw.quad 3).injRefusedCnt) = (true, 1) ∧
      ((after (.hkaInjectStart 0 3 12) lab).hw.quad 3).injRefused = true ∧
      ((d.hw.quad 3).injCode, (d.hw.quad 3).injBusy, (d.hw.quad 3).injPending, d.hw.out.events) = (77, none, some (8, false), [131]) := by
  decide +kernel
/-- Table 14.11: requests A and B in slot 0, C in slot 1, and INJ_PENDING and INJ_BUSY at the end of each slot, which lasts 491.52 cc. -/
theorem test_injected_slots :
    let ask := fun (dt c : Nat) (s : State) => after (.hkaInjectStart dt 3 c) s
    let done_ := fun (dt : Nat) (s : State) => after (.hkInjectDone dt 3 (codeOf 77)) s
    let show_ := fun (dt : Nat) (s : State) => let h := (after (.owdFollowUp dt 0 5) s).hw
      let x := (h.quad 3).injAt h.up
      (x.injPending.isSome, x.injBusy.isSome)
    let s := labOn fun h => { h with quads := updN h.quads 3 fun x => { x with hkRunning := true, slotFrom := 983040000 } }
    let a := ask 100 10 s
    let b := ask 100 11 a
    let c := ask 500 11 b
    let d := done_ 400 c
    (b.hw.quad 3).injRefused = true ∧ show_ 291 b = (true, false) ∧ (c.hw.quad 3).injRefused = false ∧ show_ 283 c = (true, true) ∧
      ((d.hw.quad 3).injChannel, d.hw.out.events) = (10, [131]) ∧ show_ 374 d = (false, true) ∧ show_ 0 (done_ 500 d) = (false, false) := by
  decide +kernel
theorem wit_HkInject_break :
    let s := labFem fun h => { h with paths := updN h.paths 1 fun p => { p with bias := { p.bias with brk := true, operating := true } } }
    let u := labFem fun h => { h with paths := updN h.paths 1 fun p => { p with bias := { p.bias with brk := true } } }
    s.hw.Settled ∧ ((after (.biasBreakEnd 0 1) s).hw.path 1).bias.brk = false ∧ ((after (.biasBreakEnd 0 1) s).hw.path 1).bias.code ≤ 4095 ∧
      ((after (.biasBreakEnd 0 1) u).hw.path 1).bias.range = 0 := by decide +kernel

/-! ### Observation, predistortion, registers (R115, R146 to R157, R225, R346) -/

/-- Quad 1 observes the symbol of the open window. -/
def labObs : State := labFem fun h => { h with
  tim := { h.tim with k := 5600, tickC := gridC 1 5600 }
  quads := updN h.quads 1 fun x => { x with obs := { x.obs with state := 3, granted := true, enable := true, base := 0x20000000, cur := 2 } } }
theorem wit_ObservationRounds_record :
    labObs.hw.Settled ∧ (labObs.hw.slotNow.map fun sl => labObs.hw.tddCode sl 1 5600) = some 1 ∧ labObs.mem.bad = [] ∧
      ((labObs.hw.quad 1).obs.state, (labObs.hw.quad 1).obs.granted, (labObs.hw.quad 1).obs.enable) = (3, true, true) ∧
      labObs.hw.tim.open_ = true := by decide +kernel
theorem wit_ObservationRounds_data : (List.replicate 49152 (0 : Byte)).length = 49152 ∧ (-3001 : Int) < -3000 ∧
    0x20000000 + 49184 ≤ 0x21000000 := ⟨List.length_replicate, by decide, by decide⟩
theorem wit_ObservationRounds_round :
    let s := labFem fun h => { h with quads := updN h.quads 1 fun x => { x with obs := { x.obs with state := 3, cur := 1, failed := 4 } } }
    let t := after (.roundDone 0 1) s
    let u := after (.roundDone 0 1) { t with hw := { t.hw with quads := updN t.hw.quads 1 fun x => { x with obs := { x.obs with state := 3 } } } }
    s.hw.Settled ∧ s.hw.obsServes = true ∧ ((t.hw.quad 1).obs.cur, (t.hw.quad 1).obs.state, (t.hw.quad 1).busQueue) = (3, 1, [(1, 7)]) ∧
      ((u.hw.quad 1).obs.cur, (u.hw.quad 1).obs.failed) = (0, 0) := by decide +kernel
theorem wit_DpdBankWrites :
    let s := labTor id
    let d := fun (i : Instr) => ((after i s).hw.path 7).dpd
    s.hw.Settled ∧ (s.hw.eng 0).state = 1 ∧ (d (.dpdShadowWrite 0 0 7 2 3 0xAB)).bank1 = [(515, 0xAB)] ∧ (d (.dpdShadowWrite 0 0 7 2 3 0xAB)).bank0 = [] ∧
      (d (.dpdActiveWrite 0 7 2 3 0xAB)).dropped = 1 ∧ (d (.dpdSwitchRequest 0 0 7)).switchPending = true ∧ (d (.dpdLoadInit 0 0 7)).loadPending = true ∧
      ((after (.dpdShadowWrite 0 0 7 2 3 1) (after (.dpdSwitchRequest 0 0 7) s)).hw.path 7).dpd.dropped = 1 ∧
      (d (.dpdBankCopyDone 0 7)).shadowReady = true := by decide +kernel
theorem wit_DpdBankWrites_diverged :
    let s := labTor fun e => e
    let r := s.on fun h => (h.onPath 7 fun p => { p with dpd := { p.dpd with badRounds := 2 } }).onQuad 1 fun x => { x with
      obs := { x.obs with state := 3, cur := 3 } }
    let t := after (.dpdLoadInit 0 0 7) r
    r.hw.Settled ∧ (r.hw.eng 0).state = 1 ∧ t.hw.newest 0x0604 7 ∧ ((t.hw.path 7).dpd.loadPending, (t.hw.path 7).dpd.badRounds) = (true, 0) ∧
      (after (.dpdLoadInit 0 0 7) (after (.dpdSwitchRequest 0 0 7) r)).hw.lko.log = r.hw.lko.log ∧
      ((after (.roundDone 0 1) r).hw.path 7).dpd.badRounds = 3 := by decide +kernel
theorem wit_EngineRegisters :
    let s := labTor id
    s.hw.Settled ∧ ((after (.toneWrite 0 3 (some 0x7FFFFFFF) (some 5)) s).hw.path 3).tone.nextCfg = some 0x7FFF0003 ∧
      (after (.trlClassLimitWrite 0 1 9) s).hw.trl.classNext[1] = some 9 ∧ ((after (.torRouteWrite 0 false 4 9) s).hw.quad 4).routeNext = some 9 ∧
      (after (.torRouteWrite 0 true 2 9) s).hw.crn.routeNext[2] = some 9 ∧ (tor0 (after (.torStatOfferWrite 0 0 3) s)).statNext = some 3 ∧
      (tor0 (after (.torEvselWrite 0 0 3 77 true) s)).ev[3] = ⟨77, true, false⟩ ∧
      (after (.engRegisterWrite 0 0 0x80240064 0x1FF) s).hw.trl.classNext[1] = some 0xFF ∧
      ((after (.engRegisterWrite 0 0 0x80180344 0x20001000) s).hw.quad 1).obs.base = 0x20001000 := by decide +kernel
theorem wit_DmaCountStatus :
    let h := (labOn fun h => { h with dma := updN h.dma 4 fun d => { d with errors := 2 ^ 32 - 1, bytes := 2 ^ 48 - 1 } }).hw
    h.spaceBytes lab.mem 0x80440510 4 = [6, 0, 0, 0] ∧ h.spaceBytes lab.mem 0x80440514 4 = [0, 0, 0, 0] := by decide +kernel

/-! ### DMA and Lookout (R364 to R372, R391 to R395) -/

/-- Channel 5 runs a list of one entry each: 48 bytes from 0x20001000 to 0x20002000. -/
def labDma (f : Dma → Dma) : State := { labOn (fun h => { h with dma := updN h.dma 5 fun d => f { d with
    state := 1, window := 5601, act := { src := 0x20000000, dst := 0x20000010, srcCount := 1, dstCount := 1, prio := 2 } } }) with
  mem := (lab.mem.write 0x20000000 (le 4 0x20001000 ++ le 4 96 ++ le 4 0 ++ le 4 0 ++ le 4 0x20002000 ++ le 4 96)).write 0x20001040 [7, 8, 9] }
/-- Channel 5 after a command. -/
def ch5 (s : State) : Dma := s.hw.ch 5
set_option maxRecDepth 100000 in
theorem wit_DmaTransfers :
    let s := labDma fun d => { d with srcEntry := 0 }
    let a := after (.dmaBurst 0) s
    let b := after (.dmaBurst 1) a
    let r := after (.dmaResponse 0 5) b
    let e := after (.dmaResponse 0 5) r
    s.hw.Settled ∧ s.mem.wf = true ∧ s.mem.bad = [] ∧ ((ch5 a).flight.map fun x => [x.src, x.dst, x.data.length]) = [[0x20001000, 0x20002000, 64]] ∧
      ((ch5 b).issued, ((ch5 b).flight.map (·.data.length))) = (true, [64, 32]) ∧ (ch5 r).bytes = 64 ∧
      e.mem.read 0x2000203F 5 = [0, 7, 8, 9, 0] ∧ ((ch5 e).state, (ch5 e).lists, (ch5 e).bytes, e.hw.out.events) = (0, 1, 96, [165]) := by decide +kernel
theorem wit_DmaTransfers_channels :
    let s := labDma id
    let idle := labDma fun d => { d with state := 0, sh := { src := 0x20000100, dst := 0, srcCount := 1, dstCount := 1, prio := 1 } }
    let late := labDma fun d => { d with window := 5600 }
    let w := after (.dmaWindowExpiry 0 5) late
    let bad := labDma fun d => { d with flight := [{ src := 0, dst := 0x20002000, data := [1], err := some (3, 0x20001000) }] }
    let x := after (.dmaResponse 0 5) bad
    let c := after (.dmaCommit 0 5) idle
    let i := after (.dmaIdleHandover 1 5) c
    let last := labDma fun d => { d with
      issued := true, srcEntry := 1, dstEntry := 1, commit := true, sh := { src := 0x20000100, dst := 0, srcCount := 1, dstCount := 1, prio := 1 }
      flight := [{ src := 0x20001000, dst := 0x20002000, data := [1], err := none }] }
    let n := after (.dmaResponse 0 5) (after (.dmaCommit 0 5) last)
    s.hw.Settled ∧ late.mem.bad = [] ∧ (ch5 c).commit = true ∧ (ch5 (after (.dmaIdleHandover 0 5) c)).state = 0 ∧
      ((ch5 n).state, (ch5 n).act.src, (ch5 n).commit, n.hw.out.events) = (1, 0x20000100, true, [165]) ∧ ((ch5 i).state, (ch5 i).act.src, (ch5 i).commit, (ch5 i).window) = (1, 0x20000100, false, 5601) ∧
      ((ch5 w).state, (ch5 w).cause, (ch5 w).errAddr, w.hw.out.events) = (2, 5, 0x20001000, [197]) ∧
      ((ch5 x).state, (ch5 x).cause, (ch5 x).errors, x.hw.out.events) = (2, 3, 1, [197]) ∧ (ch5 (after (.dmaRecover 0 5) x)).state = 0 ∧
      (ch5 (after (.dmaRecover 0 5) s)).state = 1 := by decide +kernel
theorem wit_LookoutPort :
    let s := labDma id
    let sdo := fun (i : Instr) => (after i s).hw.lko.sdo
    s.hw.Settled ∧ s.mem.bad = [] ∧ sdo (.lookoutRead 0 0x20001040 4) = [7, 8, 9, 0] ∧ sdo (.lookoutRead 0 0x20001041 2) = [0, 0] ∧
      (after (.lookoutRead 0 0x50000000 1) s).hw.lko.badAddr = true ∧ sdo (.lookoutRead 0 0x8050000C 4) = [0, 0, 0, 0] ∧
      sdo (.lookoutStatus 0 2) = [5, 5] ∧ (after (.lookoutUnknownOpcode 0 7) s).hw.lko.spiRefused = 1 := by decide +kernel

/-! ### The trip and calibration (R228, R235 to R247) -/

theorem wit_ThermalTrip :
    let s := labFem id
    let t := after (.thermalTrip 0 4 1250) s
    s.hw.Settled ∧ s.hw.trl.trip = false ∧ (t.hw.trl.trip, t.hw.trl.trips, t.hw.trl.tripTick, (t.hw.path 63).paen) = (true, 1, 5601, false) ∧
      t.hw.newest 0x0901 4 ∧ (after (.thermalTrip 0 5 1250) t).hw.trl.trips = 1 := by decide +kernel
/-- A run has started; quanta of every kind are granted. -/
def labCal (target : Nat) (f : Cal → Cal) (p : Path → Path) : State := labOn fun h => { h with
  cal := f { h.cal with run := some { tag := 5, target := target, policy := 0, tick := 280, started := true }, state := 1 }
  trl := { h.trl with grants := [⟨5601, 2, 0⟩, ⟨5601, 2, 1⟩, ⟨5601, 2, 2⟩] }
  paths := vmapi h.paths fun _ x => p x
  tim := { h.tim with k := 5601 } }
/-- What the quanta bring depends on the filters, which no proof can see; that no observed power counts in a trip does not. -/
theorem wit_CalCollection_rx :
    let s := labCal 0 (fun c => { c with state := 2 }) fun p => { p with calRx := { p.calRx with inRun := true } }
    s.hw.Settled ∧ s.hw.tim.open_ = true ∧ (s.hw.cal.run.map fun r => (r.started, r.rxDone)) = some (true, false) ∧
      (s.hw.path 3).calRx.samples + 2048 < s.hw.image.calLimits.minSamples ∧ ({ window := 5601, cls := 2, unit := 0 } : Grant) ∈ s.hw.trl.grants := by
  decide +kernel
/-- Quad 1 observes path 4 for a transmit run, in an all-downlink window. -/
def labCalTx (trip : Bool) : State :=
  let s := labCal 1 (fun c => { c with state := 2 }) fun p => { p with calTx := { p.calTx with inRun := true }, txOn := true }
  { s with hw := { s.hw with
      tim := { s.hw.tim with k := 5600 }, trl := { s.hw.trl with grants := [⟨5600, 2, 1⟩], trip := trip }
      quads := updN s.hw.quads 1 fun x => { x with calSel := 4, calCur := 0 } } }
theorem wit_CalCollection_tx :
    let s := labCalTx true
    let t := after (.calCollectQuantumDone 0 (.tx [(1, [])])) s
    s.hw.Settled ∧ (labCalTx false).hw.Settled ∧ (∀ u : QuadId, (s.hw.quad u).calSel = 4 ↔ u = 1) ∧ (s.hw.path 5).calTx.inRun = true ∧
      ((t.hw.path 4).calTx.lowEnergy, (t.hw.path 4).calTx.samples, (t.hw.path 5).calTx.lowEnergy) = (true, 0, false) ∧
      ((t.hw.quad 1).calSel, (t.hw.quad 1).calCur, (t.hw.quad 1).busQueue, t.hw.trl.grants) = (1, 1, [(1, 5)], []) := by decide +kernel
/-- The limit of collection has passed for a run of the four paths of quad 0. -/
def labLim (target : Nat) (p : Path → Path) : State :=
  let s := labCal target (fun c => { c with state := 2 }) id
  { s with hw := { s.hw with
      paths := vmapi s.hw.paths (fun n x => if n < 4 then p x else x), tim := { s.hw.tim with k := 280280, c := gridC 1 280280, tickC := gridC 1 280280 } } }
set_option maxRecDepth 100000 in
theorem wit_CalOutcome_limit :
    let tx := labLim 1 fun p => { p with calTx := { p.calTx with inRun := true, samples := 10, lowEnergy := true } }
    let rx := labLim 0 fun p => { p with calRx := { p.calRx with inRun := true, samples := 10 } }
    let a := after (.calCollectLimit true) tx
    let b := after (.calCollectLimit false) rx
    tx.hw.Settled ∧ rx.hw.Settled ∧ rx.hw.geometryFails = [] ∧ (a.hw.cal.run, a.hw.cal.cause) = (none, 6) ∧ a.hw.newest 0x0805 262 ∧
      (b.hw.cal.cause, (b.hw.path 0).calRx.fail.testBit 3) = (4, true) ∧ b.hw.newest 0x0805 4 := by decide +kernel
/-- The spread of those four paths with nothing collected, and an image that allows just as much. -/
def spreadOf : Nat := ({} : CalSums).spread [0, 1, 2, 3]
/-- A run whose receive side passes every check at the limit of collection. -/
def labPass : State :=
  let s := labLim 0 fun p => { p with calRx := { p.calRx with inRun := true, samples := 4096 } }
  { s with hw := { s.hw with img := { s.hw.img with
      loaded := some { testImage with calLimits := { testImage.calLimits with spreadMax := spreadOf } } } } }
theorem wit_CalOutcome_pass :
    labPass.hw.Settled ∧ labPass.hw.geometryFails = [] ∧ (labPass.hw.path 3).calRx.quanta = 0 ∧ (∀ q : QuadId, (labPass.hw.quad q).calTemp = none) ∧
      labPass.hw.polPaths 0 = [0, 1, 2, 3] ∧ labPass.hw.polPaths 1 = [] ∧ labPass.hw.cal.sums = {} ∧ ({} : CalSums).spread [] = 0 := by
  decide +kernel
theorem wit_CalOutcome_pass_spread : ({} : CalSums).spread [0, 1, 2, 3] ≤ labPass.hw.image.calLimits.spreadMax := Nat.le_refl _
/-- What the solve of path 3 alone, with nothing collected, subtracts from its delay and its thresholds. -/
def lateSteps : Int := Solve.steps []
/-- The last quantum of that solve, for a trim. -/
def labSolve (t : Trim) : State :=
  labCal 0 (fun c => { c with state := 3, run := c.run.map fun r => { r with rxDone := true, solved := 239 } }) id |>.on fun h =>
    h.onPath 3 fun p => { p with rxTrim := t, calRx := { p.calRx with inRun := true } }
/-- A trim that the solve brings to zero. -/
def trimIn : Trim := { int := lateSteps / 64 - 8, tap := (lateSteps % 64).toNat, thresh := (List.range 32).map fun i => croundQ (Config.offset [] i) }
/-- A trim that no solve brings into its field. -/
def trimOut : Trim := { int := lateSteps.natAbs + 1000 }
theorem wit_CalOutcome_solve : ∀ t ∈ [trimIn, trimOut],
    (labSolve t).hw.Settled ∧ (labSolve t).hw.tim.open_ = true ∧ (labSolve t).hw.cal.state = 3 ∧ (labSolve t).hw.pcal false = [3] ∧
      (labSolve t).hw.scs = 1 ∧ ({ window := 5601, cls := 2, unit := 2 } : Grant) ∈ (labSolve t).hw.trl.grants := by decide +kernel
theorem wit_CalOutcome_found (t : Trim) : ((labSolve t).hw.solveRxOf [3]).map (fun p => (p.path, p.v, p.thresh)) =
    [(3, (t.int + 8) * 64 + t.tap - lateSteps, (List.range 32).map fun i => t.th i - croundQ (Config.offset [] i))] := by rfl
theorem wit_CalOutcome_sound : (trimIn.int + 8) * 64 + trimIn.tap - lateSteps = 0 ∧ 1023 < (trimOut.int + 8) * 64 + trimOut.tap - lateSteps := by
  simp only [trimIn, trimOut]
  omega
theorem wit_CalRecordWrite :
    let s := fun (op : Nat) => labOn fun h => { h with img := { h.img with
      calWriteBusy := true, writes := [le 4 0x524C4143 ++ List.replicate 20 0 ++ [3, 0, 0, 0]], writeOp := op, writeAt := 0 }, sta := { h.sta with since := 1966080000 } }
    (s 2).hw.Settled ∧ (after (.nvmOpDone 0 []) (s 2)).hw.img.writeOp = 3 ∧ (after (.nvmWriteFail 0) (s 1)).hw.newest 0x0802 1 ∧
      (after (.nvmWriteFail 0) (s 2)).hw.newest 0x0802 2 ∧ (after (.nvmOpDone 0 []) (s 20)).hw.newest 0x0802 3 ∧
      (after (.nvmOpDone 0 []) (s 20)).hw.img.calWriteBusy = false := by decide +kernel
set_option maxRecDepth 1000000 in
theorem wit_CalRecordWrite_stored :
    let s := labOn fun h => { h with img := { h.img with calWriteBusy := true, writes := [List.replicate 24 0 ++ [3, 0, 0, 0]], writeOp := 20 } }
    let t := after (.nvmOpDone 0 zeroRecord) s
    s.hw.Settled ∧ (t.hw.img.calState, t.hw.cal.stores) = (0, 1) ∧ t.hw.newest 0x0806 3 := by decide +kernel

/-! ### Messages and commands (R29, R66, R182 to R231) -/

/-- `labOn` with the control channel's sequence synchronised, 5 expected, 3 used. -/
def labSeq : State := labOn fun h => { h with fhl := { h.fhl with seqs := updN h.fhl.seqs 128 fun q => { q with synced := true, next := 5, seen := [3] } } }
theorem wit_lab_settled : lab.hw.Settled ∧ lab.mem.wf = true ∧ lab.mem.bad = [] := by decide +kernel
/-- What the reason counters show after a command. -/
def refusedAs (reason : Nat) (i : Instr) (s : State) : Bool :=
  (after i s).hw.fhl.refused.toList == (List.range 13).map fun r => if r = reason then 1 else 0
theorem wit_MessageChecks_before_slot7 :
    let s := labOn fun h => { h with sta := { h.sta with stage := 6, k7 := none }, pins := { h.pins with stat := 5 } }
    s.hw.Settled ∧ 5 ≤ s.hw.sta.stage ∧ (s.hw.port 0).linkUp = true ∧ s.hw.sta.k7 = none ∧ refusedAs 10 (.modeSelect 0 (msgOf 0x20 8 5880) 0 1) s := by
  decide +kernel
theorem wit_MessageChecks_header :
    let m := { msgOf 0x20 8 5880 with revision := 2 }
    lab.hw.sta.k7.isSome = true ∧ m.revision ≠ 1 ∧ refusedAs 8 (.modeSelect 0 m 0 1) lab ∧
      (after (.modeSelect 0 m 0 1) lab).hw.fhl.seqs = lab.hw.fhl.seqs := by decide +kernel
theorem wit_MessageChecks_duplicate :
    let m := { msgOf 0x20 8 5880 with seq := 3 }
    labSeq.hw.Settled ∧ labSeq.hw.fromHead m = false ∧ (getN labSeq.hw.fhl.seqs 128 {}).synced = true ∧ 128 ≤ (3 + 256 - 5) % 256 ∧
      refusedAs 7 (.modeSelect 0 m 0 1) labSeq := by decide +kernel
theorem wit_MessageChecks_reordered :
    let m := { msgOf 0x20 8 5880 with seq := 4, records := 2 }
    m.seqE = 0x80 ∧ 128 ≤ (4 + 256 - 5) % 256 ∧ refusedAs 8 (.modeSelect 0 m 0 1) labSeq ∧
      (getN (after (.modeSelect 0 m 0 1) labSeq).hw.fhl.seqs 128 {}).reorder = 1 := by decide +kernel
theorem wit_MessageChecks_gap :
    let m := { msgOf 0x20 8 5880 with seq := 9, records := 2 }
    let q := getN (after (.modeSelect 0 m 0 1) labSeq).hw.fhl.seqs 128 {}
    (9 + 256 - 5) % 256 < 128 ∧ refusedAs 8 (.modeSelect 0 m 0 1) labSeq ∧ q.gap = 4 ∧ q.next = 10 ∧ q.seen = [9, 3] := by decide +kernel
theorem wit_ModeSelect_accepted :
    let m := msgOf 0x20 8 5880
    lab.hw.stands m none 0x20 8 0 ∧ lab.hw.msgTick m = 5880 ∧ 5880 % lab.hw.perFrame = 0 ∧ lab.hw.earlyMax = 1000000 ∧
      lab.hw.fhl.control.length < 2048 ∧ (after (.modeSelect 0 m 0 1) lab).hw.mode.selects = [{ tick := 5880, slot := 1, void := false }] ∧
      (after (.modeSelect 0 m 0 1) lab).hw.fhl.control = [5880] := by dsimp only [Hw.stands]; decide +kernel
theorem wit_ModeSelect_refused :
    refusedAs 10 (.modeSelect 0 (msgOf 0x20 8 5880) 0 1) (labOn fun h => { h with sta := { h.sta with k7 := some 6160 } }) ∧
    refusedAs 1 (.modeSelect 0 (msgOf 0x20 8 5610) 0 1) lab ∧ refusedAs 2 (.modeSelect 0 (msgOf 0x20 8 62000) 0 1) lab ∧
    refusedAs 10 (.modeSelect 0 (msgOf 0x20 8 5880) 0 1) (labOn fun h => { h with sta := { h.sta with stage := 7 }, pins := { h.pins with stat := 6 } }) ∧
    refusedAs 8 (.modeSelect 0 (msgOf 0x20 8 5880) 0 9) lab ∧ refusedAs 12 (.modeSelect 0 (msgOf 0x20 8 5880) 0 5) lab ∧
    refusedAs 8 (.modeSelect 0 (msgOf 0x20 8 5881) 0 1) lab ∧
    refusedAs 8 (.modeSelect 0 (msgOf 0x20 8 5880) 0 1) (labOn fun h => { h with mode := { h.mode with selects := [⟨5880, 7, false⟩] } }) ∧
    refusedAs 4 (.modeSelect 0 (msgOf 0x20 8 5880) 0 1) (labOn fun h => { h with fhl := { h.fhl with control := List.replicate 2048 0 } }) := by
  decide +kernel
/-- A run with tag 77 waits for its tick. -/
def labRun : State := labOn fun h => { h with cal := { h.cal with run := some { tag := 77, target := 0, policy := 0, tick := 5880 } } }
theorem wit_Commands_calibrate :
    let m := msgOf 0x21 12 5700
    lab.hw.stands m none 0x21 12 0 ∧ (lab.hw.recAt 5700).map (·.kind) = some 0 ∧
      ((after (.calibrate 0 m 0 2 1 77) lab).hw.cal.run.map fun r => (r.tag, r.target, r.policy, r.tick)) = some (77, 2, 1, 5700) ∧
      (after (.calibrate 0 m 0 2 1 77) lab).hw.cal.runs = 1 ∧ refusedAs 4 (.calibrate 0 m 0 2 1 77) labRun := by dsimp only [Hw.stands]; decide +kernel
theorem wit_Commands_calAbort :
    let m := msgOf 0x22 8 5700
    labRun.hw.stands m none 0x22 8 0 ∧ labRun.hw.Settled ∧ ((after (.calAbort 0 m 0 77) labRun).hw.cal.run.bind (·.abortAt)) = some 5602 ∧
      refusedAs 8 (.calAbort 0 m 0 78) labRun ∧ refusedAs 8 (.calAbort 0 m 0 77) lab := by dsimp only [Hw.stands]; decide +kernel
/-- Set-up 1 is armed. -/
def labArmed : State := labOn fun h => { h with cap := { h.cap with setups := updN h.cap.setups 1 fun x => { x with armed := true } } }
theorem wit_Commands_captureArm :
    let m := msgOf 0x23 8 5700
    lab.hw.stands m none 0x23 8 0 ∧ lab.hw.armedAt 1 5700 = false ∧ (∀ i : Fin 32, lab.hw.armedAt i 5700 = false) ∧
      (after (.captureArm 0 m 0 1) lab).hw.cap.orders = [(5700, 1, true)] ∧ refusedAs 4 (.captureArm 0 m 0 2) labArmed := by
  dsimp only [Hw.stands]; decide +kernel
theorem wit_Commands_captureDisarm :
    let m := msgOf 0x24 8 5700
    labArmed.hw.Settled ∧ labArmed.hw.stands m none 0x24 8 0 ∧ labArmed.hw.armedAt 1 5700 = true ∧
      (after (.captureDisarm 0 m 0 1) labArmed).hw.cap.orders = [(5700, 1, false)] ∧ refusedAs 8 (.captureDisarm 0 m 0 1) lab := by
  dsimp only [Hw.stands]; decide +kernel
theorem wit_Commands_pathRetire :
    let m := msgOf 0x25 8 5700
    lab.hw.stands m none 0x25 8 0 ∧ ((after (.pathRetire 0 m 0 63) lab).hw.path 63).retireAt = [(5700, 6)] ∧
      refusedAs 8 (.pathRetire 0 m 0 64) lab := by dsimp only [Hw.stands]; decide +kernel
theorem wit_Commands_pathRestore :
    let m := msgOf 0x26 8 5700
    lab.hw.stands m none 0x26 8 0 ∧ ((after (.pathRestore 0 m 0 63) lab).hw.path 63).restoreAt = [5700] := by dsimp only [Hw.stands]; decide +kernel
theorem wit_Commands_budgetShare :
    let s := labOn fun h => { h with
      sys := { h.sys with pkgPos := 1 }
      img := { h.img with loaded := some { testImage with flows := [(0, [flowOf 0 0 0x10, { flowOf 4 0 0x14 with pkgPos := 1, srcMac := 7 }])] } } }
    let m := { msgOf 0x27 12 0 with src := 0x020000000002 }
    s.hw.Settled ∧ s.hw.stands m none 0x27 12 0 ∧ s.hw.macOf 0 = some m.src ∧
      (after (.budgetShare 0 m 0 [1, 222, 3, 4]) s).hw.trl.shareNext = some 222 ∧ (after (.budgetShare 0 m 0 [1, 222, 3, 4]) s).hw.fhl.control = [5880] ∧
      refusedAs 10 (.budgetShare 0 m 0 [1, 222, 3, 4]) lab := by dsimp only [Hw.stands]; decide +kernel

/-! ### Other messages and frames (R72, R180, R208 to R210) -/

/-- A remote memory access on port A. -/
def rmaOf (rw a n : Nat) : Rma := { port := 0, src := 5, vlan := none, id := 9, rw := rw, element := 0, address := a, length := n }
/-- Memory with the bytes 0x11 to 0x18 at 0x2000_0100. -/
def labMem : State := { lab with mem := lab.mem.write 0x20000100 [0x11, 0x12, 0x13, 0x14, 0x15, 0x16, 0x17, 0x18] }
theorem wit_OtherMessages_rmaRead :
    labMem.hw.Settled ∧ labMem.mem.bad = [] ∧ (labMem.hw.port 0).linkUp = true ∧
      (after (.rmaRead 0 (rmaOf 0 0x20000104 4)) labMem).hw.out.tx = [.rma 0 5 9 1 0 0x20000104 [0x15, 0x16, 0x17, 0x18]] ∧
      (after (.rmaRead 0 (rmaOf 0 0x20000105 4)) labMem).hw.out.tx = [.rma 0 5 9 2 0 0x20000105 []] := by decide +kernel
theorem wit_OtherMessages_rmaWrite :
    refusedAs 11 (.rmaWrite 0 (rmaOf 0x10 0x20000104 4)) lab ∧ (after (.rmaWrite 0 (rmaOf 0x10 0x20000104 4)) lab).hw.out.tx = [.rma 0 5 9 2 0 0x20000104 []] ∧
      refusedAs 11 (.rmaWrite 0 (rmaOf 0x20 0x20000104 4)) lab ∧ (after (.rmaWrite 0 (rmaOf 0x20 0x20000104 4)) lab).hw.out.tx = [] := by decide +kernel
theorem wit_OtherMessages_owd :
    (after (.owdRequest 0 0 0 5 9 1) lab).hw.out.tx = [.owd 0 5 9 (todUnits (gridC 1 5601)) (14242 * 65536 / 100)] ∧
      (after (.owdFollowUp 0 0 5) lab).hw.out.tx = [] ∧ (after (.owdRemoteRequest 0 0 5) lab).hw.fhl.unsupported = 1 ∧
      (after (.eventIndicationRx 0 0) lab).hw.fhl.unsupported = 1 ∧ refusedAs 8 (.unsupportedMessageType 0 { msgOf 0 0 0 with msgType := 3 }) lab := by
  decide +kernel
theorem wit_Resets_remoteReset :
    lab.hw.ownMac = some 0x020000000002 ∧ (after (.remoteReset 0 0 0x020000000002 5 none 9 1) lab).hw.sta.stage = 1 ∧
      (after (.remoteReset 0 0 0x020000000002 5 none 9 1) lab).hw.out.tx = [.resetResp 0 5 9] ∧ refusedAs 8 (.remoteReset 0 0 0x020000000002 5 none 9 2) lab ∧
      (after (.remoteReset 0 0 0x020000000002 5 none 9 1) (labOn fun h => { h with img := { h.img with calWriteBusy := true } })).hw.sta.resetWait = true := by
  decide +kernel
/-- A frame from its destination, its EtherType with any tags, and its body, the frame check sequence right. -/
def frameOf (dst : Nat) (type body : Bytes) : RxFrame :=
  let b := wide 6 dst ++ wide 6 0x020000000001 ++ type ++ body
  { octets := b ++ le 4 (crc32 b), errorBlock := false, fifoParity := 0 }
/-- A frame of so many octets, its body zero. -/
def blank (dst type len : Nat) : RxFrame := frameOf dst (wide 2 type) (List.replicate (len - 18) 0)
/-- The same machine with no flow on port B: forwarding is on. -/
def labFwd : State := labOn fun h => { h with img := { h.img with loaded := some { testImage with flows := [(0, [flowOf 0 0 0x10])] } } }
/-- The package's own address. -/
def ownMac : Nat := 0x020000000002
theorem wit_FrameReceived_own :
    let f := blank ownMac 0xAEFE 64
    let to0 := fun (f : RxFrame) => (after (.frameRx 0 0 f) lab).hw.fhl
    lab.hw.fwdOn = false ∧ lab.hw.ownMac = some ownMac ∧ (to0 (blank ownMac 0xAEFE 63)).undersize = #v[1, 0] ∧
      ((to0 f).rxFrames, (to0 f).fcsBad) = (#v[1, 0], #v[0, 0]) ∧ (to0 { f with errorBlock := true }).fcsBad = #v[1, 0] ∧
      (to0 { f with octets := f.octets.set 20 1 }).fcsBad = #v[1, 0] ∧
      (to0 (frameOf ownMac (wide 8 0x8100000181000002 ++ wide 2 0xAEFE) (List.replicate 40 0))).otherDropped = #v[1, 0] ∧
      (to0 (blank ownMac 0x0800 64)).otherDropped = #v[1, 0] := by decide +kernel
set_option maxRecDepth 100000 in
/-- A common header of revision 0 in front of no record, and a sound one in front of a WEIGHT_LOAD on message type 0. -/
theorem wit_FrameReceived_refused :
    let head := [0x10, 0] ++ wide 2 276 ++ wide 2 0x10 ++ [0, 0x80, 0, 0, 0, 1] ++ le 4 5610 ++ le 1 0x11 ++ le 1 0 ++ le 2 264
    refusedAs 8 (.frameRx 0 0 (blank ownMac 0xAEFE 64)) lab ∧ refusedAs 8 (.frameRx 0 0 (frameOf ownMac (wide 2 0xAEFE) (padTo 280 head))) lab ∧
      refusedAs 10 (.frameRx 0 0 (blank ownMac 0xAEFE 64)) (labOn fun h => { h with sta := { h.sta with stage := 6, k7 := none } }) ∧
      (after (.frameRx 0 0 (blank 0x020000000009 0xAEFE 64)) lab).hw.fhl.refused = Vector.replicate 13 0 := by decide +kernel
/-- PTP: a bad frame check sequence, a Pdelay_Req, and signalling through an active transparent clock. -/
theorem wit_FrameReceived_ptp :
    let f := frameOf 0x011B19000000 (wide 2 0x88F7) ([2, 2] ++ List.replicate 44 0)
    let g := frameOf 0x011B19000000 (wide 2 0x88F7) ([0xC, 2] ++ List.replicate 44 0)
    (after (.frameRx 0 0 { f with errorBlock := true }) lab).hw.fhl.fcsBad = #v[1, 0] ∧
      (after (.frameRx 0 0 f) lab).hw.tim.ptpIgnored = #v[1, 0] ∧ (after (.frameRx 0 0 f) labFwd).hw.out.tx = [] ∧
      (after (.frameRx 0 0 g) labFwd).hw.out.tx = [.forward 1 g.octets] ∧ labFwd.hw.tcActive = true := by decide +kernel
theorem wit_FrameReceived_forwarded :
    let f := blank ownMac 0xAEFE 64
    let g := blank 8 0xAEFE 64
    let a := after (.frameRx 0 1 f) labFwd
    labFwd.hw.Settled ∧ labFwd.hw.fwdOn = true ∧ labFwd.hw.ownMac = some ownMac ∧
      (a.hw.out.tx, a.hw.out.portA.fwd) = ([.forward 0 f.octets], [.forward 0 f.octets]) ∧
      (after (.frameRx 0 0 g) labFwd).hw.out.tx = [.forward 1 g.octets] ∧
      (after (.frameRx 0 0 (blank 0x010000000008 0xAEFE 64)) labFwd).hw.fhl.otherDropped = #v[1, 0] ∧
      (after (.frameRx 0 0 g)
        { labFwd with hw := { labFwd.hw with ports := updN labFwd.hw.ports 1 fun p => { p with linkUp := false } } }).hw.fhl.fwdDrop = 1 := by
  decide +kernel
/-- A frame that ends at a cut link, and one with parity errors in the receive FIFO. -/
theorem wit_FrameReceived_cut :
    let s := labOn fun h => { h with ports := updN h.ports 0 fun p => { p with linkUp := false, errored := true } }
    let t := after (.frameRx 0 0 (blank ownMac 0xAEFE 64)) s
    let u := after (.frameRx 0 0 { blank ownMac 0xAEFE 64 with fifoParity := 2 }) lab
    (t.hw.fhl.fcsBad, (t.hw.port 0).errored) = (#v[1, 0], false) ∧ (u.hw.fifoParity, u.hw.fifoSeen, u.hw.fhl.fcsBad) = (2, true, #v[1, 0]) := by
  decide +kernel

/-! ### Sections, weights, searches (R93, R116 to R139, R166 to R178) -/

/-- A section of `n` PRBs or blocks from 10 on, its payload zero. -/
def secOf (n size beam : Nat) : SectionRec := { start := 10, count := n, beam := beam, payload := List.replicate size 0 }
/-- A downlink message of one section with 9-bit mantissas, 2 PRBs. -/
def dlMsg (k : Nat) : MsgHdr := flowMsg 0 0 0x10 0x10 (12 + 55) 2 k
theorem wit_DownlinkSections_admitted :
    let i := Instr.dlSection 0 (dlMsg 5614) 0 (secOf 2 55 3)
    let sl := slotOf 0 0
    lab.hw.stands (dlMsg 5614) (some (flowOf 0 0 0x10)) 0x10 (12 + 55) 2 ∧ lab.hw.recAt 5614 = some sl ∧ lab.hw.tddCode sl 0 5614 = 2 ∧
      lab.hw.sectionForbidden sl (flowOf 0 0 0x10) true 5614 = true ∧ refusedAs 10 i lab := by dsimp only [Hw.stands]; decide +kernel
theorem wit_DownlinkSections_taken :
    let i := Instr.dlSection 0 (dlMsg 5628) 0 (secOf 2 55 3)
    let sl := slotOf 0 0
    let f := flowOf 0 0 0x10
    let d := (after i lab).hw.fhl.dl
    lab.hw.stands (dlMsg 5628) (some f) 0x10 (12 + 55) 2 ∧ lab.hw.recAt 5628 = some sl ∧ lab.hw.sectionForbidden sl f true 5628 = false ∧
      lab.hw.beamBad 3 5628 = 0 ∧ 12 ≤ sl.prbs 0 ∧ expOk 9 (List.replicate 55 0) 2 = true ∧
      lab.hw.budgetFails [(5628, lab.hw.sectionCharge sl f true 5628 2)] = none ∧
      d.map (fun d => [d.flow, d.target, d.start, d.count, d.beam, d.bytes, d.order]) = [[0, 5628, 10, 2, 3, 55, 0]] := by
  dsimp only [Hw.stands]; decide +kernel
/-- The machine after that section. -/
def labDl : State := after (.dlSection 0 (dlMsg 5628) 0 (secOf 2 55 3)) lab
theorem wit_DownlinkSections_refused :
    labDl.hw.Settled ∧ refusedAs 8 (.dlSection 0 { dlMsg 5628 with seq := 1 } 0 (secOf 2 55 3)) labDl ∧
      refusedAs 1 (.dlSection 0 (dlMsg 5603) 0 (secOf 2 55 3)) lab ∧ refusedAs 2 (.dlSection 0 (dlMsg 5656) 0 (secOf 2 55 3)) lab ∧
      refusedAs 4 (.dlSection 0 (dlMsg 5628) 0 (secOf 2 55 3))
        (labOn fun h => { h with fhl := { h.fhl with dl := [{ flow := 0, target := 5656, start := 0, count := 1, beam := 0, bytes := 6291456, spur := false }] } }) ∧
      refusedAs 3 (.dlSection 0 (dlMsg 5628) 0 (secOf 2 55 3)) (labOn fun h => { h with
        trl := { h.trl with ceilings := false }
        img := { h.img with loaded := some { testImage with costs := [(0, [⟨1, 4, 0, 10, 0, 0⟩])] } } }) := by decide +kernel
/-- The same machine in the Spur slot. -/
def labSpur : State := labOn fun h => { h with mode := { h.mode with slot := some 1 } }
/-- A Spur message of one block. -/
def spurMsg (k : Nat) : MsgHdr := flowMsg 0 0 0x10 0x10 (12 + 256) 1 k
theorem wit_DownlinkSections_spur :
    let i := Instr.spurSectionHeaders 0 (spurMsg 5628) (secOf 1 256 3) 300
    let f := flowOf 0 0 0x10
    labSpur.hw.Settled ∧ (slotOf 1 2).isSpur = true ∧ labSpur.hw.stands (spurMsg 5628) (some f) 0x10 (12 + 256) 1 ∧
      labSpur.hw.recAt 5628 = some (slotOf 1 2) ∧ labSpur.hw.sectionForbidden (slotOf 1 2) f true 5628 = false ∧ 11 ≤ labSpur.hw.blocksAt 5628 ∧
      ((after i labSpur).hw.fhl.dl.map fun d => (d.spur, d.bytes, d.left)) = [(true, 256, 0)] ∧
      (after i labSpur).hw.trl.tdCharged = [(5628, 1, 0)] := by dsimp only [Hw.stands]; decide +kernel
/-- The machine after that section. -/
def labTd : State := after (.spurSectionHeaders 0 (spurMsg 5628) (secOf 1 256 3) 300) labSpur
theorem wit_SectionsWorkedOff_spur :
    let a := after (.spurFcsBad 0 0 7 5628) labTd
    let b := after (.spurTrunc 0 0 7 5628 100) labTd
    labTd.hw.Settled ∧ a.hw.fhl.spurFcsBad = 1 ∧ a.hw.newest 0x0403 7 ∧ (a.hw.fhl.dl.map (·.truncAt)) = [none] ∧
      b.hw.fhl.spurTrunc = 1 ∧ b.hw.newest 0x0403 7 ∧ (b.hw.fhl.dl.map (·.truncAt)) = [some 100] := by decide +kernel
/-- That section, so many cc before its tick. -/
def labDue (cc : Nat) : State := labDl.on fun h => { h with tim := { h.tim with k := 5627, c := gridC 1 5628 - cc, tickC := gridC 1 5627 } }
/-- Its state after a command. -/
def dueOf (i : Instr) (cc : Nat) : List (Bool × Nat × Nat × Bool) :=
  (after i (labDue cc)).hw.fhl.dl.map fun d => (d.weighted, d.left, d.bytes, d.ws.isSome)
/-- 4 µs are 3,932.16 cc. -/
theorem wit_SectionsWorkedOff_weighting :
    (labDue 3933).hw.Settled ∧ (labDue 3933).hw.tim.open_ = true ∧ labDl.mem.bad = [] ∧ dueOf (.sectionWeighted 0 0 5628 10) 3933 = [(true, 0, 55, true)] ∧
      dueOf (.sectionWeighted 0 0 5628 11) 3933 = [(false, 300000, 55, false)] ∧ dueOf (.sectionWeighted 0 0 5628 10) 3932 = [(false, 300000, 55, false)] ∧
      dueOf (.weightingDeadline 0 5628) 3933 = [(false, 300000, 55, false)] ∧ dueOf (.weightingDeadline 0 5628) 3932 = [(true, 0, 0, true)] := by
  decide +kernel
/-- A section behind another in the order of tick and admission waits for it. -/
theorem wit_SectionsWorkedOff_order :
    let s := labDl.on fun h => { h with
      fhl := { h.fhl with dl := h.fhl.dl ++ (h.fhl.dl.map fun d => { d with start := 20, order := 1 }) }
      tim := { h.tim with k := 5626, c := gridC 1 5626, tickC := gridC 1 5626 } }
    let weighted := fun (start : Nat) => (after (.sectionWeighted 0 0 5628 start) s).hw.fhl.dl.map (·.weighted)
    (weighted 10, weighted 20) = ([true, false], [false, false]) := by decide +kernel
/-- An uplink request for 2 PRBs. -/
def ulMsg (k : Nat) : MsgHdr := flowMsg 2 1 0x11 0x10 12 2 k
theorem wit_UplinkSections_admitted :
    let i := Instr.ulSectionRequest 0 (ulMsg 5614) 0 (secOf 2 0 3)
    let sl := slotOf 0 0
    let f := flowOf 1 1 0x11
    lab.hw.stands (ulMsg 5614) (some f) 0x10 12 2 ∧ lab.hw.recAt 5614 = some sl ∧ lab.hw.sectionForbidden sl f false 5614 = false ∧
      lab.hw.egressFits sl 5614 5615 55 0xFFFF = true ∧ lab.hw.budgetFails [(5614, lab.hw.sectionCharge sl f false 5614 2)] = none ∧
      ((after i lab).hw.fhl.ul.map fun u => [u.flow, u.target, u.closing, u.start, u.count, u.beam, u.bytes]) = [[1, 5614, 5615, 10, 2, 3, 55]] ∧
      refusedAs 1 (.ulSectionRequest 0 (ulMsg 5601) 0 (secOf 2 0 3)) lab := by dsimp only [Hw.stands]; decide +kernel
/-- A request for one PRB at its symbol's end, taken over paths 0 and 1, with unit weight 0x4000 on path 0 and nothing on path 1. -/
def labUl : State :=
  let u : UlItem := { flow := 1, target := 5600, closing := 5601, start := 10, count := 1, beam := 3, bytes := 28, eaxc := 0x11, dst := 1
                      taken := some (0, [0, 1]), formed := some ([List.replicate 12 ⟨64, -16⟩], [0]), deadline := 100000
                      left := 150000, epoch := 0 }
  { labOn (fun h => { h with fhl := { h.fhl with ul := [u] } }) with mem := lab.mem.write (codebookAddr 3 0) [0x00, 0x40, 0, 0] }
theorem wit_UplinkSections_sent :
    let t := after (.ulSectionSend 0 1 5600 10) labUl
    labUl.hw.Settled ∧ labUl.mem.bad = [] ∧ labUl.hw.tickAt 5601 ≤ labUl.hw.tim.c ∧ t.hw.fhl.ul = [] ∧ (getN t.hw.fhl.seqs 1 {}).nextTx = 1 ∧
      t.hw.out.tx = [.ulSection 0 1 0xFFFF 0x11 0 1 0 1 5600 10 1 3 (compressAll 9 1 ((List.replicate 12 [4, -1]).flatten)).1] := by decide +kernel
/-- Compression of the PRB of the worked example under R200: EXP 4, its first bytes. -/
theorem test_compress_worked_example :
    ((compressAll 9 1 ([3000, -1208, 1000, 24, -2072, 40] ++ List.replicate 18 0)).1).take 5 = [0xC4, 0x8B, 0xB6, 0x0F, 0x01] := by decide +kernel
/-- Convergent rounding of R85's shape: an exact half goes to even. -/
theorem test_cround : cround 4004 8 = 500 ∧ cround 4012 8 = 502 ∧ cround (-4004) 8 = -500 ∧ cround 4006 8 = 501 := by decide
/-- A WEIGHT_LOAD on the control flow. -/
def loadMsg (k : Nat) : MsgHdr := flowMsg 2 2 0x12 0x11 264 0 k
theorem wit_WeightLoads_admitted :
    lab.hw.stands (loadMsg 5610) (some (flowOf 2 2 0x12)) 0x11 264 0 ∧ lab.hw.recAt 5610 = some (slotOf 0 0) ∧
      lab.hw.tim.c < lab.hw.tickAt 5608 ∧ lab.hw.dynInUse 1 = false ∧ lab.hw.budgetFails [(5610, lab.hw.charges 5610 3 1 [])] = none := by
  dsimp only [Hw.stands]; decide +kernel
theorem wit_WeightLoads_stored :
    let r : WeightRec := { beam := 4097, weight := List.replicate 64 0x12345678 }
    let t := after (.weightLoad 0 (loadMsg 5610) 0 r) lab
    t.hw.mas.tags = [(2, 5610)] ∧ t.mem.read (dynamicAddr 1 0 63) 4 = [0x78, 0x56, 0x34, 0x12] ∧ t.mem.read (dynamicAddr 1 1 63) 4 = [0, 0, 0, 0] := by
  decide +kernel
theorem wit_WeightLoads_refused :
    let r : WeightRec := { beam := 4097, weight := List.replicate 64 0 }
    let tagged := labOn fun h => { h with mas := { h.mas with tags := [(2, 5604), (3, 5606)] } }
    refusedAs 1 (.weightLoad 0 (loadMsg 5603) 0 r) lab ∧ refusedAs 12 (.weightLoad 0 (loadMsg 5610) 0 { r with beam := 4200 }) lab ∧
      refusedAs 8 (.weightLoad 0 (loadMsg 5606) 0 r) tagged ∧
      refusedAs 4 (.weightLoad 0 (loadMsg 5610) 0 r) { tagged with hw := { tagged.hw with fhl := { tagged.hw.fhl with
        ul := [{ flow := 1, target := 5605, closing := 5606, start := 0, count := 1, beam := 4097, bytes := 0, epoch := 0 }] } } } := by decide +kernel
theorem wit_WeightLoads_static :
    refusedAs 8 (.weightLoad 0 (loadMsg 5610) 0 { beam := 4095, weight := List.replicate 64 0 }) lab := by decide +kernel
/-- A search of 4 × 4 beams, one repetition, from tick 5614 on. -/
def searchOf : SearchRec := {
  occTag := 42, reportTick := 5680, maxDelay := 100, families := 1, startPrb := 0, beamsMin := 16, template := 0, carrier := 0, row0 := 0, rows := 4
  col0 := 0, cols := 4, cohReq := 1, cohMin := 1, noncohReq := 1, noncohMin := 1, freqHyp := 1 }
/-- Its message. -/
def searchMsg : MsgHdr := flowMsg 2 2 0x12 0x12 36 0 5614
theorem wit_SearchOccasions_admitted :
    let sl := slotOf 0 0
    let fs := testImage.families
    let t := after (.searchOccasion 0 searchMsg 0 searchOf) lab
    lab.hw.stands searchMsg (some (flowOf 2 2 0x12)) 0x12 36 0 ∧ lab.hw.recAt 5614 = some sl ∧ searchForm searchOf = true ∧
      (∀ tm ∈ testImage.templates, lab.hw.searchRelations sl tm searchOf 5614 5680 = true) ∧ 16 ≤ lab.hw.workFree 5614 (lab.hw.occClosing fs 5614 100 1 1) ∧
      (t.hw.crn.occasions.map fun o => [o.tag, o.target, o.beams, o.ext, o.coh, o.noncoh] ++ o.contexts) = [[42, 5614, 16, 0, 1, 1, 0]] ∧
      t.hw.crn.admitted = 1 ∧ t.hw.crn.cut = 0 := by dsimp only [Hw.stands]; decide +kernel
theorem wit_SearchOccasions_refused :
    refusedAs 10 (.searchOccasion 0 searchMsg 0 searchOf) labSpur ∧
      refusedAs 8 (.searchOccasion 0 searchMsg 0 { searchOf with rows := 3 }) lab ∧
      (after (.searchOccasion 0 searchMsg 0 { searchOf with rows := 3 }) lab).hw.crn.refused = 1 := by decide +kernel
/-- An occasion of two groups, with two extension blocks. -/
def occOf : Occasion := {
  tag := 42, flow := 2, target := 5590, closing := 5600, report := 5680, template := 0, families := [0], row0 := 0, rows := 4, col0 := 0, cols := 4
  beams := 16, ext := 128, coh := 1, noncoh := 2, freqHyp := 1, maxDelay := 100, gridRows := 8, gridCols := 8, bytes := 0, contexts := [0]
  blocks := [0, 1], evaluated := [1], groups := 1, active := true, dst := 1, eaxc := 0x12 }
/-- The machine with it. -/
def labOcc (o : Occasion) : State := labOn fun h => { h with crn := { h.crn with occasions := [o] } }
theorem wit_SearchOccasions_group :
    let t := after (.cairnGroupEnd 0 42 []) (labOcc occOf)
    let u := after (.cairnGroupEnd 0 42 []) (labOcc { occOf with target := 5601 })
    (labOcc occOf).hw.Settled ∧ (labOcc occOf).hw.groupEnded occOf = true ∧
      (t.hw.crn.occasions.map fun o => (o.groups, o.blocks, o.extPartial)) = [(2, [1], true)] ∧ t.hw.crn.extDropped = 1 ∧
      (u.hw.crn.occasions.map (·.groups)) = [1] := by decide +kernel
/-- Engine 0 runs, so that a window's pool holds 35,108 cc or more, and a unit of job 4 costs `cc` of it. -/
def labCost (cc : Nat) : State := (labTor id).on fun h => { h with
  img := { h.img with loaded := some { testImage with costs := [(0, [⟨4, 3, 0, 0, cc, 0⟩])] } } }
/-- 32 beams times repetitions over 26 windows are two units a window: of 20,000 cc each they do not fit, and C is lowered to 1. -/
theorem wit_SearchOccasions_depth :
    let r := { searchOf with cohReq := 2, reportTick := 5640 }
    let adm := fun (cc : Nat) =>
      let t := (after (.searchOccasion 0 searchMsg 0 r) (labCost cc)).hw.crn
      (t.occasions.map fun o => [o.beams, o.ext, o.coh, o.noncoh], t.cut)
    let held := lab.on fun h => { h with crn := { h.crn with occasions := [
      { occOf with target := 5610, closing := 5630, contexts := [0, 1, 2, 3], active := false }] } }
    adm 20000 = ([[16, 0, 1, 1]], 1) ∧ adm 10000 = ([[16, 0, 2, 1]], 0) ∧
      refusedAs 3 (.searchOccasion 0 searchMsg 0 { r with cohMin := 2 }) (labCost 20000) ∧
      refusedAs 4 (.searchOccasion 0 searchMsg 0 searchOf) held := by decide +kernel
theorem wit_SearchOccasions_words :
    let t := after (.cairnGroupEnd 0 42 [⟨0x20000008, 0, false, none⟩]) (labOcc occOf)
    let u := after (.cairnGroupEnd 0 42 [⟨0x20000008, 0, true, none⟩]) (labOcc occOf)
    (t.mem.err 0x4000001, u.mem.err 0x4000001, (getN t.hw.smem 32 {}).ue, (getN u.hw.smem 32 {}).corr, t.hw.crn.occasions.map (·.memUe)) =
      (some true, some false, 1, 1, [true]) := by decide +kernel
/-- Cells of one beam about a peak at lag 11, and noise of power 1. -/
def cellsOf : List Cell :=
  ([(10, 4), (11, 10), (12, 6)].map fun x => { fam := 0, beam := 0, hyp := 0, lag := x.1, p := x.2 : Cell }) ++
    ((List.range 8).map fun i => { fam := 0, beam := 0, hyp := 0, lag := 40 + 10 * i, p := 1 : Cell })
/-- R174 by hand: the parabola through 4, 10 and 6 has its top 0.1 bins above lag 11, and a bin is 1 / (256 × 15 kHz); the noise is 1 / ν_1, so the metric of 10 is
10 ln 2; the noise cells lie 1.6 dB below their mean. -/
theorem test_detection :
    ((labOcc occOf).hw.detections { occOf with cells := cellsOf, maxDelay := 1000 }).map (fun d => (d.row, d.col, d.signature, d.edge, d.delayPs, d.ratio)) =
      [(0, 0, 0, true, 2890625, (10 * 693147180560 : Rat) / 1000000000000)] := by decide +kernel
/-- Beam number 6 of a 4 × 4 sector from row 6 on: bit reversal gives 6, row 1 and column 2 of the sector (R171). -/
theorem test_beam : Cairn.beamOf { occOf with row0 := 6 } 6 = (7, 2) ∧ Cairn.beamOf { occOf with row0 := 6 } 1 = (0, 0) := by decide +kernel
theorem wit_SearchOccasions_report :
    let t := after (.cairnReportSend 0 42 []) (labOcc { occOf with failed := true, groups := 2 })
    (labOcc occOf).hw.Settled ∧ t.hw.crn.occasions = [] ∧ t.hw.crn.failed = 1 ∧ (t.hw.crn.extDropped, t.hw.crn.extDone) = (1, 1) ∧ t.hw.fhl.genSeq = [(2, 1)] ∧
      (t.hw.out.tx.map fun
        | .generic _ _ _ _ q b => [q, b.length, rd b 0 4, rd b 8 4, rd b 13 1, rd b 28 2]
        | _ => []) = [[0, 64, 42, 5600, 65, 0]] := by decide +kernel

/-! ### Capture (R375 to R385) -/

/-- Set-up 0 (unit 0 alone) is armed, its area open and ready since cc 983039000; path 0 receives, and its FEM's ALARM is high. -/
def labCap : State := labOn fun h => { h with
  paths := updN h.paths 0 fun p => { p with rxOn := true, fem := { p.fem with alarmPin := true } }
  cap := { h.cap with setups := updN h.cap.setups 0 fun x => { x with armed := true, areaOpen := true, readyAt := some 983039000 } } }
theorem wit_CaptureTriggers_unit :
    let t := after (.captureTrigger 0 0) labCap
    let u := after (.captureTrigger 10 0) (after (.captureTrigger 0 0) labCap)
    labCap.hw.Settled ∧ (capOf 0 1).sources.testBit 0 = true ∧ (labCap.hw.capVector 3, lab.hw.capVector 3) = (1, 0) ∧
      ((t.hw.capS 0).trig.map fun g => [g.cause, g.hits, g.validPre, g.at_]) = some [0, 1, 64, 983040000] ∧ t.hw.cap.unitHits = #v[1, 0] ∧
      (u.hw.capS 0).missedCnt = 1 ∧ u.hw.cap.unitHits = #v[2, 0] := by decide +kernel
/-- Set-up 1 (FIRE_IN and FIRE_OUT) is armed and ready; it stands for a set-up with unit 0 too. -/
def labFire : State := labOn fun h => { h with
  img := { h.img with loaded := some { testImage with caps := [capOf 1 0x29] } }
  paths := updN h.paths 0 fun p => { p with rxOn := true, fem := { p.fem with alarmPin := true } }
  cap := { h.cap with setups := updN h.cap.setups 1 fun x => { x with armed := true, areaOpen := true, readyAt := some 983039000 } } }
theorem wit_CaptureTriggers_fire :
    let t := after (.captureTrigger 0 0) labFire
    let u := after (.fireIoFall 6) t
    labFire.hw.Settled ∧ (capOf 1 0x29).sources.testBit 3 = true ∧ (capOf 1 0x29).sources.testBit 5 = true ∧ t.hw.pins.fireLow = true ∧
      t.hw.cap.fireUntil = some 983040262 ∧ (t.hw.capS 1).trig = none ∧ ((u.hw.capS 1).trig.map fun g => [g.cause, g.hits]) = some [2, 1] ∧
      (after (.firePullEnd 256) u).hw.pins.fireLow = false ∧ (after (.firePullEnd 255) u).hw.pins.fireLow = true := by decide +kernel
/-- Set-up 1 with other sources, in place of FIRE_IN and FIRE_OUT. -/
def labSrc (sources : Nat) : State := labFire.on fun h => { h with img := { h.img with loaded := some { testImage with caps := [capOf 1 sources] } } }
theorem wit_CaptureTriggers_fireOnly :
    let o := after (.captureTrigger 0 0) (labSrc 0x21)
    let i := after (.captureTrigger 0 0) (labSrc 0x09)
    let p := after (.captureTrigger 20 0) (after (.captureTrigger 0 0) labFire)
    o.hw.pins.fireLow = true ∧ ((o.hw.capS 1).trig.map fun g => [g.cause, g.hits]) = some [0, 1] ∧ i.hw.pins.fireLow = false ∧
      (i.hw.capS 1).trig = none ∧ (i.hw.cap.unitHits, i.hw.cap.fireUntil) = (#v[1, 0], none) ∧
      (p.hw.cap.fireFrom, p.hw.cap.fireUntil) = (983040006, some 983040282) := by decide +kernel
/-- Behind the array head, an ARRAY set-up is armed and ready. -/
def labArray : State := labOn fun h => { h with
  sys := { h.sys with pkgPos := 1 }, pins := { h.pins with armIo := true }
  img := { h.img with loaded := some { testImage with caps := [capOf 1 0x41] } }
  cap := { h.cap with setups := updN h.cap.setups 1 fun x => { x with armed := true, areaOpen := true, readyAt := some 5 } } }
theorem wit_CaptureTriggers_armIo :
    let t := after (.armIoChange 0 false) labArray
    labArray.hw.Settled ∧ (capOf 1 0x41).sources.testBit 6 = true ∧ (t.hw.capS 1).readyAt = none ∧ t.hw.pins.armIo = false ∧
      ((after (.armIoChange 7 true) t).hw.capS 1).readyAt = some 983040007 := by decide +kernel
/-- Set-up 0 with a record whose last sample and header are due: 63 samples of 6 thirds of a cc after the trigger, and 16 cc. -/
def labRec : State := { labOn (fun h => { h with cap := { h.cap with setups := updN h.cap.setups 0 fun x => { x with
  armed := true, areaOpen := true, readyAt := none
  trig := some { cause := 0, hits := 1, validPre := 64, missed := 2, tick := 5601, cc := 0, tod := 0, vector := 1, at_ := 983039858, per3 := 6 } } } })
  with mem := lab.mem.write 0x50000 [1] }
theorem wit_CaptureRecords_end :
    let t := after (.captureRecordEnd 0 0 []) labRec
    labRec.hw.Settled ∧ labRec.mem.wf = true ∧ labRec.mem.bad = [] ∧ capSize (capOf 0 1) = 8512 ∧ capSize (capOf 0 1) % 16 = 0 ∧
      983039858 + 63 * 6 / 3 + 16 ≤ labRec.hw.sta.since ∧ t.hw.out.events = [224] ∧
      ((t.hw.capS 0).offset, (t.hw.capS 0).recNo, (t.hw.capS 0).opening) = (8512, 1, some 983040000) ∧
      (t.hw.cap.recs.map fun r => (r.setup, r.offset, r.size, r.flanks)) = [(0, 0, 8512, [0])] ∧
      (after (.captureRecordEnd 0 0 []) { labRec with hw := { labRec.hw with sta := { labRec.hw.sta with since := 983039999 } } }).hw.cap.recs = [] := by
  decide +kernel
/-- The header of that record (Table 17.3). -/
theorem wit_CaptureRecords_header :
    let x := labRec.hw.capS 0
    (x.trig.map fun g => let b := capHeader labRec.hw 0 (capOf 0 1) x g 0 3
      [rd b 0 1, rd b 1 1, rd b 3 1, rd b 4 1, rd b 8 4, rd b 12 4, rd b 16 4, rd b 40 4, rd b 44 2, rd b 48 8, b.length]) =
        some [0, 0, 0, 1, 128, 64, 5601, 2, 3, 1, 64] := by decide +kernel
theorem wit_CaptureRecords_once :
    let s := { labRec with hw := { labRec.hw with img := { labRec.hw.img with loaded := some { testImage with caps := [capOf 0 0x81] } } } }
    s.hw.Settled ∧ ((after (.captureRecordEnd 0 0 []) s).hw.capS 0).armed = false := by decide +kernel
/-- What path 1's chain did not show reads as zero, and UNITS_ON names the paths whose chains ran throughout (R373, R376): path 0 ran from
the start, path 1 began 20 samples after the trigger. -/
theorem test_capture_units :
    let h := (labRec.on fun h => { h with paths := vmapi h.paths fun n p => { p with
      rxOn := n < 2, rxFrom := if n = 1 then h.tim.c - (h.up - 983039858) + 40 else 0 } }).hw
    let g : Trig := {
      cause := 0, hits := 1, validPre := 60, missed := 2, tick := 5601, cc := 0, tod := 0, vector := 1, at_ := 983039858, per3 := 6, rate := 9, n := 100 }
    let c := { capOf 0 1 with length := 72, pre := 64 }
    let l : List CapWin := [{ rate := 9, first := 100, len := 8, units := [(0, [(⟨1, 2⟩, true), (⟨3, 4⟩, false)])] }]
    let b := capAreas c g [0, 1] (capSample l g)
    capUnitsOn h (capOf 0 1) g 0 = 1 ∧ h.capRan c 1 (h.tim.c - (h.up - 983039858) + 39) = false ∧ h.capRan c 1 (h.tim.c - (h.up - 983039858) + 40) = true ∧
      b.length = 2 * 72 * 4 + 2 * 9 ∧ (b.drop 256).take 8 = [1, 0, 2, 0, 3, 0, 4, 0] ∧ (b.drop 584).take 1 = [1] ∧
      capSample l { g with rate := 8 } 0 100 = (⟨0, 0⟩, false) := by decide +kernel
/-- Set-up 0 opens an area at an offset where a byte is written; `recs` stand in the banks. -/
def labArea (recs : List CapRec) : State := { labOn (fun h => { h with cap := { h.cap with
  recs := recs, setups := updN h.cap.setups 0 fun x => { x with armed := true, opening := some 983039983, offset := 16, rearm := true, endAt := some 983039000 } } })
  with mem := (lab.mem.write 0x40000010 [1]).write 0x40000000 [2] }
theorem wit_CaptureRecords_area :
    let s := labArea []
    let t := after (.captureAreaOpen 0 0) s
    s.hw.Settled ∧ s.mem.wf = true ∧ 983039983 + (8512 + 511) / 512 ≤ s.hw.sta.since ∧ t.mem.get 0x40000010 = 0 ∧ t.mem.get 0x40000000 = 2 ∧
      ((t.hw.capS 0).readyAt, (t.hw.capS 0).dead, (t.hw.capS 0).areaOpen) = (some 983040000, 1000, true) := by decide +kernel
theorem wit_CaptureRecords_full :
    let s := labArea [{ setup := 0, no := 0, offset := 0, size := 8512, trigTick := 0, flanks := [0] }]
    let t := after (.captureAreaOpen 0 0) s
    s.hw.Settled ∧ (t.hw.capS 0).armed = false ∧ (t.hw.capS 0).endedFull = true ∧ t.hw.newest 0x0A05 0 ∧ t.mem.get 0x40000010 = 1 := by decide +kernel
/-- The same machines with STREAM set in set-up 0. -/
def streams (s : State) : State := s.on fun h => { h with img := { h.img with loaded := some { testImage with caps := [{ capOf 0 1 with flankMask := 17 }] } } }
theorem wit_CaptureRecords_stream :
    let t := after (.captureRecordEnd 0 0 []) (streams labRec)
    let u := after (.captureAreaOpen 0 0) (streams (labArea [{ setup := 0, no := 0, offset := 0, size := 8512, trigTick := 0, flanks := [0] }]))
    (t.hw.cap.recs.map fun r => (r.stream, r.left)) = [(true, [0])] ∧ ((t.hw.capS 0).fullWait, (t.hw.capS 0).offset) = (false, 8512) ∧
      ((u.hw.capS 0).armed, (u.hw.capS 0).fullWait, (u.hw.capS 0).opening) = (true, true, none) := by decide +kernel
theorem wit_CaptureRecords_fullWait :
    let s := streams labRec |>.on fun h => { h with cap := { h.cap with recs := [{ setup := 0, no := 0, offset := 16000, size := 8512, trigTick := 0, flanks := [0] }] } }
    let t := after (.captureRecordEnd 0 0 []) s
    ((t.hw.capS 0).fullWait, (t.hw.capS 0).opening, (t.hw.capS 0).offset) = (true, none, 8512) := by decide +kernel
theorem wit_TickOpensWindow_captures :
    (∀ c ∈ labCap.hw.image.caps, capOk c = true ∧ (labCap.hw.capS c.inst).offset + capSize c ≤ 0x200000) ∧
      (∀ i : SetupId, (lab.hw.capS i).readyAt = none ∧ (lab.hw.capS i).trig = none) := by decide +kernel

/-! ### Worked examples of the spec -/

/-- The worked example after R115: the tone word for 5,296.48 MHz at the DAC clock of 11,796.48 MHz. -/
theorem test_tone_word : ftw 5296480 11796480 = 0x72F0E38E38E4 := by decide +kernel
/-- The worked example after R70: N = 29 for 1,000 µs, the frame tick for k_c = 47,600,000,000,137 and its low 32 bits. -/
theorem test_entry_tick :
    lab.hw.windowsFor 1000000 = 29 ∧ lab.hw.frameFrom (47600000000137 + 29 + 1) = 47600000000280 ∧ low32 47600000000280 = 0xBD176118 ∧
      gridC 1 47600000000280 - gridC 1 47600000000137 = 5020416 := by decide +kernel
/-- R184: a field names the tick nearest to the current one; exactly 2^31 away it lies in the past. -/
theorem test_full_tick :
    fullTick 47600000000137 0xBD176118 = some 47600000000280 ∧ fullTick (2 ^ 33) (2 ^ 31) = some (2 ^ 33 - 2 ^ 31) ∧
      fullTick (2 ^ 33) (2 ^ 31 - 1) = some (2 ^ 33 + 2 ^ 31 - 1) := by decide +kernel
/-- R306: the check value of the CRC-16. -/
theorem test_crc16 : crc16 [0x31, 0x32, 0x33, 0x34, 0x35, 0x36, 0x37, 0x38, 0x39] = 0x29B1 := by decide +kernel
/-- Table 15.7: the accumulator moved out under SCALE 0 and SCALE 1. -/
theorem test_move_out :
    let s (k : BitVec 2) := labTor fun e => { dOf [] e with scale := k, a := updN e.a 1 fun _ => { re := 1310720100, im := -98305 } }
    ((tor0 (after (.mva 0 false 1 6 false) (s 0))).dReg 6, (tor0 (after (.mva 0 false 1 6 false) (s 0))).sat) = (0xFFFC7FFF, true) ∧
      ((tor0 (after (.mva 0 false 1 6 false) (s 1))).dReg 6, (tor0 (after (.mva 0 false 1 6 false) (s 1))).sat) = (0xFFFE4E20, false) := by
  decide +kernel
/-- The example after R241: a path of DELAY_INT 0 and DELAY_TAP 20 that is 250 ps late gets DELAY_INT 0 and DELAY_TAP 12. -/
theorem test_delay : (8 + 0) * 64 + 20 - croundQ ((250 : Rat) * 100 / 3179) = 8 * 64 + 12 := by decide +kernel
/-- The worked example after R412: the balls of path p37 and of quad q9. -/
theorem test_balls :
    [Signal.txo 37 false, .txo 37 true, .rxi 37 false, .paen 37, .obi 9 false, .obi 9 true, .hk 9 3].map Signal.ball =
      [("BT", 19), ("BT", 20), ("BN", 19), ("BC", 9), ("BG", 10), ("BG", 11), ("BC", 43)] := by decide +kernel
/-- Table 19.5. -/
theorem test_ball_counts :
    ([Rail.core, .rf, .a1p2, .a1p8, .io, .hk].map railBalls, vssBalls) = ([315, 79, 47, 23, 8, 16], 1573) := by decide +kernel
/-- The worked example after R314, with a full-scale output of 10 dBm: F_T is 1.8517 and the FEM takes 0.9036 stress-hours in an hour. -/
theorem test_stress :
    let y : Policy := { aI := 2 * 4096, aP := 4096, ea := 700, tRef := 850, wOff := 6554, rateMax := 16 * 256 }
    let id := { someFem with dacFs := 40, iRated := 500, pRated := 3800, gain := 2700, isnsGain := 65536 }
    let f : Fem := { iSum := 450, iCount := 1, paenWindows := 1, powerSum := 0 }
    let near := fun (a b : Rat) => decide (a - b < 1 / 20000) && decide (b - a < 1 / 20000)
    let heat := Hw.heatFactor y 950
    near heat (18517 / 10000) = true ∧ near (714 / 1000 * Hw.stressFactor y id f 950 + 286 / 1000 * (1 / 10) * heat) (9036 / 10000) = true := by
  decide +kernel

/-- R10, R180, R191: the tag and the eCPRI header in network byte order, the section header and the record little-endian, as Tables 9.1, 9.5
and 9.7 place them; the check sequence holds. -/
theorem test_frame_octets :
    let f := RxFrame.mk ((Hw.octets {} (.ulSection 0 0x0A0B0C0D0E0F 0x6123 0x0102 7 5 3 1 0x11223344 0x0201 2 0x0304 [0xAA])).getD []) false 0
    f.dst = 0x0A0B0C0D0E0F ∧ f.tci = some 0x6123 ∧ f.etherType = 0xAEFE ∧ f.fcsOk = true ∧
      f.octets.drop 18 = [0x10, 0, 0, 25, 1, 2, 7, 0x80, 5, 3, 1, 1, 0x44, 0x33, 0x22, 0x11, 0x10, 0, 13, 0, 1, 2, 2, 0, 4, 3, 0, 0, 0xAA,
        0, 0, 0, 0, 0, 0, 0, 0, 0, 0, 0, 0, 0] ++ f.octets.drop 60 := by decide +kernel

/-! ### Ill-formed commands, one for each check -/

/-- A header whose fields fit. -/
def goodHdr : MsgHdr := msgOf 5 4 560
/-- A record of a search. -/
def goodSearch : SearchRec := {
  occTag := 1, reportTick := 600, maxDelay := 1000, families := 1, startPrb := 0, beamsMin := 1, template := 0, carrier := 0, row0 := 0, rows := 8
  col0 := 0, cols := 8, cohReq := 1, cohMin := 1, noncohReq := 1, noncohMin := 1, freqHyp := 1 }
theorem test_wf_headers :
    (Instr.modeSelect 0 goodHdr 0 1).wf = true ∧ (Instr.searchOccasion 0 goodHdr 0 goodSearch).wf = true ∧
      ([{ goodHdr with src := 2 ^ 48 }, { goodHdr with vlan := some 65536 }, { goodHdr with revision := 16 }, { goodHdr with reserved := 8 },
        { goodHdr with msgType := 256 }, { goodHdr with size := 65536 }, { goodHdr with avail := 65536 }, { goodHdr with pcId := 65536 },
        { goodHdr with seq := 256 }, { goodHdr with seqE := 256 }, { goodHdr with flowId := 256 }, { goodHdr with epoch := 16 },
        { goodHdr with flags := 256 }, { goodHdr with records := 256 }, { goodHdr with target32 := 2 ^ 32 }, { goodHdr with layout := [(256, 0, 0)] },
        { goodHdr with layout := [(0, 65536, 0)] }, { goodHdr with layout := [(0, 0, 65536)] }].all
        fun h => !(Instr.modeSelect 0 h 0 1).wf && !(Instr.unsupportedMessageType 0 h).wf) = true := by decide +kernel
/-- R10, R196, Tables 9.7 and 9.10: record bodies are little-endian, field by field. -/
theorem test_record_rows :
    recordRow goodHdr 3 [0x12, 0, 36, 0, 42, 1, 0, 0, 0x30, 0x16, 0, 0, 100, 0, 0, 0, 3, 0, 7, 0, 16, 0, 5, 2, 1, 4, 2, 8, 9, 3, 2, 1, 5, 0, 0, 0] =
        some (.searchOccasion 0 goodHdr 3 { occTag := 298, reportTick := 5680, maxDelay := 100, families := 3, startPrb := 7, beamsMin := 16, template := 5
                                            carrier := 2, row0 := 1, rows := 4, col0 := 2, cols := 8, cohReq := 9, cohMin := 3, noncohReq := 2
                                            noncohMin := 1, freqHyp := 5 }) ∧
      recordRow { goodHdr with msgType := 0 } 0 [0x10, 0, 14, 0, 10, 0, 2, 1, 3, 0, 0, 0, 0xAA, 0xBB] =
        some (.dlSection 0 { goodHdr with msgType := 0 } 0 { start := 10, count := 258, beam := 3, payload := [0xAA, 0xBB] }) := by decide +kernel
/-- R10, R208, R261: a two-step Sync and an RMA read request in network byte order; the interval of 2^-4 s is 61,440,000 cc. -/
theorem test_frame_rows :
    let head : Bytes := [1, 0x80, 0xC2, 0, 0, 0x0E, 2, 0, 0, 0, 0, 1]
    let sync : RxFrame := { octets := head ++ [0x88, 0xF7, 0, 2, 0, 44, 24, 0, 2, 0, 0xFF, 0xFF, 0xFF, 0xFF, 0xFF, 0xFF, 0, 0, 0, 0, 0, 0,
      0, 0, 0, 0, 0, 0, 0, 77, 0, 1, 1, 2, 0, 0xFC, 0, 0, 0, 0, 0, 2, 0, 0, 0, 5, 0, 0, 0, 0], errorBlock := false, fifoParity := 0 }
    let rma : RxFrame := { octets := head ++ [0xAE, 0xFE, 0x10, 4, 0, 12, 9, 0, 0x12, 0x34, 0, 0, 0x20, 0, 1, 0, 0, 64, 0, 0, 0, 0], errorBlock := false, fifoParity := 0 }
    ptpRows 0 2 5 sync = [.ptpSync 0 { port := 0, lane := 2, tagged := false, dst := 0x0180C200000E, version := 2, sdoId := 0, domain := 24
                                       seq := 0x0102, source := 77 * 65536 + 1, correction := -65536, residence := 5 }
        true ((2 * 1000000000 + 5) * 65536) 61440000] ∧
      ecpriRows 0 2 rma = [.rmaRead 0 { port := 0, src := 0x020000000001, vlan := none, id := 9, rw := 0, element := 0x1234, address := 0x20000100
                                        length := 64 }] := by decide +kernel
theorem test_wf_records :
    ([{ start := 65536, count := 0, beam := 0, payload := [] }, { start := 0, count := 65536, beam := 0, payload := [] },
      { start := 0, count := 0, beam := 65536, payload := [] }].all fun r =>
        !(Instr.dlSection 0 goodHdr 0 r).wf && !(Instr.ulSectionRequest 0 goodHdr 0 r).wf && !(Instr.spurSectionHeaders 0 goodHdr r 0).wf) = true ∧
      (Instr.dlSection 0 goodHdr 0 { start := 0, count := 0, beam := 0, payload := List.replicate 65536 0 }).wf = false ∧
      (Instr.weightLoad 0 goodHdr 0 { beam := 65536, weight := List.replicate 64 0 }).wf = false ∧
      (Instr.weightLoad 0 goodHdr 0 { beam := 0, weight := List.replicate 63 0 }).wf = false ∧
      ([{ goodSearch with occTag := 2 ^ 32 }, { goodSearch with reportTick := 2 ^ 32 }, { goodSearch with maxDelay := 2 ^ 32 },
        { goodSearch with families := 65536 }, { goodSearch with startPrb := 65536 }, { goodSearch with beamsMin := 65536 },
        { goodSearch with template := 256 }, { goodSearch with carrier := 256 }, { goodSearch with row0 := 256 }, { goodSearch with rows := 256 },
        { goodSearch with col0 := 256 }, { goodSearch with cols := 256 }, { goodSearch with cohReq := 256 }, { goodSearch with cohMin := 256 },
        { goodSearch with noncohReq := 256 }, { goodSearch with noncohMin := 256 }, { goodSearch with freqHyp := 256 }].all
        fun r => !(Instr.searchOccasion 0 goodHdr 0 r).wf) = true := by decide +kernel
theorem test_wf_items :
    ([.dlSection 0 goodHdr 256 { start := 0, count := 0, beam := 0, payload := [] }, .modeSelect 0 goodHdr 256 0, .modeSelect 0 goodHdr 0 256,
      .ulSectionRequest 0 goodHdr 256 { start := 0, count := 0, beam := 0, payload := [] }, .searchOccasion 0 goodHdr 256 goodSearch,
      .weightLoad 0 goodHdr 256 { beam := 0, weight := List.replicate 64 0 },
      .calibrate 0 goodHdr 256 0 0 0, .calibrate 0 goodHdr 0 256 0 0, .calibrate 0 goodHdr 0 0 256 0, .calibrate 0 goodHdr 0 0 0 (2 ^ 32),
      .calAbort 0 goodHdr 256 0, .calAbort 0 goodHdr 0 (2 ^ 32), .captureArm 0 goodHdr 256 0, .captureArm 0 goodHdr 0 256,
      .captureDisarm 0 goodHdr 256 0, .captureDisarm 0 goodHdr 0 256, .pathRetire 0 goodHdr 256 0, .pathRetire 0 goodHdr 0 256,
      .pathRestore 0 goodHdr 256 0, .pathRestore 0 goodHdr 0 256, .budgetShare 0 goodHdr 256 [0, 0, 0, 0], .budgetShare 0 goodHdr 0 [0, 0, 0],
      .budgetShare 0 goodHdr 0 [0, 0, 0, 65536], .spurFcsBad 0 256 0 0, .spurFcsBad 0 0 256 0, .spurTrunc 0 256 0 0 0, .spurTrunc 0 0 256 0 0,
      .ulSectionSend 0 256 0 0, .sectionWeighted 0 256 0 0, .cairnGroupEnd 0 (2 ^ 32) [], .cairnGroupEnd 0 0 [{ address := 2 ^ 32, cell := 0 }],
      .cairnReportSend 0 (2 ^ 32) [], .cairnReportSend 0 0 [{ address := 2 ^ 32, cell := 0 }]].all fun i : Instr => !i.wf) = true := by decide +kernel
theorem test_wf_network :
    let f := fun (n : Nat) => ({ octets := List.replicate n 0, errorBlock := false, fifoParity := 0 } : RxFrame)
    let r : Rma := { port := 0, src := 0, vlan := none, id := 0, rw := 0, element := 0, address := 0, length := 0 }
    let p : PtpHdr := {
      port := 0, lane := 0, tagged := false, dst := 0, version := 2, sdoId := 0, domain := 24, seq := 0, source := 0, correction := 0, residence := 0 }
    let a : AnnounceData := {
      clockClass := 6, accuracy := 0, variance := 0, priority2 := 0, grandmaster := 0, stepsRemoved := 0, utcOffset := 37, interval := 0 }
    (f 18).wf = true ∧ r.wf = true ∧ p.wf = true ∧ a.wf = true ∧
      ([.frameRx 0 0 (f 17), .ptpFollowUp 0 { p with dst := 2 ^ 48 } 0,
        .rmaRead 0 { r with src := 2 ^ 48 }, .rmaWrite 0 { r with vlan := some 65536 }, .rmaRead 0 { r with id := 256 }, .rmaRead 0 { r with rw := 256 },
        .rmaWrite 0 { r with element := 65536 }, .rmaRead 0 { r with address := 2 ^ 48 }, .rmaRead 0 { r with length := 65536 },
        .owdRequest 0 0 0 (2 ^ 48) 0 0, .owdRequest 0 0 0 0 256 0, .owdRequest 0 0 0 0 0 256, .owdFollowUp 0 0 256, .owdRemoteRequest 0 0 256,
        .remoteReset 0 0 (2 ^ 48) 0 none 0 1, .remoteReset 0 0 0 (2 ^ 48) none 0 1, .remoteReset 0 0 0 0 (some 65536) 0 1,
        .remoteReset 0 0 0 0 none 65536 1, .remoteReset 0 0 0 0 none 0 256,
        .ptpAnnounce 0 { p with version := 16 } a, .ptpSync 0 { p with sdoId := 4096 } false 0 0, .ptpFollowUp 0 { p with domain := 256 } 0,
        .ptpDelayReqRx 0 { p with seq := 65536 }, .ptpDelayResp 0 { p with source := 2 ^ 80 } 0 0 0, .ptpDelayResp 0 p 0 (2 ^ 80) 0,
        .ptpSync 0 { p with correction := 2 ^ 63 } false 0 0, .ptpAnnounce 0 p { a with clockClass := 256 },
        .ptpAnnounce 0 p { a with accuracy := 256 }, .ptpAnnounce 0 p { a with variance := 65536 }, .ptpAnnounce 0 p { a with priority2 := 256 },
        .ptpAnnounce 0 p { a with grandmaster := 2 ^ 64 }, .ptpAnnounce 0 p { a with stepsRemoved := 65536 },
        .ptpAnnounce 0 p { a with utcOffset := 32768 }].all fun i : Instr => !i.wf) = true := by decide +kernel
theorem test_wf_measurements :
    let w := quiet
    let m : EyeMeas := { ew := 0, eh := 0, ctle := 0, taps := List.replicate 12 0 }
    w.wf = true ∧ m.wf = true ∧
      ([.tick { w with rx := [⟨0, []⟩, ⟨0, []⟩] }, .tick { w with sensors := [(0, none), (0, none)] }, .tick { w with rx := [⟨0, [(2048, false)]⟩] },
        .tick { w with rx := [⟨0, [(-2049, false)]⟩] }, .tick { w with upsets := [(2 ^ 29, false)] }, .laneCoarseDone 0 0 { m with ew := 128 },
        .laneEyeInterval 0 0 { m with eh := 512 }, .laneCoarseDone 0 0 { m with ctle := 32 }, .laneEyeInterval 0 0 { m with taps := [] },
        .laneCoarseDone 0 0 { m with taps := List.replicate 12 64 }, .laneMarkerFound 0 0 4 0, .laneLinkDown 0 0 6 [], .idleDelete 0 0 33,
        .idleInsert 0 0 33, .thermalTrip 0 0 2048, .hkReading 0 0 [], .hkReading 0 0 [⟨4096, false⟩], .hkaInjectStart 0 0 16,
        .hkInjectDone 0 0 ⟨4096, false⟩, .lookoutRead 0 0 (2 ^ 24)].all fun i : Instr => !i.wf) = true := by decide +kernel
set_option maxRecDepth 100000 in
theorem test_wf_blocks :
    let f : FemRead := ⟨none, none, none⟩
    ([.calRecordRead 0 [], .nvmOpDone 0 [0], .femDiscoveryDone 0 0 [f, f, f], .femDiscoveryDone 0 0 [f, f, f, ⟨some [], none, none⟩],
      .femIdentityReadDone 0 0 ⟨none, some [0], none⟩ none, .femIdentityReadDone 0 0 ⟨none, none, some [0]⟩ none,
      .obsRecordWritten 0 0 [(2048, false)], .calCollectQuantumDone 0 (.tx [(0, []), (0, [])]), .calCollectQuantumDone 0 (.tx [(0, [(-2049, true)])]),
      .captureRecordEnd 0 0 [(0, 0, []), (0, 0, [])], .captureRecordEnd 0 0 [(0, 0, [(2048, false)])]].all fun i : Instr => !i.wf) = true ∧
      (Instr.obsRecordWritten 0 0 [(2047, true), (-2048, true)]).wf = true := by decide +kernel

/-! ### Samples -/

/-- The worked example after R145: only table 0 is filled, at entries 117 and 118, and one sample is not zero. -/
def labDpd : State := labOn fun h => { h with paths := updN h.paths 12 fun p => { p with
  dpdBypass := false, txLive := true, txRun := true, txOn := true, tone := { mode := 1, amp := 0x2000, phase := BitVec.ofNat 48 (1024 * 2 ^ 36), phaseC := 983040000 }
  dpd := { p.dpd with bank0 := [(117, 0x019A0666), (118, 0x01AE06A4)] } } }
theorem test_predistorter :
    labDpd.hw.dpdSample 12 (fun n => if n = 0 then ⟨12000, 9000⟩ else ⟨0, 0⟩) 0 = ⟨12490, 9605⟩ := by decide +kernel
theorem wit_SampleChains_bypass :
    let x : Int → IQ := fun _ => ⟨-32768, 32767⟩
    (labDpd.hw.path 3).dpdBypass = true ∧ labDpd.hw.dpdSample 3 x 0 = x 0 ∧
      ∀ i : Fin 256, ({ labDpd.hw with paths := updN labDpd.hw.paths 12 fun p => { p with dpd := {} } } : Hw).dpdWord 12 true i.val = 0 := by
  decide +kernel
/-- The worked example after R115: the peak of the tone is code 1,024. -/
theorem wit_SampleChains_dac :
    labDpd.hw.dacForced 12 = false ∧ labDpd.hw.dacSample 12 77 = 1024 ∧ State.reset.hw.dacSample 12 77 = 0 ∧
      ({ labDpd.hw with trl := { labDpd.hw.trl with trip := true } } : Hw).dacSample 12 77 = 0 ∧
      dacCode 0 32767 0 = 8191 ∧ dacCode 0 (-32768) 0 = -8192 ∧ dacCode 2 32764 100 = 8191 := by decide +kernel
/-- Tick 5613 is downlink and tick 5614 is not; a chain whose input is forced in a window takes zero there. -/
theorem wit_SampleChains_input :
    let at_ := fun (k : Nat) => { labDpd.hw with tim := { labDpd.hw.tim with k := k } }
    let h := { labDpd.hw with txWins := [{ tick := 0, c := 100, forced := [12] }] }
    ((at_ 5613).inputForced 12, (at_ 5614).inputForced 12) = (false, true) ∧ h.chainIn 12 0 1000 = {} := by decide +kernel
theorem wit_SampleChains_nco :
    let h := { labDpd.hw with mode := { labDpd.hw.mode with enteredAt := some labDpd.hw.up } }
    h.ncoPhase 6 1 5 = 0 ∧ ({ h with sta := { h.sta with since := h.sta.since + 2 } } : Hw).ncoPhase 6 1 (2 ^ 47 + 1) = 12 := by decide +kernel
/-- R104: of two equal neighbours the later is the candidate; R90: an event needs 64 unflagged samples before it. -/
theorem wit_SampleChains_counts :
    cfrBlock { threshold := 16384, maxPeaks := 1 } 0 ⟨0, 0⟩ [⟨20000, 0⟩, ⟨100, 0⟩, ⟨30000, 0⟩, ⟨30000, 0⟩, ⟨5, 5⟩] ⟨0, 0⟩ = ([3], 1, 1) ∧
      ovrCount 64 [true, true, false, true] = (3, 1) ∧ ovrCount 63 [true] = (1, 0) := by decide +kernel
/-- Table 4.4: sizes, prefixes and half-band stages from Cirque of 100 MHz at 30 kHz, 20 MHz at 15 kHz and 20 MHz at 60 kHz. -/
theorem test_fft_sizes :
    (fftSize ((nRb 100 1).getD 0), prefixLen 4096 1 false, prefixLen 4096 1 true, halfBands 4 ⟨3500000, 100, 1⟩) = (4096, 288, 352, 0) ∧
      (fftSize ((nRb 20 0).getD 0), prefixLen 2048 0 false, prefixLen 2048 0 true, halfBands 4 ⟨3500000, 20, 0⟩) = (2048, 144, 160, 2) ∧
      (fftSize ((nRb 20 2).getD 0), prefixLen 1024 2 false, prefixLen 1024 2 true, halfBands 4 ⟨3500000, 20, 2⟩) = (1024, 72, 104, 1) := by
  decide +kernel

/-! ### Words of Tor instructions -/

/-- The worked example after R334: FTAP A0, D0, D1 with loads D0 from [P0] and D1 from [P1] is 0x8800_8009. -/
theorem test_ftap_word : torDecode 0 0x88008009 0 = some (.ftap 0 false 0 0 1 false 0 0 1 1) ∧
    torWord (.ftap 0 false 0 0 1 false 0 0 1 1) = some 0x88008009 := by decide +kernel
/-- One word of each group, its fields written out from Table 15.3: OP, X, then the fields from bit 24 down. -/
theorem wit_TorWords :
    torDecode 3 0b000010_0_000000101_0000000000000111 0 = some (.loop 3 false 5 7 0) ∧
      torDecode 3 0b000011_1_0010_000000000000000000000 9 = some (.br 3 true 2 0 9) ∧
      torDecode 3 0b010000_0_100001_000_1111111111111110 0 = some (.mvi 3 false 0x21 0xFFFE 0) ∧
      torDecode 3 0b010010_0_0110_0001_0010_0011_000000000 0 = some (.sar 3 false 1 2 3 0) ∧
      torDecode 3 0b010011_0_101_1_00000_1111111111111100 0 = some (.modp 3 false 5 true 0xFFFC 0) ∧
      torDecode 3 0b011000_0_0100_011_10_1_0_00000000001000 0 = some (.ld 3 false 4 3 2 true false 8 0) ∧
      torDecode 3 0b011011_0_10_1_110_01_000_00000000000100 0 = some (.sta 3 false 2 true 6 1 0 4 0) ∧
      torDecode 3 0b100000_0_11_0101_0110_010_000000000000 0 = some (.cmsu 3 false 3 5 6) ∧
      torDecode 3 0b100001_0_00_10_00_0111_1_0_0000000000000 0 = some (.qmac 3 false 0 2 7 true false) ∧
      torDecode 3 0b010010_0_1011_0000_0000_0000_000000000 0 = none ∧ torDecode 3 0b111111_0_0000000000000000000000000 0 = none ∧
      State.reset.torNext 5 = some (.halt 5 false 0 0) := by decide +kernel
/-- A word stored least significant byte first at the program counter of engine 2. -/
theorem wit_TorWords_fetch :
    let s := { State.reset with mem := State.reset.mem.write 0x11020000 [0x09, 0x80, 0x00, 0x88] }
    s.mem.anyUe 0x11020000 4 = false ∧ s.torNext 2 = some (.ftap 2 false 0 0 1 false 0 0 1 1) := by decide +kernel

end Sys2Proof.Tests
end

section
/-! The words of Tor instructions (R10, R331, R334, R359, Tables 15.3 to 15.6): the fields of an encoded word, which words decode, and
the word at an engine's program counter. Settles O60. -/
namespace Sys2Proof.Machine

/-! ### Fields of an encoded word -/

theorem getLsbD_append_low {m n i : Nat} (x : BitVec m) (y : BitVec n) (h : i < n) : (x ++ y).getLsbD i = y.getLsbD i := by
  rw [BitVec.getLsbD_append, if_pos h]

theorem getLsbD_append_high {m n i : Nat} (x : BitVec m) (y : BitVec n) (h : n ≤ i) : (x ++ y).getLsbD i = x.getLsbD (i - n) := by
  rw [BitVec.getLsbD_append, if_neg (Nat.not_lt.mpr h)]

theorem getLsbD_ofBool_zero (b : Bool) : (BitVec.ofBool b).getLsbD 0 = b := by cases b <;> rfl

theorem op_torWordOf (op : BitVec 6) (x : Bool) (f : BitVec 25) : fld (torWordOf op x f) 26 6 = op := by
  simp (disch := decide) only [torWordOf, fld, BitVec.extractLsb'_append_eq_of_le, Nat.reduceSub, BitVec.extractLsb'_eq_self]

theorem x_torWordOf (op : BitVec 6) (x : Bool) (f : BitVec 25) : fbit (torWordOf op x f) 25 = x := by
  simp (disch := decide) only [torWordOf, fbit, getLsbD_append_low, getLsbD_append_high, Nat.reduceSub, getLsbD_ofBool_zero]

theorem fld_torWordOf (op : BitVec 6) (x : Bool) (f : BitVec 25) {lo w : Nat} (h : lo + w ≤ 25) :
    fld (torWordOf op x f) lo w = f.extractLsb' lo w :=
  BitVec.extractLsb'_append_eq_of_add_le h

theorem fbit_torWordOf (op : BitVec 6) (x : Bool) (f : BitVec 25) {i : Nat} (h : i < 25) :
    fbit (torWordOf op x f) i = f.getLsbD i :=
  getLsbD_append_low _ _ h

/-! ### Decoding an encoded word -/

theorem torDecode_aluWord (t : EngId) (sub : BitVec 4) (x : Bool) (d a b : BitVec 4) (ext : Word) :
    torDecode t (aluWord sub x d a b) ext = decodeAlu t (aluWord sub x d a b) ext := by
  unfold torDecode
  rw [aluWord, op_torWordOf]
  rfl

theorem torDecode_macWord (t : EngId) (sub : BitVec 3) (x : Bool) (a : BitVec 2) (dx dy : BitVec 4) (ext : Word) :
    torDecode t (macWord sub x a dx dy) ext = decodeMac t (macWord sub x a dx dy) := by
  unfold torDecode
  rw [macWord, op_torWordOf]
  rfl

/-- The words of every instruction decode to it, at the engine that the instruction names: each field of the word is read back from
the concatenation that the encoder makes, group by group of the tables. -/
theorem torDecode_torWord (i : Instr) (w : Word) (h : torWord i = some w) : ∃ t : EngId, torDecode t w (torExt i) = some i := by
  cases i with
  | add t | sub t | and t | or t | xor t | shl t | sar t | shr t | add2 t | sub2 t | cmp t =>
    obtain rfl := Option.some.inj h
    refine ⟨t, ?_⟩
    rw [torDecode_aluWord]
    simp (disch := decide) only [decodeAlu, aluWord, x_torWordOf, fld_torWordOf, BitVec.extractLsb'_append_eq_of_add_le,
      BitVec.extractLsb'_append_eq_of_le, Nat.reduceSub, BitVec.extractLsb'_eq_self, torExt, BitVec.reduceToNat]
  | cmac t | cmacj t | cmsu t | cmul t | rmac t | clr t =>
    obtain rfl := Option.some.inj h
    refine ⟨t, ?_⟩
    rw [torDecode_macWord]
    simp (disch := decide) only [decodeMac, macWord, x_torWordOf, fld_torWordOf, BitVec.extractLsb'_append_eq_of_add_le,
      BitVec.extractLsb'_append_eq_of_le, Nat.reduceSub, BitVec.extractLsb'_eq_self, BitVec.reduceToNat]
  | halt t | nop t | loop t | br t | call t | ret t | wait t | signal t | done t | jpop t | sets t | clrf t | mvi t | mov t | modp t
  | ld t | st t | mva t | sta t | lda t | qmac t | ftap t | ftapz t | dld t =>
    obtain rfl := Option.some.inj h
    refine ⟨t, ?_⟩
    simp (disch := decide) only [torDecode, op_torWordOf, BitVec.reduceToNat, x_torWordOf, fld_torWordOf, fbit_torWordOf, tapFields,
      BitVec.extractLsb'_append_eq_of_add_le, BitVec.extractLsb'_append_eq_of_le, Nat.reduceSub, BitVec.extractLsb'_eq_self,
      getLsbD_append_low, getLsbD_append_high, getLsbD_ofBool_zero, torExt]
  | _ => cases h

/-! ### Words that are refused -/

theorem fld_toNat (w : Word) (lo n : Nat) : (fld w lo n).toNat = w.toNat / 2 ^ lo % 2 ^ n := by
  rw [BitVec.extractLsb'_toNat, Nat.shiftRight_eq_div_pow]

/-- OP is the six highest bits of a word. -/
theorem op_toNat (w : Word) : (fld w 26 6).toNat = w.toNat / 2 ^ 26 := by
  rw [fld_toNat, Nat.mod_eq_of_lt]
  have := w.isLt
  omega

/-- Of the ALU operations, Table 15.6 gives 0 to 10. -/
theorem decodeAlu_eq_none (t : EngId) (w ext : Word) : decodeAlu t w ext = none ↔ 11 ≤ w.toNat / 2 ^ 21 % 16 := by
  rw [show w.toNat / 2 ^ 21 % 16 = (fld w 21 4).toNat from (fld_toNat w 21 4).symm]
  unfold decodeAlu
  generalize (fld w 21 4).toNat = sub
  dsimp only
  split <;> simp
  simp_all only [imp_false]
  omega

/-- Of the MAC sub-operations, Table 15.4 gives 0 to 5. -/
theorem decodeMac_eq_none (t : EngId) (w : Word) : decodeMac t w = none ↔ 6 ≤ w.toNat / 2 ^ 12 % 8 := by
  rw [show w.toNat / 2 ^ 12 % 8 = (fld w 12 3).toNat from (fld_toNat w 12 3).symm]
  unfold decodeMac
  generalize (fld w 12 3).toNat = sub
  dsimp only
  split <;> simp
  simp_all only [imp_false]
  omega

/-- A word is refused for its OP, or for its operation within OP 0x12 or 0x20. -/
theorem torDecode_eq_none (t : EngId) (w ext : Word) : torDecode t w ext = none ↔
    w.toNat / 2 ^ 26 ∉ [0, 1, 2, 3, 4, 5, 6, 7, 8, 9, 10, 11, 16, 17, 18, 19, 24, 25, 26, 27, 28, 32, 33, 34, 35, 36] ∨
      (w.toNat / 2 ^ 26 = 18 ∧ 11 ≤ w.toNat / 2 ^ 21 % 16) ∨ (w.toNat / 2 ^ 26 = 32 ∧ 6 ≤ w.toNat / 2 ^ 12 % 8) := by
  rw [← op_toNat, ← decodeAlu_eq_none t w ext, ← decodeMac_eq_none t w]
  unfold torDecode
  generalize (fld w 26 6).toNat = op
  dsimp only
  split <;> simp
  exact .inl (by simp_all only [imp_false, not_false_eq_true, and_self])

/-! ### The word at the program counter -/

theorem unle_replicate_zero (n : Nat) : unle (List.replicate n 0) = 0 := by
  induction n with
  | zero => rfl
  | succ n ih => rw [List.replicate_succ, unle, ih]; rfl

/-- Four bytes in little-endian order spell the word whose most significant byte is the last (R10). -/
theorem unle_four (b0 b1 b2 b3 : Byte) : BitVec.ofNat 32 (unle [b0, b1, b2, b3]) = b3 ++ b2 ++ b1 ++ b0 := by
  apply BitVec.eq_of_toNat_eq
  have h0 := b0.isLt
  have h1 := b1.isLt
  have h2 := b2.isLt
  have h3 := b3.isLt
  rw [BitVec.toNat_append, BitVec.toNat_append, BitVec.toNat_append, ← Nat.shiftLeft_add_eq_or_of_lt h0,
    ← Nat.shiftLeft_add_eq_or_of_lt h1, ← Nat.shiftLeft_add_eq_or_of_lt h2]
  simp only [BitVec.toNat_ofNat, unle, Nat.shiftLeft_eq]
  omega

namespace Mem

/-- Where every byte is zero, zeros are read, uncorrectable words among them. -/
theorem read_zeros (m : Mem) (a n : Nat) (h : ∀ k < n, m.get (a + k) = 0) : m.read a n = List.replicate n 0 := by
  induction n generalizing a with
  | zero => rfl
  | succ n ih =>
    have h0 : m.get a = 0 := h 0 (Nat.succ_pos n)
    have hr : ∀ k < n, m.get (a + 1 + k) = 0 := fun k hk => by
      rw [Nat.add_assoc, Nat.add_comm 1 k]
      exact h (k + 1) (Nat.succ_lt_succ hk)
    rw [read, h0, ite_self, ih (a + 1) hr, List.replicate_succ]

/-- A byte of a range without an uncorrectable word lies in no uncorrectable word. -/
theorem err_of_anyUe (m : Mem) {a n x : Nat} (h : m.anyUe a n = false) (h1 : a ≤ x) (h2 : x < a + n) : m.err (x / 8) ≠ some true := by
  intro e
  have hx : x / 8 ∈ words a n := by
    rw [words, if_neg (by omega), List.mem_map]
    exact ⟨x / 8 - a / 8, List.mem_range.mpr (by omega), by omega⟩
  have := List.any_eq_false.mp h (x / 8) hx
  simp [e] at this

/-- A range without an uncorrectable word reads its bytes. -/
theorem read_sound (m : Mem) (a n : Nat) (h : ∀ x, a ≤ x → x < a + n → m.err (x / 8) ≠ some true) :
    m.read a n = (List.range' a n).map m.get := by
  induction n generalizing a with
  | zero => rfl
  | succ n ih =>
    rw [read, if_neg (h a le_rfl (by omega)), ih (a + 1) fun x h1 h2 => h x (by omega) (by omega)]
    rfl

end Mem

/-- Program memory that holds zeros at the program counter spells HALT with code 0 (R359). -/
theorem State.torNext_of_zero (s : State) (t : EngId)
    (h : ∀ k < 8, s.mem.get (0x11000000 + t.val * 0x10000 + (s.hw.eng t).pc + k) = 0) : s.torNext t = some (.halt t false 0 0) := by
  rw [State.torNext, Mem.read_zeros _ _ 4 fun k hk => h k (by omega), unle_replicate_zero]
  rfl

/-- The word at the program counter is read in little-endian order (R10, R331). -/
theorem State.torNext_of_bytes (s : State) (t : EngId) (b0 b1 b2 b3 : Byte) (a : Nat)
    (ha : a = 0x11000000 + t.val * 0x10000 + (s.hw.eng t).pc) (hu : s.mem.anyUe a 4 = false)
    (hb : [s.mem.get a, s.mem.get (a + 1), s.mem.get (a + 2), s.mem.get (a + 3)] = [b0, b1, b2, b3]) :
    s.torNext t = torDecode t (b3 ++ b2 ++ b1 ++ b0) (BitVec.ofNat 32 (unle (s.mem.read (a + 4) 4))) := by
  have hr : s.mem.read a 4 = [b0, b1, b2, b3] := (Mem.read_sound _ a 4 fun _ => Mem.err_of_anyUe _ hu).trans hb
  rw [State.torNext, ← ha, hr, unle_four]

/-- Settles O60: encoder and decoder agree field by field, the decoder refuses by OP and operation alone, and the word at the program
counter is the four bytes there, least significant first. -/
theorem torWords : Obligations.TorWords :=
  ⟨torDecode_torWord, torDecode_eq_none, State.torNext_of_zero,
    fun s t b0 b1 b2 b3 hu hb => ⟨_, s.torNext_of_bytes t b0 b1 b2 b3 _ rfl hu hb⟩⟩

end Sys2Proof.Machine
end

section
/-! The remote reset and the record of what has left the package (R5, R72, R361). Refutes O14. -/
namespace Sys2Proof.Machine

/-- A remote reset to the own address on port A that finds no record write in progress: answered, then everything wiped and S1
begun (R72, R73). -/
theorem exec_remoteReset_acts (s : State) (dt mac src id : Nat) (vlan : Option Nat) (h5 : 5 ≤ s.hw.sta.stage)
    (hl : (s.hw.port 0).linkUp = true) (hm : s.hw.ownMac = some mac) (hb : s.hw.img.calWriteBusy = false) :
    exec (.remoteReset dt 0 mac src vlan id 1) s =
      .next { s with hw := (((s.hw.elapse dt).send (.resetResp 0 src id)).wiped.toS1 true).settle, mem := {} } := by
  have ha : (s.hw.elapse dt).arrives 0 = true := by simpa [Hw.arrives, Hw.port, h5] using hl
  have hm' : (s.hw.elapse dt).ownMac = some mac := by simpa [Hw.ownMac, Hw.image] using hm
  show execRemoteReset dt 0 mac src vlan id 1 s = _
  rw [execRemoteReset, okM_eq]
  simp [ha, hm', hb]

/-- The bytes that have been sent as misread (R361) have left the package: the wiping of a remote reset keeps their record, as it
keeps the frames sent. -/
theorem remoteReset_keeps_flips (s t : State) (dt mac src id : Nat) (vlan : Option Nat) (h5 : 5 ≤ s.hw.sta.stage)
    (hl : (s.hw.port 0).linkUp = true) (hm : s.hw.ownMac = some mac) (hb : s.hw.img.calWriteBusy = false)
    (ht : exec (.remoteReset dt 0 mac src vlan id 1) s = .next t) : t.hw.out.flips = (s.hw.elapse dt).out.flips := by
  rw [exec_remoteReset_acts s dt mac src id vlan h5 hl hm hb] at ht
  obtain rfl := Host.Outcome.next.inj ht
  exact (congrArg Out.flips (Hw.settle_out _)).trans rfl

/-- The package's own flow on port A in `misreadState`. -/
def misreadFlow : Flow := {
  id := 0, dir := 0, carrier := 0, layer := 0, port := 0, pkgPos := 0, eaxc := 0, vlan := 0xFFFF, dstMac := 1, srcMac := 2
  compression := 0 }

/-- S5 with port A up and one own flow, after one byte of an egress FIFO of port A was read wrong and sent so (R361). -/
def misreadState : State := { State.reset with hw := { State.reset.hw with
  sta := { stage := 5 }
  pins := { stat := 4 }
  img := { loaded := some { flows := [(0, [misreadFlow])] } }
  ports := Vector.replicate 2 { linkUp := true }
  out := { flips := [{ port := 0, frame := 0, octet := 0, flips := 1 }] } } }

theorem misreadState_settled : misreadState.hw.Settled := by decide +kernel

/-- Refutes O14: the statement lists what a remote reset leaves of the output record without the bytes sent as misread, as if they
were forgotten, while the model keeps them (as the statement itself says for PORESET_N). In `misreadState` one such byte stands. -/
theorem not_resets : ¬ Obligations.Resets := by
  rintro ⟨-, h⟩
  have hl : (misreadState.hw.port 0).linkUp = true := rfl
  have hm : misreadState.hw.ownMac = some 2 := rfl
  have h5 : 5 ≤ misreadState.hw.sta.stage := le_rfl
  obtain ⟨-, hact, -⟩ := h misreadState 0 2 7 9 1 none misreadState_settled h5 hl hm
  obtain ⟨t, ht, -, -, hhw, -⟩ := hact rfl rfl
  have hkept : t.hw.out.flips = [{ port := 0, frame := 0, octet := 0, flips := 1 }] :=
    remoteReset_keeps_flips misreadState t 0 2 7 9 none h5 hl hm rfl ht
  have hlost : t.hw.out.flips = [] := congrArg (fun x => x.out.flips) hhw
  rw [hlost] at hkept
  cases hkept

end Sys2Proof.Machine
end

section
/-! What a tick's steps leave (R27, Table 1.7): the time, the image, what ENG writes have put in force, the event lines pulsed, the
grants and the capture set-ups. Almost every operation of a tick leaves all of it; one lemma per operation says so. -/
namespace Sys2Proof.Machine

theorem map_updN {α β : Type} {n : Nat} (g : α → β) (v : Vector α n) (i : Nat) (f : α → α) (hf : ∀ x, g (f x) = g x) :
    (updN v i f).map g = v.map g := by
  unfold updN upd
  split
  · ext j hj
    by_cases e : i = j
    · subst e
      simp [hf]
    · simp [e]
  · rfl

theorem map_vmapi {α β : Type} {n : Nat} (g : α → β) (v : Vector α n) (f : Nat → α → α) (hf : ∀ i x, g (f i x) = g x) :
    (vmapi v f).map g = v.map g := by
  ext j hj
  simp [vmapi, hf]

/-- The route of a quad, in force and written (Table 15.17). -/
def Quad.routes (x : Quad) : EngId × Option EngId := (x.route, x.routeNext)
/-- The statistics quanta that an engine offers, in force and written (R346). -/
def Tor.offers (e : Tor) : Nat × Option Nat := (e.statOffer, e.statNext)

/-- The class limits, in force and written (R225). -/
def Trl.limits (t : Trl) : Vector Nat 5 × Vector (Option Nat) 5 := (t.classLimit, t.classNext)
/-- With the quanta granted. -/
def Trl.admits (t : Trl) : (Vector Nat 5 × Vector (Option Nat) 5) × List Grant := (t.limits, t.grants)
/-- The routes of Cairn's contexts, in force and written (Table 15.17). -/
def Crn.routes (x : Crn) : Vector EngId 4 × Vector (Option EngId) 4 := (x.route, x.routeNext)

/-- What only the opening of a window changes: the time, the package's identity, the image, and the limits, routes and offers in force
and written. -/
structure InForce where
  tim : Tim
  sys : Sys
  loaded : Option Image
  limits : Vector Nat 5 × Vector (Option Nat) 5
  quadRoutes : Vector (EngId × Option EngId) 16
  crnRoutes : Vector EngId 4 × Vector (Option EngId) 4
  offers : Vector (Nat × Option Nat) 16

namespace Hw

def inForce (h : Hw) : InForce where
  tim := h.tim
  sys := h.sys
  loaded := h.img.loaded
  limits := h.trl.limits
  quadRoutes := h.quads.map Quad.routes
  crnRoutes := h.crn.routes
  offers := h.tor.map Tor.offers
/-- With the lines pulsed and the quanta granted. -/
def windowed (h : Hw) : InForce × List Nat × List Grant := (h.inForce, h.out.events, h.trl.grants)
/-- With the capture set-ups. -/
def standing (h : Hw) : (InForce × List Nat × List Grant) × CapAll := (h.windowed, h.cap)

/-! ### Updates

Every lemma that follows continues an equation: what stood as `a` before an operation stands as `a` after it, so that the lemmas of an
operation's parts are put together in the order of its text, the last part first. -/

section
variable {h : Hw} {a : (InForce × List Nat × List Grant) × CapAll}

theorem onPath_standing {n : Nat} {f : Path → Path} (e : h.standing = a) : (h.onPath n f).standing = a := e
theorem onPaths_standing {f : Nat → Path → Path} (e : h.standing = a) : (h.onPaths f).standing = a := e
theorem onFhl_standing {f : Fhl → Fhl} (e : h.standing = a) : (h.onFhl f).standing = a := e
theorem onSta_standing {f : Sta → Sta} (e : h.standing = a) : (h.onSta f).standing = a := e
theorem onCal_standing {f : Cal → Cal} (e : h.standing = a) : (h.onCal f).standing = a := e
theorem onMas_standing {f : Mas → Mas} (e : h.standing = a) : (h.onMas f).standing = a := e
theorem send_standing {f : TxFrame} (e : h.standing = a) : (h.send f).standing = a := e
theorem happen_standing {x : Happening} (e : h.standing = a) : (h.happen x).standing = a := e
theorem alarm_standing {c x : Nat} {g : Int} (e : h.standing = a) : (h.alarm c g x).standing = a := e
theorem cease_standing {c : Nat} {g : Int} (e : h.standing = a) : (h.cease c g).standing = a := e
theorem nvm_standing {l : List NvmCmd} (e : h.standing = a) : (h.nvm l).standing = a := e
theorem busPut_standing {l : List BusItem} (e : h.standing = a) : (h.busPut l).standing = a := e

theorem onTrl_standing {f : Trl → Trl} (e : h.standing = a) (hf : ∀ t, (f t).admits = t.admits) : (h.onTrl f).standing = a := by
  rw [← e]
  have hl : (f h.trl).limits = h.trl.limits := congrArg Prod.fst (hf h.trl)
  have hg : (f h.trl).grants = h.trl.grants := congrArg Prod.snd (hf h.trl)
  simp only [standing, windowed, inForce, onTrl, hl, hg]

theorem onCrn_standing {f : Crn → Crn} (e : h.standing = a) (hf : ∀ x, (f x).routes = x.routes) :
    (h.onCrn f).standing = a := by
  rw [← e]
  simp only [standing, windowed, inForce, onCrn, hf]

theorem onQuad_standing {q : Nat} {f : Quad → Quad} (e : h.standing = a) (hf : ∀ x, (f x).routes = x.routes) :
    (h.onQuad q f).standing = a := by
  rw [← e]
  simp only [standing, windowed, inForce, onQuad, map_updN _ _ _ _ hf]

theorem onQuads_standing {f : Nat → Quad → Quad} (e : h.standing = a) (hf : ∀ i x, (f i x).routes = x.routes) :
    (h.onQuads f).standing = a := by
  rw [← e]
  simp only [standing, windowed, inForce, onQuads, map_vmapi _ _ _ hf]

theorem onTor_standing {t : Nat} {f : Tor → Tor} (e : h.standing = a) (hf : ∀ e, (f e).offers = e.offers) :
    (h.onTor t f).standing = a := by
  rw [← e]
  simp only [standing, windowed, inForce, onTor, map_updN _ _ _ _ hf]

theorem whenB_standing {c : Bool} {f : Hw → Hw} (hf : (f h).standing = h.standing) (e : h.standing = a) : (h.whenB c f).standing = a :=
  (whenB_keep standing h c f hf).trans e

theorem each_standing {α : Type} {l : List α} {f : Hw → α → Hw} (hf : ∀ h x, (f h x).standing = h.standing) (e : h.standing = a) :
    (h.each l f).standing = a :=
  (each_keep standing f hf l h).trans e

theorem out_standing {o : Out} (ho : o.events = h.out.events) (e : h.standing = a) : ({ h with out := o } : Hw).standing = a := by
  rw [← e]
  simp only [standing, windowed, inForce, ho]

theorem smem_standing {sm : Vector SMem 45} {b : Bool} (e : h.standing = a) : ({ h with smem := sm, fifoSeen := b } : Hw).standing = a := e

/-! ### Alarms, reads, the bus -/

theorem ceaseAll_standing {c : Nat} (e : h.standing = a) : (h.ceaseAll c).standing = a :=
  each_standing (fun _ _ => cease_standing rfl) e

theorem trace_standing {p : Pkt} (e : h.standing = a) : (h.trace p).standing = a := by
  rw [trace_eq]
  exact e

theorem noteWord_standing {w : Nat} {ue : Bool} (e : h.standing = a) : (h.noteWord w ue).standing = a := by
  unfold noteWord
  split
  · exact e
  · dsimp only
    split
    · exact whenB_standing (alarm_standing rfl) e
    · exact e

theorem noteRead_standing {m : Mem} {b n : Nat} (e : h.standing = a) : (h.noteRead m b n).standing = a :=
  each_standing (fun h w => by
    split
    · exact noteWord_standing rfl
    · rfl) e

theorem fifoError_standing {p n : Nat} (e : h.standing = a) : (h.fifoError p n).standing = a := by
  unfold fifoError
  split
  · exact e
  · exact whenB_standing (alarm_standing rfl) e

theorem busAdd_standing {q r n : Nat} (e : h.standing = a) : (h.busAdd q r n).standing = a := onQuad_standing e fun _ => rfl

theorem busLeave_standing {q r n : Nat} (e : h.standing = a) : (h.busLeave q r n).standing = a :=
  onQuad_standing e fun x => by split <;> rfl

/-! ### The observation receivers and injected conversions -/

theorem obsSelect_standing {q i : Nat} (e : h.standing = a) : (h.obsSelect q i).standing = a :=
  busAdd_standing (onQuad_standing e fun _ => rfl)

theorem obsMove_standing {q i : Nat} (e : h.standing = a) : (h.obsMove q i).standing = a := by
  unfold obsMove
  dsimp only
  split
  · exact onQuad_standing e fun _ => rfl
  · split
    · exact onQuad_standing e fun _ => rfl
    · split
      · exact obsSelect_standing e
      · split
        · exact obsSelect_standing (onQuad_standing e fun _ => rfl)
        · exact onQuad_standing e fun _ => rfl

theorem injEnd_routes (x : Quad) (u : Nat) : (x.injEnd u).routes = x.routes := by
  unfold Quad.injEnd
  split <;> rfl

theorem injAt_routes (x : Quad) (u : Nat) : (x.injAt u).routes = x.routes := by
  unfold Quad.injAt
  dsimp only
  split
  · exact (injEnd_routes _ u).trans (injEnd_routes x u)
  · exact injEnd_routes x u

theorem injectAsk_standing {q ch : Nat} {cal : Bool} (e : h.standing = a) : (h.injectAsk q ch cal).standing = a := by
  have e' : (h.onQuad q fun x => x.injAt h.up).standing = a := onQuad_standing e fun x => injAt_routes x h.up
  unfold injectAsk
  dsimp only
  split
  · exact onQuad_standing e' fun _ => rfl
  · exact onQuad_standing e' fun _ => rfl

theorem calTake_standing {q : Nat} (e : h.standing = a) : (h.calTake q).standing = a := by
  unfold calTake
  dsimp only
  split
  · exact e
  · exact injectAsk_standing (onQuad_standing e fun _ => rfl)

/-! ### Treeline -/

theorem reserve_standing {k : Nat} {l : List (Nat × Nat)} (e : h.standing = a) : (h.reserve k l).standing = a := onTrl_standing e fun _ => rfl

theorem setCeilings_standing {first : Bool} (e : h.standing = a) : (h.setCeilings first).standing = a :=
  onQuads_standing (onTrl_standing e fun _ => rfl) fun _ _ => rfl

theorem reportCeilings_standing {k : Nat} {first : Bool} (e : h.standing = a) : (h.reportCeilings k first).standing = a := by
  unfold reportCeilings
  extract_lets p bad old h1 h2 h3 h4 above
  have e3 : h3.standing = a := each_standing (fun _ _ => cease_standing rfl)
    (each_standing (fun _ _ => alarm_standing rfl) (onTrl_standing e fun _ => rfl))
  have e4 : h4.standing = a := each_standing (fun _ _ => whenB_standing (cease_standing rfl) (onQuad_standing rfl fun _ => rfl)) e3
  clear_value above
  exact each_standing (fun _ _ => alarm_standing rfl) (onTrl_standing e4 fun _ => rfl)

theorem sendShares_standing (e : h.standing = a) : h.sendShares.standing = a := by
  unfold sendShares
  split
  · exact onTrl_standing (each_standing (fun h p => by split <;> rfl) e) fun _ => rfl
  · exact e

theorem tripNow_standing {sensor : Nat} (e : h.standing = a) : (h.tripNow sensor).standing = a :=
  whenB_standing (happen_standing (out_standing rfl (onPaths_standing (onTrl_standing rfl fun _ => rfl)))) (onTrl_standing e fun _ => rfl)

theorem takeSensors_standing {l : List (Fin 32 × Option Int)} (e : h.standing = a) : (h.takeSensors l).standing = a :=
  each_standing (fun _ _ => whenB_standing (tripNow_standing rfl) (onTrl_standing rfl fun _ => rfl)) e

theorem tripFrame_standing {k : Nat} (e : h.standing = a) : (h.tripFrame k).standing = a :=
  onTrl_standing (whenB_standing (onPaths_standing (onTrl_standing (happen_standing rfl) fun _ => rfl)) e) fun _ => rfl

theorem applyShare_standing (e : h.standing = a) : h.applyShare.standing = a :=
  onTrl_standing e fun t => by split <;> rfl

/-! ### Jobs of the engines -/

theorem failContext_standing {c : Nat} (e : h.standing = a) : (h.failContext c).standing = a :=
  each_standing (fun _ _ => alarm_standing rfl) (onCrn_standing e fun _ => rfl)

theorem failShare_standing {j : Job} (e : h.standing = a) : (h.failShare j).standing = a := failContext_standing e

theorem dpdDiscard_standing {q : Nat} {key : List Nat} (e : h.standing = a) : (h.dpdDiscard q key).standing = a :=
  onQuad_standing (onPaths_standing e) fun _ => rfl

theorem quantumEnds_standing {t : Nat} {j : Job} {good : Bool} (e : h.standing = a) : (h.quantumEnds t j good).standing = a := by
  unfold quantumEnds
  split
  · exact e
  · exact onCrn_standing e fun _ => rfl

theorem dropJob_standing {t : Nat} {j : Job} (e : h.standing = a) : (h.dropJob t j).standing = a :=
  whenB_standing (alarm_standing (failShare_standing (onTor_standing rfl fun _ => rfl)))
    (quantumEnds_standing (whenB_standing (dpdDiscard_standing rfl) (onTor_standing e fun _ => rfl)))

theorem loadValue_standing {m : Mem} {t : EngId} {b w : Nat} (e : h.standing = a) : (loadValue h m t b w).1.standing = a := by
  unfold loadValue
  split
  · exact e
  · exact whenB_standing (onPath_standing rfl) e
  · exact e
  · exact whenB_standing (onTor_standing rfl fun _ => rfl) (noteRead_standing e)

theorem loadReturn_standing {m : Mem} {t : EngId} (e : h.standing = a) : (loadReturn h m t).standing = a := by
  unfold loadReturn
  split
  · exact e
  · exact onTor_standing (loadValue_standing e) fun _ => rfl

theorem abandonAt_standing {m : Mem} {t : EngId} (e : h.standing = a) : (abandonAt h m t).standing = a := by
  refine onTor_standing (each_standing (fun _ _ => dropJob_standing rfl) ?_) fun _ => rfl
  split
  · exact whenB_standing (trace_standing rfl)
      (dropJob_standing (onTor_standing (each_standing (fun _ _ => loadReturn_standing rfl) e) fun _ => rfl))
  · exact e

/-! ### Massif -/

theorem readWeight_standing {m : Mem} {beam n b v : Nat} {dyn : Bool} (e : h.standing = a) :
    (h.readWeight m beam n b v dyn).standing = a :=
  whenB_standing (whenB_standing (alarm_standing rfl) (onMas_standing rfl)) (noteRead_standing e)

theorem readWeights_standing {m : Mem} {beam : Nat} {v : Option Nat} (e : h.standing = a) : (h.readWeights m beam v).standing = a := by
  unfold readWeights
  split
  · exact each_standing (fun _ _ => readWeight_standing rfl) e
  · split
    · exact each_standing (fun _ _ => readWeight_standing rfl) e
    · exact e

theorem weigh_standing {m : Mem} {p : DlItem → Bool} (e : h.standing = a) : (h.weigh m p).standing = a :=
  each_standing (fun h d => by
    split
    · exact onFhl_standing rfl
    · exact onFhl_standing (readWeights_standing rfl)) e

theorem weighTd_standing {m : Mem} (e : h.standing = a) : (h.weighTd m).standing = a := whenB_standing (weigh_standing rfl) e

theorem weighUl_standing {m : Mem} {k : Nat} (e : h.standing = a) : (h.weighUl m k).standing = a :=
  each_standing (fun h u => by
    dsimp only
    split
    · exact onFhl_standing rfl
    · exact onFhl_standing (readWeights_standing rfl)) e

theorem airTick_standing {m : Mem} {k : Nat} (e : h.standing = a) : (h.airTick m k).standing = a :=
  onFhl_standing (out_standing rfl (whenB_standing (onTrl_standing rfl fun _ => rfl) (onMas_standing (weighUl_standing (weigh_standing e)))))

theorem airClose_standing {m : Mem} {k : Nat} (e : h.standing = a) : (h.airClose m k).standing = a := weighTd_standing e

theorem takeLanes_standing {k : Nat} (e : h.standing = a) : (h.takeLanes k).standing = a :=
  onMas_standing (onMas_standing (onFhl_standing (onMas_standing (onFhl_standing e))))

theorem bufError_standing {x : Nat × Nat × Nat} (e : h.standing = a) : (h.bufError x).standing = a :=
  whenB_standing (alarm_standing rfl) (onFhl_standing e)

/-! ### Calibration -/

theorem releaseAdc_standing (e : h.standing = a) : h.releaseAdc.standing = a := onCal_standing (onQuads_standing e fun _ _ => rfl)

theorem calDrop_standing {q : Nat} (e : h.standing = a) : (h.calDrop q).standing = a := by
  refine onQuad_standing ?_ fun _ => rfl
  split
  · exact busLeave_standing e
  · exact e

theorem calPick_standing {q : Nat} (e : h.standing = a) : (h.calPick q).standing = a := by
  unfold calPick
  dsimp only
  split
  · exact e
  · split
    · exact busAdd_standing (onQuad_standing (calDrop_standing e) fun _ => rfl)
    · exact calDrop_standing e

theorem calPicks_standing (e : h.standing = a) : h.calPicks.standing = a :=
  whenB_standing (each_standing (fun _ _ => calPick_standing rfl) rfl) e

theorem calDrops_standing (e : h.standing = a) : h.calDrops.standing = a := each_standing (fun _ _ => calDrop_standing rfl) e

theorem calEnd_standing {cause : Nat} (e : h.standing = a) : (h.calEnd cause).standing = a := by
  unfold calEnd
  split
  · exact e
  · exact alarm_standing (onCal_standing (releaseAdc_standing (calDrops_standing e)))

theorem calEmpty_standing (e : h.standing = a) : h.calEmpty.standing = a := whenB_standing (calEnd_standing rfl) e

theorem calAcquired_standing (e : h.standing = a) : h.calAcquired.standing = a := by
  refine whenB_standing
    (whenB_standing (calPicks_standing (each_standing (fun h q => onQuad_standing ?_ fun _ => rfl) rfl)) (onCal_standing rfl)) e
  split
  · exact busLeave_standing rfl
  · rfl

theorem calStart_standing {k : Nat} (e : h.standing = a) : (h.calStart k).standing = a := by
  unfold calStart
  split
  · exact e
  · split
    · exact e
    · split
      · exact calEnd_standing e
      · exact calEmpty_standing (calAcquired_standing (each_standing (fun _ _ => calTake_standing rfl)
          (onCal_standing (onQuads_standing (onPaths_standing e) fun _ _ => rfl))))

theorem calAbortAt_standing {k : Nat} (e : h.standing = a) : (h.calAbortAt k).standing = a := whenB_standing (calEnd_standing rfl) e

theorem calSlotChanged_standing {k : Nat} (e : h.standing = a) : (h.calSlotChanged k).standing = a :=
  whenB_standing (calEnd_standing rfl) e

theorem calSideEnd_standing {tx : Bool} (e : h.standing = a) : (h.calSideEnd tx).standing = a := by
  unfold calSideEnd
  extract_lets ps geo bad any s0 s1 spread drift h1 h2 why h3 h4
  have e2 : h2.standing = a := whenB_standing (onCal_standing rfl) (each_standing (fun _ _ => onPath_standing rfl) e)
  split
  · exact calEnd_standing e2
  · exact whenB_standing (onCal_standing (releaseAdc_standing rfl)) (whenB_standing (calDrops_standing rfl) (onCal_standing e2))

theorem calFull_standing {tx : Bool} (e : h.standing = a) : (h.calFull tx).standing = a := whenB_standing (calSideEnd_standing rfl) e

theorem calLeave_standing {n k : Nat} (e : h.standing = a) : (h.calLeave n k).standing = a :=
  whenB_standing (calPicks_standing (calFull_standing (calFull_standing (calEmpty_standing (onPath_standing rfl))))) e

theorem calBegin_standing {k : Nat} (e : h.standing = a) : (h.calBegin k).standing = a :=
  each_standing (fun _ _ => onQuad_standing rfl fun _ => rfl) e

theorem nvmWriteOp_standing {b : Bytes} {j : Nat} (e : h.standing = a) : (h.nvmWriteOp b j).standing = a := by
  obtain ⟨l, hl⟩ := nvmWriteOp_changes h b j
  rw [hl]
  exact nvm_standing e

theorem startWrite_standing (e : h.standing = a) : h.startWrite.standing = a := by
  unfold startWrite
  dsimp only
  split
  · exact nvmWriteOp_standing e
  · exact e

theorem calCommit_standing {k : Nat} (e : h.standing = a) : (h.calCommit k).standing = a := by
  unfold calCommit
  split
  · exact e
  · split
    · split
      · exact e
      · refine whenB_standing (whenB_standing (startWrite_standing rfl) rfl) (onCal_standing (alarm_standing (onCal_standing ?_)))
        refine releaseAdc_standing (whenB_standing (each_standing (fun _ _ => onQuad_standing rfl fun _ => rfl) rfl) ?_)
        exact each_standing (fun _ _ => onPath_standing rfl) (each_standing (fun _ _ => onPath_standing rfl) e)
    · exact e

theorem calInject_standing (e : h.standing = a) : h.calInject.standing = a :=
  whenB_standing (each_standing (fun _ _ => whenB_standing (injectAsk_standing rfl) rfl) rfl) e

theorem obsRelease_standing (e : h.standing = a) : h.obsRelease.standing = a :=
  whenB_standing (each_standing (fun _ _ => whenB_standing (obsMove_standing (onQuad_standing rfl fun _ => rfl)) rfl) rfl) e

theorem countSolve_standing {k : Nat} (e : h.standing = a) : (h.countSolve k).standing = a := whenB_standing (onCal_standing rfl) e

/-! ### Step 1 -/

theorem enterSlot_standing {new k : Nat} (e : h.standing = a) : (h.enterSlot new k).standing = a := by
  unfold enterSlot
  extract_lets old oldR newR rx tx cuts marks flows up c ep mode h1 h2 h3 h4 lost
  split
  · exact e
  · have e2 : h2.standing = a := by
      unfold h2
      split
      · exact onFhl_standing e
      · exact e
    have e4 : h4.standing = a := by
      unfold h4
      clear_value newR
      split
      · exact onPaths_standing (onPaths_standing e2)
      · exact onPaths_standing e2
    exact onCrn_standing e4 fun _ => rfl

theorem settleStart_standing (e : h.standing = a) : h.settleStart.standing = a := by
  unfold settleStart
  split
  · exact e
  · split
    · exact onPaths_standing e
    · exact e

theorem declareS8_standing (e : h.standing = a) : h.declareS8.standing = a := ceaseAll_standing (onSta_standing e)

theorem applyFallback_standing {k : Nat} (e : h.standing = a) : (h.applyFallback k).standing = a := by
  unfold applyFallback
  extract_lets out gone ann mode h1 h2 h3
  have e3 : h3.standing = a := enterSlot_standing (each_standing (fun _ _ => alarm_standing rfl) e)
  split
  · exact e3
  · exact declareS8_standing (onSta_standing e3)

theorem applyAnnounced_standing {slot k : Nat} (e : h.standing = a) : (h.applyAnnounced slot k).standing = a := by
  unfold applyAnnounced
  extract_lets s7 h1
  have e1 : h1.standing = a := enterSlot_standing (onSta_standing e)
  split
  · exact onSta_standing e1
  · refine declareS8_standing ?_
    split
    · exact e1
    · exact settleStart_standing e1

theorem applySelect_standing {k : Nat} (e : h.standing = a) : (h.applySelect k).standing = a := by
  unfold applySelect
  split
  · exact e
  · exact enterSlot_standing e

theorem step1_standing {k : Nat} (e : h.standing = a) : (h.step1 k).standing = a := by
  unfold step1
  split
  · exact applyFallback_standing e
  · split
    · split
      · exact applyAnnounced_standing e
      · exact applySelect_standing e
    · exact applySelect_standing e

/-! ### Step 2 -/

theorem markChanged_standing {n : Nat} (e : h.standing = a) : (h.markChanged n).standing = a := onCrn_standing e fun _ => rfl

theorem retireDue_standing {k n : Nat} (e : h.standing = a) : (h.retireDue k n).standing = a := by
  unfold retireDue
  extract_lets due was cause write h1 up h2 h3
  split
  · exact e
  · split
    · exact onPath_standing (onPath_standing e)
    · exact markChanged_standing (calLeave_standing (whenB_standing (busAdd_standing rfl) (onPath_standing (onPath_standing e))))

theorem restoreDue_standing {k n : Nat} (e : h.standing = a) : (h.restoreDue k n).standing = a := by
  unfold restoreDue
  split
  · exact e
  · refine whenB_standing ?_ e
    split
    · exact alarm_standing (onPath_standing rfl)
    · exact markChanged_standing (onPath_standing (onPath_standing rfl))

theorem restoreStart_standing {k n : Nat} (e : h.standing = a) : (h.restoreStart k n).standing = a :=
  whenB_standing (whenB_standing (busAdd_standing rfl) (onPath_standing rfl)) e

theorem wornNoSpare_standing {kf : Nat} (e : h.standing = a) : (h.wornNoSpare kf).standing = a := onFhl_standing e

theorem step2_standing {k : Nat} (e : h.standing = a) : (h.step2 k).standing = a := by
  unfold step2
  extract_lets before all h1 h2 h3
  have e3 : h3.standing = a := each_standing (fun _ _ => restoreStart_standing rfl) (each_standing (fun _ _ => restoreDue_standing rfl)
    (each_standing (fun _ _ => retireDue_standing rfl) e))
  split
  · exact whenB_standing (wornNoSpare_standing rfl) e3
  · exact e3

/-! ### Steps 3 to 6 -/

theorem step3_standing {k : Nat} {frame : Bool} (e : h.standing = a) : (h.step3 k frame).standing = a :=
  whenB_standing (obsRelease_standing rfl) (calPicks_standing (calAcquired_standing (calStart_standing
    (whenB_standing (calInject_standing rfl) (calCommit_standing (calAbortAt_standing e))))))

theorem bankStep_standing {ref : Option Nat} {k n : Nat} (e : h.standing = a) : (h.bankStep ref k n).standing = a := by
  unfold bankStep
  dsimp only
  split
  · exact onPath_standing e
  · split
    · exact cease_standing (onPath_standing e)
    · exact e

theorem step4_standing {k : Nat} (e : h.standing = a) : (h.step4 k).standing = a := each_standing (fun _ _ => bankStep_standing rfl) e

theorem chains_standing {frame : Bool} (e : h.standing = a) : (h.chains frame).standing = a := onPaths_standing e

theorem femFrame_standing (e : h.standing = a) : h.femFrame.standing = a :=
  each_standing (fun _ _ => whenB_standing (busAdd_standing rfl) (whenB_standing (busAdd_standing rfl) rfl)) (busPut_standing e)

theorem step6_standing {k : Nat} {first : Bool} (e : h.standing = a) : (h.step6 k first).standing = a :=
  femFrame_standing (whenB_standing (sendShares_standing rfl) (onTrl_standing
    (whenB_standing (reportCeilings_standing (setCeilings_standing rfl)) (applyShare_standing (tripFrame_standing e))) fun _ => rfl))

theorem obsTick_standing {frame : Bool} {q : Nat} (e : h.standing = a) : (h.obsTick frame q).standing = a := by
  have left : (if (h.quad q).obs.state = 1 then h.busLeave q 1 (4 * q + (h.quad q).obs.cur) else h).standing = a := by
    split
    · exact busLeave_standing e
    · exact e
  unfold obsTick
  extract_lets o leave
  split
  · exact e
  · split
    · split
      · exact e
      · exact onQuad_standing left fun _ => rfl
    · split
      · split
        · split
          · exact e
          · exact obsSelect_standing (onQuad_standing e fun _ => rfl)
        · exact e
      · split
        · exact e
        · exact obsMove_standing left

/-! ### The end of a frame -/

theorem bankError_standing {n key reads : Nat} (e : h.standing = a) : (h.bankError n key reads).standing = a :=
  whenB_standing (whenB_standing (alarm_standing rfl) (onPath_standing rfl)) e

theorem bankErrors_standing {cc n : Nat} (e : h.standing = a) : (h.bankErrors cc n).standing = a :=
  each_standing (fun _ _ => bankError_standing rfl) e

theorem accrue_standing {n : Nat} (e : h.standing = a) : (h.accrue n).standing = a := by
  unfold accrue
  dsimp only
  split
  · exact e
  · exact whenB_standing (onPath_standing rfl) e

theorem accrueAll_standing (e : h.standing = a) : h.accrueAll.standing = a :=
  onPaths_standing (each_standing (fun _ _ => accrue_standing rfl) (onPaths_standing e))

theorem frameEnd_standing (e : h.standing = a) : h.frameEnd.standing = a :=
  smem_standing (onFhl_standing (onMas_standing (onQuads_standing (onPaths_standing (accrueAll_standing e)) fun _ _ => rfl)))

/-! ### Step 8 -/

theorem occStart_standing {k : Nat} (e : h.standing = a) : (h.occStart k).standing = a :=
  each_standing (fun _ _ => onCrn_standing rfl fun _ => rfl) (onCrn_standing e fun _ => rfl)

theorem ulStart_standing {k : Nat} (e : h.standing = a) : (h.ulStart k).standing = a := by
  unfold ulStart
  split
  · exact e
  · exact onFhl_standing e

theorem latchNext_standing {k : Nat} (e : h.standing = a) : (h.latchNext k).standing = a := whenB_standing (onMas_standing rfl) e

theorem biasBreak_standing {k n lead : Nat} {op : Nat × Nat} {frame : Bool} (e : h.standing = a) :
    (h.biasBreak k n lead op frame).standing = a := by
  unfold biasBreak
  extract_lets b on soon change
  split
  · split
    · exact onPath_standing e
    · split
      · exact onPath_standing e
      · exact e
  · split
    · exact onPath_standing e
    · split
      · split
        · exact onPath_standing e
        · exact e
      · exact onPath_standing e

theorem biasTick_standing {k n : Nat} {frame : Bool} (e : h.standing = a) : (h.biasTick k n frame).standing = a := by
  unfold biasTick
  extract_lets h1 safe
  have e1 : h1.standing = a := onPath_standing e
  split
  · exact e1
  · extract_lets op
    split
    · exact biasBreak_standing e1
    · exact onPath_standing e1

theorem tddPins_standing {k : Nat} (e : h.standing = a) : (h.tddPins k).standing = a := by
  unfold tddPins
  split
  · exact e
  · exact onPaths_standing e

theorem wearTick_standing {n : Nat} (e : h.standing = a) : (h.wearTick n).standing = a :=
  whenB_standing (whenB_standing (busAdd_standing rfl) (alarm_standing (onPath_standing rfl))) e

end
end Hw
end Sys2Proof.Machine
end

section
/-! What the steps of a tick do to the lines pulsed, the quanta granted and the capture set-ups (R27, R343, R224, R382): the operations
that do not leave all of it standing. -/
namespace Sys2Proof.Machine
namespace Hw

/-! ### Operations on the capture set-ups

They leave the time, what is in force, the lines pulsed and the grants. -/

section
variable {h : Hw} {a : InForce × List Nat × List Grant}

theorem windowed_of_standing {g : Hw} (hs : g.standing = h.standing) (e : h.windowed = a) : g.windowed = a :=
  (congrArg Prod.fst hs).trans e

theorem onCap_windowed {i : Nat} {f : Cap → Cap} (e : h.windowed = a) : (h.onCap i f).windowed = a := e

theorem cap_windowed {c : CapAll} (e : h.windowed = a) : ({ h with cap := c } : Hw).windowed = a := e

theorem whenB_windowed {c : Bool} {f : Hw → Hw} (hf : (f h).windowed = h.windowed) (e : h.windowed = a) : (h.whenB c f).windowed = a :=
  (whenB_keep windowed h c f hf).trans e

theorem each_windowed {α : Type} {l : List α} {f : Hw → α → Hw} (hf : ∀ h x, (f h x).windowed = h.windowed) (e : h.windowed = a) :
    (h.each l f).windowed = a :=
  (each_keep windowed f hf l h).trans e

theorem capOpen_windowed {s o : Nat} (e : h.windowed = a) : (h.capOpen s o).windowed = a := by
  unfold capOpen
  split
  · exact e
  · exact onCap_windowed e

theorem capArm_windowed {s : Nat} {c : CapSetup} (e : h.windowed = a) : (h.capArm s c).windowed = a :=
  capOpen_windowed (onCap_windowed (cap_windowed (cap_windowed e)))

theorem capStart_windowed {s cause hits : Nat} {c : CapSetup} {v : BitVec 64} (e : h.windowed = a) :
    (h.capStart s c cause hits v).windowed = a := by
  unfold capStart
  dsimp only
  split
  · split
    · exact onCap_windowed e
    · exact onCap_windowed e
  · exact onCap_windowed e
  · exact whenB_windowed (onCap_windowed rfl) e

theorem firePull_windowed {s hits : Nat} (e : h.windowed = a) : (h.firePull s hits).windowed = a := by
  unfold firePull
  extract_lets from_ k h1 h2
  have e1 : h1.windowed = a := by
    unfold h1
    split
    · split
      · exact onCap_windowed (cap_windowed e)
      · split
        · exact onCap_windowed e
        · exact e
    · exact onCap_windowed (cap_windowed e)
  exact e1

theorem capTrigger_windowed {s cause hits : Nat} {v : BitVec 64} (e : h.windowed = a) : (h.capTrigger s cause hits v).windowed = a := by
  unfold capTrigger
  split
  · exact e
  · exact whenB_windowed (whenB_windowed (capStart_windowed rfl) (whenB_windowed (firePull_windowed rfl) rfl)) e

theorem capOrder_windowed {k : Nat} {o : Nat × Nat × Bool} (e : h.windowed = a) : (capOrder k h o).windowed = a := by
  unfold capOrder
  extract_lets s x
  split
  · exact e
  · extract_lets leaves held
    split
    · split
      · exact e
      · split
        · exact whenB_windowed (capTrigger_windowed rfl) e
        · exact whenB_windowed (capArm_windowed rfl) e
    · split
      · exact e
      · split
        · exact onCap_windowed e
        · exact onCap_windowed e

theorem capTick_windowed {k : Nat} (e : h.windowed = a) : (capTick h k).windowed = a := by
  unfold capTick
  extract_lets due cap h1 h2
  have e2 : h2.windowed = a := each_windowed (fun _ _ => capOrder_windowed rfl) (cap_windowed e)
  exact whenB_windowed (each_windowed (fun _ _ => whenB_windowed (capTrigger_windowed rfl) rfl) rfl) e2

theorem capSend_windowed {m : Mem} {s : Nat} (e : h.windowed = a) : (h.capSend m s).windowed = a := by
  unfold capSend
  split
  · exact e
  · refine whenB_windowed (onCap_windowed (each_windowed (fun h g => ?_) rfl)) e
    exact windowed_of_standing (send_standing (onFhl_standing (noteRead_standing rfl))) rfl

end

/-! ### Event lines (R343) -/

theorem onTors_inForce (h : Hw) (f : Nat → Tor → Tor) (hf : ∀ i x, (f i x).offers = x.offers) : (h.onTors f).inForce = h.inForce := by
  simp only [inForce, onTors, map_vmapi _ _ _ hf]

theorem pulse_inForce (h : Hw) (line : Nat) : (h.pulse line).inForce = h.inForce :=
  (whenB_keep inForce _ _ _ (congrArg (·.1.1) (trace_standing rfl))).trans (onTors_inForce h _ fun _ _ => rfl)

theorem pulse_events (h : Hw) (line : Nat) : (h.pulse line).out.events = h.out.events ++ [line] :=
  whenB_keep (fun h => h.out.events) _ _ _ (congrArg (·.1.2.1) (trace_standing rfl))

theorem pulse_grants (h : Hw) (line : Nat) : (h.pulse line).trl.grants = h.trl.grants :=
  whenB_keep (fun h => h.trl.grants) _ _ _ (congrArg (·.1.2.2) (trace_standing rfl))

theorem pulse_cap (h : Hw) (line : Nat) : (h.pulse line).cap = h.cap :=
  whenB_keep cap _ _ _ (congrArg (·.2) (trace_standing rfl))

/-! ### The steps of the opening tick

From the opening of window k on, lines only pulse and only quanta of window k are granted. -/

/-- `g` follows `h` in the steps of tick k. -/
structure Follows (k : Nat) (h g : Hw) : Prop where
  inForce : g.inForce = h.inForce
  events : ∀ e ∈ h.out.events, e ∈ g.out.events
  grants : ∀ x ∈ g.trl.grants, x ∈ h.trl.grants ∨ x.window = k

section
variable {k : Nat} {a h g : Hw}

theorem Follows.refl (k : Nat) (h : Hw) : Follows k h h := ⟨rfl, fun _ => id, fun _ => .inl⟩

theorem Follows.trans (e : Follows k a h) (f : Follows k h g) : Follows k a g where
  inForce := f.inForce.trans e.inForce
  events x hx := f.events x (e.events x hx)
  grants x hx := (f.grants x hx).elim (e.grants x) .inr

theorem Follows.windowed (e : Follows k a h) (hw : g.windowed = h.windowed) : Follows k a g := by
  have h1 : g.inForce = h.inForce := congrArg (·.1) hw
  have h2 : g.out.events = h.out.events := congrArg (·.2.1) hw
  have h3 : g.trl.grants = h.trl.grants := congrArg (·.2.2) hw
  exact e.trans ⟨h1, by rw [h2]; exact fun _ => id, by rw [h3]; exact fun _ => .inl⟩

theorem Follows.standing (e : Follows k a h) (hs : g.standing = h.standing) : Follows k a g := e.windowed (congrArg (·.1) hs)

theorem whenB_follows {c : Bool} {f : Hw → Hw} (hf : Follows k h (f h)) (e : Follows k a h) : Follows k a (h.whenB c f) := by
  cases c
  · exact e
  · exact e.trans hf

theorem each_follows {α : Type} {l : List α} {f : Hw → α → Hw} (hf : ∀ h x, Follows k h (f h x)) (e : Follows k a h) :
    Follows k a (h.each l f) := by
  induction l generalizing h with
  | nil => exact e
  | cons x r ih => exact ih (e.trans (hf h x))

theorem pulse_follows {line : Nat} (e : Follows k a h) : Follows k a (h.pulse line) :=
  e.trans ⟨pulse_inForce .., by rw [pulse_events]; exact fun _ hx => List.mem_append_left _ hx, by rw [pulse_grants]; exact fun _ => .inl⟩

theorem post_follows {t : EngId} {job unit n : Nat} {mandatory : Bool} (e : Follows k a h) : Follows k a (h.post t job unit mandatory n) := by
  unfold post
  dsimp only
  split
  · exact e.standing (dropJob_standing rfl)
  · exact pulse_follows (e.standing (onTor_standing rfl fun _ => rfl))

/-! ### Step 7 -/

/-- A quantum granted is one of the window that opens (R224). -/
theorem grant_follows {c u : Nat} {n : Vector Nat 5 → Vector Nat 5} (e : Follows k a h) :
    Follows k a (h.onTrl fun t => { t with granted := n t.granted, grants := t.grants ++ [{ window := k, cls := c, unit := u }] }) :=
  e.trans ⟨rfl, fun _ => id, fun x hx => by
    rcases List.mem_append.mp hx with hx | hx
    · exact .inl hx
    · rw [List.mem_singleton.mp hx]
      exact .inr rfl⟩

theorem offer1_follows {c : Nat} {act : Hw → Cand → Hw} (hact : ∀ h x, Follows k h (act h x)) {b : Hw × Nat} {x : Cand}
    (e : Follows k a b.1) : Follows k a (offer1 k c act b x).1 := by
  unfold offer1
  extract_lets h lim h1 h2 h3
  split
  · exact e
  · split
    · have e1 : Follows k a h1 := grant_follows (n := fun v => updN v (c - 1) inc48) (e.standing (reserve_standing rfl))
      have e2 : Follows k a h2 := e1.trans (hact h1 x)
      show Follows k a h3
      unfold h3
      split
      · exact post_follows e2
      · exact e2
    · exact e.standing (onTrl_standing rfl fun _ => rfl)

theorem offer_follows {c : Nat} {l : List Cand} {act : Hw → Cand → Hw} (hact : ∀ h x, Follows k h (act h x)) (e : Follows k a h) :
    Follows k a (h.offer k c l act) := by
  have go : ∀ (l : List Cand) (b : Hw × Nat), Follows k a b.1 → Follows k a (l.foldl (offer1 k c act) b).1 := by
    intro l
    induction l with
    | nil => exact fun _ => id
    | cons x r ih => exact fun b hb => ih _ (offer1_follows hact hb)
  exact go l (h, 0) e

theorem step7_follows {m : Mem} (e : Follows k a h) : Follows k a (h.step7 m k) :=
  offer_follows (fun h _ => Follows.refl k h)
    (offer_follows (fun h _ => (Follows.refl k h).windowed (capSend_windowed rfl))
      (offer_follows (fun h _ => (Follows.refl k h).standing (onCrn_standing rfl fun _ => rfl))
        (offer_follows (fun h _ => (Follows.refl k h).standing (whenB_standing (calBegin_standing rfl) rfl))
          (offer_follows (fun h _ => (Follows.refl k h).standing (whenB_standing (onQuad_standing rfl fun _ => rfl)
            (onTrl_standing rfl fun _ => rfl))) e))))

/-! ### Step 8, and the steps together -/

theorem searchShares_follows {n : Nat} (e : Follows k a h) : Follows k a (h.searchShares n) :=
  each_follows (fun h o => by
    unfold shares1
    dsimp only
    split
    · exact post_follows (Follows.refl k h)
    · exact (Follows.refl k h).standing (failContext_standing rfl)) e

theorem step8_follows {m : Mem} {n : Nat} {frame : Bool} (e : Follows k a h) : Follows k a (h.step8 m n frame) := by
  unfold step8
  extract_lets h1 h2 up h3 h4 h5
  have e1 : Follows k a h1 := searchShares_follows (e.standing (occStart_standing rfl))
  have e4 : h4.standing = h1.standing := each_standing (fun _ _ => biasTick_standing rfl)
    (onPaths_standing (latchNext_standing (ulStart_standing (airTick_standing rfl))))
  have e5 : h5.standing = h1.standing := whenB_standing (tddPins_standing rfl) e4
  exact e1.standing (whenB_standing (each_standing (fun _ _ => wearTick_standing rfl) rfl) e5)

theorem steps_follows (h : Hw) (m : Mem) (k : Nat) (frame : Bool) : Follows k h (h.steps m k frame) := by
  unfold steps
  extract_lets slot stage h1 first h2 h3 h4 h5 h6 h7
  have e1 : h1.standing = h.standing := whenB_standing (step1_standing rfl) rfl
  have e2 : h2.standing = h.standing :=
    step2_standing (whenB_standing (calSlotChanged_standing (calAbortAt_standing rfl)) e1)
  have e5 : h5.standing = h.standing :=
    whenB_standing (step6_standing rfl) (chains_standing (step4_standing (step3_standing e2)))
  have e6 : h6.windowed = h.windowed :=
    capTick_windowed (windowed_of_standing (each_standing (fun _ _ => obsTick_standing rfl) rfl) (congrArg (·.1) e5))
  exact step8_follows (whenB_follows (step7_follows (Follows.refl k _)) ((Follows.refl k h).windowed e6))

end

end Hw
end Sys2Proof.Machine
end

section
/-! What a closing window does to the capture set-ups and the capture banks (R382), and bits that fail in memory (R355). -/
namespace Sys2Proof.Machine

/-! ### Memory -/

theorem Mem.get_upset (m : Mem) (u : Nat × Bool) (b : Nat) : (m.upset u).get b = m.get b := by
  unfold upset
  split <;> rfl

/-- A byte that every entry of a list leaves, the list leaves. -/
theorem Mem.get_foldl {α : Type} {l : List α} {f : Mem → α → Mem} {b : Nat} (m : Mem) (hf : ∀ m, ∀ x ∈ l, (f m x).get b = m.get b) :
    (l.foldl f m).get b = m.get b :=
  List.foldlRecOn l f (motive := fun m' : Mem => m'.get b = m.get b) rfl fun m' hm x hx => (hf m' x hx).trans hm

/-- Bits that fail are seen by reads alone: the bytes stand (log 73). -/
theorem Mem.get_upsets (m : Mem) (l : List (Nat × Bool)) (b : Nat) : (m.upsets l).get b = m.get b :=
  get_foldl m fun m u _ => get_upset m u b

/-- An address outside the four capture banks. -/
def OutsideBanks (b : Nat) : Prop := b < 0x40000000 ∨ 0x40800000 ≤ b

/-- A write inside the capture banks leaves every byte outside them: banks begin and end with words. -/
theorem Mem.get_write_banks (m : Mem) {a b : Nat} {l : Bytes} (hb : OutsideBanks b) (h1 : 0x40000000 ≤ a)
    (h2 : a + l.length ≤ 0x40800000) : (m.write a l).get b = m.get b :=
  get_write_out m a l b fun i hi => by
    unfold OutsideBanks at hb
    omega

/-! ### What a set-up writes -/

theorem iqBytes_len (z : IQ) : (Hw.iqBytes z).length = 4 := by simp [Hw.iqBytes]

theorem flatten_iqBytes_len (n : Nat) (f : Nat → IQ) : ((List.range n).map fun i => Hw.iqBytes (f i)).flatten.length = 4 * n := by
  simp [List.length_flatten, Function.comp_def, iqBytes_len, Nat.mul_comm]

/-- Samples behind the trigger sample's place end with the record. -/
theorem capWritten_snd_le (h : Hw) (c : CapSetup) (x : Cap) : (h.capWritten c x).2 ≤ c.length - c.pre := by
  unfold Hw.capWritten
  split
  · exact Nat.min_le_left _ _
  · exact Nat.zero_le _
  · exact Nat.zero_le _

/-- Of a sound set-up the flags take whole bytes, and PRE_TRIGGER lies in the record (Table 2.9). -/
theorem capOk_length {c : CapSetup} (h : capOk c = true) : c.length % 64 = 0 ∧ c.pre ≤ c.length := by
  simp only [capOk, Bool.and_eq_true, beq_iff_eq, decide_eq_true_eq] at h
  omega

/-- The samples of a record area lie in its bank: `us` units of `n` samples of 4 bytes, then their flags. -/
theorem capPut_get {c : CapSetup} {o n f b : Nat} {w : Nat × Nat} {see : Nat → Nat → IQ × Bool} (m : Mem) (hc : capOk c = true)
    (ho : o + capSize c ≤ 0x200000) (hw : w.2 ≤ c.length - c.pre) (hf : f < 4) (hb : OutsideBanks b) :
    (capPut c o n w see m f).get b = m.get b := by
  obtain ⟨h64, hpre⟩ := capOk_length hc
  have hflags : capUnitsOf c.tap * c.length / 8 = capUnitsOf c.tap * (c.length / 8) :=
    Nat.mul_div_assoc _ (Nat.dvd_of_mod_eq_zero (by omega))
  have hsize : o + (64 + 4 * (capUnitsOf c.tap * c.length) + capUnitsOf c.tap * (c.length / 8)) ≤ 0x200000 := by
    rw [← hflags, ← Nat.mul_assoc]
    exact ho
  unfold capPut
  extract_lets i0 i1 base us m1
  have hi : i0 ≤ i1 ∧ i1 ≤ c.length := by omega
  have hbase : base = 0x40000000 + f * 2097152 + o + 64 := rfl
  have hus : us = capUnitsOf c.tap := rfl
  rw [← hus] at hsize
  clear_value i0 i1 base us
  have hunit : ∀ j ∈ List.range us, ∀ k, j * k + k ≤ us * k := fun j hj k => by
    rw [← Nat.succ_mul]
    exact Nat.mul_le_mul_right k (List.mem_range.mp hj)
  have h1 : m1.get b = m.get b := by
    refine Mem.get_foldl m fun m' j hj => ?_
    have := hunit j hj c.length
    refine Mem.get_write_banks m' hb (by omega) ?_
    rw [flatten_iqBytes_len]
    omega
  refine (Mem.get_foldl m1 fun m' j hj => ?_).trans h1
  have := hunit j hj (c.length / 8)
  refine Mem.get_write_banks m' hb (by omega) ?_
  rw [List.length_map, List.length_range, ceilDiv, Nat.mul_assoc]
  omega

namespace Hw

theorem capRec_mem {h : Hw} {s : Nat} {c : CapSetup} (e : h.capRec s = some c) : c ∈ h.image.caps ∧ c.inst = s :=
  ⟨List.mem_of_find?_eq_some e, by simpa using List.find?_some e⟩

/-- With every record area inside its bank, the closing of a window writes to the capture banks alone. -/
theorem capWrite_get (h : Hw) (m : Mem) {b : Nat} (hb : OutsideBanks b)
    (hc : ∀ c ∈ h.image.caps, capOk c = true ∧ (h.capS c.inst).offset + capSize c ≤ 0x200000) : (h.capWrite m).get b = m.get b := by
  refine Mem.get_foldl m fun m' s _ => ?_
  split
  · rfl
  · next c e =>
    obtain ⟨hmem, rfl⟩ := capRec_mem e
    obtain ⟨hok, hfit⟩ := hc c hmem
    dsimp only
    split
    · rfl
    · refine Mem.get_foldl m' fun m'' f hf => ?_
      have hf4 : f < 4 := List.mem_range.mp (List.mem_of_mem_filter hf)
      exact capPut_get m'' hok hfit (capWritten_snd_le ..) hf4 hb

/-- With no set-up ready or recording nothing is written. -/
theorem capWrite_idle (h : Hw) (m : Mem) (hi : ∀ i, (h.capS i).readyAt = none ∧ (h.capS i).trig = none) : h.capWrite m = m := by
  refine List.foldlRecOn (List.range 32) _ (motive := fun m' : Mem => m' = m) rfl fun m' hm s _ => ?_
  obtain ⟨h1, h2⟩ := hi s
  dsimp only
  split
  · exact hm
  · rw [h1, h2]
    exact hm

/-! ### The window that closes

Its closing leaves what is in force. No set-up becomes ready or records by it, and none moves its record area. -/

end Hw

/-- A set-up keeps its record area, and its rest where it is at rest. -/
def Cap.Still (x y : Cap) : Prop :=
  y.offset = x.offset ∧ (x.readyAt = none ∧ x.trig = none → y.readyAt = none ∧ y.trig = none)

theorem Cap.Still.refl (x : Cap) : x.Still x := ⟨rfl, id⟩

namespace Hw

/-- `g` is `h` with more of its window closed. -/
structure Shuts (h g : Hw) : Prop where
  inForce : g.inForce = h.inForce
  caps : ∀ i, (h.capS i).Still (g.capS i)

section
variable {a h g : Hw}

theorem Shuts.refl (h : Hw) : Shuts h h := ⟨rfl, fun _ => Cap.Still.refl _⟩

theorem Shuts.trans (e : Shuts a h) (f : Shuts h g) : Shuts a g where
  inForce := f.inForce.trans e.inForce
  caps i := ⟨(f.caps i).1.trans (e.caps i).1, fun hi => (f.caps i).2 ((e.caps i).2 hi)⟩

theorem shuts_of_cap (hf : g.inForce = h.inForce) (hc : g.cap = h.cap) : Shuts h g :=
  ⟨hf, fun i => by
    rw [show g.capS i = h.capS i by simp only [capS, hc]]
    exact Cap.Still.refl _⟩

theorem Shuts.standing (e : Shuts a h) (hs : g.standing = h.standing) : Shuts a g :=
  e.trans (shuts_of_cap (congrArg (·.1.1) hs) (congrArg (·.2) hs))

theorem each_shuts {α : Type} {l : List α} {f : Hw → α → Hw} (hf : ∀ h x, Shuts h (f h x)) (e : Shuts a h) : Shuts a (h.each l f) := by
  induction l generalizing h with
  | nil => exact e
  | cons x r ih => exact ih (e.trans (hf h x))

theorem whenB_shuts {c : Bool} {f : Hw → Hw} (hf : Shuts h (f h)) (e : Shuts a h) : Shuts a (h.whenB c f) := by
  cases c
  · exact e
  · exact e.trans hf

theorem onCap_shuts {s : Nat} {f : Cap → Cap} (hf : (h.capS s).Still (f (h.capS s))) : Shuts h (h.onCap s f) := by
  refine ⟨rfl, fun i => ?_⟩
  by_cases e : i = s
  · subst e
    by_cases hi : i < 32
    · rw [show (h.onCap i f).capS i = f (h.capS i) from getN_updN_same _ _ _ hi]
      exact hf
    · rw [show (h.onCap i f).capS i = h.capS i by simp [onCap, capS, updN, hi]]
      exact Cap.Still.refl _
  · rw [show (h.onCap s f).capS i = h.capS i from getN_updN_ne _ _ _ e]
    exact Cap.Still.refl _

theorem pulse_shuts {line : Nat} (e : Shuts a h) : Shuts a (h.pulse line) := e.trans (shuts_of_cap (pulse_inForce ..) (pulse_cap ..))

theorem dmaSettle_shuts {c : Nat} (e : Shuts a h) : Shuts a (h.dmaSettle c) := by
  unfold dmaSettle
  dsimp only
  split
  · split
    · exact pulse_shuts (e.trans (shuts_of_cap rfl rfl))
    · exact e
  · exact e

theorem dmaFail_shuts {c : Nat} {x : Nat × Nat} (e : Shuts a h) : Shuts a (h.dmaFail c x) :=
  dmaSettle_shuts (e.trans (shuts_of_cap rfl rfl))

theorem dmaExpire_shuts (m : Mem) (h : Hw) (c : Nat) : Shuts h (dmaExpire m h c) := by
  unfold dmaExpire
  exact whenB_shuts (f := fun h => h.dmaFail c _) (dmaFail_shuts (Shuts.refl h)) (Shuts.refl h)

theorem capOpen_shuts (h : Hw) (s : Nat) : Shuts h (h.capOpen s (h.capS s).offset) := by
  unfold capOpen
  split
  · exact Shuts.refl h
  · exact onCap_shuts ⟨rfl, fun hi => ⟨rfl, hi.2⟩⟩

theorem recs_shuts {r : List CapRec} (e : Shuts a h) : Shuts a { h with cap := { h.cap with recs := r } } :=
  e.trans ⟨rfl, fun _ => Cap.Still.refl _⟩

theorem capClose_shuts (h : Hw) : Shuts h h.capClose := by
  refine each_shuts (fun h s => whenB_shuts (capOpen_shuts h s) (Shuts.refl h)) (each_shuts (fun h s => ?_) (Shuts.refl h))
  dsimp only
  split
  · exact Shuts.refl h
  · split
    · exact onCap_shuts ⟨rfl, id⟩
    · exact recs_shuts (onCap_shuts ⟨rfl, id⟩)

theorem capTake_shuts (h : Hw) : Shuts h h.capTake :=
  each_shuts (fun h s => by
    split
    · exact whenB_shuts (onCap_shuts ⟨rfl, id⟩) (Shuts.refl h)
    · exact Shuts.refl h) (Shuts.refl h)

/-- What the closing of window k does up to the falling away of its grants, and what follows that. -/
theorem closeWindow_shuts (h : Hw) (m : Mem) (w : WindowIn) (k : Nat) (frame : Bool) :
    Shuts h (h.closeWindow m w k frame) ∧ (h.closeWindow m w k frame).trl.grants = [] := by
  unfold closeWindow
  extract_lets h1 cc h2 h3 h4 h5 h6 h7 h8 h9 h10
  have e1 : Shuts h h1 := by
    refine Shuts.trans ?_ (capClose_shuts _)
    exact each_shuts (fun h c => dmaExpire_shuts m h c) ((Shuts.refl h).standing (each_standing (fun _ _ => abandonAt_standing rfl) rfl))
  have e2 : h2.standing = h1.standing :=
    each_standing (fun _ _ => bufError_standing rfl) (onFhl_standing (onPaths_standing (takeSensors_standing rfl)))
  have e3 : Shuts h h3 := by
    refine Shuts.trans ((e1.standing e2).standing ?_) (capTake_shuts _)
    exact onPaths_standing (airClose_standing (takeLanes_standing rfl))
  have e7 : h7.standing = h3.standing := by
    refine whenB_standing (onTrl_standing rfl fun _ => rfl) (onPaths_standing (each_standing (fun h x => ?_) ?_))
    · exact out_standing rfl (fifoError_standing rfl)
    · exact each_standing (fun _ _ => onPath_standing rfl) (each_standing (fun _ _ => bankErrors_standing rfl) rfl)
  have e8 : Shuts h h8 := by
    refine ((e3.standing e7).standing (countSolve_standing rfl)).trans (shuts_of_cap rfl rfl)
  have e10 : (h10.whenB frame frameEnd).standing = h8.standing :=
    whenB_standing (frameEnd_standing rfl) (onQuads_standing (onPaths_standing rfl) fun _ _ => rfl)
  exact ⟨e8.standing e10, congrArg (·.1.2.2) e10⟩

end
end Hw
end Sys2Proof.Machine
end

section
/-! A tick from S4 on (R27): the window before closes, the next one opens, what was written takes effect (R115, R225, R346). -/
namespace Sys2Proof.Machine

theorem getN_map {α β : Type} {n : Nat} (g : α → β) (v : Vector α n) {i : Nat} (hi : i < n) (d : α) (d' : β) :
    getN (v.map g) i d' = g (getN v i d) := by
  simp [getN, hi]

theorem map_vmapi_comm {α β : Type} {n : Nat} (g : α → β) (v : Vector α n) (f : α → α) (r : β → β) (hf : ∀ x, g (f x) = r (g x)) :
    (vmapi v fun _ x => f x).map g = (v.map g).map r := by
  ext j hj
  simp [vmapi, hf]

/-- What was written takes the place of what is in force. -/
def putInForce {α : Type} (x : α × Option α) : α × Option α := (x.2.getD x.1, none)

/-- The same for a vector. -/
def putAllInForce {α : Type} {n : Nat} (x : Vector α n × Vector (Option α) n) : Vector α n × Vector (Option α) n :=
  (vmapi x.1 fun i r => (getN x.2 i none).getD r, Vector.replicate n none)

/-- Window k opens at C = c. -/
def Tim.opened (t : Tim) (k c : Nat) : Tim := { t with k := k, tickC := c, open_ := true }

/-- What is in force in window k, by what was in force before it. -/
def InForce.opened (x : InForce) (k c : Nat) : InForce := { x with
  tim := x.tim.opened k c, limits := putAllInForce x.limits, quadRoutes := x.quadRoutes.map putInForce, crnRoutes := putAllInForce x.crnRoutes
  offers := x.offers.map putInForce }

/-! ### Up to the tick -/

namespace Hw

/-- A tick's place on the grid comes from the step, the old grid's base and the image alone (R257). -/
theorem tickAt_congr {g h : Hw} (hs : g.tim.stepped = h.tim.stepped) (hb : g.tim.gridBase = h.tim.gridBase)
    (hl : g.img.loaded = h.img.loaded) (k : Nat) : g.tickAt k = h.tickAt k := by
  simp only [tickAt, scs, image, hs, hb, hl]

/-- The time that passes moves neither the window nor the grid. -/
theorem elapse_grid (h : Hw) (d : Nat) :
    (h.elapse d).tim.open_ = h.tim.open_ ∧ (h.elapse d).tim.stepped = h.tim.stepped ∧ (h.elapse d).tim.gridBase = h.tim.gridBase := by
  by_cases hd : d = 0
  · subst hd
    exact ⟨rfl, rfl, rfl⟩
  · rw [elapse_tim h hd, elapsed]
    dsimp only
    split <;> exact ⟨rfl, rfl, rfl⟩

theorem toTick_inForce (h : Hw) : h.toTick.inForce = { h.inForce with tim := h.toTick.tim } := by
  simp [inForce, toTick]

theorem toTick_cap (h : Hw) : h.toTick.cap = h.cap := elapse_cap ..

theorem toTick_c (h : Hw) (h4 : 4 ≤ h.sta.stage) : h.toTick.tim.c = max h.tim.c (h.tickAt h.nextTick) := by
  have hc : h.clockOn = true := decide_eq_true h4
  simp only [toTick, elapse_c, hc, if_true]
  omega

theorem toTick_tickAt (h : Hw) (k : Nat) : h.toTick.tickAt k = h.tickAt k :=
  tickAt_congr (elapse_grid ..).2.1 (elapse_grid ..).2.2 (congrArg Img.loaded (elapse_img ..)) k

theorem Shuts.tickAt {h g : Hw} (e : Shuts h g) (k : Nat) : g.tickAt k = h.tickAt k :=
  have ht : g.tim = h.tim := congrArg InForce.tim e.inForce
  tickAt_congr (congrArg Tim.stepped ht) (congrArg Tim.gridBase ht) (congrArg InForce.loaded e.inForce) k

/-- Where a window was open the tick closes it, and its grants fall away. -/
theorem closed_shuts (h : Hw) (m : Mem) (w : WindowIn) :
    Shuts h.toTick (h.closed m w) ∧ (h.tim.open_ = true → (h.closed m w).trl.grants = []) := by
  unfold closed
  extract_lets g
  have hs : g.standing = h.toTick.standing := onQuads_standing (onPaths_standing rfl) fun _ _ => rfl
  have hg : Shuts h.toTick g := (Shuts.refl _).standing hs
  have ho : g.tim.open_ = h.tim.open_ := (congrArg (·.1.1.tim.open_) hs).trans (elapse_grid ..).1
  obtain ⟨hc, hn⟩ := closeWindow_shuts g m w g.tim.k (g.isFrame g.nextTick)
  refine ⟨whenB_shuts hc hg, fun e => ?_⟩
  rw [ho, e]
  exact hn

/-! ### The window opens -/

/-- Window k opens: what was written is in force, its lines pulse, and what is granted anew is for it. -/
structure Opens (k : Nat) (frame : Bool) (h g : Hw) : Prop where
  inForce : g.inForce = h.inForce.opened k (h.tickAt k)
  grants : ∀ x ∈ g.trl.grants, x ∈ h.trl.grants ∨ x.window = k
  tickLine : 0 ∈ g.out.events
  slotLine : k % 14 = 0 → 1 ∈ g.out.events
  frameLine : frame = true → 2 ∈ g.out.events

theorem Opens.follows {k : Nat} {frame : Bool} {h g g' : Hw} (e : Opens k frame h g) (f : Follows k g g') : Opens k frame h g' where
  inForce := f.inForce.trans e.inForce
  grants x hx := (f.grants x hx).elim (e.grants x) .inr
  tickLine := f.events _ e.tickLine
  slotLine hk := f.events _ (e.slotLine hk)
  frameLine hf := f.events _ (e.frameLine hf)

theorem onTrl_inForce (h : Hw) (f : Trl → Trl) : (h.onTrl f).inForce = { h.inForce with limits := (f h.trl).limits } := rfl

theorem onCrn_inForce (h : Hw) (f : Crn → Crn) : (h.onCrn f).inForce = { h.inForce with crnRoutes := (f h.crn).routes } := rfl

theorem onQuads_inForce {h : Hw} {f : Quad → Quad} {r : EngId × Option EngId → EngId × Option EngId}
    (hf : ∀ x, (f x).routes = r x.routes) :
    (h.onQuads fun _ => f).inForce = { h.inForce with quadRoutes := h.inForce.quadRoutes.map r } := by
  simp only [inForce, onQuads, map_vmapi_comm _ _ _ _ hf]

theorem onTors_inForce_map {h : Hw} {f : Tor → Tor} {r : Nat × Option Nat → Nat × Option Nat} (hf : ∀ x, (f x).offers = r x.offers) :
    (h.onTors fun _ => f).inForce = { h.inForce with offers := h.inForce.offers.map r } := by
  simp only [inForce, onTors, map_vmapi_comm _ _ _ _ hf]

theorem mem_pulse_events (h : Hw) (line : Nat) : line ∈ (h.pulse line).out.events := by
  simp [pulse_events]

theorem openWindow_opens (h : Hw) (k : Nat) (frame : Bool) : Opens k frame h (h.openWindow k frame) := by
  unfold openWindow
  extract_lets c h1 h2 h3 h4 h5 h6 h7 h8 n h9
  have slot : Follows k (h1.pulse 0) h2 := whenB_follows (pulse_follows (Follows.refl k _)) (Follows.refl k _)
  have frm : Follows k h2 h3 := whenB_follows (pulse_follows (Follows.refl k _)) (Follows.refl k _)
  have trc : Follows k h3 h4 := (Follows.refl k h3).standing (whenB_standing (trace_standing rfl) rfl)
  have all : Follows k h1 h4 := (pulse_follows (Follows.refl k h1)).trans (slot.trans (frm.trans trc))
  have line0 : 0 ∈ h4.out.events := (slot.trans (frm.trans trc)).events _ (mem_pulse_events ..)
  have line1 : k % 14 = 0 → 1 ∈ h4.out.events := fun hk => (frm.trans trc).events _ <| by
    have hs : h1.isSlotTick k = true := beq_iff_eq.mpr hk
    show 1 ∈ ((h1.pulse 0).whenB (h1.isSlotTick k) _).out.events
    rw [hs]
    exact mem_pulse_events ..
  have line2 : frame = true → 2 ∈ h4.out.events := fun hf => trc.events _ <| by
    subst hf
    exact mem_pulse_events ..
  clear_value h4
  have limits : h5.inForce = { h4.inForce with limits := putAllInForce h4.inForce.limits } := onTrl_inForce ..
  have contexts : h6.inForce = { h5.inForce with crnRoutes := putAllInForce h5.inForce.crnRoutes } := onCrn_inForce ..
  have quads : h7.inForce = { h6.inForce with quadRoutes := h6.inForce.quadRoutes.map putInForce } := onQuads_inForce fun _ => rfl
  have engines : h8.inForce = { h7.inForce with offers := h7.inForce.offers.map putInForce } := onTors_inForce_map fun _ => rfl
  have rest : h9.inForce = h8.inForce := onTrl_inForce ..
  refine ⟨Eq.trans (b := h9.inForce) rfl ?_, all.grants, line0, line1, line2⟩
  rw [rest, engines, quads, contexts, limits, all.inForce]
  rfl

/-- What a tick does, once the window before it has closed. -/
theorem tick_opens (h : Hw) (m : Mem) (w : WindowIn) : Opens h.nextTick (h.isFrame h.nextTick) (h.closed m w) (h.tick m w) :=
  (openWindow_opens ..).follows ((steps_follows ..).standing rfl)

end Hw
end Sys2Proof.Machine
end

section
/-! O25: what every tick does. -/
namespace Sys2Proof.Machine

/-- Before S4 there is no tick (R63): the command leaves all but the lines pulsed by the command before. -/
theorem exec_tick_below (s : State) (w : WindowIn) (hs : s.hw.Settled) (h4 : s.hw.sta.stage < 4) :
    exec (.tick w) s = .next { s with hw := s.hw.elapse 0 } := by
  show execTick w s = _
  have h4' : (s.hw.elapse 0).sta.stage < 4 := h4
  rw [execTick, okM_eq, if_pos h4', Hw.settle_of_settled _ (Hw.elapse_settled _ hs 0)]

/-- The memory after a tick: where a window closes, bits may have failed, and the set-ups that record write (R382, log 73). -/
def memAfterTick (h : Hw) (m : Mem) (w : WindowIn) : Mem :=
  if h.tim.open_ then (h.closed (m.upsets w.upsets) w).capWrite (m.upsets w.upsets) else m

/-- The hardware after a tick. -/
def hwAfterTick (h : Hw) (m : Mem) (w : WindowIn) : Hw := h.tick (if h.tim.open_ then m.upsets w.upsets else m) w

theorem exec_tick_from (s : State) (w : WindowIn) (h4 : 4 ≤ s.hw.sta.stage) :
    exec (.tick w) s = .next { s with
      hw := (hwAfterTick (s.hw.elapse 0) s.mem w).settle, mem := memAfterTick (s.hw.elapse 0) s.mem w } := by
  show execTick w s = _
  have h4' : ¬ (s.hw.elapse 0).sta.stage < 4 := by simpa using h4
  rw [execTick, okM_eq, if_neg h4']
  unfold memAfterTick hwAfterTick
  split <;> rfl

/-! ### Memory -/

theorem memAfterTick_closed (h : Hw) (m : Mem) (w : WindowIn) (ho : h.tim.open_ = false) : memAfterTick h m w = m := by
  simp [memAfterTick, ho]

theorem closed_still (h : Hw) (m : Mem) (w : WindowIn) (i : Nat) : (h.capS i).Still ((h.closed m w).capS i) := by
  rw [show h.capS i = h.toTick.capS i by simp only [Hw.capS, Hw.toTick_cap]]
  exact (h.closed_shuts m w).1.caps i

theorem closed_image (h : Hw) (m : Mem) (w : WindowIn) : (h.closed m w).image = h.image := by
  have e : (h.closed m w).img.loaded = h.img.loaded :=
    (congrArg InForce.loaded (h.closed_shuts m w).1.inForce).trans (congrArg InForce.loaded h.toTick_inForce)
  simp only [Hw.image, e]

/-- With no set-up ready or recording a tick changes memory only where bits have failed. -/
theorem memAfterTick_idle (h : Hw) (m : Mem) (w : WindowIn) (ho : h.tim.open_ = true)
    (hi : ∀ i : SetupId, (h.capS i).readyAt = none ∧ (h.capS i).trig = none) : memAfterTick h m w = m.upsets w.upsets := by
  have rests : ∀ i, (h.capS i).readyAt = none ∧ (h.capS i).trig = none := fun i => by
    by_cases h32 : i < 32
    · exact hi ⟨i, h32⟩
    · simp [Hw.capS, getN, h32]
  rw [memAfterTick, if_pos ho]
  exact Hw.capWrite_idle _ _ fun i => (closed_still ..).2 (rests i)

/-- Outside the capture banks a tick leaves every byte. -/
theorem memAfterTick_get (h : Hw) (m : Mem) (w : WindowIn) {b : Nat} (hb : OutsideBanks b)
    (hc : ∀ c ∈ h.image.caps, capOk c = true ∧ (h.capS c.inst).offset + capSize c ≤ 0x200000) :
    (memAfterTick h m w).get b = m.get b := by
  unfold memAfterTick
  split
  · refine (Hw.capWrite_get _ _ hb fun c hmem => ?_).trans (Mem.get_upsets ..)
    rw [closed_image] at hmem
    rw [(closed_still ..).1]
    exact hc c hmem
  · rfl

/-! ### What is in force -/

/-- After a tick that finds `h` window k, the next one, is open, and what was written is in force. -/
structure Ticked (h g : Hw) : Prop where
  inForce : g.inForce = { h.inForce with tim := h.toTick.tim }.opened h.nextTick (h.tickAt h.nextTick)
  grants : h.tim.open_ = true → ∀ x ∈ g.trl.grants, x.window = h.nextTick
  tickLine : 0 ∈ g.out.events
  slotLine : h.nextTick % 14 = 0 → 1 ∈ g.out.events
  frameLine : h.nextTick % h.perFrame = 0 → 2 ∈ g.out.events

theorem tick_ticked (h : Hw) (m : Mem) (w : WindowIn) : Ticked h (h.tick m w) := by
  obtain ⟨inForce, grants, tickLine, slotLine, frameLine⟩ := h.tick_opens m w
  obtain ⟨shuts, dropped⟩ := h.closed_shuts m w
  refine ⟨?_, fun ho x hx => ?_, tickLine, slotLine, fun hf => frameLine (beq_iff_eq.mpr hf)⟩
  · rw [inForce, shuts.inForce, shuts.tickAt, h.toTick_inForce, h.toTick_tickAt]
  · refine (grants x hx).resolve_left fun hx' => ?_
    rw [dropped ho] at hx'
    cases hx'

theorem Ticked.settle {h g : Hw} (e : Ticked h g) : Ticked h g.settle where
  inForce := by
    rw [← e.inForce]
    simp [Hw.inForce]
  grants := by simpa using e.grants
  tickLine := by simpa using e.tickLine
  slotLine := by simpa using e.slotLine
  frameLine := by simpa using e.frameLine

section
variable {h g : Hw} (e : Ticked h g)
include e

theorem Ticked.tim : g.tim = h.toTick.tim.opened h.nextTick (h.tickAt h.nextTick) := congrArg InForce.tim e.inForce

theorem Ticked.classLimit (c : Fin 5) : getN g.trl.classLimit c 0 = (getN h.trl.classNext c none).getD (getN h.trl.classLimit c 0) := by
  have hv : g.trl.classLimit = (putAllInForce h.trl.limits).1 := congrArg (·.limits.1) e.inForce
  rw [hv]
  exact getN_vmapi _ _ _ c.isLt

theorem Ticked.crnRoute (c : Fin 4) : getN g.crn.route c 0 = (getN h.crn.routeNext c none).getD (getN h.crn.route c 0) := by
  have hv : g.crn.route = (putAllInForce h.crn.routes).1 := congrArg (·.crnRoutes.1) e.inForce
  rw [hv]
  exact getN_vmapi _ _ _ c.isLt

theorem Ticked.quadRoute (q : QuadId) : (g.quad q).route = (h.quad q).routeNext.getD (h.quad q).route := by
  have hv : g.quads.map Quad.routes = (h.quads.map Quad.routes).map putInForce := congrArg (·.quadRoutes) e.inForce
  have hq : (g.quad q).routes = putInForce (h.quad q).routes := by
    rw [Hw.quad, ← getN_map Quad.routes _ q.isLt _ (0, none), hv, getN_map putInForce _ q.isLt (0, none),
      getN_map Quad.routes _ q.isLt {}]
    rfl
  exact congrArg Prod.fst hq

theorem Ticked.statOffer (t : EngId) : (g.eng t).statOffer = (h.eng t).statNext.getD (h.eng t).statOffer := by
  have hv : g.tor.map Tor.offers = (h.tor.map Tor.offers).map putInForce := congrArg (·.offers) e.inForce
  have ht : (g.eng t).offers = putInForce (h.eng t).offers := by
    rw [Hw.eng, ← getN_map Tor.offers _ t.isLt _ (0, none), hv, getN_map putInForce _ t.isLt (0, none),
      getN_map Tor.offers _ t.isLt {}]
    rfl
  exact congrArg Prod.fst ht

end

/-- Settles O25. The window that closes leaves what is in force (`closed_shuts`), the opening changes it once (`openWindow_opens`), and
the steps that follow leave it (`steps_follows`). -/
theorem tickOpensWindow : Obligations.TickOpensWindow := by
  intro s w hs
  refine ⟨fun h4 => ?_, exec_tick_below s w hs⟩
  have e : Ticked (s.hw.elapse 0) (hwAfterTick (s.hw.elapse 0) s.mem w).settle := (tick_ticked ..).settle
  refine ⟨_, exec_tick_from s w h4, rfl, memAfterTick_closed _ _ w, memAfterTick_idle _ _ w, fun hc b hb => memAfterTick_get _ _ w hb hc, ?_⟩
  generalize (hwAfterTick (s.hw.elapse 0) s.mem w).settle = g at e
  exact ⟨congrArg Tim.k e.tim, congrArg Tim.tickC e.tim, (congrArg Tim.c e.tim).trans (Hw.toTick_c _ h4), congrArg Tim.open_ e.tim,
    (congrArg Tim.stepped e.tim).trans (Hw.elapse_grid ..).2.1, congrArg InForce.sys e.inForce, congrArg InForce.loaded e.inForce,
    e.tickLine, e.slotLine, e.frameLine, e.classLimit, e.quadRoute, e.crnRoute, e.statOffer, e.grants⟩

end Sys2Proof.Machine
end

section
/-! The Lookout port and JTAG (R30, R391, R392, R393, R395, Table 18.1): what a READ finds in the regions of the address space. Settles
O42. -/
namespace Sys2Proof.Machine

/-! ### Regions -/

/-- The shared store of Table 16.1. -/
theorem region_shared {a : Nat} (h1 : 0x20000000 ≤ a) (h2 : a < 0x21000000) : region a = .shared (a - 0x20000000) := by
  unfold region
  rw [if_neg (by omega), if_neg (by omega), if_pos ⟨h1, h2⟩]

/-- Between the capture banks and the observation registers nothing is mapped (Table 16.1). -/
theorem region_unmapped {a : Nat} (h1 : 0x50000000 ≤ a) (h2 : a < 0x80000000) : region a = .unmapped := by
  unfold region
  simp only [ite_cond_eq_false, eq_false (show ¬ (0x10000000 ≤ a ∧ a < 0x10400000) by omega),
    eq_false (show ¬ (0x11000000 ≤ a ∧ a < 0x11100000) by omega), eq_false (show ¬ (0x20000000 ≤ a ∧ a < 0x21000000) by omega),
    eq_false (show ¬ (0x30000000 ≤ a ∧ a < 0x30100000) by omega), eq_false (show ¬ (0x31000000 ≤ a ∧ a < 0x31040000) by omega),
    eq_false (show ¬ (0x32000000 ≤ a ∧ a < 0x32180000) by omega), eq_false (show ¬ (0x33000000 ≤ a ∧ a < 0x33180000) by omega),
    eq_false (show ¬ (0x40000000 ≤ a ∧ a < 0x40800000) by omega),
    eq_false (show ¬ (0x80000000 ≤ a ∧ a < 0x81000000 ∧ obsMapped (a - 0x80000000) = true) by omega)]

/-- A word that a range touches begins below the range's end, and not before the word of its first byte. -/
theorem Mem.mem_words {a n w : Nat} (h : w ∈ Mem.words a n) : a / 8 ≤ w ∧ 8 * w < a + n := by
  unfold words at h
  split at h
  · cases h
  · obtain ⟨k, hk, rfl⟩ := List.mem_map.mp h
    have := List.mem_range.mp hk
    omega

/-- Without a stored error every word reads sound. -/
theorem Mem.err_of_bad_nil {m : Mem} (h : m.bad = []) (w : Nat) : m.err w = none := by
  simp [err, h, assoc]

namespace Hw

/-! ### Reads of a region -/

/-- What no entry of a list changes, the list leaves. -/
theorem each_still {α : Type} (h : Hw) (l : List α) (f : Hw → α → Hw) (hf : ∀ x ∈ l, f h x = h) : h.each l f = h := by
  induction l with
  | nil => rfl
  | cons x r ih =>
    rw [each_cons, hf x (List.mem_cons_self ..)]
    exact ih fun y hy => hf y (List.mem_cons_of_mem _ hy)

/-- A range whose words hold no error, or lie in no protected memory, is read without a note. -/
theorem noteRead_still (h : Hw) (m : Mem) (a n : Nat) (hw : ∀ w ∈ Mem.words a n, m.err w = none ∨ secded (8 * w) = none) :
    h.noteRead m a n = h := by
  refine each_still h _ _ fun w hm => ?_
  rcases hw w hm with he | he
  · simp only [he]
  · split
    · simp [noteWord, he]
    · rfl

/-- A range of sound memory is read without a note. -/
theorem noteRead_sound_bad (h : Hw) {m : Mem} (hb : m.bad = []) (a n : Nat) : h.noteRead m a n = h :=
  noteRead_still h m a n fun w _ => .inl (Mem.err_of_bad_nil hb w)

/-- What the bytes of a range read as. -/
theorem spaceBytes_of_some {h : Hw} {m : Mem} {a n : Nat} {f : Nat → Byte} (hf : ∀ i < n, h.spaceByte m (a + i) = some (f i)) :
    h.spaceBytes m a n = (List.range n).map f ∧ h.anyUnmapped m a n = false := by
  constructor
  · exact List.map_congr_left fun i hi => by rw [hf i (List.mem_range.mp hi), Option.getD_some]
  · exact List.any_eq_false.mpr fun i hi => by simp [hf i (List.mem_range.mp hi)]

/-- Sound shared store reads its bytes. -/
theorem spaceByte_shared (h : Hw) {m : Mem} {a : Nat} (h1 : 0x20000000 ≤ a) (h2 : a < 0x21000000) (hb : m.bad = []) :
    h.spaceByte m a = some (m.get a) := by
  simp [spaceByte, region_shared h1 h2, Mem.err_of_bad_nil hb]

theorem space_shared (h : Hw) {m : Mem} {a n : Nat} (h1 : 0x20000000 ≤ a) (h2 : a + n ≤ 0x21000000) (hb : m.bad = []) :
    h.spaceBytes m a n = (List.range n).map (fun i => m.get (a + i)) ∧ h.anyUnmapped m a n = false :=
  spaceBytes_of_some fun i hi => spaceByte_shared h (by omega) (by omega) hb

theorem spaceByte_unmapped (h : Hw) (m : Mem) {a : Nat} (h1 : 0x50000000 ≤ a) (h2 : a < 0x80000000) : h.spaceByte m a = none := by
  simp [spaceByte, region_unmapped h1 h2]

/-- An unmapped range reads zeros, and is found to be unmapped. -/
theorem space_unmapped (h : Hw) (m : Mem) {a n : Nat} (h1 : 0x50000000 ≤ a) (h2 : a + n ≤ 0x80000000) (hn : 0 < n) :
    h.spaceBytes m a n = List.replicate n 0 ∧ h.anyUnmapped m a n = true := by
  constructor
  · refine List.eq_replicate_iff.mpr ⟨by simp [spaceBytes], fun b hb => ?_⟩
    obtain ⟨i, hi, rfl⟩ := List.mem_map.mp hb
    have := List.mem_range.mp hi
    rw [spaceByte_unmapped h m (by omega) (by omega), Option.getD_none]
  · exact List.any_eq_true.mpr ⟨0, List.mem_range.mpr hn, by rw [spaceByte_unmapped h m (by omega) (by omega), Option.isNone_none]⟩

theorem noteRead_unmapped (h : Hw) (m : Mem) {a n : Nat} (h1 : 0x50000000 ≤ a) (h2 : a + n ≤ 0x80000000) : h.noteRead m a n = h := by
  refine noteRead_still h m a n fun w hw => .inr ?_
  have := Mem.mem_words hw
  rw [secded, region_unmapped (by omega) (by omega)]

/-- The byte of LKO_SPI_READS (Table 18.12) that stands at an address. -/
theorem spaceByte_spiReads (h : Hw) (m : Mem) {i : Nat} (hi : i < 4) :
    h.spaceByte m (0x8050000C + i) = some (BitVec.ofNat 8 (h.lko.spiReads % 2 ^ 32 / 256 ^ i)) := by
  match i, hi with
  | 0, _ => rfl
  | 1, _ => rfl
  | 2, _ => rfl
  | 3, _ => rfl

theorem space_spiReads (h : Hw) (m : Mem) :
    h.spaceBytes m 0x8050000C 4 = le 4 h.lko.spiReads ∧ h.anyUnmapped m 0x8050000C 4 = false := by
  obtain ⟨hb, hu⟩ := spaceBytes_of_some (h := h) (m := m) (a := 0x8050000C) fun i hi => spaceByte_spiReads h m hi
  refine ⟨hb.trans ?_, hu⟩
  show [_, _, _, _] = [_, _, _, _]
  simp only [List.cons.injEq, and_true]
  refine ⟨?_, ?_, ?_, ?_⟩ <;> apply BitVec.eq_of_toNat_eq <;> simp only [BitVec.toNat_ofNat] <;> omega

theorem noteRead_observation (h : Hw) (m : Mem) : h.noteRead m 0x8050000C 4 = h := by
  refine noteRead_still h m _ _ fun w hw => .inr ?_
  have : w = 0x8050000C / 8 ∨ w = 0x8050000C / 8 + 1 := by
    have := Mem.mem_words hw
    omega
  rcases this with rfl | rfl <;> rfl

/-- The low byte of LKO_STATUS (Table 18.12): LIVE, BAD_ADDR and TIME_STEPPED. -/
theorem lkoStatus_low (h : Hw) :
    BitVec.ofNat 8 h.lkoStatus = BitVec.ofNat 8 (1 + 2 * b2n h.lko.badAddr + 4 * b2n h.tim.stepped) := by
  apply BitVec.eq_of_toNat_eq
  simp only [lkoStatus, pack, BitVec.toNat_ofNat]
  omega

/-! ### The port's commands -/

/-- The state of the port after a READ (R356 to R358, R392): its bytes on the line, the transaction counted, BAD_ADDR as it found. -/
def readDone (h : Hw) (bad : Bool) (b : Bytes) : Hw :=
  { h with lko := { h.lko with badAddr := bad, spiReads := inc h.lko.spiReads, sdo := b } }

end Hw

/-- An effect that gives settled registers gives the next state. -/
theorem ok_becomes (s : State) (dt : Nat) {f : Hw → Hw} {g : Hw} (hf : f (s.hw.elapse dt) = g) (hg : g.Settled) :
    ok s dt f = .next { s with hw := g } := by
  subst hf
  exact ok_quiet s dt f hg

/-- The same of an effect under a condition that holds. -/
theorem ok_when (s : State) (dt : Nat) {c : Hw → Bool} {f : Hw → Hw} {g : Hw} (hc : c (s.hw.elapse dt) = true)
    (hf : f (s.hw.elapse dt) = g) (hg : g.Settled) : ok s dt (fun h => h.whenB (c h) f) = .next { s with hw := g } :=
  ok_becomes s dt (by rw [hc]; exact hf) hg

/-- A READ from S1 on: the bytes found, and whether one lay nowhere, where the range raises no note. -/
theorem exec_lookoutRead (s : State) (dt n : Nat) (a : Word) (bad : Bool) (b : Bytes) (hs : s.hw.Settled) (h1 : 1 ≤ s.hw.sta.stage)
    (hb : (if a.toNat % 4 != 0 then List.replicate n 0 else (s.hw.elapse dt).spaceBytes s.mem a.toNat n) = b)
    (hu : ((a.toNat % 4 != 0) || (s.hw.elapse dt).anyUnmapped s.mem a.toNat n) = bad)
    (hn : a.toNat % 4 = 0 → (s.hw.elapse dt).noteRead s.mem a.toNat n = s.hw.elapse dt) :
    exec (.lookoutRead dt a n) s = .next { s with hw := (s.hw.elapse dt).readDone bad b } := by
  show execLookoutRead dt a n s = _
  unfold execLookoutRead
  refine ok_when s dt (decide_eq_true (by simpa using h1)) ?_ (Hw.elapse_settled _ hs dt)
  have hn' : (s.hw.elapse dt).whenB (!(a.toNat % 4 != 0)) (fun h => h.noteRead s.mem a.toNat n) = s.hw.elapse dt := by
    by_cases e : a.toNat % 4 = 0
    · rw [e]
      exact hn e
    · rw [bne_iff_ne.mpr e]
      rfl
  dsimp only
  rw [hn', hb, hu]
  rfl

/-- An aligned READ of a range that raises no note. -/
theorem exec_lookoutRead_aligned (s : State) (dt n : Nat) (a : Word) (bad : Bool) (b : Bytes) (hs : s.hw.Settled) (h1 : 1 ≤ s.hw.sta.stage)
    (ha : a.toNat % 4 = 0)
    (hb : (s.hw.elapse dt).spaceBytes s.mem a.toNat n = b ∧ (s.hw.elapse dt).anyUnmapped s.mem a.toNat n = bad)
    (hn : (s.hw.elapse dt).noteRead s.mem a.toNat n = s.hw.elapse dt) :
    exec (.lookoutRead dt a n) s = .next { s with hw := (s.hw.elapse dt).readDone bad b } :=
  exec_lookoutRead s dt n a bad b hs h1 (by simp [ha, hb.1]) (by simp [ha, hb.2]) fun _ => hn

/-- Settles O42: what a READ finds is that of the region that its range lies in; the other transactions change one register each. -/
theorem lookoutPort : Obligations.LookoutPort := by
  intro s dt n hs h1
  have h1' : decide (1 ≤ (s.hw.elapse dt).sta.stage) = true := decide_eq_true (by simpa using h1)
  have hsh := Hw.elapse_settled _ hs dt
  refine ⟨fun a ha => ?misaligned, fun a ha hlo hhi hbad => ?shared, fun a ha hlo hhi hn => ?unmapped, ?spiReads, ?status, fun op hr hst => ?other,
    ?idcode⟩
  case misaligned => exact exec_lookoutRead s dt n a _ _ hs h1 (by simp [ha]) (by simp [ha]) fun e => absurd e ha
  case shared =>
    exact exec_lookoutRead_aligned s dt n a _ _ hs h1 ha (Hw.space_shared _ hlo hhi hbad) (Hw.noteRead_sound_bad _ hbad _ _)
  case unmapped =>
    exact exec_lookoutRead_aligned s dt n a _ _ hs h1 ha (Hw.space_unmapped _ _ hlo hhi hn) (Hw.noteRead_unmapped _ _ hlo hhi)
  case spiReads =>
    exact exec_lookoutRead_aligned s dt 4 0x8050000C _ _ hs h1 rfl (Hw.space_spiReads _ _) (Hw.noteRead_observation _ _)
  case status =>
    show execLookoutStatus dt n s = _
    unfold execLookoutStatus
    refine ok_when s dt h1' ?_ hsh
    rw [Hw.lkoStatus_low]
  case other =>
    show execLookoutUnknownOpcode dt op s = _
    unfold execLookoutUnknownOpcode
    exact ok_when s dt (by rw [h1', bne_iff_ne.mpr hr, bne_iff_ne.mpr hst]; rfl) rfl hsh
  case idcode =>
    show execJtagAccess dt true s = _
    unfold execJtagAccess
    exact ok_when s dt (by rw [h1']; rfl) rfl hsh

end Sys2Proof.Machine
end

section
/-! The message types beside the two that carry records (R30, R183, R208, R209, R283, Table 9.2): what port A answers, counts and refuses
from S5 on. Settles O50. -/
namespace Sys2Proof.Machine
namespace Hw

/-! ### Arrival and answers -/

/-- From S5 on a message arrives at port A while it has link (R180). -/
theorem arrives_portA (h : Hw) (h5 : 5 ≤ h.sta.stage) (hl : (h.port 0).linkUp = true) : h.arrives 0 = true := by
  simp [arrives, h5, hl]

theorem elapse_arrives_portA (h : Hw) (dt : Nat) (h5 : 5 ≤ h.sta.stage) (hl : (h.port 0).linkUp = true) :
    (h.elapse dt).arrives 0 = true :=
  arrives_portA _ (by simpa using h5) (by simpa [port] using hl)

/-- A frame of port A that is not forwarded waits among its own (R211). -/
theorem send_own (h : Hw) (f : TxFrame) (hp : f.port = 0) (hf : f.passed = false) :
    h.send f = { h with out := { h.out with
      tx := h.out.tx ++ [f], portA := { h.out.portA with own := h.out.portA.own ++ [f] } } } := by
  simp [send, Egress.put, hp, hf]

/-- An element of an indication (Table 9.15), its reason condition 0. -/
theorem element_of_zero (id num info : Nat) : element id 0 num info = be 2 id ++ be 2 num ++ be 4 info := by
  simp [element]

/-- An indication of two elements joins the queue, or is lost where 256 wait (R205). -/
theorem indicate_pair (h : Hw) (dst : Nat) (vlan : Option Nat) (x y : Bytes) :
    (h.indicate dst vlan 2 [x, y] = { h with fhl := { h.fhl with
      queue := (h.indicate dst vlan 2 [x, y]).fhl.queue, indCount := (h.indicate dst vlan 2 [x, y]).fhl.indCount
      refusalLost := (h.indicate dst vlan 2 [x, y]).fhl.refusalLost } }) ∧
    (h.fhl.queue.length < 256 →
      (h.indicate dst vlan 2 [x, y]).fhl.indCount = (h.fhl.indCount + 1) % 256 ∧
      (h.indicate dst vlan 2 [x, y]).fhl.refusalLost = h.fhl.refusalLost ∧
      (h.indicate dst vlan 2 [x, y]).fhl.queue = h.fhl.queue ++
        [.indication 0 dst vlan (be 1 h.fhl.indCount ++ [0x02] ++ be 1 h.fhl.indCount ++ [2] ++ x ++ y)]) ∧
    (256 ≤ h.fhl.queue.length → (h.indicate dst vlan 2 [x, y]).fhl.queue = h.fhl.queue ∧
      (h.indicate dst vlan 2 [x, y]).fhl.refusalLost = min (2 ^ 32 - 1) (h.fhl.refusalLost + 1)) := by
  unfold indicate
  split
  · next hf => exact ⟨rfl, fun hlt => absurd hf (Nat.not_le.mpr hlt), fun _ => ⟨rfl, rfl⟩⟩
  · next hf =>
    refine ⟨rfl, fun _ => ⟨rfl, rfl, ?_⟩, fun hge => absurd hge hf⟩
    have h2 : be 1 2 = [2] := rfl
    simp [h2]

/-- `t` is `g` after a message of another type was refused with a reason: counted under it, and reported with sequence number 0 and
tick 0 (Table 9.15, log 40). -/
def refusedOther (g t : Hw) (src : Nat) (vlan : Option Nat) (reason : Nat) : Prop :=
  t = { g with fhl := { g.fhl with
    queue := t.fhl.queue, indCount := t.fhl.indCount, refusalLost := t.fhl.refusalLost
    refused := updN g.fhl.refused reason fun c => min (2 ^ 32 - 1) (c + 1) } } ∧
  (g.fhl.queue.length < 256 → t.fhl.queue = g.fhl.queue ++ [.indication 0 src vlan (be 1 g.fhl.indCount ++ [0x02] ++ be 1 g.fhl.indCount ++
    [2] ++ (be 2 0xFFFF ++ be 2 (0x400 + reason) ++ be 4 0xFF00FF00) ++ (be 2 0xFFFF ++ be 2 0x4FF ++ be 4 0))])

theorem refuseOther_refusedOther (g : Hw) (src : Nat) (vlan : Option Nat) (reason : Nat) :
    refusedOther g (g.refuseOther src vlan reason) src vlan reason := by
  obtain ⟨hkeep, hroom, -⟩ := indicate_pair (g.onFhl fun f => { f with refused := updN f.refused reason inc }) src vlan
    (element 0xFFFF 0 (0x400 + reason) (0xFF * 2 ^ 24 + 0xFF00)) (element 0xFFFF 0 0x4FF 0)
  refine ⟨hkeep, fun hlt => ?_⟩
  obtain ⟨-, -, hq⟩ := hroom hlt
  rw [refuseOther, hq, element_of_zero, element_of_zero]
  rfl

theorem refuseOther_settled (g : Hw) (hg : g.Settled) (src : Nat) (vlan : Option Nat) (reason : Nat) :
    (g.refuseOther src vlan reason).Settled := by
  rw [(refuseOther_refusedOther g src vlan reason).1]
  exact hg

/-- A remote memory access by port A is answered at once, and one more is outstanding (R208). -/
theorem rmaAnswer_portA (h : Hw) (r : Rma) (hp : r.port = 0) (code : Nat) (data : Bytes) :
    h.rmaAnswer r code data = { h with
      fhl := { h.fhl with rmaPending := h.fhl.rmaPending + 1 }
      out := { h.out with
        tx := h.out.tx ++ [.rma 0 r.src r.id code r.element r.address data]
        portA := { h.out.portA with own := h.out.portA.own ++ [.rma 0 r.src r.id code r.element r.address data] } } } := by
  rw [rmaAnswer, hp, send_own _ _ rfl rfl]
  rfl

end Hw

/-- A refused message of another type, as the next state. -/
theorem ok_refusedOther (s : State) (dt : Nat) {f : Hw → Hw} {g : Hw} {src : Nat} {vlan : Option Nat} {reason : Nat}
    (hf : f (s.hw.elapse dt) = g.refuseOther src vlan reason) (hg : g.Settled) :
    ∃ t, ok s dt f = .next t ∧ t.pending = s.pending ∧ t.mem = s.mem ∧ Hw.refusedOther g t.hw src vlan reason :=
  ⟨_, ok_becomes s dt hf (Hw.refuseOther_settled g hg src vlan reason), rfl, rfl, Hw.refuseOther_refusedOther g src vlan reason⟩

/-! ### Remote memory accesses (R30, R208) -/

section
variable (s : State) (dt : Nat) (r : Rma) (hs : s.hw.Settled) (h5 : 5 ≤ s.hw.sta.stage) (hl : (s.hw.port 0).linkUp = true) (hp : r.port = 0)
include hs h5 hl hp

/-- A read of mapped memory is answered with its bytes and counted. -/
theorem exec_rmaRead_data (hrw : r.rw = 0) (hlen : r.length % 4 = 0) (ha : r.address % 4 = 0) (hlo : 0x20000000 ≤ r.address)
    (hhi : r.address + r.length ≤ 0x21000000) (h4 : 4 ≤ r.length) (h8 : r.length ≤ 8192) (hbad : s.mem.bad = [])
    (hpend : (s.hw.elapse dt).fhl.rmaPending < 16) :
    exec (.rmaRead dt r) s = .next { s with hw :=
      (((s.hw.elapse dt).onFhl fun f => { f with rmaReads := inc f.rmaReads }).rmaAnswer r 1
        ((List.range r.length).map fun i => s.mem.get (r.address + i))) } := by
  obtain ⟨hbytes, hmapped⟩ := Hw.space_shared (s.hw.elapse dt) hlo hhi hbad
  show execRmaRead dt r s = _
  unfold execRmaRead
  refine ok_when s dt ?_ ?_ ?_
  · simp [hp, Hw.elapse_arrives_portA _ dt h5 hl, hrw]
  · have h32 : r.address / 2 ^ 32 = 0 := by omega
    dsimp only
    rw [Hw.noteRead_sound_bad _ hbad, hbytes, hmapped, h32]
    simp [hrw, hpend, ha, hlen, h4, h8]
  · rw [Hw.rmaAnswer_portA _ r hp]
    exact Hw.elapse_settled _ hs dt

/-- A read that R208 does not allow is answered with a failure. -/
theorem exec_rmaRead_fails (hrw : r.rw = 0)
    (hbad : r.address % 4 ≠ 0 ∨ r.address / 2 ^ 32 ≠ 0 ∨ 16 ≤ (s.hw.elapse dt).fhl.rmaPending ∨ r.length < 4 ∨ 8192 < r.length) :
    exec (.rmaRead dt r) s = .next { s with hw := (s.hw.elapse dt).rmaAnswer r 2 [] } := by
  show execRmaRead dt r s = _
  unfold execRmaRead
  refine ok_when s dt ?_ ?_ ?_
  · simp [hp, Hw.elapse_arrives_portA _ dt h5 hl, hrw]
  · dsimp only
    rw [if_neg]
    simp only [Bool.and_eq_true, decide_eq_true_eq, beq_iff_eq]
    omega
  · rw [Hw.rmaAnswer_portA _ r hp]
    exact Hw.elapse_settled _ hs dt

/-- A write with a response is answered with a failure and refused WRITE_FORBIDDEN. -/
theorem exec_rmaWrite_answered (hrw : r.rw = 0x10) : ∃ t, exec (.rmaWrite dt r) s = .next t ∧ t.pending = s.pending ∧ t.mem = s.mem ∧
    Hw.refusedOther ((s.hw.elapse dt).rmaAnswer r 2 []) t.hw r.src r.vlan 11 := by
  refine ok_refusedOther s dt ?_ ?_
  · rw [hp, Hw.elapse_arrives_portA _ dt h5 hl, hrw]
    rfl
  · rw [Hw.rmaAnswer_portA _ r hp]
    exact Hw.elapse_settled _ hs dt

/-- A write without one is refused alone. -/
theorem exec_rmaWrite_silent (hrw : r.rw = 0x20) : ∃ t, exec (.rmaWrite dt r) s = .next t ∧ t.pending = s.pending ∧ t.mem = s.mem ∧
    Hw.refusedOther (s.hw.elapse dt) t.hw r.src r.vlan 11 := by
  refine ok_refusedOther s dt ?_ (Hw.elapse_settled _ hs dt)
  rw [hp, Hw.elapse_arrives_portA _ dt h5 hl, hrw]
  rfl

end

/-! ### One-way delay, event indications, unsupported types (R183, R209) -/

/-- Settles O50, case by case of the message types. -/
theorem otherMessages : Obligations.OtherMessages := by
  intro s dt hs h5 hl
  have hsh := Hw.elapse_settled _ hs dt
  have harr := Hw.elapse_arrives_portA _ dt h5 hl
  refine ⟨fun r hp hrw hlen => ⟨fun ha hlo hhi h4 h8 hbad hpend => ?read, fun hbad => ?failed⟩,
    fun r hp => ⟨fun hrw => ?write, fun hrw => ?silent⟩, fun l src id action ha => ?delay, fun src => ?followUp, fun src => ?remote,
    ?event, fun m hp htype => ?unsupported⟩
  case read =>
    rw [exec_rmaRead_data s dt r hs h5 hl hp hrw hlen ha hlo hhi h4 h8 hbad hpend, Hw.rmaAnswer_portA _ r hp]
    rfl
  case failed =>
    rw [exec_rmaRead_fails s dt r hs h5 hl hp hrw hbad, Hw.rmaAnswer_portA _ r hp]
  case write =>
    obtain ⟨t, he, hpend, hmem, href⟩ := exec_rmaWrite_answered s dt r hs h5 hl hp hrw
    rw [Hw.rmaAnswer_portA _ r hp] at href
    exact ⟨t, he, hpend, hmem, href⟩
  case silent => exact exec_rmaWrite_silent s dt r hs h5 hl hp hrw
  case delay =>
    show execOwdRequest dt 0 l src id action s = _
    unfold execOwdRequest
    refine ok_when s dt ?_ ?_ hsh
    · rw [harr, decide_eq_true ha]
      rfl
    · rw [Hw.send_own _ _ rfl rfl]
      rfl
  case followUp =>
    show ok s dt (fun h => h) = _
    exact ok_becomes s dt rfl hsh
  case remote =>
    show execOwdRemoteRequest dt 0 src s = _
    unfold execOwdRemoteRequest
    exact ok_when s dt harr rfl hsh
  case event =>
    show execEventIndicationRx dt 0 s = _
    unfold execEventIndicationRx
    exact ok_when s dt harr rfl hsh
  case unsupported =>
    refine ok_refusedOther s dt ?_ hsh
    have : (m.msgType == 1 || m.msgType == 3 || decide (7 < m.msgType)) = true := by
      simpa [or_assoc] using htype
    rw [hp, harr, this]
    rfl

end Sys2Proof.Machine
end

section
/-! A record on the command channel (R66, R182 to R192, R201, R205, R206, Table 9.11) and MODE_SELECT (R29, R202). Settles O48. -/
namespace Sys2Proof.Machine
namespace Hw

/-! ### A message that stands -/

/-- `h` with a message of the command channel opened: its sequence state noted, and no reason against it. -/
def opened (h : Hw) (st : SeqState) : Hw :=
  h.onFhl fun f => { f with seqs := updN f.seqs 128 fun _ => st, cur := { reason := 0, flowId := 0xFF, eaxc := 0xFFFF } }

/-- A sequence number that has not been used before passes the check (R188). -/
theorem seqCheck_fresh {q : SeqState} {n : Nat}
    (h : q.synced = false ∨ (n + 256 - q.next) % 256 < 128 ∨ n ∉ q.seen) : ∃ st, seqCheck q n = some st := by
  unfold seqCheck
  extract_lets q' d
  by_cases hd : d < 128
  · exact ⟨_, if_pos hd⟩
  · cases hq : q.synced
    · have : d = 0 := by
        have : q'.next = n := by simp [q', hq]
        show (n + 256 - q'.next) % 256 = 0
        omega
      omega
    · have hq' : q' = q := by simp [q', hq]
      rcases h with h | h | h
      · rw [hq] at h
        cases h
      · have hd' : (n + 256 - q'.next) % 256 < 128 := by rwa [hq']
        exact absurd hd' hd
      · rw [if_neg hd, hq', if_neg (by simpa using h)]
        exact ⟨_, rfl⟩

section
variable {h : Hw} {m : MsgHdr} {typ len : Nat} (hm : h.stands m none typ len 0)
include hm

theorem stands_arrives : h.arrives m.port = true := by
  obtain ⟨h5, hl, hp, -⟩ := hm
  rcases hp with hp | hp
  · rw [hp] at hl ⊢
    exact arrives_portA h h5 hl
  · simp [arrives, h5, hl, hp]

theorem stands_single : m.layout.length = 1 := by
  obtain ⟨-, -, -, -, -, -, -, -, -, -, -, hlay, -⟩ := hm
  rw [hlay]
  rfl

theorem stands_layoutOk (hc : carrierOk 2 3 typ = true) (hr : ∀ p, recLength typ p = some len) : h.layoutOk m = true := by
  obtain ⟨-, -, -, -, -, -, -, hsize, -, -, hrec, hlay, htype, hpc, hfid, -⟩ := hm
  have hcmd : isCommand m = true := beq_iff_eq.mpr hpc
  simp [layoutOk, hcmd, htype, hrec, hlay, hsize, sumL, hc, hr]

/-- The checks of such a message find nothing against it (R182 to R192). -/
theorem stands_checkMsg (hc : carrierOk 2 3 typ = true) (hr : ∀ p, recLength typ p = some len) : ∃ st,
    h.checkMsg m = (h.onFhl fun f => { f with seqs := updN f.seqs 128 fun _ => st }, 0, 0xFF, 0xFFFF) := by
  have hlay : ∀ st, (h.onFhl fun f => { f with seqs := updN f.seqs 128 fun _ => st }).layoutOk m = true :=
    fun _ => show h.layoutOk m = true from stands_layoutOk hm hc hr
  obtain ⟨-, -, -, -, hrev, hres, hcat, hsize, hav, hse, -, -, htype, hpc, hfid, hfresh⟩ := hm
  have hcmd : isCommand m = true := beq_iff_eq.mpr hpc
  have hhead : headOk m = true := by
    simp only [headOk, commonOk, hrev, hres, hcat, decide_eq_true hav, Bool.and_eq_true, decide_eq_true_eq]
    exact ⟨by decide, by omega⟩
  have hmatch : h.matchFlow m = (0, 0xFF, 0xFFFF) := by simp [matchFlow, hcmd, htype, hfid]
  have hst : ∃ st, (if h.fromHead m then some (getN h.fhl.seqs 128 {}) else seqCheck (getN h.fhl.seqs 128 {}) (m.seq % 256)) = some st := by
    split
    · exact ⟨_, rfl⟩
    · exact seqCheck_fresh hfresh
  obtain ⟨st, hst⟩ := hst
  refine ⟨st, ?_⟩
  simp only [checkMsg, hhead, hmatch, hcmd, hse, hst, hlay, Bool.not_true, Bool.false_and, Bool.false_eq_true, ne_eq, not_true,
    if_true, if_false]

theorem stands_openMsg (hc : carrierOk 2 3 typ = true) (hr : ∀ p, recLength typ p = some len) : ∃ st, h.openMsg m 0 = h.opened st := by
  obtain ⟨st, hst⟩ := stands_checkMsg hm hc hr
  obtain ⟨-, -, -, h7, -⟩ := hm
  refine ⟨st, ?_⟩
  have h7' : h.announced7 = true := h7
  simp only [openMsg, h7', hst, ne_eq, not_true, if_false, Bool.not_true, Bool.false_eq_true]
  rfl

/-- The one record of a message that stands is judged by its row. -/
theorem stands_judge (hc : carrierOk 2 3 typ = true) (hr : ∀ p, recLength typ p = some len) (f : Hw → Nat → Hw × Nat) : ∃ st,
    h.judge m 0 typ 2 f = ((f (h.opened st) (h.msgTick m)).1.closeRec m 0 typ (f (h.opened st) (h.msgTick m)).2,
      (f (h.opened st) (h.msgTick m)).2) := by
  have harr := stands_arrives hm
  obtain ⟨st, hst⟩ := stands_openMsg hm hc hr
  obtain ⟨-, -, -, h7, -, -, -, -, -, -, -, hlay, htype, -⟩ := hm
  refine ⟨st, ?_⟩
  have h7' : (h.opened st).announced7 = true := h7
  have hreason : (h.opened st).fhl.cur.reason = 0 := rfl
  have htick : (h.opened st).msgTick m = h.msgTick m := rfl
  simp only [judge, harr, htype, hlay, hst, h7', hreason, htick, ne_eq, not_true, if_false, Bool.not_true, Bool.false_eq_true,
    List.getElem?_cons_zero, Option.map_some, beq_self_eq_true, Bool.and_self]

end

/-! ### The record closed -/

/-- An accepted record that is the last of its message changes nothing more than the message's judgement. -/
theorem closeRec_accepted (g : Hw) (m : MsgHdr) (typ : Nat) (hl : m.layout.length = 1) (he : g.fhl.cur.refusals = []) :
    ∃ c, g.closeRec m 0 typ 0 = g.onFhl fun f => { f with cur := c } := by
  refine ⟨{ g.fhl.cur with refusals := [] }, ?_⟩
  simp [closeRec, hl, report, he, chunks, onFhl]

/-- One refusal of a message counted and reported (R205, R206). -/
theorem report_one (g : Hw) (m : MsgHdr) (c : Cur) (reason idx typ : Nat) (hc : c.refusals = [(reason, idx, typ)]) :
    g.report m c = (g.onFhl fun f => { f with refused := updN f.refused reason inc }).indicate m.src m.vlan 2
      [element c.eaxc 0 (0x400 + reason) (c.flowId * 2 ^ 24 + m.seq % 256 * 2 ^ 16 + idx * 256 + typ),
        element c.eaxc 0 0x4FF m.target32] := by
  unfold report
  rw [hc]
  rfl

/-- A refused record that is its message's only one is refused as R205 and R206 have it. -/
theorem closeRec_refused (g : Hw) (m : MsgHdr) (typ reason : Nat) (hl : m.layout.length = 1) (hreason : reason ≠ 0)
    (he : g.fhl.cur.refusals = []) : g.refused (g.closeRec m 0 typ reason) m reason g.fhl.cur.eaxc g.fhl.cur.flowId 0 typ := by
  set c : Cur := { g.fhl.cur with refusals := g.fhl.cur.refusals ++ [(reason, 0, typ)] } with hc
  have hlast : decide (m.layout.length ≤ 0 + 1) = true := decide_eq_true (by omega)
  have hclose : g.closeRec m 0 typ reason =
      (((g.onFhl fun f => { f with cur := c }).report m c)).onFhl fun f => { f with cur := { f.cur with refusals := [] } } := by
    rw [closeRec, bne_iff_ne.mpr hreason, hlast]
    rfl
  have hone : c.refusals = [(reason, 0, typ)] := by rw [hc, he]; rfl
  obtain ⟨hkeep, hroom, hfull⟩ := indicate_pair
    ((g.onFhl fun f => { f with cur := c }).onFhl fun f => { f with refused := updN f.refused reason inc }) m.src m.vlan (element c.eaxc 0 (0x400 + reason) (c.flowId * 2 ^ 24 + m.seq % 256 * 2 ^ 16 + 0 * 256 + typ)) (element c.eaxc 0 0x4FF m.target32)
  rw [hclose, report_one _ m c reason 0 typ hone]
  refine ⟨?_, fun hlt => ?_, hfull⟩
  · rw [hkeep]
    rfl
  · rw [← element_of_zero, ← element_of_zero]
    exact hroom hlt

end Hw

/-! ### MODE_SELECT -/

namespace Hw

/-- The reasons against a MODE_SELECT for tick k, in the order of R201. -/
def selectReasons (h : Hw) (slot k : Nat) : List Nat :=
  let lead : Int := h.tickFine k - (h.tim.c * 100000 : Int)
  let lo := nsFine h.earlyMax + normalLen h.scs * 100000
  [ifBad (h.before7 k) 10, ifBad (decide (lead < lo)) 1, ifBad (decide ((nsFine 2000000000 : Int) < lead)) 2,
    ifBad (h.stageForbids 0x20) 10, ifBad (decide (7 < slot)) 8, ifBad (h.slotRec slot).isNone 12,
    ifBad (!h.isFrame k || h.mode.selects.any fun x => x.tick == k && !x.void) 8, ifBad h.controlFull 4]

/-- `h` with a selection accepted. -/
def withSelect (h : Hw) (slot k : Nat) : Hw :=
  { h with mode := { h.mode with selects := h.mode.selects ++ [{ tick := k, slot := slot, void := false }] } }

theorem admitSelect_eq (h : Hw) (slot k : Nat) :
    h.admitSelect slot k = h.command (firstReason (h.selectReasons slot k)) k fun h => h.withSelect slot k := rfl

theorem firstReason_ifBad (b : Bool) (r : Nat) (l : List Nat) (hr : r ≠ 0) :
    firstReason (ifBad b r :: l) = if b = true then r else firstReason l := by
  cases b
  · rfl
  · exact if_neg hr

/-- The first reason against a MODE_SELECT once slot 7 has been announced (R66, R202). -/
theorem selectReason_eq (h : Hw) (slot k k7 : Nat) (h7 : h.sta.k7 = some k7) : firstReason (h.selectReasons slot k) =
    if k < k7 then 10
    else if (h.tickAt k : Int) * 100000 - h.tim.c * 100000 < (h.earlyMax : Int) * 98304 + normalLen h.scs * 100000 then 1
    else if (2000000000 * 98304 : Int) < (h.tickAt k : Int) * 100000 - h.tim.c * 100000 then 2
    else if h.sta.stage < 8 then 10 else if 7 < slot then 8 else if h.slotRec slot = none then 12
    else if k % h.perFrame ≠ 0 ∨ ∃ x ∈ h.mode.selects, x.tick = k ∧ x.void = false then 8
    else if 2048 ≤ h.fhl.control.length then 4 else 0 := by
  unfold selectReasons
  simp (disch := decide) only [firstReason_ifBad]
  simp [before7, h7, tickFine, nsFine, stageForbids, onlyS8, isFrame, controlFull, firstReason]

end Hw

/-! ### The command's next state -/

section
variable {s : State} {dt : Nat} {m : MsgHdr} {typ len : Nat} {f : Hw → Nat → Hw × Nat}
  (hm : (s.hw.elapse dt).stands m none typ len 0) (hc : Hw.carrierOk 2 3 typ = true)
  (hr : ∀ p, Hw.recLength typ p = some len)
include hm hc hr

/-- A record against which its row has a reason is refused for it. -/
theorem ok_judge_refused (hs : s.hw.Settled) {reason : Nat} (hreason : reason ≠ 0)
    (hf : ∀ st, f ((s.hw.elapse dt).opened st) ((s.hw.elapse dt).msgTick m) = ((s.hw.elapse dt).opened st, reason)) :
    ∃ t, ok s dt (fun h => (h.judge m 0 typ 2 f).1) = .next t ∧ t.pending = s.pending ∧ t.mem = s.mem ∧
      (s.hw.elapse dt).refused t.hw m reason 0xFFFF 0xFF 0 typ := by
  obtain ⟨st, hst⟩ := Hw.stands_judge hm hc hr f
  have href := Hw.closeRec_refused ((s.hw.elapse dt).opened st) m typ reason (Hw.stands_single hm) hreason rfl
  rw [hf] at hst
  refine ⟨_, ok_becomes s dt (congrArg Prod.fst hst) ?_, rfl, rfl, href⟩
  rw [href.1]
  exact Hw.elapse_settled _ hs dt

/-- A record that its row carries out by `g` and holds until a tick. -/
theorem ok_judge_held {g : Hw} {k : Nat} (hg : g.Settled)
    (hf : ∀ st, f ((s.hw.elapse dt).opened st) ((s.hw.elapse dt).msgTick m) = ((g.opened st).hold k, 0)) :
    ∃ t, ok s dt (fun h => (h.judge m 0 typ 2 f).1) = .next t ∧ t.pending = s.pending ∧ t.mem = s.mem ∧ g.held t.hw k := by
  obtain ⟨st, hst⟩ := Hw.stands_judge hm hc hr f
  obtain ⟨c, hacc⟩ := Hw.closeRec_accepted ((g.opened st).hold k) m typ (Hw.stands_single hm) rfl
  rw [hf] at hst
  exact ⟨_, ok_becomes s dt ((congrArg Prod.fst hst).trans hacc) hg, rfl, rfl, rfl⟩

end

/-- Settles O48: the record stands, so MODE_SELECT's own reasons decide, in their order. -/
theorem modeSelect : Obligations.ModeSelect := by
  intro s dt slot m hs h k lead lo hi taken refused hm
  have hrefused : ∀ reason, reason ≠ 0 → Hw.firstReason (h.selectReasons slot k) = reason → refused reason := by
    intro reason hreason he
    refine ok_judge_refused hm rfl (fun _ => rfl) hs hreason fun st => ?_
    rw [Hw.admitSelect_eq, Hw.command, show Hw.firstReason ((h.opened st).selectReasons slot k) = reason from he, if_pos hreason]
  refine ⟨fun k7 h7 hk => hrefused 10 (by decide) ?_, fun k7 h7 hk => ?_⟩
  · rw [h.selectReason_eq slot k k7 h7, if_pos hk]
  have hreasons := h.selectReason_eq slot k k7 h7
  rw [if_neg (Nat.not_lt.mpr hk)] at hreasons
  refine ⟨fun hlate => hrefused 1 (by decide) ?_, fun hlo hearly => hrefused 2 (by decide) ?_, fun hlo hhi => ?_⟩
  · rw [hreasons, if_pos hlate]
  · rw [hreasons, if_neg (not_lt.mpr hlo), if_pos hearly]
  rw [if_neg (not_lt.mpr hlo), if_neg (not_lt.mpr hhi)] at hreasons
  refine ⟨fun h8 => hrefused 10 (by decide) ?_, fun h8 => ?_⟩
  · rw [hreasons, if_pos h8]
  rw [if_neg (Nat.not_lt.mpr h8)] at hreasons
  refine ⟨fun hslot => hrefused 8 (by decide) ?_, fun hslot hnone => hrefused 12 (by decide) ?_, fun hslot hrec => ?_⟩
  · rw [hreasons, if_pos hslot]
  · rw [hreasons, if_neg (Nat.not_lt.mpr hslot), if_pos hnone]
  rw [if_neg (Nat.not_lt.mpr hslot), if_neg (Option.isSome_iff_ne_none.mp hrec)] at hreasons
  refine ⟨fun hbad => hrefused 8 (by decide) ?_, fun hframe hfree => ⟨fun hfull => hrefused 4 (by decide) ?_, fun hroom => ?_⟩⟩
  · rw [hreasons, if_pos hbad]
  · rw [hreasons, if_neg (not_or.mpr ⟨not_not.mpr hframe, hfree⟩), if_pos hfull]
  rw [if_neg (not_or.mpr ⟨not_not.mpr hframe, hfree⟩), if_neg (Nat.not_le.mpr hroom)] at hreasons
  refine ok_judge_held (g := h.withSelect slot k) hm rfl (fun _ => rfl) (Hw.elapse_settled _ hs dt) fun st => ?_
  rw [Hw.admitSelect_eq, Hw.command, show Hw.firstReason ((h.opened st).selectReasons slot k) = 0 from hreasons, if_neg (not_not.mpr rfl)]
  rfl

end Sys2Proof.Machine
end

section
/-! A quantum still active at its closing tick (R25, R149, R176, R350): what its engine, its quad's banks and its occasion lose. Settles
O29. -/
namespace Sys2Proof.Machine

/-! ### Entries updated twice -/

theorem updN_updN {α : Type} {n : Nat} (v : Vector α n) (i : Nat) (f g : α → α) : updN (updN v i f) i g = updN v i fun x => g (f x) := by
  unfold updN upd
  split
  · simp [Vector.set_set]
  · rfl

/-- An entry's change is the change to what it becomes. -/
theorem updN_const {α : Type} {n : Nat} (v : Vector α n) (i : Nat) (f : α → α) (d : α) : updN v i f = updN v i fun _ => f (getN v i d) := by
  unfold updN
  split
  · next h => simp [upd, getN_of_lt v d h]
  · rfl

/-! ### The fields of a job's first word (Table 15.16) -/

theorem bits_type (w : Word) : bits w.toNat 0 16 = w.toNat % 65536 := by simp [bits]

theorem bits_unit (w : Word) : bits w.toNat 16 8 = w.toNat / 65536 % 256 := by simp [bits, Nat.shiftRight_eq_div_pow]

/-- `n` more quanta abandoned by an engine (R13, R350). -/
def Tor.dropped (n : Nat) (e : Tor) : Tor := { e with abandonedCnt := Nat.min (2 ^ 32 - 1) (e.abandonedCnt + n) }

theorem Tor.dropped_dropped (n k : Nat) (e : Tor) : (e.dropped n).dropped k = e.dropped (n + k) := by
  have : Nat.min (2 ^ 32 - 1) (Nat.min (2 ^ 32 - 1) (e.abandonedCnt + n) + k) = Nat.min (2 ^ 32 - 1) (e.abandonedCnt + (n + k)) := by
    show min _ (min _ _ + _) = min _ _
    omega
  simp only [dropped, this]

/-- An engine whose active job is abandoned, that goes on at 0x0010 (R350). -/
def Tor.restarted (e : Tor) : Tor :=
  { e with loops := [], calls := [], job := none, abandoned := true, pc := 0x10, state := 1, justSet := false }

/-- What is left of an engine once `n` quanta of it have been abandoned (R350). -/
def Tor.cleared (n : Nat) (e : Tor) : Tor := { e.restarted.dropped n with jobs := [] }

namespace Hw

theorem onTor_onTor (h : Hw) (t : Nat) (f g : Tor → Tor) : (h.onTor t f).onTor t g = h.onTor t fun e => g (f e) := by
  simp only [onTor, updN_updN]

/-! ### One job dropped (R350) -/

section
variable (h : Hw) (t : Nat) (j : Job)

theorem quantumEnds_other (hj : j.w0.toNat % 65536 ≠ 0x0102) (good : Bool) : h.quantumEnds t j good = h := by
  have : h.quantumOf t j = none := by
    rw [quantumOf, bits_type, if_pos (bne_iff_ne.mpr hj)]
  rw [quantumEnds, this]

/-- A job that is no mandatory share: counted, its banks reverted where it adapts, its block dropped where it has one. -/
theorem dropJob_optional (hm : j.w0.getLsbD 24 = false) :
    h.dropJob t j = ((h.onTor t (Tor.dropped 1)).whenB (j.w0.toNat % 65536 == 0x0100) fun h =>
      h.dpdDiscard (j.w0.toNat / 65536 % 256) (dpdKey t j)).quantumEnds t j false := by
  have hb : bit j.w0.toNat 24 = false := hm
  simp only [dropJob, hb, whenB_false, bits_type, bits_unit]
  rfl

/-- A job of another kind is counted only. -/
theorem dropJob_plain (hd : j.w0.toNat % 65536 ≠ 0x0100) (hc : j.w0.toNat % 65536 ≠ 0x0102) (hm : j.w0.getLsbD 24 = false) :
    h.dropJob t j = h.onTor t (Tor.dropped 1) := by
  rw [dropJob_optional h t j hm, quantumEnds_other _ t j hc, beq_false_of_ne hd, whenB_false]

/-- A DPD_ADAPT quantum takes back what it wrote (R149). -/
theorem dropJob_dpd (hd : j.w0.toNat % 65536 = 0x0100) (hm : j.w0.getLsbD 24 = false) :
    h.dropJob t j = (h.onTor t (Tor.dropped 1)).dpdDiscard (j.w0.toNat / 65536 % 256) (dpdKey t j) := by
  rw [dropJob_optional h t j hm, quantumEnds_other _ t j (by omega), beq_iff_eq.mpr hd, whenB_true]

/-- A CAIRN_EXTRA quantum drops its block (R176). -/
theorem dropJob_cairn (hc : j.w0.toNat % 65536 = 0x0102) (hm : j.w0.getLsbD 24 = false) :
    h.dropJob t j = (h.onTor t (Tor.dropped 1)).quantumEnds t j false := by
  rw [dropJob_optional h t j hm, beq_false_of_ne (by omega), whenB_false]

end

/-- Waiting descriptors of other kinds are each counted. -/
theorem each_dropJob_plain (h : Hw) (t n : Nat) (l : List Job)
    (hl : ∀ x ∈ l, x.w0.toNat % 65536 ≠ 0x0100 ∧ x.w0.toNat % 65536 ≠ 0x0102 ∧ x.w0.getLsbD 24 = false) :
    (h.onTor t (Tor.dropped n)).each l (fun h j => h.dropJob t j) = h.onTor t (Tor.dropped (n + l.length)) := by
  induction l generalizing n with
  | nil => rfl
  | cons x r ih =>
    obtain ⟨hd, hc, hm⟩ := hl x (List.mem_cons_self ..)
    rw [each_cons, dropJob_plain _ t x hd hc hm, onTor_onTor]
    simp only [Tor.dropped_dropped]
    rw [ih (n + 1) fun y hy => hl y (List.mem_cons_of_mem _ hy), List.length_cons, Nat.add_assoc, Nat.add_comm 1]

/-! ### The banks (R149) -/

/-- A path whose shadow the quantum did not write keeps its predistorter. -/
theorem dpdRevert_other (key : Nat) (d : Dpd) (hk : key ∉ d.writers) : dpdRevert [key] d = d := by
  simp [dpdRevert, hk]

/-- Where it wrote, the active bank is copied over the shadow, and its switch request falls. -/
theorem dpdRevert_own (key : Nat) (d : Dpd) (hk : key ∈ d.writers) : dpdRevert [key] d =
    let kept := if d.active then d.bank1 else d.bank0
    { d with
      bank0 := kept, bank1 := kept, shadowReady := false
      switchPending := d.switchPending && (!d.posters.contains key || d.posters.any (· ≠ key))
      badPar := d.badPar.filter fun x => x.1 == d.active
      writers := d.writers.filter (· ≠ key), posters := d.posters.filter (· ≠ key) } := by
  cases ha : d.active <;> simp [dpdRevert, hk, dpdCopy, setBank, getBank, ha]

/-! ### The engine at the closing tick -/

theorem dropJob_traceFlow (h : Hw) (t : Nat) (j : Job) (hm : j.w0.getLsbD 24 = false) (u : Nat) :
    (h.dropJob t j).traceFlow u = h.traceFlow u := by
  have ends : ∀ g : Hw, (g.quantumEnds t j false).traceFlow u = g.traceFlow u := fun g => by
    unfold quantumEnds
    split <;> rfl
  rw [dropJob_optional h t j hm, ends]
  exact whenB_keep (fun h => h.traceFlow u) _ _ _ rfl

/-- An engine with an active job and no load on its way, and without flow trace, at its closing tick. -/
theorem abandonAt_active (h : Hw) (m : Mem) (t : EngId) (j : Job) (hj : (h.eng t).job = some j) (hl : (h.eng t).load = [])
    (hm : j.w0.getLsbD 24 = false) (ht : h.traceFlow t = false) : abandonAt h m t =
      (((h.onTor t Tor.restarted).dropJob t j).each (h.eng t).jobs fun h j => h.dropJob t j).onTor t fun e => { e with jobs := [] } := by
  have hk : ((h.onTor t Tor.restarted).dropJob t j).traceFlow t = false := (dropJob_traceFlow _ t j hm t).trans ht
  simp only [abandonAt, hj, hl, each_nil]
  show ((((h.onTor t Tor.restarted).dropJob t j).whenB (((h.onTor t Tor.restarted).dropJob t j).traceFlow t) _).each
    (h.eng t).jobs fun h j => h.dropJob t j).onTor t _ = _
  rw [hk, whenB_false]

/-- With the active job and what waits all of other kinds, only the engine changes. -/
theorem abandonAt_plain (h : Hw) (m : Mem) (t : EngId) (j : Job) (hj : (h.eng t).job = some j) (hl : (h.eng t).load = [])
    (ht : h.traceFlow t = false)
    (hp : ∀ x ∈ j :: (h.eng t).jobs, x.w0.toNat % 65536 ≠ 0x0100 ∧ x.w0.toNat % 65536 ≠ 0x0102 ∧ x.w0.getLsbD 24 = false) :
    abandonAt h m t = h.onTor t fun e => e.cleared (1 + (h.eng t).jobs.length) := by
  obtain ⟨hd, hc, hm⟩ := hp j (List.mem_cons_self ..)
  rw [abandonAt_active h m t j hj hl hm ht, dropJob_plain _ t j hd hc hm,
    each_dropJob_plain _ t 1 _ fun x hx => hp x (List.mem_cons_of_mem _ hx), onTor_onTor, onTor_onTor]
  rfl

/-- A DPD_ADAPT quantum alone at its closing tick. -/
theorem abandonAt_dpd (h : Hw) (m : Mem) (t : EngId) (j : Job) (hj : (h.eng t).job = some j) (hl : (h.eng t).load = [])
    (ht : h.traceFlow t = false) (hm : j.w0.getLsbD 24 = false) (hjobs : (h.eng t).jobs = []) (hd : j.w0.toNat % 65536 = 0x0100) :
    abandonAt h m t = (h.onTor t fun e => e.cleared 1).dpdDiscard (j.w0.toNat / 65536 % 256) (dpdKey t j) := by
  rw [abandonAt_active h m t j hj hl hm ht, dropJob_dpd _ t j hd hm, hjobs, each_nil, onTor_onTor]
  show (((h.onTor t _).onTor t fun e => { e with jobs := [] }).dpdDiscard _ _) = _
  rw [onTor_onTor]
  rfl

/-- A CAIRN_EXTRA quantum alone at its closing tick, with its occasion. -/
theorem abandonAt_cairn (h : Hw) (m : Mem) (t : EngId) (j : Job) (hj : (h.eng t).job = some j) (hl : (h.eng t).load = [])
    (ht : h.traceFlow t = false) (hm : j.w0.getLsbD 24 = false) (hjobs : (h.eng t).jobs = []) (hc : j.w0.toNat % 65536 = 0x0102)
    (o : Occasion) (x : Quantum) (hq : h.quantumOf t j = some (o, x)) :
    abandonAt h m t = (h.onTor t fun e => e.cleared 1).onCrn fun c => { c with
      occasions := c.occasions.map fun y =>
        if y.order = o.order then { o with quanta := o.quanta.erase x, blocks := o.blocks.erase x.block, extPartial := true } else y
      extDropped := inc c.extDropped } := by
  have hq' : ((h.onTor t Tor.restarted).onTor t (Tor.dropped 1)).quantumOf t j = some (o, x) := hq
  rw [abandonAt_active h m t j hj hl hm ht, dropJob_cairn _ t j hc hm, hjobs, each_nil, quantumEnds, hq']
  simp only [onCrn, onTor, updN_updN, Bool.not_false, Bool.or_true, Bool.false_eq_true, if_false]
  rfl

end Hw

/-- The command finds the quantum active in the open window. -/
theorem exec_quantumAbandon (s : State) (e : EngId) (j : Job) {g : Hw} (ho : s.hw.tim.open_ = true) (hj : (s.hw.eng e).job = some j)
    (hg : abandonAt s.hw.toTick s.mem e = g) (hs : g.Settled) : exec (.quantumAbandon e) s = .next { s with hw := g } := by
  show execQuantumAbandon e s = _
  unfold execQuantumAbandon
  have hj' : ((s.hw.elapse 0).eng e).job = some j := hj
  have ho' : (s.hw.elapse 0).tim.open_ = true := ho
  exact ok_when s 0 (by rw [ho', hj']; rfl) hg hs

/-- The closing tick finds the engine as the command does. -/
theorem toTick_eng (h : Hw) (e : EngId) : h.toTick.eng e = h.eng e := by
  simp [Hw.eng, Hw.toTick]

theorem toTick_traceFlow (h : Hw) (e : EngId) : h.toTick.traceFlow e = h.traceFlow e := by
  simp [Hw.traceFlow, Hw.traceOn, Hw.toTick, Hw.image]

/-- Settles O29: the abandoned jobs, each by its kind, at the closing tick. -/
theorem quantumAbandoned : Obligations.QuantumAbandoned := by
  intro s e j hs h4 ho hj hl type plain ht h r tor
  have hsettled : h.Settled := Hw.elapse_settled _ hs _
  have hr : r = s.hw.eng e := toTick_eng s.hw e
  have hj' : r.job = some j := hr ▸ hj
  have hl' : r.load = [] := hr ▸ hl
  have ht' : h.traceFlow e = false := (toTick_traceFlow s.hw e).trans ht
  have htor : updN h.tor e (Tor.cleared (1 + r.jobs.length)) = tor := by
    rw [updN_const h.tor e _ {}, Tor.cleared, Tor.dropped, ← Nat.add_assoc]
    rfl
  refine ⟨fun hp hps => ?plain, fun hm hjobs => ⟨fun q hd hq => ?dpd, fun o x hc hox => ?cairn⟩⟩
  case plain =>
    refine exec_quantumAbandon s e j ho hj ?_ hsettled
    rw [Hw.abandonAt_plain h s.mem e j hj' hl' ht' (List.forall_mem_cons.mpr ⟨hp, hps⟩), ← htor]
    rfl
  case dpd =>
    rw [hjobs] at htor
    have hkey : Hw.dpdKey e j = [16 * e.val + q.val] := by
      rw [Hw.dpdKey, bits_type, bits_unit, if_pos hd, hq, Nat.mod_eq_of_lt q.isLt]
    have hgone := Hw.abandonAt_dpd h s.mem e j hj' hl' ht' hm hjobs hd
    rw [hq, hkey] at hgone
    refine ⟨_, exec_quantumAbandon s e j ho hj hgone hsettled, rfl, rfl, ?_, fun n => ?_⟩
    · rw [← htor]
      rfl
    · have hpath : ((h.onTor e (Tor.cleared 1)).dpdDiscard q.val [16 * e.val + q.val]).path n =
          { h.path n with dpd := Hw.dpdRevert [16 * e.val + q.val] (h.path n).dpd } := getN_vmapi _ _ _ n.isLt
      exact ⟨fun hk => by rw [hpath, Hw.dpdRevert_other _ _ hk], fun hk => by rw [hpath, Hw.dpdRevert_own _ _ hk]⟩
  case cairn =>
    rw [hjobs] at htor
    refine exec_quantumAbandon s e j ho hj ?_ hsettled
    rw [Hw.abandonAt_cairn h s.mem e j hj' hl' ht' hm hjobs hc o x hox, ← htor]
    rfl

end Sys2Proof.Machine
end

section
/-! What the orders of a path stand on in a tick (R26, R319): whether it is retired, its retirements due, its restore, the cause kept, its
pins, together with the slot and the stage in force. Two operations of a tick move pins outside step 2, the thermal trip and the TDD code;
the slot and the stage are step 1's. -/
namespace Sys2Proof.Machine

/-- A path's retirement: whether it is retired, what is due, the restore under way and the cause kept. -/
abbrev PathOrders : Type := Bool × List (Nat × Nat) × Option Restore × Nat
/-- PAEN, LNAEN and DISABLED of a path. -/
abbrev PathPins : Type := Bool × Bool × Bool

def Path.orders (p : Path) : PathOrders := (p.retired, p.retireAt, p.restore, p.fem.failCause)
def Path.pins (p : Path) : PathPins := (p.paen, p.lnaen, p.disabled)
def Path.duty (p : Path) : PathOrders × PathPins := (p.orders, p.pins)

/-- The slot's state, the stage, the announced entry, and the paths' retirement. -/
structure Roster where
  mode : Mode
  stage : Nat
  announced : Option (Nat × Nat)
  orders : Vector PathOrders 64

theorem setCalSide_duty (p : Path) (tx : Bool) (f : CalPath → CalPath) : (setCalSide p tx f).duty = p.duty := by
  unfold setCalSide
  split <;> rfl

namespace Hw

def roster (h : Hw) : Roster where
  mode := h.mode
  stage := h.sta.stage
  announced := h.sta.announced
  orders := h.paths.map Path.orders
/-- With the paths' pins. -/
def duty (h : Hw) : Roster × Vector PathPins 64 := (h.roster, h.paths.map Path.pins)

theorem roster_of_duty {h g : Hw} (e : g.duty = h.duty) : g.roster = h.roster := congrArg Prod.fst e

/-! ### Updates

As with what stands in a tick, every lemma continues an equation. An operation that neither branches nor touches a path needs none: what
stood before it stands after it by definition. -/

section
variable {h : Hw} {a : Roster × Vector PathPins 64}

theorem onPath_duty {n : Nat} {f : Path → Path} (e : h.duty = a) (hf : ∀ p, (f p).duty = p.duty := by exact fun _ => rfl) :
    (h.onPath n f).duty = a := by
  have ho : ∀ p, (f p).orders = p.orders := fun p => congrArg Prod.fst (hf p)
  have hp : ∀ p, (f p).pins = p.pins := fun p => congrArg Prod.snd (hf p)
  rw [← e]
  simp only [duty, roster, onPath, map_updN _ _ _ _ ho, map_updN _ _ _ _ hp]

theorem onPaths_duty {f : Nat → Path → Path} (e : h.duty = a) (hf : ∀ n p, (f n p).duty = p.duty := by exact fun _ _ => rfl) :
    (h.onPaths f).duty = a := by
  have ho : ∀ n p, (f n p).orders = p.orders := fun n p => congrArg Prod.fst (hf n p)
  have hp : ∀ n p, (f n p).pins = p.pins := fun n p => congrArg Prod.snd (hf n p)
  rw [← e]
  simp only [duty, roster, onPaths, map_vmapi _ _ _ ho, map_vmapi _ _ _ hp]

theorem onTrl_duty {f : Trl → Trl} (e : h.duty = a) : (h.onTrl f).duty = a := e
theorem onCrn_duty {f : Crn → Crn} (e : h.duty = a) : (h.onCrn f).duty = a := e
theorem onQuad_duty {q : Nat} {f : Quad → Quad} (e : h.duty = a) : (h.onQuad q f).duty = a := e
theorem onQuads_duty {f : Nat → Quad → Quad} (e : h.duty = a) : (h.onQuads f).duty = a := e
theorem onTor_duty {t : Nat} {f : Tor → Tor} (e : h.duty = a) : (h.onTor t f).duty = a := e
theorem onTors_duty {f : Nat → Tor → Tor} (e : h.duty = a) : (h.onTors f).duty = a := e
theorem onFhl_duty {f : Fhl → Fhl} (e : h.duty = a) : (h.onFhl f).duty = a := e
theorem onMas_duty {f : Mas → Mas} (e : h.duty = a) : (h.onMas f).duty = a := e
theorem onCal_duty {f : Cal → Cal} (e : h.duty = a) : (h.onCal f).duty = a := e
theorem out_duty {o : Out} (e : h.duty = a) : ({ h with out := o } : Hw).duty = a := e
theorem alarm_duty {c x : Nat} {g : Int} (e : h.duty = a) : (h.alarm c g x).duty = a := e
theorem cease_duty {c : Nat} {g : Int} (e : h.duty = a) : (h.cease c g).duty = a := e
theorem busPut_duty {l : List BusItem} (e : h.duty = a) : (h.busPut l).duty = a := e
theorem busAdd_duty {q r n : Nat} (e : h.duty = a) : (h.busAdd q r n).duty = a := e

theorem whenB_duty {c : Bool} {f : Hw → Hw} (hf : (f h).duty = h.duty) (e : h.duty = a) : (h.whenB c f).duty = a :=
  (whenB_keep duty h c f hf).trans e

theorem each_duty {α : Type} {l : List α} {f : Hw → α → Hw} (hf : ∀ h x, (f h x).duty = h.duty) (e : h.duty = a) :
    (h.each l f).duty = a :=
  (each_keep duty f hf l h).trans e

/-! ### Alarms, reads, the bus, event lines -/

theorem ceaseAll_duty {c : Nat} (e : h.duty = a) : (h.ceaseAll c).duty = a := each_duty (fun _ _ => rfl) e

theorem trace_duty {p : Pkt} (e : h.duty = a) : (h.trace p).duty = a := by
  rw [trace_eq]
  exact e

theorem noteWord_duty {w : Nat} {ue : Bool} (e : h.duty = a) : (h.noteWord w ue).duty = a := by
  unfold noteWord
  split
  · exact e
  · dsimp only
    split
    · exact whenB_duty rfl e
    · exact e

theorem noteRead_duty {m : Mem} {b n : Nat} (e : h.duty = a) : (h.noteRead m b n).duty = a :=
  each_duty (fun h w => by
    split
    · exact noteWord_duty rfl
    · rfl) e

theorem fifoError_duty {p n : Nat} (e : h.duty = a) : (h.fifoError p n).duty = a := by
  unfold fifoError
  split
  · exact e
  · exact whenB_duty rfl e

theorem pulse_duty {line : Nat} (e : h.duty = a) : (h.pulse line).duty = a := whenB_duty (trace_duty (out_duty rfl)) e

/-! ### The observation receivers and injected conversions -/

theorem obsMove_duty {q i : Nat} (e : h.duty = a) : (h.obsMove q i).duty = a := by
  unfold obsMove
  dsimp only
  split
  · exact e
  · split
    · exact e
    · split
      · exact e
      · split <;> exact e

theorem injectAsk_duty {q ch : Nat} {cal : Bool} (e : h.duty = a) : (h.injectAsk q ch cal).duty = a := by
  unfold injectAsk
  dsimp only
  split <;> exact e

theorem calTake_duty {q : Nat} (e : h.duty = a) : (h.calTake q).duty = a := by
  unfold calTake
  dsimp only
  split
  · exact e
  · exact injectAsk_duty e

theorem obsTick_duty {frame : Bool} {q : Nat} (e : h.duty = a) : (h.obsTick frame q).duty = a := by
  have left : (if (h.quad q).obs.state = 1 then h.busLeave q 1 (4 * q + (h.quad q).obs.cur) else h).duty = a := by
    split <;> exact e
  unfold obsTick
  extract_lets o leave
  split
  · exact e
  · split
    · split
      · exact e
      · exact left
    · split
      · split
        · split <;> exact e
        · exact e
      · split
        · exact e
        · exact obsMove_duty left

theorem obsRelease_duty (e : h.duty = a) : h.obsRelease.duty = a :=
  whenB_duty (each_duty (fun _ _ => whenB_duty (obsMove_duty rfl) rfl) rfl) e

/-! ### Treeline -/

theorem reportCeilings_duty {k : Nat} {first : Bool} (e : h.duty = a) : (h.reportCeilings k first).duty = a := by
  unfold reportCeilings
  extract_lets p bad old h1 h2 h3 h4 above
  have e3 : h3.duty = a := each_duty (fun _ _ => cease_duty rfl) (each_duty (fun _ _ => alarm_duty rfl) (onTrl_duty e))
  have e4 : h4.duty = a := each_duty (fun _ _ => whenB_duty (cease_duty rfl) (onQuad_duty rfl)) e3
  clear_value above
  exact each_duty (fun _ _ => alarm_duty rfl) (onTrl_duty e4)

theorem sendShares_duty (e : h.duty = a) : h.sendShares.duty = a := by
  unfold sendShares
  split
  · exact onTrl_duty (each_duty (fun h p => by split <;> rfl) e)
  · exact e

theorem tripFrame_duty {k : Nat} (e : h.duty = a) : (h.tripFrame k).duty = a := onTrl_duty (whenB_duty (onPaths_duty rfl) e)

theorem setCeilings_duty {first : Bool} (e : h.duty = a) : (h.setCeilings first).duty = a := e

theorem applyShare_duty (e : h.duty = a) : h.applyShare.duty = a := e

theorem femFrame_duty (e : h.duty = a) : h.femFrame.duty = a :=
  each_duty (fun _ _ => whenB_duty (busAdd_duty rfl) (whenB_duty (busAdd_duty rfl) rfl)) (busPut_duty e)

theorem step6_duty {k : Nat} {first : Bool} (e : h.duty = a) : (h.step6 k first).duty = a :=
  femFrame_duty (whenB_duty (sendShares_duty rfl) (onTrl_duty
    (whenB_duty (reportCeilings_duty (setCeilings_duty rfl)) (applyShare_duty (tripFrame_duty e)))))

/-! ### Jobs of the engines -/

theorem failContext_duty {c : Nat} (e : h.duty = a) : (h.failContext c).duty = a := each_duty (fun _ _ => alarm_duty rfl) (onCrn_duty e)

theorem dpdDiscard_duty {q : Nat} {key : List Nat} (e : h.duty = a) : (h.dpdDiscard q key).duty = a :=
  onQuad_duty (onPaths_duty e)

theorem quantumEnds_duty {t : Nat} {j : Job} {good : Bool} (e : h.duty = a) : (h.quantumEnds t j good).duty = a := by
  unfold quantumEnds
  split <;> exact e

theorem dropJob_duty {t : Nat} {j : Job} (e : h.duty = a) : (h.dropJob t j).duty = a :=
  whenB_duty (alarm_duty (failContext_duty (onTor_duty rfl)))
    (quantumEnds_duty (whenB_duty (dpdDiscard_duty rfl) (onTor_duty e)))

theorem loadValue_duty {m : Mem} {t : EngId} {b w : Nat} (e : h.duty = a) : (loadValue h m t b w).1.duty = a := by
  unfold loadValue
  split
  · exact e
  · exact whenB_duty (onPath_duty rfl) e
  · exact e
  · exact whenB_duty (onTor_duty rfl) (noteRead_duty e)

theorem loadReturn_duty {m : Mem} {t : EngId} (e : h.duty = a) : (loadReturn h m t).duty = a := by
  unfold loadReturn
  split
  · exact e
  · exact onTor_duty (loadValue_duty e)

theorem abandonAt_duty {m : Mem} {t : EngId} (e : h.duty = a) : (abandonAt h m t).duty = a := by
  refine onTor_duty (each_duty (fun _ _ => dropJob_duty rfl) ?_)
  split
  · exact whenB_duty (trace_duty rfl) (dropJob_duty (onTor_duty (each_duty (fun _ _ => loadReturn_duty rfl) e)))
  · exact e

/-! ### Massif -/

theorem readWeight_duty {m : Mem} {beam n b v : Nat} {dyn : Bool} (e : h.duty = a) : (h.readWeight m beam n b v dyn).duty = a :=
  whenB_duty (whenB_duty (alarm_duty rfl) (onMas_duty rfl)) (noteRead_duty e)

theorem readWeights_duty {m : Mem} {beam : Nat} {v : Option Nat} (e : h.duty = a) : (h.readWeights m beam v).duty = a := by
  unfold readWeights
  split
  · exact each_duty (fun _ _ => readWeight_duty rfl) e
  · split
    · exact each_duty (fun _ _ => readWeight_duty rfl) e
    · exact e

theorem weigh_duty {m : Mem} {p : DlItem → Bool} (e : h.duty = a) : (h.weigh m p).duty = a :=
  each_duty (fun h d => by
    split
    · exact onFhl_duty rfl
    · exact onFhl_duty (readWeights_duty rfl)) e

theorem weighUl_duty {m : Mem} {k : Nat} (e : h.duty = a) : (h.weighUl m k).duty = a :=
  each_duty (fun h u => by
    dsimp only
    split
    · exact onFhl_duty rfl
    · exact onFhl_duty (readWeights_duty rfl)) e

theorem airTick_duty {m : Mem} {k : Nat} (e : h.duty = a) : (h.airTick m k).duty = a :=
  onFhl_duty (out_duty (whenB_duty (onTrl_duty rfl) (onMas_duty (weighUl_duty (weigh_duty e)))))

theorem airClose_duty {m : Mem} {k : Nat} (e : h.duty = a) : (h.airClose m k).duty = a := whenB_duty (weigh_duty rfl) e

/-! ### Calibration -/

theorem calDrop_duty {q : Nat} (e : h.duty = a) : (h.calDrop q).duty = a := by
  refine onQuad_duty ?_
  split <;> exact e

theorem calPick_duty {q : Nat} (e : h.duty = a) : (h.calPick q).duty = a := by
  unfold calPick
  dsimp only
  split
  · exact e
  · split
    · exact busAdd_duty (onQuad_duty (calDrop_duty e))
    · exact calDrop_duty e

theorem calPicks_duty (e : h.duty = a) : h.calPicks.duty = a := whenB_duty (each_duty (fun _ _ => calPick_duty rfl) rfl) e

theorem calDrops_duty (e : h.duty = a) : h.calDrops.duty = a := each_duty (fun _ _ => calDrop_duty rfl) e

theorem releaseAdc_duty (e : h.duty = a) : h.releaseAdc.duty = a := e

theorem calEnd_duty {cause : Nat} (e : h.duty = a) : (h.calEnd cause).duty = a := by
  unfold calEnd
  split
  · exact e
  · exact alarm_duty (onCal_duty (releaseAdc_duty (calDrops_duty e)))

theorem calEmpty_duty (e : h.duty = a) : h.calEmpty.duty = a := whenB_duty (calEnd_duty rfl) e

theorem calAcquired_duty (e : h.duty = a) : h.calAcquired.duty = a := by
  refine whenB_duty (whenB_duty (calPicks_duty (each_duty (fun h q => onQuad_duty ?_) rfl)) (onCal_duty rfl)) e
  split <;> rfl

theorem calStart_duty {k : Nat} (e : h.duty = a) : (h.calStart k).duty = a := by
  unfold calStart
  split
  · exact e
  · split
    · exact e
    · split
      · exact calEnd_duty e
      · exact calEmpty_duty (calAcquired_duty (each_duty (fun _ _ => calTake_duty rfl)
          (onCal_duty (onQuads_duty (onPaths_duty e)))))

theorem calAbortAt_duty {k : Nat} (e : h.duty = a) : (h.calAbortAt k).duty = a := whenB_duty (calEnd_duty rfl) e

theorem calSlot_duty {k : Nat} (e : h.duty = a) : (h.calSlot k).duty = a := whenB_duty (calEnd_duty rfl) (calAbortAt_duty e)

theorem calSideEnd_duty {tx : Bool} (e : h.duty = a) : (h.calSideEnd tx).duty = a := by
  unfold calSideEnd
  extract_lets ps geo bad any s0 s1 spread drift h1 h2 why h3 h4
  have e2 : h2.duty = a := whenB_duty (onCal_duty rfl) (each_duty (fun _ _ => onPath_duty rfl fun p => setCalSide_duty p tx _) e)
  split
  · exact calEnd_duty e2
  · exact whenB_duty (onCal_duty (releaseAdc_duty rfl)) (whenB_duty (calDrops_duty rfl) (onCal_duty e2))

theorem calFull_duty {tx : Bool} (e : h.duty = a) : (h.calFull tx).duty = a := whenB_duty (calSideEnd_duty rfl) e

theorem calLeave_duty {n k : Nat} (e : h.duty = a) : (h.calLeave n k).duty = a :=
  whenB_duty (calPicks_duty (calFull_duty (calFull_duty (calEmpty_duty (onPath_duty rfl))))) e

theorem nvmWriteOp_duty {b : Bytes} {j : Nat} (e : h.duty = a) : (h.nvmWriteOp b j).duty = a := by
  obtain ⟨l, hl⟩ := nvmWriteOp_changes h b j
  rw [hl]
  exact e

theorem startWrite_duty (e : h.duty = a) : h.startWrite.duty = a := by
  unfold startWrite
  dsimp only
  split
  · exact nvmWriteOp_duty e
  · exact e

theorem calCommit_duty {k : Nat} (e : h.duty = a) : (h.calCommit k).duty = a := by
  unfold calCommit
  split
  · exact e
  · split
    · split
      · exact e
      · refine whenB_duty (whenB_duty (startWrite_duty rfl) rfl) (onCal_duty (alarm_duty (onCal_duty ?_)))
        refine releaseAdc_duty (whenB_duty (each_duty (fun _ _ => onQuad_duty rfl) rfl) ?_)
        exact each_duty (fun _ _ => onPath_duty rfl) (each_duty (fun _ _ => onPath_duty rfl) e)
    · exact e

theorem calInject_duty (e : h.duty = a) : h.calInject.duty = a :=
  whenB_duty (each_duty (fun _ _ => whenB_duty (injectAsk_duty rfl) rfl) rfl) e

theorem step3_duty {k : Nat} {frame : Bool} (e : h.duty = a) : (h.step3 k frame).duty = a :=
  whenB_duty (obsRelease_duty rfl) (calPicks_duty (calAcquired_duty (calStart_duty
    (whenB_duty (calInject_duty rfl) (calCommit_duty (calAbortAt_duty e))))))

/-! ### Step 4 and the chains -/

theorem bankStep_duty {ref : Option Nat} {k n : Nat} (e : h.duty = a) : (h.bankStep ref k n).duty = a := by
  unfold bankStep
  dsimp only
  split
  · exact onPath_duty e
  · split
    · exact cease_duty (onPath_duty e)
    · exact e

theorem step4_duty {k : Nat} (e : h.duty = a) : (h.step4 k).duty = a := each_duty (fun _ _ => bankStep_duty rfl) e

theorem chains_duty {frame : Bool} (e : h.duty = a) : (h.chains frame).duty = a := onPaths_duty e

end
end Hw
end Sys2Proof.Machine
end

section
/-! The same for the closing and the opening of a window, and for steps 7 and 8. -/
namespace Sys2Proof.Machine
namespace Hw

section
variable {h : Hw} {a : Roster × Vector PathPins 64}

/-! ### DMA channels and capture set-ups -/

theorem dmaFail_duty {c : Nat} {x : Nat × Nat} (e : h.duty = a) : (h.dmaFail c x).duty = a := by
  unfold dmaFail dmaSettle
  dsimp only
  split
  · split
    · exact pulse_duty e
    · exact e
  · exact e

theorem dmaExpire_duty {m : Mem} {c : Nat} (e : h.duty = a) : (dmaExpire m h c).duty = a := by
  unfold dmaExpire
  exact whenB_duty (f := fun h => h.dmaFail c _) (dmaFail_duty rfl) e

theorem capOpen_duty {s o : Nat} (e : h.duty = a) : (h.capOpen s o).duty = a := by
  unfold capOpen
  split <;> exact e

theorem capArm_duty {s : Nat} {c : CapSetup} (e : h.duty = a) : (h.capArm s c).duty = a := capOpen_duty e

theorem capStart_duty {s cause hits : Nat} {c : CapSetup} {v : BitVec 64} (e : h.duty = a) : (h.capStart s c cause hits v).duty = a := by
  unfold capStart
  dsimp only
  split
  · split <;> exact e
  · exact e
  · exact whenB_duty rfl e

theorem firePull_duty {s hits : Nat} (e : h.duty = a) : (h.firePull s hits).duty = a := by
  unfold firePull
  extract_lets from_ k h1 h2
  have e1 : h1.duty = a := by
    unfold h1
    split
    · split
      · exact e
      · split <;> exact e
    · exact e
  exact e1

theorem capTrigger_duty {s cause hits : Nat} {v : BitVec 64} (e : h.duty = a) : (h.capTrigger s cause hits v).duty = a := by
  unfold capTrigger
  split
  · exact e
  · exact whenB_duty (whenB_duty (capStart_duty rfl) (whenB_duty (firePull_duty rfl) rfl)) e

theorem capOrder_duty {k : Nat} {o : Nat × Nat × Bool} (e : h.duty = a) : (capOrder k h o).duty = a := by
  unfold capOrder
  extract_lets s x
  split
  · exact e
  · extract_lets leaves held
    split
    · split
      · exact e
      · split
        · exact whenB_duty (capTrigger_duty rfl) e
        · exact whenB_duty (capArm_duty rfl) e
    · split
      · exact e
      · split <;> exact e

theorem capTick_duty {k : Nat} (e : h.duty = a) : (capTick h k).duty = a := by
  unfold capTick
  extract_lets due cap h1 h2
  have e2 : h2.duty = a := each_duty (fun _ _ => capOrder_duty rfl) e
  exact whenB_duty (each_duty (fun _ _ => whenB_duty (capTrigger_duty rfl) rfl) rfl) e2

theorem capSend_duty {m : Mem} {s : Nat} (e : h.duty = a) : (h.capSend m s).duty = a := by
  unfold capSend
  split
  · exact e
  · exact whenB_duty (each_duty (fun h g => noteRead_duty rfl) rfl) e

theorem capClose_duty (e : h.duty = a) : h.capClose.duty = a := by
  refine each_duty (fun h s => whenB_duty (capOpen_duty rfl) rfl) (each_duty (fun h s => ?_) e)
  dsimp only
  split
  · rfl
  · split <;> rfl

theorem capTake_duty (e : h.duty = a) : h.capTake.duty = a :=
  each_duty (fun h s => by
    split
    · exact whenB_duty rfl rfl
    · rfl) e

/-! ### The end of a frame and of a window -/

theorem bankError_duty {n key reads : Nat} (e : h.duty = a) : (h.bankError n key reads).duty = a :=
  whenB_duty (whenB_duty (alarm_duty rfl) (onPath_duty rfl)) e

theorem bankErrors_duty {cc n : Nat} (e : h.duty = a) : (h.bankErrors cc n).duty = a := each_duty (fun _ _ => bankError_duty rfl) e

theorem accrue_duty {n : Nat} (e : h.duty = a) : (h.accrue n).duty = a := by
  unfold accrue
  dsimp only
  split
  · exact e
  · exact whenB_duty (onPath_duty rfl) e

theorem accrueAll_duty (e : h.duty = a) : h.accrueAll.duty = a :=
  onPaths_duty (each_duty (fun _ _ => accrue_duty rfl) (onPaths_duty e))

theorem smem_duty {sm : Vector SMem 45} {b : Bool} (e : h.duty = a) : ({ h with smem := sm, fifoSeen := b } : Hw).duty = a := e

theorem frameEnd_duty (e : h.duty = a) : h.frameEnd.duty = a :=
  smem_duty (onFhl_duty (onMas_duty (onQuads_duty (onPaths_duty (accrueAll_duty e)))))

theorem takeLanes_duty {k : Nat} (e : h.duty = a) : (h.takeLanes k).duty = a :=
  onMas_duty (onMas_duty (onFhl_duty (onMas_duty (onFhl_duty e))))

theorem bufError_duty {x : Nat × Nat × Nat} (e : h.duty = a) : (h.bufError x).duty = a := whenB_duty (alarm_duty rfl) (onFhl_duty e)

theorem takeRx_duty {k cc : Nat} (e : h.duty = a) : (h.takeRx k cc).duty = a :=
  onPaths_duty e fun n p => by
    dsimp only
    split <;> rfl

theorem takeTx_duty {cc : Nat} (e : h.duty = a) : (h.takeTx cc).duty = a :=
  onPaths_duty e fun n p => by
    dsimp only
    split <;> rfl

theorem takePaen_duty (e : h.duty = a) : h.takePaen.duty = a :=
  onPaths_duty e fun n p => by
    dsimp only
    split <;> rfl

theorem countSolve_duty {k : Nat} (e : h.duty = a) : (h.countSolve k).duty = a := whenB_duty (onCal_duty rfl) e

/-! ### The window opens -/

theorem openWindow_duty {k : Nat} {frame : Bool} (e : h.duty = a) : (h.openWindow k frame).duty = a := by
  unfold openWindow
  extract_lets c h1 h2 h3 h4 h5 h6 h7 h8 n h9
  have e3 : h3.duty = a := whenB_duty (pulse_duty rfl) (whenB_duty (pulse_duty rfl) (pulse_duty e))
  have e4 : h4.duty = a := whenB_duty (trace_duty rfl) e3
  exact onFhl_duty (onTrl_duty (onTors_duty (onQuads_duty (onCrn_duty (onTrl_duty e4)))))

/-! ### Steps 7 and 8 -/

theorem post_duty {t : EngId} {job unit n : Nat} {mandatory : Bool} (e : h.duty = a) : (h.post t job unit mandatory n).duty = a := by
  unfold post
  dsimp only
  split
  · exact dropJob_duty e
  · exact pulse_duty (onTor_duty e)

theorem offer1_duty {k c : Nat} {act : Hw → Cand → Hw} (hact : ∀ h x, (act h x).duty = h.duty) {b : Hw × Nat} {x : Cand}
    (e : b.1.duty = a) : (offer1 k c act b x).1.duty = a := by
  unfold offer1
  extract_lets h lim h1 h2 h3
  split
  · exact e
  · split
    · have e2 : h2.duty = a := (hact h1 x).trans e
      show h3.duty = a
      unfold h3
      split
      · exact post_duty e2
      · exact e2
    · exact e

theorem offer_duty {k c : Nat} {l : List Cand} {act : Hw → Cand → Hw} (hact : ∀ h x, (act h x).duty = h.duty) (e : h.duty = a) :
    (h.offer k c l act).duty = a :=
  List.foldlRecOn l _ (motive := fun b : Hw × Nat => b.1.duty = a) e fun _ hb _ _ => offer1_duty hact hb

theorem step7_duty {m : Mem} {k : Nat} (e : h.duty = a) : (h.step7 m k).duty = a :=
  offer_duty (fun _ _ => rfl) (offer_duty (fun _ _ => capSend_duty rfl) (offer_duty (fun _ _ => onCrn_duty rfl)
    (offer_duty (fun _ _ => whenB_duty (each_duty (fun _ _ => onQuad_duty rfl) rfl) rfl)
      (offer_duty (fun _ _ => whenB_duty (onQuad_duty rfl) (onTrl_duty rfl)) e))))

theorem occStart_duty {k : Nat} (e : h.duty = a) : (h.occStart k).duty = a := each_duty (fun _ _ => onCrn_duty rfl) (onCrn_duty e)

theorem searchShares_duty {n : Nat} (e : h.duty = a) : (h.searchShares n).duty = a :=
  each_duty (fun h o => by
    unfold shares1
    dsimp only
    split
    · exact post_duty rfl
    · exact failContext_duty rfl) e

theorem ulStart_duty {k : Nat} (e : h.duty = a) : (h.ulStart k).duty = a := by
  unfold ulStart
  split
  · exact e
  · exact onFhl_duty e

theorem latchNext_duty {k : Nat} (e : h.duty = a) : (h.latchNext k).duty = a := whenB_duty (onMas_duty rfl) e

theorem biasBreak_duty {k n lead : Nat} {op : Nat × Nat} {frame : Bool} (e : h.duty = a) : (h.biasBreak k n lead op frame).duty = a := by
  unfold biasBreak
  extract_lets b on soon change
  split
  · split
    · exact onPath_duty e
    · split
      · exact onPath_duty e
      · exact e
  · split
    · exact onPath_duty e
    · split
      · split
        · exact onPath_duty e
        · exact e
      · exact onPath_duty e

theorem biasTick_duty {k n : Nat} {frame : Bool} (e : h.duty = a) : (h.biasTick k n frame).duty = a := by
  unfold biasTick
  extract_lets h1 safe
  have e1 : h1.duty = a := onPath_duty e
  split
  · exact e1
  · extract_lets op
    split
    · exact biasBreak_duty e1
    · exact onPath_duty e1

theorem wearTick_duty {n : Nat} (e : h.duty = a) : (h.wearTick n).duty = a :=
  whenB_duty (whenB_duty (busAdd_duty rfl) (alarm_duty (onPath_duty rfl))) e

end

/-! ### The two operations that move pins -/

section
variable {h : Hw} {a : Roster}

theorem onPaths_roster {f : Nat → Path → Path} (e : h.roster = a) (hf : ∀ n p, (f n p).orders = p.orders := by exact fun _ _ => rfl) :
    (h.onPaths f).roster = a := by
  rw [← e]
  simp only [roster, onPaths, map_vmapi _ _ _ hf]

theorem onTrl_roster {f : Trl → Trl} (e : h.roster = a) : (h.onTrl f).roster = a := e
theorem out_roster {o : Out} (e : h.roster = a) : ({ h with out := o } : Hw).roster = a := e
theorem happen_roster {x : Happening} (e : h.roster = a) : (h.happen x).roster = a := e

theorem whenB_roster {c : Bool} {f : Hw → Hw} (hf : (f h).roster = h.roster) (e : h.roster = a) : (h.whenB c f).roster = a :=
  (whenB_keep roster h c f hf).trans e

theorem each_roster {α : Type} {l : List α} {f : Hw → α → Hw} (hf : ∀ h x, (f h x).roster = h.roster) (e : h.roster = a) :
    (h.each l f).roster = a :=
  (each_keep roster f hf l h).trans e

theorem roster_of_duty_eq {g : Hw} (hg : g.duty = h.duty) (e : h.roster = a) : g.roster = a := (roster_of_duty hg).trans e

/-- A thermal trip drives every PAEN low, and keeps the paths' orders. -/
theorem tripNow_roster {sensor : Nat} (e : h.roster = a) : (h.tripNow sensor).roster = a := 
  whenB_roster (happen_roster (out_roster (onPaths_roster (onTrl_roster rfl)))) (onTrl_roster e)

theorem takeSensors_roster {l : List (Fin 32 × Option Int)} (e : h.roster = a) : (h.takeSensors l).roster = a :=
  each_roster (fun _ _ => whenB_roster (tripNow_roster rfl) rfl) e

theorem tddPins_roster {k : Nat} (e : h.roster = a) : (h.tddPins k).roster = a := by
  unfold tddPins
  split
  · exact e
  · exact onPaths_roster e

theorem closeWindow_roster {m : Mem} {w : WindowIn} {k : Nat} {frame : Bool} (e : h.roster = a) : (h.closeWindow m w k frame).roster = a := by
  unfold closeWindow
  extract_lets h1 cc h2 h3 h4 h5 h6 h7 h8 h9 h10
  have e1 : h1.duty = h.duty :=
    capClose_duty (each_duty (fun _ _ => dmaExpire_duty rfl) (each_duty (fun _ _ => abandonAt_duty rfl) rfl))
  have e2 : h2.duty = (h1.takeSensors w.sensors).duty := each_duty (fun _ _ => bufError_duty rfl) (onFhl_duty (takeRx_duty rfl))
  have e3 : h3.duty = h2.duty := capTake_duty (takeTx_duty (airClose_duty (takeLanes_duty rfl)))
  have e4 : h4.duty = h3.duty := each_duty (fun _ _ => onPath_duty rfl) (each_duty (fun _ _ => bankErrors_duty rfl) rfl)
  have e5 : h5.duty = h4.duty := each_duty (fun _ _ => out_duty (fifoError_duty rfl)) rfl
  have e7 : h7.duty = h5.duty := whenB_duty (onTrl_duty rfl) (takePaen_duty rfl)
  have e8 : h8.duty = h7.duty := onTrl_duty (countSolve_duty rfl)
  have e10 : (h10.whenB frame frameEnd).duty = h8.duty := whenB_duty (frameEnd_duty rfl) (onQuads_duty (onPaths_duty rfl))
  have late : (h10.whenB frame frameEnd).duty = (h1.takeSensors w.sensors).duty :=
    e10.trans (e8.trans (e7.trans (e5.trans (e4.trans (e3.trans e2)))))
  exact roster_of_duty_eq late (takeSensors_roster (roster_of_duty_eq e1 e))

/-- The closing of a window leaves the slot, the stage, the announced entry and the paths' orders. -/
theorem closed_roster (h : Hw) (m : Mem) (w : WindowIn) : (h.closed m w).roster = h.roster := by
  have time : h.toTick.roster = h.roster := by simp [roster, toTick]
  exact whenB_roster (closeWindow_roster rfl) (roster_of_duty_eq (onQuads_duty (onPaths_duty rfl)) time)

/-- So does its opening. -/
theorem opened_roster (h : Hw) (m : Mem) (w : WindowIn) (k : Nat) (frame : Bool) :
    ((h.closed m w).openWindow k frame).roster = h.roster :=
  roster_of_duty_eq (openWindow_duty rfl) (closed_roster h m w)

end
end Hw
end Sys2Proof.Machine
end

section
/-! Step 1: the slot in force, the stage and the announced entry behind it, by what is due on the tick (R27, R29, R65, R67, R68, R70). -/
namespace Sys2Proof.Machine
namespace Hw

/-- The slot in force, the stage and the announced entry. -/
def entry (h : Hw) : Option Nat × Nat × Option (Nat × Nat) := (h.mode.slot, h.sta.stage, h.sta.announced)
/-- The orders of the paths. -/
def orders (h : Hw) : Vector PathOrders 64 := h.paths.map Path.orders

theorem entry_of_roster {g h : Hw} (e : g.roster = h.roster) : g.entry = h.entry :=
  congrArg (fun r => (r.mode.slot, r.stage, r.announced)) e
theorem entry_of_duty {g h : Hw} (e : g.duty = h.duty) : g.entry = h.entry := entry_of_roster (roster_of_duty e)
theorem orders_of_duty {g h : Hw} (e : g.duty = h.duty) : g.orders = h.orders := congrArg Roster.orders (roster_of_duty e)

theorem unsync_duty (h : Hw) : h.unsync.duty = h.duty := rfl

theorem bankInit_duty (h : Hw) (new : Slot) : (h.bankInit new).duty = h.duty := onPaths_duty rfl fun n p => by
  split <;> rfl

/-- Of what stands here a slot's entry changes the slot's state alone. -/
theorem enterSlot_changes (h : Hw) (new k : Nat) :
    ∃ m : Mode, m.slot = some new ∧ (h.enterSlot new k).duty = ({ h with mode := m } : Hw).duty := by
  unfold enterSlot
  extract_lets old oldR newR rx tx cuts marks flows up c ep mode h1 h2 h3 h4 lost
  split
  · next e => exact ⟨h.mode, e, rfl⟩
  · refine ⟨h1.mode, rfl, ?_⟩
    have e2 : h2.duty = h1.duty := by
      unfold h2
      split
      · exact unsync_duty h1
      · rfl
    have e3 : h3.duty = h1.duty := onPaths_duty e2
    have e4 : h4.duty = h1.duty := by
      unfold h4
      clear_value newR
      split
      · exact (bankInit_duty h3 _).trans e3
      · exact e3
    exact onCrn_duty e4

theorem enterSlot_entry (h : Hw) (new k : Nat) : (h.enterSlot new k).entry = (some new, h.sta.stage, h.sta.announced) := by
  obtain ⟨m, hm, e⟩ := h.enterSlot_changes new k
  rw [entry_of_duty e, ← hm]
  rfl

theorem enterSlot_orders (h : Hw) (new k : Nat) : (h.enterSlot new k).orders = h.orders := by
  obtain ⟨m, -, e⟩ := h.enterSlot_changes new k
  exact (orders_of_duty e).trans rfl

theorem settleStart_duty (h : Hw) : h.settleStart.duty = h.duty := by
  unfold settleStart
  split
  · rfl
  · split
    · refine onPaths_duty rfl fun n p => ?_
      dsimp only
      split <;> rfl
    · rfl

theorem declareS8_duty (h : Hw) : h.declareS8.duty = (h.enterStage 8).duty := ceaseAll_duty rfl

theorem declareS8_entry (h : Hw) : h.declareS8.entry = (h.mode.slot, 8, h.sta.announced) := entry_of_duty h.declareS8_duty

theorem declareS8_orders (h : Hw) : h.declareS8.orders = h.orders := orders_of_duty (h := h.enterStage 8) h.declareS8_duty

/-- A fallback brings slot 7 (R70), and leaves the orders of the paths. -/
theorem applyFallback_keeps (h : Hw) (k : Nat) : (h.applyFallback k).mode.slot = some 7 ∧ (h.applyFallback k).orders = h.orders := by
  unfold applyFallback
  extract_lets out gone ann mode h1 h2 h3
  have slot : h3.mode.slot = some 7 := congrArg Prod.fst (enterSlot_entry h2 7 k)
  have rest : h3.orders = h.orders := (enterSlot_orders h2 7 k).trans (orders_of_duty (h := h1) (each_duty (fun _ _ => alarm_duty rfl) rfl))
  split
  · exact ⟨slot, rest⟩
  · exact ⟨(congrArg Prod.fst (declareS8_entry _)).trans slot, (declareS8_orders _).trans rest⟩

/-- An announced entry begins S7 in S6, and S8 later (R65, R67, R68). -/
theorem applyAnnounced_keeps (h : Hw) (slot k : Nat) :
    (h.applyAnnounced slot k).entry = (some slot, if h.sta.stage = 6 then 7 else 8, none) ∧ (h.applyAnnounced slot k).orders = h.orders := by
  unfold applyAnnounced
  extract_lets s7 h1
  have entered : h1.entry = (some slot, h.sta.stage, none) := enterSlot_entry ..
  have kept : h1.orders = h.orders := enterSlot_orders ..
  have hs : h1.mode.slot = some slot := congrArg Prod.fst entered
  have ha : h1.sta.announced = none := congrArg (·.2.2) entered
  by_cases s : h.sta.stage = 6
  · rw [if_pos (show s7 = true from beq_iff_eq.mpr s), if_pos s]
    exact ⟨by rw [← hs, ← ha]; rfl, kept⟩
  · rw [if_neg (show ¬ s7 = true from fun e => s (beq_iff_eq.mp e)), if_neg s]
    have settled : (if h1.sta.wornAtEntry then h1 else h1.settleStart).duty = h1.duty := by
      split
      · rfl
      · exact h1.settleStart_duty
    generalize (if h1.sta.wornAtEntry then h1 else h1.settleStart) = g at settled ⊢
    have ge : g.entry = (some slot, h.sta.stage, none) := (entry_of_duty settled).trans entered
    refine ⟨?_, (declareS8_orders g).trans ((orders_of_duty settled).trans kept)⟩
    rw [declareS8_entry, show g.mode.slot = some slot from congrArg Prod.fst ge, show g.sta.announced = none from congrArg (·.2.2) ge]

/-- A selection of the tick that is not void brings its slot; without one the slot stands (R27, R29). -/
theorem applySelect_keeps (h : Hw) (k : Nat) :
    (h.applySelect k).entry =
        (((h.mode.selects.find? fun m => m.tick == k && !m.void).map fun x => some x.slot).getD h.mode.slot, h.sta.stage, h.sta.announced) ∧
      (h.applySelect k).orders = h.orders := by
  unfold applySelect
  split
  · next e =>
    rw [e]
    exact ⟨rfl, rfl⟩
  · next x e =>
    rw [e]
    exact ⟨enterSlot_entry .., enterSlot_orders ..⟩

theorem step1_orders (h : Hw) (k : Nat) : (h.step1 k).orders = h.orders := by
  unfold step1
  split
  · exact (h.applyFallback_keeps k).2
  · split
    · split
      · exact (h.applyAnnounced_keeps ..).2
      · exact (h.applySelect_keeps k).2
    · exact (h.applySelect_keeps k).2

theorem step1_fallback {h : Hw} {k : Nat} (hf : h.mode.fallback = some k) : (h.step1 k).mode.slot = some 7 := by
  rw [step1, if_pos hf]
  exact (h.applyFallback_keeps k).1

theorem step1_announced {h : Hw} {k sl : Nat} (hf : h.mode.fallback ≠ some k) (ha : h.sta.announced = some (sl, k)) :
    (h.step1 k).entry = (some sl, if h.sta.stage = 6 then 7 else 8, none) := by
  rw [step1, if_neg hf, ha]
  dsimp only
  rw [if_pos rfl]
  exact (h.applyAnnounced_keeps sl k).1

theorem step1_select {h : Hw} {k : Nat} (hf : h.mode.fallback ≠ some k) (ha : ∀ sl, h.sta.announced ≠ some (sl, k)) :
    h.step1 k = h.applySelect k := by
  rw [step1, if_neg hf]
  split
  · next sl t e => exact if_neg fun ht : t = k => ha sl (ht ▸ e)
  · rfl

end Hw
end Sys2Proof.Machine
end

section
/-! Step 2: the retirement of a path (R26, R319), and what leaves a retired path as it is (R190, R312). -/
namespace Sys2Proof.Machine

/-- A path retired for cause `c`, its pins low, with the retirements `l` left to come. -/
structure Path.Retired (p : Path) (l : List (Nat × Nat)) (c : Nat) : Prop where
  retired : p.retired = true
  paen : p.paen = false
  lnaen : p.lnaen = false
  disabled : p.disabled = false
  retireAt : p.retireAt = l
  failCause : p.fem.failCause = c

theorem Path.Retired.of_duty {p q : Path} {l : List (Nat × Nat)} {c : Nat} (e : q.duty = p.duty) (hp : p.Retired l c) : q.Retired l c where
  retired := (congrArg (·.1.1) e).trans hp.retired
  paen := (congrArg (·.2.1) e).trans hp.paen
  lnaen := (congrArg (·.2.2.1) e).trans hp.lnaen
  disabled := (congrArg (·.2.2.2) e).trans hp.disabled
  retireAt := (congrArg (·.1.2.1) e).trans hp.retireAt
  failCause := (congrArg (·.1.2.2.2) e).trans hp.failCause

namespace Hw

/-- What holds before an operation and after it holds after it on a condition. -/
theorem whenB_induct {P : Hw → Prop} {h : Hw} {c : Bool} {f : Hw → Hw} (hf : P (f h)) (e : P h) : P (h.whenB c f) := by
  cases c
  · exact e
  · exact hf

/-- What every entry of a list keeps, the list keeps. -/
theorem each_induct {α : Type} {P : Hw → Prop} {l : List α} {f : Hw → α → Hw} {h : Hw}
    (hf : ∀ h, ∀ x ∈ l, P h → P (f h x)) (e : P h) : P (h.each l f) :=
  List.foldlRecOn l f (motive := P) e fun h hh x hx => hf h x hx hh

/-- Of a list without repetitions one entry changes a value, and the others leave it. -/
theorem each_once {α β : Type} {g : Hw → β} {f : Hw → α → Hw} {l : List α} {n : α} {a b : β} {h : Hw} (hl : l.Nodup) (hn : n ∈ l)
    (other : ∀ h m, m ≠ n → g (f h m) = g h) (own : ∀ h, g h = a → g (f h n) = b) (e : g h = a) : g (h.each l f) = b := by
  obtain ⟨l1, l2, rfl⟩ := List.append_of_mem hn
  have first : ∀ m ∈ l1, m ≠ n := fun m hm hmn => (List.nodup_append.mp hl).2.2 m hm n (by simp) hmn
  have last : ∀ m ∈ l2, m ≠ n := fun m hm hmn => (List.nodup_cons.mp (List.nodup_append.mp hl).2.1).1 (hmn ▸ hm)
  have e1 : g (h.each l1 f) = a := each_induct (P := fun h => g h = a) (fun h m hm hh => (other h m (first m hm)).trans hh) e
  have split : h.each (l1 ++ n :: l2) f = (f (h.each l1 f) n).each l2 f := by simp [each]
  rw [split]
  exact each_induct (P := fun h => g h = b) (fun h m hm hh => (other h m (last m hm)).trans hh) (own _ e1)

theorem path_orders {g h : Hw} (e : g.orders = h.orders) {n : Nat} (hn : n < 64) : (g.path n).orders = (h.path n).orders := by
  have ho : g.paths.map Path.orders = h.paths.map Path.orders := e
  rw [path, ← getN_map Path.orders _ hn _ (false, [], none, 0), ho, getN_map Path.orders _ hn {}]
  rfl

theorem path_duty {g h : Hw} (e : g.duty = h.duty) {n : Nat} (hn : n < 64) : (g.path n).duty = (h.path n).duty := by
  have hp : g.paths.map Path.pins = h.paths.map Path.pins := congrArg Prod.snd e
  refine Prod.ext (path_orders (orders_of_duty e) hn) ?_
  show (g.path n).pins = (h.path n).pins
  rw [path, ← getN_map Path.pins _ hn _ (false, false, false), hp, getN_map Path.pins _ hn {}]
  rfl

/-! ### Retirements -/

theorem markChanged_duty (h : Hw) (n : Nat) : (h.markChanged n).duty = h.duty := rfl

/-- The causes of Table 14.12 that are due: one other than the baseband's own takes precedence. -/
def retireCause (due : List (Nat × Nat)) : Nat := ((due.find? fun r => r.2 != 6).map (·.2)).getD 6

theorem retireDue_entry (h : Hw) (k n : Nat) : (h.retireDue k n).entry = h.entry := by
  unfold retireDue
  extract_lets due was cause write h1 up h2 h3
  split
  · rfl
  · split
    · rfl
    · have e3 : h3.duty = h2.duty := whenB_duty rfl rfl
      exact (entry_of_duty (calLeave_duty e3)).trans rfl

theorem retireDue_other (h : Hw) {k m n : Nat} (hn : n < 64) (hm : m ≠ n) : ((h.retireDue k m).path n).duty = (h.path n).duty := by
  unfold retireDue
  extract_lets due was cause write h1 up h2 h3
  have e1 : h1.path n = h.path n := onPath_path_ne h _ hm.symm
  split
  · rfl
  · split
    · rw [onPath_path_ne _ _ hm.symm, e1]
    · have e3 : h3.duty = h2.duty := whenB_duty rfl rfl
      rw [path_duty (markChanged_duty ..) hn, path_duty (calLeave_duty e3) hn, onPath_path_ne _ _ hm.symm, e1]

/-- The duty of a path that is retired: what was due is gone, and no restore runs. -/
def retiredDuty (k : Nat) (l : List (Nat × Nat)) : PathOrders × PathPins :=
  ((true, l.filter fun r => decide (k < r.1), none, retireCause (l.filter fun r => decide (r.1 ≤ k))), false, false, false)

theorem retireDue_own (h : Hw) {k n : Nat} (hn : n < 64) (hr : (h.path n).retired = false) (hs : (h.path n).restore = none)
    (hd : ((h.path n).retireAt.filter fun r => decide (r.1 ≤ k)) ≠ []) :
    ((h.retireDue k n).path n).duty = retiredDuty k (h.path n).retireAt := by
  unfold retireDue
  extract_lets due was cause write h1 up h2 h3
  rw [if_neg (show ¬ due.isEmpty = true from fun e => hd (List.isEmpty_iff.mp e)), if_neg (show ¬ was = true by simp [was, hr])]
  have e3 : h3.duty = h2.duty := whenB_duty rfl rfl
  rw [path_duty (markChanged_duty ..) hn, path_duty (calLeave_duty e3) hn, onPath_path _ _ hn, onPath_path _ _ hn]
  show ((true, _, (h.path n).restore, _), false, false, false) = _
  rw [hs]
  rfl

/-! ### Restores -/

theorem restoreDue_entry (h : Hw) (k n : Nat) : (h.restoreDue k n).entry = h.entry := by
  unfold restoreDue
  split
  · rfl
  · refine whenB_keep entry _ _ _ ?_
    dsimp only
    split <;> rfl

/-- Where no restore of path n is under way none of any path touches it. -/
theorem restoreDue_path (h : Hw) {k m n : Nat} (hs : (h.path n).restore = none) : (h.restoreDue k m).path n = h.path n := by
  unfold restoreDue
  split
  · rfl
  · next r e =>
    have hm : n ≠ m := by
      rintro rfl
      rw [hs] at e
      cases e
    refine whenB_keep (fun h => h.path n) _ _ _ ?_
    dsimp only
    split
    · exact onPath_path_ne _ _ hm
    · exact (onPath_path_ne _ _ hm).trans (onPath_path_ne _ _ hm)

theorem restoreStart_entry (h : Hw) (k n : Nat) : (h.restoreStart k n).entry = h.entry :=
  whenB_keep entry _ _ _ (whenB_keep entry _ _ _ rfl)

theorem onPath_retired {h : Hw} {m n : Nat} {f : Path → Path} {l : List (Nat × Nat)} {c : Nat} (hn : n < 64)
    (hf : ∀ p, p.Retired l c → (f p).Retired l c) (e : (h.path n).Retired l c) : ((h.onPath m f).path n).Retired l c := by
  by_cases hm : n = m
  · subst hm
    rw [onPath_path _ _ hn]
    exact hf _ e
  · rwa [onPath_path_ne _ _ hm]

theorem busAdd_retired {h : Hw} {q r i n : Nat} {l : List (Nat × Nat)} {c : Nat} (e : (h.path n).Retired l c) :
    ((h.busAdd q r i).path n).Retired l c := e

/-- The start of a restore leaves a retired path retired. -/
theorem restoreStart_retired {h : Hw} {k m n : Nat} {l : List (Nat × Nat)} {c : Nat} (hn : n < 64) (e : (h.path n).Retired l c) :
    ((h.restoreStart k m).path n).Retired l c := by
  refine whenB_induct (P := fun g => (g.path n).Retired l c) ?_ e
  dsimp only
  generalize ((h.path m).retired && (h.path m).restore.isNone) = go
  have begun := onPath_retired (m := m) (f := fun p =>
    { p with restoreAt := p.restoreAt.filter (k < ·), restore := if go then some { target := k } else p.restore })
    hn (fun p hp => ⟨hp.retired, hp.paen, hp.lnaen, hp.disabled, hp.retireAt, hp.failCause⟩) e
  exact whenB_induct (P := fun g => (g.path n).Retired l c) (busAdd_retired begun) begun

/-! ### The step -/

theorem wornNoSpare_entry (h : Hw) (kf : Nat) : (h.wornNoSpare kf).entry = h.entry := rfl
theorem wornNoSpare_retired {h : Hw} {kf n : Nat} {l : List (Nat × Nat)} {c : Nat} (e : (h.path n).Retired l c) :
    ((h.wornNoSpare kf).path n).Retired l c := e

theorem step2_entry (h : Hw) (k : Nat) : (h.step2 k).entry = h.entry := by
  unfold step2
  extract_lets before all h1 h2 h3
  have e3 : h3.entry = h.entry := (each_keep entry _ (fun h n => h.restoreStart_entry k n) all h2).trans
    ((each_keep entry _ (fun h n => h.restoreDue_entry k n) all h1).trans (each_keep entry _ (fun h n => h.retireDue_entry k n) all h))
  split
  · exact (whenB_keep entry _ _ _ (wornNoSpare_entry ..)).trans e3
  · exact e3

/-- A path with a retirement due, which no restore saves, is retired. -/
theorem step2_retired (h : Hw) {k n : Nat} (hn : n < 64) (hr : (h.path n).retired = false) (hs : (h.path n).restore = none)
    (hd : ((h.path n).retireAt.filter fun r => decide (r.1 ≤ k)) ≠ []) :
    ((h.step2 k).path n).Retired ((h.path n).retireAt.filter fun r => decide (k < r.1))
      (retireCause ((h.path n).retireAt.filter fun r => decide (r.1 ≤ k))) := by
  unfold step2
  extract_lets before all h1 h2 h3
  have e1 : (h1.path n).duty = retiredDuty k (h.path n).retireAt := by
    refine each_once (g := fun h => (h.path n).duty) List.nodup_range (List.mem_range.mpr hn) (fun g m hm => g.retireDue_other hn hm)
      (fun g hg => ?_) (rfl : (h.path n).duty = _)
    have gr : (g.path n).retired = (h.path n).retired := congrArg (·.1.1) hg
    have ga : (g.path n).retireAt = (h.path n).retireAt := congrArg (·.1.2.1) hg
    have gs : (g.path n).restore = (h.path n).restore := congrArg (·.1.2.2.1) hg
    rw [← ga]
    exact g.retireDue_own hn (gr.trans hr) (gs.trans hs) (by rwa [ga])
  have e2 : (h2.path n).duty = retiredDuty k (h.path n).retireAt :=
    each_induct (P := fun g => (g.path n).duty = retiredDuty k (h.path n).retireAt) (fun g m _ hg => by
      rwa [restoreDue_path g (congrArg (·.1.2.2.1) hg)]) e1
  have e3 : (h3.path n).Retired _ _ := each_induct (P := fun g => (g.path n).Retired _ _) (fun g m _ hg => restoreStart_retired hn hg)
    ⟨congrArg (·.1.1) e2, congrArg (·.2.1) e2, congrArg (·.2.2.1) e2, congrArg (·.2.2.2) e2, congrArg (·.1.2.1) e2, congrArg (·.1.2.2.2) e2⟩
  split
  · clear_value h3
    exact whenB_induct (P := fun g => (g.path n).Retired _ _) (wornNoSpare_retired e3) e3
  · exact e3

/-- The TDD code drives no pin of a retired path (R26). -/
theorem tddPins_retired {h : Hw} {k n : Nat} {l : List (Nat × Nat)} {c : Nat} (hn : n < 64) (e : (h.path n).Retired l c) :
    ((h.tddPins k).path n).Retired l c := by
  have out : h.retired n = true := e.retired
  unfold tddPins
  split
  · exact e
  · rw [onPaths_path _ _ hn]
    exact ⟨e.retired, by simp [Path.setPaen, enabledTx, out], by simp [enabledRx, out], e.disabled, e.retireAt, e.failCause⟩

end Hw
end Sys2Proof.Machine
end

section
/-! A tick as a whole: what follows step 1 leaves the entry, what follows step 2 leaves a retired path. Settles O26. -/
namespace Sys2Proof.Machine
namespace Hw

/-- Step 8 up to the pins leaves what stands here; then come the pins, and wear on a frame tick. -/
theorem step8_split (h : Hw) (m : Mem) (k : Nat) (frame : Bool) : ∃ g : Hw, g.duty = h.duty ∧ h.step8 m k frame =
    (g.whenB (7 ≤ g.sta.stage) fun g => g.tddPins k).whenB frame fun g => g.each (List.range 64) wearTick := by
  unfold step8
  extract_lets h1 h2 up h3 h4 h5
  have e1 : h1.duty = h.duty := searchShares_duty (occStart_duty rfl)
  have e2 : h2.duty = h1.duty := latchNext_duty (ulStart_duty (airTick_duty rfl))
  have e4 : h4.duty = h2.duty := each_duty (fun _ _ => biasTick_duty rfl) (onPaths_duty rfl)
  exact ⟨h4, e4.trans (e2.trans e1), rfl⟩

theorem wearTicks_duty (h : Hw) (frame : Bool) : (h.whenB frame fun g => g.each (List.range 64) wearTick).duty = h.duty :=
  whenB_duty (each_duty (fun _ _ => wearTick_duty rfl) rfl) rfl

theorem step8_roster (h : Hw) (m : Mem) (k : Nat) (frame : Bool) : (h.step8 m k frame).roster = h.roster := by
  obtain ⟨g, hg, e⟩ := h.step8_split m k frame
  rw [e]
  exact roster_of_duty_eq (wearTicks_duty ..) (whenB_roster (tddPins_roster rfl) (roster_of_duty hg))

theorem step8_retired {h : Hw} {m : Mem} {k n : Nat} {frame : Bool} {l : List (Nat × Nat)} {c : Nat} (hn : n < 64)
    (e : (h.path n).Retired l c) : ((h.step8 m k frame).path n).Retired l c := by
  obtain ⟨g, hg, eq⟩ := h.step8_split m k frame
  have early : (g.path n).Retired l c := .of_duty (path_duty hg hn) e
  rw [eq]
  exact .of_duty (path_duty (wearTicks_duty ..) hn) (whenB_induct (P := fun g => (g.path n).Retired l c) (tddPins_retired hn early) early)

/-- Between step 2 and step 8 all that stands here stays. -/
theorem steps_split (h : Hw) (m : Mem) (k : Nat) (frame : Bool) : ∃ f g : Hw,
    f.duty = (h.whenB frame fun h => h.step1 k).duty ∧ g.duty = (f.step2 k).duty ∧ h.steps m k frame = g.step8 m k frame := by
  unfold steps
  extract_lets slot stage h1 first h2 h3 h4 h5 h6 h7
  have e1 : (h1.whenB (h1.mode.slot != slot) fun h => h.calSlot k).duty = h1.duty := whenB_duty (calSlot_duty rfl) rfl
  refine ⟨_, h7, e1, ?_, rfl⟩
  have e4 : h4.duty = h2.duty := chains_duty (step4_duty (step3_duty rfl))
  have e5 : h5.duty = h4.duty := whenB_duty (step6_duty rfl) rfl
  have e6 : h6.duty = h5.duty := capTick_duty (each_duty (fun _ _ => obsTick_duty rfl) rfl)
  have e7 : h7.duty = h6.duty := whenB_duty (step7_duty rfl) rfl
  exact e7.trans (e6.trans (e5.trans e4))

theorem dropAdc_duty (h : Hw) : h.dropAdc.duty = h.duty := onPaths_duty rfl

theorem takeSym_duty (h : Hw) (k : Nat) : (h.takeSym k).duty = h.duty := rfl

theorem tick_duty (h : Hw) (m : Mem) (w : WindowIn) : (h.tick m w).duty =
    (((h.closed m w).openWindow h.nextTick (h.isFrame h.nextTick)).steps m h.nextTick (h.isFrame h.nextTick)).duty :=
  (takeSym_duty ..).trans (dropAdc_duty _)

/-- The hardware as step 1 of a tick finds it. -/
def beforeStep1 (h : Hw) (m : Mem) (w : WindowIn) : Hw := (h.closed m w).openWindow h.nextTick (h.isFrame h.nextTick)

theorem beforeStep1_roster (h : Hw) (m : Mem) (w : WindowIn) : (h.beforeStep1 m w).roster = h.roster := opened_roster ..

/-- The slot, the stage and the announced entry behind a tick are those behind its first step. -/
theorem tick_entry (h : Hw) (m : Mem) (w : WindowIn) :
    (h.tick m w).entry = ((h.beforeStep1 m w).whenB (h.isFrame h.nextTick) fun g => g.step1 h.nextTick).entry := by
  obtain ⟨f, g, hf, hg, e⟩ := (h.beforeStep1 m w).steps_split m h.nextTick (h.isFrame h.nextTick)
  rw [entry_of_duty (h.tick_duty m w), show (h.closed m w).openWindow _ _ = h.beforeStep1 m w from rfl, e,
    entry_of_roster (g.step8_roster ..), entry_of_duty hg, step2_entry, entry_of_duty hf]

/-- A path with a retirement due, which no restore saves, is retired behind the tick. -/
theorem tick_retired (h : Hw) (m : Mem) (w : WindowIn) {n : Nat} (hn : n < 64) (hr : (h.path n).retired = false)
    (hs : (h.path n).restore = none) (hd : ((h.path n).retireAt.filter fun r => decide (r.1 ≤ h.nextTick)) ≠ []) :
    ((h.tick m w).path n).Retired ((h.path n).retireAt.filter fun r => decide (h.nextTick < r.1))
      (retireCause ((h.path n).retireAt.filter fun r => decide (r.1 ≤ h.nextTick))) := by
  obtain ⟨f, g, hf, hg, e⟩ := (h.beforeStep1 m w).steps_split m h.nextTick (h.isFrame h.nextTick)
  have kept : f.orders = h.orders := (orders_of_duty hf).trans
    ((whenB_keep orders _ _ _ (step1_orders ..)).trans (congrArg Roster.orders (h.beforeStep1_roster m w)))
  have fo : (f.path n).orders = (h.path n).orders := path_orders kept hn
  have fr : (f.path n).retired = (h.path n).retired := congrArg (·.1) fo
  have fa : (f.path n).retireAt = (h.path n).retireAt := congrArg (·.2.1) fo
  have fs : (f.path n).restore = (h.path n).restore := congrArg (·.2.2.1) fo
  have two := f.step2_retired (k := h.nextTick) hn (fr.trans hr) (fs.trans hs) (by rwa [fa])
  rw [fa] at two
  refine .of_duty (path_duty (h.tick_duty m w) hn) ?_
  rw [show (h.closed m w).openWindow _ _ = h.beforeStep1 m w from rfl, e]
  exact step8_retired hn (.of_duty (path_duty hg hn) two)

theorem settle_entry (h : Hw) : h.settle.entry = h.entry := by simp [entry]

theorem settle_path (h : Hw) (n : Nat) : h.settle.path n = h.path n := by simp [path]

/-! ### The entry behind a tick, by what is due on it -/

section
variable {h : Hw} {m : Mem} {w : WindowIn}

theorem tick_entry_within (hf : ¬ h.nextTick % h.perFrame = 0) : (h.tick m w).entry = h.entry := by
  have frame : h.isFrame h.nextTick = false := beq_eq_false_iff_ne.mpr hf
  rw [tick_entry, frame]
  exact entry_of_roster (h.beforeStep1_roster m w)

theorem tick_entry_frame (hf : h.nextTick % h.perFrame = 0) : (h.tick m w).entry = ((h.beforeStep1 m w).step1 h.nextTick).entry := by
  have frame : h.isFrame h.nextTick = true := beq_iff_eq.mpr hf
  rw [tick_entry, frame]
  rfl

theorem beforeStep1_mode : (h.beforeStep1 m w).mode = h.mode := congrArg Roster.mode (h.beforeStep1_roster m w)
theorem beforeStep1_stage : (h.beforeStep1 m w).sta.stage = h.sta.stage := congrArg Roster.stage (h.beforeStep1_roster m w)
theorem beforeStep1_announced : (h.beforeStep1 m w).sta.announced = h.sta.announced :=
  congrArg Roster.announced (h.beforeStep1_roster m w)

theorem tick_slot_fallback (hf : h.nextTick % h.perFrame = 0) (hb : h.mode.fallback = some h.nextTick) :
    (h.tick m w).mode.slot = some 7 :=
  (congrArg Prod.fst (tick_entry_frame hf)).trans (step1_fallback (by rwa [beforeStep1_mode]))

theorem tick_entry_announced {sl : Nat} (hf : h.nextTick % h.perFrame = 0) (hb : h.mode.fallback ≠ some h.nextTick)
    (ha : h.sta.announced = some (sl, h.nextTick)) : (h.tick m w).entry = (some sl, if h.sta.stage = 6 then 7 else 8, none) := by
  rw [tick_entry_frame hf, step1_announced (by rwa [beforeStep1_mode]) (by rwa [beforeStep1_announced]), beforeStep1_stage]

theorem tick_entry_select (hf : h.nextTick % h.perFrame = 0) (hb : h.mode.fallback ≠ some h.nextTick)
    (ha : ∀ sl, h.sta.announced ≠ some (sl, h.nextTick)) : (h.tick m w).entry =
      (((h.mode.selects.find? fun x => x.tick == h.nextTick && !x.void).map fun x => some x.slot).getD h.mode.slot,
        h.sta.stage, h.sta.announced) := by
  rw [tick_entry_frame hf, step1_select (by rwa [beforeStep1_mode]) (by rwa [beforeStep1_announced]), (applySelect_keeps ..).1,
    beforeStep1_mode, beforeStep1_stage, beforeStep1_announced]

end
end Hw

/-- Settles O26. The closing and the opening of a window leave what steps 1 and 2 read (`beforeStep1_roster`), and the steps that follow
leave what those make of it (`tick_entry`, `tick_retired`). -/
theorem tickChangesSlot : Obligations.TickChangesSlot := by
  refine ⟨fun s w _ h4 => ⟨_, exec_tick_from s w h4, ?_⟩, fun s w n _ h4 => ?_⟩
  · have behind : (hwAfterTick (s.hw.elapse 0) s.mem w).settle.entry = (hwAfterTick (s.hw.elapse 0) s.mem w).entry := Hw.settle_entry _
    refine ⟨fun hf => ?_, fun hf hb => ?_, fun hf hb sl ha => ?_, fun hf hb ha => ?_⟩
    · have e := behind.trans (Hw.tick_entry_within hf)
      exact ⟨congrArg Prod.fst e, congrArg (·.2.1) e⟩
    · exact (congrArg Prod.fst behind).trans (Hw.tick_slot_fallback hf hb)
    · have e := behind.trans (Hw.tick_entry_announced hf hb ha)
      exact ⟨congrArg Prod.fst e, congrArg (·.2.2) e, congrArg (·.2.1) e⟩
    · have e := behind.trans (Hw.tick_entry_select hf hb ha)
      have slot : (hwAfterTick (s.hw.elapse 0) s.mem w).settle.mode.slot = _ := congrArg Prod.fst e
      refine ⟨congrArg (·.2.1) e, fun x hx => slot.trans ?_, fun hx => slot.trans ?_⟩
      · exact congrArg (fun o : Option Select => (o.map fun x => some x.slot).getD s.hw.mode.slot) hx
      · exact congrArg (fun o : Option Select => (o.map fun x => some x.slot).getD s.hw.mode.slot) hx
  · intro h p due hr hs hd
    refine ⟨_, exec_tick_from s w h4, ?_⟩
    obtain ⟨retired, paen, lnaen, disabled, retireAt, failCause⟩ :=
      (Hw.tick_retired (s.hw.elapse 0) (if s.hw.tim.open_ then s.mem.upsets w.upsets else s.mem) w n.isLt hr hs hd).of_duty
        (congrArg Path.duty (Hw.settle_path ..))
    exact ⟨retired, paen, lnaen, disabled, retireAt, failCause⟩

end Sys2Proof.Machine
end

section
/-! What the event log shows of the alarms that a command raises (R398 to R400, Table 18.9): HC0 takes those of one instant in their
order, and an alarm that is no state alarm always becomes an entry. -/
namespace Sys2Proof.Machine

/-! ### Lists -/

theorem insertBy_perm {α : Type} (key : α → Nat) (x : α) (l : List α) : (sortBy.insertBy' key x l).Perm (x :: l) := by
  induction l with
  | nil => exact .refl _
  | cons y r ih =>
    unfold sortBy.insertBy'
    split
    · exact (ih.cons y).trans (.swap x y r)
    · exact .refl _

theorem take_append_take {α : Type} (n : Nat) (l r : List α) : (l ++ r.take n).take n = (l ++ r).take n := by
  rw [List.take_append, List.take_append, List.take_take, Nat.min_eq_left (Nat.sub_le ..)]

theorem sortBy_perm {α : Type} (key : α → Nat) (l : List α) : (sortBy key l).Perm l := by
  induction l with
  | nil => exact .refl _
  | cons x r ih => exact (insertBy_perm key x _).trans (ih.cons x)

theorem sortBy_pair {α : Type} (key : α → Nat) {x y : α} (h : key x < key y) : sortBy key [x, y] = [x] ++ [y] := by
  simp [sortBy, sortBy.insertBy', Nat.not_lt.mpr h.le]

namespace Hw

/-! ### Entries -/

/-- What an entry of the log shows of a happening: its code, its argument, and whether it is an end. -/
def mark (x : Happening) : Nat × Int × Bool := (x.code, x.arg, x.cease)
/-- The log, newest first, as codes, arguments and ends. -/
def entries (h : Hw) : List (Nat × Int × Bool) := h.lko.log.map fun e => (e.code, e.arg, e.cease)

theorem newest_iff (h : Hw) (c : Nat) (a : Int) : h.newest c a ↔ h.entries.head? = some (c, a, false) := by
  rw [newest, entries, List.head?_map]

/-- A happening that is no state alarm becomes the newest entry. -/
theorem take1_entries (h : Hw) {x : Happening} (hx : isState x.code = false) :
    (h.take1 x).entries = (mark x :: h.entries).take 4096 := by
  have e : ∀ b, ((h.logEntry x b).whenB (h.tells x) fun g => g.sendAlarm x).lko.log = (h.logEntry x b).lko.log := fun b =>
    whenB_keep (fun g => g.lko.log) _ _ _ (by rw [sendAlarm_lko])
  have log : (h.take1 x).lko.log = (h.logEntry x (h.tells x && h.alarmDst.isSome && decide (h.fhl.queue.length < 256))).lko.log := by
    unfold take1
    simp only [hx, Bool.false_and, Bool.false_eq_true, if_false]
    split
    · exact e _
    · exact e _
  rw [entries, log, logEntry, List.map_take]
  rfl

/-- Happenings that are no state alarms become the newest entries, the one taken last first. -/
theorem each_take1_entries (h : Hw) (l : List Happening) (hl : ∀ x ∈ l, isState x.code = false) :
    (h.each l take1).entries.take 4096 = (l.reverse.map mark ++ h.entries).take 4096 := by
  induction l generalizing h with
  | nil => rfl
  | cons x r ih =>
    rw [each_cons, ih _ fun y hy => hl y (List.mem_cons_of_mem _ hy), take1_entries h (hl x (List.mem_cons_self ..)),
      take_append_take]
    simp

theorem settle_entries (h : Hw) (hl : ∀ x ∈ h.lko.pend, isState x.code = false) :
    h.settle.entries.take 4096 = ((sortBy order h.lko.pend).reverse.map mark ++ h.entries).take 4096 :=
  each_take1_entries _ _ fun x hx => hl x ((sortBy_perm order _).mem_iff.mp hx)

theorem code_of_mark {h : Hw} {x : Happening} (hx : mark x ∈ h.entries) : x.code ∈ h.lko.log.map (·.code) := by
  have e : h.lko.log.map (·.code) = h.entries.map (·.1) := by simp [entries, Function.comp_def]
  rw [e]
  exact List.mem_map_of_mem (f := (·.1)) hx

/-! ### What a command's alarms leave -/

/-- HC0 takes the happenings of an instant in ascending code (R400). -/
theorem order_lt_of_code {x y : Happening} (h : x.code < y.code) : order x < order y := by
  have hx : Machine.code 16 x.arg < 65536 := by
    unfold Machine.code
    omega
  have hb : ∀ b, b2n b ≤ 1 := by decide
  have := hb x.cease
  unfold order
  omega

/-- The alarm taken last is the newest entry. -/
theorem settle_newest (h : Hw) (l : List Happening) (x : Happening) (hp : sortBy order h.lko.pend = l ++ [x]) (hc : x.cease = false)
    (hl : ∀ y ∈ h.lko.pend, isState y.code = false) : h.settle.newest x.code x.arg := by
  have e := congrArg List.head? (settle_entries h hl)
  rw [newest_iff, ← hc]
  simpa [hp, mark, List.head?_take] using e

/-- Every alarm of an instant is in the log, where no more than the log holds are raised. -/
theorem settle_logged (h : Hw) {x : Happening} (hx : x ∈ h.lko.pend) (hn : h.lko.pend.length ≤ 4096)
    (hl : ∀ y ∈ h.lko.pend, isState y.code = false) : mark x ∈ h.settle.entries := by
  have perm := sortBy_perm order h.lko.pend
  refine List.mem_of_mem_take (i := 4096) ?_
  rw [settle_entries h hl, List.take_append]
  refine List.mem_append_left _ ?_
  rw [List.take_of_length_le (by simpa [perm.length_eq] using hn)]
  exact List.mem_map_of_mem (by simpa using perm.mem_iff.mpr hx)

/-- One alarm that is no state alarm, raised where none waits. -/
theorem alarm_settle (h : Hw) (c : Nat) (a : Int) (e : Nat) (hp : h.lko.pend = []) (hc : isState c = false) :
    (h.alarm c a e).settle = h.told (h.alarm c a e).settle ∧ (h.alarm c a e).settle.newest c a := by
  have hpend : (h.alarm c a e).lko.pend = [h.seen { code := c, arg := a, extra := e }] := by simp [hp]
  refine ⟨settle_told h _ _ rfl, settle_newest _ [] (h.seen { code := c, arg := a, extra := e }) (by rw [hpend]; rfl) rfl ?_⟩
  rw [hpend]
  exact fun y hy => List.mem_singleton.mp hy ▸ hc

end Hw
end Sys2Proof.Machine
end

section
/-! The commands to the NVM (R58, R59, Table 2.15), and the calibration record written to it (R55, R247, Table 18.9). Settles O46. -/
namespace Sys2Proof.Machine
namespace Hw

/-! ### Commands -/

/-- The command of a read: none where the density leaves nothing to read (R58). -/
def readCmds (h : Hw) (a n : Nat) : List NvmCmd :=
  if min n (h.img.density.getD 0 - a) = 0 then [] else
    [{ op := nvmOp h.img.busMode (nvmReadOp h.img.busMode), addr := some a, dummy := h.img.dummyRead
       len := min n (h.img.density.getD 0 - a) }]

theorem nvmRead_eq (h : Hw) (a n : Nat) : h.nvmRead a n = h.nvm (h.readCmds a n) := by
  by_cases e : min n (h.img.density.getD 0 - a) = 0
  · simp [nvmRead, readCmds, nvm, e]
  · have e' : (Nat.min n (h.img.density.getD 0 - a) != 0) = true := bne_iff_ne.mpr e
    simp only [nvmRead, readCmds, e', whenB_true, if_neg e]

/-- The commands of operation `j` of the record write. -/
def writeCmds (h : Hw) (record : Bytes) (j : Nat) : List NvmCmd :=
  let change := fun (x : Byte) (a : Nat) (data : Bytes) => [({ op := nvmOp h.img.busMode 0x06 } : NvmCmd),
    { op := nvmOp h.img.busMode x, addr := some a, data := data }, { op := nvmOp h.img.busMode 0x05, dummy := h.img.dummyStatus, len := 1 }]
  if j < 2 then change 0x21 (h.image.calOffset + 4096 * j) []
  else if j < 20 then change 0x12 (h.image.calOffset + 256 * (j - 2)) ((record.drop (256 * (j - 2))).take 256)
  else h.readCmds h.image.calOffset record.length

theorem nvmWriteOp_eq (h : Hw) (record : Bytes) (j : Nat) : h.nvmWriteOp record j = h.nvm (h.writeCmds record j) := by
  unfold nvmWriteOp writeCmds
  by_cases erase : j < 2
  · simp only [if_pos erase]
    rfl
  by_cases page : j < 20
  · simp only [if_neg erase, if_pos page]
    rfl
  · simp only [if_neg erase, if_neg page, nvmRead_eq]

/-! ### The end of the write -/

/-- With no record write in progress and none waiting. -/
def written (h : Hw) : Hw := { h with img := { h.img with writes := [], calWriteBusy := false, writeOp := 0, writeAt := h.sta.since } }

/-- Where one record was written and no remote reset waits, nothing follows the alarm with which the write ends (R55, R73). -/
theorem alarm_writeEnds (h : Hw) (m : Mem) (c : Nat) (a : Int) (hr : h.sta.resetWait = false) (hw : h.img.writes.length = 1) :
    (h.alarm c a).writeEnds m = (h.written.alarm c a, m) := by
  obtain ⟨b, hb⟩ := List.length_eq_one_iff.mp hw
  simp only [writeEnds, startWrite, alarm_img, alarm_sta, hr, hb, List.drop_succ_cons, List.drop_zero, List.isEmpty_nil, Bool.not_true,
    Bool.false_eq_true, if_false]
  rfl

end Hw

/-! ### The commands of the block -/

theorem exec_nvmOpDone (s : State) (dt : Nat) (b : Bytes) : exec (.nvmOpDone dt b) s = execNvmOpDone dt b s := rfl
theorem exec_nvmWriteFail (s : State) (dt : Nat) : exec (.nvmWriteFail dt) s = execNvmWriteFail dt s := rfl

section
variable {s : State} {dt : Nat} {h : Hw} (he : s.hw.elapse dt = h)
include he

/-- What an effect makes of the registers `h` that the passing of time leaves. -/
theorem okM_becomes {f : Hw → Mem → Hw × Mem} {r : Hw × Mem} (hf : f h s.mem = r) :
    okM s dt f = .next { s with hw := r.1.settle, mem := r.2 } := by
  rw [okM_eq, he, hf]

/-- The write of the only record ends with an alarm that is no state alarm. -/
theorem okM_writeEnds {f : Hw → Mem → Hw × Mem} (g : Hw) (c : Nat) (a : Int) (hp : g.lko.pend = []) (hr : g.sta.resetWait = false)
    (hw : g.img.writes.length = 1) (hc : Hw.isState c = false) (hf : f h s.mem = (g.alarm c a).writeEnds s.mem) :
    ∃ t, okM s dt f = .next t ∧ t.pending = s.pending ∧ t.mem = s.mem ∧ t.hw = g.written.told t.hw ∧ t.hw.newest c a := by
  rw [Hw.alarm_writeEnds g s.mem c a hr hw] at hf
  exact ⟨_, okM_becomes he hf, rfl, rfl, Hw.alarm_settle g.written c a 0 hp hc⟩

/-- An erase or a page program ends: the next operation is issued. -/
theorem exec_nvmOpDone_next (hs : h.Settled) (hb : h.img.calWriteBusy = true) (b : Bytes) (hop : h.img.writeOp < 20) :
    let g : Hw := { h with img := { h.img with writeOp := h.img.writeOp + 1, writeAt := h.sta.since } }
    exec (.nvmOpDone dt b) s = .next { s with hw := g.nvm (h.writeCmds (h.img.writes.headD []) (h.img.writeOp + 1)) } := by
  intro g
  have hg : (g.nvm (g.writeCmds (h.img.writes.headD []) (h.img.writeOp + 1))).Settled := hs
  rw [exec_nvmOpDone, execNvmOpDone, okM_becomes he (r := (_, s.mem)), Hw.settle_of_settled _ hg]
  · rfl
  · dsimp only
    rw [if_neg (by simp [hb]), if_pos hop, Hw.nvmWriteOp_eq]
    rfl

end

/-- Settles O46: each operation's commands (`nvmWriteOp_eq`), and the alarm with which the write of one record ends (`okM_writeEnds`). -/
theorem calRecordWrite : Obligations.CalRecordWrite := by
  intro s dt b hs hb hr hw h record done_ sound mode op change page left issue
  have he : s.hw.elapse dt = h := rfl
  have hsettled : h.Settled := Hw.elapse_settled _ hs dt
  replace hb : h.img.calWriteBusy = true := by simpa [h] using hb
  replace hr : h.sta.resetWait = false := by simpa [h] using hr
  replace hw : h.img.writes.length = 1 := by simpa [h] using hw
  clear_value h
  refine ⟨fun hop => exec_nvmOpDone_next he hsettled hb b hop, fun hop hsound => ?stored, fun hop hwrong => ?wrong,
    fun hop hlate => ?late⟩
  case stored =>
    rw [exec_nvmOpDone, execNvmOpDone]
    refine okM_writeEnds he { h with img := { h.img with calState := 0 }, cal := { h.cal with stores := inc h.cal.stores } } 0x0806 _
      hsettled.1 hr hw rfl ?_
    have hcrc : h.recordCrcOk b = true := beq_iff_eq.mpr hsound.2
    dsimp only
    rw [if_neg (by simp [hb]), if_neg (Nat.not_lt.mpr hop), if_pos (by simp [hsound.1, recordSize, hcrc])]
    rfl
  case wrong =>
    rw [exec_nvmOpDone, execNvmOpDone]
    refine okM_writeEnds he h 0x0802 _ hsettled.1 hr hw rfl ?_
    dsimp only
    rw [if_neg (by simp [hb]), if_neg (Nat.not_lt.mpr hop), if_neg]
    intro e
    obtain ⟨hlength, hcrc⟩ := (Bool.and_eq_true _ _).mp e
    exact hwrong ⟨of_decide_eq_true hlength, beq_iff_eq.mp hcrc⟩
  case late =>
    rw [exec_nvmWriteFail, execNvmWriteFail]
    refine okM_writeEnds he h 0x0802 _ hsettled.1 hr hw rfl (if_pos ?_)
    simp [hb, hop, Config.fc, Hw.up, hlate]

end Sys2Proof.Machine
end

section
/-! The image read in S2 (R46 to R51, R58, R59, R63, Table 2.10): the commands of the read, the checks in their order, the hold on the
first that fails, the re-read, the burn, and what follows when all have passed. Settles O16. -/
namespace Sys2Proof.Machine

/-! ### The checks -/

theorem verifyHead_alarm {nvm : Bytes} {d : Nat} {f : ImgFail} (hf : verifyHead nvm d = some f) : Hw.isState f.alarm = false := by
  unfold verifyHead at hf
  split at hf
  · cases hf
    rfl
  split at hf
  · cases hf
    rfl
  split at hf
  · cases hf
    rfl
  · obtain ⟨i, -, rfl⟩ := Option.map_eq_some_iff.mp hf
    rfl

theorem verifyKey_alarm {o : Otp} {a : Nat} {nvm : Bytes} {f : ImgFail} (hf : verifyKey o a nvm = some f) : Hw.isState f.alarm = false := by
  unfold verifyKey at hf
  split at hf
  · cases hf
  · cases hf
    rfl
  split at hf
  · cases hf
    rfl
  split at hf
  · cases hf
  · cases hf
    rfl

theorem verifyNine_alarm {nvm : Bytes} {im : Image} {f : ImgFail} (hf : verifyBody.nine nvm im = some f) : Hw.isState f.alarm = false := by
  obtain ⟨x, -, rfl⟩ := Option.map_eq_some_iff.mp hf
  split <;> rfl

theorem verifyBody_alarm {k : BitVec 384} {nvm : Bytes} {im : Image} {f : ImgFail} (hf : verifyBody k nvm im = some f) :
    Hw.isState f.alarm = false := by
  unfold verifyBody at hf
  split at hf
  · split at hf
    · exact verifyNine_alarm hf
    · cases hf
      rfl
  · exact verifyNine_alarm hf

/-- Step 5 passes where the trailer is marked and holds the SHA-384 of the image (R47). -/
theorem digestPasses_iff (nvm : Bytes) : digestPasses nvm = true ↔
    rd nvm (rd nvm 12 4) 4 = 0x54525A45 ∧ unbe (slice nvm (rd nvm 12 4 + 8) 48) = sha384 (nvm.take (rd nvm 12 4)) := by
  rw [digestPasses, Bool.and_eq_true, beq_iff_eq, beq_iff_eq]
  rfl

namespace Hw

/-! ### The read -/

theorem nvm_nvm (h : Hw) (l r : List NvmCmd) : (h.nvm l).nvm r = h.nvm (l ++ r) := by
  simp only [nvm, List.append_assoc]

/-- The commands by which an image is read. -/
def imageCmds (h : Hw) (b : Bytes) : List NvmCmd :=
  h.readCmds 0 256 ++ if (verifyHead b (h.img.density.getD 0)).isNone then h.readCmds 256 (rd b 12 4 + 3840) else []

theorem readImage_eq (h : Hw) (b : Bytes) : h.readImage b = h.nvm (h.imageCmds b) := by
  unfold readImage imageCmds
  simp only [nvmRead_eq]
  show (h.nvm (h.readCmds 0 256)).whenB (verifyHead b (h.img.density.getD 0)).isNone _ = _
  cases (verifyHead b (h.img.density.getD 0)).isNone
  · simp
  · rw [whenB_true, if_pos rfl, ← nvm_nvm]
    rfl

/-- `h` with an image read from the NVM, the OTP field and the image's status as given. -/
def imageRead (h : Hw) (b : Bytes) (o : Otp) (i : Img) : Hw := { h.nvm (h.imageCmds b) with sys := { h.sys with otp := o }, img := i }

/-! ### A check that fails -/

/-- `t` is held in S2 by a failed check of an image read from `h`, the memories cleared (R49, R51). -/
def HeldBy (h : Hw) (b : Bytes) (o : Otp) (f : ImgFail) (t : Hw) : Prop :=
  t = ({ h with
    sys := { h.sys with otp := o }
    sta := { h.sta with failed := true, failAlarm := f.alarm }
    img := { t.img with result := f.result, failEntry := f.entry, id := 0, loaded := h.img.loaded }
    out := { h.out with nvm := (h.readImage b).out.nvm } } : Hw).told t ∧ t.newest f.alarm f.arg

theorem imgFail_heldBy (h : Hw) (b : Bytes) (o : Otp) (i : Img) (f : ImgFail) (hp : h.lko.pend = [])
    (hc : isState f.alarm = false) (hi : i.loaded = h.img.loaded) : h.HeldBy b o f ((h.imageRead b o i).imgFail f).1.settle := by
  have ht := alarm_settle ((h.imageRead b o { i with result := f.result, failEntry := f.entry, id := 0, retryPending := false }).onSta
    fun s => { s with failed := true, failAlarm := f.alarm }) f.alarm f.arg 0 hp hc
  refine ⟨ht.1.trans ?_, ht.2⟩
  rw [show ((h.imageRead b o i).imgFail f).1.settle.img = _ from settle_img _, ← hi, readImage_eq]
  rfl

/-! ### Every check passed -/

/-- The state in which S3 begins with an image in force. -/
def passed (g : Hw) (im : Image) : Hw :=
  ({ g with img := { g.img with result := 1, id := im.imageId, loaded := some im, retryPending := false } }.onPaths fun n p =>
    let w := (assoc n im.dpdInit).getD []
    { p with dpd := { p.dpd with bank0 := w, bank1 := w } }).enterStage 3

/-- S3 begins in `t` with the image `im` in force, from `g`: RESULT, the sections, the predistorter banks, and S3 held where the class of
REFCLK differs (R45, R51, R63, R146). -/
structure Passed (g : Hw) (im : Image) (t : Hw) : Prop where
  stage : t.sta.stage = 3
  failed : t.sta.failed = true ↔ g.sta.refClass ≠ im.refclkSel
  newest : g.sta.refClass ≠ im.refclkSel → t.newest 0x0202 g.sta.refClass
  result : t.img.result = 1
  loaded : t.img.loaded = some im
  id : t.img.id = im.imageId
  retried : t.img.retried = g.img.retried
  sys : t.sys = g.sys
  path : ∀ n : PathId, t.path n = { g.path n with dpd := { (g.path n).dpd with
    bank0 := (assoc n.val im.dpdInit).getD [], bank1 := (assoc n.val im.dpdInit).getD [] } }
  tim : t.tim = g.tim
  quads : t.quads = g.quads
  tor : t.tor = g.tor
  dl : t.fhl.dl = g.fhl.dl
  lanes : t.lanes = g.lanes
  out : t.out = g.out
  logged : ∀ x ∈ g.lko.pend, mark x ∈ t.entries

theorem imgPass_eq (g : Hw) (m : Mem) (b : Bytes) (im : Image) : g.imgPass m b im =
    ((g.passed im).whenB (g.sta.refClass != im.refclkSel) fun h => h.holdStage 0x0202 g.sta.refClass, loadImage m b im) := rfl

/-- CLK_REF_MISMATCH is the newest entry, with IMG_READ_RETRY raised before it or without. -/
theorem mismatch_newest (g : Hw) (c : Nat) (hp : g.lko.pend = [] ∨ ∃ y, g.lko.pend = [y] ∧ y.code = 0x0109) :
    (g.holdStage 0x0202 c).settle.newest 0x0202 c := by
  set x : Happening := g.seen { code := 0x0202, arg := c } with hx
  have hpend : (g.holdStage 0x0202 c).lko.pend = g.lko.pend ++ [x] := rfl
  rcases hp with hp | ⟨y, hp, hy⟩ <;> rw [hp] at hpend
  · refine settle_newest _ [] x (by rw [hpend]; rfl) rfl ?_
    rw [hpend]
    exact List.forall_mem_singleton.mpr rfl
  · have lt : order y < order x := order_lt_of_code (hy.trans_lt (show 0x0109 < 0x0202 by decide))
    refine settle_newest _ [y] x (by rw [hpend]; exact sortBy_pair order lt) rfl ?_
    rw [hpend]
    exact List.forall_mem_append.mpr ⟨List.forall_mem_singleton.mpr (by rw [hy]; rfl), List.forall_mem_singleton.mpr rfl⟩

/-- What is raised as S3 begins is no state alarm, and at most one. -/
theorem mismatch_pend (g : Hw) (c : Bool) (a : Nat) : ∃ l, (g.whenB c fun h => h.holdStage 0x0202 a).lko.pend = g.lko.pend ++ l ∧
    l.length ≤ 1 ∧ ∀ x ∈ l, isState x.code = false := by
  cases c
  · exact ⟨[], by simp, by simp, by simp⟩
  · exact ⟨_, rfl, le_rfl, List.forall_mem_singleton.mpr rfl⟩

theorem imgPass_passed (g : Hw) (m : Mem) (b : Bytes) (im : Image)
    (hp : g.lko.pend = [] ∨ ∃ y, g.lko.pend = [y] ∧ y.code = 0x0109) : Passed g im (g.imgPass m b im).1.settle := by
  rw [imgPass_eq]
  set r := (g.passed im).whenB (g.sta.refClass != im.refclkSel) fun h => h.holdStage 0x0202 g.sta.refClass with hr
  have keep : ∀ {β : Type} (p : Hw → β), (∀ h : Hw, p (h.holdStage 0x0202 g.sta.refClass) = p h) → p r = p (g.passed im) :=
    fun p hp => whenB_keep p _ _ _ (hp _)
  have img : r.settle.img = (g.passed im).img := (settle_img r).trans (keep (·.img) fun _ => rfl)
  have path : ∀ n : PathId, (g.passed im).path n = { g.path n with dpd := { (g.path n).dpd with
    bank0 := (assoc n.val im.dpdInit).getD [], bank1 := (assoc n.val im.dpdInit).getD [] } } := fun n => onPaths_path _ _ n.isLt
  exact {
    stage := (congrArg Sta.stage (settle_sta r)).trans (keep (·.sta.stage) fun _ => rfl)
    failed := by
      rw [settle_sta, hr]
      by_cases h : g.sta.refClass = im.refclkSel
      · simp [h, passed, enterStage]
      · rw [bne_iff_ne.mpr h, whenB_true]
        exact ⟨fun _ => h, fun _ => rfl⟩
    newest := fun h => by
      rw [hr, bne_iff_ne.mpr h]
      exact mismatch_newest (g.passed im) _ hp
    result := congrArg Img.result img
    loaded := congrArg Img.loaded img
    id := congrArg Img.id img
    retried := (congrArg Img.retried img).trans rfl
    sys := (settle_sys r).trans (keep (·.sys) fun _ => rfl)
    path := fun n => (settle_path r n).trans ((keep (·.path n) fun _ => rfl).trans (path n))
    tim := (settle_tim r).trans (keep (·.tim) fun _ => rfl)
    quads := (settle_quads r).trans (keep (·.quads) fun _ => rfl)
    tor := (settle_tor r).trans (keep (·.tor) fun _ => rfl)
    dl := (settle_fhl_dl r).trans (keep (·.fhl.dl) fun _ => rfl)
    lanes := (settle_lanes r).trans (keep (·.lanes) fun _ => rfl)
    out := (settle_out r).trans (keep (·.out) fun _ => rfl)
    logged := by
      obtain ⟨l, hpend, hlen, hl⟩ := mismatch_pend (g.passed im) (g.sta.refClass != im.refclkSel) g.sta.refClass
      have hg : g.lko.pend.length ≤ 1 ∧ ∀ x ∈ g.lko.pend, isState x.code = false := by
        rcases hp with hp | ⟨y, hp, hy⟩ <;> rw [hp]
        · simp
        · exact ⟨le_rfl, List.forall_mem_singleton.mpr (by rw [hy]; rfl)⟩
      intro x hx
      refine settle_logged r (hpend ▸ List.mem_append_left l hx) ?_ ?_
      · rw [hpend, List.length_append]
        exact (Nat.add_le_add hg.1 hlen).trans (by decide)
      · rw [hpend]
        exact List.forall_mem_append.mpr ⟨hg.2, hl⟩ }

/-! ### Steps 6 to 10 -/

section
variable {g : Hw} {m : Mem} {b : Bytes} {burn : Burn}

/-- The key, the signature or the content fails. -/
theorem verifyRest_fail {f : ImgFail} (hf : verifyKey g.sys.otp (parseImage b).sigAlg b = some f ∨
    verifyKey g.sys.otp (parseImage b).sigAlg b = none ∧ verifyBody g.sys.romKey b (parseImage b) = some f) :
    isState f.alarm = false ∧ ∃ i : Img, i.loaded = g.img.loaded ∧ g.verifyRest m b burn = ({ g with img := i } : Hw).imgFail f := by
  rcases hf with hk | ⟨hk, hb⟩
  · refine ⟨verifyKey_alarm hk, { g.img with unsignedBoot := g.sys.otp == Otp.blank }, rfl, ?_⟩
    unfold verifyRest
    dsimp only
    rw [hk]
  · refine ⟨verifyBody_alarm hb, { g.img with
      unsignedBoot := g.sys.otp == Otp.blank
      hcVersion := ((hcEntry (parseImage b)).map fun (x : Sec × Nat) => rd b (x.1.offset + 8) 4).getD 0 }, rfl, ?_⟩
    unfold verifyRest
    dsimp only
    rw [hk]
    dsimp only
    rw [hb]

/-- Every check passes. -/
theorem verifyRest_good (hk : verifyKey g.sys.otp (parseImage b).sigAlg b = none)
    (hb : verifyBody g.sys.romKey b (parseImage b) = none) : ∃ i : Img, i.loaded = g.img.loaded ∧ i.retried = g.img.retried ∧
      g.verifyRest m b burn = ({ g with img := i } : Hw).imgBurn m b (parseImage b) burn := by
  refine ⟨{ g.img with
    unsignedBoot := g.sys.otp == Otp.blank
    hcVersion := ((hcEntry (parseImage b)).map fun (x : Sec × Nat) => rd b (x.1.offset + 8) 4).getD 0 }, rfl, rfl, ?_⟩
  unfold verifyRest
  dsimp only
  rw [hk]
  dsimp only
  rw [hb]

theorem imgBurn_lock {im : Image} (hl : im.lockKey = true ∧ g.sys.otp = .blank) : g.imgBurn m b im .done =
    (g.setOtp (.programmed (keyHash b))).imgPass m b im ∧
    (∀ any, g.imgBurn m b im (.failed any) =
      (g.setOtp (if any then .partly else .blank)).imgFail { result := 6, alarm := 0x0106 }) ∧
    g.imgBurn m b im .powerLost = ((g.setOtp .partly).powerLoss, {}) := by
  have hc : (im.lockKey && g.sys.otp == Otp.blank) = true := by simp [hl]
  refine ⟨if_pos hc, fun any => if_pos hc, if_pos hc⟩

theorem imgBurn_other {im : Image} (hl : ¬ (im.lockKey = true ∧ g.sys.otp = .blank)) : g.imgBurn m b im burn = g.imgPass m b im :=
  if_neg (by simpa using hl)

/-- From step 6 on every check passes, and no burn fails: RESULT is 1, and S3 begins (R48, R51). -/
theorem verifyRest_passed (hk : verifyKey g.sys.otp (parseImage b).sigAlg b = none)
    (hb : verifyBody g.sys.romKey b (parseImage b) = none)
    (hburn : (parseImage b).lockKey = true ∧ g.sys.otp = .blank → burn = .done)
    (hp : g.lko.pend = [] ∨ ∃ y, g.lko.pend = [y] ∧ y.code = 0x0109) : ∃ (o : Otp) (i : Img), i.retried = g.img.retried ∧
      ((parseImage b).lockKey = true ∧ g.sys.otp = .blank → o = .programmed (keyHash b)) ∧
      (¬ ((parseImage b).lockKey = true ∧ g.sys.otp = .blank) → o = g.sys.otp) ∧
      (g.verifyRest m b burn).2 = loadImage m b (parseImage b) ∧
      Passed { g with sys := { g.sys with otp := o }, img := i } (parseImage b) (g.verifyRest m b burn).1.settle := by
  obtain ⟨i, -, hi, he⟩ := verifyRest_good (m := m) (burn := burn) hk hb
  rw [he]
  by_cases lock : (parseImage b).lockKey = true ∧ g.sys.otp = .blank
  · obtain rfl := hburn lock
    rw [(imgBurn_lock (g := { g with img := i }) lock).1]
    exact ⟨_, { i with keyLocked := Otp.programmed (keyHash b) != Otp.blank }, hi, fun _ => rfl, fun h => absurd lock h, rfl,
      imgPass_passed (({ g with img := i } : Hw).setOtp (.programmed (keyHash b))) m b _ hp⟩
  · rw [imgBurn_other (g := { g with img := i }) lock]
    exact ⟨_, i, hi, fun h => absurd h lock, fun _ => rfl, rfl, imgPass_passed { g with img := i } m b _ hp⟩

end
end Hw

/-! ### The two commands -/

theorem exec_imageReadDone (s : State) (dt : Nat) (b : Bytes) (burn : Burn) :
    exec (.imageReadDone dt b burn) s = execImageReadDone dt b burn s := rfl
theorem exec_imgReadRetry (s : State) (dt : Nat) (b : Bytes) (burn : Burn) :
    exec (.imgReadRetry dt b burn) s = execImgReadRetry dt b burn s := rfl

namespace Hw

/-- The registers after the first read of an image. -/
def firstRead (h : Hw) (b : Bytes) : Hw := h.imageRead b h.sys.otp { h.img with keyLocked := h.sys.otp != Otp.blank }
/-- The registers after a re-read with a sound digest, IMG_READ_RETRY raised. -/
def secondRead (h : Hw) (b : Bytes) : Hw := (h.imageRead b h.sys.otp { h.img with retried := true }).alarm 0x0109 0

/-- The log shows IMG_READ_RETRY and the alarm of the check that fails on the re-read. -/
theorem secondRead_logged (h : Hw) (b : Bytes) {f : ImgFail} (hp : h.lko.pend = []) (hc : isState f.alarm = false) :
    ∀ a ∈ [0x0109, f.alarm], a ∈ ((h.secondRead b).imgFail f).1.settle.lko.log.map (·.code) := by
  have hpend : ((h.secondRead b).imgFail f).1.lko.pend = [h.seen { code := 0x0109, arg := 0 }] ++
      [h.seen { code := f.alarm, arg := f.arg }] := congrArg (· ++ _ ++ _) hp
  have logged : ∀ x ∈ ((h.secondRead b).imgFail f).1.lko.pend, x.code ∈ ((h.secondRead b).imgFail f).1.settle.lko.log.map (·.code) := by
    refine fun x hx => code_of_mark (settle_logged _ hx (by rw [hpend]; exact (by decide : 2 ≤ 4096)) ?_)
    rw [hpend]
    exact List.forall_mem_append.mpr ⟨List.forall_mem_singleton.mpr rfl, List.forall_mem_singleton.mpr hc⟩
  rw [hpend] at logged
  obtain ⟨retry, check⟩ := List.forall_mem_append.mp logged
  exact List.forall_mem_cons.mpr ⟨retry _ (List.mem_singleton_self _), List.forall_mem_singleton.mpr (check _ (List.mem_singleton_self _))⟩

end Hw

section
variable {s : State} {dt : Nat} {h : Hw} (he : s.hw.elapse dt = h) (h2 : h.sta.stage = 2) (hn : h.sta.failed = false)
  {b : Bytes} {burn : Burn}
include he h2 hn

section
variable (h0 : h.img.result = 0) (hr : h.img.retryPending = false)
include h0 hr

/-- Steps 2 to 4 fail. -/
theorem exec_imageReadDone_head {f : ImgFail} (hd : verifyHead b (h.img.density.getD 0) = some f) :
    exec (.imageReadDone dt b burn) s = .next { s with hw := ((h.firstRead b).imgFail f).1.settle, mem := {} } := by
  rw [exec_imageReadDone, execImageReadDone]
  refine okM_becomes he (r := (h.firstRead b).imgFail f) ?_
  dsimp only
  rw [if_pos (by simp [h2, hn, h0, hr]), Hw.readImage_eq]
  split
  · next g hg =>
    obtain rfl := Option.some.inj (hd.symm.trans hg)
    rfl
  · next hg => cases hd.symm.trans hg

/-- Steps 2 to 4 pass, and the digest is wrong: the image is read once more (R47, R49). -/
theorem exec_imageReadDone_wrong (hf : verifyHead b (h.img.density.getD 0) = none) (hd : digestPasses b = false) :
    exec (.imageReadDone dt b burn) s = .next { s with
      hw := ({ h.firstRead b with img := { (h.firstRead b).img with retryPending := true } } : Hw).settle
      mem := loadImage s.mem b (parseImage b) } := by
  rw [exec_imageReadDone, execImageReadDone]
  refine okM_becomes he (r := (_, _)) ?_
  dsimp only
  rw [if_pos (by simp [h2, hn, h0, hr]), Hw.readImage_eq, hd]
  split
  · next g hg => cases hf.symm.trans hg
  · rfl

/-- Steps 2 to 5 pass, and the checks go on. -/
theorem exec_imageReadDone_rest (hf : verifyHead b (h.img.density.getD 0) = none) (hd : digestPasses b = true) :
    exec (.imageReadDone dt b burn) s = .next { s with
      hw := ((h.firstRead b).verifyRest s.mem b burn).1.settle, mem := ((h.firstRead b).verifyRest s.mem b burn).2 } := by
  rw [exec_imageReadDone, execImageReadDone]
  refine okM_becomes he ?_
  dsimp only
  rw [if_pos (by simp [h2, hn, h0, hr]), Hw.readImage_eq, if_pos hd]
  split
  · next g hg => cases hf.symm.trans hg
  · rfl

end

variable (hr : h.img.retryPending = true)
include hr

/-- The digest of the re-read is wrong too. -/
theorem exec_imgReadRetry_wrong (hd : digestPasses b = false) :
    exec (.imgReadRetry dt b burn) s =
      .next { s with hw := ((h.imageRead b h.sys.otp h.img).imgFail { result := 5, alarm := 0x0105 }).1.settle, mem := {} } := by
  rw [exec_imgReadRetry, execImgReadRetry]
  refine okM_becomes he (r := (h.imageRead b h.sys.otp h.img).imgFail { result := 5, alarm := 0x0105 }) ?_
  dsimp only
  rw [if_pos (by simp [h2, hn, hr]), Hw.readImage_eq, hd]
  rfl

/-- It is sound, but steps 2 to 4 fail on it. -/
theorem exec_imgReadRetry_head (hd : digestPasses b = true) {f : ImgFail} (hf : verifyHead b (h.img.density.getD 0) = some f) :
    exec (.imgReadRetry dt b burn) s = .next { s with hw := ((h.secondRead b).imgFail f).1.settle, mem := {} } := by
  rw [exec_imgReadRetry, execImgReadRetry]
  refine okM_becomes he (r := (h.secondRead b).imgFail f) ?_
  dsimp only
  rw [if_pos (by simp [h2, hn, hr]), Hw.readImage_eq, if_pos hd]
  split
  · next g hg =>
    obtain rfl := Option.some.inj (hf.symm.trans hg)
    rfl
  · next hg => cases hf.symm.trans hg

/-- It is sound, and the checks go on (log 121). -/
theorem exec_imgReadRetry_rest (hd : digestPasses b = true) (hf : verifyHead b (h.img.density.getD 0) = none) :
    exec (.imgReadRetry dt b burn) s = .next { s with
      hw := ((h.secondRead b).verifyRest {} b burn).1.settle, mem := ((h.secondRead b).verifyRest {} b burn).2 } := by
  rw [exec_imgReadRetry, execImgReadRetry]
  refine okM_becomes he (r := (h.secondRead b).verifyRest {} b burn) ?_
  dsimp only
  rw [if_pos (by simp [h2, hn, hr]), Hw.readImage_eq, if_pos hd]
  split
  · next g hg => cases hf.symm.trans hg
  · rfl

end

/-- Settles O16: each outcome of the checks is the outcome of the command, by the lemma of the step that decides it. -/
theorem imageVerified : Obligations.ImageVerified := by
  refine ⟨fun h a n hm => ?read, fun s dt nvm burn hs h2 hn => ?image⟩
  case read =>
    intro len
    rw [Hw.nvmRead_eq]
    have hop : nvmOp h.img.busMode (nvmReadOp h.img.busMode) = [[0x13], [0xEC], [0xEE, 0x11]].getD h.img.busMode [] := by
      match h.img.busMode, hm with
      | 0, _ => rfl
      | 1, _ => rfl
      | 2, _ => rfl
    rw [← hop]
    rfl
  case image =>
    intro h head im size digest key signed keyFail lock held pass good
    have he : s.hw.elapse dt = h := rfl
    have hp : h.lko.pend = [] := (Hw.elapse_settled _ hs dt).1
    replace h2 : h.sta.stage = 2 := by simpa [h] using h2
    replace hn : h.sta.failed = false := by simpa [h] using hn
    have hsettled : h.Settled := Hw.elapse_settled _ hs dt
    clear_value h
    have hdigest : digestPasses nvm = true ↔ digest := digestPasses_iff nvm
    have hkey : verifyKey h.sys.otp im.sigAlg nvm = keyFail := by
      simp only [keyFail, verifyKey, Bool.or_eq_true, decide_eq_true_eq]
      cases h.sys.otp <;> rfl
    have hheld : ∀ o f i, Hw.isState f.alarm = false → i.loaded = h.img.loaded →
        held o f { s with hw := ((h.imageRead nvm o i).imgFail f).1.settle, mem := {} } :=
      fun o f i hc hi => ⟨rfl, rfl, Hw.imgFail_heldBy h nvm o i f hp hc hi⟩
    have hpass : ∀ (m : Mem) (o : Otp) (i : Img) (l : Lko) (t : State),
        (lock → o = .programmed (keyHash nvm)) → (¬ lock → o = h.sys.otp) → t.pending = s.pending → t.mem = loadImage m nvm im →
        Hw.Passed ({ h.imageRead nvm o i with lko := l }) im t.hw → pass m t := by
      intro m o i l t hlock hother hq hm P
      refine ⟨hq, hm, P.stage, P.result, P.loaded, P.id, fun hl => ?_, fun hl => ?_, P.path, P.failed, P.newest, P.tim, P.quads, P.tor,
        P.dl, P.lanes, ?_⟩
      · exact P.sys.trans (congrArg (fun o => ({ h.sys with otp := o } : Sys)) (hlock hl))
      · exact P.sys.trans (congrArg (fun o => ({ h.sys with otp := o } : Sys)) (hother hl))
      · rw [P.out, Hw.readImage_eq]
        rfl
    have hdigest_not : ¬ digest → digestPasses nvm = false := fun hd => Bool.eq_false_iff.mpr fun e => hd (hdigest.mp e)
    refine ⟨fun h0 hr => ⟨fun f hf => ?head, fun hf hd => ?retry, fun hf hd f hfail => ?fails, fun hf hd hgood =>
      ⟨fun hb => ?pass, fun any hl hb => ?burnFails, fun hl hb => ?powerLost⟩⟩,
      fun hr => ⟨fun hd => ?wrong, fun hd f hf => ?headAgain, fun hf hd hgood hb => ?passAgain⟩⟩
    case head =>
      exact ⟨_, exec_imageReadDone_head he h2 hn h0 hr hf, hheld _ f _ (verifyHead_alarm hf) rfl⟩
    case retry =>
      have hg : ({ h.firstRead nvm with img := { (h.firstRead nvm).img with retryPending := true } } : Hw).Settled := hsettled
      rw [exec_imageReadDone_wrong he h2 hn h0 hr hf (hdigest_not hd), Hw.settle_of_settled _ hg, Hw.readImage_eq]
      rfl
    case fails =>
      rw [← hkey] at hfail
      obtain ⟨hc, i, hi, hrest⟩ := Hw.verifyRest_fail (g := h.firstRead nvm) (m := s.mem) (burn := burn) hfail
      refine ⟨_, (exec_imageReadDone_rest he h2 hn h0 hr hf (hdigest.mpr hd)).trans (by rw [hrest]), ?_⟩
      exact hheld _ f i hc hi
    case pass =>
      obtain ⟨hk, hbody⟩ := hgood
      obtain ⟨o, i, -, hlock, hother, hm, P⟩ := Hw.verifyRest_passed (g := h.firstRead nvm) (m := s.mem) (burn := burn)
        (hkey.trans hk) hbody hb (.inl hp)
      exact ⟨_, exec_imageReadDone_rest he h2 hn h0 hr hf (hdigest.mpr hd), hpass s.mem o i _ _ hlock hother rfl hm P⟩
    case burnFails =>
      obtain ⟨hk, hbody⟩ := hgood
      obtain ⟨i, hi, -, hrest⟩ := Hw.verifyRest_good (g := h.firstRead nvm) (m := s.mem) (burn := burn) (hkey.trans hk) hbody
      rw [hb, (Hw.imgBurn_lock (g := { h.firstRead nvm with img := i }) hl).2.1 any] at hrest
      refine ⟨_, (exec_imageReadDone_rest he h2 hn h0 hr hf (hdigest.mpr hd)).trans (by rw [hb, hrest]), ?_⟩
      exact hheld _ _ { i with keyLocked := (if any then Otp.partly else .blank) != Otp.blank } rfl hi
    case powerLost =>
      obtain ⟨hk, hbody⟩ := hgood
      obtain ⟨i, -, -, hrest⟩ := Hw.verifyRest_good (g := h.firstRead nvm) (m := s.mem) (burn := burn) (hkey.trans hk) hbody
      rw [hb, (Hw.imgBurn_lock (g := { h.firstRead nvm with img := i }) hl).2.2] at hrest
      refine ⟨_, (exec_imageReadDone_rest he h2 hn h0 hr hf (hdigest.mpr hd)).trans (by rw [hb, hrest]), rfl, ?_, ?_, ?_⟩
      · exact congrArg Sta.stage (Hw.settle_sta _)
      · exact Hw.settle_pin_railsOk _
      · exact Hw.settle_sys _
    case wrong =>
      exact ⟨_, exec_imgReadRetry_wrong he h2 hn hr (hdigest_not hd), hheld _ _ h.img rfl rfl⟩
    case headAgain =>
      refine ⟨_, exec_imgReadRetry_head he h2 hn hr (hdigest.mpr hd) hf, rfl, ?_, ?_, ?_, ?_, ?_, ?_⟩
      · exact (congrArg Sta.stage (Hw.settle_sta _)).trans h2
      · exact congrArg Sta.failed (Hw.settle_sta _)
      · exact congrArg Sta.failAlarm (Hw.settle_sta _)
      · exact congrArg Img.result (Hw.settle_img _)
      · exact congrArg Img.failEntry (Hw.settle_img _)
      · exact Hw.secondRead_logged h nvm hp (verifyHead_alarm hf)
    case passAgain =>
      obtain ⟨hk, hbody⟩ := hgood
      have hpend : (h.secondRead nvm).lko.pend = [_] := congrArg (· ++ _) hp
      obtain ⟨o, i, hi, hlock, hother, hm, P⟩ := Hw.verifyRest_passed (g := h.secondRead nvm) (m := {}) (burn := burn)
        (hkey.trans hk) hbody hb (.inr ⟨_, hpend, rfl⟩)
      refine ⟨_, exec_imgReadRetry_rest he h2 hn hr (hdigest.mpr hd) hf, hpass {} o i _ _ hlock hother rfl hm P, P.retried.trans hi, ?_⟩
      exact P.logged _ (by rw [hpend]; exact List.mem_singleton_self _)

end Sys2Proof.Machine
end

section
/-! The calibration record read in S4 (R53, R54, R59, R281, Tables 2.12 and 2.13), the exit to S5 (R63, R287, R325, R331), and FEM
discovery (R111, R302, R305, R307, R308, R311). Settles O18. -/
namespace Sys2Proof.Machine

/-! ### Fields of the record -/

theorem rd_slice (b : Bytes) (o n i w : Nat) (h : i + w ≤ n) : rd (slice b o n) i w = rd b (o + i) w := by
  rw [rd, slice, rd, List.drop_take, List.take_take, List.drop_drop, Nat.min_eq_left (by omega)]

theorem drop_slice (b : Bytes) (o n k : Nat) : (slice b o n).drop k = slice b (o + k) (n - k) := by
  rw [slice, slice, List.drop_take, List.drop_drop]

theorem parseTrim_slice (b : Bytes) (o n : Nat) (h : 8 ≤ n) : parseTrim (slice b o n) =
    { tap := rd b o 1, int := signed 8 (rd b (o + 1) 1), gain := ⟨signed 16 (rd b (o + 4) 2), signed 16 (rd b (o + 6) 2)⟩ } := by
  simp only [parseTrim]
  rw [rd_slice b o n 0 1 (by omega), rd_slice b o n 1 1 (by omega), rd_slice b o n 4 2 (by omega), rd_slice b o n 6 2 (by omega)]
  rfl

theorem parseThresh_slice (b : Bytes) (o n k c : Nat) (h : k + c ≤ n) :
    parseThresh (slice b o n) k c = (List.range c).map fun i => signed 8 (rd b (o + k + i) 1) := by
  refine List.map_congr_left fun i hi => ?_
  rw [rd_slice b o n (k + i) 1 (by have := List.mem_range.mp hi; omega), Nat.add_assoc]

/-! ### The state of a record -/

/-- A record that the NVM holds erased. -/
abbrev Erased (b : Bytes) : Prop := b.length = 4420 ∧ ∀ x ∈ b, x = 0xFF
/-- A record of the format of Table 2.12. -/
abbrev Formatted (b : Bytes) : Prop := b.length = 4420 ∧ rd b 0 4 = 0x524C4143 ∧ rd b 4 2 = 1 ∧ rd b 6 2 = 4420
/-- A record of this die, its CRC right (R53). -/
abbrev Hw.OwnRecord (h : Hw) (b : Bytes) : Prop :=
  slice b 8 16 = le 16 h.sys.dieId.toNat ∧ rd b 4416 4 = crc32 (le 16 h.sys.dieId.toNat ++ b.take 4416)

theorem Erased.not_formatted {b : Bytes} (h : Erased b) : ¬ Formatted b := by
  rintro ⟨-, magic, -⟩
  rw [List.eq_replicate_iff.mpr h, rd, List.drop_zero, List.take_replicate] at magic
  exact absurd magic (by decide)

theorem calStateOf_eq (h : Hw) (b : Bytes) :
    h.calStateOf b = if Erased b then 1 else if ¬ Formatted b then 3 else if ¬ h.OwnRecord b then 2 else 0 := by
  unfold Hw.calStateOf Hw.recordCrcOk Hw.dieBytes
  refine if_congr ?_ rfl (if_congr ?_ rfl (if_congr ?_ rfl rfl))
  · rw [Bool.and_eq_true, decide_eq_true_iff, List.all_eq_true]
    simp [Erased, recordSize]
  · simp [Formatted, recordSize]
    tauto
  · simp [Hw.OwnRecord]
    tauto

theorem calStateOf_valid {h : Hw} {b : Bytes} (hf : Formatted b) (ho : h.OwnRecord b) : h.calStateOf b = 0 := by
  rw [calStateOf_eq, if_neg fun he => Erased.not_formatted he hf, if_neg (not_not.mpr hf), if_neg (not_not.mpr ho)]

/-- Erased, of another format, or else of another die or with a wrong CRC (R54). -/
theorem calStateOf_invalid {h : Hw} {b : Bytes} {st : Nat}
    (hst : st = 1 ∧ Erased b ∨ st = 2 ∧ Formatted b ∧ ¬ h.OwnRecord b ∨ st = 3 ∧ ¬ Formatted b ∧ ¬ Erased b) : h.calStateOf b = st := by
  rw [calStateOf_eq]
  rcases hst with ⟨rfl, he⟩ | ⟨rfl, hf, ho⟩ | ⟨rfl, hf, he⟩
  · rw [if_pos he]
  · rw [if_neg fun he => Erased.not_formatted he hf, if_neg (not_not.mpr hf), if_pos ho]
  · rw [if_neg he, if_pos hf]

/-! ### An engine halted -/

theorem getN_vofFn {α : Type} {n i : Nat} (f : Nat → α) (d : α) (h : i < n) : getN (vofFn n f) i d = f i := by
  simp [getN, vofFn, h]

/-- A mandatory share lost by an engine (R351). -/
def Tor.overrun (e : Tor) : Tor := { e with mandOverrun := inc e.mandOverrun }

/-- A halted engine (R348). -/
def Tor.halted (c d : Nat) (e : Tor) : Tor := { e with state := 3, cause := c, code := d, load := [] }

/-- An engine whose active job is lost (R351). -/
def Tor.jobLost (e : Tor) : Tor := { e with job := none, abandoned := true }

namespace Hw

/-- What a halt of an engine leaves as it is: all but the engines, Cairn, the banks and counts of an abandoned quantum, and the log. -/
def ground (h : Hw) : Sys × Pins × Sta × Img × Mode × Fhl × Vector Lane 8 × Vector Port 2 :=
  (h.sys, h.pins, h.sta, h.img, h.mode, h.fhl, h.lanes, h.ports)
/-- With the engines. -/
def footing (h : Hw) : (Sys × Pins × Sta × Img × Mode × Fhl × Vector Lane 8 × Vector Port 2) × Vector Tor 16 := (h.ground, h.tor)

theorem trace_footing (h : Hw) (p : Pkt) : (h.trace p).footing = h.footing := by
  rw [trace_eq]
  rfl

theorem quantumEnds_footing (h : Hw) (t : Nat) (j : Job) (good : Bool) : (h.quantumEnds t j good).footing = h.footing := by
  unfold quantumEnds
  split <;> rfl

theorem failShare_footing (h : Hw) (j : Job) : (h.failShare j).footing = h.footing := by
  refine (each_keep footing _ ?_ _ _).trans ?_
  · exact fun _ _ => rfl
  · rfl

/-- A job dropped changes two counts of its engine, and nothing else here (R350). -/
theorem dropJob_footing (h : Hw) (t : Nat) (j : Job) : ∃ f : Tor → Tor, (∀ e, (f e).state = e.state ∧ (f e).cause = e.cause) ∧
    (h.dropJob t j).footing = (h.ground, updN h.tor t f) := by
  set g : Hw := ((h.onTor t (Tor.dropped 1)).whenB (bits j.w0.toNat 0 16 == 0x0100) fun h =>
    h.dpdDiscard (bits j.w0.toNat 16 8) (dpdKey t j)).quantumEnds t j false with hg
  have counted : g.footing = (h.ground, updN h.tor t (Tor.dropped 1)) :=
    (quantumEnds_footing _ t j false).trans (whenB_keep footing _ _ _ rfl)
  have whole : h.dropJob t j = g.whenB (bit j.w0.toNat 24) fun h => ((h.onTor t Tor.overrun).failShare j).alarm 0x0A02 t j.tick := rfl
  rw [whole]
  cases bit j.w0.toNat 24
  · exact ⟨Tor.dropped 1, fun _ => ⟨rfl, rfl⟩, counted⟩
  · have share : ((g.onTor t Tor.overrun).failShare j).footing = (g.footing.1, updN g.footing.2 t Tor.overrun) := failShare_footing _ j
    rw [counted, updN_updN] at share
    exact ⟨fun e => (e.dropped 1).overrun, fun _ => ⟨rfl, rfl⟩, share⟩

/-- A halt: the engine's state and cause (R348). -/
theorem torHalt_footing (h : Hw) (t : EngId) (c d : Nat) : ∃ f : Tor → Tor, (∀ e, (f e).state = 3 ∧ (f e).cause = c) ∧
    (h.torHalt t c d).footing = (h.ground, updN h.tor t f) := by
  have traced : ∀ (g : Hw) (p : Hw → Pkt), ((g.whenB (g.traceFlow t) fun g => g.trace (p g)).alarm 0x0A01 (t.val * 256 + c)).footing =
      g.footing := fun g p => whenB_keep footing g _ _ (trace_footing g _)
  unfold torHalt
  dsimp only
  match (h.eng t).job with
  | none => exact ⟨Tor.halted c d, fun _ => ⟨rfl, rfl⟩, traced (h.onTor t (Tor.halted c d)) _⟩
  | some j =>
    obtain ⟨f, hf, e⟩ := dropJob_footing ((h.onTor t (Tor.halted c d)).onTor t Tor.jobLost) t j
    have tor : updN ((h.onTor t (Tor.halted c d)).onTor t Tor.jobLost).tor t f = updN h.tor t fun x => f (x.halted c d).jobLost := by
      rw [onTor_onTor, onTor_tor, updN_updN]
    exact ⟨fun x => f (x.halted c d).jobLost, fun x => hf _, (traced _ _).trans (e.trans (Prod.ext rfl tor))⟩

/-! ### The engines start (R331) -/

/-- An engine at the exit of S4: it runs from address 0, or halts for want of a program. -/
def startEngine (h : Hw) (t : EngId) : Hw :=
  if h.image.torProgs.contains t.val then h.onTor t fun e => { e with state := 1, pc := 0 } else h.torHalt t 1

theorem startEngine_ground (h : Hw) (t : EngId) : (h.startEngine t).ground = h.ground := by
  unfold startEngine
  split
  · rfl
  · obtain ⟨f, -, e⟩ := h.torHalt_footing t 1 0
    exact congrArg Prod.fst e

theorem startEngine_other (h : Hw) {t u : EngId} (hu : t ≠ u) : (h.startEngine t).eng u = h.eng u := by
  have hv : u.val ≠ t.val := fun e => hu (Fin.ext e.symm)
  unfold startEngine
  split
  · exact onTor_eng_ne h _ hv
  · obtain ⟨f, -, e⟩ := h.torHalt_footing t 1 0
    exact (congrArg (fun x => getN x.2 u {}) e).trans (getN_updN_ne _ f _ hv)

theorem startEngine_runs (h : Hw) (t : EngId) (ht : t.val ∈ h.image.torProgs) :
    (h.startEngine t).eng t = { h.eng t with state := 1, pc := 0 } := by
  rw [startEngine, if_pos (List.contains_iff_mem.mpr ht)]
  exact onTor_eng h _ t.isLt

theorem startEngine_halts (h : Hw) (t : EngId) (ht : t.val ∉ h.image.torProgs) :
    ((h.startEngine t).eng t).state = 3 ∧ ((h.startEngine t).eng t).cause = 1 := by
  obtain ⟨f, hf, e⟩ := h.torHalt_footing t 1 0
  have tor : (h.torHalt t 1).tor = updN h.tor t f := congrArg (·.2) e
  have own : (h.torHalt t 1).eng t = f (h.eng t) := by
    rw [eng, tor]
    exact getN_updN_same h.tor f {} t.isLt
  rw [startEngine, if_neg (fun hc => ht (List.contains_iff_mem.mp hc)), own]
  exact hf _

/-- All engines at the exit of S4. -/
def startEngines (h : Hw) : Hw := h.each (List.finRange 16) startEngine

theorem startEngines_ground (h : Hw) : h.startEngines.ground = h.ground := each_keep ground _ startEngine_ground _ _

theorem image_of_ground {g h : Hw} (e : g.ground = h.ground) : g.image = h.image := congrArg (fun x => x.2.2.2.1.loaded.getD {}) e

theorem lane_of_ground {g h : Hw} (e : g.ground = h.ground) (l : LaneId) : g.lane l = h.lane l :=
  congrArg (fun v : Vector Lane 8 => getN v l {}) (congrArg (·.2.2.2.2.2.2.1) e)

theorem startEngines_runs (h : Hw) (t : EngId) (ht : t.val ∈ h.image.torProgs) :
    h.startEngines.eng t = { h.eng t with state := 1, pc := 0 } := by
  refine congrArg (·.2) (each_once (g := fun h => (h.ground, h.eng t)) (a := (h.ground, h.eng t))
    (b := (h.ground, { h.eng t with state := 1, pc := 0 })) (List.nodup_finRange 16) (List.mem_finRange t) ?other ?own rfl)
  case other =>
    intro g u hu
    show ((g.startEngine u).ground, (g.startEngine u).eng t) = _
    rw [startEngine_ground, startEngine_other g hu]
  case own =>
    intro g hg
    have ground : g.ground = h.ground := congrArg (·.1) hg
    have eng : g.eng t = h.eng t := congrArg (·.2) hg
    show ((g.startEngine t).ground, (g.startEngine t).eng t) = _
    rw [startEngine_ground, startEngine_runs g t (image_of_ground ground ▸ ht), ground, eng]

theorem startEngines_halts (h : Hw) (t : EngId) (ht : t.val ∉ h.image.torProgs) :
    (h.startEngines.eng t).state = 3 ∧ (h.startEngines.eng t).cause = 1 := by
  have e := each_once (g := fun h => (h.ground, (h.eng t).state, (h.eng t).cause)) (f := startEngine) (h := h)
    (a := (h.ground, (h.eng t).state, (h.eng t).cause)) (b := (h.ground, 3, 1)) (List.nodup_finRange 16) (List.mem_finRange t)
    ?other ?own rfl
  case other =>
    intro g u hu
    show ((g.startEngine u).ground, ((g.startEngine u).eng t).state, ((g.startEngine u).eng t).cause) = _
    rw [startEngine_ground, startEngine_other g hu]
  case own =>
    intro g hg
    have ground : g.ground = h.ground := congrArg (·.1) hg
    obtain ⟨state, cause⟩ := startEngine_halts g t (image_of_ground ground ▸ ht)
    show ((g.startEngine t).ground, ((g.startEngine t).eng t).state, ((g.startEngine t).eng t).cause) = _
    rw [startEngine_ground, state, cause, ground]
  exact ⟨congrArg (·.2.1) e, congrArg (·.2.2) e⟩

/-! ### The exit to S5 -/

/-- Of the image nothing follows from the record. -/
theorem recordAtExit_changes (g : Hw) : ∃ (i : Img) (p : Vector Path 64) (c : Cal), i.loaded = g.img.loaded ∧
    g.recordAtExit = { g with img := i, paths := p, cal := c } := by
  unfold recordAtExit
  dsimp only
  split
  · exact ⟨{ g.img with storeCount := rd (g.sta.calRead.getD []) 24 4 }, _, _, rfl, rfl⟩
  · exact ⟨g.img, g.paths, _, rfl, rfl⟩

/-- The lanes of a port in use: TYPE 1 or 2 (Table 13.1). -/
def laneUp (h : Hw) (l : Nat) : Bool := h.portType (l / 4) == 1 || h.portType (l / 4) == 2

theorem laneUp_eq (h : Hw) (l : Nat) : h.laneUp l = decide (h.portType (l / 4) = 1 ∨ h.portType (l / 4) = 2) := by
  rw [laneUp, Bool.decide_or]
  rfl

/-- The housekeeping sequences run, and the lanes of the ports in use transmit. -/
def transmit (h : Hw) : Hw := { h with
  quads := vmapi h.quads fun _ q => { q with hkRunning := true, slotFrom := h.up }
  lanes := vmapi h.lanes fun l x => if h.laneUp l then { x with step := 1 } else x
  ports := vmapi h.ports fun p x => { x with localFault := h.laneUp (4 * p) }
  pins := { h.pins with ltx := vofFn 8 h.laneUp } }

theorem transmit_eng (h : Hw) (e : EngId) : h.transmit.eng e = h.eng e := rfl
theorem transmit_localFault (h : Hw) (p : PortId) : (h.transmit.port p).localFault = h.laneUp (4 * p) :=
  congrArg Port.localFault (getN_vmapi _ _ _ p.isLt)
theorem transmit_ltx (h : Hw) (l : LaneId) : getN h.transmit.pins.ltx l false = h.laneUp l := getN_vofFn _ _ l.isLt
theorem transmit_hk (h : Hw) (q : QuadId) : (h.transmit.quad q).hkRunning = true := congrArg Quad.hkRunning (getN_vmapi _ _ _ q.isLt)
theorem transmit_lane (h : Hw) (l : LaneId) : h.transmit.lane l = if h.laneUp l then { h.lane l with step := 1 } else h.lane l :=
  getN_vmapi _ _ _ l.isLt

theorem enterS5_eq (g : Hw) : g.enterS5 = (g.recordAtExit.enterStage 5).startEngines.transmit := by
  have engines : ∀ r : Hw, (r.each (List.finRange 16) fun h t =>
    if h.image.torProgs.contains t.val then h.onTor t fun e => { e with state := 1, pc := 0 } else h.torHalt t 1) = r.startEngines :=
    fun _ => rfl
  unfold enterS5
  simp only [engines]
  generalize (g.recordAtExit.enterStage 5).startEngines = x
  rfl

/-- S5 as it is entered from `g` (R63, R287, R325, R331, Table 3.3). -/
structure AtS5 (g t : Hw) : Prop where
  stage : t.sta.stage = 5
  calRead : t.sta.calRead = g.sta.calRead
  sys : t.sys = g.sys
  mode : t.mode = g.mode
  dl : t.fhl.dl = g.fhl.dl
  localFault : ∀ p : PortId, (t.port p).localFault = g.laneUp (4 * p)
  ltx : ∀ l : LaneId, getN t.pins.ltx l false = g.laneUp l
  runs : ∀ e : EngId, e.val ∈ g.image.torProgs → t.eng e = { g.eng e with state := 1, pc := 0 }
  halts : ∀ e : EngId, e.val ∉ g.image.torProgs → (t.eng e).state = 3 ∧ (t.eng e).cause = 1
  hk : ∀ q : QuadId, (t.quad q).hkRunning = true
  lane : ∀ l : LaneId, t.lane l = if g.laneUp l then { g.lane l with step := 1 } else g.lane l

theorem enterS5_atS5 (g : Hw) : AtS5 g g.enterS5 := by
  obtain ⟨i, p, c, hi, hrecord⟩ := recordAtExit_changes g
  rw [enterS5_eq, hrecord]
  set r : Hw := ({ g with img := i, paths := p, cal := c } : Hw).enterStage 5 with hr
  have ground : r.startEngines.ground = r.ground := startEngines_ground r
  have image : r.image = g.image := congrArg (·.getD {}) hi
  have up : r.startEngines.laneUp = g.laneUp := by
    funext l
    simp only [laneUp, portType, portCfg, image_of_ground ground, image]
  have lane : ∀ l : LaneId, r.startEngines.lane l = g.lane l := fun l =>
    (lane_of_ground ground l).trans rfl
  exact {
    stage := congrArg (·.2.2.1.stage) ground
    calRead := congrArg (·.2.2.1.calRead) ground
    sys := congrArg (·.1) ground
    mode := congrArg (·.2.2.2.2.1) ground
    dl := congrArg (·.2.2.2.2.2.1.dl) ground
    localFault := fun p => by rw [transmit_localFault, up]
    ltx := fun l => by rw [transmit_ltx, up]
    runs := fun e he => (transmit_eng ..).trans (startEngines_runs r e (image ▸ he))
    halts := fun e he => by
      rw [transmit_eng]
      exact startEngines_halts r e (image ▸ he)
    hk := fun q => transmit_hk _ q
    lane := fun l => by rw [transmit_lane, up, lane] }

theorem settle_eng (h : Hw) (e : Nat) : h.settle.eng e = h.eng e := by rw [eng, settle_tor, eng]
theorem settle_quad (h : Hw) (q : Nat) : h.settle.quad q = h.quad q := by rw [quad, settle_quads, quad]
theorem settle_lane (h : Hw) (l : Nat) : h.settle.lane l = h.lane l := by rw [lane, settle_lanes, lane]
theorem settle_port (h : Hw) (p : Nat) : h.settle.port p = h.port p := by rw [port, settle_ports, port]

/-- HC0's taking of happenings leaves S5 as it was entered. -/
theorem AtS5.settle {g t : Hw} (a : AtS5 g t) : AtS5 g t.settle where
  stage := (congrArg Sta.stage t.settle_sta).trans a.stage
  calRead := (congrArg Sta.calRead t.settle_sta).trans a.calRead
  sys := t.settle_sys.trans a.sys
  mode := t.settle_mode.trans a.mode
  dl := t.settle_fhl_dl.trans a.dl
  localFault p := (congrArg Port.localFault (t.settle_port p)).trans (a.localFault p)
  ltx l := (congrArg (getN · l false) t.settle_pin_ltx).trans (a.ltx l)
  runs e he := (t.settle_eng e).trans (a.runs e he)
  halts e he := by
    rw [settle_eng]
    exact a.halts e he
  hk q := (congrArg Quad.hkRunning (t.settle_quad q)).trans (a.hk q)
  lane l := (t.settle_lane l).trans (a.lane l)

/-! ### The record read -/

/-- The record noted with its state. -/
def noteRecord (h : Hw) (b : Bytes) (st : Nat) : Hw :=
  { h with img := { h.img with calState := st }, sta := { h.sta with calRead := some b } }

theorem loadRecord_invalid {h : Hw} {b : Bytes} {st : Nat} (hst : h.calStateOf b = st) (h0 : st ≠ 0) :
    h.loadRecord b = (h.noteRecord b st).alarm 0x0801 st := by
  unfold loadRecord
  rw [hst]
  exact if_neg h0

/-- A trim of the record, at the offset of its entry (Table 2.13). -/
def trimAt (b : Bytes) (o : Nat) (th : List Int) : Trim :=
  { tap := rd b o 1, int := signed 8 (rd b (o + 1) 1), gain := ⟨signed 16 (rd b (o + 4) 2), signed 16 (rd b (o + 6) 2)⟩, thresh := th }
/-- So many thresholds of the record. -/
def threshAt (b : Bytes) (o n : Nat) : List Int := (List.range n).map fun i => signed 8 (rd b (o + i) 1)

/-- The trims of a valid record (Tables 2.12 and 2.13). -/
def withTrims (h : Hw) (b : Bytes) : Hw :=
  (h.onPaths fun n p => { p with
    trimSource := true
    rxTrim := trimAt b (64 + 64 * n) (threshAt b (72 + 64 * n) 32)
    txTrim := trimAt b (104 + 64 * n) [] }).onQuads fun q x => { x with obs := { x.obs with
      trim := trimAt b (4160 + 16 * q) (threshAt b (4168 + 16 * q) 8) } }

theorem loadRecord_valid {h : Hw} {b : Bytes} (hst : h.calStateOf b = 0) : h.loadRecord b = (h.noteRecord b 0).withTrims b := by
  unfold loadRecord
  rw [hst]
  have rx : ∀ n, ({ parseTrim (slice b (64 + 64 * n) 64) with thresh := parseThresh (slice b (64 + 64 * n) 64) 8 32 } : Trim) =
      trimAt b (64 + 64 * n) (threshAt b (72 + 64 * n) 32) := fun n => by
    rw [parseTrim_slice _ _ _ (by decide), parseThresh_slice _ _ _ _ _ (by decide), show 64 + 64 * n + 8 = 72 + 64 * n by omega]
    rfl
  have tx : ∀ n, parseTrim ((slice b (64 + 64 * n) 64).drop 40) = trimAt b (104 + 64 * n) [] := fun n => by
    rw [drop_slice, parseTrim_slice _ _ _ (by decide), show 64 + 64 * n + 40 = 104 + 64 * n by omega]
    rfl
  have obs : ∀ q, ({ parseTrim (slice b (4160 + 16 * q) 16) with thresh := parseThresh (slice b (4160 + 16 * q) 16) 8 8 } : Trim) =
      trimAt b (4160 + 16 * q) (threshAt b (4168 + 16 * q) 8) := fun q => by
    rw [parseTrim_slice _ _ _ (by decide), parseThresh_slice _ _ _ _ _ (by decide), show 4160 + 16 * q + 8 = 4168 + 16 * q by omega]
    rfl
  simp only [if_true, rx, tx, obs]
  rfl

theorem loadRecord_keeps (h : Hw) (b : Bytes) : (h.loadRecord b).sta = { h.sta with calRead := some b } ∧
    (h.loadRecord b).sys = h.sys ∧ (h.loadRecord b).mode = h.mode ∧ (h.loadRecord b).fhl = h.fhl ∧
    (h.loadRecord b).image = h.image ∧ (h.loadRecord b).tor = h.tor ∧ (h.loadRecord b).lanes = h.lanes := by
  unfold loadRecord
  dsimp only
  split
  · exact ⟨rfl, rfl, rfl, rfl, rfl, rfl, rfl⟩
  · exact ⟨rfl, rfl, rfl, rfl, rfl, rfl, rfl⟩

theorem tryS5_stays (g : Hw) (h : g.sta.calRead = none ∨ g.sta.discovered.length ≠ 16) : g.tryS5 = g := by
  have hc : (g.sta.stage == 4 && g.sta.calRead.isSome && g.sta.discovered.length == 16) = false := by
    rcases h with h | h <;> simp [h]
  rw [tryS5, hc, whenB_false]

theorem tryS5_exits (g : Hw) (h4 : g.sta.stage = 4) {b : Bytes} (hb : g.sta.calRead = some b) (hd : g.sta.discovered.length = 16) :
    g.tryS5 = g.enterS5 := by
  rw [tryS5, h4, hb, hd]
  rfl

end Hw

theorem exec_calRecordRead (s : State) (dt : Nat) (b : Bytes) : exec (.calRecordRead dt b) s = execCalRecordRead dt b s := rfl

/-- The record is read in S4 where it has not been. -/
theorem exec_calRecordRead_open {s : State} {dt : Nat} (b : Bytes) (h4 : s.hw.sta.stage = 4) (hn : s.hw.sta.calRead = none) :
    exec (.calRecordRead dt b) s = .next { s with
      hw := ((((s.hw.elapse dt).nvmRead (s.hw.elapse dt).image.calOffset 4420).loadRecord b).tryS5).settle } := by
  have hc : ((s.hw.elapse dt).sta.stage == 4 && (s.hw.elapse dt).sta.calRead.isNone) = true := by simp [h4, hn]
  rw [exec_calRecordRead, execCalRecordRead, ok_eq]
  rw [hc]
  rfl

/-! ### FEM discovery -/

theorem femLoad_id (f : Fem) (id : FemId) (r : FemRead) : (femLoad f id r).id = some id := by
  unfold femLoad
  dsimp only
  split
  · rfl
  · rfl

theorem newerLife_none (a b : Option Life) : newerLife a b = none ↔ a = none ∧ b = none := by
  match a, b with
  | some x, some y =>
    unfold newerLife
    dsimp only
    split
    · simp
    · simp
  | some x, none => simp [newerLife]
  | none, some y => simp [newerLife]
  | none, none => simp [newerLife]

/-- A life is invalid where neither copy is valid (R308). -/
theorem femLoad_lifeInvalid (f : Fem) (id : FemId) (r : FemRead) : (femLoad f id r).lifeInvalid = true ↔
    r.lifeA.bind (parseLife id.serial) = none ∧ r.lifeB.bind (parseLife id.serial) = none := by
  rw [← newerLife_none]
  unfold femLoad
  dsimp only
  split
  next e => simp [e]
  next e => simp [e]

/-- A path after discovery of its FEM (R111, R307, R311): without a valid identity page it is to be retired on the tick `due`. -/
def Path.found (due : Nat) (r : FemRead) (p : Path) : Path :=
  match r.identity.bind parseIdentity with
  | some id => { p with fem := femLoad p.fem id r, fsCurrent := id.dacFs }
  | none => { p with disabled := true, retireAt := p.retireAt ++ [(due, 1)], fem := { p.fem with failCause := 1 } }

theorem Path.found_valid {r : FemRead} {id : FemId} (e : r.identity.bind parseIdentity = some id) (due : Nat) (p : Path) :
    Path.found due r p = { p with fem := femLoad p.fem id r, fsCurrent := id.dacFs } := by
  rw [found, e]

theorem Path.found_lost {r : FemRead} (e : r.identity.bind parseIdentity = none) (due : Nat) (p : Path) : Path.found due r p =
    { p with disabled := true, retireAt := p.retireAt ++ [(due, 1)], fem := { p.fem with failCause := 1 } } := by
  rw [found, e]

namespace Hw

theorem dueTick_eq (h : Hw) : h.dueTick = if h.tim.open_ ∨ h.tim.stepped then h.tim.k + 1 else 0 :=
  if_congr Bool.or_eq_true_iff rfl rfl

/-- The alarms of discovery of the FEM of path `n`. -/
def foundAlarms (h : Hw) (n : Nat) (r : FemRead) : List Happening :=
  match r.identity.bind parseIdentity with
  | some id => if (femLoad (h.path n).fem id r).lifeInvalid then [h.seen { code := 0x0503, arg := n }] else []
  | none => [h.seen { code := 0x0501, arg := n }]

theorem foundAlarms_state {h : Hw} {n : Nat} {r : FemRead} : ∀ x ∈ h.foundAlarms n r, isState x.code = false := by
  unfold foundAlarms
  split
  · split
    · simp [seen, isState]
    · simp
  · simp [seen, isState]

theorem foundAlarms_length (h : Hw) (n : Nat) (r : FemRead) : (h.foundAlarms n r).length ≤ 1 := by
  unfold foundAlarms
  split
  · split
    · exact le_rfl
    · exact Nat.zero_le _
  · exact le_rfl

theorem discover_eq {h : Hw} {n : Nat} (r : FemRead) (hn : n < 64) (hc : h.checked n = true) : h.discover n r =
    { h.onPath n (Path.found h.dueTick r) with lko := { h.lko with pend := h.lko.pend ++ h.foundAlarms n r } } := by
  unfold discover foundAlarms
  cases e : r.identity.bind parseIdentity with
  | some id =>
    have found := funext (Path.found_valid e h.dueTick)
    have fem : ((h.onPath n fun p => { p with fem := femLoad p.fem id r, fsCurrent := id.dacFs }).path n).fem = femLoad (h.path n).fem id r :=
      congrArg Path.fem (onPath_path h _ hn)
    dsimp only
    rw [fem, found]
    cases (femLoad (h.path n).fem id r).lifeInvalid
    · simp [onPath]
    · rfl
  | none =>
    dsimp only
    rw [hc, funext (Path.found_lost e h.dueTick)]
    rfl

/-- Discovery on several paths from `h`, `g` what it leaves: each path has its FEM found, and the alarms wait in the order of the paths. -/
structure Discovered (h g : Hw) (a : Nat) (r : Nat → FemRead) (l : List Nat) : Prop where
  frame : g = { h with
    paths := g.paths, lko := { h.lko with pend := h.lko.pend ++ l.flatMap fun i => h.foundAlarms (a + i) (r i) } }
  own : ∀ i ∈ l, g.path (a + i) = Path.found h.dueTick (r i) (h.path (a + i))
  other : ∀ n, (∀ i ∈ l, n ≠ a + i) → g.path n = h.path n

theorem each_discover (h : Hw) (a : Nat) (r : Nat → FemRead) (l : List Nat) (hl : l.Nodup) (ha : ∀ i ∈ l, a + i < 64)
    (hc : ∀ i ∈ l, h.checked (a + i) = true) : Discovered h (h.each l fun h i => h.discover (a + i) (r i)) a r l := by
  induction l generalizing h with
  | nil =>
    refine ⟨?_, by simp, fun _ _ => rfl⟩
    simp
  | cons x l ih =>
    obtain ⟨hx, hl⟩ := List.nodup_cons.mp hl
    have hax : a + x < 64 := ha x List.mem_cons_self
    have hne : ∀ i ∈ l, a + i ≠ a + x := fun i hi e => hx (Nat.add_left_cancel e ▸ hi)
    set g : Hw := h.discover (a + x) (r x) with hg
    rw [discover_eq _ hax (hc x List.mem_cons_self)] at hg
    have same : ∀ n, n ≠ a + x → g.path n = h.path n := fun n hn => by
      rw [hg]
      exact onPath_path_ne h _ hn
    have first : g.path (a + x) = Path.found h.dueTick (r x) (h.path (a + x)) := by
      rw [hg]
      exact onPath_path h _ hax
    have alarms : ∀ i ∈ l, g.foundAlarms (a + i) (r i) = h.foundAlarms (a + i) (r i) := fun i hi => by
      unfold foundAlarms
      rw [same _ (hne i hi), hg]
      rfl
    have due : g.dueTick = h.dueTick := by
      rw [hg]
      rfl
    obtain ⟨frame, own, other⟩ := ih g hl (fun i hi => ha i (List.mem_cons_of_mem _ hi)) fun i hi => by
      rw [checked, same _ (hne i hi)]
      exact hc i (List.mem_cons_of_mem _ hi)
    rw [each_cons, ← show g = h.discover (a + x) (r x) from rfl]
    refine ⟨?_, ?_, ?_⟩
    · have pend : g.lko.pend ++ l.flatMap (fun i => g.foundAlarms (a + i) (r i)) =
          h.lko.pend ++ (x :: l).flatMap fun i => h.foundAlarms (a + i) (r i) := by
        rw [List.flatMap_congr alarms, hg, List.flatMap_cons, ← List.append_assoc]
      refine frame.trans ?_
      rw [pend]
      generalize (g.each l fun h i => h.discover (a + i) (r i)).paths = v
      rw [hg]
      rfl
    · intro i hi
      rcases List.mem_cons.mp hi with rfl | hi
      · rw [other _ fun i hi e => hne i hi e.symm, first]
      · rw [own i hi, due, same _ (hne i hi)]
    · intro n hn
      rw [other n fun i hi => hn i (List.mem_cons_of_mem _ hi), same n (hn x List.mem_cons_self)]

end Hw

/-- The reads of a FEM in discovery: 24 of 32 bytes, at the address 0x50 + i (R302, R305). -/
theorem femReads_eq (q i : Nat) (hi : i < 4) : femReads (4 * q + i) =
    (List.range 24).map fun j => .transfer q (0x50 + i) (be 2 (32 * j)) [] 32 := by
  have quad : (4 * q + i) / 4 = q := by omega
  have place : (4 * q + i) % 4 = i := by omega
  unfold femReads recordReads
  rw [quad, place]
  refine List.map_congr_left fun j hj => ?_
  have hj : j < 24 := List.mem_range.mp hj
  rw [Nat.zero_add, show Nat.min 32 (768 - 32 * j) = 32 from Nat.min_eq_left (by omega)]

/-- The reads of a bus in discovery, those of a FEM that does not answer left out. -/
theorem busReads_eq (q : Nat) (r0 r1 r2 r3 : FemRead) :
    (([r0, r1, r2, r3].zipIdx.take 4).flatMap fun r => if r.1.identity.isSome then femReads (4 * q + r.2) else []) =
    ((List.range 4).map fun i => if ([r0, r1, r2, r3][i]?.bind (·.identity)).isSome then
      (List.range 24).map fun j => BusItem.transfer q (0x50 + i) (be 2 (32 * j)) [] 32 else []).flatten := by
  have read : ∀ (r : FemRead) (i : Nat), i < 4 → (if r.identity.isSome then femReads (4 * q + i) else []) =
      if r.identity.isSome then (List.range 24).map fun j => BusItem.transfer q (0x50 + i) (be 2 (32 * j)) [] 32 else [] :=
    fun r i hi => by rw [femReads_eq q i hi]
  have reads := congrArg₂ (· ++ ·) (read r0 0 (by decide)) (congrArg₂ (· ++ ·) (read r1 1 (by decide))
    (congrArg₂ (· ++ ·) (read r2 2 (by decide)) (congrArg (· ++ []) (read r3 3 (by decide)))))
  exact reads

theorem exec_femDiscoveryDone (s : State) (dt : Nat) (q : QuadId) (l : List FemRead) :
    exec (.femDiscoveryDone dt q l) s = execFemDiscoveryDone dt q l s := rfl

/-- A FEM that did not answer, where discovery gives none. -/
def noAnswer : FemRead := { identity := none, lifeA := none, lifeB := none }

/-- Discovery on one bus, where another bus or the record is due. -/
theorem exec_femDiscoveryDone_due {s : State} {dt : Nat} {q : QuadId} {h : Hw} (he : s.hw.elapse dt = h) (h4 : h.sta.stage = 4)
    (hq : q ∉ h.sta.discovered) (hdue : h.sta.calRead = none ∨ h.sta.discovered.length < 15) (l : List FemRead)
    (hc : ∀ i ∈ [0, 1, 2, 3], h.checked (4 * q + i) = true) : ∃ g, Hw.Discovered h g (4 * q) (fun i => l.getD i noAnswer) [0, 1, 2, 3] ∧
      exec (.femDiscoveryDone dt q l) s = .next { s with hw := ((g.busPut ((l.zipIdx.take 4).flatMap fun r =>
        if r.1.identity.isSome then femReads (4 * q + r.2) else [])).onSta fun t => { t with discovered := q :: t.discovered }).settle } := by
  have found := Hw.each_discover h (4 * q) (fun i => l.getD i noAnswer) [0, 1, 2, 3] (by decide)
    (fun i hi => by
      have hi : i < 4 := by simpa using List.mem_range.mp (show i ∈ List.range 4 from hi)
      have := q.isLt
      omega) hc
  have hrun : (h.sta.stage == 4 && !h.sta.discovered.contains q) = true := by simp [h4, hq]
  rw [exec_femDiscoveryDone, execFemDiscoveryDone, ok_eq, he]
  refine ⟨_, found, ?_⟩
  have sta : (h.each [0, 1, 2, 3] fun h i => h.discover (4 * q + i) (l.getD i noAnswer)).sta = h.sta :=
    (congrArg Hw.sta found.frame).trans rfl
  rw [hrun, Hw.whenB_true, Hw.tryS5_stays]
  · rfl
  · refine hdue.imp (fun e => (congrArg Sta.calRead sta).trans e) fun e => ?_
    have count : (q :: h.sta.discovered).length ≠ 16 := by
      rw [List.length_cons]
      omega
    rw [← sta] at count
    exact count

namespace Hw

theorem foundAlarms_lifeInvalid {h : Hw} {n : Nat} {r : FemRead} {id : FemId} (e : r.identity.bind parseIdentity = some id)
    (hl : (femLoad (h.path n).fem id r).lifeInvalid = true) : h.seen { code := 0x0503, arg := n } ∈ h.foundAlarms n r := by
  rw [foundAlarms, e]
  dsimp only
  rw [if_pos hl]
  exact List.mem_singleton_self _

theorem foundAlarms_lost {h : Hw} {n : Nat} {r : FemRead} (e : r.identity.bind parseIdentity = none) :
    h.seen { code := 0x0501, arg := n } ∈ h.foundAlarms n r := by
  rw [foundAlarms, e]
  exact List.mem_singleton_self _

/-- Every alarm of discovery on one bus is in the log, whatever the command changes beside it. -/
theorem Discovered.logged {h g g' : Hw} {a : Nat} {r : Nat → FemRead} {l : List Nat} (d : Discovered h g a r l) (hp : h.lko.pend = [])
    (hl : l.length ≤ 4096) (hlko : g'.lko = g.lko) {i : Nat} (hi : i ∈ l) {x : Happening} (hx : x ∈ h.foundAlarms (a + i) (r i)) :
    mark x ∈ g'.settle.entries := by
  have pend : g'.lko.pend = l.flatMap fun i => h.foundAlarms (a + i) (r i) := by
    have e : g.lko.pend = h.lko.pend ++ l.flatMap fun i => h.foundAlarms (a + i) (r i) := (congrArg (·.lko.pend) d.frame).trans rfl
    rw [hlko, e, hp, List.nil_append]
  have count : (l.flatMap fun i => h.foundAlarms (a + i) (r i)).length ≤ l.length := by
    have sum := List.sum_le_card_nsmul (l.map fun i => (h.foundAlarms (a + i) (r i)).length) 1
      (List.forall_mem_map.mpr fun i _ => h.foundAlarms_length (a + i) (r i))
    simpa [List.length_flatMap] using sum
  refine settle_logged g' ?_ ?_ ?_
  · rw [pend]
    exact List.mem_flatMap.mpr ⟨i, hi, hx⟩
  · rw [pend]
    exact count.trans hl
  · intro y hy
    rw [pend] at hy
    obtain ⟨j, -, hy⟩ := List.mem_flatMap.mp hy
    exact foundAlarms_state y hy

end Hw

/-- Settles O18: the record read gives the trims or an alarm and may be what S5 waits for; discovery on one bus finds the FEMs of its
four paths one after the other. -/
theorem stageS4 : Obligations.StageS4 := by
  unfold Obligations.StageS4
  constructor
  · intro s dt b hs h4 hn h die form own trim
    have hexec := exec_calRecordRead_open (dt := dt) b h4 hn
    replace h4 : h.sta.stage = 4 := by simpa [h, Hw.nvmRead_eq, Hw.nvm] using h4
    have hsettled : h.Settled := by
      have e := Hw.elapse_settled _ hs dt
      simp only [h, Hw.nvmRead_eq]
      exact e
    change exec (.calRecordRead dt b) s = .next { s with hw := ((h.loadRecord b).tryS5).settle } at hexec
    clear_value h
    obtain ⟨sta, sys, mode, fhl, image, tor, lanes⟩ := h.loadRecord_keeps b
    have stays : h.sta.discovered.length ≠ 16 → (h.loadRecord b).tryS5 = h.loadRecord b := fun hd =>
      Hw.tryS5_stays _ (.inr (by rw [sta]; exact hd))
    refine ⟨fun hd hf ho => ?valid, fun hd st hcase => ?invalid, fun hd => ?exits⟩
    case valid =>
      rw [stays hd, Hw.loadRecord_valid (calStateOf_valid hf ho), Hw.settle_of_settled ((h.noteRecord b 0).withTrims b) hsettled] at hexec
      exact ⟨_, hexec, rfl, rfl, rfl, fun n => getN_vmapi _ _ _ n.isLt, fun q => getN_vmapi _ _ _ q.isLt⟩
    case invalid =>
      have some : st ≠ 0 := by omega
      rw [hexec, stays hd, Hw.loadRecord_invalid (calStateOf_invalid hcase) some]
      rfl
    case exits =>
      rw [Hw.tryS5_exits (h.loadRecord b) (by rw [sta]; exact h4) (congrArg Sta.calRead sta) (by rw [sta]; exact hd)] at hexec
      have A := (h.loadRecord b).enterS5_atS5.settle
      have up : ∀ l, (h.loadRecord b).laneUp l = decide (h.portType (l / 4) = 1 ∨ h.portType (l / 4) = 2) := fun l => by
        rw [Hw.laneUp_eq, Hw.portType, Hw.portCfg, image]
        rfl
      have engine : ∀ e, (h.loadRecord b).eng e = h.eng e := fun e => by rw [Hw.eng, tor, Hw.eng]
      have lane : ∀ l, (h.loadRecord b).lane l = h.lane l := fun l => by rw [Hw.lane, lanes, Hw.lane]
      refine ⟨_, hexec, rfl, rfl, A.stage, A.calRead.trans (congrArg Sta.calRead sta), fun p => ?_, fun l => (A.ltx l).trans (up l),
        A.sys.trans sys, A.mode.trans mode, A.dl.trans (congrArg Fhl.dl fhl), fun e => ⟨fun he => ?_, fun he => A.halts e (image ▸ he)⟩,
        A.hk, fun l => ?_⟩
      · rw [A.localFault, up, Nat.mul_div_cancel_left _ (by decide)]
      · rw [A.runs e (image ▸ he), engine]
      · rw [A.lane, up, lane]
        exact if_congr decide_eq_true_iff rfl rfl
  · intro s dt q r0 r1 r2 r3 hs h4 hq hdue hfree h rs
    have he : s.hw.elapse dt = h := rfl
    have sta : h.sta = { s.hw.sta with since := s.hw.sta.since + dt } := Hw.elapse_sta ..
    have hp : h.lko.pend = [] := (Hw.elapse_pend ..).trans hs.1
    have hc : ∀ i ∈ [0, 1, 2, 3], h.checked (4 * q + i) = true := fun i hi => by
      have hi : i < 4 := List.mem_range.mp (show i ∈ List.range 4 from hi)
      have paths : h.path (4 * q + i) = s.hw.path (4 * q + i) := by rw [Hw.path, Hw.elapse_paths, Hw.path]
      obtain ⟨hr, hd⟩ := hfree ⟨i, hi⟩
      rw [Hw.checked, paths, hr, hd]
      rfl
    replace h4 : h.sta.stage = 4 := by rw [sta]; exact h4
    replace hq : q ∉ h.sta.discovered := by rw [sta]; exact hq
    replace hdue : h.sta.calRead = none ∨ h.sta.discovered.length < 15 := by rw [sta]; exact hdue
    obtain ⟨g, d, hexec⟩ := exec_femDiscoveryDone_due he h4 hq hdue rs hc
    clear_value h
    rw [busReads_eq] at hexec
    set g' : Hw := (g.busPut _).onSta _ with hg'
    have told : g'.settle = _ := Hw.settle_told { h with
        sta := { h.sta with discovered := q :: h.sta.discovered }
        paths := g.paths
        out := g'.out } g.lko.pend g' (by
          rw [hg', d.frame]
          rfl)
    have path : ∀ n, g'.settle.path n = g.path n := fun n => g'.settle_path n
    refine ⟨_, hexec, rfl, rfl, ?_, fun n hn => ?_, fun i r hr => ?_⟩
    · have out : g.out = h.out := (congrArg Hw.out d.frame).trans rfl
      rw [g'.settle_paths, ← out]
      exact told
    · rw [path]
      refine d.other n fun i hi e => hn ?_
      have hi : i < 4 := List.mem_range.mp (show i ∈ List.range 4 from hi)
      omega
    · have hi : i.val ∈ [0, 1, 2, 3] := List.mem_range.mpr i.isLt
      have read : rs.getD i noAnswer = r := by
        rw [List.getD_eq_getElem?_getD, show rs[i.val]? = some r from hr, Option.getD_some]
      have own := d.own i hi
      have logged : ∀ x ∈ h.foundAlarms (4 * q + i) r, Hw.mark x ∈ g'.settle.entries := fun x hx =>
        d.logged (g' := g') hp (by decide) rfl hi (read ▸ hx)
      rw [read] at own
      intro n p
      refine ⟨fun id hid => ?_, fun hid => ?_⟩
      · have fem : g'.settle.path n = { p with fem := femLoad p.fem id r, fsCurrent := id.dacFs } := by
          rw [path, own, Path.found_valid hid]
        refine ⟨fem, ?_, ?_, fun hl => ?_⟩
        · exact (congrArg (·.fem.id) fem).trans (femLoad_id ..)
        · rw [fem]
          exact femLoad_lifeInvalid ..
        · rw [fem] at hl
          exact logged _ (Hw.foundAlarms_lifeInvalid hid hl)
      · refine ⟨?_, logged _ (Hw.foundAlarms_lost hid)⟩
        rw [path, own, Path.found_lost hid, Hw.dueTick_eq]

end Sys2Proof.Machine
end

section
/-! The next state of a command whose effect stands under a condition. -/
namespace Sys2Proof.Machine

/-- An effect under a condition that holds, as the next state. -/
theorem ok_whenB (s : State) (dt : Nat) {c : Hw → Bool} {f : Hw → Hw} (hc : c (s.hw.elapse dt) = true) :
    ok s dt (fun h => h.whenB (c h) f) = .next { s with hw := (f (s.hw.elapse dt)).settle } := by
  rw [ok_eq, hc]
  rfl

end Sys2Proof.Machine
end

section
/-! The passing of core cycles (R63, R205, R211, R256, R270, R406). Settles O6. -/
namespace Sys2Proof.Machine

/-! ### The line of port A -/

/-- Picking a frame leaves what has gone out on the line. -/
theorem Egress.pick_line {e e' : Egress} {q q' : List TxFrame} {f : TxFrame} (hp : e.pick q = some (f, e', q')) : e'.line = e.line := by
  unfold Egress.pick at hp
  split at hp
  · cases hp
  · cases hp
    rfl
  · cases hp
    rfl
  · cases hp
    rfl
  · split at hp <;> cases hp <;> rfl
  · split at hp <;> cases hp <;> rfl

/-- Serving only adds frames to those that have gone out. -/
theorem Egress.serve_line (rate t u n : Nat) (e : Egress) (q : List TxFrame) : ∃ l, (e.serve rate t u n q).1.line = e.line ++ l := by
  induction n generalizing e q with
  | zero => exact ⟨[], (List.append_nil _).symm⟩
  | succ n ih =>
    unfold Egress.serve
    split
    · exact ⟨[], (List.append_nil _).symm⟩
    · split
      · exact ⟨[], (List.append_nil _).symm⟩
      · next f e' q' hp =>
        obtain ⟨l, hl⟩ := ih (e'.start rate t f) q'
        refine ⟨f :: l, hl.trans ?_⟩
        rw [Egress.start, Egress.pick_line hp, List.append_assoc]
        rfl

/-- With no forwarded frame waiting, the first indication is served next. -/
theorem Egress.pick_indication {e : Egress} (hf : e.fwd = []) (x : TxFrame) (r : List TxFrame) : e.pick (x :: r) = some (x, e, r) := by
  simp [Egress.pick, hf]

/-- An indication leaves where the line falls free in time and no forwarded frame waits. -/
theorem Egress.serve_indication (rate n : Nat) {t u : Nat} {e : Egress} {q : List TxFrame} (hf : e.fwd = []) (hb : max e.busy t < u)
    (hq : q ≠ []) : (e.serve rate t u (n + 1) q).2.length < q.length := by
  obtain ⟨x, r, rfl⟩ := List.exists_cons_of_ne_nil hq
  obtain ⟨k, hk⟩ := Hw.serve_queue rate t u n (e.start rate t x) r
  have served : (e.serve rate t u (n + 1) (x :: r)).2 = r.drop k := by
    rw [← hk, Egress.serve, if_neg (Nat.not_le.mpr hb), Egress.pick_indication hf]
  rw [served, List.length_drop, List.length_cons]
  omega

namespace Hw

/-! ### The trace -/

/-- Draining moves packets from the trace to its port and counts the cycles left over. -/
theorem drainTrace_changes (h : Hw) (d : Nat) : h.drainTrace d = { h with
    out := { h.out with trace := (h.drainTrace d).out.trace }
    lko := { h.lko with trace := (h.drainTrace d).lko.trace, trcCredit := (h.drainTrace d).lko.trcCredit } } := by
  unfold drainTrace
  split
  · dsimp only
    split <;> rfl
  · rfl

/-- The packets sent are the oldest, in their order: the trace holds the newest first. -/
theorem drainTrace_oldest (h : Hw) (d : Nat) : ∃ n, (h.drainTrace d).lko.trace = h.lko.trace.take n ∧
    (h.drainTrace d).out.trace = h.out.trace ++ (h.lko.trace.drop n).reverse := by
  unfold drainTrace
  split
  · extract_lets l n g
    refine ⟨l.trace.length - n, ?_⟩
    split
    · next hn => exact ⟨by rw [Nat.sub_eq_zero_of_le hn]; rfl, rfl⟩
    · exact ⟨rfl, rfl⟩
  · exact ⟨h.lko.trace.length, by simp, by simp⟩

/-- A trace that does not stream drains nothing. -/
theorem drainTrace_ring {h : Hw} (hr : h.traceStream = false) (d : Nat) : h.drainTrace d = h := by
  rw [drainTrace, hr]
  rfl

/-! ### Time and line after `d` core cycles -/

/-- C counts from S3's exit on, and a holdover its seconds. -/
theorem elapsed_tim (h : Hw) (d : Nat) : (h.elapsed d).tim = { h.tim with
    c := if 4 ≤ h.sta.stage then h.tim.c + d else h.tim.c
    holdoverS := (h.tim.holdFrom.map fun c => min (2 ^ 32 - 1) ((h.sta.since + d - c) / 983040000)).getD h.tim.holdoverS } := by
  have clock : (if h.clockOn = true then h.tim.c + d else h.tim.c) = if 4 ≤ h.sta.stage then h.tim.c + d else h.tim.c :=
    if_congr decide_eq_true_iff rfl rfl
  unfold elapsed
  dsimp only
  rw [clock]
  cases h.tim.holdFrom <;> rfl

/-- All that `d` core cycles change. -/
theorem elapse_changes (h : Hw) {d : Nat} (hd : d ≠ 0) : h.elapse d = { h with
    sta := { h.sta with since := h.sta.since + d }
    tim := (h.elapsed d).tim
    out := { h.out with
      events := [], tx := (h.elapse d).out.tx, portA := (h.elapse d).out.portA, trace := (h.elapse d).out.trace }
    fhl := { h.fhl with queue := (h.elapse d).fhl.queue, rmaPending := 0 }
    lko := { h.lko with trace := (h.elapse d).lko.trace, trcCredit := (h.elapse d).lko.trcCredit } } := by
  rw [elapse_pos h hd, drainTrace_changes]
  rfl

theorem elapse_portA (h : Hw) {d : Nat} (hd : d ≠ 0) : (h.elapse d).out.portA = (h.served d).1 := by
  rw [elapse_pos h hd, drainTrace_changes]
  rfl

theorem elapse_waiting (h : Hw) {d : Nat} (hd : d ≠ 0) : (h.elapse d).fhl.queue = (h.served d).2 := by
  rw [elapse_pos h hd, drainTrace_changes]
  rfl

end Hw

/-- Settles O6: what port A serves and what the trace port drains, each by its lemma; the rest is `elapsed`. -/
theorem timePasses : Obligations.TimePasses := by
  intro h dt hd t
  refine ⟨?changes, h.elapse_queue hd, fun hf hb hq => ?first, ?line, ?trace, fun hr => ?ring⟩
  case changes =>
    rw [← h.elapsed_tim dt]
    exact h.elapse_changes hd
  case first =>
    have pos : 0 < h.fhl.queue.length := List.length_pos_of_ne_nil hq
    obtain ⟨n, hn⟩ := Nat.exists_eq_add_one.mpr
      (show 0 < h.fhl.queue.length + h.out.portA.own.length + h.out.portA.fwd.length by omega)
    rw [h.elapse_waiting hd, Hw.served, hn]
    exact Egress.serve_indication _ _ hf (max_lt hb (by omega)) hq
  case line =>
    rw [h.elapse_portA hd]
    exact Egress.serve_line ..
  case trace =>
    show ∃ n, (h.elapse dt).lko.trace = _ ∧ (h.elapse dt).out.trace = _
    rw [h.elapse_pos hd]
    exact (h.elapsed dt).drainTrace_oldest dt
  case ring =>
    show (h.elapse dt).lko = _
    rw [h.elapse_pos hd, Hw.drainTrace_ring (h := h.elapsed dt) hr]
    rfl

end Sys2Proof.Machine
end

section
/-! The state after reset (R60, R62, R63, R68, R331, R363, Tables 3.1 and 3.3). Settles O5. -/
namespace Sys2Proof.Machine

/-- Every entry of a vector that repeats one value. -/
theorem getN_replicate {α : Type} {n i : Nat} (x d : α) (h : i < n) : getN (Vector.replicate n x) i d = x := by
  simp [getN, h]

namespace Hw

/-! ### The parts after reset -/

theorem reset_path (n : PathId) : State.reset.hw.path n = {} := getN_replicate _ _ n.isLt
theorem reset_eng (t : EngId) : State.reset.hw.eng t = {} := getN_replicate _ _ t.isLt
theorem reset_ch (c : ChId) : State.reset.hw.ch c = {} := getN_replicate _ _ c.isLt
theorem reset_port (p : PortId) : State.reset.hw.port p = {} := getN_replicate _ _ p.isLt
theorem reset_capS (i : SetupId) : State.reset.hw.capS i = {} := getN_replicate _ _ i.isLt

/-- The engine routes of the quads reset to their own number (Table 15.17). -/
theorem reset_quad (q : QuadId) : State.reset.hw.quad q = { route := q } := by
  simp [quad, getN, State.reset]

/-- No set-up is armed after reset, so ARM_IO is low. -/
theorem reset_armLevel : State.reset.hw.armLevel = false := by
  have idle : ∀ i ∈ List.range 32, (State.reset.hw.capS i).armed = false := fun i hi =>
    congrArg Cap.armed (reset_capS ⟨i, List.mem_range.mp hi⟩)
  rw [armLevel]
  split
  · rw [List.any_eq_false]
    intro i hi
    rw [idle i hi, Bool.false_and]
    exact Bool.false_ne_true
  · rfl

theorem reset_settled : State.reset.hw.Settled := ⟨rfl, rfl, reset_armLevel.symm, rfl⟩

end Hw

/-- Settles O5: the parts that come in numbers by the lemmas above, the others as the state after reset has them. -/
theorem resetState : Obligations.ResetState := by
  unfold Obligations.ResetState
  refine ⟨⟨Hw.reset_settled, rfl⟩, rfl, rfl, rfl, rfl, rfl, rfl, rfl, rfl, ⟨rfl, rfl, rfl, rfl, rfl, rfl, rfl⟩,
    ⟨rfl, rfl, rfl, rfl⟩, ⟨rfl, rfl, rfl⟩, fun n => ?path, fun q => ?quad, fun t => ?engine, fun c => ?channel,
    fun p => ?port, fun i => ?setup, ⟨rfl, rfl, rfl, rfl⟩, ⟨rfl, rfl, rfl, rfl, rfl, rfl⟩, ⟨rfl, rfl⟩,
    rfl, rfl, rfl, rfl, rfl⟩
  case path =>
    rw [Hw.reset_path]
    decide
  case quad =>
    rw [Hw.reset_quad]
    exact ⟨rfl, rfl, rfl, rfl, rfl⟩
  case engine =>
    rw [Hw.reset_eng]
    exact ⟨rfl, rfl, rfl, rfl, rfl, rfl⟩
  case channel =>
    rw [Hw.reset_ch]
    exact ⟨rfl, rfl⟩
  case port =>
    rw [Hw.reset_port]
    exact ⟨rfl, rfl⟩
  case setup =>
    rw [Hw.reset_capS]
    exact ⟨rfl, rfl⟩

end Sys2Proof.Machine
end

section
/-! The waits that run out (R71, R160, R219, R402, Table 3.7). Settles O20. -/
namespace Sys2Proof.Machine

/-! ### S5 and S6 held -/

theorem exec_laneNoLinkTimeout_due {s : State} {dt e : Nat} (h5 : (s.hw.elapse dt).sta.stage = 5)
    (hf : (s.hw.elapse dt).sta.failed = false) (hl : ((s.hw.elapse dt).port 0).linkUp = false)
    (he : getN (s.hw.elapse dt).sta.entry 5 none = some e) (hd : e + 1000000 ≤ usOf (s.hw.elapse dt).sta.since) :
    exec (.laneNoLinkTimeout dt) s = .next { s with hw := ((s.hw.elapse dt).holdStage 0x0301 0).settle } := by
  show execLaneNoLinkTimeout dt s = _
  unfold execLaneNoLinkTimeout
  refine ok_whenB s dt ?_
  simp only [h5, hf, hl, he, beq_self_eq_true, Bool.not_false, Bool.true_and, decide_eq_true_eq]
  exact hd

theorem exec_ptpNoMasterTimeout_due {s : State} {dt e : Nat} (h6 : (s.hw.elapse dt).sta.stage = 6)
    (hm : (s.hw.elapse dt).tim.state ≤ 1) (he : getN (s.hw.elapse dt).sta.entry 6 none = some e)
    (hd : e + 10000000 ≤ usOf (s.hw.elapse dt).sta.since) :
    exec (.ptpNoMasterTimeout dt) s = .next { s with hw := ((s.hw.elapse dt).holdStage 0x0204 0).settle } := by
  show execPtpNoMasterTimeout dt s = _
  unfold execPtpNoMasterTimeout
  refine ok_whenB s dt ?_
  simp only [h6, he, hm, beq_self_eq_true, Bool.true_and, decide_true, decide_eq_true_eq]
  exact hd

/-! ### Convergence and the pin hold -/

theorem exec_dpdNoConverge_due {s : State} {dt c : Nat} (h7 : (s.hw.elapse dt).sta.stage = 7)
    (ha : (s.hw.elapse dt).sta.announced = none) (hn : (s.hw.elapse dt).converged = false)
    (hf : (s.hw.elapse dt).sta.fineAt = some c) (hd : c + 60 * 983040000 ≤ (s.hw.elapse dt).sta.since) :
    exec (.dpdNoConverge dt) s =
      .next { s with hw := ((s.hw.elapse dt).alarm 0x010D (s.hw.elapse dt).unconverged.length).settle } := by
  show execDpdNoConverge dt s = _
  unfold execDpdNoConverge
  refine ok_whenB s dt ?_
  have due : c + 60 * Config.fc ≤ (s.hw.elapse dt).up := hd
  rw [h7, ha, hn, hf, Option.any_some, decide_eq_true due]
  rfl

theorem exec_alarmNHoldEnd_due {s : State} {dt c : Nat} {r : List Nat} (hh : (s.hw.elapse dt).lko.holds = c :: r)
    (hd : c + 98304000 ≤ (s.hw.elapse dt).sta.since) :
    exec (.alarmNHoldEnd dt) s =
      .next { s with hw := ({ s.hw.elapse dt with lko := { (s.hw.elapse dt).lko with holds := r } } : Hw).settle } := by
  show execAlarmNHoldEnd dt s = _
  unfold execAlarmNHoldEnd
  have due : ((s.hw.elapse dt).lko.holds.head?.any fun c => decide (c + 98304000 ≤ (s.hw.elapse dt).up)) = true := by
    rw [hh, List.head?_cons, Option.any_some]
    exact decide_eq_true hd
  rw [ok_whenB s dt due, hh]
  rfl

/-! ### Stale predistortion and stale quads -/

theorem exec_dpdStale_due {s : State} {n : PathId} {sl : Slot} (ha : 100 < ((s.hw.elapse 0).path n).dpd.age)
    (hs : (s.hw.elapse 0).slotNow = some sl) (hm : sl.dpdMode = 1 ∨ sl.dpdMode = 2) :
    exec (.dpdStale n) s = .next { s with hw := ((s.hw.elapse 0).alarm 0x0605 n).settle } := by
  show execDpdStale n s = _
  unfold execDpdStale
  refine ok_whenB s 0 ?_
  rw [decide_eq_true ha, hs]
  simpa using hm

theorem exec_trlQuadStale_due {s : State} {q : QuadId} (ha : 2 < ((s.hw.elapse 0).quad q).hkAge)
    (hr : ((s.hw.elapse 0).quad q).hkRunning = true) :
    exec (.trlQuadStale q) s =
      .next { s with hw := (((s.hw.elapse 0).onQuad q fun x => { x with stale := true }).alarm 0x0902 q).settle } := by
  show execTrlQuadStale q s = _
  unfold execTrlQuadStale
  refine ok_whenB s 0 ?_
  rw [decide_eq_true ha, hr]
  rfl

/-- Settles O20, each wait by the lemma of its command. -/
theorem waits : Obligations.Waits := by
  refine ⟨fun s dt e _ => ⟨fun h5 hf hl he hd => ?link, fun h6 hm he hd => ?master⟩,
    fun s dt _ => ⟨fun h7 ha hn c hf hd => ?converge, fun c r hh hd => ?holdEnd⟩,
    fun s _ => ⟨fun n sl ha hs hm => ?dpd, fun q ha hr => ?quad⟩⟩
  case link => exact exec_laneNoLinkTimeout_due h5 hf hl he hd
  case master => exact exec_ptpNoMasterTimeout_due h6 hm he hd
  case converge => exact exec_dpdNoConverge_due h7 ha hn hf hd
  case holdEnd => exact exec_alarmNHoldEnd_due hh hd
  case dpd => exact exec_dpdStale_due ha hs hm
  case quad => exact exec_trlQuadStale_due ha hr

end Sys2Proof.Machine
end

section
/-! The PLLs in S3 (R63, R71, R256, Table 3.7). Settles O17. -/
namespace Sys2Proof.Machine

/-- The least number of a list that is not empty (the test left open): one of its numbers, none below it. -/
theorem least_of_ne_nil {l : List Nat} (hl : l ≠ []) : ∃ m ∈ l, least (fun _ => true) l = some m ∧ ∀ x ∈ l, m ≤ x := by
  induction l with
  | nil => exact absurd rfl hl
  | cons a r ih =>
    by_cases hr : r = []
    · subst hr
      exact ⟨a, by simp [least]⟩
    · obtain ⟨m, hm, he, hle⟩ := ih hr
      by_cases ha : a < m
      · refine ⟨a, List.mem_cons_self .., by simp [least, he, ha], fun x hx => ?_⟩
        rcases List.mem_cons.mp hx with rfl | hx
        · exact le_rfl
        · exact ha.le.trans (hle x hx)
      · refine ⟨m, List.mem_cons_of_mem _ hm, by simp [least, he, ha], fun x hx => ?_⟩
        rcases List.mem_cons.mp hx with rfl | hx
        · exact Nat.not_lt.mp ha
        · exact hle x hx

theorem longLen_pos (scs : Nat) : 0 < longLen scs := Nat.add_pos_right _ (by decide)

namespace Hw

/-- The state at lock (R63, R256): S4, C at 0, the ticks of the old grid at an open phase, every BIAS pin at its safe level. -/
def locked (h : Hw) : Hw :=
  (({ h with free := h.free + 1 } : Hw).enterStage 4).onTim
    (fun t => { t with c := 0, gridBase := Config.tickPhase h.free % longLen h.scs, k := 0, open_ := false }) |>.onPaths
    fun n p => { p with bias := { p.bias with code := (h.biasSafe n).1, range := (h.biasSafe n).2 } }

/-- Every path of it drives its safe level (Table 3.3). -/
theorem locked_path (h : Hw) (n : PathId) : h.locked.path n =
    { h.path n with bias := { (h.path n).bias with
      code := h.image.policy.biasSafe.getD n 0 % 4096
      range := if h.image.policy.biasMode.testBit n then 2 else if (h.image.policy.biasSafe.getD n 0).testBit 12 then 1 else 0 } } :=
  onPaths_path _ _ n.isLt

end Hw

section
variable {s : State} {dt : Nat} (h3 : s.hw.sta.stage = 3) (hf : s.hw.sta.failed = false)
include h3 hf

theorem exec_pllLock_s3 : exec (.pllLock dt) s = .next { s with hw := (s.hw.elapse dt).locked.settle } := by
  show execPllLock dt s = _
  unfold execPllLock
  refine ok_whenB s dt ?_
  simp [h3, hf]

/-- A time-out with attempts left only counts. -/
theorem exec_pllLockTimeout_counts (hs : s.hw.Settled) {l : List (Fin 4)} (hl : l ≠ []) (ht : (s.hw.elapse dt).sta.pllTries < 2) :
    exec (.pllLockTimeout dt l) s =
      .next { s with hw := (s.hw.elapse dt).onSta fun t => { t with pllTries := t.pllTries + 1 } } := by
  show execPllLockTimeout dt l s = _
  unfold execPllLockTimeout
  refine ok_when s dt (by simp [h3, hf, hl]) ?_ (Hw.elapse_settled _ hs dt)
  dsimp only
  rw [decide_eq_false (by omega)]
  rfl

/-- The third holds S3 for the lowest of the PLLs that failed it. -/
theorem exec_pllLockTimeout_holds {l : List (Fin 4)} (hl : l ≠ []) (ht : 2 ≤ (s.hw.elapse dt).sta.pllTries) :
    ∃ p ∈ l, (∀ x ∈ l, p ≤ x) ∧ exec (.pllLockTimeout dt l) s =
      .next { s with hw :=
        (((s.hw.elapse dt).onSta fun t => { t with pllTries := t.pllTries + 1 }).holdStage 0x0203 p.val).settle } := by
  obtain ⟨m, hm, he, hle⟩ := least_of_ne_nil (l := l.map (·.val)) (by simpa using hl)
  obtain ⟨p, hp, rfl⟩ := List.mem_map.mp hm
  refine ⟨p, hp, fun x hx => hle x (List.mem_map_of_mem hx), ?_⟩
  show execPllLockTimeout dt l s = _
  unfold execPllLockTimeout
  rw [ok_whenB s dt (by simp [h3, hf, hl]), he]
  dsimp only
  rw [decide_eq_true (by omega)]
  rfl

end

/-- Settles O17: lock gives the state `locked`; a time-out counts, and the third holds the stage. -/
theorem pllLock : Obligations.PllLock := by
  intro s dt hs h3 hf h
  have hp : h.lko.pend = [] := (Hw.elapse_pend ..).trans hs.1
  refine ⟨?lock, fun l hl => ⟨fun ht => ?counts, fun ht => ?holds⟩⟩
  case lock =>
    refine ⟨_, exec_pllLock_s3 h3 hf, rfl, rfl,
      ⟨Config.tickPhase h.free % longLen h.scs, Nat.mod_lt _ (longLen_pos _), ?_⟩, ?_, Hw.settle_pin_stat _, fun n => ?_⟩
    · rw [Hw.settle_paths]
      exact Hw.settle_told h.locked [] _ (by rw [← hp]; rfl)
    · exact (congrArg Hw.lko (h.locked.settle_nil hp) :)
    · rw [Hw.settle_path]
      exact h.locked_path n
  case counts => exact exec_pllLockTimeout_counts h3 hf hs hl ht
  case holds => exact exec_pllLockTimeout_holds h3 hf hl ht

end Sys2Proof.Machine
end

section
/-! The stages S0 and S1 (R57 to R63, R71, R415, Tables 3.1 and 3.7). Settles O15. -/
namespace Sys2Proof.Machine
namespace Hw

/-! ### S0 -/

/-- `h` with levels of the reset, supply and clock pins. -/
def withLevels (h : Hw) (reset rails ref : Bool) : Hw :=
  { h with pins := { h.pins with poresetN := reset, railsOk := rails, refclk := ref } }

/-- Those levels move none of the pins that follow the state. -/
theorem withLevels_settled {h : Hw} (hs : h.Settled) (reset rails ref : Bool) : (h.withLevels reset rails ref).Settled := hs

/-- S0 is left for S1 with the pin high, the rails in range and REFCLK running (Table 3.1). -/
theorem leaveS0_leaves {h : Hw} (h0 : h.sta.stage = 0) : (h.withLevels true true true).leaveS0 = { h with
    pins := { h.pins with poresetN := true, railsOk := true, refclk := true, nvRst := true }
    sta := { h.sta with stage := 1, failed := false, failAlarm := 0, resetCause := false
                        entry := updN h.sta.entry 1 fun _ => some (min (2 ^ 32 - 2) (h.sta.since * 100000 / 98304000)) } } := by
  have inS0 : ((h.withLevels true true true).sta.stage == 0) = true := beq_iff_eq.mpr h0
  unfold leaveS0
  rw [inS0]
  rfl

/-- S0 stays where one of the three is missing. -/
theorem leaveS0_stays (h : Hw) {reset rails ref : Bool} (hn : ¬ (reset = true ∧ rails = true ∧ ref = true)) :
    (h.withLevels reset rails ref).leaveS0 = h.withLevels reset rails ref := by
  have shut : ((h.withLevels reset rails ref).sta.stage == 0 && reset && rails && ref) = false := by
    rw [Bool.eq_false_iff]
    intro e
    simp only [Bool.and_eq_true] at e
    obtain ⟨⟨⟨-, hreset⟩, hrails⟩, href⟩ := e
    exact hn ⟨hreset, hrails, href⟩
  unfold leaveS0
  exact (congrArg (whenB _ · _) shut).trans rfl

end Hw

theorem exec_poresetNHigh_s0 {s : State} {dt : Nat} (hp : (s.hw.elapse dt).pins.poresetN = false) (rails ref : Bool) :
    exec (.poresetNHigh dt rails ref) s = .next { s with hw := ((s.hw.elapse dt).withLevels true rails ref).leaveS0.settle } := by
  show execPoresetNHigh dt rails ref s = _
  unfold execPoresetNHigh
  rw [ok_whenB s dt (by rw [hp]; rfl)]
  rfl

theorem exec_supplyBackInRange (s : State) (dt : Nat) (ref : Bool) : exec (.supplyBackInRange dt ref) s =
    .next { s with hw := ((s.hw.elapse dt).withLevels (s.hw.elapse dt).pins.poresetN true ref).leaveS0.settle } := rfl

/-! ### REFCLK and the bus mode -/

/-- A frequency in kHz lies within 2 % of a nominal one (R63). -/
abbrev near (x f : Nat) : Prop := 49 * f ≤ 50 * x ∧ 50 * x ≤ 51 * f

/-- The class of a frequency: the first permitted one that it is near. -/
theorem refClassOf_eq (x : Nat) : refClassOf x =
    if near x 122880 then some 0 else if near x 245760 then some 1 else if near x 491520 then some 2 else none := by
  simp only [refClassOf, refNominal, near, List.findIdx?_cons, List.findIdx?_nil, and_comm, ← Bool.decide_and, decide_eq_true_eq]
  split
  · rfl
  · split
    · rfl
    · split <;> rfl

/-- No class: a frequency that is absent or near none of the three. -/
theorem refClass_none {khz : Option Nat} (hn : ∀ x, khz = some x → ¬ near x 122880 ∧ ¬ near x 245760 ∧ ¬ near x 491520) :
    khz.bind refClassOf = none := by
  cases khz with
  | none => rfl
  | some x =>
    obtain ⟨h0, h1, h2⟩ := hn x rfl
    rw [Option.bind_some, refClassOf_eq, if_neg h0, if_neg h1, if_neg h2]

/-- Near one of the three: they lie too far apart for two. -/
theorem refClassOf_near (x : Nat) : (near x 122880 → refClassOf x = some 0) ∧ (near x 245760 → refClassOf x = some 1) ∧
    (near x 491520 → refClassOf x = some 2) := by
  refine ⟨fun h => ?_, fun h => ?_, fun h => ?_⟩
  · rw [refClassOf_eq, if_pos h]
  · rw [refClassOf_eq, if_neg (by omega), if_pos h]
  · rw [refClassOf_eq, if_neg (by omega), if_neg (by omega), if_pos h]

/-- The bus mode in use: what BOOT_SEL asks for, as far as SFDP allows (R58). -/
def modeOf (want : Nat) (f : Sfdp) : Nat := if want = 2 ∧ f.octal = true then 2 else if 1 ≤ want ∧ f.quad = true then 1 else 0

theorem busMode_eq (sel : Nat) (f : Sfdp) : busMode sel f = (2 - sel, modeOf (2 - sel) f) := by
  simp [busMode, modeOf]

theorem modeOf_cases (want : Nat) (f : Sfdp) : modeOf want f = 0 ∨ modeOf want f = 1 ∨ modeOf want f = 2 := by
  unfold modeOf
  split
  · exact .inr (.inr rfl)
  · split
    · exact .inr (.inl rfl)
    · exact .inl rfl

/-! ### S2 begun -/

namespace Hw

/-- `g` in S2 with class `c` and the bus in mode `mode` where `want` was asked for: the NVM reset, its SFDP `f` read, octal
DTR entered (R57, R58). -/
def s2Begun (g : Hw) (f : Sfdp) (want mode c : Nat) : Hw := { g with
  sta := { g.sta with
    stage := 2, failed := false, failAlarm := 0, refClass := c
    entry := updN g.sta.entry 2 fun _ => some (min (2 ^ 32 - 2) (g.sta.since * 100000 / 98304000)) }
  pins := { g.pins with nvRstPulses := g.pins.nvRstPulses + 1 }
  img := { g.img with
    busMode := mode, downgraded := decide (mode < want), density := some f.density
    dummyRead := [0, f.quadDummy, f.octalDummy].getD mode 0, dummyStatus := [0, 0, f.statusDummy].getD mode 0 }
  out := { g.out with nvm := g.out.nvm ++
    [{ op := [0x66] }, { op := [0x99] }, { op := [0x5A], addr := some 0, dummy := 8 }] ++
    if mode = 2 then ({ op := [0x06] } : NvmCmd) :: f.enter8d.map fun b => { op := b.take 1, data := b.drop 1 } else [] } }

/-- NVM commands under a condition. -/
theorem whenB_nvm (h : Hw) (p : Prop) [Decidable p] (l : List NvmCmd) :
    (h.whenB (decide p) fun g => g.nvm l) = h.nvm (if p then l else []) := by
  by_cases hp : p <;> simp [hp, nvm]

/-- With a pin code below 3 and an NVM that has SFDP, S2 begins in the mode so chosen; IMG_NVM_DOWNGRADE tells of a lesser one. -/
theorem beginS2_eq (g : Hw) (f : Sfdp) (c : Nat) {want : Nat} (hb : g.sys.bootSel < 3) (hw : 2 - g.sys.bootSel = want) :
    (g.onSta fun t => { t with refClass := c }).beginS2 (some f) =
      (g.s2Begun f want (modeOf want f) c).whenB (decide (modeOf want f < want)) fun h => h.alarm 0x010A (modeOf want f) := by
  unfold beginS2
  extract_lets entered reset bus img
  have started : reset = entered.nvmStart := by
    show entered.whenB (decide (g.sys.bootSel < 3)) nvmStart = _
    rw [decide_eq_true hb]
    rfl
  have sel : reset.sys.bootSel = g.sys.bootSel := by
    rw [started]
    rfl
  rw [if_neg (by rw [sel]; omega), sel]
  clear_value reset
  subst started
  dsimp only
  rw [busMode_eq, hw]
  have three := modeOf_cases want f
  set mode := modeOf want f
  have read : (if mode = 2 then f.octalDummy else if mode = 1 then f.quadDummy else 0) =
      [0, f.quadDummy, f.octalDummy].getD mode 0 := by
    rcases three with e | e | e <;> rw [e] <;> rfl
  have status : (if mode = 2 then f.statusDummy else 0) = [0, 0, f.statusDummy].getD mode 0 := by
    rcases three with e | e | e <;> rw [e] <;> rfl
  rw [read, status]
  exact congrArg (whenB · _ _) (whenB_nvm _ (mode = 2) _)

/-- A measurement that gives no class holds S1, or leaves it held (R63, R71). -/
theorem measured_none {khz : Option Nat} (h : Hw) (f : Option Sfdp) (hk : khz.bind refClassOf = none) :
    h.measured khz f = if h.sta.failed = true then h else h.holdStage 0x0201 0 := by
  unfold measured
  rw [hk]

/-- One that gives a class ends CLK_REF_ABSENT where it holds S1, and begins S2. -/
theorem measured_some {khz : Option Nat} {c : Nat} (h : Hw) (f : Option Sfdp) (hk : khz.bind refClassOf = some c) :
    h.measured khz f = ((h.whenB h.sta.failed fun g => g.cease 0x0201 0).onSta fun t => { t with refClass := c }).beginS2 f := by
  unfold measured
  rw [hk]

end Hw

/-! ### The two commands of S1 -/

section
variable {s : State} {dt : Nat} {khz : Option Nat} {f : Sfdp} {h : Hw} (he : s.hw.elapse dt = h) (h1 : h.sta.stage = 1)
include he h1

theorem exec_s1Exit_rom (hf : h.sta.failed = false) (c : Fin 2) :
    exec (.s1Exit dt (some c) khz (some f)) s = .next { s with hw := (h.holdStage 0x010B c.val).settle } := by
  subst he
  show execS1Exit dt (some c) khz (some f) s = _
  unfold execS1Exit
  exact ok_whenB s dt (by rw [h1, hf]; rfl)

theorem exec_s1Exit_measured (hf : h.sta.failed = false) :
    exec (.s1Exit dt none khz (some f)) s = .next { s with hw := (h.measured khz (some f)).settle } := by
  subst he
  show execS1Exit dt none khz (some f) s = _
  unfold execS1Exit
  exact ok_whenB s dt (by rw [h1, hf]; rfl)

theorem exec_refclkRemeasure_held (hf : h.sta.failed = true) (ha : h.sta.failAlarm = 0x0201) :
    exec (.refclkRemeasure dt khz (some f)) s = .next { s with hw := (h.measured khz (some f)).settle } := by
  subst he
  show execRefclkRemeasure dt khz (some f) s = _
  unfold execRefclkRemeasure
  exact ok_whenB s dt (by rw [h1, hf, ha]; rfl)

end

/-- Settles O15: the levels decide in S0; in S1 the self-test, the class of the frequency and the mode of the bus. -/
theorem earlyStages : Obligations.EarlyStages := by
  unfold Obligations.EarlyStages
  constructor
  · intro s dt ref hs h0 h at_ inS1
    have hsh : h.Settled := Hw.elapse_settled _ hs dt
    replace h0 : h.sta.stage = 0 := by simpa [h] using h0
    have high := fun (reset rails : Bool) (e : ¬ (reset = true ∧ rails = true ∧ ref = true)) =>
      (congrArg Hw.settle (h.leaveS0_stays e)).trans (Hw.settle_of_settled _ (h.withLevels_settled hsh reset rails ref))
    refine ⟨fun hp rails => ⟨fun hg => ?rises, fun hg => ?stays⟩, fun hg => ?back, fun hg => ?out⟩
    case rises =>
      obtain ⟨rfl, rfl⟩ := hg
      rw [exec_poresetNHigh_s0 hp, Hw.leaveS0_leaves h0]
    case stays =>
      rw [exec_poresetNHigh_s0 hp, high true rails (fun e => hg e.2)]
      rfl
    case back =>
      obtain ⟨hp, rfl⟩ := hg
      rw [exec_supplyBackInRange, hp, Hw.leaveS0_leaves h0]
    case out =>
      rw [exec_supplyBackInRange, high _ true (fun e => hg ⟨e.1, e.2.2⟩)]
      rfl
  · intro s dt khz f hs h1 h near hold want mode inS2
    have hsh : h.Settled := Hw.elapse_settled _ hs dt
    replace h1 : h.sta.stage = 1 := by simpa [h] using h1
    have begun : ∀ (c : Nat) (g : Hw), g.sys = h.sys → h.sys.bootSel < 3 →
        (g.onSta fun t => { t with refClass := c }).beginS2 (some f) = inS2 c g := fun c g hg hb => by
      rw [Hw.beginS2_eq g f c (want := want) (by rw [hg]; exact hb) (by rw [hg])]
      exact if_congr decide_eq_true_iff rfl rfl
    refine ⟨fun hf => ⟨fun c => exec_s1Exit_rom rfl h1 hf c, fun hn => ?absent, fun hb x hx => ?first⟩,
      fun hf ha => ⟨fun hn => ?held, fun hb x hx => ?again⟩⟩
    case absent =>
      rw [exec_s1Exit_measured rfl h1 hf, h.measured_none _ (refClass_none hn), hf]
      rfl
    case first =>
      subst hx
      have classed : ∀ c, refClassOf x = some c →
          exec (.s1Exit dt none (some x) (some f)) s = .next { s with hw := (inS2 c h).settle } :=
        fun c hc => by
          rw [exec_s1Exit_measured rfl h1 hf, h.measured_some (khz := some x) _ hc, hf, Hw.whenB_false, begun c h rfl hb]
      obtain ⟨c0, c1, c2⟩ := refClassOf_near x
      exact ⟨fun n => classed 0 (c0 n), fun n => classed 1 (c1 n), fun n => classed 2 (c2 n)⟩
    case held =>
      rw [exec_refclkRemeasure_held rfl h1 hf ha, h.measured_none _ (refClass_none hn), if_pos hf, Hw.settle_of_settled _ hsh]
    case again =>
      subst hx
      have classed : ∀ c, refClassOf x = some c →
          exec (.refclkRemeasure dt (some x) (some f)) s = .next { s with hw := (inS2 c (h.cease 0x0201 0)).settle } :=
        fun c hc => by
          rw [exec_refclkRemeasure_held rfl h1 hf ha, h.measured_some (khz := some x) _ hc, hf, Hw.whenB_true,
            begun c (h.cease 0x0201 0) rfl hb]
      obtain ⟨c0, c1, c2⟩ := refClassOf_near x
      exact ⟨fun n => classed 0 (c0 n), fun n => classed 1 (c1 n), fun n => classed 2 (c2 n)⟩

end Sys2Proof.Machine
end

section
/-! The announcement of slot 7 and of the start slot (R67, R68, R70, R216). Settles O19. -/
namespace Sys2Proof.Machine
namespace Hw

/-! ### The argument and the extra word that the log shows -/

/-- What an entry of the log shows of a happening that has an extra word (Table 18.4). -/
def longMark (x : Happening) : Nat × Int × Nat := (x.code, x.arg, low32 x.extra)
/-- The log, newest first, as codes, arguments and extra words. -/
def longEntries (h : Hw) : List (Nat × Int × Nat) := h.lko.log.map fun e => (e.code, e.arg, e.extra)

theorem take1_longEntries (h : Hw) {x : Happening} (hx : isState x.code = false) :
    (h.take1 x).longEntries = (longMark x :: h.longEntries).take 4096 := by
  have kept : ∀ b, ((h.logEntry x b).whenB (h.tells x) fun g => g.sendAlarm x).longEntries =
      (longMark x :: h.longEntries).take 4096 := fun b => by
    rw [whenB_keep longEntries _ _ _ (by rw [longEntries, sendAlarm_lko]; rfl), longEntries, logEntry, List.map_take]
    rfl
  unfold take1
  simp only [hx, Bool.false_and, Bool.false_eq_true, if_false]
  split
  · exact kept _
  · exact kept _

theorem each_take1_longEntries (h : Hw) (l : List Happening) (hl : ∀ x ∈ l, isState x.code = false) :
    (h.each l take1).longEntries.take 4096 = (l.reverse.map longMark ++ h.longEntries).take 4096 := by
  induction l generalizing h with
  | nil => rfl
  | cons x r ih =>
    rw [each_cons, ih _ fun y hy => hl y (List.mem_cons_of_mem _ hy), take1_longEntries h (hl x (List.mem_cons_self ..)),
      take_append_take]
    simp

/-- Every alarm of an instant is in the log with its extra word, where no more than the log holds are raised. -/
theorem settle_longMark (h : Hw) {x : Happening} (hx : x ∈ h.lko.pend) (hn : h.lko.pend.length ≤ 4096)
    (hl : ∀ y ∈ h.lko.pend, isState y.code = false) : longMark x ∈ h.settle.longEntries := by
  have perm := sortBy_perm order h.lko.pend
  have taken : h.settle.longEntries.take 4096 = ((sortBy order h.lko.pend).reverse.map longMark ++ h.longEntries).take 4096 :=
    each_take1_longEntries _ _ fun y hy => hl y (perm.mem_iff.mp hy)
  refine List.mem_of_mem_take (i := 4096) ?_
  rw [taken, List.take_append]
  refine List.mem_append_left _ ?_
  rw [List.take_of_length_le (by simpa [perm.length_eq] using hn)]
  exact List.mem_map_of_mem (by simpa using perm.mem_iff.mpr hx)

/-! ### A slot entry announced -/

/-- The frame tick for which an entry is announced in the open window (R67). -/
def entryTick (h : Hw) : Nat := h.frameFrom (h.tim.k + h.windowsFor h.earlyMax + 1)

theorem entryTick_frame (h : Hw) : h.entryTick % h.perFrame = 0 := Nat.mul_mod_left ..

/-- The announcement as it is detected: SLOT_ENTRY with the slot and its tick. -/
def entryNews (h : Hw) (slot : Nat) : Happening :=
  h.seen { code := 0x010C, arg := (slot : Int), extra := low32 h.entryTick, tick := some h.entryTick }

/-- `h` with an entry announced. -/
def withEntry (h : Hw) (slot : Nat) : Hw := { h with
  sta := { h.sta with announced := some (slot, h.entryTick), k7 := some (h.sta.k7.getD h.entryTick) } }

theorem announce_eq (h : Hw) (slot : Nat) : h.announce slot =
    { h.withEntry slot with lko := { h.lko with pend := h.lko.pend ++ [h.entryNews slot] } } := by
  have noted : h.sta.k7.orElse (fun _ => some h.entryTick) = some (h.sta.k7.getD h.entryTick) := by
    cases h.sta.k7 <;> rfl
  unfold withEntry
  rw [← noted]
  rfl

/-- The announcement is in the log with the low 32 bits of its tick. -/
theorem entryNews_logged {h g : Hw} {slot : Nat} (hx : h.entryNews slot ∈ g.lko.pend) (hn : g.lko.pend.length ≤ 4096)
    (hl : ∀ y ∈ g.lko.pend, isState y.code = false) :
    (0x010C, (slot : Int), h.entryTick % 2 ^ 32) ∈ g.settle.lko.log.map fun e => (e.code, e.arg, e.extra) := by
  have e : low32 (low32 h.entryTick) = h.entryTick % 2 ^ 32 := Nat.mod_mod ..
  rw [← e]
  exact settle_longMark g hx hn hl

/-- The exit condition of S6 (Table 3.1), written out. -/
theorem offsetGood_eq (h : Hw) : h.offsetGood = true ↔
    h.tim.stepped = true ∧ h.tim.state = 3 ∧ (if h.tim.theta < 0 then -h.tim.theta else h.tim.theta) ≤ 1000 ∧
      (h.image.pkg.muteOnTol = 1 → (if h.tim.theta < 0 then -h.tim.theta else h.tim.theta) ≤ (h.image.pkg.timeTol : Rat)) := by
  simp only [offsetGood, Bool.and_eq_true, Bool.or_eq_true, beq_iff_eq, bne_iff_ne, decide_eq_true_eq, and_assoc, ← imp_iff_not_or]

end Hw

/-! ### The command -/

section
variable {s : State} {dt : Nat} {h : Hw} (he : s.hw.elapse dt = h) (ho : h.tim.open_ = true) (ha : h.sta.announced = none)
include he ho ha

theorem exec_slotEntryAnnounce_s6 (h6 : h.sta.stage = 6) (hg : h.offsetGood = true) :
    exec (.slotEntryAnnounce dt) s = .next { s with hw := ((h.announce 7).setCeilings true).settle } := by
  subst he
  show execSlotEntryAnnounce dt s = _
  unfold execSlotEntryAnnounce
  rw [ok_whenB s dt (by rw [ho, ha]; rfl), if_pos h6, hg]
  rfl

theorem exec_slotEntryAnnounce_s7 (h7 : h.sta.stage = 7) (hf : h.sta.fineLock = true) (hc : h.converged = true) {r : Slot}
    (hr : h.startRec = some r) : exec (.slotEntryAnnounce dt) s = .next { s with hw :=
      (if r.allowance < h.retiredCount then
        ((h.onSta fun t => { t with wornAtEntry := true }).alarm 0x0402 h.retiredCount).announce 7
      else (h.onSta fun t => { t with wornAtEntry := h.image.startSlot == 7 }).announce h.image.startSlot).settle } := by
  subst he
  show execSlotEntryAnnounce dt s = _
  unfold execSlotEntryAnnounce
  rw [ok_whenB s dt (by rw [ho, ha]; rfl), if_neg (by rw [h7]; decide), h7, hf, hc]
  simp only [beq_self_eq_true, Bool.and_self, Hw.whenB_true, hr, Option.any_some, decide_eq_true_eq]

end

/-! ### The state behind it -/

namespace Hw

/-- `t` is `h` with the entry into `slot` announced and `worn` noted, but for what HC0's taking of happenings and the first ceilings
change; the log holds SLOT_ENTRY. -/
def EntryTold (h t : Hw) (slot : Nat) (worn : Bool) : Prop :=
  t = ({ h with
    sta := { h.sta with announced := some (slot, h.entryTick), k7 := some (h.sta.k7.getD h.entryTick), wornAtEntry := worn }
    trl := t.trl, quads := t.quads } : Hw).told t ∧
  (0x010C, (slot : Int), h.entryTick % 2 ^ 32) ∈ t.lko.log.map fun e => (e.code, e.arg, e.extra)

/-- A state in which the entry stands announced, its news among what HC0 is to take, is told. -/
theorem entryTold_settle {h g : Hw} {slot : Nat} {worn : Bool} (p : List Happening) (hg : g = { h with
      sta := { h.sta with announced := some (slot, h.entryTick), k7 := some (h.sta.k7.getD h.entryTick), wornAtEntry := worn }
      trl := g.trl, quads := g.quads, lko := { h.lko with pend := p } })
    (hx : h.entryNews slot ∈ p) (hn : p.length ≤ 4096) (hl : ∀ y ∈ p, isState y.code = false) :
    EntryTold h g.settle slot worn := by
  have pend : g.lko.pend = p := by rw [hg]
  refine ⟨?_, entryNews_logged (pend ▸ hx) (pend ▸ hn) (pend ▸ hl)⟩
  rw [settle_trl, settle_quads]
  exact settle_told _ p g hg

/-- SLOT_ENTRY is no state alarm. -/
theorem entryNews_event (h : Hw) (slot : Nat) : ∀ y ∈ [h.entryNews slot], isState y.code = false := fun y hy => by
  rw [List.mem_singleton.mp hy]
  rfl

section
variable {h : Hw} (hp : h.lko.pend = [])
include hp

/-- The entry into slot 7 from S6, with the first ceilings. -/
theorem announce_s6_told : EntryTold h ((h.announce 7).setCeilings true).settle 7 h.sta.wornAtEntry := by
  refine entryTold_settle [h.entryNews 7] ?_ (List.mem_singleton.mpr rfl) (Nat.le_add_left 1 4095) (h.entryNews_event 7)
  rw [announce_eq, hp]
  rfl

/-- The entry into a slot from S7. -/
theorem announce_s7_told (slot : Nat) (worn : Bool) :
    EntryTold h ((h.onSta fun t => { t with wornAtEntry := worn }).announce slot).settle slot worn := by
  refine entryTold_settle [h.entryNews slot] ?_ (List.mem_singleton.mpr rfl) (Nat.le_add_left 1 4095) (h.entryNews_event slot)
  rw [announce_eq, onSta_lko, hp]
  rfl

/-- Slot 7 kept for want of spares: WORN_NO_SPARE is in the log beside the announcement. -/
theorem announce_worn_told (n : Nat) : EntryTold h
      (((h.onSta fun t => { t with wornAtEntry := true }).alarm 0x0402 n).announce 7).settle 7 true ∧
    (0x0402, (n : Int), false) ∈
      (((h.onSta fun t => { t with wornAtEntry := true }).alarm 0x0402 n).announce 7).settle.lko.log.map
        fun e => (e.code, e.arg, e.cease) := by
  set worn : Happening := h.seen { code := 0x0402, arg := (n : Int) } with hw
  have event : ∀ y ∈ [worn, h.entryNews 7], isState y.code = false := fun y hy => by
    rcases List.mem_cons.mp hy with rfl | hy
    · rfl
    · exact h.entryNews_event 7 y hy
  have frame : ((h.onSta fun t => { t with wornAtEntry := true }).alarm 0x0402 n).announce 7 = { h with
      sta := { h.sta with announced := some (7, h.entryTick), k7 := some (h.sta.k7.getD h.entryTick), wornAtEntry := true }
      lko := { h.lko with pend := [worn, h.entryNews 7] } } := by
    rw [announce_eq, alarm_lko, onSta_lko, hp]
    rfl
  rw [frame]
  exact ⟨entryTold_settle [worn, h.entryNews 7] rfl (by simp) (by simp) event,
    settle_logged (x := worn) _ (List.mem_cons_self ..) (by simp) event⟩

end

end Hw

/-- Settles O19: each condition selects what the command does, and the state it leaves is told by its lemma. -/
theorem slotEntryAnnounced : Obligations.SlotEntryAnnounced := by
  intro s dt hs ho ha h abs kf told
  have hp : h.lko.pend = [] := (Hw.elapse_pend ..).trans hs.1
  have opened : h.tim.open_ = true := (s.hw.elapse_grid dt).1.trans ho
  have free : h.sta.announced = none := by simpa [h] using ha
  have ends : ∀ {slot : Nat} {worn : Bool} {g : Hw}, Hw.EntryTold h g slot worn →
      (h.sta.stage = 6 ∨ g.trl = h.trl ∧ g.quads = h.quads) → told slot worn { s with hw := g } := fun e hk =>
    ⟨rfl, rfl, e.1, hk, h.entryTick_frame, e.2⟩
  refine ⟨fun h6 hstep hstate h1000 htol => ?s6, fun h7 hf hc r hr => ⟨fun hle => ?start, fun hlt => ?worn⟩⟩
  case s6 =>
    have good : h.offsetGood = true := h.offsetGood_eq.mpr ⟨hstep, hstate, h1000, htol⟩
    refine ⟨_, exec_slotEntryAnnounce_s6 rfl opened free h6 good, ends (Hw.announce_s6_told hp) (.inl h6), ?_, fun d => ?_⟩
    · rw [Hw.settle_trl]
      rfl
    · rw [Hw.settle_trl]
      exact getN_vofFn _ _ d.isLt
  case start =>
    have next := exec_slotEntryAnnounce_s7 rfl opened free h7 hf hc hr
    rw [if_neg (Nat.not_lt.mpr hle)] at next
    exact ⟨_, next, ends (Hw.announce_s7_told hp ..) (.inr ⟨Hw.settle_trl .., Hw.settle_quads ..⟩)⟩
  case worn =>
    have next := exec_slotEntryAnnounce_s7 rfl opened free h7 hf hc hr
    rw [if_pos hlt] at next
    obtain ⟨entry, spare⟩ := Hw.announce_worn_told hp h.retiredCount
    exact ⟨_, next, ends entry (.inr ⟨Hw.settle_trl .., Hw.settle_quads ..⟩), spare⟩

end Sys2Proof.Machine
end

section
/-! The message checks of a record on the command channel (R66, R182, R188, R201, R205, Table 9.2). Settles O47. -/
namespace Sys2Proof.Machine

/-- An entry set to what `f` makes of it is the entry changed by `f`. -/
theorem updN_getN {α : Type} {n i : Nat} (v : Vector α n) (f : α → α) (d : α) (h : i < n) :
    updN v i (fun _ => f (getN v i d)) = updN v i f := by
  simp [updN, upd, getN, h]

namespace Hw

/-! ### What a report leaves -/

/-- What the records of a message are judged by: its sequence numbers, its judgement, and the stage. -/
def gate (h : Hw) : Vector SeqState 129 × Cur × Sta := (h.fhl.seqs, h.fhl.cur, h.sta)

theorem indicate_gate (h : Hw) (d : Nat) (v : Option Nat) (ty : Nat) (els : List Bytes) : (h.indicate d v ty els).gate = h.gate :=
  congrArg (fun k => (k.2.2.2.2.1.seqs, k.2.2.2.2.1.cur, k.2.1)) (indicate_kept h d v ty els)

theorem report_gate (h : Hw) (m : MsgHdr) (c : Cur) : (h.report m c).gate = h.gate :=
  (each_keep gate _ (fun _ _ => indicate_gate ..) _ _).trans (each_keep gate _ (by intros; rfl) _ _)

theorem closeRec_seqs (h : Hw) (m : MsgHdr) (idx typ reason : Nat) : (h.closeRec m idx typ reason).fhl.seqs = h.fhl.seqs := by
  refine (whenB_keep (·.fhl.seqs) _ _ _ ?_).trans (whenB_keep (·.fhl.seqs) h _ _ rfl)
  exact congrArg Prod.fst (report_gate ..)

/-- A message refused as a whole on the command channel (R205, R206): record index 0xFF, record type 0. -/
theorem refuseMsg_refused (h : Hw) (m : MsgHdr) (reason : Nat) :
    h.refused (h.refuseMsg m reason 0xFF 0xFFFF) m reason 0xFFFF 0xFF 0xFF 0 := by
  obtain ⟨hkeep, hroom, hfull⟩ := indicate_pair (h.onFhl fun f => { f with refused := updN f.refused reason inc }) m.src m.vlan
    (element 0xFFFF 0 (0x400 + reason) (0xFF * 2 ^ 24 + m.seq % 256 * 2 ^ 16 + 0xFF * 256 + 0)) (element 0xFFFF 0 0x4FF m.target32)
  rw [refuseMsg, report_one _ m _ reason 0xFF 0 rfl]
  refine ⟨?_, fun hlt => ?_, hfull⟩
  · rw [hkeep]
    rfl
  · rw [← element_of_zero, ← element_of_zero]
    exact hroom hlt

/-- A refusal moves none of the pins that follow the state. -/
theorem refused_settled {h t : Hw} {m : MsgHdr} {reason eaxc fid idx typ : Nat} (hr : h.refused t m reason eaxc fid idx typ)
    (hs : h.Settled) : t.Settled := by
  rw [hr.1]
  exact hs

/-! ### The checks in their order -/

/-- A header that breaks R182. -/
theorem headOk_false {m : MsgHdr} (hb : m.revision ≠ 1 ∨ m.reserved ≠ 0 ∨ m.concat = true ∨ m.avail < m.size ∨ m.size < 12) :
    headOk m = false := by
  rw [Bool.eq_false_iff]
  intro hh
  simp only [headOk, commonOk, Bool.and_eq_true, beq_iff_eq, Bool.not_eq_true', decide_eq_true_eq] at hh
  obtain ⟨⟨⟨⟨hrev, hres⟩, hcat⟩, hav⟩, hsz⟩ := hh
  rcases hb with hb | hb | hb | hb | hb
  · exact hb hrev
  · exact hb hres
  · rw [hcat] at hb
    cases hb
  · exact Nat.not_lt.mpr hav hb
  · exact Nat.not_lt.mpr hsz hb

theorem headOk_true {m : MsgHdr} (hrev : m.revision = 1) (hres : m.reserved = 0) (hcat : m.concat = false) (hsz : 12 ≤ m.size)
    (hav : m.size ≤ m.avail) : headOk m = true := by
  simp [headOk, commonOk, hrev, hres, hcat, hsz, hav]

theorem checkMsg_head {h : Hw} {m : MsgHdr} (hh : headOk m = false) : h.checkMsg m = (h, 8, 0xFF, 0xFFFF) := by
  rw [checkMsg, hh]
  rfl

theorem matchFlow_command {h : Hw} {m : MsgHdr} (ht : m.msgType = 2) (hpc : m.pcId = 0xFFFF) (hfid : m.flowId = 0xFF) :
    h.matchFlow m = (0, 0xFF, 0xFFFF) := by
  simp [matchFlow, isCommand, ht, hpc, hfid]

section
variable {h : Hw} {m : MsgHdr} (hh : headOk m = true) (ht : m.msgType = 2) (hpc : m.pcId = 0xFFFF) (hfid : m.flowId = 0xFF)
include hh ht hpc hfid

/-- On the command channel the flow and the epoch make no check: byte E of SEQ_ID decides next. -/
theorem checkMsg_seqE (he : m.seqE ≠ 0x80) : h.checkMsg m = (h, 8, 0xFF, 0xFFFF) := by
  have hcmd : isCommand m = true := beq_iff_eq.mpr hpc
  simp only [checkMsg, hh, matchFlow_command ht hpc hfid, hcmd, he, Bool.not_true, Bool.false_and, Bool.false_eq_true, ne_eq, not_true,
    not_false_iff, if_true, if_false]

/-- Then the sequence number: one used before is DUPLICATE. -/
theorem checkMsg_duplicate (he : m.seqE = 0x80) (hf : h.fromHead m = false)
    (hq : seqCheck (getN h.fhl.seqs 128 {}) (m.seq % 256) = none) : h.checkMsg m = (h, 7, 0xFF, 0xFFFF) := by
  have hcmd : isCommand m = true := beq_iff_eq.mpr hpc
  simp only [checkMsg, hh, matchFlow_command ht hpc hfid, hcmd, he, hf, hq, Bool.not_true, Bool.false_and, Bool.false_eq_true, ne_eq,
    not_true, if_true, if_false]

/-- Last the layout: a number taken stays taken where it is MALFORMED. -/
theorem checkMsg_layout (he : m.seqE = 0x80) (hf : h.fromHead m = false) {f : SeqState → SeqState}
    (hq : seqCheck (getN h.fhl.seqs 128 {}) (m.seq % 256) = some (f (getN h.fhl.seqs 128 {}))) (hl : ∀ g : Hw, g.layoutOk m = false) :
    h.checkMsg m = (h.onFhl fun x => { x with seqs := updN h.fhl.seqs 128 f }, 8, 0xFF, 0xFFFF) := by
  have hcmd : isCommand m = true := beq_iff_eq.mpr hpc
  rw [← updN_getN h.fhl.seqs f {} (by decide)]
  simp only [checkMsg, hh, matchFlow_command ht hpc hfid, hcmd, he, hf, hq, hl, Bool.not_true, Bool.false_and, Bool.false_eq_true, ne_eq,
    not_true, if_true, if_false]
  rfl

end

/-- A message of one record whose count of records is not 1. -/
theorem layoutOk_count (h : Hw) {m : MsgHdr} (hl : m.layout.length = 1) (hr : m.records ≠ 1) : h.layoutOk m = false := by
  simp [layoutOk, hl, hr]

/-! ### The sequence check (R188) -/

/-- The numbers that stand as used after one that is ahead: itself, and those not left behind by the move. -/
def seenAhead (q : SeqState) (n : Nat) : List Nat :=
  n :: q.seen.filter fun x => !((x + 256 - q.next) % 256 < (n + 256 - q.next) % 256) && x != n

theorem mem_seenAhead (q : SeqState) (n x : Nat) :
    x ∈ seenAhead q n ↔ x = n ∨ x ∈ q.seen ∧ (n + 256 - q.next) % 256 ≤ (x + 256 - q.next) % 256 := by
  by_cases hx : x = n <;> simp [seenAhead, hx]

section
variable {q : SeqState} {n : Nat} (hs : q.synced = true)
include hs

theorem seqCheck_duplicate (hd : 128 ≤ (n + 256 - q.next) % 256) (hn : n ∈ q.seen) : seqCheck q n = none := by
  simp [seqCheck, hs, Nat.not_lt.mpr hd, hn]

/-- A number behind the last used one that has not been used is a reordered one. -/
theorem seqCheck_behind (hd : 128 ≤ (n + 256 - q.next) % 256) (hn : n ∉ q.seen) :
    seqCheck q n = some { q with reorder := min (2 ^ 32 - 1) (q.reorder + 1), seen := n :: q.seen } := by
  simp [seqCheck, hs, Nat.not_lt.mpr hd, hn, inc, cnt]

/-- A number ahead becomes the last used, and those passed over are counted. -/
theorem seqCheck_ahead (hd : (n + 256 - q.next) % 256 < 128) : seqCheck q n =
    some { q with
      gap := min (2 ^ 32 - 1) (q.gap + (n + 256 - q.next) % 256), next := (n + 1) % 256, seen := seenAhead q n } := by
  simp [seqCheck, hs, hd, cnt, seenAhead]

end

/-! ### The message opened and its record closed -/

/-- Before slot 7 is announced the record is refused and nothing is checked (R66). -/
theorem judge_before7 {h : Hw} {m : MsgHdr} {typ len n : Nat} (ha : h.arrives m.port = true) (ht : m.msgType = 2)
    (hl : m.layout = [(typ, len, n)]) (h7 : h.sta.k7 = none) (f : Hw → Nat → Hw × Nat) :
    (h.judge m 0 typ 2 f).1 = (h.onFhl fun x => { x with cur := {} }).closeRec m 0 typ 10 := by
  have early : ∀ g : Hw, g.sta = h.sta → g.announced7 = false := fun g hg => by rw [announced7, hg, h7]; rfl
  have opened : h.openMsg m 0 = h.onFhl fun x => { x with cur := {} } := by
    rw [openMsg, early h rfl]
    rfl
  have still : (h.onFhl fun x => { x with cur := {} }).announced7 = false := early _ rfl
  simp only [judge, ha, ht, hl, opened, still, List.getElem?_cons_zero, Option.map_some, beq_self_eq_true, Bool.and_self, Bool.not_true,
    Bool.false_eq_true, if_false, Bool.not_false, if_true]

/-- A message against which the checks find a reason is refused as a whole, and its record is not judged. -/
theorem judge_refused {h g : Hw} {m : MsgHdr} {typ len n reason : Nat} (ha : h.arrives m.port = true) (ht : m.msgType = 2)
    (hl : m.layout = [(typ, len, n)]) (h7 : h.sta.k7.isSome = true) (hc : h.checkMsg m = (g, reason, 0xFF, 0xFFFF))
    (hg : g.sta = h.sta) (hr : reason ≠ 0) (f : Hw → Nat → Hw × Nat) :
    (h.judge m 0 typ 2 f).1 = (g.onFhl fun x => { x with cur := { reason := reason } }).refuseMsg m reason 0xFF 0xFFFF := by
  set t : Hw := (g.onFhl fun x => { x with cur := { reason := reason } }).refuseMsg m reason 0xFF 0xFFFF with hrefused
  have opened : h.openMsg m 0 = t := by
    have h7' : h.announced7 = true := h7
    simp only [openMsg, ne_eq, not_true, if_false, h7', Bool.not_true, Bool.false_eq_true, hc, bne_iff_ne.mpr hr, whenB_true, hrefused]
  have gate : t.gate = (g.fhl.seqs, { reason := reason }, g.sta) := report_gate ..
  have late : t.announced7 = true := by
    rw [announced7, show t.sta = g.sta from congrArg (·.2.2) gate, hg]
    exact h7
  have found : t.fhl.cur.reason = reason := congrArg (·.2.1.reason) gate
  simp only [judge, ha, ht, hl, opened, late, found, List.getElem?_cons_zero, Option.map_some, beq_self_eq_true, Bool.and_self,
    Bool.not_true, Bool.false_eq_true, if_false, ne_eq, hr, not_false_iff, if_true]

end Hw

/-! ### The command's next state -/

theorem exec_modeSelect_becomes {s : State} {dt slot : Nat} {m : MsgHdr} {t : Hw}
    (hj : ((s.hw.elapse dt).judge m 0 0x20 2 fun h k => h.admitSelect slot k).1 = t) (ht : t.Settled) :
    exec (.modeSelect dt m 0 slot) s = .next { s with hw := t } := by
  show ok s dt (fun h => (h.judge m 0 0x20 2 fun h k => h.admitSelect slot k).1) = _
  exact ok_becomes s dt hj ht

section
variable {s : State} {dt slot : Nat} {m : MsgHdr} {h : Hw} (he : s.hw.elapse dt = h) (hs : h.Settled) (ha : h.arrives m.port = true)
  (ht : m.msgType = 2) (hl : m.layout = [(0x20, 8, 0)])
include he hs ha ht hl

theorem exec_modeSelect_before7 (h7 : h.sta.k7 = none) : ∃ t, exec (.modeSelect dt m 0 slot) s = .next t ∧
    t.pending = s.pending ∧ t.mem = s.mem ∧ h.refused t.hw m 10 0xFFFF 0xFF 0 0x20 ∧ t.hw.fhl.seqs = h.fhl.seqs := by
  subst he
  have href := Hw.closeRec_refused ((s.hw.elapse dt).onFhl fun x => { x with cur := {} }) m 0x20 10 (by rw [hl]; rfl) (by decide) rfl
  exact ⟨_, exec_modeSelect_becomes (Hw.judge_before7 ha ht hl h7 _) (Hw.refused_settled href hs), rfl, rfl, href, Hw.closeRec_seqs ..⟩

/-- A message that the checks refuse, with the sequence numbers that they leave. -/
theorem exec_modeSelect_refused {reason : Nat} {seqs : Vector SeqState 129} (h7 : h.sta.k7.isSome = true) (hr : reason ≠ 0)
    (hc : h.checkMsg m = (h.onFhl fun x => { x with seqs := seqs }, reason, 0xFF, 0xFFFF)) :
    ∃ t, exec (.modeSelect dt m 0 slot) s = .next t ∧
      t.pending = s.pending ∧ t.mem = s.mem ∧ h.refused t.hw m reason 0xFFFF 0xFF 0xFF 0 ∧ t.hw.fhl.seqs = seqs := by
  subst he
  have href := Hw.refuseMsg_refused ((s.hw.elapse dt).onFhl fun x => { x with seqs := seqs, cur := { reason := reason } }) m reason
  exact ⟨_, exec_modeSelect_becomes (Hw.judge_refused ha ht hl h7 hc rfl hr _) (Hw.refused_settled href hs), rfl, rfl, href,
    congrArg Prod.fst (Hw.report_gate ..)⟩

end

/-- Settles O47: the stage before all, then the reason of the first check that fails. -/
theorem messageChecks : Obligations.MessageChecks := by
  intro s dt slot m hs h q n d h5 hlink hport ht hl answers
  have hsh : h.Settled := Hw.elapse_settled _ hs dt
  have ha : h.arrives m.port = true := by
    rw [hport] at hlink ⊢
    exact Hw.arrives_portA h h5 hlink
  have single : m.layout.length = 1 := by rw [hl]; rfl
  refine ⟨exec_modeSelect_before7 rfl hsh ha ht hl, fun h7 hb => ?head, fun h7 hrev hres hcat hsz hav hpc hfid => ?_⟩
  case head => exact exec_modeSelect_refused rfl hsh ha ht hl h7 (by decide) (Hw.checkMsg_head (Hw.headOk_false hb))
  have hh := Hw.headOk_true hrev hres hcat hsz hav
  refine ⟨fun he => ?byteE, fun he hf => ⟨fun hq hd hn => ?duplicate, fun hq hd hn hr => ?behind, fun hq hd hr => ?ahead⟩⟩
  case byteE => exact exec_modeSelect_refused rfl hsh ha ht hl h7 (by decide) (Hw.checkMsg_seqE hh ht hpc hfid he)
  case duplicate =>
    exact exec_modeSelect_refused rfl hsh ha ht hl h7 (by decide)
      (Hw.checkMsg_duplicate hh ht hpc hfid he hf (Hw.seqCheck_duplicate hq hd hn))
  case behind =>
    exact exec_modeSelect_refused rfl hsh ha ht hl h7 (by decide)
      (Hw.checkMsg_layout hh ht hpc hfid he hf (Hw.seqCheck_behind hq hd hn) fun g => g.layoutOk_count single hr)
  case ahead =>
    refine ⟨Hw.seenAhead q n, ?_, List.mem_cons_self .., fun x _ => Hw.mem_seenAhead q n x⟩
    exact exec_modeSelect_refused rfl hsh ha ht hl h7 (by decide)
      (Hw.checkMsg_layout hh ht hpc hfid he hf (Hw.seqCheck_ahead hq hd) fun g => g.layoutOk_count single hr)

end Sys2Proof.Machine
end

section
/-! What the path chains do to samples (R81, R90, R104, R107, R111, R112, R143). Settles O59. -/
namespace Sys2Proof.Machine

/-! ### Rounding and saturation -/

theorem clampZ_bounds {lo hi : Int} (h : lo ≤ hi) (x : Int) : lo ≤ clampZ lo hi x ∧ clampZ lo hi x ≤ hi := by
  unfold clampZ
  split_ifs <;> omega

theorem clampZ_of_mem {lo hi x : Int} (hlo : lo ≤ x) (hhi : x ≤ hi) : clampZ lo hi x = x := by
  rw [clampZ, if_neg (Int.not_lt.mpr hlo), if_neg (Int.not_lt.mpr hhi)]

theorem satIQ_of_mem {z : IQ} (hi : -32768 ≤ z.i ∧ z.i ≤ 32767) (hq : -32768 ≤ z.q ∧ z.q ≤ 32767) : satIQ z = z := by
  rw [satIQ, sat16, sat16, clampZ_of_mem hi.1 hi.2, clampZ_of_mem hq.1 hq.2]

theorem satIQ_bounds (z : IQ) : -32768 ≤ (satIQ z).i ∧ (satIQ z).i ≤ 32767 ∧ -32768 ≤ (satIQ z).q ∧ (satIQ z).q ≤ 32767 := by
  obtain ⟨ilo, ihi⟩ := clampZ_bounds (show (-32768 : Int) ≤ 32767 by decide) z.i
  obtain ⟨qlo, qhi⟩ := clampZ_bounds (show (-32768 : Int) ≤ 32767 by decide) z.q
  exact ⟨ilo, ihi, qlo, qhi⟩

/-- A multiple of the divisor is rounded to its quotient. -/
theorem cround_mul {d : Nat} (hd : 0 < d) (x : Int) : cround (x * d) d = x := by
  have hd' : (d : Int) ≠ 0 := by omega
  have hpos : (2 : Int) * 0 < d := by omega
  simp only [cround, Int.mul_emod_left, if_pos hpos, Int.mul_ediv_cancel _ hd']

theorem sumZ_zero {l : List Int} (h : ∀ x ∈ l, x = 0) : sumZ l = 0 := by
  induction l with
  | nil => rfl
  | cons a r ih =>
    obtain ⟨ha, hr⟩ := List.forall_mem_cons.mp h
    rw [sumZ, ha, ih hr]
    rfl

/-! ### Predistortion (R143 to R145) -/

theorem tableValue_zero {entry : Nat → IQ} (h : ∀ j, entry j = ⟨0, 0⟩) (e : Nat) : tableValue entry e = ⟨0, 0⟩ := by
  simp [tableValue, h]

theorem mulIQ_zero (x : IQ) : Tor.mulIQ x ⟨0, 0⟩ = ⟨0, 0⟩ := by
  simp [Tor.mulIQ]

/-- Tables of zeros add nothing to the sample. -/
theorem predistorted_zero {entry : Nat → Nat → IQ} (h : ∀ t j, entry t j = ⟨0, 0⟩) (mode : Nat) (x : Int → IQ) (n : Int) :
    predistorted mode entry x n = x n := by
  have term : ∀ (t : Nat) (m lag : Int), (if tableUsed mode t then Tor.mulIQ (x m) (tableValue (entry t) (envelope (x lag))) else ⟨0, 0⟩) =
      (⟨0, 0⟩ : IQ) := by
    intro t m lag
    rw [tableValue_zero (h t), mulIQ_zero, ite_self]
  have sum : ∀ part : IQ → Int, part ⟨0, 0⟩ = 0 → sumZ (((List.range 24).map fun _ => (⟨0, 0⟩ : IQ)).map part) = 0 := by
    intro part hp
    refine sumZ_zero fun y hy => ?_
    simp only [List.map_map, List.mem_map] at hy
    obtain ⟨t, -, rfl⟩ := hy
    exact hp
  have hi := cround_mul (d := 2 ^ 22) (by decide) (x n).i
  have hq := cround_mul (d := 2 ^ 22) (by decide) (x n).q
  simp only [predistorted, term]
  rw [sum _ rfl, sum _ rfl, Int.add_zero, Int.add_zero]
  exact congrArg₂ IQ.mk hi hq

namespace Hw

theorem dpdEntry_zero {h : Hw} {p : Nat} (hz : ∀ e, h.dpdWord p true e = 0) (t j : Nat) : h.dpdEntry p t j = ⟨0, 0⟩ := by
  simp only [dpdEntry, hz]
  exact ite_self _

theorem dpdOut_passes {h : Hw} {p : Nat} (hz : (h.path p).dpdBypass = true ∨ ∀ e, h.dpdWord p true e = 0) (x : Int → IQ) (n : Int) :
    h.dpdOut p x n = x n := by
  unfold dpdOut
  split
  · rfl
  · next hb => exact predistorted_zero (dpdEntry_zero (hz.resolve_left hb)) _ x n

/-! ### NCOs (R81) -/

theorem ncoPhase_entry {h : Hw} (he : h.mode.enteredAt = some h.up) (num den ftw : Nat) : h.ncoPhase num den ftw = 0 := by
  simp [ncoPhase, he]

/-- One cc later an NCO of six samples a cc stands six words further. -/
theorem ncoPhase_advance {h : Hw} {e : Nat} (he : h.mode.enteredAt = some e) (hle : e ≤ h.up) (ftw : Nat) :
    ({ h with sta := { h.sta with since := h.sta.since + 1 } } : Hw).ncoPhase 6 1 ftw = (h.ncoPhase 6 1 ftw + 6 * ftw) % 2 ^ 48 := by
  have step : h.sta.since + 1 - e = h.sta.since - e + 1 := Nat.sub_add_comm hle
  simp only [ncoPhase, he, up, step, Nat.div_one, Nat.mod_add_mod]
  congr 1
  ring

end Hw

/-! ### Crest factor (R104) -/

/-- A candidate is a sample of the block above the threshold. -/
theorem above_of_mem_cfrCandidates {thr b i : Nat} {prev next : IQ} {x : List IQ} (hi : i ∈ cfrCandidates thr b prev x next) :
    ∃ y, x[i]? = some y ∧ aboveT thr b y = true := by
  have hm := (sortBy_perm _ _).mem_iff.mp hi
  simp only [List.mem_filter, List.mem_range, Bool.and_eq_true] at hm
  obtain ⟨hlt, ⟨habove, -⟩, -⟩ := hm
  refine ⟨x[i], List.getElem?_eq_getElem hlt, ?_⟩
  rwa [List.getD_eq_getElem x _ hlt] at habove

theorem cfrCandidates_length_le (thr b : Nat) (prev : IQ) (x : List IQ) (next : IQ) : (cfrCandidates thr b prev x next).length ≤ x.length := by
  refine (sortBy_perm _ _).length_eq.trans_le ((List.length_filter_le ..).trans ?_)
  rw [List.length_range]

/-- A block cancels the strongest candidates up to MAX_PEAKS and misses the others. -/
theorem cfrBlock_spec (c : Cfr) (b : Nat) (prev next : IQ) (x : List IQ) :
    let z := cfrBlock c b prev x next
    z.1.length = z.2.1 ∧ z.2.1 ≤ c.maxPeaks ∧ z.2.1 + z.2.2 ≤ x.length ∧ (0 < z.2.2 → z.2.1 = c.maxPeaks) ∧
      ∀ i ∈ z.1, ∃ y, x[i]? = some y ∧ aboveT c.threshold b y = true := by
  intro z
  have hlen := cfrCandidates_length_le c.threshold b prev x next
  have cancelled : z.2.1 = min (cfrCandidates c.threshold b prev x next).length c.maxPeaks := rfl
  have missed : z.2.2 = (cfrCandidates c.threshold b prev x next).length - c.maxPeaks := rfl
  refine ⟨?_, by omega, by omega, by omega, fun i hi => above_of_mem_cfrCandidates (List.mem_of_mem_take hi)⟩
  rw [cancelled, Nat.min_comm]
  exact List.length_take

/-! ### Over-range (R90) -/

theorem ovrCount_flagged (quiet : Nat) (flags : List Bool) : (ovrCount quiet flags).1 = (flags.filter id).length := by
  induction flags generalizing quiet with
  | nil => rfl
  | cons f r ih => cases f <;> simp [ovrCount, ih]

theorem ovrCount_events_le (quiet : Nat) (flags : List Bool) : (ovrCount quiet flags).2 ≤ (ovrCount quiet flags).1 := by
  induction flags generalizing quiet with
  | nil => exact le_rfl
  | cons f r ih =>
    cases f with
    | false => exact ih (quiet + 1)
    | true =>
      have bit : b2n (decide (64 ≤ quiet)) ≤ 1 := by
        unfold b2n
        split <;> omega
      exact Nat.add_le_add (ih 0) bit

/-- Each event takes up 64 samples that stand before it. -/
theorem ovrCount_spaced (quiet : Nat) (flags : List Bool) : 64 * (ovrCount quiet flags).2 ≤ quiet + flags.length := by
  induction flags generalizing quiet with
  | nil => exact Nat.zero_le _
  | cons f r ih =>
    cases f with
    | false =>
      have h := ih (quiet + 1)
      simp only [ovrCount, List.length_cons, Bool.false_eq_true, if_false]
      omega
    | true =>
      have h := ih 0
      simp only [ovrCount, List.length_cons, if_true, b2n, decide_eq_true_eq]
      split <;> omega

namespace Hw

/-! ### The DAC (R111, R112) -/

theorem dacSample_bounds (h : Hw) (n : Nat) (re : Int) : -8192 ≤ h.dacSample n re ∧ h.dacSample n re ≤ 8191 := by
  unfold dacSample dacOut
  split
  · decide
  · exact clampZ_bounds (by decide) _

theorem dacForced_of_cause {h : Hw} {n : Nat} (hc : h.sta.stage < 7 ∨ h.trl.trip = true ∨ (h.path n).txOn = false) : h.dacForced n = true := by
  rcases hc with hc | hc | hc <;> simp [dacForced, hc]

theorem dacSample_forced {h : Hw} {n : Nat} (hf : h.dacForced n = true) (re : Int) : h.dacSample n re = 0 := by
  rw [dacSample, dacOut, if_pos hf]

/-! ### The input of the transmit chain (R112) -/

theorem inputForced_of_cause {h : Hw} {n : Nat}
    (hc : h.txEnabled n = false ∨ ∀ sl, h.slotNow = some sl → h.tddCode sl (n / 4) h.tim.k ≠ 1) : h.inputForced n = true := by
  rcases hc with hc | hc
  · simp [inputForced, hc]
  · have none_down : (h.slotNow.any fun sl => h.tddCode sl (n / 4) h.tim.k == 1) = false := by
      cases hs : h.slotNow with
      | none => rfl
      | some sl => exact beq_eq_false_iff_ne.mpr (hc sl hs)
    simp [inputForced, none_down]

/-- The latest window decides for every sample from its tick on. -/
theorem flows_forced {h : Hw} {w : TxWin} {older : List TxWin} {p rate : Nat} {n : Int} (hw : h.txWins = w :: older) (hp : p ∈ w.forced)
    (hc : w.c ≤ Dsp.ccOf rate n) : h.flows p rate n = false := by
  have unfed : h.fed p (Dsp.ccOf rate n) = false := by simp [fed, hw, hc, hp]
  rw [flows, unfed, Bool.and_false]

theorem beamStream_unfed {h : Hw} {p : Nat} {n : Int} (hf : h.flows p 491520000 n = false) : h.beamStream p n = {} := by
  unfold beamStream
  split
  · split
    · rw [hf]
      rfl
    · rfl
  · rfl

theorem chainIn_forced {h : Hw} {w : TxWin} {older : List TxWin} {p c : Nat} {n : Int} (hw : h.txWins = w :: older) (hp : p ∈ w.forced)
    (hc : w.c ≤ Dsp.ccOf (if h.fftN c = 0 then 491520000 else h.fftRate c) n) : h.chainIn p c n = {} := by
  unfold chainIn
  split_ifs at hc ⊢ with hn hf
  · exact beamStream_unfed (flows_forced hw hp hc)
  · rw [flows_forced hw hp hc] at hf
    cases hf
  · rfl

end Hw

/-- Settles O59: each stage by what it does to a sample. -/
theorem sampleChains : Obligations.SampleChains := by
  intro h p x n re r
  refine ⟨fun hi hq hz => ?passes, satIQ_bounds _, fun ftw he => Hw.ncoPhase_entry he 6 1 ftw,
    fun ftw e he hle => Hw.ncoPhase_advance he hle ftw, fun c b before after block => cfrBlock_spec c b before after block,
    fun quiet flags => ⟨ovrCount_flagged quiet flags, ovrCount_events_le quiet flags, ovrCount_spaced quiet flags⟩,
    h.dacSample_bounds p re, fun hc => Hw.dacSample_forced (Hw.dacForced_of_cause hc) re, Hw.inputForced_of_cause,
    fun w older c hw hp hc => Hw.chainIn_forced hw hp hc⟩
  show satIQ (h.dpdOut p x n) = x n
  rw [Hw.dpdOut_passes hz, satIQ_of_mem hi hq]

end Sys2Proof.Machine
end

section
/-! An uplink request that holds weights of its own (R125, R139). Refutes O55. -/
namespace Sys2Proof.Machine

/-- A slot for the payload's mantissas. -/
def plainSlot : Slot := {
  slot := 0, kind := 0, nCarriers := 1, preset := 0, txMask := 0, rxMask := 1, carriers := [⟨3500000, 100, 1⟩], layersDl := 1, layersUl := 1
  lmhzDl := 100, lmhzUl := 100, granularity := 1, mantissa := 9, minLead := 0, ulDeadline := 100000, earlyLimit := 1000000, dpdMode := 0
  cairn := 0, allowance := 0, backoff := 0, tdBeams := 0, renorm := 0, flowSet := 0, tdd := 0, cairnBeams := 0, cairnCoh := 0
  cairnNoncoh := 0 }

/-- A frequency-domain request at its symbol's end, over path 0, which carries a flag; it holds a weight of 0x4000 for that path. -/
def weightedRequest : UlItem := {
  flow := 1, target := 0, closing := 0, start := 0, count := 1, beam := 3, bytes := 28, epoch := 0, taken := some (0, [0])
  ws := some [⟨0x4000, 0⟩], formed := some ([List.replicate 12 ⟨64, -16⟩], [0]) }

/-- The state after reset with that request, and a codebook of zeros. -/
def weightedState : State := { State.reset with hw := { State.reset.hw with
  img := { loaded := some { slots := [plainSlot] } }
  fhl := { ul := [weightedRequest] } } }

theorem weightedState_settled : weightedState.hw.Settled := by decide +kernel

/-- The request is combined with the weight that it holds: path 0 takes part, so OVR is set. -/
theorem weightedState_sends : ∃ t, exec (.ulSectionSend 0 1 0 0) weightedState = .next t ∧
    t.hw.out.tx = [.ulSection 0 0 0xFFFF 0 0 1 0 1 0 0 1 3 (compressAll 9 1 (List.replicate 12 [4, -1]).flatten).1] :=
  ⟨_, rfl, by decide +kernel⟩

/-- The beam's stored weights are zero. -/
theorem weightedState_stored : weightedState.hw.weightOf weightedState.mem 3 0 0 = ⟨0, 0⟩ := by decide +kernel

/-- Refutes O55: the statement combines every frequency-domain request with the weights stored for its beam, while the model takes those
that a request holds, and no hypothesis says that it holds none. In `weightedState` the beam's stored weights are zero, so that no
flagged path would take part, and the request holds one that is not. -/
theorem not_uplinkSections : ¬ Obligations.UplinkSections := by
  intro h
  obtain ⟨-, send⟩ := h weightedState 0 weightedState_settled
  obtain ⟨t, ht, -, -, -, -, flags, hout, hovr, -, -⟩ := send weightedRequest 0 plainSlot [0] [List.replicate 12 ⟨64, -16⟩] [0]
    rfl rfl rfl rfl le_rfl rfl rfl fun y hy _ _ _ => by
      obtain rfl := List.mem_singleton.mp hy
      exact le_rfl
  obtain ⟨t', ht', hsent⟩ := weightedState_sends
  obtain rfl := Host.Outcome.next.inj (ht'.symm.trans ht)
  have hset : flags = 1 := by
    rw [hout] at hsent
    injection hsent with frame
    injection frame
  obtain ⟨p, hp, hw, -⟩ := hovr.mp (by rw [hset])
  obtain rfl := List.mem_singleton.mp hp
  exact hw weightedState_stored

end Sys2Proof.Machine
end

section
/-! The ENG fields of the observation registers (R115, R225, R343, R346, R349, R394): as commands of their own, and as stores of a word by a
running engine. Settles O39. -/
namespace Sys2Proof.Machine

namespace Hw

/-! ### A write of the bits under a mask -/

/-- The lowest `k` bits of a write whose mask covers them are those written. -/
theorem mergeBits_mod {mask k : Nat} (hk : k ≤ 128) (hm : mask % 2 ^ k = 2 ^ k - 1) (old val : Nat) :
    mergeBits old mask val % 2 ^ k = val % 2 ^ k := by
  refine Nat.eq_of_testBit_eq fun i => ?_
  by_cases hi : i < k
  · have covered : mask.testBit i = true := by
      have := congrArg (fun x => x.testBit i) hm
      simpa [Nat.testBit_mod_two_pow, Nat.testBit_two_pow_sub_one, hi] using this
    have wide : (2 ^ 128 - 1 : Nat).testBit i = true := by
      rw [Nat.testBit_two_pow_sub_one]
      exact decide_eq_true (by omega)
    simp only [mergeBits, Nat.testBit_mod_two_pow, Nat.testBit_or, Nat.testBit_and, Nat.testBit_xor, covered, wide]
    simp
  · simp [Nat.testBit_mod_two_pow, hi]

/-- A word whose every bit is written is the one written. -/
theorem ofNat_mergeBits {w mask : Nat} (hk : w ≤ 128) (hm : mask % 2 ^ w = 2 ^ w - 1) (old : Nat) (v : BitVec w) :
    BitVec.ofNat w (mergeBits old mask v.toNat) = v := by
  apply BitVec.eq_of_toNat_eq
  rw [BitVec.toNat_ofNat, mergeBits_mod hk hm, Nat.mod_eq_of_lt v.isLt]

theorem finOfNat_mergeBits {mask : Nat} (hm : mask % 2 ^ 4 = 2 ^ 4 - 1) (old val : Nat) :
    Fin.ofNat 16 (mergeBits old mask val) = Fin.ofNat 16 val :=
  Fin.ext (mergeBits_mod (by decide) hm old val)

/-! ### What each field becomes when the whole of it is written -/

/-- A tone's CFG word waits for the tick but for the bits that no field names (R115). -/
theorem toneCfg_word (h : Hw) (n : Nat) (w : Word) : h.toneCfg n (2 ^ 32 - 1) w.toNat =
    h.onPath n fun p => { p with tone := { p.tone with nextCfg := some (w &&& 0xFFFF0003) } } := by
  have named : ∀ old, BitVec.ofNat 32 (mergeBits old (2 ^ 32 - 1) w.toNat &&& 0xFFFF0003) = w &&& 0xFFFF0003 := fun old => by
    rw [BitVec.ofNat_and, ofNat_mergeBits (by decide) (by decide)]
    rfl
  simp only [toneCfg, named]

theorem toneFtw_word (h : Hw) (n : Nat) (f : BitVec 48) : h.toneFtw n (2 ^ 48 - 1) f.toNat =
    h.onPath n fun p => { p with tone := { p.tone with nextFtw := some f } } := by
  have whole : ∀ old, BitVec.ofNat 48 (mergeBits old ((2 ^ 48 - 1) % 2 ^ 48) f.toNat) = f := fun old =>
    ofNat_mergeBits (by decide) (by decide) old f
  simp only [toneFtw, whole]

section
variable (h : Hw) {mask : Nat} (val : Nat)

theorem classWrite_whole (hm : (mask &&& 0xFF) % 2 ^ 8 = 2 ^ 8 - 1) (c : Nat) : h.classWrite c mask val =
    h.onTrl fun t => { t with classNext := updN t.classNext c fun _ => some (val % 256) } := by
  have whole : ∀ old, mergeBits old (mask &&& 0xFF) val % 256 = val % 256 := fun old => mergeBits_mod (k := 8) (by decide) hm old val
  simp only [classWrite, whole]

theorem offerWrite_whole (hm : (mask &&& 0xFF) % 2 ^ 8 = 2 ^ 8 - 1) (t : Nat) : h.offerWrite t mask val =
    h.onTor t fun e => { e with statNext := some (val % 256) } := by
  have whole : ∀ old, mergeBits old (mask &&& 0xFF) val % 256 = val % 256 := fun old => mergeBits_mod (k := 8) (by decide) hm old val
  simp only [offerWrite, whole]

theorem routeDpd_whole (hm : (mask &&& 0xF) % 2 ^ 4 = 2 ^ 4 - 1) (q : Nat) : h.routeDpd q mask val =
    h.onQuad q fun x => { x with routeNext := some (Fin.ofNat 16 val) } := by
  simp only [routeDpd, finOfNat_mergeBits hm]

theorem routeCrn_whole (hm : (mask &&& 0xF) % 2 ^ 4 = 2 ^ 4 - 1) (c : Nat) : h.routeCrn c mask val =
    h.onCrn fun x => { x with routeNext := updN x.routeNext c fun _ => some (Fin.ofNat 16 val) } := by
  simp only [routeCrn, finOfNat_mergeBits hm]

end

/-- A slot of TOR_EVSEL names its line and enables it as written, and is no longer pending (R343). -/
theorem evselWrite_whole (h : Hw) (t k : Nat) (line : Byte) (en : Bool) : h.evselWrite t k 0x1FF (line.toNat + 256 * b2n en) =
    h.onTor t fun e => { e with ev := updN e.ev k fun _ => { line := line.toNat, enable := en, pending := false } } := by
  have small := line.isLt
  have bound : b2n en ≤ 1 := by cases en <;> decide
  have whole : ∀ old, mergeBits old (0x1FF &&& 0x1FF) (line.toNat + 256 * b2n en) % 2 ^ 9 = line.toNat + 256 * b2n en := fun old => by
    rw [mergeBits_mod (by decide) (by decide)]
    omega
  have named : ∀ old, mergeBits old (0x1FF &&& 0x1FF) (line.toNat + 256 * b2n en) % 256 = line.toNat := fun old => by
    have := whole old
    omega
  have enabled : ∀ old, bit (mergeBits old (0x1FF &&& 0x1FF) (line.toNat + 256 * b2n en)) 8 = en := fun old => by
    have low := congrArg (fun x => x.testBit 8) (whole old)
    simp only [Nat.testBit_mod_two_pow, show (8 : Nat) < 9 by decide, decide_true, Bool.true_and] at low
    rw [bit, low, Nat.testBit_eq_decide_div_mod_eq]
    cases en <;> simp [b2n] <;> omega
  simp only [evselWrite, named, enabled]

/-! ### Where the registers lie (R394) -/

/-- The register of its block, the element and the byte that an offset of the observation region names. -/
def engField (o : Nat) : Option (Nat × Nat × Nat) := (blocks[o / 0x40000]?).bind fun rs => regPos rs 0 (o % 0x40000) 0

section
variable (h : Hw) (t e val : Nat) {o : Nat}

theorem engStore_classLimit (hb : o / 0x40000 = 9) (hf : engField o = some (5, e, 0)) :
    h.engStore t o 0xFFFFFFFF val = h.onTrl fun t => { t with classNext := updN t.classNext e fun _ => some (val % 256) } := by
  rw [← classWrite_whole h val (mask := 0xFFFFFFFF) (by decide)]
  rw [engField, hb] at hf
  simp only [engStore, hf, hb, Nat.pow_zero, Nat.mul_one]

theorem engStore_obsBase (hb : o / 0x40000 = 6) (hf : engField o = some (4, e, 0)) :
    h.engStore t o 0xFFFFFFFF val = h.onQuad e fun x => { x with obs := { x.obs with base := val % 2 ^ 32 } } := by
  have whole : ∀ old, mergeBits old 0xFFFFFFFF val % 2 ^ 32 = val % 2 ^ 32 := fun old => mergeBits_mod (by decide) (by decide) old val
  rw [engField, hb] at hf
  simp only [engStore, hf, hb, Nat.pow_zero, Nat.mul_one, whole]

theorem engStore_statOffer (hb : o / 0x40000 = 16) (hf : engField o = some (4, e, 0)) :
    h.engStore t o 0xFFFFFFFF val = h.onTor e fun x => { x with statNext := some (val % 256) } := by
  rw [← offerWrite_whole h val (mask := 0xFFFFFFFF) (by decide)]
  rw [engField, hb] at hf
  simp only [engStore, hf, hb, Nat.pow_zero, Nat.mul_one]

theorem engStore_routeDpd (hb : o / 0x40000 = 16) (hf : engField o = some (5, e, 0)) :
    h.engStore t o 0xFFFFFFFF val = h.onQuad e fun x => { x with routeNext := some (Fin.ofNat 16 val) } := by
  rw [← routeDpd_whole h val (mask := 0xFFFFFFFF) (by decide)]
  rw [engField, hb] at hf
  simp only [engStore, hf, hb, Nat.pow_zero, Nat.mul_one]

/-- The registers of SYS_, IMG_ and STA_ have no ENG field. -/
theorem engStore_none (hb : o / 0x40000 < 3) (mask : Nat) : h.engStore t o mask val = h := by
  unfold engStore
  extract_lets blk
  have hblk : blk = 0 ∨ blk = 1 ∨ blk = 2 := by
    show o / 0x40000 = 0 ∨ o / 0x40000 = 1 ∨ o / 0x40000 = 2
    omega
  split
  · rfl
  · rcases hblk with e | e | e <;> rw [e] <;> rfl

end

theorem engField_classLimit : ∀ c : Fin 5, engField (0x240060 + 4 * c.val) = some (5, c.val, 0) := by decide
theorem engField_routeDpd : ∀ q : QuadId, engField (0x400300 + 4 * q.val) = some (5, q.val, 0) := by decide
theorem engField_statOffer : ∀ u : EngId, engField (0x4002C0 + 4 * u.val) = some (4, u.val, 0) := by decide
theorem engField_obsBase : ∀ q : QuadId, engField (0x180340 + 4 * q.val) = some (4, q.val, 0) := by decide

end Hw

/-- The blocks of the observation registers (Table 16.1, R393). -/
theorem region_observation {o : Nat} (ho : o < 0x540000) : region (0x80000000 + o) = .observation o := by
  have mapped : obsMapped (0x80000000 + o - 0x80000000) = true := by simp [obsMapped, ho]
  unfold region
  rw [if_neg (by omega), if_neg (by omega), if_neg (by omega), if_neg (by omega), if_neg (by omega), if_neg (by omega),
    if_neg (by omega), if_neg (by omega), if_pos ⟨by omega, by omega, mapped⟩, Nat.add_sub_cancel_left]

/-! ### The commands -/

/-- A store of a word by a running engine to an observation register does what it does to the register's ENG fields. -/
theorem exec_engRegisterWrite {s : State} {dt : Nat} {e : EngId} {v a : Word} {o : Nat} {g : Hw} (h5 : 5 ≤ s.hw.sta.stage)
    (hr : (s.hw.eng e).state = 1) (ha : a.toNat = 0x80000000 + o) (ho : o < 0x540000) (h4 : o % 4 = 0)
    (hg : (s.hw.elapse dt).engStore e o 0xFFFFFFFF v.toNat = g) (hs : g.Settled) :
    exec (.engRegisterWrite dt e a v) s = .next { s with hw := g } := by
  have on : (s.hw.elapse dt).engRuns e = true := by
    have run : ((s.hw.elapse dt).eng e).state = 1 := by simpa [Hw.eng] using hr
    simp [Hw.engRuns, Hw.engOn, run, h5]
  have aligned : (a.toNat % 4 == 0) = true := beq_iff_eq.mpr (by omega)
  show execEngRegisterWrite dt e a v s = _
  unfold execEngRegisterWrite
  refine ok_when s dt (by rw [on, aligned]; rfl) ?_ hs
  rw [ha, region_observation ho]
  exact hg

/-- Settles O39: every field is written whole, and each address is that of its register's element. -/
theorem engineRegisters : Obligations.EngineRegisters := by
  refine ⟨?commands, ?stores⟩
  case commands =>
    intro s dt hs h5 h
    have hsh : h.Settled := Hw.elapse_settled _ hs dt
    have on : h.engOn = true := by simp [Hw.engOn, h, h5]
    refine ⟨fun n w f => ⟨?toneBoth, ?toneCfg⟩, fun c v => ?limit, fun i e => ⟨fun _ => ?routeCrn, ?routeDpd⟩, fun e v => ?offer,
      fun e k line en => ?evsel⟩
    case toneBoth =>
      show execToneWrite dt n (some w) (some f) s = _
      refine ok_when s dt on ?_ hsh
      simp only [Hw.toneCfg_word, Hw.toneFtw_word, Hw.onPath, updN_updN]
      rfl
    case toneCfg =>
      show execToneWrite dt n (some w) none s = _
      exact ok_when s dt on (Hw.toneCfg_word ..) hsh
    case limit =>
      have fits : v.toNat % 256 = v.toNat := Nat.mod_eq_of_lt v.isLt
      show execTrlClassLimitWrite dt c v s = _
      refine ok_when s dt on ((Hw.classWrite_whole _ _ (by decide) _).trans ?_) hsh
      rw [fits]
      rfl
    case routeCrn =>
      show execTorRouteWrite dt true i e s = _
      refine ok_when s dt on ((Hw.routeCrn_whole _ _ (by decide) _).trans ?_) hsh
      rw [Fin.ofNat_val_eq_self]
      rfl
    case routeDpd =>
      show execTorRouteWrite dt false i e s = _
      refine ok_when s dt on ((Hw.routeDpd_whole _ _ (by decide) _).trans ?_) hsh
      rw [Fin.ofNat_val_eq_self]
      rfl
    case offer =>
      have fits : v.toNat % 256 = v.toNat := Nat.mod_eq_of_lt v.isLt
      show execTorStatOfferWrite dt e v s = _
      refine ok_when s dt on ((Hw.offerWrite_whole _ _ (by decide) _).trans ?_) hsh
      rw [fits]
      rfl
    case evsel =>
      show execTorEvselWrite dt e k line en s = _
      exact ok_when s dt on (Hw.evselWrite_whole ..) hsh
  case stores =>
    intro s dt e v hs h5 hr h
    have hsh : h.Settled := Hw.elapse_settled _ hs dt
    have place : ∀ {b n i : Nat}, n = 0x80000000 + b → n + 4 * i < 2 ^ 32 →
        (BitVec.ofNat 32 (n + 4 * i)).toNat = 0x80000000 + (b + 4 * i) := fun hn hi => by
        rw [BitVec.toNat_ofNat, Nat.mod_eq_of_lt hi]
        omega
    refine ⟨fun c => ?_, fun q => ?_, fun u => ?_, fun q => ?_, fun a h4 hlo hhi => ?_⟩
    · exact exec_engRegisterWrite h5 hr (place (b := 0x240060) rfl (by omega)) (by omega) (by omega)
        (Hw.engStore_classLimit _ _ _ _ (by omega) (Hw.engField_classLimit c)) hsh
    · exact exec_engRegisterWrite h5 hr (place (b := 0x400300) rfl (by omega)) (by omega) (by omega)
        (Hw.engStore_routeDpd _ _ _ _ (by omega) (Hw.engField_routeDpd q)) hsh
    · exact exec_engRegisterWrite h5 hr (place (b := 0x4002C0) rfl (by omega)) (by omega) (by omega)
        (Hw.engStore_statOffer _ _ _ _ (by omega) (Hw.engField_statOffer u)) hsh
    · refine exec_engRegisterWrite h5 hr (place (b := 0x180340) rfl (by omega)) (by omega) (by omega)
        ((Hw.engStore_obsBase _ _ _ _ (by omega) (Hw.engField_obsBase q)).trans ?_) hsh
      rw [Nat.mod_eq_of_lt v.isLt]
      rfl
    · exact exec_engRegisterWrite h5 hr (o := a.toNat - 0x80000000) (by omega) (by omega) (by omega)
        (Hw.engStore_none _ _ _ (by omega) _) hsh

end Sys2Proof.Machine
end

section
/-! A Spur section judged on its headers, and the mark that its port keeps of it (R116, R180). Refutes O53. -/
namespace Sys2Proof.Machine

/-- A Spur slot that takes a section from 1 ns before its tick on. -/
def markSlot : Slot := { plainSlot with kind := 2, minLead := 1 }

/-- S5 with port A up, that slot in force, and one own downlink flow. -/
def markState : State := { State.reset with hw := { State.reset.hw with
  sta := { stage := 5, k7 := some 0 }
  pins := { stat := 4 }
  mode := { slot := some 0 }
  img := { loaded := some { slots := [markSlot], flows := [(0, [misreadFlow])] } }
  ports := Vector.replicate 2 { linkUp := true } } }

/-- A message of one section of one block, for the present tick. -/
def markMsg : MsgHdr := {
  port := 0, src := 1, vlan := none, revision := 1, reserved := 0, concat := false, msgType := 0, size := 280, avail := 280, pcId := 0
  seq := 0, seqE := 0x80, flowId := 0, epoch := 0, flags := 0, records := 1, target32 := 0, layout := [(0x10, 268, 1)] }

/-- Its section record. -/
def markSection : SectionRec := { start := 0, count := 1, beam := 0, payload := [] }

theorem markState_settled : markState.hw.Settled := by decide +kernel

theorem markState_stands : (markState.hw.elapse 0).stands markMsg (some misreadFlow) 0x10 (12 + 256) 1 := by
  dsimp only [Hw.stands]
  decide +kernel

/-- Once the headers are judged the port marks the frame in reception, so that its end is not taken for another message. -/
theorem markState_marks : ∃ t, exec (.spurSectionHeaders 0 markMsg markSection 0) markState = .next t ∧ (t.hw.port 0).judged = true :=
  ⟨_, rfl, by decide +kernel⟩

/-- Refutes O53: the statement has a refused section change nothing but the fronthaul, while a message judged on its headers in a Spur slot
leaves its mark at the port as well. In `markState` a section arrives at its tick, too late for its slot, on a port without the mark. -/
theorem not_downlinkSections : ¬ Obligations.DownlinkSections := by
  intro h
  obtain ⟨late, -⟩ := h markState 0 0 0 markMsg markSection misreadFlow markSlot markState_settled rfl rfl rfl markState_stands rfl
    le_rfl
  obtain ⟨t, ht, -, -, hkeep, -⟩ := late (by decide +kernel)
  obtain ⟨t', ht', hmark⟩ := markState_marks
  obtain rfl := Host.Outcome.next.inj (ht'.symm.trans ht)
  have unmarked : (t'.hw.port 0).judged = false := by
    rw [hkeep]
    rfl
  rw [unmarked] at hmark
  cases hmark

end Sys2Proof.Machine
end

section
/-! Admitted Spur frames that fail, and the weighting of frequency-domain sections (R117, R118, R130, R135, R136, R203). Settles O54. -/
namespace Sys2Proof.Machine

/-! ### The front of a sorted list -/

theorem insertBy_head {α : Type} {key : α → Nat} {x d : α} {l : List α}
    (hl : ∀ y ∈ l.head?, y = d ∨ key d < key y) (hx : x = d ∨ l.head? = some d ∧ key d < key x) :
    (sortBy.insertBy' key x l).head? = some d := by
  cases l with
  | nil =>
    rcases hx with rfl | ⟨hx, -⟩
    · rfl
    · cases hx
  | cons y r =>
    unfold sortBy.insertBy'
    rcases hx with rfl | ⟨hx, hlt⟩
    · have last : ¬ key y < key x := by
        rcases hl y rfl with rfl | h <;> omega
      rw [if_neg last]
      rfl
    · obtain rfl := Option.some.inj hx
      rw [if_pos hlt]
      rfl

/-- The entry with the least key, which only its copies share, is sorted to the front. -/
theorem sortBy_head {α : Type} {key : α → Nat} {d : α} {l : List α} (hd : d ∈ l) (hl : ∀ x ∈ l, x = d ∨ key d < key x) :
    (sortBy key l).head? = some d := by
  induction l with
  | nil => cases hd
  | cons x r ih =>
    refine insertBy_head (fun y hy => ?_) ?_
    · exact hl y (List.mem_cons_of_mem _ ((sortBy_perm key r).mem_iff.mp (List.mem_of_mem_head? hy)))
    · rcases hl x (List.mem_cons_self ..) with rfl | hlt
      · exact .inl rfl
      · have rest : d ∈ r := by
          rcases List.mem_cons.mp hd with rfl | h
          · exact absurd hlt (lt_irrefl _)
          · exact h
        exact .inr ⟨ih rest fun y hy => hl y (List.mem_cons_of_mem _ hy), hlt⟩

namespace Hw

/-! ### Massif's lanes up to now (R127, R136) -/

/-- `h` with its lanes run and its timing queues worked off up to now, as `g` has them. -/
def lanesAs (h g : Hw) : Hw := { h with
  fhl := { h.fhl with dl := g.fhl.dl, ul := g.fhl.ul }
  mas := { h.mas with
    dlAt := h.tim.c * 100000, ulAt := h.tim.c * 100000, runAt := h.tim.c * 100000, busyDl := g.mas.busyDl
    busyUl := g.mas.busyUl, lendDl := g.mas.lendDl, lendUl := g.mas.lendUl } }

/-- What the lanes leave open may stand as it is. -/
theorem lanesAs_of {h g : Hw} {dl : List DlItem} {ul : List UlItem} {busyDl busyUl lendDl lendUl : Nat} (e : g = { h with
      fhl := { h.fhl with dl := dl, ul := ul }
      mas := { h.mas with
        dlAt := h.tim.c * 100000, ulAt := h.tim.c * 100000, runAt := h.tim.c * 100000, busyDl := busyDl, busyUl := busyUl
        lendDl := lendDl, lendUl := lendUl } }) : g = h.lanesAs g := by
  subst e
  rfl

theorem runNow_changes (h : Hw) : ∃ (dl : List DlItem) (ul : List UlItem) (busyDl busyUl lendDl lendUl : Nat), h.runNow = { h with
    fhl := { h.fhl with dl := dl, ul := ul }
    mas := { h.mas with runAt := h.tim.c * 100000, busyDl := busyDl, busyUl := busyUl, lendDl := lendDl, lendUl := lendUl } } :=
  ⟨_, _, _, _, _, _, rfl⟩

theorem massifAdvance_changes (h : Hw) : ∃ (dl : List DlItem) (ul : List UlItem), h.massifAdvance = { h.runNow with
    fhl := { h.runNow.fhl with dl := dl, ul := ul }
    mas := { h.runNow.mas with dlAt := h.runNow.tim.c * 100000, ulAt := h.runNow.tim.c * 100000 } } :=
  ⟨_, _, rfl⟩

theorem massifAdvance_lanes (h : Hw) : h.massifAdvance = h.lanesAs h.massifAdvance := by
  obtain ⟨dl, ul, advance⟩ := h.massifAdvance_changes
  obtain ⟨dl', ul', busyDl, busyUl, lendDl, lendUl, run⟩ := h.runNow_changes
  rw [run] at advance
  exact lanesAs_of advance

/-- A further change of the downlink sections is among what the lanes leave open. -/
theorem lanesAs_onDl {h g : Hw} (e : g = h.lanesAs g) (f : List DlItem → List DlItem) :
    (g.onFhl fun x => { x with dl := f x.dl }) = h.lanesAs (g.onFhl fun x => { x with dl := f x.dl }) :=
  congrArg (fun g => g.onFhl fun x => { x with dl := f x.dl }) e

/-- Of a downlink section the lanes change what is left to work off. -/
theorem massifAdvance_dl (h : Hw) : ∃ left todo : DlItem → Nat,
    h.massifAdvance.fhl.dl = h.fhl.dl.map fun d => { d with left := left d, todo := todo d } :=
  ⟨_, _, List.map_map.trans (List.map_congr_left fun _ _ => rfl)⟩

/-! ### Weights read from sound memory (R141) -/

theorem readWeight_sound (h : Hw) {m : Mem} (hb : m.bad = []) (beam n a v : Nat) (dyn : Bool) : h.readWeight m beam n a v dyn = h := by
  have sound : m.anyUe a 4 = false := List.any_eq_false.mpr fun w _ => by rw [Mem.err_of_bad_nil hb w]; decide
  rw [readWeight, noteRead_sound_bad h hb, sound]
  rfl

theorem readWeights_sound (h : Hw) {m : Mem} (hb : m.bad = []) (beam : Nat) (v : Option Nat) : h.readWeights m beam v = h := by
  have still : ∀ (a : Nat → Nat) (v : Nat) (dyn : Bool), h.each (List.range 64) (fun h n => h.readWeight m beam n (a n) v dyn) = h :=
    fun a v dyn => each_still h _ _ fun n _ => readWeight_sound h hb ..
  unfold readWeights
  split
  · exact still ..
  · split
    · exact still ..
    · rfl

/-- Weights are set one section after another: nothing but the weights of sections changes, and each section named has weights then. -/
theorem each_setWs (l : List DlItem) (w : Hw → DlItem → List IQ) (h : Hw) : ∃ ws : DlItem → Option (List IQ),
    (h.each l fun h d => h.setWs d.order (w h d)) = (h.onFhl fun f => { f with dl := f.dl.map fun d => { d with ws := ws d } }) ∧
      ∀ x, x.ws.isSome = true ∨ x ∈ l → (ws x).isSome = true := by
  induction l generalizing h with
  | nil =>
    refine ⟨DlItem.ws, ?_, fun x hx => hx.resolve_right (List.not_mem_nil)⟩
    simp [onFhl]
  | cons d r ih =>
    obtain ⟨ws, hframe, hset⟩ := ih (h.setWs d.order (w h d))
    refine ⟨fun x => ws (if x.order = d.order then { x with ws := some (w h d) } else x), ?_, fun x hx => hset _ ?_⟩
    · rw [each_cons, hframe]
      simp only [setWs, onFhl, List.map_map]
      congr 2
      refine List.map_congr_left fun x _ => ?_
      dsimp only [Function.comp]
      split <;> rfl
    · split
      · exact .inl rfl
      · next ho =>
        rcases hx with hx | hx
        · exact .inl hx
        · exact .inr ((List.mem_cons.mp hx).resolve_left fun e => ho (e ▸ rfl))

/-- The weights that a section is given: those already read for its beam and window in the time domain, else those of its tick. -/
def wsFor (h : Hw) (m : Mem) (d : DlItem) : List IQ :=
  ((h.fhl.dl.find? fun x => d.spur && x.spur && x.target == d.target && x.layer == d.layer && x.ws.isSome).bind (·.ws)).getD
    (h.dlWeights m d.beam d.target)

theorem weigh_sound (h : Hw) {m : Mem} (hb : m.bad = []) (p : DlItem → Bool) : ∃ ws : DlItem → Option (List IQ),
    h.weigh m p = (h.onFhl fun f => { f with dl := f.dl.map fun d => { d with ws := ws d } }) ∧
      ∀ x ∈ h.fhl.dl, p x = true → (ws x).isSome = true := by
  obtain ⟨ws, hframe, hset⟩ := each_setWs (h.fhl.dl.filter fun d => p d && d.ws.isNone) (fun h d => h.wsFor m d) h
  refine ⟨ws, Eq.trans ?_ hframe, fun x hx hp => hset x ?_⟩
  · unfold weigh wsFor
    congr 1
    funext h d
    split
    · next e => rw [e]; rfl
    · next e => rw [e, readWeights_sound h hb]; rfl
  · cases hw : x.ws
    · exact .inr (List.mem_filter.mpr ⟨hx, by simp [hp, hw]⟩)
    · exact .inl rfl

/-! ### Sections worked off -/

end Hw

/-- What a section is named by. -/
def DlItem.name (d : DlItem) : Bool × Nat × Nat × Nat := (d.spur, d.flow, d.target, d.start)

/-- What is left to work off of a section, and the weights that it is weighted by. -/
structure Progress where
  left : Nat
  todo : Nat
  ws : Option (List IQ)

/-- A section with that much progress. -/
def DlItem.withProgress (d : DlItem) (g : Progress) : DlItem := { d with left := g.left, todo := g.todo, ws := g.ws }

/-- A section that is weighted, with what `room` leaves it of the packet buffer (R135, R203). -/
def DlItem.done (room : Nat → Nat) (d : DlItem) : DlItem := { d with weighted := true, left := 0, todo := 0, bytes := room d.bytes }

namespace Hw

/-- `h` with the sections that a test picks weighted by now. -/
def workedOff (h : Hw) (m : Mem) (pick : Bool × Nat × Nat × Nat → Bool) (room : Nat → Nat) : Hw :=
  (h.massifAdvance.weigh m fun d => pick d.name).onFhl fun x => { x with dl := x.dl.map fun d => if pick d.name then d.done room else d }

section
variable (h : Hw) {m : Mem} (hb : m.bad = []) (pick : Bool × Nat × Nat × Nat → Bool) (room : Nat → Nat)
include hb

theorem workedOff_lanes : h.workedOff m pick room = h.lanesAs (h.workedOff m pick room) := by
  obtain ⟨ws, hw, -⟩ := weigh_sound h.massifAdvance hb fun d => pick d.name
  have weighed := lanesAs_onDl h.massifAdvance_lanes fun l => l.map fun d => { d with ws := ws d }
  rw [← hw] at weighed
  exact lanesAs_onDl weighed fun l => l.map fun d => if pick d.name then d.done room else d

/-- Every section makes some progress, and those picked have weights and are done. -/
theorem workedOff_dl : ∃ now : DlItem → Progress,
    (h.workedOff m pick room).fhl.dl =
        h.fhl.dl.map (fun d => if pick d.name then (d.withProgress (now d)).done room else d.withProgress (now d)) ∧
      ∀ d ∈ h.fhl.dl, pick d.name = true → (now d).ws.isSome = true := by
  obtain ⟨left, todo, hdl⟩ := h.massifAdvance_dl
  obtain ⟨ws, hw, hset⟩ := weigh_sound h.massifAdvance hb fun d => pick d.name
  refine ⟨fun d => ⟨left d, todo d, ws { d with left := left d, todo := todo d }⟩, ?_, fun d hd hp => hset _ ?_ hp⟩
  · unfold workedOff
    rw [hw]
    simp only [onFhl, hdl, List.map_map]
    rfl
  · rw [hdl]
    exact List.mem_map_of_mem hd

/-- But for their progress, the sections picked are weighted and the others as they were. -/
theorem workedOff_shown : (h.workedOff m pick room).fhl.dl.map (·.withProgress ⟨0, 0, none⟩) = h.fhl.dl.map fun d =>
    if pick d.name then { d.withProgress ⟨0, 0, none⟩ with weighted := true, bytes := room d.bytes }
    else d.withProgress ⟨0, 0, none⟩ := by
  obtain ⟨now, hdl, -⟩ := h.workedOff_dl hb pick room
  rw [hdl, List.map_map]
  refine List.map_congr_left fun d _ => ?_
  dsimp only [Function.comp]
  split <;> rfl

/-- The sections picked have nothing left to work off, and have their weights. -/
theorem workedOff_done {d : DlItem} (hd : d ∈ (h.workedOff m pick room).fhl.dl) (hp : pick d.name = true) :
    d.left = 0 ∧ d.todo = 0 ∧ d.ws.isSome = true := by
  obtain ⟨now, hdl, hset⟩ := h.workedOff_dl hb pick room
  rw [hdl] at hd
  obtain ⟨x, hx, rfl⟩ := List.mem_map.mp hd
  by_cases hpx : pick x.name = true
  · rw [if_pos hpx]
    exact ⟨rfl, rfl, hset x hx hpx⟩
  · rw [if_neg hpx] at hp
    exact absurd hp hpx

end

/-! ### SPUR_FCS_BAD -/

/-- The alarm of a Spur frame as it is detected. -/
def spurNews (h : Hw) (flow seq target : Nat) : Happening :=
  h.seen { code := 0x0403, arg := (flow : Int) * 256 + (seq : Int) % 256, extra := low32 target, tick := some target
           ctx := some ((((h.ownFlows (h.slotAt target)).find? fun f => f.id == flow).map (·.eaxc)).getD 0xFFFF, flow, seq % 256) }

/-- HC0 logs SPUR_FCS_BAD with the flow and the sequence number as its argument and the target tick as its extra word (R117). -/
theorem spurAlarm_settle {h : Hw} (hp : h.lko.pend = []) (flow seq target : Nat) :
    (h.spurAlarm flow seq target).settle = h.told (h.spurAlarm flow seq target).settle ∧
      (h.spurAlarm flow seq target).settle.newest 0x0403 (flow * 256 + seq % 256 : Nat) ∧
      (h.spurAlarm flow seq target).settle.lko.log.head?.map (·.extra) = some (target % 2 ^ 32) := by
  set g := h.spurAlarm flow seq target with hg
  have pend : g.lko.pend = [h.spurNews flow seq target] := congrArg (· ++ [h.spurNews flow seq target]) hp
  have event : isState (h.spurNews flow seq target).code = false := rfl
  have argument : (h.spurNews flow seq target).arg = (flow * 256 + seq % 256 : Nat) := by push_cast; rfl
  refine ⟨settle_told h _ _ rfl, ?_, ?_⟩
  · rw [← argument]
    exact settle_newest g [] (h.spurNews flow seq target) (by rw [pend]; rfl) rfl (by simpa [pend] using event)
  · have long : g.settle.longEntries = (longMark (h.spurNews flow seq target) :: g.longEntries).take 4096 := by
      rw [settle_eq, taken_one g _ pend]
      exact take1_longEntries _ event
    have head := congrArg (fun l => l.head?.map fun e => e.2.2) long
    simpa [longEntries, longMark, spurNews, seen, low32, Option.map_map, Function.comp_def] using head

/-- A held Spur section, as the row's own test finds it. -/
theorem spurHeld_iff (h : Hw) (flow target : Nat) :
    h.spurHeld flow target = true ↔ ∃ d ∈ h.fhl.dl, d.spur = true ∧ d.flow = flow ∧ d.target = target := by
  simp [spurHeld, and_assoc]

end Hw

/-- The last section of a list that passes a test is changed alone, where no other has its order. -/
theorem map_last {p : DlItem → Bool} {f : DlItem → DlItem} {a b : List DlItem} {d : DlItem} (hd : p d = true)
    (hb : ∀ x ∈ b, p x = false) (ho : ∀ x ∈ a ++ b, x.order ≠ d.order) :
    ((a ++ d :: b).map fun x => if some x.order = ((a ++ d :: b).filter p).getLast?.map (·.order) then f x else x) = a ++ f d :: b := by
  have last : ((a ++ d :: b).filter p).getLast? = some d := by
    have none_behind : b.filter p = [] := List.filter_eq_nil_iff.mpr fun x hx => by simp [hb x hx]
    simp [hd, none_behind]
  have other : ∀ x ∈ a ++ b, (if some x.order = some d.order then f x else x) = x := fun x hx =>
    if_neg fun e => ho x hx (Option.some.inj e)
  have still : ∀ l : List DlItem, (∀ x ∈ l, x ∈ a ++ b) → l.map (fun x => if some x.order = some d.order then f x else x) = l :=
    fun l hl => (List.map_congr_left (g := id) fun x hx => other x (hl x hx)).trans (List.map_id l)
  rw [last, Option.map_some, List.map_append, List.map_cons, still a fun x => List.mem_append_left b,
    still b fun x => List.mem_append_right a, if_pos rfl]

/-! ### The commands -/

/-- The name of a section in the frequency domain. -/
def sectionName (flow target start : Nat) (k : Bool × Nat × Nat × Nat) : Bool :=
  !k.1 && k.2.1 == flow && k.2.2.1 == target && k.2.2.2 == start

theorem sectionName_iff {flow target start : Nat} {d : DlItem} : sectionName flow target start d.name = true ↔
    d.spur = false ∧ d.flow = flow ∧ d.target = target ∧ d.start = start := by
  simp [sectionName, DlItem.name, and_assoc]

/-- The names of the sections of a symbol. -/
def symbolName (target : Nat) (k : Bool × Nat × Nat × Nat) : Bool := !k.1 && k.2.2.1 == target

theorem symbolName_iff {target : Nat} {d : DlItem} : symbolName target d.name = true ↔ d.spur = false ∧ d.target = target := by
  simp [symbolName, DlItem.name]

namespace Hw

/-- SECTION_WEIGHTED does something: the section it names is next in order, between its start and its deadline (R135, R136). -/
def weighs (h : Hw) (flow target start : Nat) : Bool :=
  h.tim.open_ && (sortDl (h.fhl.dl.filter fun d => !d.spur && !d.weighted)).head?.any (fun d => sectionName flow target start d.name) &&
    decide (target ≤ h.tim.k + 2) && decide (h.nowFine + nsFine 4000 ≤ h.tickFine target)

/-- The weighting deadline of a symbol has come. -/
def deadlinePast (h : Hw) (target : Nat) : Bool := h.tim.open_ && decide (h.tickFine target ≤ h.nowFine + nsFine 4000)

/-- What waits to be weighted, with a section before all the rest in the order of target tick and admission. -/
theorem next_of_least {h : Hw} {d : DlItem} (hd : d ∈ h.fhl.dl) (hs : d.spur = false) (hw : d.weighted = false)
    (hl : ∀ x ∈ h.fhl.dl, x.spur = false → x.weighted = false →
      x = d ∨ d.target * 2 ^ 64 + d.order < x.target * 2 ^ 64 + x.order) :
    (sortDl (h.fhl.dl.filter fun d => !d.spur && !d.weighted)).head? = some d := by
  refine sortBy_head (List.mem_filter.mpr ⟨hd, by simp [hs, hw]⟩) fun x hx => ?_
  obtain ⟨hx, hp⟩ := List.mem_filter.mp hx
  simp only [Bool.and_eq_true, Bool.not_eq_true'] at hp
  exact hl x hx hp.1 hp.2

/-- A section for which SECTION_WEIGHTED does something is held and not weighted yet. -/
theorem exists_of_weighs {h : Hw} {flow target start : Nat} (hw : h.weighs flow target start = true) :
    (h.tim.open_ = true ∧ target ≤ h.tim.k + 2 ∧ h.nowFine + nsFine 4000 ≤ h.tickFine target) ∧
      ∃ d ∈ h.fhl.dl, sectionName flow target start d.name = true ∧ d.weighted = false := by
  simp only [weighs, Bool.and_eq_true, decide_eq_true_eq, Option.any_eq_true] at hw
  obtain ⟨⟨⟨hopen, d, hhead, hname⟩, hstart⟩, hend⟩ := hw
  obtain ⟨hd, hp⟩ := List.mem_filter.mp ((sortBy_perm _ _).mem_iff.mp (List.mem_of_mem_head? hhead))
  simp only [Bool.and_eq_true, Bool.not_eq_true'] at hp
  exact ⟨⟨hopen, hstart, hend⟩, d, hd, hname, hp.2⟩

end Hw

theorem exec_sectionWeighted (s : State) (dt flow target start : Nat) : exec (.sectionWeighted dt flow target start) s =
    ok s dt fun h => h.whenB (h.weighs flow target start) fun h => h.workedOff s.mem (sectionName flow target start) id := rfl

theorem exec_weightingDeadline (s : State) (dt target : Nat) : exec (.weightingDeadline dt target) s =
    ok s dt fun h => h.whenB (h.deadlinePast target) fun h => h.workedOff s.mem (symbolName target) fun _ => 0 := rfl

section
variable {s : State} {dt : Nat} {h : Hw} (he : s.hw.elapse dt = h)
include he

theorem exec_spurFcsBad_held {flow target : Nat} (hheld : h.spurHeld flow target = true) (seq : Nat) :
    exec (.spurFcsBad dt flow seq target) s = .next { s with hw :=
      ((h.onFhl fun f => { f with spurFcsBad := inc f.spurFcsBad }).spurAlarm flow seq target).settle } := by
  subst he
  exact ok_whenB s dt (c := fun h => h.spurHeld flow target) hheld

/-- The section cut is the one admitted last of its flow and tick. -/
theorem exec_spurTrunc_held {flow target : Nat} {a b : List DlItem} {d : DlItem} (hdl : h.fhl.dl = a ++ d :: b)
    (hd : (d.spur && d.flow == flow && d.target == target) = true)
    (hb : ∀ x ∈ b, (x.spur && x.flow == flow && x.target == target) = false)
    (ho : ∀ x ∈ a ++ b, x.order ≠ d.order) (seq received : Nat) :
    exec (.spurTrunc dt flow seq target received) s = .next { s with hw :=
      ((h.onFhl fun f => { f with spurTrunc := inc f.spurTrunc, dl := a ++ { d with truncAt := some received } :: b }).spurAlarm
        flow seq target).settle } := by
  subst he
  have held : (s.hw.elapse dt).spurHeld flow target = true := by
    rw [Hw.spurHeld, hdl]
    exact List.any_eq_true.mpr ⟨d, by simp, hd⟩
  have cut := map_last (p := fun d => d.spur && d.flow == flow && d.target == target) (f := fun d => { d with truncAt := some received })
    hd hb ho
  rw [← cut, ← hdl]
  exact ok_whenB s dt (c := fun h => h.spurHeld flow target) held

variable (hs : h.Settled) (hb : s.mem.bad = [])
include hs hb

/-- Sections worked off are the next state as they stand. -/
theorem ok_workedOff {c : Hw → Bool} (hc : c h = true) (pick : Bool × Nat × Nat × Nat → Bool) (room : Nat → Nat) :
    ok s dt (fun h => h.whenB (c h) fun h => h.workedOff s.mem pick room) = .next { s with hw := h.workedOff s.mem pick room } := by
  subst he
  refine ok_when s dt hc rfl ?_
  rw [Hw.workedOff_lanes _ hb]
  exact hs

theorem exec_sectionWeighted_next {flow target start : Nat} (hw : h.weighs flow target start = true) :
    exec (.sectionWeighted dt flow target start) s = .next { s with hw := h.workedOff s.mem (sectionName flow target start) id } := by
  rw [exec_sectionWeighted]
  exact ok_workedOff he hs hb (c := fun h => h.weighs flow target start) hw _ _

theorem exec_weightingDeadline_past {target : Nat} (hw : h.deadlinePast target = true) :
    exec (.weightingDeadline dt target) s = .next { s with hw := h.workedOff s.mem (symbolName target) fun _ => 0 } := by
  rw [exec_weightingDeadline]
  exact ok_workedOff he hs hb (c := fun h => h.deadlinePast target) hw _ _

end

/-- Any other command of weighting only lets its time pass (log 3). -/
theorem exec_sectionWeighted_other {s : State} {dt flow target start : Nat} (hs : s.hw.Settled)
    (hw : (s.hw.elapse dt).weighs flow target start = false) :
    exec (.sectionWeighted dt flow target start) s = .next { s with hw := s.hw.elapse dt } := by
  rw [exec_sectionWeighted]
  exact ok_still s dt _ hs (by rw [hw]; rfl)

/-- Settles O54: the alarm of a frame that fails is told, and a section that a command of weighting finds due is worked off, in what the
lanes do up to then. -/
theorem sectionsWorkedOff : Obligations.SectionsWorkedOff := by
  intro s dt flow seq target hs h mine bare worked
  have hsh : h.Settled := Hw.elapse_settled _ hs dt
  have ends : s.mem.bad = [] → ∀ pick room, worked { s with hw := h.workedOff s.mem pick room } := fun hb pick room =>
    ⟨rfl, rfl, h.workedOff_lanes hb pick room⟩
  refine ⟨fun hd => ?fcs, fun a b d received hdl hd hb ho => ?trunc, ?weighted, fun hb hopen hdue => ?deadline⟩
  case fcs =>
    refine ⟨_, exec_spurFcsBad_held rfl ((h.spurHeld_iff flow target).mpr hd) seq, rfl, rfl, ?_⟩
    exact Hw.spurAlarm_settle (h := h.onFhl fun f => { f with spurFcsBad := inc f.spurFcsBad }) hsh.1 flow seq target
  case trunc =>
    have hd' : (d.spur && d.flow == flow && d.target == target) = true := by simpa [mine, and_assoc] using hd
    have hb' : ∀ x ∈ b, (x.spur && x.flow == flow && x.target == target) = false := fun x hx => by
      simpa [mine, and_assoc] using hb x hx
    obtain ⟨told, news, -⟩ := Hw.spurAlarm_settle (h := h.onFhl fun f => { f with
      spurTrunc := inc f.spurTrunc, dl := a ++ { d with truncAt := some received } :: b }) hsh.1 flow seq target
    exact ⟨_, exec_spurTrunc_held rfl hdl hd' hb' ho seq received, rfl, rfl, told, news⟩
  case weighted =>
    intro hb start this first due
    refine ⟨fun hdue hfirst => ?done, fun hno => exec_sectionWeighted_other hs ?other⟩
    case done =>
      obtain ⟨hopen, hstart, hend⟩ := hdue
      obtain ⟨d, hd, hthis, hw, hleast⟩ := hfirst
      have on : h.weighs flow target start = true := by
        have before : h.nowFine + Hw.nsFine 4000 ≤ h.tickFine target := hend
        rw [Hw.weighs, hopen, Hw.next_of_least hd hthis.1 hw hleast, Option.any_some, sectionName_iff.mpr hthis, decide_eq_true hstart,
          decide_eq_true before]
        rfl
      refine ⟨_, exec_sectionWeighted_next rfl hsh hb on, ends hb _ _, ?_,
        fun d hd ht => h.workedOff_done hb _ _ hd (sectionName_iff.mpr ht)⟩
      exact (h.workedOff_shown hb _ _).trans (List.map_congr_left fun d _ => if_congr sectionName_iff rfl rfl)
    case other =>
      refine Bool.eq_false_iff.mpr fun hw => ?_
      obtain ⟨hdue, d, hd, hname, hnot⟩ := Hw.exists_of_weighs hw
      rcases hno with hno | hno
      · exact hno hdue
      · exact Bool.false_ne_true (hnot.symm.trans (hno d hd (sectionName_iff.mp hname)))
  case deadline =>
    have come : h.tickFine target ≤ h.nowFine + Hw.nsFine 4000 := hdue
    have past : h.deadlinePast target = true := by
      rw [Hw.deadlinePast, hopen, decide_eq_true come]
      rfl
    refine ⟨_, exec_weightingDeadline_past rfl hsh hb past, ends hb _ _, ?_,
      fun d hd hs ht => h.workedOff_done hb _ _ hd (symbolName_iff.mpr ⟨hs, ht⟩)⟩
    exact (h.workedOff_shown hb _ _).trans (List.map_congr_left fun d _ => if_congr symbolName_iff rfl rfl)

end Sys2Proof.Machine
end

section
/-! A record on one of the package's own control flows (R182 to R192, R201, R205, R206), and WEIGHT_LOAD (R24, R129, R130, R195). Settles
O52. -/
namespace Sys2Proof.Machine

/-! ### Bindings and lists without repeats -/

theorem assoc_assocSet {κ α : Type} [DecidableEq κ] (k j : κ) (v : α) (l : List (κ × α)) :
    assoc j (assocSet k v l) = if j = k then some v else assoc j l := by
  induction l with
  | nil => simp only [assocSet, assoc, eq_comm]
  | cons x r ih =>
    obtain ⟨a, w⟩ := x
    by_cases hak : a = k
    · subst hak
      simp only [assocSet, if_true, assoc, eq_comm (a := j)]
      split <;> rfl
    · simp only [assocSet, if_neg hak, assoc, ih]
      by_cases haj : a = j
      · subst haj
        simp [hak]
      · simp [haj]

/-- An insertion goes before the entries of its own key, so it binds its key. -/
theorem assoc_insertBy {α : Type} (j : Nat) (x : Nat × α) (l : List (Nat × α)) :
    assoc j (sortBy.insertBy' (·.1) x l) = assoc j (x :: l) := by
  induction l with
  | nil => rfl
  | cons y r ih =>
    unfold sortBy.insertBy'
    split
    · rename_i hlt
      obtain ⟨a, v⟩ := x
      obtain ⟨b, w⟩ := y
      have hne : b ≠ a := Nat.ne_of_lt hlt
      simp only [assoc] at ih ⊢
      rw [ih]
      by_cases hb : b = j
      · subst hb
        simp [hne.symm]
      · simp [hb]
    · rfl

/-- Sorting by the key keeps what each key is bound to. -/
theorem assoc_sortBy {α : Type} (j : Nat) (l : List (Nat × α)) : assoc j (sortBy (·.1) l) = assoc j l := by
  induction l with
  | nil => rfl
  | cons x r ih => rw [sortBy, assoc_insertBy, assoc, assoc, ih]

theorem nodup_eraseDups {α : Type} [BEq α] [LawfulBEq α] (l : List α) : l.eraseDups.Nodup := by
  match l with
  | [] => exact List.nodup_nil
  | a :: r =>
    rw [List.eraseDups_cons]
    exact List.nodup_cons.mpr ⟨by simp [List.mem_eraseDups], nodup_eraseDups _⟩
termination_by l.length
decreasing_by exact Nat.lt_succ_of_le (List.length_filter_le ..)

/-! ### Bytes written to sound memory (R359, R360) -/

namespace Mem

theorem write_bad_nil {m : Mem} (hb : m.bad = []) (a : Nat) (l : Bytes) : (m.write a l).bad = [] := by
  induction l generalizing m a with
  | nil => exact hb
  | cons b r ih =>
    refine ih ?_ (a + 1)
    simp [put, freshen, err_of_bad_nil hb, hb]

theorem get_write {m : Mem} (hw : m.wf = true) (hb : m.bad = []) (a : Nat) (l : Bytes) (x : Nat) :
    (m.write a l).get x = if a ≤ x ∧ x < a + l.length then l.getD (x - a) 0 else m.get x := by
  induction l generalizing m a with
  | nil =>
    have out : ¬ (a ≤ x ∧ x < a + 0) := by omega
    exact (if_neg out).symm
  | cons b r ih =>
    have fresh : (m.freshen (a / 8)).wf = true := freshen_wf _ _ hw
    have sound : ((m.freshen (a / 8)).put a b).bad = [] := write_bad_nil hb a [b]
    have kept : (m.freshen (a / 8)).get x = m.get x := get_freshen _ _ _ (by rw [err_of_bad_nil hb]; decide)
    rw [write, ih (put_wf _ _ _ fresh) sound, List.length_cons]
    by_cases hx : x = a
    · subst hx
      rw [if_neg (by omega), if_pos (by omega), get_put_same _ _ _ fresh, Nat.sub_self, List.getD_cons_zero]
    · rw [get_put_ne _ _ hx, kept]
      refine if_ctx_congr (by omega) (fun hin => ?_) fun _ => rfl
      have next : x - a = x - (a + 1) + 1 := by omega
      rw [next, List.getD_cons_succ]

/-- `m` with the weights of the paths `l` written into version slot `v` of dynamic ID 4,096 + d. -/
def withWeights (m : Mem) (d v : Nat) (weight : List Word) (l : List Nat) : Mem :=
  l.foldl (fun m p => m.write (dynamicAddr d v p) (le 4 (weight.getD p 0).toNat)) m

section
variable {m : Mem} (hw : m.wf = true) (hb : m.bad = []) (d v : Nat) (weight : List Word) (l : List Nat)
include hw hb

theorem get_withWeights_out {x : Nat} (hx : ∀ p ∈ l, x < dynamicAddr d v p ∨ dynamicAddr d v p + 4 ≤ x) :
    (m.withWeights d v weight l).get x = m.get x := by
  induction l generalizing m with
  | nil => rfl
  | cons p r ih =>
    have out := hx p (List.mem_cons_self ..)
    refine (ih (write_wf _ _ _ hw) (write_bad_nil hb _ _) fun q hq => hx q (List.mem_cons_of_mem _ hq)).trans ?_
    rw [get_write hw hb, le_len, if_neg (by omega)]

/-- Each path's word half is its own (R129), so that no weight written later touches it. -/
theorem get_withWeights_in {p i : Nat} (hp : p ∈ l) (hi : i < 4) :
    (m.withWeights d v weight l).get (dynamicAddr d v p + i) = (le 4 (weight.getD p 0).toNat).getD i 0 := by
  induction l generalizing m with
  | nil => cases hp
  | cons q r ih =>
    have hwf := write_wf m (dynamicAddr d v q) (le 4 (weight.getD q 0).toNat) hw
    have hbad := write_bad_nil hb (dynamicAddr d v q) (le 4 (weight.getD q 0).toNat)
    by_cases hr : p ∈ r
    · exact ih hwf hbad hr
    · obtain rfl : p = q := (List.mem_cons.mp hp).resolve_right hr
      have apart : ∀ q ∈ r, dynamicAddr d v p + i < dynamicAddr d v q ∨ dynamicAddr d v q + 4 ≤ dynamicAddr d v p + i := by
        intro q hq
        have hne : p ≠ q := fun e => hr (e ▸ hq)
        unfold dynamicAddr
        omega
      refine (get_withWeights_out hwf hbad d v weight r apart).trans ?_
      rw [get_write hw hb, le_len, if_pos (by omega), Nat.add_sub_cancel_left]

end

end Mem

namespace Hw

/-! ### Reservations (R24) -/

theorem onUnit_untouched {l : List (Nat × Nat)} {u : Nat} (hu : u ∉ touched l) : onUnit l u = 0 := by
  have none : l.filter (fun x => x.1 == u) = [] := by
    refine List.filter_eq_nil_iff.mpr fun x hx => ?_
    rw [beq_iff_eq]
    rintro rfl
    exact hu (List.mem_eraseDups.mpr (List.mem_map_of_mem hx))
  rw [onUnit, none]
  rfl

/-- What is held on a unit in a window after amounts were added on units of one window, each once. -/
theorem assoc_added {us : List Nat} (hn : us.Nodup) (k : Nat) (amount : Nat → Nat) (a : List ((Nat × Nat) × Nat)) (w u : Nat) :
    (assoc (w, u) (us.foldl (fun a u => assocSet (k, u) ((assoc (k, u) a).getD 0 + amount u) a) a)).getD 0 =
      (assoc (w, u) a).getD 0 + if w = k ∧ u ∈ us then amount u else 0 := by
  induction us generalizing a with
  | nil => simp
  | cons x r ih =>
    obtain ⟨hx, hr⟩ := List.nodup_cons.mp hn
    rw [List.foldl_cons, ih hr, assoc_assocSet]
    by_cases hwu : (w, u) = (k, x)
    · obtain ⟨rfl, rfl⟩ := Prod.ext_iff.mp hwu
      simp [hx]
    · have hne : w = k → u ≠ x := fun hw hu => hwu (by rw [hw, hu])
      rw [if_neg hwu]
      by_cases hw : w = k <;> simp [hw, hne]

theorem reserve_res (h : Hw) (k : Nat) (l : List (Nat × Nat)) (w u : Nat) :
    (assoc (w, u) (h.reserve k l).trl.res).getD 0 = (assoc (w, u) h.trl.res).getD 0 + if w = k then onUnit l u else 0 := by
  refine (assoc_added (nodup_eraseDups _) k (onUnit l) h.trl.res w u).trans (congrArg _ ?_)
  by_cases hu : u ∈ touched l
  · simp only [show u ∈ (l.map (·.1)).eraseDups from hu, and_true]
  · rw [onUnit_untouched hu, ite_self, ite_self]

/-! ### A message that stands on a control flow -/

/-- `h` with a message of flow `f` opened: the flow's sequence state noted, and no reason against it. -/
def openedOn (h : Hw) (f : Flow) (st : SeqState) : Hw :=
  h.onFhl fun x => { x with seqs := updN x.seqs f.id fun _ => st, cur := { reason := 0, flowId := f.id, eaxc := f.eaxc } }

section
variable {h : Hw} {m : MsgHdr} {f : Flow} {typ len : Nat} (hm : h.stands m (some f) typ len 0)
include hm

theorem stands_on_arrives : h.arrives m.port = true := by
  obtain ⟨h5, hl, hp, -⟩ := hm
  rcases hp with hp | hp
  · rw [hp] at hl ⊢
    exact arrives_portA h h5 hl
  · simp [arrives, h5, hl, hp]

theorem stands_on_layout : m.layout = [(typ, len, 0)] := by
  obtain ⟨-, -, -, -, -, -, -, -, -, -, -, hlay, -⟩ := hm
  exact hlay

theorem stands_on_announced : h.sta.k7.isSome = true := by
  obtain ⟨-, -, -, h7, -⟩ := hm
  exact h7

variable (ht : m.msgType = 2) (hd : f.dir = 2)
include ht hd

/-- The flow matches (R186). -/
theorem stands_on_matchFlow : h.matchFlow m = (0, f.id, f.eaxc) := by
  obtain ⟨-, -, -, -, -, -, -, -, -, -, -, -, hpc, hown, hflow, hport, hvlan, hfid, -⟩ := hm
  have hcmd : isCommand m = false := beq_eq_false_iff_ne.mpr hpc
  simp [matchFlow, hcmd, hown, hflow, ht, hd, hport, vlanOk, ← hvlan, hfid]

variable (hc : carrierOk 2 2 typ = true) (hr : ∀ p, recLength typ p = some len)
include hc hr

theorem stands_on_layoutOk : h.layoutOk m = true := by
  obtain ⟨-, -, -, -, -, -, -, hsize, -, -, hrec, hlay, hpc, -, hflow, -⟩ := hm
  have hcmd : isCommand m = false := beq_eq_false_iff_ne.mpr hpc
  simp [layoutOk, hcmd, hflow, ht, hd, hrec, hlay, hsize, sumL, hc, hr]

/-- The checks of such a message find nothing against it (R182 to R192). -/
theorem stands_on_checkMsg : ∃ st,
    h.checkMsg m = (h.onFhl fun x => { x with seqs := updN x.seqs f.id fun _ => st }, 0, f.id, f.eaxc) := by
  have hmatch := stands_on_matchFlow hm ht hd
  have hlay : ∀ st, (h.onFhl fun x => { x with seqs := updN x.seqs f.id fun _ => st }).layoutOk m = true :=
    fun _ => show h.layoutOk m = true from stands_on_layoutOk hm ht hd hc hr
  obtain ⟨-, -, -, -, hrev, hres, hcat, hsize, hav, hse, -, -, hpc, -, -, -, -, -, hep, hfresh⟩ := hm
  have hcmd : isCommand m = false := beq_eq_false_iff_ne.mpr hpc
  have hhead : headOk m = true := headOk_true hrev hres hcat (by omega) hav
  have hepoch : (m.epoch % 16 != h.epochAt (h.msgTick m)) = false := by simp [hep]
  obtain ⟨st, hst⟩ : ∃ st, (if h.fromHead m then some (getN h.fhl.seqs f.id {}) else
      seqCheck (getN h.fhl.seqs f.id {}) (m.seq % 256)) = some st := by
    split
    · exact ⟨_, rfl⟩
    · exact seqCheck_fresh hfresh
  refine ⟨st, ?_⟩
  simp only [checkMsg, hhead, hmatch, hcmd, hepoch, hse, hst, hlay, Bool.not_true, Bool.not_false, Bool.and_false, Bool.false_eq_true,
    ne_eq, not_true, if_true, if_false]

theorem stands_on_openMsg : ∃ st, h.openMsg m 0 = h.openedOn f st := by
  obtain ⟨st, hst⟩ := stands_on_checkMsg hm ht hd hc hr
  have h7 : h.announced7 = true := stands_on_announced hm
  refine ⟨st, ?_⟩
  simp only [openMsg, h7, hst, ne_eq, not_true, if_false, Bool.not_true, Bool.false_eq_true]
  rfl

/-- The one record of a message that stands on a control flow is judged by its row. -/
theorem stands_on_judge (row : Hw → Nat → Hw × Nat) : ∃ st,
    h.judge m 0 typ 2 row = ((row (h.openedOn f st) (h.msgTick m)).1.closeRec m 0 typ (row (h.openedOn f st) (h.msgTick m)).2,
      (row (h.openedOn f st) (h.msgTick m)).2) := by
  have harr := stands_on_arrives hm
  have hlay := stands_on_layout hm
  have announced := stands_on_announced hm
  obtain ⟨st, hst⟩ := stands_on_openMsg hm ht hd hc hr
  refine ⟨st, ?_⟩
  have h7 : (h.openedOn f st).announced7 = true := announced
  have hreason : (h.openedOn f st).fhl.cur.reason = 0 := rfl
  have htick : (h.openedOn f st).msgTick m = h.msgTick m := rfl
  simp only [judge, harr, ht, hlay, hst, h7, hreason, htick, ne_eq, not_true, if_false, Bool.not_true, Bool.false_eq_true,
    List.getElem?_cons_zero, Option.map_some, beq_self_eq_true, Bool.and_self]

end

/-! ### Admission of a load (R130, R195, R201) -/

/-- A version of dynamic ID 4,096 + d is stored whose tick is e or later. -/
def dynStored (h : Hw) (d e : Nat) : Bool := (h.dynTags d).any (e ≤ ·)

theorem dynStored_iff (h : Hw) (d e : Nat) :
    h.dynStored d e = true ↔ ∃ i t, i < 2 ∧ assoc (2 * d + i) h.mas.tags = some t ∧ e ≤ t := by
  have slots : ∀ i : Nat, i ∈ [0, 1] ↔ i < 2 := by simp; omega
  simp only [dynStored, dynTags, List.any_eq_true, List.mem_filterMap, decide_eq_true_eq, slots]
  exact ⟨fun ⟨t, ⟨i, hi, htag⟩, hle⟩ => ⟨i, t, hi, htag, hle⟩, fun ⟨i, t, hi, htag, hle⟩ => ⟨t, ⟨i, hi, htag⟩, hle⟩⟩

theorem dynEnabled_iff (h : Hw) (b : Nat) : h.dynEnabled b = true ↔ ∃ x ∈ h.image.dynEnable, x.1 ≤ b ∧ b < x.1 + x.2 := by
  simp [dynEnabled]

/-- The version slot that a load goes into: an empty one, else that of the earlier tick (R130). -/
theorem dynTarget_eq (h : Hw) (d : Nat) :
    h.dynTarget d = if assoc (2 * d + 0) h.mas.tags = none then 0 else if assoc (2 * d + 1) h.mas.tags = none then 1
      else if (assoc (2 * d + 0) h.mas.tags).getD 0 < (assoc (2 * d + 1) h.mas.tags).getD 0 then 0 else 1 := by
  unfold dynTarget dynTag
  cases assoc (2 * d + 0) h.mas.tags <;> cases assoc (2 * d + 1) h.mas.tags <;> rfl

/-- The reasons against a load for tick e under the slot `sl`, in the order of R201. -/
def loadReasons (h : Hw) (r : WeightRec) (e : Nat) (sl : Slot) : List Nat :=
  [ifBad (h.before7 e) 10, ifBad (decide (h.tickAt (e - 2) ≤ h.tim.c)) 1, ifBad (h.leadAbove e h.tim.c sl.earlyLimit) 2,
    ifBad (h.stageForbids 0x11 || h.isFoothill (h.slotAt e)) 10, ifBad (decide (r.beam < 4096)) 8,
    ifBad (decide (4608 ≤ r.beam) || !h.dynEnabled r.beam) 12, ifBad (h.dynStored (r.beam - 4096) e) 8,
    ifBad (h.dynInUse (r.beam - 4096) || h.controlFull) 4]

/-- `h` with a load taken: its version slot tagged with tick e, and its charge reserved in the window of e. -/
def withLoad (h : Hw) (r : WeightRec) (e : Nat) : Hw :=
  (h.reserve e (h.charges e 3 1 [])).onMas fun m => { m with
    tags := sortBy (·.1) (assocSet (2 * (r.beam - 4096) + h.dynTarget (r.beam - 4096)) e m.tags) }

section
variable {h : Hw} {r : WeightRec} {e : Nat} {sl : Slot} (hsl : h.recAt e = some sl)
include hsl

theorem admitWeights_refused {reason : Nat} (hr : firstReason (h.loadReasons r e sl) = reason) (h0 : reason ≠ 0) :
    h.admitWeights r e = (h, reason) := by
  subst hr
  rw [admitWeights, hsl]
  exact if_pos h0

theorem admitWeights_admitted (hr : firstReason (h.loadReasons r e sl) = 0) (hb : h.budgetFails [(e, h.charges e 3 1 [])] = none) :
    h.admitWeights r e = (h.withLoad r e, 0) := by
  rw [admitWeights, hsl]
  simp only [hb]
  exact if_neg (not_not.mpr hr)

theorem loadReason_eq {k7 : Nat} (h7 : h.sta.k7 = some k7) : firstReason (h.loadReasons r e sl) =
    if e < k7 then 10
    else if h.tickAt (e - 2) ≤ h.tim.c then 1
    else if (sl.earlyLimit * 98304 : Int) < (h.tickAt e : Int) * 100000 - h.tim.c * 100000 then 2
    else if h.sta.stage < 8 ∨ sl.kind = 4 then 10
    else if r.beam < 4096 then 8
    else if 4608 ≤ r.beam ∨ h.dynEnabled r.beam = false then 12
    else if h.dynStored (r.beam - 4096) e = true then 8
    else if h.dynInUse (r.beam - 4096) = true ∨ 2048 ≤ h.fhl.control.length then 4 else 0 := by
  have hslot : h.slotRec (h.slotAt e) = some sl := hsl
  unfold loadReasons
  simp (disch := decide) only [firstReason_ifBad]
  simp [before7, h7, leadAbove, tickFine, nsFine, stageForbids, onlyS8, isFoothill, hslot, controlFull, firstReason]

end

/-- With sound memory a load is written without a note: no merging read and no lost half (R130, R360). -/
theorem writeWeights_sound (h : Hw) {m : Mem} (hb : m.bad = []) (r : WeightRec) (v : Nat) :
    h.writeWeights m r v = (h, m.withWeights (r.beam - 4096) v r.weight (List.range 64)) := by
  unfold writeWeights Mem.withWeights
  induction List.range 64 generalizing m with
  | nil => rfl
  | cons p l ih =>
    have sound : m.anyUe (dynamicAddr (r.beam - 4096) v p) 4 = false :=
      List.any_eq_false.mpr fun w _ => by rw [Mem.err_of_bad_nil hb w]; decide
    have still : h.noteMerge m (dynamicAddr (r.beam - 4096) v p) 4 = h :=
      each_still h _ _ fun w _ => by rw [Mem.err_of_bad_nil hb w]
    rw [List.foldl_cons, List.foldl_cons]
    simp only [sound, still]
    exact ih (Mem.write_bad_nil hb _ _)

end Hw

/-! ### The record's next state -/

/-- An effect that leaves the registers settled is the next state as it stands, memories included. -/
theorem okM_settled {s : State} {dt : Nat} {h g : Hw} {mem : Mem} {f : Hw → Mem → Hw × Mem} (he : s.hw.elapse dt = h)
    (hf : f h s.mem = (g, mem)) (hg : g.Settled) : okM s dt f = .next { s with hw := g, mem := mem } := by
  rw [okM_becomes he hf, Hw.settle_of_settled _ hg]

theorem exec_weightLoad (s : State) (dt : Nat) (m : MsgHdr) (r : WeightRec) :
    exec (.weightLoad dt m 0 r) s = execWeightLoad dt m 0 r s := rfl

section
variable {s : State} {dt : Nat} {m : MsgHdr} {r : WeightRec} {f : Flow} {sl : Slot} {h : Hw} (he : s.hw.elapse dt = h) (hs : h.Settled)
  (hm : h.stands m (some f) 0x11 264 0) (ht : m.msgType = 2) (hd : f.dir = 2) (hsl : h.recAt (h.msgTick m) = some sl)
include he hs hm ht hd hsl

/-- A load against which there is a reason is refused for it, and nothing is written. -/
theorem exec_weightLoad_refused {reason : Nat} (hr : Hw.firstReason (h.loadReasons r (h.msgTick m) sl) = reason) (h0 : reason ≠ 0) :
    ∃ t, exec (.weightLoad dt m 0 r) s = .next t ∧ t.pending = s.pending ∧ t.mem = s.mem ∧ h.refused t.hw m reason f.eaxc f.id 0 0x11 := by
  obtain ⟨st, hst⟩ := Hw.stands_on_judge hm ht hd rfl (fun _ => rfl) fun h k => h.admitWeights r k
  have hadm : (h.openedOn f st).admitWeights r (h.msgTick m) = (h.openedOn f st, reason) :=
    Hw.admitWeights_refused (h := h.openedOn f st) hsl hr h0
  have single : m.layout.length = 1 := by rw [Hw.stands_on_layout hm]; rfl
  have href : h.refused ((h.openedOn f st).closeRec m 0 0x11 reason) m reason f.eaxc f.id 0 0x11 :=
    Hw.closeRec_refused (h.openedOn f st) m 0x11 reason single h0 rfl
  rw [hadm] at hst
  refine ⟨_, (exec_weightLoad ..).trans (okM_settled he (mem := s.mem) ?_ (Hw.refused_settled href hs)), rfl, rfl, href⟩
  simp only [hst, h0, if_false]

/-- A load against which there is none, within the budget, is taken and written. -/
theorem exec_weightLoad_admitted (hb : s.mem.bad = []) (hr : Hw.firstReason (h.loadReasons r (h.msgTick m) sl) = 0)
    (hfit : h.budgetFails [(h.msgTick m, h.charges (h.msgTick m) 3 1 [])] = none) : ∃ (seqs : Vector SeqState 129) (cur : Cur),
    exec (.weightLoad dt m 0 r) s = .next { s with
      hw := (h.withLoad r (h.msgTick m)).onFhl fun x => { x with seqs := seqs, cur := cur }
      mem := s.mem.withWeights (r.beam - 4096) (h.dynTarget (r.beam - 4096)) r.weight (List.range 64) } := by
  obtain ⟨st, hst⟩ := Hw.stands_on_judge hm ht hd rfl (fun _ => rfl) fun h k => h.admitWeights r k
  have hadm : (h.openedOn f st).admitWeights r (h.msgTick m) = ((h.openedOn f st).withLoad r (h.msgTick m), 0) :=
    Hw.admitWeights_admitted (h := h.openedOn f st) hsl hr hfit
  have single : m.layout.length = 1 := by rw [Hw.stands_on_layout hm]; rfl
  obtain ⟨c, hclosed⟩ := Hw.closeRec_accepted ((h.openedOn f st).withLoad r (h.msgTick m)) m 0x11 single rfl
  rw [hadm, hclosed] at hst
  refine ⟨updN h.fhl.seqs f.id fun _ => st, c, (exec_weightLoad ..).trans (okM_settled he ?_ hs)⟩
  simp only [hst, if_true]
  exact Hw.writeWeights_sound _ hb r _

end

/-- Settles O52: the record stands on its flow, so a load's own reasons decide, in their order; where there is none its 64 word halves are
written, each its own. -/
theorem weightLoads : Obligations.WeightLoads := by
  intro s dt k7 m r f sl hs hw hb h7 h8 h e lead d tag v charge ht hd hm hsl hkind hk refused
  have hsh : h.Settled := Hw.elapse_settled _ hs dt
  have sta : h.sta = { s.hw.sta with since := s.hw.sta.since + dt } := Hw.elapse_sta ..
  have h7' : h.sta.k7 = some k7 := by rw [sta]; exact h7
  have h8' : ¬ (h.sta.stage < 8 ∨ sl.kind = 4) := by
    rw [sta]
    exact not_or.mpr ⟨Nat.not_lt.mpr h8, hkind⟩
  have answers : ∀ reason, Hw.firstReason (h.loadReasons r e sl) = reason → reason ≠ 0 → refused reason := fun _ =>
    exec_weightLoad_refused rfl hsh hm ht hd hsl
  have hreason := Hw.loadReason_eq (r := r) hsl h7'
  rw [if_neg (Nat.not_lt.mpr hk)] at hreason
  refine ⟨fun hlate => answers 1 ?late (by decide), fun hin hearly => ?_⟩
  case late => rw [hreason, if_pos hlate]
  rw [if_neg (Nat.not_le.mpr hin), if_neg (not_lt.mpr hearly), if_neg h8'] at hreason
  refine ⟨fun hstatic => answers 8 ?static (by decide), fun hdyn hno => answers 12 ?absent (by decide), fun hdyn hlt hen => ?_⟩
  case static => rw [hreason, if_pos hstatic]
  all_goals rw [if_neg (Nat.not_lt.mpr hdyn)] at hreason
  case absent =>
    rw [hreason, if_pos]
    rwa [← h.dynEnabled_iff, not_and_or, Nat.not_lt, Bool.not_eq_true] at hno
  rw [if_neg (by rw [(h.dynEnabled_iff _).mpr hen]; simp [hlt])] at hreason
  refine ⟨fun hstored => answers 8 ?stored (by decide), fun hnew => ?_⟩
  case stored => rw [hreason, if_pos ((h.dynStored_iff d e).mpr hstored)]
  have fresh : ¬ h.dynStored d e = true := fun hst => by
    obtain ⟨i, t, hi, htag, hle⟩ := (h.dynStored_iff d e).mp hst
    exact Nat.not_lt.mpr hle (hnew i t hi htag)
  rw [if_neg fresh] at hreason
  refine ⟨fun huse => answers 4 ?used (by decide), fun huse hroom hfit => ?_⟩
  case used => rw [hreason, if_pos (.inl huse)]
  rw [if_neg (by rw [huse]; simpa using hroom)] at hreason
  have slot : h.dynTarget d = v := h.dynTarget_eq d
  obtain ⟨seqs, cur, hexec⟩ := exec_weightLoad_admitted rfl hsh hm ht hd hsl hb hreason hfit
  refine ⟨_, hexec, rfl, rfl, fun j => ?tags, fun w u => h.reserve_res e charge w u, fun p i hp hi => ?written, fun a ha => ?rest⟩
  case tags =>
    rw [← slot]
    exact (assoc_sortBy ..).trans (assoc_assocSet ..)
  case written =>
    rw [← slot]
    exact Mem.get_withWeights_in hw hb d _ r.weight _ (List.mem_range.mpr hp) hi
  case rest =>
    rw [← slot] at ha
    exact Mem.get_withWeights_out hw hb d _ r.weight _ fun p hp => ha p (List.mem_range.mp hp)

end Sys2Proof.Machine
end

section
/-! An engine's writes of the predistorter banks and of their control registers (R146 to R151, R159). Settles O38. -/
namespace Sys2Proof.Machine
namespace Hw

/-! ### Entries of a bank -/

theorem getBank_setBank (d : Dpd) (b : Bool) (w : List (Nat × Word)) : getBank (setBank d b w) b = w := by
  cases b <;> rfl

/-- A word put into an entry is found there, also a zero, which the bank does not list; every other entry stays. -/
theorem getEntry_putEntry (d : Dpd) (b : Bool) (e k : Nat) (w : Word) :
    getEntry (putEntry d b e w) b k = if k = e then w else getEntry d b k := by
  have rest : assoc k ((getBank d b).filter fun x => x.1 ≠ e) = if k = e then none else assoc k (getBank d b) := by
    split
    · next hk =>
      subst hk
      exact assoc_none _ _ fun c hc => by simpa using List.of_mem_filter hc
    · next hk => exact Mem.assoc_filter _ k (fun v => by simpa using hk) _
  simp only [getEntry, putEntry, getBank_setBank]
  by_cases hw : w = 0
  · rw [if_pos hw, rest, hw]
    split <;> rfl
  · rw [if_neg hw, assoc_sortBy, assoc, rest]
    by_cases hk : k = e
    · simp [hk]
    · rw [if_neg (Ne.symm hk), if_neg hk, if_neg hk]

/-! ### What a command makes of a path's predistorter -/

/-- The predistorter of path n set. -/
def withDpd (h : Hw) (n : Nat) (y : Dpd) : Hw := { h with paths := updN h.paths n fun p => { p with dpd := y } }

/-- A change of a path's predistorter sets it to what the change makes of the one that the path has. -/
theorem onPath_dpd (h : Hw) (n : Nat) (f : Dpd → Dpd) :
    (h.onPath n fun p => { p with dpd := f p.dpd }) = h.withDpd n (f (h.path n).dpd) := by
  rw [onPath, withDpd, updN_const h.paths n _ {}, updN_const h.paths n (fun p => { p with dpd := f (h.path n).dpd }) {}]
  rfl

/-- One more dropped write (R146). -/
def writeDropped (d : Dpd) : Dpd := { d with dropped := inc d.dropped }

/-- Entry `e` of the shadow holds `w` under sound parity (R146, R150), as the quanta `by_` wrote it (R149). -/
def shadowWritten (by_ : List Nat) (e : Nat) (w : Word) (d : Dpd) : Dpd :=
  { putEntry d (!d.active) e w with
    writers := noted by_ d.writers
    badPar := d.badPar.filter fun x => !(x.1 != d.active && x.2 / 4 == e) }

/-- A store into the shadow window: written while the shadow is ready and no switch is pending, and else dropped (R146, R148). -/
def shadowStored (by_ : List Nat) (e : Nat) (w : Word) (d : Dpd) : Dpd :=
  if !d.shadowReady || d.switchPending then writeDropped d else shadowWritten by_ e w d

section
variable (by_ : List Nat) (e : Nat) (w : Word) {d : Dpd}

theorem shadowStored_open (hr : d.shadowReady = true) (hp : d.switchPending = false) :
    shadowStored by_ e w d = shadowWritten by_ e w d := by
  rw [shadowStored, hr, hp]
  rfl

theorem shadowStored_shut (h : d.shadowReady = false ∨ d.switchPending = true) : shadowStored by_ e w d = writeDropped d :=
  if_pos (by rcases h with h | h <;> simp [h])

variable (d)

theorem shadowWritten_frame : shadowWritten by_ e w d = { d with
    bank0 := (shadowWritten by_ e w d).bank0, bank1 := (shadowWritten by_ e w d).bank1, writers := noted by_ d.writers
    badPar := d.badPar.filter fun x => !(x.1 != d.active && x.2 / 4 == e) } := by
  simp only [shadowWritten, putEntry, setBank]
  split <;> rfl

theorem shadowWritten_active :
    if d.active then (shadowWritten by_ e w d).bank1 = d.bank1 else (shadowWritten by_ e w d).bank0 = d.bank0 := by
  cases ha : d.active <;> simp [shadowWritten, putEntry, setBank, ha]

theorem shadowWritten_entry (k : Nat) :
    (assoc k (if d.active then (shadowWritten by_ e w d).bank0 else (shadowWritten by_ e w d).bank1)).getD 0 =
      if k = e then w else (assoc k (if d.active then d.bank0 else d.bank1)).getD 0 := by
  have shadow : ∀ x : Dpd, getBank x (!d.active) = if d.active then x.bank0 else x.bank1 := fun x => by cases d.active <;> rfl
  have entry := getEntry_putEntry d (!d.active) e k w
  rwa [getEntry, getEntry, shadow, shadow] at entry

end

/-- The mask of a whole word covers each of its bytes. -/
theorem wordMask_byte (i : Nat) : (0xFFFFFFFF / 256 ^ (i % 4) % 256 == 255) = true :=
  (by decide : ∀ j : Fin 4, (0xFFFFFFFF / 256 ^ j.val % 256 == 255) = true) ⟨i % 4, Nat.mod_lt _ (by decide)⟩

/-- A word stored under the mask of a whole word takes the place of the old one. -/
theorem storeWord_whole (old w : Word) :
    BitVec.ofNat 32 ((old.toNat &&& (0xFFFFFFFF ^^^ 0xFFFFFFFF)) ||| (w.toNat &&& 0xFFFFFFFF)) = w := by
  rw [Nat.xor_self, Nat.and_zero, Nat.zero_or, show (0xFFFFFFFF : Nat) = 2 ^ 32 - 1 from rfl, Nat.and_two_pow_sub_one_eq_mod,
    Nat.mod_eq_of_lt w.isLt, BitVec.ofNat_toNat, BitVec.setWidth_eq]

theorem dpdStore_word (h : Hw) (by_ : List Nat) (n e : Nat) (w : Word) : h.dpdStore by_ n e 0xFFFFFFFF w.toNat =
    h.onPath n fun p => { p with dpd := shadowStored by_ e w p.dpd } := by
  have parity : ∀ (d : Dpd) (x : Bool × Nat),
      (!(x.1 == !d.active && x.2 / 4 == e && 0xFFFFFFFF / 256 ^ (x.2 % 4) % 256 == 255)) =
        !(x.1 != d.active && x.2 / 4 == e) := fun d x => by
    rw [wordMask_byte, Bool.and_true]
    cases x.1 <;> cases d.active <;> rfl
  have kept : ∀ (d : Dpd) (b : Bool) (v : Word), (putEntry d b e v).writers = d.writers ∧ (putEntry d b e v).badPar = d.badPar :=
    fun d b v => by cases b <;> exact ⟨rfl, rfl⟩
  unfold dpdStore
  congr 1
  funext p
  by_cases hd : (!p.dpd.shadowReady || p.dpd.switchPending) = true
  · simp only [shadowStored, if_pos hd]
    rfl
  · simp only [shadowStored, if_neg hd, storeWord_whole, parity, kept]
    rfl

/-- A switch request, noted as of the quanta `by_` (R147, R149). -/
def switchAsked (by_ : List Nat) (d : Dpd) : Dpd :=
  { d with switchPending := true, posters := noted (if by_.isEmpty then [256] else by_) d.posters, asked := true }

/-- LOAD_INIT, `now` in a round of the path that has not asked before (R151, R159). -/
def initAsked (now : Bool) (d : Dpd) : Dpd := { d with loadPending := true, badRounds := 0, asked := d.asked || now }

/-- The scheduler is in a round of path n that has not asked before (R159). -/
def freshRound (h : Hw) (n : Nat) : Bool :=
  (h.quad (n / 4)).obs.state == 3 && (h.quad (n / 4)).obs.cur == n % 4 && !(h.path n).dpd.asked

/-- LOAD_INIT is noted, and is an alarm after three rounds without a switch (R159). -/
theorem dpdAskInit_eq (h : Hw) (n : Nat) : h.dpdAskInit n =
    (h.withDpd n (initAsked (h.freshRound n) (h.path n).dpd)).whenB
      (decide (3 ≤ (h.path n).dpd.badRounds + b2n (h.freshRound n))) fun h => h.alarm 0x0604 n := by
  rw [← onPath_dpd]
  rfl

/-- The DPD_ADAPT quantum that an engine's job is (R149, Table 15.16). -/
theorem dpdBy_eq (h : Hw) (e : EngId) : h.dpdBy e =
    match (h.eng e).job with
    | some j => if j.w0.toNat % 65536 = 0x0100 then [16 * e.val + j.w0.toNat / 65536 % 256 % 16] else []
    | none => [] := by
  rw [dpdBy, ← eng]
  cases (h.eng e).job with
  | none => rfl
  | some j => simp only [dpdKey, bits_type, bits_unit]

end Hw

/-! ### The commands -/

section
variable {s : State} {dt : Nat} {h : Hw} (he : s.hw.elapse dt = h) (hs : h.Settled)
include he hs

/-- An effect on one path's predistorter, under a condition that holds. -/
theorem ok_when_dpd (c : Hw → Bool) (f : Hw → Hw) (n : Nat) (g : Dpd → Dpd) (hc : c h = true)
    (hf : f h = h.onPath n fun p => { p with dpd := g p.dpd }) :
    ok s dt (fun h => h.whenB (c h) f) = .next { s with hw := h.withDpd n (g (h.path n).dpd) } := by
  subst he
  exact ok_when s dt hc (hf.trans (Hw.onPath_dpd ..)) hs

variable {e : EngId} (hr : h.engRuns e = true) (n : PathId)

theorem exec_dpdActiveWrite (on : h.engOn = true) (table : Fin 24) (entry : Fin 256) (w : Word) :
    exec (.dpdActiveWrite dt n table entry w) s = .next { s with hw := h.withDpd n (Hw.writeDropped (h.path n).dpd) } :=
  ok_when_dpd he hs Hw.engOn (fun g => g.dpdActiveStore n) n Hw.writeDropped on rfl

theorem exec_dpdBankCopyDone :
    exec (.dpdBankCopyDone dt n) s = .next { s with hw := h.withDpd n { (h.path n).dpd with shadowReady := true } } :=
  ok_when_dpd he hs (fun _ => true) (fun g => g.onPath n fun p => { p with dpd := { p.dpd with shadowReady := true } }) n
    (fun d => { d with shadowReady := true }) rfl rfl

include hr

theorem exec_dpdShadowWrite (table : Fin 24) (entry : Fin 256) (w : Word) : exec (.dpdShadowWrite dt e n table entry w) s =
    .next { s with hw := h.withDpd n (Hw.shadowStored (h.dpdBy e) (table.val * 256 + entry.val) w (h.path n).dpd) } :=
  ok_when_dpd he hs (·.engRuns e) (fun g => g.dpdStore (g.dpdBy e) n (table.val * 256 + entry.val) 0xFFFFFFFF w.toNat) n
    (Hw.shadowStored (h.dpdBy e) (table.val * 256 + entry.val) w) hr (Hw.dpdStore_word ..)

theorem exec_dpdSwitchRequest : exec (.dpdSwitchRequest dt e n) s =
    .next { s with hw := h.withDpd n (Hw.switchAsked (h.dpdBy e) (h.path n).dpd) } :=
  ok_when_dpd he hs (·.engRuns e) (fun g => g.dpdRequest (g.dpdBy e) n) n (Hw.switchAsked (h.dpdBy e)) hr rfl

/-- LOAD_INIT before the third round without a switch raises nothing. -/
theorem exec_dpdLoadInit_quiet (hlt : (h.path n).dpd.badRounds + b2n (h.freshRound n) < 3) : exec (.dpdLoadInit dt e n) s =
    .next { s with hw := h.withDpd n (Hw.initAsked (h.freshRound n) (h.path n).dpd) } := by
  subst he
  refine ok_when s dt (c := (·.engRuns e)) (f := (·.dpdAskInit n)) hr ?_ hs
  rw [Hw.dpdAskInit_eq, decide_eq_false (Nat.not_le.mpr hlt), Hw.whenB_false]

/-- From the third one on it raises DPD_DIVERGED (R159). -/
theorem exec_dpdLoadInit_diverged (hle : 3 ≤ (h.path n).dpd.badRounds + b2n (h.freshRound n)) :
    ∃ t, exec (.dpdLoadInit dt e n) s = .next t ∧ t.pending = s.pending ∧ t.mem = s.mem ∧
      t.hw = (h.withDpd n (Hw.initAsked (h.freshRound n) (h.path n).dpd)).told t.hw ∧ t.hw.newest 0x0604 n := by
  subst he
  refine ⟨_, ok_whenB s dt (c := (·.engRuns e)) (f := (·.dpdAskInit n)) hr, rfl, rfl, ?_⟩
  dsimp only
  rw [Hw.dpdAskInit_eq, decide_eq_true hle, Hw.whenB_true]
  exact Hw.alarm_settle _ 0x0604 n 0 hs.1 rfl

end

/-- Settles O38: each command by what it makes of the path's predistorter, and the alarm that LOAD_INIT may raise. -/
theorem dpdBankWrites : Obligations.DpdBankWrites := by
  intro s dt e n table entry value hs h5 h d key set_ quantum noted asker dropped
  have he : s.hw.elapse dt = h := rfl
  have hsh : h.Settled := Hw.elapse_settled _ hs dt
  have on : h.engOn = true := by simp [Hw.engOn, h, h5]
  have runs : (h.eng e).state = 1 → h.engRuns e = true := fun hr => by simp [Hw.engRuns, on, hr]
  have hq : h.dpdBy e = quantum := Hw.dpdBy_eq h e
  have hpath : ∀ y : Dpd, ((set_ y).hw.path n).dpd = y := fun y =>
    congrArg Path.dpd (getN_updN_same h.paths (fun p => { p with dpd := y }) {} n.isLt)
  refine ⟨fun hr hready hpend => ?written, fun hr hshut => ?shut, ?active, ?copied, fun hr => ?asked, ?load⟩
  case written =>
    have hexec := exec_dpdShadowWrite he hsh (runs hr) n table entry value
    rw [hq, Hw.shadowStored_open _ _ _ hready hpend] at hexec
    refine ⟨set_ (Hw.shadowWritten quantum key value d), hexec, ?_⟩
    rw [hpath]
    exact ⟨congrArg set_ (Hw.shadowWritten_frame ..), Hw.shadowWritten_active .., fun k => Hw.shadowWritten_entry ..⟩
  case shut =>
    rw [exec_dpdShadowWrite he hsh (runs hr), Hw.shadowStored_shut _ _ _ hshut]
    rfl
  case active => exact exec_dpdActiveWrite he hsh n on table entry value
  case copied => exact exec_dpdBankCopyDone he hsh n
  case asked =>
    have hasker : (if quantum.isEmpty then [256] else quantum) = asker := if_congr List.isEmpty_iff rfl rfl
    rw [exec_dpdSwitchRequest he hsh (runs hr), hq, Hw.switchAsked, hasker]
    rfl
  case load =>
    intro o now rounds loads
    have hnow : h.freshRound n = decide now := Bool.eq_iff_iff.mpr (by simp [Hw.freshRound, now, o, d, and_assoc])
    have hrounds : (h.path n).dpd.badRounds + b2n (h.freshRound n) = rounds := by simp [hnow, b2n, rounds, d]
    have hloads : loads.hw = h.withDpd n (Hw.initAsked (h.freshRound n) (h.path n).dpd) := by rw [hnow]; rfl
    refine ⟨fun hr hlt => ?_, fun hr hle => ?_⟩
    · rw [exec_dpdLoadInit_quiet he hsh (runs hr) n (hrounds ▸ hlt), ← hloads]
    · rw [hloads]
      exact exec_dpdLoadInit_diverged he hsh (runs hr) n (hrounds ▸ hle)

end Sys2Proof.Machine
end

section
/-! Words of the work area found with errors (R178, R356 to R358), and the occasion of a command among the others. -/
namespace Sys2Proof.Machine

/-! ### A word found with an error -/

namespace Mem

theorem contains_insertNum (a : Nat) (l : List Nat) : (insertNum a l).contains a = true := by
  induction l with
  | nil => simp [insertNum]
  | cons k r ih =>
    unfold insertNum
    split
    · simp
    · split
      · next hk => simp [hk]
      · rw [List.contains_cons, ih, Bool.or_true]

/-- In sound memory the error found is the one that the word then has. -/
theorem err_spoil {m : Mem} (hb : m.bad = []) (w : Nat) (ue : Bool) : (m.spoil w ue).err w = some ue := by
  have sound : ¬ m.err w = some true := by simp [err_of_bad_nil hb]
  simp only [spoil, if_neg sound]
  rw [err, if_pos (contains_insertNum ..)]
  simp [hb, insertBad, assoc]

end Mem

namespace Hw

/-- `h` with its counts of memory errors and what waits for HC0 replaced. -/
def withErrors (h : Hw) (v : Vector SMem 45) (p : List Happening) : Hw := { h with smem := v, lko := { h.lko with pend := p } }

/-- From `g` to `h` no more than memory errors has been noted. -/
def ErrorsOnly (g h : Hw) : Prop := ∃ v p, h = g.withErrors v p

theorem noteWord_errorsOnly {g h : Hw} (e : ErrorsOnly g h) (w : Nat) (ue : Bool) : ErrorsOnly g (h.noteWord w ue) := by
  obtain ⟨v, p, rfl⟩ := e
  unfold noteWord
  split
  · exact ⟨v, p, rfl⟩
  · dsimp only
    split
    · refine whenB_induct (P := ErrorsOnly g) ?_ ?_ <;> exact ⟨_, _, rfl⟩
    · exact ⟨_, _, rfl⟩

/-- HC0's taking of what was noted (R400). -/
theorem settle_withErrors (g : Hw) (v : Vector SMem 45) (p : List Happening) :
    (g.withErrors v p).settle = ({ g with smem := (g.withErrors v p).settle.smem } : Hw).told (g.withErrors v p).settle := by
  rw [settle_smem]
  exact settle_told { g with smem := v } p _ rfl

section
variable (h : Hw) {w j : Nat} (hj : secded (8 * w) = some j) (h45 : j < 45)
include hj h45

/-- An uncorrectable word is counted in its memory (R358). -/
theorem noteWord_ue : (getN (h.noteWord w true).smem j {}).ue = min (2 ^ 32 - 1) ((getN h.smem j {}).ue + 1) := by
  have counted : ∀ h' : Hw, (h'.whenB (!(getN h.smem j {}).ueFrame) fun h => h.alarm 0x0A03 j (8 * w)).smem = h'.smem :=
    fun h' => whenB_keep Hw.smem h' _ _ rfl
  simp only [noteWord, hj, if_true, counted, getN_updN_same _ _ _ h45]
  rfl

/-- A corrected word is counted in its memory (R357). -/
theorem noteWord_corr : (getN (h.noteWord w false).smem j {}).corr = min (2 ^ 32 - 1) ((getN h.smem j {}).corr + 1) := by
  simp only [noteWord, hj, Bool.false_eq_true, if_false, getN_updN_same _ _ _ h45]
  split
  · rfl
  · split <;> rfl

end

/-! ### The words that a command names -/

theorem workMet_sound {m : Mem} (hb : m.bad = []) (o : Occasion) (ue : List WorkUe) : workMet m o ue = [] := by
  rw [workMet, hb]
  rfl

theorem workErrors_nil (h : Hw) (m : Mem) : h.workErrors m [] = (h, m) := rfl

theorem workErrors_cells (h : Hw) (m : Mem) (l : List WorkUe) : (h.workErrors m l).2.cells = m.cells :=
  List.foldlRecOn l _ (motive := fun x : Mem => x.cells = m.cells) rfl fun _ hx _ _ => hx

theorem workErrors_errorsOnly (h : Hw) (m : Mem) (l : List WorkUe) : ErrorsOnly h (h.workErrors m l).1 := by
  refine each_induct (P := ErrorsOnly h) (fun g x _ e => ?_) ⟨h.smem, h.lko.pend, rfl⟩
  split
  · exact noteWord_errorsOnly e _ _
  · exact e

section
variable {m : Mem} (hb : m.bad = []) (h : Hw) (e : WorkUe)
include hb

theorem workErrors_one : h.workErrors m [e] = (h.noteWord (e.address / 8) (!e.corrected), m.spoil (e.address / 8) (!e.corrected)) := by
  simp [workErrors, Mem.err_spoil hb]

theorem workErrors_err : (h.workErrors m [e]).2.err (e.address / 8) = some (!e.corrected) := by
  rw [workErrors_one hb]
  exact Mem.err_spoil hb _ _

end

/-- `g` with what the noting of the words `ue` in `h` leaves. -/
def found (h : Hw) (m : Mem) (ue : List WorkUe) (g : Hw) : Hw := g.withErrors (h.workErrors m ue).1.smem (h.workErrors m ue).1.lko.pend

theorem workErrors_eq (h : Hw) (m : Mem) (ue : List WorkUe) : (h.workErrors m ue).1 = h.found m ue h := by
  obtain ⟨v, p, e⟩ := h.workErrors_errorsOnly m ue
  rw [found, e]
  rfl

section
variable (h g : Hw) (m : Mem) (ue : List WorkUe)

/-- HC0 has told of the errors, and besides only their counts have changed. -/
theorem found_told {g' : Hw} (e : g = g') :
    (h.found m ue g).settle = ({ g' with smem := (h.found m ue g).settle.smem } : Hw).told (h.found m ue g).settle := by
  subst e
  exact settle_withErrors g _ _

theorem found_sound {g' : Hw} (e : g = g') (hg : g.Settled) (hp : h.lko.pend = []) :
    (h.found m [] g).settle = { g' with smem := h.smem } := by
  subst e
  obtain ⟨hpend, rest⟩ := hg
  have same : h.found m [] g = { g with smem := h.smem } := by
    rw [found, workErrors_nil, withErrors, hp, ← hpend]
  rw [same]
  exact settle_of_settled _ ⟨hpend, rest⟩

/-- The one word found is counted by whether it was corrected. -/
theorem found_counts {m : Mem} (hb : m.bad = []) (e : WorkUe) {j : Nat} (hj : secded (8 * (e.address / 8)) = some j) (h45 : j < 45) :
    (e.corrected = false → (getN (h.found m [e] g).settle.smem j {}).ue = min (2 ^ 32 - 1) ((getN h.smem j {}).ue + 1)) ∧
      (e.corrected = true → (getN (h.found m [e] g).settle.smem j {}).corr = min (2 ^ 32 - 1) ((getN h.smem j {}).corr + 1)) := by
  have counted : (h.found m [e] g).settle.smem = (h.noteWord (e.address / 8) (!e.corrected)).smem :=
    (settle_smem _).trans (by rw [found, workErrors_one hb]; rfl)
  rw [counted]
  refine ⟨fun he => ?_, fun he => ?_⟩ <;> rw [he]
  · exact h.noteWord_ue hj h45
  · exact h.noteWord_corr hj h45

end

/-! ### The occasion of a command -/

section
variable {l a b : List Occasion} {o : Occasion} (hl : l = a ++ o :: b) (hone : ∀ x ∈ a ++ b, x.order ≠ o.order ∧ x.tag ≠ o.tag)
include hl hone

/-- Of what only an occasion of its tag may be, it alone may be it. -/
theorem find_occasion {p : Occasion → Bool} (hp : ∀ x, p x = true → x.tag = o.tag) : l.find? p = if p o then some o else none := by
  have other : ∀ x ∈ a ++ b, p x = false := fun x hx => Bool.eq_false_iff.mpr fun h => (hone x hx).2 (hp x h)
  have before : a.find? p = none :=
    List.find?_eq_none.mpr fun x hx => Bool.eq_false_iff.mp (other x (List.mem_append_left b hx))
  have behind : b.find? p = none :=
    List.find?_eq_none.mpr fun x hx => Bool.eq_false_iff.mp (other x (List.mem_append_right a hx))
  rw [hl, List.find?_append, before, List.find?_cons, behind]
  cases p o <;> rfl

theorem replace_occasion (o' : Occasion) : (l.map fun y => if y.order = o.order then o' else y) = a ++ o' :: b := by
  have same : ∀ c : List Occasion, (∀ x ∈ c, x.order ≠ o.order) → (c.map fun y => if y.order = o.order then o' else y) = c :=
    fun c hc => (List.map_congr_left fun x hx => if_neg (hc x hx)).trans (List.map_id c)
  rw [hl, List.map_append, List.map_cons, if_pos rfl, same a fun x hx => (hone x (List.mem_append_left b hx)).1,
    same b fun x hx => (hone x (List.mem_append_right a hx)).1]

theorem drop_occasion : (l.filter fun y => y.order != o.order) = a ++ b := by
  have same : ∀ c : List Occasion, (∀ x ∈ c, x.order ≠ o.order) → (c.filter fun y => y.order != o.order) = c :=
    fun c hc => List.filter_eq_self.mpr fun x hx => bne_iff_ne.mpr (hc x hx)
  rw [hl, List.filter_append, List.filter_cons_of_neg (by simp), same a fun x hx => (hone x (List.mem_append_left b hx)).1,
    same b fun x hx => (hone x (List.mem_append_right a hx)).1]

end

theorem any_uncorrected_eq (ue : List WorkUe) : ue.any (!·.corrected) = decide (∃ e ∈ ue, e.corrected = false) := by
  rw [Bool.eq_iff_iff]
  simp

theorem bne_zero_eq_decide_pos (n : Nat) : (n != 0) = decide (0 < n) := by
  rw [Bool.eq_iff_iff]
  simp [Nat.pos_iff_ne_zero]

end Hw
end Sys2Proof.Machine
end

section
/-! The end of a coherent group (R167, R170, R172, R176, R178). -/
namespace Sys2Proof.Machine
namespace Hw

/-- The extension blocks still in play when the present group ends (R176). -/
def groupKept (o : Occasion) : List Nat := if o.groups = 0 then o.blocks else o.blocks.filter o.evaluated.contains

theorem groupKept_eq (o : Occasion) :
    groupKept o = if o.groups = 0 then o.blocks else o.blocks.filter fun x => decide (x ∈ o.evaluated) := by
  rw [groupKept, show o.evaluated.contains = fun x => decide (x ∈ o.evaluated) from funext fun x => List.contains_eq_mem ..]

/-- An occasion behind the end of its present group. -/
def groupDone (h : Hw) (o : Occasion) (ue : List WorkUe) : Occasion :=
  { o with
    groups := o.groups + 1, blocks := groupKept o, quanta := [], evaluated := []
    extPartial := o.extPartial || o.blocks.length - (groupKept o).length != 0
    ovr := o.ovr || h.spanFlag o (h.groupEdge o o.groups) (h.groupEdge o (o.groups + 1)), memUe := o.memUe || ue.any (!·.corrected)
    cells := addCells (zeroed ue o.cells) (h.groupCells o o.groups ue) }

/-- The state of the searches behind the end of a group of `o`, the others `a` and `b`. -/
def groupCrn (h : Hw) (a : List Occasion) (o : Occasion) (b : List Occasion) (ue : List WorkUe) : Crn :=
  { h.crn with
    occasions := a ++ h.groupDone o ue :: b
    extDropped := min (2 ^ 32 - 1) (h.crn.extDropped + (o.blocks.length - (groupKept o).length)) }

theorem zeroed_eq (ue : List WorkUe) (c : List Cell) : zeroed ue c = c.zipIdx.map fun x =>
    if ∃ e ∈ ue, e.cell = x.2 ∧ e.corrected = false ∧ e.buffer = none then { x.1 with p := 0 } else x.1 := by
  refine List.map_congr_left fun x _ => ?_
  refine if_congr ?_ rfl rfl
  simp [and_assoc]

/-- A group's power into cells of which words were lost; the first group finds none. -/
theorem addCells_zeroed (ue : List WorkUe) (old new : List Cell) : addCells (zeroed ue old) new =
    if old = [] then new.map fun x => { x with p := Config.work x.p }
    else List.zipWith (fun x y => { x with p := Config.work (x.p + y.p) })
      (old.zipIdx.map fun x => if ∃ e ∈ ue, e.cell = x.2 ∧ e.corrected = false ∧ e.buffer = none then { x.1 with p := 0 } else x.1) new := by
  rw [addCells, ← zeroed_eq]
  refine if_congr ?_ rfl rfl
  simp [zeroed]

end Hw

theorem exec_cairnGroupEnd (s : State) (dt occ : Nat) (ue : List WorkUe) :
    exec (.cairnGroupEnd dt occ ue) s = execCairnGroupEnd dt occ ue s := rfl

section
variable {s : State} {dt : Nat} {h : Hw} {o : Occasion} {a b : List Occasion} (he : s.hw.elapse dt = h)
  (hocc : h.crn.occasions = a ++ o :: b) (hone : ∀ x ∈ a ++ b, x.order ≠ o.order ∧ x.tag ≠ o.tag) (ue : List WorkUe)
include he hocc hone

/-- Before the instant at which its slowest family's group ends nothing is done (R167). -/
theorem exec_cairnGroupEnd_early (hs : h.Settled) (hdue : h.groupEnded o = false) :
    exec (.cairnGroupEnd dt o.tag ue) s = .next { s with hw := h } := by
  rw [exec_cairnGroupEnd, execCairnGroupEnd]
  refine okM_settled (mem := s.mem) he ?_ hs
  simp only
  rw [Hw.find_occasion hocc hone (by simp +contextual)]
  simp [hdue]

/-- The group ends. -/
theorem exec_cairnGroupEnd_due (hb : s.mem.bad = []) (hact : o.active = true) (hmore : o.groups < o.noncoh) (hdue : h.groupEnded o = true) :
    exec (.cairnGroupEnd dt o.tag ue) s = .next { s with
      hw := (h.found s.mem ue { h with crn := h.groupCrn a o b ue }).settle, mem := (h.workErrors s.mem ue).2 } := by
  have found : h.crn.occasions.find? (fun x => x.tag == o.tag && x.active && decide (x.groups < x.noncoh) && h.groupEnded x) = some o :=
    (Hw.find_occasion hocc hone (by simp +contextual)).trans (if_pos (by simp [hact, hmore, hdue]))
  have crn : (h.workErrors s.mem ue).1.crn = h.crn := by rw [Hw.workErrors_eq]; rfl
  rw [exec_cairnGroupEnd, execCairnGroupEnd]
  refine okM_becomes (r := (h.found s.mem ue { h with crn := h.groupCrn a o b ue }, (h.workErrors s.mem ue).2)) he ?_
  simp only [found, Hw.workMet_sound hb, List.append_nil, Hw.onCrn, crn, Hw.replace_occasion hocc hone]
  rw [Hw.workErrors_eq]
  rfl

end

namespace Hw

/-- The occasion behind its group, in the terms of R176 and R178. -/
theorem groupDone_eq (h : Hw) (o : Occasion) (ue : List WorkUe) : h.groupDone o ue =
    let kept := if o.groups = 0 then o.blocks else o.blocks.filter fun x => decide (x ∈ o.evaluated)
    { o with
      groups := o.groups + 1, blocks := kept, quanta := [], evaluated := []
      extPartial := o.extPartial || decide (0 < o.blocks.length - kept.length)
      ovr := o.ovr || h.spanFlag o (h.groupEdge o o.groups) (h.groupEdge o (o.groups + 1))
      memUe := o.memUe || decide (∃ e ∈ ue, e.corrected = false)
      cells := if o.cells = [] then (h.groupCells o o.groups ue).map fun x => { x with p := Config.work x.p }
        else List.zipWith (fun x y => { x with p := Config.work (x.p + y.p) })
          (o.cells.zipIdx.map fun x => if ∃ e ∈ ue, e.cell = x.2 ∧ e.corrected = false ∧ e.buffer = none then { x.1 with p := 0 } else x.1)
          (h.groupCells o o.groups ue) } := by
  rw [groupDone, addCells_zeroed, any_uncorrected_eq, bne_zero_eq_decide_pos, groupKept_eq]

end Hw
end Sys2Proof.Machine
end

section
/-! The report of an occasion (R174, R177, R178, R189, Tables 8.5 and 8.6). -/
namespace Sys2Proof.Machine

/-! ### Little-endian fields of a payload -/

theorem unle_le (w x : Nat) : unle (le w x) = x % 256 ^ w := by
  induction w generalizing x with
  | zero => rw [Nat.pow_zero, Nat.mod_one]; rfl
  | succ w ih => rw [le, unle, ih, BitVec.toNat_ofNat, Nat.pow_succ' (n := w), Nat.mod_mul]

theorem rd_here (w x : Nat) (b : Bytes) : rd (le w x ++ b) 0 w = x % 256 ^ w := by
  rw [rd, List.drop_zero, List.take_left' (le_len w x), unle_le]

theorem rd_skip {w o : Nat} (x v : Nat) (b : Bytes) (h : w ≤ o) : rd (le w x ++ b) o v = rd b (o - w) v := by
  rw [rd, List.drop_append, le_len, List.drop_eq_nil_of_le (by rwa [le_len])]
  rfl

/-! ### Detections (R174) -/

namespace Hw

/-- Among an occasion's detections none is below the threshold, none beyond MAX_DELAY. -/
theorem detections_within {h : Hw} {o : Occasion} {t : Template} (ht : h.template o.template = some t) {d : Detection}
    (hd : d ∈ h.detections o) : d.delayPs ≤ o.maxDelay * 10000 ∧ (10 : Rat) ^ t.threshold ≤ d.ratio ^ 1000 := by
  simp only [detections, List.mem_insertionSort, (sortBy_perm _ _).mem_iff, List.mem_filter, List.mem_flatten, List.mem_map, ht,
    Option.map_some, Option.getD_some] at hd
  obtain ⟨⟨_, ⟨f, -, rfl⟩, hin⟩, hdelay⟩ := hd
  obtain ⟨c, hc, rfl⟩ := List.mem_map.mp hin
  obtain ⟨-, hcell⟩ := List.mem_filter.mp hc
  simp only [Bool.and_eq_true] at hcell
  obtain ⟨⟨-, hlevel⟩, -⟩ := hcell
  exact ⟨of_decide_eq_true hdelay, of_decide_eq_true hlevel⟩

/-- They lie in descending order of the metric. -/
theorem detections_descending (h : Hw) (o : Occasion) : (h.detections o).Pairwise fun x y => y.ratio ≤ x.ratio :=
  @List.pairwise_insertionSort Detection (fun x y => y.ratio ≤ x.ratio) _ ⟨fun x y => le_total y.ratio x.ratio⟩
    ⟨fun _ _ _ hxy hyz => le_trans hyz hxy⟩ _

end Hw

/-! ### The bytes of a report -/

theorem detBytes_len (o : Occasion) (d : Detection) : (detBytes o d).length = 24 := by
  simp [detBytes]

/-- 24 bytes for each detection (Table 8.6). -/
theorem detections_len (o : Occasion) (l : List Detection) : (l.map (detBytes o)).flatten.length = 24 * l.length := by
  induction l with
  | nil => rfl
  | cons d r ih => rw [List.map_cons, List.flatten_cons, List.length_append, detBytes_len, ih, List.length_cons]; omega

theorem statusBits (a b c d e f g : Bool) :
    let x := b2n a + 2 * b2n b + 4 * b2n c + 8 * b2n d + 16 * b2n e + 32 * b2n f + 64 * b2n g
    x < 256 ∧ x.testBit 0 = a ∧ x.testBit 1 = b ∧ x.testBit 2 = c ∧ x.testBit 6 = g := by
  revert a b c d e f g
  decide

/-- The header of a report on `o` up to TOTAL (Table 8.5): `done` beams evaluated, `n` detections listed. -/
def reportFields (o : Occasion) (status done n total : Nat) : Bytes :=
  le 4 o.tag ++ le 4 o.target ++ le 4 o.closing ++ le 1 o.template ++ le 1 status ++ le 2 (maskOf o.families) ++ le 2 (o.rows * o.cols) ++
    le 2 o.beams ++ le 2 done ++ le 1 o.coh ++ le 1 o.noncoh ++ le 1 o.freqHyp ++ le 1 o.gridRows ++ le 1 o.gridCols ++ le 1 o.groups ++
    le 2 n ++ le 2 0 ++ le 4 total

/-- NOISE of the four families (Table 8.5). -/
def noiseBytes (noise : List Int) : Bytes := ((List.range 4).map fun i => le 2 (code 16 (noise.getD i (-32768)))).flatten

theorem reportFields_len (o : Occasion) (status done n total : Nat) : (reportFields o status done n total).length = 36 := by
  simp only [reportFields, List.length_append, le_len]

theorem noiseBytes_len (noise : List Int) : (noiseBytes noise).length = 8 := by
  simp [noiseBytes, List.range_succ]

/-- Where the fields of the header lie (Table 8.5). -/
theorem reportFields_read (o : Occasion) (status done n total : Nat) (l : Bytes) :
    let b := reportFields o status done n total ++ l
    rd b 0 4 = o.tag % 2 ^ 32 ∧ rd b 4 4 = o.target % 2 ^ 32 ∧ rd b 8 4 = o.closing % 2 ^ 32 ∧ rd b 13 1 = status % 256 ∧
      rd b 16 2 = o.rows * o.cols % 65536 ∧ rd b 18 2 = o.beams % 65536 ∧ rd b 27 1 = o.groups % 256 ∧ rd b 28 2 = n % 65536 ∧
      rd b 32 4 = total % 2 ^ 32 := by
  simp (discharger := decide) only [reportFields, List.append_assoc, rd_skip, Nat.reduceSub, rd_here, Nat.reducePow, and_self]

namespace Hw

/-- The occasion as it is reported: words lost read zero, and the blocks not evaluated for the last group are dropped (R176, R178). -/
def reported (o : Occasion) (ue : List WorkUe) : Occasion :=
  { o with
    cells := zeroed ue o.cells, memUe := o.memUe || ue.any (!·.corrected), blocks := o.blocks.filter o.keeps
    extPartial := o.extPartial || o.blocks.length - (o.blocks.filter o.keeps).length != 0 }

section
variable (h : Hw) (o : Occasion)

/-- The detections that a report on `o` counts (R174, R178). -/
def reportable : List Detection := if o.failed || o.groups == 0 then [] else h.detections o

theorem reportable_eq : h.reportable o = if o.failed = true ∨ o.groups = 0 then [] else h.detections o := by
  simp only [reportable, Bool.or_eq_true, beq_iff_eq]

theorem reportable_within {t : Template} (ht : h.template o.template = some t) : ∀ d ∈ h.reportable o,
    d.delayPs ≤ o.maxDelay * 10000 ∧ (10 : Rat) ^ t.threshold ≤ d.ratio ^ 1000 := by
  intro d hd
  rw [reportable_eq] at hd
  split at hd
  · cases hd
  · exact detections_within ht hd

theorem reportable_descending : (h.reportable o).Pairwise fun x y => y.ratio ≤ x.ratio := by
  rw [reportable_eq]
  split
  · exact .nil
  · exact h.detections_descending o

/-- STATUS of that report (Table 8.5). -/
def reportStatus : Nat :=
  b2n o.failed + 2 * b2n (decide (256 < (h.reportable o).length)) + 4 * b2n o.ovr + 8 * b2n o.cut + 16 * b2n (!o.changed.isEmpty) +
    32 * b2n o.memUe + 64 * b2n o.extPartial

/-- Its header. -/
def reportHead : Bytes :=
  reportFields o (h.reportStatus o) (o.beams + sumL (o.blocks.map (blockBeams o))) ((h.reportable o).take 256).length
    (Nat.min 0xFFFFFFFF (h.reportable o).length) ++
  noiseBytes (if o.failed || o.groups == 0 then [] else (h.famsIn o).map fun f => noiseLevel o (cellsDone o) f) ++
  le 8 (maskOf (o.pathsUsed.filter fun n => !o.changed.contains n)) ++ List.replicate 12 0

/-- Its payload. -/
def reportPayload : Bytes := h.reportHead o ++ (((h.reportable o).take 256).map (detBytes o)).flatten

theorem reportHead_len : (h.reportHead o).length = 64 := by
  simp only [reportHead, List.length_append, le_len, List.length_replicate, noiseBytes_len, reportFields_len]

theorem reportPayload_len : (h.reportPayload o).length = 64 + 24 * min 256 (h.reportable o).length := by
  rw [reportPayload, List.length_append, reportHead_len, detections_len, List.length_take]

theorem reportPayload_detections : (h.reportPayload o).drop 64 = (((h.reportable o).take 256).map (detBytes o)).flatten :=
  List.drop_left' (h.reportHead_len o)

theorem reportStatus_bits : h.reportStatus o < 256 ∧ (h.reportStatus o).testBit 0 = o.failed ∧
    (h.reportStatus o).testBit 1 = decide (256 < (h.reportable o).length) ∧ (h.reportStatus o).testBit 2 = o.ovr ∧
    (h.reportStatus o).testBit 6 = o.extPartial :=
  statusBits ..

/-- The fields of the payload (Table 8.5). -/
theorem reportPayload_read :
    let b := h.reportPayload o
    rd b 0 4 = o.tag % 2 ^ 32 ∧ rd b 4 4 = o.target % 2 ^ 32 ∧ rd b 8 4 = o.closing % 2 ^ 32 ∧ rd b 13 1 = h.reportStatus o ∧
      rd b 16 2 = o.rows * o.cols % 65536 ∧ rd b 18 2 = o.beams % 65536 ∧ rd b 27 1 = o.groups % 256 ∧
      rd b 28 2 = min 256 (h.reportable o).length ∧ rd b 32 4 = min 0xFFFFFFFF (h.reportable o).length := by
  have status : h.reportStatus o % 256 = h.reportStatus o := Nat.mod_eq_of_lt (h.reportStatus_bits o).1
  have count : ((h.reportable o).take 256).length % 65536 = min 256 (h.reportable o).length := by
    rw [List.length_take]
    omega
  have total : Nat.min 0xFFFFFFFF (h.reportable o).length % 2 ^ 32 = min 0xFFFFFFFF (h.reportable o).length :=
    Nat.mod_eq_of_lt (lt_of_le_of_lt (Nat.min_le_left ..) (by decide))
  simp only [reportPayload, reportHead, List.append_assoc, reportFields_read, status, count, total, and_self]

/-- The frame that carries it, numbered `seq`. -/
def reportFrame (seq : Nat) : TxFrame := .generic o.port o.dst o.vlan o.eaxc seq (h.reportPayload o)

theorem put_generic (e : Egress) (p d v q n : Nat) (b : Bytes) : e.put (.generic p d v q n b) =
    if p = 0 then { e with own := e.own ++ [.generic p d v q n b] } else e := by
  by_cases hp : p = 0 <;> simp [Egress.put, TxFrame.port, TxFrame.passed, hp]

/-- The state of the searches behind that report, `lost` extension blocks dropped; `a` and `b` are the other occasions. -/
def reportCrn (a b : List Occasion) (lost : Nat) : Crn :=
  { h.crn with
    occasions := a ++ b, lastTag := o.tag, lastCount := ((h.reportable o).take 256).length, lastStatus := h.reportStatus o
    detections := cnt 48 h.crn.detections ((h.reportable o).take 256).length
    truncated := if decide (256 < (h.reportable o).length) then inc h.crn.truncated else h.crn.truncated
    failed := if o.failed then inc h.crn.failed else h.crn.failed
    extDropped := cnt 32 h.crn.extDropped lost, extDone := cnt 32 h.crn.extDone o.blocks.length }

/-- `h` with that report sent. -/
def reportSent (a b : List Occasion) (lost : Nat) : Hw :=
  ({ h with
    fhl := { h.fhl with genSeq := assocSet o.flow (((assoc o.flow h.fhl.genSeq).getD 0 + 1) % 2 ^ 32) h.fhl.genSeq }
    crn := h.reportCrn o a b lost } : Hw).send (h.reportFrame o ((assoc o.flow h.fhl.genSeq).getD 0))

/-- What the sending changes (R177, R179, R189). -/
theorem reportSent_eq (a b : List Occasion) (lost : Nat) : h.reportSent o a b lost =
    let n := min 256 (h.reportable o).length
    let seq := (assoc o.flow h.fhl.genSeq).getD 0
    { h with
      fhl := { h.fhl with genSeq := assocSet o.flow ((seq + 1) % 2 ^ 32) h.fhl.genSeq }
      out := { h.out with
        tx := h.out.tx ++ [h.reportFrame o seq]
        portA := if o.port = 0 then { h.out.portA with own := h.out.portA.own ++ [h.reportFrame o seq] } else h.out.portA }
      crn := { h.crn with
        occasions := a ++ b, lastTag := o.tag, lastCount := n, lastStatus := h.reportStatus o
        detections := min (2 ^ 48 - 1) (h.crn.detections + n)
        truncated := if 256 < (h.reportable o).length then min (2 ^ 32 - 1) (h.crn.truncated + 1) else h.crn.truncated
        failed := if o.failed then min (2 ^ 32 - 1) (h.crn.failed + 1) else h.crn.failed
        extDropped := min (2 ^ 32 - 1) (h.crn.extDropped + lost)
        extDone := min (2 ^ 32 - 1) (h.crn.extDone + o.blocks.length) } } := by
  simp only [reportSent, send_changes, reportFrame, put_generic, reportCrn, List.length_take, decide_eq_true_eq, cnt, inc]

end

end Hw

theorem exec_cairnReportSend (s : State) (dt occ : Nat) (ue : List WorkUe) :
    exec (.cairnReportSend dt occ ue) s = execCairnReportSend dt occ ue s := rfl

/-- The report is sent, and the occasion is over (R177, R178). -/
theorem exec_cairnReportSend_sent {s : State} {dt : Nat} {h : Hw} {o : Occasion} {a b : List Occasion} (he : s.hw.elapse dt = h)
    (hocc : h.crn.occasions = a ++ o :: b) (hone : ∀ x ∈ a ++ b, x.order ≠ o.order ∧ x.tag ≠ o.tag) (ue : List WorkUe)
    (hb : s.mem.bad = []) (hclose : o.closing ≤ h.tim.k) :
    exec (.cairnReportSend dt o.tag ue) s = .next { s with
      hw := (h.found s.mem ue (h.reportSent (Hw.reported o ue) a b (o.blocks.length - (o.blocks.filter o.keeps).length))).settle
      mem := (h.workErrors s.mem ue).2 } := by
  have found : h.crn.occasions.find? (fun x => x.tag == o.tag && decide (x.closing ≤ h.tim.k)) = some o :=
    (Hw.find_occasion hocc hone (by simp +contextual)).trans (if_pos (by simp [hclose]))
  have crn : (h.workErrors s.mem ue).1.crn = h.crn := by rw [Hw.workErrors_eq]; rfl
  rw [exec_cairnReportSend, execCairnReportSend]
  refine okM_becomes (r := (h.found s.mem ue
    (h.reportSent (Hw.reported o ue) a b (o.blocks.length - (o.blocks.filter o.keeps).length)), (h.workErrors s.mem ue).2)) he ?_
  simp only [found, Hw.workMet_sound hb, List.append_nil, Hw.onCrn, Hw.onFhl, crn, Hw.drop_occasion hocc hone]
  rw [Hw.workErrors_eq]
  rfl

end Sys2Proof.Machine
end

section
/-! Search occasions admitted and refused (R166, R167, R175, R201): beams, contexts and the depth decision. -/
namespace Sys2Proof.Machine

/-! ### Beams that fit the work area -/

section
variable {fs : List Family} {f free p n : Nat}

/-- There are no beams, or a power of two that fits. -/
theorem beamsFit_fits : Hw.beamsFit fs f free n (2 ^ p) = 0 ∨
    ∃ j ≤ p, Hw.workBytes fs f (2 ^ j) ≤ free ∧ Hw.beamsFit fs f free n (2 ^ p) = 2 ^ j := by
  induction n generalizing p with
  | zero => exact .inl rfl
  | succ n ih =>
    rw [Hw.beamsFit, if_neg (Nat.two_pow_pos p).ne']
    by_cases hp : Hw.workBytes fs f (2 ^ p) ≤ free
    · rw [if_pos hp]
      exact .inr ⟨p, Nat.le_refl p, hp, rfl⟩
    · rw [if_neg hp]
      cases p with
      | zero => cases n <;> exact .inl rfl
      | succ p =>
        rw [Nat.pow_succ, Nat.mul_div_cancel _ Nat.two_pos]
        exact ih.imp_right fun ⟨j, hj, hfit⟩ => ⟨j, Nat.le_succ_of_le hj, hfit⟩

/-- With powers enough to try they are the largest that fits. -/
theorem beamsFit_largest (hn : p < n) {j : Nat} (hj : j ≤ p) (hfit : Hw.workBytes fs f (2 ^ j) ≤ free)
    (hmax : ∀ x ≤ p, Hw.workBytes fs f (2 ^ x) ≤ free → x ≤ j) : Hw.beamsFit fs f free n (2 ^ p) = 2 ^ j := by
  induction n generalizing p with
  | zero => omega
  | succ n ih =>
    rw [Hw.beamsFit, if_neg (Nat.two_pow_pos p).ne']
    by_cases hp : Hw.workBytes fs f (2 ^ p) ≤ free
    · obtain rfl : j = p := Nat.le_antisymm hj (hmax p (Nat.le_refl p) hp)
      exact if_pos hp
    · have below : j ≠ p := fun e => hp (e ▸ hfit)
      obtain ⟨q, rfl⟩ : ∃ q, p = q + 1 := ⟨p - 1, by omega⟩
      rw [if_neg hp, Nat.pow_succ, Nat.mul_div_cancel _ Nat.two_pos]
      exact ih (by omega) (by omega) fun x hx => hmax x (by omega)

end

/-! ### The depth, step by step (R175) -/

/-- The next lower depth: beams first, then K, then C. -/
def lowered (r : SearchRec) (d : Depth) : Option Depth :=
  if r.beamsMin < d.b then some { d with e := d.e + d.b / 2, b := d.b / 2 }
  else if r.noncohMin < d.k then some { d with k := max (d.k / 2) r.noncohMin }
  else if r.cohMin < d.c then some { d with c := max (d.c / 2) r.cohMin } else none

/-- The halvings that bring `x` down to `lo`, at most. -/
def halvings (lo x : Nat) : Nat := if lo < x then Nat.log2 x + 1 else 0

theorem halvings_le {lo x n : Nat} (h : x < 2 ^ n) : halvings lo x ≤ n := by
  unfold halvings
  split
  · next hlo =>
    have hx : x ≠ 0 := by omega
    exact (Nat.log2_lt hx).mpr h
  · exact Nat.zero_le n

theorem halvings_half {lo x : Nat} (h : lo < x) : halvings lo (x / 2) < halvings lo x := by
  unfold halvings
  rw [if_pos h]
  split
  · next hlo =>
    have halved : Nat.log2 x = Nat.log2 (x / 2) + 1 := by rw [Nat.log2_def, if_pos (by omega)]
    omega
  · exact Nat.succ_pos _

theorem halvings_floor {lo x : Nat} (h : lo < x) : halvings lo (max (x / 2) lo) < halvings lo x := by
  rcases Nat.le_total (x / 2) lo with hle | hle
  · rw [Nat.max_eq_right hle, halvings, if_neg (Nat.lt_irrefl lo), halvings, if_pos h]
    exact Nat.succ_pos _
  · rw [Nat.max_eq_left hle]
    exact halvings_half h

/-- The steps that lower a depth, at most. -/
def lowerings (r : SearchRec) (d : Depth) : Nat := halvings r.beamsMin d.b + halvings r.noncohMin d.k + halvings r.cohMin d.c

theorem lowerings_lowered {r : SearchRec} {d d' : Depth} (h : lowered r d = some d') : lowerings r d' < lowerings r d := by
  unfold lowered at h
  split at h
  · next hb =>
    obtain rfl := Option.some.inj h
    exact Nat.add_lt_add_right (Nat.add_lt_add_right (halvings_half hb) _) _
  · split at h
    · next hk =>
      obtain rfl := Option.some.inj h
      exact Nat.add_lt_add_right (Nat.add_lt_add_left (halvings_floor hk) _) _
    · split at h
      · next hc =>
        obtain rfl := Option.some.inj h
        exact Nat.add_lt_add_left (halvings_floor hc) _
      · cases h

section
variable {h : Hw} {fs : List Family} {r : SearchRec} {k report : Nat}

/-- Where a depth lacks room the next lower one is tried; behind the lowest the level that fails is the result. -/
theorem depthLoop_fails {d : Depth} {l : Nat} (n : Nat) (hfails : h.budgetFails (h.searchCharges fs r k report d).2 = some l) :
    h.depthLoop fs r k report (n + 1) d = (lowered r d).elim (.error l) (h.depthLoop fs r k report n) := by
  rw [Hw.depthLoop, hfails]
  unfold lowered
  dsimp only
  split_ifs <;> rfl

theorem depthLoop_fits {d : Depth} (n : Nat) (hfits : h.budgetFails (h.searchCharges fs r k report d).2 = none) :
    h.depthLoop fs r k report (n + 1) d = .ok d := by
  rw [Hw.depthLoop, hfits]

variable {d : Nat → Depth} {i : Nat}
  (hstep : ∀ x < i, h.budgetFails (h.searchCharges fs r k report (d x)).2 ≠ none ∧ lowered r (d x) = some (d (x + 1)))
include hstep

/-- A depth lowered `i` times. -/
theorem depthLoop_lowered (n : Nat) : h.depthLoop fs r k report (n + i) (d 0) = h.depthLoop fs r k report n (d i) := by
  induction i generalizing n with
  | zero => rfl
  | succ i ih =>
    obtain ⟨hfail, hl⟩ := hstep i (Nat.lt_succ_self i)
    obtain ⟨l, hfails⟩ := Option.ne_none_iff_exists'.mp hfail
    rw [← Nat.add_assoc, Nat.add_right_comm, ih (fun x hx => hstep x (Nat.lt_succ_of_lt hx)), depthLoop_fails n hfails, hl]
    rfl

theorem lowerings_bound : lowerings r (d i) + i ≤ lowerings r (d 0) := by
  induction i with
  | zero => exact Nat.le_refl _
  | succ i ih =>
    have earlier := ih fun x hx => hstep x (Nat.lt_succ_of_lt hx)
    have last := lowerings_lowered (hstep i (Nat.lt_succ_self i)).2
    omega

/-- The depth that `i` steps leave, which has room. -/
theorem depthLoop_admits (hi : i < 64) (hfits : h.budgetFails (h.searchCharges fs r k report (d i)).2 = none) :
    h.depthLoop fs r k report 64 (d 0) = .ok (d i) := by
  obtain ⟨n, hn⟩ : ∃ n, 64 = n + 1 + i := ⟨63 - i, by omega⟩
  rw [hn, depthLoop_lowered hstep, depthLoop_fits n hfits]

/-- After `i` steps no lower depth is left. -/
theorem depthLoop_refuses (hi : i < 64) {l : Nat} (hfails : h.budgetFails (h.searchCharges fs r k report (d i)).2 = some l)
    (hl : lowered r (d i) = none) : h.depthLoop fs r k report 64 (d 0) = .error l := by
  obtain ⟨n, hn⟩ : ∃ n, 64 = n + 1 + i := ⟨63 - i, by omega⟩
  rw [hn, depthLoop_lowered hstep, depthLoop_fails n hfails, hl]
  rfl

end

/-! ### What a record's form bounds (R166, Table 8.3) -/

theorem sector_lt {r : SearchRec} (hrows : r.rows < 256) (hcols : r.cols < 256) : r.rows * r.cols < 2 ^ 16 :=
  calc r.rows * r.cols < 256 * 256 := Nat.mul_lt_mul'' hrows hcols
    _ = 2 ^ 16 := rfl

theorem searchForm_sector {r : SearchRec} (h : searchForm r = true) : 0 < r.rows * r.cols := by
  have sides : isPow2 r.rows = true ∧ isPow2 r.cols = true := by simp_all [searchForm]
  obtain ⟨hrows, hcols⟩ := sides
  have rows : r.rows ≠ 0 := by rintro e; simp [isPow2, e] at hrows
  have cols : r.cols ≠ 0 := by rintro e; simp [isPow2, e] at hcols
  exact Nat.mul_pos (Nat.pos_of_ne_zero rows) (Nat.pos_of_ne_zero cols)

theorem searchForm_beamsMin {r : SearchRec} (h : searchForm r = true) : 1 ≤ r.beamsMin := by
  have sector := searchForm_sector h
  have least : (if r.rows * r.cols < 16 then r.beamsMin == r.rows * r.cols || (isPow2 r.beamsMin && decide (16 ≤ r.beamsMin))
      else isPow2 r.beamsMin && decide (16 ≤ r.beamsMin)) = true := by simp_all [searchForm]
  split at least <;> simp at least <;> omega

theorem searchForm_requests {r : SearchRec} (h : searchForm r = true) : r.cohReq ≤ 128 ∧ r.noncohReq ≤ 16 := by
  simp_all [searchForm]

theorem searchRelations_beamsMin {h : Hw} {sl : Slot} {t : Template} {r : SearchRec} {k report : Nat}
    (hrel : h.searchRelations sl t r k report = true) : r.beamsMin ≤ min sl.cairnBeams t.maxBeams := by
  simp only [Hw.searchRelations, Bool.and_eq_true, decide_eq_true_eq] at hrel
  obtain ⟨⟨⟨⟨⟨⟨⟨-, hbeams⟩, -⟩, -⟩, -⟩, -⟩, -⟩, -⟩ := hrel
  exact hbeams

namespace Hw

/-! ### Charges reserved in several windows (R24, R175) -/

/-- What is held after charges were reserved, each in its window. -/
def chargesOn (a : List ((Nat × Nat) × Nat)) (ws : List (Nat × List (Nat × Nat))) : List ((Nat × Nat) × Nat) :=
  ws.foldl (fun a w => (touched w.2).foldl (fun a u => assocSet (w.1, u) ((assoc (w.1, u) a).getD 0 + onUnit w.2 u) a) a) a

theorem each_reserve (h : Hw) (ws : List (Nat × List (Nat × Nat))) :
    (h.each ws fun h w => h.reserve w.1 w.2) = h.onTrl fun t => { t with res := chargesOn t.res ws } := by
  induction ws generalizing h with
  | nil => rfl
  | cons w r ih => exact ih _

/-- What is held on a unit after a charge in one window. -/
theorem assoc_charged (a : List ((Nat × Nat) × Nat)) (w : Nat × List (Nat × Nat)) (k u : Nat) :
    (assoc (k, u) (chargesOn a [w])).getD 0 = (assoc (k, u) a).getD 0 + if k = w.1 then onUnit w.2 u else 0 :=
  reserve_res ({ trl := { res := a } } : Hw) w.1 w.2 k u

theorem assoc_chargesOn_other {ws : List (Nat × List (Nat × Nat))} {k : Nat} (hk : k ∉ ws.map (·.1)) (a : List ((Nat × Nat) × Nat)) (u : Nat) :
    (assoc (k, u) (chargesOn a ws)).getD 0 = (assoc (k, u) a).getD 0 := by
  induction ws generalizing a with
  | nil => rfl
  | cons x r ih =>
    obtain ⟨hx, hr⟩ := not_or.mp fun h => hk (List.mem_cons.mpr h)
    exact (ih hr (chargesOn a [x])).trans (by rw [assoc_charged, if_neg hx, Nat.add_zero])

/-- Each window holds its charge besides what it held. -/
theorem assoc_chargesOn {ws : List (Nat × List (Nat × Nat))} (hn : (ws.map (·.1)).Nodup) {w : Nat × List (Nat × Nat)} (hw : w ∈ ws)
    (a : List ((Nat × Nat) × Nat)) (u : Nat) :
    (assoc (w.1, u) (chargesOn a ws)).getD 0 = (assoc (w.1, u) a).getD 0 + onUnit w.2 u := by
  induction ws generalizing a with
  | nil => cases hw
  | cons x r ih =>
    obtain ⟨hx, hr⟩ := List.nodup_cons.mp hn
    rcases List.mem_cons.mp hw with rfl | hw
    · exact (assoc_chargesOn_other hx (chargesOn a [w]) u).trans (by rw [assoc_charged, if_pos rfl])
    · have later : w.1 ≠ x.1 := fun e => hx (List.mem_map.mpr ⟨w, hw, e⟩)
      exact (ih hr hw (chargesOn a [x])).trans (by rw [assoc_charged, if_neg later, Nat.add_zero])

end Hw

end Sys2Proof.Machine
end

section
/-! A SEARCH_OCCASION record (R166, R167, R175, R196, R201): its reasons in their order, its admission, and its next state. -/
namespace Sys2Proof.Machine
namespace Hw

/-- The tick of REPORT_TICK. -/
def reportAt (h : Hw) (r : SearchRec) : Nat := (fullTick h.tim.k r.reportTick).getD 0

/-- The reasons against an occasion that starts with tick k under the slot `sl` by the template `t`, in the order of R201. -/
def searchReasons (h : Hw) (r : SearchRec) (k : Nat) (sl : Slot) (t : Option Template) : List Nat :=
  [ifBad (h.before7 k) 10, h.window k h.tim.c sl.minLead sl.earlyLimit,
    ifBad (h.stageForbids 0x12 || sl.kind == 4 || sl.cairn != 1) 10, ifBad (!searchForm r) 8,
    ifBad ((h.famsOf r.families).length != (maskFams r.families).length || !(t.any fun t => (maskFams r.families).all (bit t.familyMask))) 12,
    ifBad (!(t.any fun t => h.searchRelations sl t r k (h.reportAt r))) 8, ifBad h.controlFull 4]

section
variable (h : Hw) (r : SearchRec) (k : Nat) (sl : Slot) (t : Template)

/-- C, K and the beams before the depth decision, `b` beams fitting the work area (R166). -/
def ceiledDepth (r : SearchRec) (sl : Slot) (t : Template) (b : Nat) : Depth :=
  { b := b, c := Nat.min r.cohReq (searchCeil sl t).2.1, k := Nat.min r.noncohReq (searchCeil sl t).2.2, e := 0 }

/-- The closing tick of an occasion at a depth (R167). -/
def closingAt (d : Depth) : Nat := h.occClosing (h.famsOf r.families) k r.maxDelay d.c d.k

/-- The closing tick by which contexts and work area are looked for. -/
def searchSpan : Nat := h.closingAt r k (ceiledDepth r sl t 0)

/-- The contexts free over that span. -/
def freeContexts : List Nat := (List.range 4).filter fun c => !(h.contextsHeld k (h.searchSpan r k sl t)).contains c

/-- The beams that fit the work area over it. -/
def searchBeams : Nat :=
  beamsFit (h.famsOf r.families) r.freqHyp (h.workFree k (h.searchSpan r k sl t)) 32 (2 ^ Nat.log2 (Nat.min (r.rows * r.cols) (searchCeil sl t).1))

/-- The depth decision (R175). -/
def searchDepth : Except Nat Depth :=
  h.depthLoop (h.famsOf r.families) r k (h.reportAt r) 64 (ceiledDepth r sl t (h.searchBeams r k sl t))

/-- The charges of an occasion at a depth, window by window. -/
def depthCharges (d : Depth) : List (Nat × List (Nat × Nat)) := (h.searchCharges (h.famsOf r.families) r k (h.reportAt r) d).2

/-- The occasion admitted at a depth. -/
def occasionAt (m : MsgHdr) (d : Depth) : Occasion :=
  { tag := low32 r.occTag, flow := ((h.msgFlow m).map (·.id)).getD 0, target := k, closing := h.closingAt r k d, report := h.reportAt r
    template := r.template, families := maskFams r.families, row0 := r.row0, rows := r.rows, col0 := r.col0, cols := r.cols
    beams := d.b, ext := d.e, coh := d.c, noncoh := d.k, freqHyp := r.freqHyp, maxDelay := r.maxDelay, gridRows := (h.gridOf t).1
    gridCols := (h.gridOf t).2, bytes := workBytes (h.famsOf r.families) r.freqHyp (d.b + d.e)
    contexts := (h.freeContexts r k sl t).take (h.famsOf r.families).length, blocks := List.range (ceilDiv d.e 64)
    perWindow := (h.searchCharges (h.famsOf r.families) r k (h.reportAt r) d).1, slot := sl.slot, port := ((h.msgFlow m).map (·.port)).getD 0
    dst := ((h.msgFlow m).map (·.dstMac)).getD 0, vlan := ((h.msgFlow m).map (·.vlan)).getD 0xFFFF
    eaxc := ((h.msgFlow m).map (·.eaxc)).getD 0, order := h.fhl.order, carrier := r.carrier, startPrb := r.startPrb }

/-- `h` with that occasion admitted. -/
def withSearch (m : MsgHdr) (d : Depth) : Hw :=
  { h with
    fhl := { h.fhl with control := h.fhl.control ++ [k], order := h.fhl.order + 1 }
    crn := { h.crn with
      occasions := h.crn.occasions ++ [h.occasionAt r k sl t m d], admitted := inc h.crn.admitted
      cut := if d.b = r.rows * r.cols ∧ d.c = r.cohReq ∧ d.k = r.noncohReq then h.crn.cut else inc h.crn.cut }
    trl := { h.trl with res := chargesOn h.trl.res (h.depthCharges r k d) } }

/-! ### What a message opened leaves of all this -/

section
variable (f : Flow) (st : SeqState)

theorem openedOn_searchBeams : (h.openedOn f st).searchBeams r k sl t = h.searchBeams r k sl t := rfl
theorem openedOn_searchCharges (fs : List Family) (report : Nat) (d : Depth) :
    (h.openedOn f st).searchCharges fs r k report d = h.searchCharges fs r k report d := rfl
theorem openedOn_budgetFails (ws : List (Nat × List (Nat × Nat))) : (h.openedOn f st).budgetFails ws = h.budgetFails ws := rfl

/-- The depth decision does not depend on the message's judgement so far. -/
theorem openedOn_depthLoop (fs : List Family) (report n : Nat) (d : Depth) :
    (h.openedOn f st).depthLoop fs r k report n d = h.depthLoop fs r k report n d := by
  induction n generalizing d with
  | zero => rfl
  | succ n ih => simp only [depthLoop, openedOn_searchCharges, openedOn_budgetFails, ih]

theorem openedOn_searchDepth : (h.openedOn f st).searchDepth r k sl t = h.searchDepth r k sl t := by
  rw [searchDepth, openedOn_searchBeams, openedOn_depthLoop]
  rfl

theorem openedOn_occasionAt (m : MsgHdr) (d : Depth) : (h.openedOn f st).occasionAt r k sl t m d = h.occasionAt r k sl t m d := rfl

end

end

/-- Each window is charged once. -/
theorem depthCharges_nodup (h : Hw) (r : SearchRec) (k : Nat) (d : Depth) : ((h.depthCharges r k d).map (·.1)).Nodup := by
  have ticks : (h.depthCharges r k d).map (·.1) = (List.range (h.closingAt r k d - k)).map (k + ·) := List.map_map ..
  rw [ticks]
  exact List.nodup_range.map fun _ _ e => Nat.add_left_cancel e

/-- `2 ^ j` beams are within the sector and its ceilings, and fit the work area (R166, R175). -/
def BeamsAllowed (h : Hw) (r : SearchRec) (k : Nat) (sl : Slot) (t : Template) (j : Nat) : Prop :=
  2 ^ j ≤ min (r.rows * r.cols) (min sl.cairnBeams t.maxBeams) ∧
    workBytes (h.famsOf r.families) r.freqHyp (2 ^ j) ≤ h.workFree k (h.searchSpan r k sl t)

section
variable {h : Hw} {r : SearchRec} {k : Nat} {sl : Slot} {t : Template} (hrows : r.rows < 256) (hcols : r.cols < 256)
  (hform : searchForm r = true)
include hform

section
variable (hrel : h.searchRelations sl t r k (h.reportAt r) = true)
include hrel

theorem searchTop_pos : 0 < Nat.min (r.rows * r.cols) (searchCeil sl t).1 := by
  have least := searchForm_beamsMin hform
  have ceil : r.beamsMin ≤ (searchCeil sl t).1 := searchRelations_beamsMin hrel
  exact Nat.lt_min.mpr ⟨searchForm_sector hform, by omega⟩

theorem beamsAllowed_iff (j : Nat) : h.BeamsAllowed r k sl t j ↔ j ≤ Nat.log2 (Nat.min (r.rows * r.cols) (searchCeil sl t).1) ∧
    workBytes (h.famsOf r.families) r.freqHyp (2 ^ j) ≤ h.workFree k (h.searchSpan r k sl t) := by
  rw [Nat.le_log2 (searchTop_pos hform hrel).ne']
  rfl

/-- Where no beams enough fit the work area there are fewer than BEAMS_MIN. -/
theorem searchBeams_few (hfew : ∀ j, h.BeamsAllowed r k sl t j → 2 ^ j < r.beamsMin) : h.searchBeams r k sl t < r.beamsMin := by
  rcases beamsFit_fits (fs := h.famsOf r.families) (f := r.freqHyp) (free := h.workFree k (h.searchSpan r k sl t)) (n := 32)
    (p := Nat.log2 (Nat.min (r.rows * r.cols) (searchCeil sl t).1)) with hb | ⟨j, hj, hfit, hb⟩
  · rw [searchBeams, hb]
    exact searchForm_beamsMin hform
  · rw [searchBeams, hb]
    exact hfew j ((beamsAllowed_iff hform hrel j).mpr ⟨hj, hfit⟩)

include hrows hcols in
theorem searchBeams_largest {j : Nat} (hj : h.BeamsAllowed r k sl t j) (hmax : ∀ x, h.BeamsAllowed r k sl t x → x ≤ j) :
    h.searchBeams r k sl t = 2 ^ j := by
  obtain ⟨hle, hfit⟩ := (beamsAllowed_iff hform hrel j).mp hj
  have sector : Nat.min (r.rows * r.cols) (searchCeil sl t).1 < 2 ^ 32 :=
    lt_of_le_of_lt (Nat.min_le_left ..) (lt_trans (sector_lt hrows hcols) (by decide))
  have tries := (Nat.log2_lt (searchTop_pos hform hrel).ne').mpr sector
  exact beamsFit_largest tries hle hfit fun x hx hxfit => hmax x ((beamsAllowed_iff hform hrel x).mpr ⟨hx, hxfit⟩)

end

include hrows hcols

/-- A depth that is not above the requests is lowered fewer than 64 times. -/
theorem lowerings_few {j : Nat} (hj : h.BeamsAllowed r k sl t j) : lowerings r (ceiledDepth r sl t (2 ^ j)) < 64 := by
  obtain ⟨hcoh, hnoncoh⟩ := searchForm_requests hform
  have beams : halvings r.beamsMin (2 ^ j) ≤ 16 := halvings_le (lt_of_le_of_lt (hj.1.trans (Nat.min_le_left ..)) (sector_lt hrows hcols))
  have groups : halvings r.noncohMin (Nat.min r.noncohReq (searchCeil sl t).2.2) ≤ 8 :=
    halvings_le (lt_of_le_of_lt ((Nat.min_le_left ..).trans hnoncoh) (by decide))
  have repetitions : halvings r.cohMin (Nat.min r.cohReq (searchCeil sl t).2.1) ≤ 8 :=
    halvings_le (lt_of_le_of_lt ((Nat.min_le_left ..).trans hcoh) (by decide))
  simp only [lowerings, ceiledDepth]
  omega

end

/-! ### The depth decided (R175) -/

section
variable {h : Hw} {r : SearchRec} {k : Nat} {sl : Slot} {t : Template} (hrows : r.rows < 256) (hcols : r.cols < 256)
  (hform : searchForm r = true) (hrel : h.searchRelations sl t r k (h.reportAt r) = true) {j i : Nat} {d : Nat → Depth}
  (hfit : h.BeamsAllowed r k sl t j) (hmax : ∀ x, h.BeamsAllowed r k sl t x → x ≤ j) (hstart : d 0 = ceiledDepth r sl t (2 ^ j))
  (hsteps : ∀ x < i, h.budgetFails (h.depthCharges r k (d x)) ≠ none ∧ lowered r (d x) = some (d (x + 1)))
include hrows hcols hform hrel hfit hmax hstart hsteps

theorem searchDepth_loop : i < 64 ∧ h.searchDepth r k sl t = h.depthLoop (h.famsOf r.families) r k (h.reportAt r) 64 (d 0) := by
  have most := lowerings_few (t := t) (sl := sl) hrows hcols hform hfit
  have bound := lowerings_bound hsteps
  rw [← hstart] at most
  refine ⟨by omega, ?_⟩
  rw [searchDepth, searchBeams_largest hrows hcols hform hrel hfit hmax, hstart]

/-- The steps end at the first depth that has room. -/
theorem searchDepth_admits (hfits : h.budgetFails (h.depthCharges r k (d i)) = none) : h.searchDepth r k sl t = .ok (d i) := by
  obtain ⟨few, loop⟩ := searchDepth_loop hrows hcols hform hrel hfit hmax hstart hsteps
  rw [loop]
  exact depthLoop_admits hsteps few hfits

/-- Without one they end at the lowest depth, with the level that fails there. -/
theorem searchDepth_refuses {l : Nat} (hfails : h.budgetFails (h.depthCharges r k (d i)) = some l) (hlast : lowered r (d i) = none) :
    h.searchDepth r k sl t = .error l := by
  obtain ⟨few, loop⟩ := searchDepth_loop hrows hcols hform hrel hfit hmax hstart hsteps
  rw [loop]
  exact depthLoop_refuses hsteps few hfails hlast

end

/-! ### Admission in the order of R175 and R201 -/

section
variable {h : Hw} {r : SearchRec} {k : Nat} {sl : Slot} (hsl : h.recAt k = some sl) (m : MsgHdr)
include hsl

theorem admitSearch_refused {reason : Nat} (hr : firstReason (h.searchReasons r k sl (h.template r.template)) = reason) (h0 : reason ≠ 0) :
    h.admitSearch m r k = (h, reason) := by
  subst hr
  rw [admitSearch, hsl]
  dsimp only
  split
  · exact Prod.ext rfl (if_neg h0)
  · exact if_pos h0

variable {t : Template} (ht : h.template r.template = some t) (hr : firstReason (h.searchReasons r k sl (h.template r.template)) = 0)
include ht hr

/-- Without contexts or beams enough there is no buffer. -/
theorem admitSearch_noBuffer (hno : (h.freeContexts r k sl t).length < (h.famsOf r.families).length ∨ h.searchBeams r k sl t < r.beamsMin) :
    h.admitSearch m r k = (h, 4) := by
  rw [ht] at hr
  rw [admitSearch, hsl]
  simp only [ht]
  exact (if_neg (not_not.mpr hr)).trans (if_pos hno)

variable (hroom : ¬ ((h.freeContexts r k sl t).length < (h.famsOf r.families).length ∨ h.searchBeams r k sl t < r.beamsMin))
include hroom

/-- Without a depth that has room there is no budget. -/
theorem admitSearch_noBudget {l : Nat} (hd : h.searchDepth r k sl t = .error l) : h.admitSearch m r k = (h.countLevel l, 3) := by
  rw [ht] at hr
  rw [admitSearch, hsl]
  simp only [ht]
  refine (if_neg (not_not.mpr hr)).trans ((if_neg hroom).trans ?_)
  split
  · next l' hl' =>
    obtain rfl := Except.error.inj (hl'.symm.trans hd)
    rfl
  · next d hd' => cases hd'.symm.trans hd

/-- At a depth that has room the occasion is admitted. -/
theorem admitSearch_admitted {d : Depth} (hd : h.searchDepth r k sl t = .ok d) : h.admitSearch m r k = (h.withSearch r k sl t m d, 0) := by
  rw [ht] at hr
  rw [withSearch, admitSearch, hsl]
  simp only [ht]
  refine (if_neg (not_not.mpr hr)).trans ((if_neg hroom).trans ?_)
  split
  · next l hl => cases hl.symm.trans hd
  · next d' hd' =>
    obtain rfl := Except.ok.inj (hd'.symm.trans hd)
    have cut : (if d'.b != r.rows * r.cols || d'.c != r.cohReq || d'.k != r.noncohReq then inc h.crn.cut else h.crn.cut) =
        if d'.b = r.rows * r.cols ∧ d'.c = r.cohReq ∧ d'.k = r.noncohReq then h.crn.cut else inc h.crn.cut := by
      rw [← ite_not]
      exact if_congr (by simp [or_assoc]) rfl rfl
    simp only [each_reserve]
    rw [← cut]
    rfl

end

theorem firstReason_zero (l : List Nat) : firstReason (0 :: l) = firstReason l := rfl

/-- The first reason against an occasion in S8 for a tick from slot 7 on, not too near and not too far (R66, R202). -/
theorem searchReason_eq (h : Hw) (r : SearchRec) (k : Nat) (sl : Slot) (t : Option Template) {k7 : Nat} (h7 : h.sta.k7 = some k7)
    (hk : k7 ≤ k) (h8 : 8 ≤ h.sta.stage) (hlo : (sl.minLead : Int) * 98304 ≤ (h.tickAt k : Int) * 100000 - h.tim.c * 100000)
    (hhi : (h.tickAt k : Int) * 100000 - h.tim.c * 100000 ≤ sl.earlyLimit * 98304) : firstReason (h.searchReasons r k sl t) =
    if sl.kind = 4 ∨ sl.cairn ≠ 1 then 10 else if searchForm r = false then 8
    else if (h.famsOf r.families).length ≠ (maskFams r.families).length ∨
      (t.any fun t => (maskFams r.families).all (bit t.familyMask)) = false then 12
    else if (t.any fun t => h.searchRelations sl t r k (h.reportAt r)) = false then 8 else if 2048 ≤ h.fhl.control.length then 4 else 0 := by
  have slot7 : h.before7 k = false := by simp [before7, h7, hk]
  have within : h.window k h.tim.c sl.minLead sl.earlyLimit = 0 := by
    have near : h.leadBelow k h.tim.c sl.minLead = false := by simpa [leadBelow, tickFine, nsFine] using hlo
    have far : h.leadAbove k h.tim.c sl.earlyLimit = false := by simpa [leadAbove, tickFine, nsFine] using hhi
    rw [window, near, far]
    rfl
  have stage : h.stageForbids 0x12 = false := by simp [stageForbids, h8]
  rw [searchReasons, slot7, within, stage]
  simp (disch := decide) only [firstReason_ifBad, firstReason_zero]
  simp [firstReason, controlFull]

/-- The refusals of an occasion in `g` are those of `g` with the searches as they are. -/
theorem refused_onCrn {g t : Hw} {m : MsgHdr} {reason eaxc fid idx typ : Nat} (hr : g.refused t m reason eaxc fid idx typ) (f : Crn → Crn) :
    (g.onCrn f).refused (t.onCrn f) m reason eaxc fid idx typ := by
  obtain ⟨hkeep, hrest⟩ := hr
  refine ⟨?_, hrest⟩
  rw [hkeep]
  rfl

end Hw

theorem exec_searchOccasion (s : State) (dt : Nat) (m : MsgHdr) (r : SearchRec) :
    exec (.searchOccasion dt m 0 r) s = execSearchOccasion dt m 0 r s := rfl

section
variable {s : State} {dt : Nat} {m : MsgHdr} {r : SearchRec} {f : Flow} {h : Hw} (he : s.hw.elapse dt = h) (hm : h.stands m (some f) 0x12 36 0)
  (ht : m.msgType = 2) (hd : f.dir = 2)
include he hm ht hd

/-- An occasion refused: `g` is what the budget step leaves (R205, R223). -/
theorem exec_searchOccasion_refused {g : Hw} (hg : g.Settled) {reason : Nat} (h0 : reason ≠ 0) (hff : reason ≠ 0xFF)
    (hadm : ∀ st, (h.openedOn f st).admitSearch m r (h.msgTick m) = (g.openedOn f st, reason)) :
    ∃ t, exec (.searchOccasion dt m 0 r) s = .next t ∧ t.pending = s.pending ∧ t.mem = s.mem ∧
      (g.onCrn fun x => { x with refused := min (2 ^ 32 - 1) (x.refused + 1) }).refused t.hw m reason f.eaxc f.id 0 0x12 := by
  obtain ⟨st, hst⟩ := Hw.stands_on_judge hm ht hd rfl (fun _ => rfl) fun h k => h.admitSearch m r k
  have single : m.layout.length = 1 := by rw [Hw.stands_on_layout hm]; rfl
  have closed : g.refused ((g.openedOn f st).closeRec m 0 0x12 reason) m reason f.eaxc f.id 0 0x12 :=
    Hw.closeRec_refused (g.openedOn f st) m 0x12 reason single h0 rfl
  have counted := Hw.refused_onCrn closed fun x => { x with refused := min (2 ^ 32 - 1) (x.refused + 1) }
  have still : (g.onCrn fun x => { x with refused := min (2 ^ 32 - 1) (x.refused + 1) }).Settled := hg
  rw [hadm] at hst
  refine ⟨_, (exec_searchOccasion ..).trans (ok_becomes s dt ?_ (Hw.refused_settled counted still)), rfl, rfl, counted⟩
  rw [he]
  dsimp only
  rw [hst, bne_iff_ne.mpr h0, bne_iff_ne.mpr hff]
  rfl

/-- An occasion admitted (R175). -/
theorem exec_searchOccasion_admitted {g : SeqState → Hw}
    (hadm : ∀ st, (h.openedOn f st).admitSearch m r (h.msgTick m) = (g st, 0)) (hg : ∀ st, (g st).Settled)
    (hc : ∀ st, (g st).fhl.cur.refusals = []) :
    ∃ st c, exec (.searchOccasion dt m 0 r) s = .next { s with hw := (g st).onFhl fun x => { x with cur := c } } := by
  obtain ⟨st, hst⟩ := Hw.stands_on_judge hm ht hd rfl (fun _ => rfl) fun h k => h.admitSearch m r k
  have single : m.layout.length = 1 := by rw [Hw.stands_on_layout hm]; rfl
  obtain ⟨c, hclosed⟩ := Hw.closeRec_accepted (g st) m 0x12 single (hc st)
  rw [hadm, hclosed] at hst
  refine ⟨st, c, (exec_searchOccasion ..).trans (ok_becomes s dt ?_ (hg st))⟩
  rw [he]
  dsimp only
  rw [hst]
  rfl

end

section
variable {s : State} {dt : Nat} {m : MsgHdr} {r : SearchRec} {f : Flow} {h : Hw} (he : s.hw.elapse dt = h) (hs : h.Settled)
  (hm : h.stands m (some f) 0x12 36 0) (ht : m.msgType = 2) (hd : f.dir = 2) {sl : Slot} (hsl : h.recAt (h.msgTick m) = some sl)
include he hs hm ht hd hsl

/-- An occasion against which there is a reason is refused for it. -/
theorem exec_searchOccasion_reason {reason : Nat} (h0 : reason ≠ 0) (hff : reason ≠ 0xFF)
    (hr : Hw.firstReason (h.searchReasons r (h.msgTick m) sl (h.template r.template)) = reason) :
    ∃ t, exec (.searchOccasion dt m 0 r) s = .next t ∧ t.pending = s.pending ∧ t.mem = s.mem ∧
      (h.onCrn fun x => { x with refused := min (2 ^ 32 - 1) (x.refused + 1) }).refused t.hw m reason f.eaxc f.id 0 0x12 :=
  exec_searchOccasion_refused he hm ht hd hs h0 hff fun st => Hw.admitSearch_refused (h := h.openedOn f st) hsl m hr h0

variable {t : Template} (htemp : h.template r.template = some t)
  (hr : Hw.firstReason (h.searchReasons r (h.msgTick m) sl (h.template r.template)) = 0)
include htemp hr

/-- Without contexts or beams enough it is refused BUFFER. -/
theorem exec_searchOccasion_noBuffer (hno : (h.freeContexts r (h.msgTick m) sl t).length < (h.famsOf r.families).length ∨
      h.searchBeams r (h.msgTick m) sl t < r.beamsMin) :
    ∃ t, exec (.searchOccasion dt m 0 r) s = .next t ∧ t.pending = s.pending ∧ t.mem = s.mem ∧
      (h.onCrn fun x => { x with refused := min (2 ^ 32 - 1) (x.refused + 1) }).refused t.hw m 4 f.eaxc f.id 0 0x12 :=
  exec_searchOccasion_refused he hm ht hd hs (by decide) (by decide) fun st =>
    Hw.admitSearch_noBuffer (h := h.openedOn f st) hsl m htemp hr hno

variable (hroom : ¬ ((h.freeContexts r (h.msgTick m) sl t).length < (h.famsOf r.families).length ∨
  h.searchBeams r (h.msgTick m) sl t < r.beamsMin))
include hroom

/-- Without a depth that has room it is refused BUDGET. -/
theorem exec_searchOccasion_noBudget {l : Nat} (hdepth : h.searchDepth r (h.msgTick m) sl t = .error l) :
    ∃ t, exec (.searchOccasion dt m 0 r) s = .next t ∧ t.pending = s.pending ∧ t.mem = s.mem ∧
      ((h.countLevel l).onCrn fun x => { x with refused := min (2 ^ 32 - 1) (x.refused + 1) }).refused t.hw m 3 f.eaxc f.id 0 0x12 :=
  exec_searchOccasion_refused (g := h.countLevel l) (reason := 3) he hm ht hd hs (by decide) (by decide) fun st =>
    Hw.admitSearch_noBudget (h := h.openedOn f st) hsl m htemp hr hroom ((h.openedOn_searchDepth ..).trans hdepth)

/-- Else it is admitted at the depth decided. -/
theorem exec_searchOccasion_atDepth {d : Depth} (hdepth : h.searchDepth r (h.msgTick m) sl t = .ok d) : ∃ seqs cur,
    exec (.searchOccasion dt m 0 r) s = .next { s with
      hw := (h.withSearch r (h.msgTick m) sl t m d).onFhl fun x => { x with seqs := seqs, cur := cur } } := by
  obtain ⟨st, c, hexec⟩ := exec_searchOccasion_admitted he hm ht hd
    (g := fun st => (h.openedOn f st).withSearch r (h.msgTick m) sl t m d)
    (fun st => Hw.admitSearch_admitted (h := h.openedOn f st) hsl m htemp hr hroom ((h.openedOn_searchDepth ..).trans hdepth))
    (fun _ => hs) fun _ => rfl
  refine ⟨updN h.fhl.seqs f.id fun _ => st, c, ?_⟩
  rw [hexec, Hw.withSearch, Hw.openedOn_occasionAt]
  rfl

end

end Sys2Proof.Machine
end

section
/-! O56: search occasions admitted, their groups and their reports. -/
namespace Sys2Proof.Machine

/-- Settles O56: an occasion's own reasons decide, then contexts and beams, then the depth that the steps reach; a group's end and a report
find the occasion by its tag, and what they note of the words of the work area goes to HC0. -/
theorem searchOccasions : Obligations.SearchOccasions := by
  refine ⟨fun s dt hs => ⟨?admission, ?group⟩, ?report⟩
  case admission =>
    intro k7 m r f sl t h7 h8 k lead mask fs report top c n span bytes fits closing charges lower free ht hd hm hsl hk hlo hhi hrows hcols
      none_ refused
    set h := s.hw.elapse dt
    have hsh : h.Settled := Hw.elapse_settled _ hs dt
    have sta : h.sta = { s.hw.sta with since := s.hw.sta.since + dt } := Hw.elapse_sta ..
    have h7' : h.sta.k7 = some k7 := by rw [sta]; exact h7
    have h8' : 8 ≤ h.sta.stage := by rw [sta]; exact h8
    have hreason := h.searchReason_eq r k sl (h.template r.template) h7' hk h8' hlo hhi
    have answers := fun reason => exec_searchOccasion_reason rfl hsh hm ht hd hsl (r := r) (reason := reason)
    refine ⟨fun hno => ?slot, fun hcairn hkind => ?_⟩
    case slot => exact answers 10 (by decide) (by decide) (by rw [hreason, if_pos (.inr hno)])
    rw [if_neg (by simp [hcairn, hkind])] at hreason
    refine ⟨fun hform => ?form, ?_⟩
    case form => exact answers 8 (by decide) (by decide) (by rw [hreason, if_pos hform])
    intro hform hfams htemp hmask hrel hroom
    have template : h.template r.template = some t := htemp
    have named : ((h.template r.template).any fun t => (maskFams r.families).all (bit t.familyMask)) = true := by
      rw [template]
      exact List.all_eq_true.mpr hmask
    have related : ((h.template r.template).any fun t => h.searchRelations sl t r k (h.reportAt r)) = true := by
      rw [template]
      exact hrel
    have known : (h.famsOf r.families).length = (maskFams r.families).length := hfams
    have allowed : Hw.firstReason (h.searchReasons r k sl (h.template r.template)) = 0 := by
      rw [hreason, if_neg (by simp [hform]), if_neg (by simp [known, named]), if_neg (by simp [related]), if_neg (Nat.not_le.mpr hroom)]
    have noBuffer := exec_searchOccasion_noBuffer rfl hsh hm ht hd hsl htemp allowed
    refine ⟨fun hctx => noBuffer (.inl hctx), fun _ hfew => noBuffer (.inr (Hw.searchBeams_few hform hrel hfew)), ?_⟩
    intro hctx j i d hfit hmax hleast hstart hsteps
    have beams : h.searchBeams r k sl t = 2 ^ j := Hw.searchBeams_largest hrows hcols hform hrel hfit hmax
    have enough : ¬ ((h.freeContexts r k sl t).length < (h.famsOf r.families).length ∨ h.searchBeams r k sl t < r.beamsMin) := by
      rw [beams]
      exact not_or.mpr ⟨Nat.not_lt.mpr hctx, Nat.not_lt.mpr hleast⟩
    refine ⟨fun l hfails hlast => ?budget, fun hfits => ?admitted⟩
    case budget =>
      have depth : h.searchDepth r k sl t = .error l :=
        Hw.searchDepth_refuses hrows hcols hform hrel hfit hmax hstart hsteps hfails hlast
      exact exec_searchOccasion_noBudget rfl hsh hm ht hd hsl htemp allowed enough depth
    case admitted =>
      have depth : h.searchDepth r k sl t = .ok (d i) :=
        Hw.searchDepth_admits hrows hcols hform hrel hfit hmax hstart hsteps hfits
      obtain ⟨seqs, cur, hexec⟩ := exec_searchOccasion_atDepth rfl hsh hm ht hd hsl htemp allowed enough depth
      obtain ⟨-, -, -, -, -, -, -, -, -, -, -, -, -, -, hflow, -⟩ := hm
      have flow : (h.occasionAt r k sl t m (d i)).flow = f.id := by
        rw [Hw.occasionAt, hflow]
        rfl
      refine ⟨_, h.occasionAt r k sl t m (d i), hexec, rfl, rfl, rfl, rfl, flow, rfl, rfl, rfl, rfl, rfl, rfl, rfl, rfl, rfl, rfl,
        rfl, rfl, rfl, fun w hw u => ?_⟩
      exact Hw.assoc_chargesOn (h.depthCharges_nodup r k (d i)) hw h.trl.res u
  case group =>
    intro o a b ue hocc hb hone hact hmore due kept lost sound new o' crn
    set h := s.hw.elapse dt
    have hsh : h.Settled := Hw.elapse_settled _ hs dt
    have behind : h.groupCrn a o b ue = crn := by rw [Hw.groupCrn, Hw.groupDone_eq, Hw.groupKept_eq]
    refine ⟨fun hearly => ?early, fun hdue => ?due⟩
    case early => exact exec_cairnGroupEnd_early rfl hocc hone ue hsh (decide_eq_false hearly)
    case due =>
      have hexec := exec_cairnGroupEnd_due rfl hocc hone ue hb hact hmore (decide_eq_true hdue)
      rw [behind] at hexec
      refine ⟨_, hexec, rfl, Hw.workErrors_cells h _ ue, Hw.found_told _ _ _ _ rfl, ?sound, ?found⟩
      case sound =>
        rintro rfl
        exact ⟨Hw.found_sound _ _ _ rfl hsh hsh.1, rfl⟩
      case found =>
        rintro e rfl
        exact ⟨Hw.workErrors_err hb h e, fun j hj h45 => Hw.found_counts h _ hb e hj h45⟩
  case report =>
    intro s dt o t a b ue hs hb h hocc hone hclose ht kept lost o' good n seq
    have hsh : h.Settled := Hw.elapse_settled _ hs dt
    have occasion : Hw.reported o ue = o' := by rw [Hw.reported, Hw.bne_zero_eq_decide_pos]
    have listed : h.reportable o' = good := h.reportable_eq o'
    have hexec := exec_cairnReportSend_sent rfl hocc hone ue hb hclose
    rw [occasion] at hexec
    obtain ⟨tag, target, closing, status, sector, beams, groups, count, total⟩ := h.reportPayload_read o'
    obtain ⟨-, failed, truncated, overrange, partly⟩ := h.reportStatus_bits o'
    have lastStatus : (h.found s.mem ue (h.reportSent o' a b lost)).settle.crn.lastStatus = h.reportStatus o' :=
      congrArg Crn.lastStatus (Hw.settle_crn _)
    have sent := h.reportSent_eq o' a b lost
    have within := h.reportable_within o' ht
    have descending := h.reportable_descending o'
    rw [listed] at within descending truncated total count sent
    rw [← lastStatus] at status failed truncated overrange partly sent
    refine ⟨within, descending, _, h.reportPayload o', hexec, rfl, Hw.workErrors_cells h _ ue, ?unread,
      ⟨Hw.found_told h _ s.mem ue sent, ?sound⟩, ?length, ?entries,
      tag, target, closing, status, failed, truncated, overrange, partly, sector, beams, groups, count, total⟩
    case unread =>
      rintro rfl
      rfl
    case sound =>
      rintro rfl
      have quiet := h.found_sound _ s.mem sent hsh hsh.1
      exact quiet
    case length => rw [Hw.reportPayload_len, listed]
    case entries => rw [Hw.reportPayload_detections, listed]

end Sys2Proof.Machine
end

section
/-! Frames as they end at a port (R66, R180, R182, R192, R210, R262, R272, R284, R298, R361): counted, forwarded, dropped or refused.
Settles O51. -/
namespace Sys2Proof.Machine

/-- A port's entry is the entry of its number. -/
theorem upd_eq_updN {α : Type} {n : Nat} (v : Vector α n) (i : Fin n) (f : α → α) : upd v i f = updN v i f := by
  simp [updN]

namespace Hw

@[simp] theorem elapse_port (h : Hw) (d p : Nat) : (h.elapse d).port p = h.port p := by
  rw [port, elapse_ports, port]

/-! ### The counts of a port (R13, R180) -/

/-- A frame counted. -/
def countFrame (h : Hw) (p : PortId) : Hw := h.onFhl fun x => { x with rxFrames := updN x.rxFrames p inc48 }
/-- A frame below 64 bytes. -/
def dropShort (h : Hw) (p : PortId) : Hw := h.onFhl fun x => { x with undersize := updN x.undersize p inc }
/-- A frame with a bad frame check sequence or an error block. -/
def dropBad (h : Hw) (p : PortId) : Hw := h.onFhl fun x => { x with fcsBad := updN x.fcsBad p inc }
/-- A frame above 9,216 bytes. -/
def dropLong (h : Hw) (p : PortId) : Hw := h.onFhl fun x => { x with oversize := updN x.oversize p inc }
/-- A frame of another EtherType, address or tagging. -/
def dropOther (h : Hw) (p : PortId) : Hw := h.onFhl fun x => { x with otherDropped := updN x.otherDropped p inc }

/-! ### A frame's way through the model -/

/-- The marks that the loss of a link leaves for the frame it cuts are used up (R298). -/
def unmark (h : Hw) (p : PortId) : Hw := h.onPort p fun x => { x with errored := false, judged := false }
/-- A frame ends at a port: from S5 on, with link, or cut by its loss (R180, R298). -/
def frameEnds (h : Hw) (p : PortId) : Bool := 5 ≤ h.sta.stage && ((h.port p).linkUp || (h.port p).errored)
/-- Nothing speaks against a frame's octets (R284, R298, R361). -/
def frameGood (h : Hw) (p : PortId) (f : RxFrame) : Bool := f.fcsOk && !f.errorBlock && f.fifoParity == 0 && !(h.port p).errored

/-- A frame from port A to another address, while forwarding is on (R210). -/
def takeFromA (h : Hw) (p : PortId) (f : RxFrame) : Hw :=
  if isGroup f.dst then h.dropOther p
  else if !(h.port 1).linkUp then h.onFhl fun x => { x with fwdDrop := inc x.fwdDrop }
  else (h.onFhl fun x => { x with fwdA2b := inc48 x.fwdA2b }).send (.forward 1 f.octets)

/-- A frame that is not forwarded: the first reason to drop it, else its message (R180). -/
def takeHere (h : Hw) (p : PortId) (f : RxFrame) (good judged : Bool) : Hw :=
  if !good then (if judged then h else h.dropBad p)
  else if 9216 < f.len then h.dropLong p
  else if f.etherType ≠ 0xAEFE ∨ 1 < f.tags then h.dropOther p
  else h.whenB (h.ownMac == some f.dst) fun h => h.takeMsg (parseMsg p f)

/-- A counted frame. -/
def takeFrame (h : Hw) (p : PortId) (f : RxFrame) (good judged : Bool) : Hw :=
  if f.etherType = 0x88F7 then h.takePtp p f good
  else if h.fwdOn && p == 1 then (h.onFhl fun x => { x with fwdB2a := inc48 x.fwdB2a }).send (.forward 0 f.octets)
  else if h.fwdOn && h.ownMac != some f.dst then h.takeFromA p f
  else h.takeHere p f good judged

/-- A frame that ends at a port. -/
def frameEnded (h : Hw) (p : PortId) (f : RxFrame) : Hw :=
  let g := (h.unmark p).fifoError p f.fifoParity
  if f.len < 64 then g.dropShort p else (g.countFrame p).takeFrame p f (h.frameGood p f) (h.port p).judged

end Hw

theorem exec_frameRx (s : State) (dt : Nat) (p : PortId) (f : RxFrame) :
    exec (.frameRx dt p f) s = ok s dt fun h => h.whenB (h.frameEnds p) fun h => h.frameEnded p f := by
  show execFrameRx dt p f s = _
  unfold execFrameRx
  simp only [upd_eq_updN]
  rfl

namespace Hw

theorem frameEnds_iff (h : Hw) (p : PortId) :
    h.frameEnds p = true ↔ 5 ≤ h.sta.stage ∧ ((h.port p).linkUp = true ∨ (h.port p).errored = true) := by
  simp [frameEnds]

section
variable (h : Hw) (p : PortId) {f : RxFrame}

theorem frameGood_iff (hpar : f.fifoParity = 0) :
    h.frameGood p f = true ↔ f.fcsOk = true ∧ f.errorBlock = false ∧ (h.port p).errored = false := by
  simp [frameGood, hpar, and_assoc]

/-- Without parity errors a frame below 64 bytes counts as undersize alone. -/
theorem frameEnded_short (hpar : f.fifoParity = 0) (hlen : f.len < 64) : h.frameEnded p f = (h.unmark p).dropShort p := by
  rw [frameEnded, hpar]
  exact if_pos hlen

/-- Any other is counted, then taken. -/
theorem frameEnded_counted (hpar : f.fifoParity = 0) (hlen : 64 ≤ f.len) :
    h.frameEnded p f = ((h.unmark p).countFrame p).takeFrame p f (h.frameGood p f) (h.port p).judged := by
  rw [frameEnded, hpar]
  exact if_neg (Nat.not_lt.mpr hlen)

end

/-! ### PTP frames (R180, R262, R272) -/

/-- A PTP message with a row of its own. -/
def ptpRow (f : RxFrame) : Bool := [0, 1, 8, 9, 0xB].contains f.ptpType
/-- A PTP message that passes through the transparent clock. -/
def ptpThrough (h : Hw) (f : RxFrame) : Bool :=
  h.tcActive && f.tags == 0 && (ptpRow f || f.ptpType == 0xC || f.ptpType == 0xD)

theorem ptpRow_iff (f : RxFrame) : ptpRow f = true ↔ f.ptpType ∈ [0, 1, 8, 9, 0xB] := List.contains_iff_mem

theorem ptpThrough_iff (h : Hw) (f : RxFrame) : h.ptpThrough f = true ↔
    h.tcActive = true ∧ f.tags = 0 ∧ (f.ptpType ∈ [0, 1, 8, 9, 0xB] ∨ f.ptpType = 0xC ∨ f.ptpType = 0xD) := by
  rw [← ptpRow_iff]
  simp [ptpThrough, and_assoc, or_assoc]

theorem ptpIgnore_eq (h : Hw) (p : PortId) :
    h.ptpIgnore p = h.onTim fun t => { t with ptpIgnored := updN t.ptpIgnored p inc } := by
  simp only [ptpIgnore, upd_eq_updN]

section
variable {h : Hw} (p : PortId) {f : RxFrame} {good : Bool}

section
variable (ht : h.ptpThrough f = true)
include ht

theorem takePtp_through :
    h.takePtp p f good = if ptpRow f = true then h else (h.ptpIgnore p).send (.forward (1 - p.val) f.octets) := by
  have tags : (!h.tcActive && decide (1 < f.tags)) = false := by
    obtain ⟨active, -⟩ := (ptpThrough_iff h f).mp ht
    rw [active]
    rfl
  unfold takePtp
  extract_lets t known pass
  have hpass : pass = true := ht
  rw [hpass, tags]
  simp only [Bool.not_true, Bool.false_and, Bool.false_eq_true, if_false, whenB_true]
  rfl

/-- Through the clock a message with a row goes to it, and leaves from there. -/
theorem takePtp_through_row (hrow : ptpRow f = true) : h.takePtp p f good = h := (takePtp_through p ht).trans (if_pos hrow)

/-- Another is counted as ignored and passed on. -/
theorem takePtp_through_other (hrow : ¬ ptpRow f = true) :
    h.takePtp p f good = (h.ptpIgnore p).send (.forward (1 - p.val) f.octets) := (takePtp_through p ht).trans (if_neg hrow)

end

section
variable (ht : h.ptpThrough f = false)
include ht

/-- Elsewhere it is judged first, and never passed on. -/
theorem takePtp_judged :
    h.takePtp p f good = if good = false then h.dropBad p else if 9216 < f.len then h.dropLong p
      else if h.tcActive = false ∧ 1 < f.tags then h.dropOther p else if ptpRow f = true then h else h.ptpIgnore p := by
  unfold takePtp
  extract_lets t known pass
  have hpass : pass = false := ht
  rw [hpass]
  simp only [upd_eq_updN, whenB_false, Bool.not_false, Bool.true_and, Bool.and_eq_true, Bool.not_eq_true', decide_eq_true_eq]
  rfl

theorem takePtp_bad (hbad : good = false) : h.takePtp p f good = h.dropBad p := (takePtp_judged p ht).trans (if_pos hbad)

variable (hgood : good = true)
include hgood

theorem takePtp_long (hlen : 9216 < f.len) : h.takePtp p f good = h.dropLong p := by
  rw [takePtp_judged p ht, if_neg (ne_false_of_eq_true hgood), if_pos hlen]

variable (hlen : f.len ≤ 9216)
include hlen

theorem takePtp_tags (hoff : h.tcActive = false) (htags : 1 < f.tags) : h.takePtp p f good = h.dropOther p := by
  rw [takePtp_judged p ht, if_neg (ne_false_of_eq_true hgood), if_neg (Nat.not_lt.mpr hlen), if_pos ⟨hoff, htags⟩]

/-- A second tag counts against it only where the clock is not active. -/
theorem takePtp_stands (hone : h.tcActive = true ∨ f.tags ≤ 1) :
    h.takePtp p f good = if ptpRow f = true then h else h.ptpIgnore p := by
  have fits : ¬ (h.tcActive = false ∧ 1 < f.tags) := by
    rintro ⟨off, many⟩
    exact hone.elim (ne_true_of_eq_false off) (Nat.not_le.mpr many)
  rw [takePtp_judged p ht, if_neg (ne_false_of_eq_true hgood), if_neg (Nat.not_lt.mpr hlen), if_neg fits]

end
end

/-! ### A frame that is not forwarded (R180, R284) -/

section
variable (h : Hw) (p : PortId) {f : RxFrame} {good : Bool} (judged : Bool)

/-- One that FEC or the loss of the link has judged already is not counted again. -/
theorem takeHere_bad (hbad : good = false) : h.takeHere p f good judged = if judged then h else h.dropBad p := by
  rw [takeHere, hbad]
  rfl

variable (hgood : good = true)
include hgood

theorem takeHere_long (hlen : 9216 < f.len) : h.takeHere p f good judged = h.dropLong p := by
  rw [takeHere, hgood]
  exact if_pos hlen

variable (hlen : f.len ≤ 9216)
include hlen

theorem takeHere_other (ht : f.etherType ≠ 0xAEFE ∨ 1 < f.tags) : h.takeHere p f good judged = h.dropOther p := by
  rw [takeHere, hgood, if_neg (by decide), if_neg (Nat.not_lt.mpr hlen), if_pos ht]

theorem takeHere_message (ht : f.etherType = 0xAEFE) (htags : f.tags ≤ 1) :
    h.takeHere p f good judged = h.whenB (h.ownMac == some f.dst) fun h => h.takeMsg (parseMsg p f) := by
  rw [takeHere, hgood, if_neg (by decide), if_neg (Nat.not_lt.mpr hlen), if_neg (not_or.mpr ⟨not_not.mpr ht, Nat.not_lt.mpr htags⟩)]

end

/-! ### Which way a counted frame goes (R210) -/

section
variable {h : Hw} {p : PortId} {f : RxFrame} (good judged : Bool)

theorem takeFrame_ptp (ht : f.etherType = 0x88F7) : h.takeFrame p f good judged = h.takePtp p f good := if_pos ht

variable (ht : f.etherType ≠ 0x88F7)
include ht

theorem takeFrame_here (hfor : h.fwdOn = false ∨ p = 0 ∧ h.ownMac = some f.dst) :
    h.takeFrame p f good judged = h.takeHere p f good judged := by
  rw [takeFrame, if_neg ht]
  rcases hfor with off | ⟨rfl, own⟩
  · rw [off]
    rfl
  · simp [own]

theorem takeFrame_fromB (hon : h.fwdOn = true) (hp : p = 1) :
    h.takeFrame p f good judged = (h.onFhl fun x => { x with fwdB2a := inc48 x.fwdB2a }).send (.forward 0 f.octets) := by
  subst hp
  rw [takeFrame, if_neg ht, hon]
  rfl

theorem takeFrame_fromA (hon : h.fwdOn = true) (hp : p = 0) (hother : h.ownMac ≠ some f.dst) :
    h.takeFrame p f good judged = h.takeFromA p f := by
  subst hp
  rw [takeFrame, if_neg ht, hon, bne_iff_ne.mpr hother]
  rfl

end

/-- A frame forwarded waits at port A where it leaves there (R211). -/
theorem send_forward (h : Hw) (q : Nat) (b : Bytes) : h.send (.forward q b) = { h with out := { h.out with
    tx := h.out.tx ++ [.forward q b]
    portA := if q = 0 then { h.out.portA with fwd := h.out.portA.fwd ++ [.forward q b] } else h.out.portA } } := by
  by_cases hq : q = 0 <;> simp [send, Egress.put, TxFrame.port, TxFrame.passed, hq]

theorem isGroup_iff (mac : Nat) : isGroup mac = true ↔ mac / 2 ^ 40 % 2 = 1 := beq_iff_eq

section
variable (h : Hw) (p : PortId) {f : RxFrame}

theorem takeFromA_group (hg : f.dst / 2 ^ 40 % 2 = 1) : h.takeFromA p f = h.dropOther p := if_pos ((isGroup_iff _).mpr hg)

variable (hg : f.dst / 2 ^ 40 % 2 ≠ 1)
include hg

theorem takeFromA_down (hdown : (h.port 1).linkUp = false) :
    h.takeFromA p f = h.onFhl fun x => { x with fwdDrop := inc x.fwdDrop } := by
  rw [takeFromA, if_neg (mt (isGroup_iff _).mp hg), hdown]
  rfl

theorem takeFromA_up (hup : (h.port 1).linkUp = true) :
    h.takeFromA p f = (h.onFhl fun x => { x with fwdA2b := inc48 x.fwdA2b }).send (.forward 1 f.octets) := by
  rw [takeFromA, if_neg (mt (isGroup_iff _).mp hg), hup]
  rfl

end

/-! ### Messages to the package (R66, R182, R192) -/

section
variable (h : Hw) {m : MsgHdr}

/-- A message that a record's row judges, or of another type with a sound header, is left to its row. -/
theorem takeMsg_left (hm : (m.msgType = 0 ∨ m.msgType = 2) ∧ rowOpens m = true ∨
    ¬ (m.msgType = 0 ∨ m.msgType = 2) ∧ (m.msgType < 4 ∨ 7 < m.msgType ∨ commonOk m = true)) : h.takeMsg m = h := by
  rcases hm with ⟨data, opens⟩ | ⟨other, sound⟩
  · rw [takeMsg, if_pos data, if_pos opens]
  · have quiet : (decide (4 ≤ m.msgType) && decide (m.msgType ≤ 7) && !commonOk m) = false := by
      rw [Bool.eq_false_iff]
      simp only [ne_eq, Bool.and_eq_true, decide_eq_true_eq, Bool.not_eq_true', not_and, Bool.not_eq_false, and_imp]
      intro low high
      exact (sound.resolve_left (Nat.not_lt.mpr low)).resolve_left (Nat.not_lt.mpr high)
    rw [takeMsg, if_neg other, quiet]
    rfl

section
variable (hdata : m.msgType = 0 ∨ m.msgType = 2) (hrow : rowOpens m = false)
include hdata hrow

/-- Before slot 7 is announced a message that no row judges is refused MODE_FORBIDS (R66). -/
theorem takeMsg_before7 (h7 : h.sta.k7 = none) : h.refused (h.takeMsg m) m 10 0xFFFF 0xFF 0xFF 0 := by
  have unannounced : h.announced7 = false := by rw [announced7, h7]; rfl
  rw [takeMsg, if_pos hdata, hrow, unannounced]
  exact refuseMsg_refused h m 10

/-- From then on one with a bad header is refused MALFORMED (R182). -/
theorem takeMsg_malformed (h7 : h.sta.k7.isSome = true) (hbad : commonOk m = false ∨ m.size < 12) :
    h.refused (h.takeMsg m) m 8 0xFFFF 0xFF 0xFF 0 := by
  have head : headOk m = false := by
    rcases hbad with bad | short
    · rw [headOk, bad]
      rfl
    · exact headOk_false (.inr (.inr (.inr (.inr short))))
  have announced : h.announced7 = true := h7
  rw [takeMsg, if_pos hdata, hrow, announced]
  show h.refused (h.openMsg m 0) ..
  rw [openMsg, announced, checkMsg_head head]
  exact refuseMsg_refused (h.onFhl fun x => { x with cur := { reason := 8 } }) m 8

end

/-! ### What a frame leaves of the FIFOs' protection (R361) -/

theorem report_core (c : Cur) : (h.report m c).core = h.core :=
  (each_keep core _ (fun _ _ => congrArg Prod.fst (indicate_kept ..)) _ _).trans (each_keep core _ (by intros; rfl) _ _)

theorem checkMsg_core : (h.checkMsg m).1.core = h.core := by
  unfold checkMsg
  extract_lets mt f st
  split
  · rfl
  split
  · rfl
  split
  · rfl
  split
  · rfl
  clear_value st
  cases st <;> rfl

theorem openMsg_core : (h.openMsg m 0).core = h.core := by
  unfold openMsg
  rw [if_neg (not_not.mpr rfl)]
  split
  · rfl
  · exact (whenB_keep core _ _ _ (report_core ..)).trans (checkMsg_core h)

theorem takeMsg_core : (h.takeMsg m).core = h.core := by
  unfold takeMsg
  split
  · split
    · rfl
    split
    · exact openMsg_core h
    · exact report_core ..
  · exact whenB_keep core _ _ _ (congrArg Prod.fst (indicate_kept ..))

variable {p : PortId} {f : RxFrame} {good judged : Bool}

theorem takePtp_core : (h.takePtp p f good).core = h.core := by
  cases ht : h.ptpThrough f
  · rw [takePtp_judged p ht]
    split_ifs <;> rfl
  · rw [takePtp_through p ht]
    split <;> rfl

theorem takeFromA_core : (h.takeFromA p f).core = h.core := by
  unfold takeFromA
  split_ifs <;> rfl

theorem takeHere_core : (h.takeHere p f good judged).core = h.core := by
  unfold takeHere
  split_ifs
  · rfl
  · rfl
  · rfl
  · rfl
  · exact whenB_keep core _ _ _ (takeMsg_core h)

theorem takeFrame_core : (h.takeFrame p f good judged).core = h.core := by
  unfold takeFrame
  split_ifs
  · exact takePtp_core h
  · rfl
  · exact takeFromA_core h
  · exact takeHere_core h

/-- Whatever becomes of a frame, its FIFO errors stand as they were counted. -/
theorem frameEnded_core : (h.frameEnded p f).core = ((h.unmark p).fifoError p f.fifoParity).core := by
  unfold frameEnded
  extract_lets g
  split
  · rfl
  · exact takeFrame_core (g.countFrame p)

/-- Parity errors met are counted, and noted for the frame period. -/
theorem fifoError_counts {n : Nat} (hn : 0 < n) :
    (h.fifoError p n).fifoSeen = true ∧ (h.fifoError p n).fifoParity = cnt 32 h.fifoParity n := by
  rw [fifoError, if_neg hn.ne']
  exact ⟨whenB_keep (·.fifoSeen) _ _ _ rfl, whenB_keep (·.fifoParity) _ _ _ rfl⟩

theorem fifo_of_core {g : Hw} (same : g.core = h.core) : g.fifoSeen = h.fifoSeen ∧ g.fifoParity = h.fifoParity :=
  ⟨congrArg (fun r => r.2.2.2.2.2.2.2.2.2.2.2.2.2.2.2.2.1) same, congrArg (fun r => r.2.2.2.2.2.2.2.2.2.2.2.2.2.2.2.1) same⟩

theorem frameEnded_fifo (hpos : 0 < f.fifoParity) :
    (h.frameEnded p f).fifoSeen = true ∧ (h.frameEnded p f).fifoParity = cnt 32 h.fifoParity f.fifoParity := by
  obtain ⟨seen, count⟩ := fifoError_counts (h.unmark p) (p := p) hpos
  obtain ⟨sameSeen, sameCount⟩ := fifo_of_core _ (frameEnded_core h (p := p) (f := f))
  exact ⟨sameSeen.trans seen, sameCount.trans count⟩

end

/-! ### What a counted frame is judged by -/

theorem countFrame_fwdOn (h : Hw) (p : PortId) : (h.countFrame p).fwdOn = h.fwdOn := rfl
theorem countFrame_tcActive (h : Hw) (p : PortId) : (h.countFrame p).tcActive = h.tcActive := rfl
theorem countFrame_ownMac (h : Hw) (p : PortId) : (h.countFrame p).ownMac = h.ownMac := rfl

end Hw

section
variable {s : State} {dt : Nat} {p : PortId} {f : RxFrame} {e : Hw} (he : s.hw.elapse dt = e)
include he

/-- A frame that ends at a port leaves its effect, settled. -/
theorem exec_frameRx_settle (hend : e.frameEnds p = true) :
    exec (.frameRx dt p f) s = .next { s with hw := (e.frameEnded p f).settle } := by
  subst he
  exact (exec_frameRx ..).trans (ok_whenB s dt hend)

/-- No frame ends at a port before S5, or without link or loss of it: time passes. -/
theorem exec_frameRx_absent (hs : s.hw.Settled) (hno : e.frameEnds p = false) :
    exec (.frameRx dt p f) s = .next { s with hw := e } := by
  subst he
  rw [exec_frameRx]
  exact ok_still s dt _ hs (by rw [hno]; rfl)

variable (hend : e.frameEnds p = true)
include hend

theorem exec_frameRx_becomes {x : Hw} (hx : e.frameEnded p f = x) (hset : x.Settled) :
    exec (.frameRx dt p f) s = .next { s with hw := x } := by
  rw [exec_frameRx_settle he hend, hx, Hw.settle_of_settled _ hset]

/-- What becomes of a counted frame is what its way through the model makes of it. -/
theorem exec_frameRx_takes (hpar : f.fifoParity = 0) (hlen : 64 ≤ f.len) {x : Hw}
    (hx : ((e.unmark p).countFrame p).takeFrame p f (e.frameGood p f) (e.port p).judged = x) (hset : x.Settled) :
    exec (.frameRx dt p f) s = .next { s with hw := x } :=
  exec_frameRx_becomes he hend ((Hw.frameEnded_counted _ p hpar hlen).trans hx) hset

end

/-- Settles O51: the length decides first, then the EtherType, then whether the frame is forwarded; a frame that stays is dropped for the
first reason that holds, or its message is taken. -/
theorem frameReceived : Obligations.FrameReceived := by
  intro s dt p f hs e here
  have he : s.hw.elapse dt = e := rfl
  have hse : e.Settled := Hw.elapse_settled _ hs dt
  have port : e.port p = s.hw.port p := Hw.elapse_port ..
  have ends_iff : e.frameEnds p = true ↔ here := by
    rw [Hw.frameEnds_iff, port, Hw.elapse_sta]
  clear_value e
  refine ⟨?answers, fun hno => exec_frameRx_absent he hs (Bool.eq_false_iff.mpr (mt ends_iff.mp hno)), fun hhere hpar => ?received⟩
  case answers =>
    by_cases hhere : here
    · refine ⟨_, exec_frameRx_settle he (ends_iff.mpr hhere), rfl, rfl, fun _ hpos => ?_⟩
      rw [Hw.settle_fifoSeen, Hw.settle_fifoParity]
      exact Hw.frameEnded_fifo e hpos
    · exact ⟨_, exec_frameRx_absent he hs (Bool.eq_false_iff.mpr (mt ends_iff.mp hhere)), rfl, rfl, fun h => absurd h hhere⟩
  case received =>
    intro h good up32 got becomes ends passes
    have hend : e.frameEnds p = true := ends_iff.mpr hhere
    set g : Hw := h.countFrame p
    have fwdOn : g.fwdOn = h.fwdOn := h.countFrame_fwdOn p
    have tcActive : g.tcActive = h.tcActive := h.countFrame_tcActive p
    have ownMac : g.ownMac = h.ownMac := h.countFrame_ownMac p
    have good_iff : e.frameGood p f = true ↔ good := by
      rw [Hw.frameGood_iff e p hpar, port]
    have bad_iff : e.frameGood p f = false ↔ ¬ good := by rw [← good_iff, Bool.not_eq_true]
    have taken (hlen : 64 ≤ f.len) {x : Hw} (hx : g.takeFrame p f (e.frameGood p f) (s.hw.port p).judged = x) (hset : x.Settled) :
        becomes x := exec_frameRx_takes he hend hpar hlen (by rw [port]; exact hx) hset
    refine ⟨fun hlen => exec_frameRx_becomes he hend (Hw.frameEnded_short e p hpar hlen) hse, fun hlen htype => ?ptp,
      fun hlen htype hfor => ?stays, fun hlen htype hon => ?forwarded⟩
    case ptp =>
      intro row through ignored
      have ptp {x : Hw} (hx : g.takePtp p f (e.frameGood p f) = x) (hset : x.Settled) : becomes x :=
        taken hlen ((Hw.takeFrame_ptp _ _ htype).trans hx) hset
      have through_iff : g.ptpThrough f = true ↔ through := by rw [Hw.ptpThrough_iff, tcActive]
      have judged_iff : g.ptpThrough f = false ↔ ¬ through := by rw [← through_iff, Bool.not_eq_true]
      have row_iff : Hw.ptpRow f = true ↔ row := Hw.ptpRow_iff f
      have counted : g.ptpIgnore p = ignored := g.ptpIgnore_eq p
      refine ⟨fun ht hr => ptp (x := g) (Hw.takePtp_through_row p (through_iff.mpr ht) (row_iff.mpr hr)) hse,
        fun ht hr => ptp ?passed hse,
        fun ht hbad => ptp (x := g.dropBad p) (Hw.takePtp_bad p (judged_iff.mpr ht) (bad_iff.mpr hbad)) hse,
        fun ht hgood hlong => ptp (x := g.dropLong p) (Hw.takePtp_long p (judged_iff.mpr ht) (good_iff.mpr hgood) hlong) hse,
        fun ht hgood hfits hoff htags => ptp (x := g.dropOther p)
          (Hw.takePtp_tags p (judged_iff.mpr ht) (good_iff.mpr hgood) hfits (tcActive.trans hoff) htags) hse,
        fun ht hgood hfits hone => ?stands⟩
      case passed => rw [Hw.takePtp_through_other p (through_iff.mpr ht) (mt row_iff.mp hr), counted, Hw.send_forward]
      case stands =>
        rw [← tcActive] at hone
        have stands := Hw.takePtp_stands p (judged_iff.mpr ht) (good_iff.mpr hgood) hfits hone
        exact ⟨fun hr => ptp (x := g) (stands.trans (if_pos (row_iff.mpr hr))) hse,
          fun hr => ptp (stands.trans ((if_neg (mt row_iff.mp hr)).trans counted)) hse⟩
    case stays =>
      rw [← fwdOn, ← ownMac] at hfor
      have stays {x : Hw} (hx : g.takeHere p f (e.frameGood p f) (s.hw.port p).judged = x) (hset : x.Settled) : becomes x :=
        taken hlen ((Hw.takeFrame_here _ _ htype hfor).trans hx) hset
      refine ⟨fun hbad => ?bad,
        fun hgood hlong => stays (x := g.dropLong p) (Hw.takeHere_long _ _ _ (good_iff.mpr hgood) hlong) hse,
        fun hgood hfits hother => stays (x := g.dropOther p) (Hw.takeHere_other _ _ _ (good_iff.mpr hgood) hfits hother) hse,
        fun hgood hfits htype htags => ?message⟩
      case bad =>
        have dropped := Hw.takeHere_bad g p (f := f) (s.hw.port p).judged (bad_iff.mpr hbad)
        split
        · next hj => exact stays (x := g) (dropped.trans (if_pos hj)) hse
        · next hj => exact stays (x := g.dropBad p) (dropped.trans (if_neg hj)) hse
      case message =>
        intro m mine data refused
        have message := Hw.takeHere_message g p (s.hw.port p).judged (good_iff.mpr hgood) hfits htype htags
        rw [ownMac] at message
        have refuses {reason : Nat} (hmine : mine) (hr : g.refused (g.takeMsg m) m reason 0xFFFF 0xFF 0xFF 0) : refused reason :=
          ⟨_, stays (message.trans (by rw [beq_iff_eq.mpr hmine, Hw.whenB_true])) (Hw.refused_settled hr hse), rfl, rfl, hr⟩
        refine ⟨fun hleft => stays (x := g) (message.trans ?left) hse, fun hmine hdata hrow =>
          ⟨fun h7 => refuses hmine (Hw.takeMsg_before7 g hdata hrow h7),
            fun h7 hbad => refuses hmine (Hw.takeMsg_malformed g hdata hrow h7 hbad)⟩⟩
        case left =>
          rcases hleft with other | own
          · rw [beq_eq_false_iff_ne.mpr other, Hw.whenB_false]
          · exact Hw.whenB_keep id g _ _ (Hw.takeMsg_left g own)
    case forwarded =>
      have on : g.fwdOn = true := fwdOn.trans hon
      have fromA {x : Hw} (hp : p = 0) (hother : h.ownMac ≠ some f.dst) (hx : g.takeFromA p f = x) (hset : x.Settled) : becomes x :=
        taken hlen ((Hw.takeFrame_fromA _ _ htype on hp (by rw [ownMac]; exact hother)).trans hx) hset
      exact ⟨fun hp => taken hlen ((Hw.takeFrame_fromB _ _ htype on hp).trans (Hw.send_forward ..)) hse,
        fun hp hother hgroup => fromA hp hother (x := g.dropOther p) (Hw.takeFromA_group g p hgroup) hse,
        fun hp hother hone hup => fromA hp hother ((Hw.takeFromA_up g p hone hup).trans (Hw.send_forward ..)) hse,
        fun hp hother hone hdown => fromA hp hother (Hw.takeFromA_down g p hone hdown) hse⟩

end Sys2Proof.Machine
end

section
/-! A state alarm that was not raised (R398, R400), and the thermal trip (R228, R229, Table 10.9). Settles O43. -/
namespace Sys2Proof.Machine

/-- PAEN driven low: it has moved where it was high, and the span for which it was high is added (R313). -/
theorem Path.setPaen_low (p : Path) (up : Nat) : p.setPaen up false = { p with
    paen := false, paenMoved := p.paenMoved || p.paen
    fem := { p.fem with paenCc := if p.paen then p.fem.paenCc + (up - p.fem.paenFrom) else p.fem.paenCc, paenFrom := up } } := by
  rw [Path.setPaen, Bool.bne_false]

namespace Hw

/-! ### A state alarm raised -/

section
variable (h : Hw) {x : Happening} (hs : isState x.code = true) (hc : x.cease = false)
include hs hc

/-- A state alarm that is raised already is not raised again. -/
theorem take1_raised_again (hr : (x.code, x.arg) ∈ h.lko.raised) : h.take1 x = h := by
  simp [take1, hs, hc, hr]

/-- A state alarm that was not raised becomes the newest entry, and is raised. -/
theorem take1_raised_new (hr : (x.code, x.arg) ∉ h.lko.raised) :
    (h.take1 x).newest x.code x.arg ∧ (h.take1 x).lko.raised = h.lko.raised ++ [(x.code, x.arg)] := by
  have told : ∀ b, ((h.logEntry x b).whenB ((h.logEntry x b).tells x) fun g => g.sendAlarm x).lko = (h.logEntry x b).lko := fun b =>
    whenB_keep Hw.lko _ _ _ (sendAlarm_lko _ x)
  have fresh : h.lko.raised.contains (x.code, x.arg) = false := by simpa using hr
  simp only [take1, newest, hs, hc, fresh, told, Bool.and_false, Bool.false_eq_true, if_false, if_true]
  exact ⟨by rw [logEntry, ← hc]; rfl, rfl⟩

end

/-- One state alarm, raised where none waits: HC0 tells of it where it was not raised, and it is raised. -/
theorem happen_settle_raised (h : Hw) {x : Happening} (hp : h.lko.pend = []) (hs : isState x.code = true) (hc : x.cease = false) :
    (h.happen x).settle = h.told (h.happen x).settle ∧
      ((x.code, x.arg) ∉ h.lko.raised → (h.happen x).settle.newest x.code x.arg) ∧
      (x.code, x.arg) ∈ (h.happen x).settle.lko.raised := by
  obtain ⟨g, taken, before⟩ : ∃ g : Hw, (h.happen x).settle.lko = (g.take1 (h.seen x)).lko ∧ g.lko.raised = h.lko.raised :=
    ⟨{ h.happen x with lko := { h.lko with pend := [] } }, by
      rw [settle_eq, taken_one _ (h.seen x) (congrArg (· ++ [h.seen x]) hp)]; rfl, rfl⟩
  have again := g.take1_raised_again (x := h.seen x) hs hc
  have new := g.take1_raised_new (x := h.seen x) hs hc
  rw [newest, taken, ← before]
  refine ⟨settle_told h _ _ rfl, fun hr => (new hr).1, ?_⟩
  by_cases hr : (x.code, x.arg) ∈ g.lko.raised
  · rw [again hr]
    exact hr
  · rw [(new hr).2]
    exact List.mem_append_right _ (List.mem_singleton.mpr rfl)

/-! ### The trip -/

/-- The registers as a trip begins: every PAEN low, and what is on air lost and counted (R228, R229, log 78). -/
def tripped (h : Hw) (sensor : Nat) : Hw := { h with
  paths := vmapi h.paths fun _ p => { p.setPaen h.sta.since false with mutedTrip := true }
  out := { h.out with air := h.out.air.map fun a => { a with lost := true } }
  trl := { h.trl with
    tripHot := true, trip := true, tripSensor := sensor, tripTick := if h.tim.open_ then h.tim.k else 0, tripFrom := h.sta.since
    trips := inc h.trl.trips, tripLost := cnt 32 h.trl.tripLost (h.out.air.filter fun a => !a.lost).length } }

/-- TRL_THERMAL_TRIP with its sensor, and with the open window as its tick. -/
def tripAlarm (h : Hw) (sensor : Nat) : Happening :=
  { code := 0x0901, arg := (sensor : Int), tick := if h.tim.open_ then some h.tim.k else none }

/-- A reading of 125 °C or more during a trip only marks the frame hot (R228). -/
theorem tripNow_holds (h : Hw) (sensor : Nat) (ht : h.trl.trip = true) :
    h.tripNow sensor = h.onTrl fun t => { t with tripHot := true } := by
  simp only [tripNow, onTrl_trl, ht, Bool.not_true, whenB_false]

/-- A reading without one begins it. -/
theorem tripNow_begins (h : Hw) (sensor : Nat) (ht : h.trl.trip = false) :
    h.tripNow sensor = (h.tripped sensor).happen (h.tripAlarm sensor) := by
  have tick : (if h.tim.open_ then some h.tim.k else none).getD 0 = if h.tim.open_ then h.tim.k else 0 := by
    split <;> rfl
  simp only [tripNow, onTrl_trl, ht, Bool.not_false, whenB_true, tick]
  rfl

/-- A path whose PAEN the trip drives low (R228, R313). -/
theorem tripped_path (h : Hw) (sensor : Nat) {n : Nat} (hn : n < 64) :
    (h.tripped sensor).path n = { (h.path n).setPaen h.sta.since false with mutedTrip := true } :=
  getN_vmapi _ _ _ hn

/-- ALARM_N, ARM_IO and STAT do not follow what Treeline holds. -/
theorem onTrl_settled {h : Hw} (f : Trl → Trl) (hs : h.Settled) : (h.onTrl f).Settled := hs

/-- The temperature that a sensor shows. -/
def sensed (h : Hw) (sensor : Fin 32) (temp : Int) : Hw :=
  h.onTrl fun t => { t with sensors := updN t.sensors sensor fun _ => some temp }

end Hw

/-- A reading of 125 °C or more from S1 on. -/
theorem exec_thermalTrip_hot {s : State} (dt : Nat) (sensor : Fin 32) {temp : Int} (h1 : 1 ≤ s.hw.sta.stage) (hot : 1250 ≤ temp) :
    exec (.thermalTrip dt sensor temp) s = .next { s with hw := (((s.hw.elapse dt).sensed sensor temp).tripNow sensor).settle } := by
  show execThermalTrip dt sensor temp s = _
  unfold execThermalTrip
  rw [ok_whenB s dt (by simp [h1, hot])]
  simp only [upd_eq_updN]
  rfl

/-- Settles O43: a trip that holds only marks the frame hot (`tripNow_holds`); one that begins leaves what `tripped` says, and HC0 tells
of its alarm (`happen_settle_raised`). -/
theorem thermalTrip : Obligations.ThermalTrip := by
  intro s dt sensor temp hs h1 hot h read
  have hset : (h.sensed sensor temp).Settled := Hw.onTrl_settled _ (Hw.elapse_settled _ hs dt)
  have answer : exec (.thermalTrip dt sensor temp) s = .next { s with hw := ((h.sensed sensor temp).tripNow sensor).settle } :=
    exec_thermalTrip_hot dt sensor h1 hot
  clear_value h
  refine ⟨fun holds => ?holds, fun idle => ?begins⟩
  case holds =>
    rw [answer, (h.sensed sensor temp).tripNow_holds _ holds, Hw.settle_of_settled _ (Hw.onTrl_settled _ hset)]
    rfl
  case begins =>
    rw [(h.sensed sensor temp).tripNow_begins _ idle] at answer
    obtain ⟨frame, newest, raised⟩ := Hw.happen_settle_raised ((h.sensed sensor temp).tripped sensor)
      (x := (h.sensed sensor temp).tripAlarm sensor) hset.1 rfl rfl
    refine ⟨_, answer, rfl, rfl, ?frame, fun n => ?path, newest, raised⟩
    case frame =>
      dsimp only
      rw [Hw.settle_paths]
      exact frame
    case path =>
      rw [Hw.settle_path, Hw.path, Hw.happen_paths]
      refine (Hw.tripped_path _ sensor n.isLt).trans ?_
      rw [Path.setPaen_low]
      rfl

end Sys2Proof.Machine
end

section
/-! What every command answers (R353, R355, R359, R400, Table 3.1): a next state, HC0 settled in it and the memories in canonical form.
Settles O1, O2, O3 and O4. -/
namespace Sys2Proof.Machine

/-! ### Memory operations that the laws do not name -/

theorem Mem.spoil_wf (m : Mem) (w : Nat) (ue : Bool) (h : m.wf = true) : (m.spoil w ue).wf = true := by
  rw [wf_iff] at h ⊢
  obtain ⟨cells, valid, bad⟩ := h
  refine ⟨cells, insertNum_wf _ _ valid, ?_⟩
  show ((if m.err w = some true then m.bad else _).map (·.1)).Pairwise (· < ·)
  split
  · exact bad
  · exact insertBad_wf _ _ _ (filter_bad_wf _ _ bad)

theorem loadBeam_wf (m : Mem) (r : Bytes) (h : m.wf = true) : (loadBeam m r).wf = true :=
  Mem.foldl_wf _ (fun _ _ hm => Mem.write_wf _ _ _ hm) _ _ h

theorem loadImage_wf (m : Mem) (nvm : Bytes) (im : Image) (h : m.wf = true) : (loadImage m nvm im).wf = true := by
  refine Mem.foldl_wf _ (fun m s hm => ?_) _ _ h
  split
  · exact Mem.write_wf _ _ _ hm
  · exact Mem.write_wf _ _ _ hm
  · exact Mem.foldl_wf _ loadBeam_wf _ _ hm
  · exact hm

theorem capPut_wf (c : CapSetup) (o n : Nat) (w : Nat × Nat) (see : Nat → Nat → IQ × Bool) (m : Mem) (f : Nat) (h : m.wf = true) :
    (capPut c o n w see m f).wf = true :=
  Mem.foldl_wf _ (fun _ _ hm => Mem.write_wf _ _ _ hm) _ _ (Mem.foldl_wf _ (fun _ _ hm => Mem.write_wf _ _ _ hm) _ _ h)

namespace Hw
variable (h : Hw) {m : Mem} (hm : m.wf = true)
include hm

theorem torStore_wf (t a w v : Nat) : (h.torStore m t a w v).2.wf = true := by
  unfold torStore
  split
  · exact Mem.write_wf _ _ _ hm
  · exact Mem.write_wf _ _ _ hm
  all_goals exact hm

theorem imgBurn_wf (nvm : Bytes) (im : Image) (burn : Burn) : (h.imgBurn m nvm im burn).2.wf = true := by
  unfold imgBurn
  split
  · split
    · exact loadImage_wf _ _ _ hm
    · exact Mem.wf_empty
    · exact Mem.wf_empty
  · exact loadImage_wf _ _ _ hm

theorem verifyRest_wf (nvm : Bytes) (burn : Burn) : (h.verifyRest m nvm burn).2.wf = true := by
  unfold verifyRest
  dsimp only
  split
  · exact Mem.wf_empty
  · split
    · exact Mem.wf_empty
    · exact imgBurn_wf _ hm ..

theorem writeEnds_wf : (h.writeEnds m).2.wf = true := by
  unfold writeEnds
  dsimp only
  split
  · exact Mem.wf_empty
  · exact hm

theorem writeWeights_wf (r : WeightRec) (v : Nat) : (h.writeWeights m r v).2.wf = true := by
  unfold writeWeights
  generalize List.range 64 = l
  induction l generalizing h m with
  | nil => exact hm
  | cons p l ih => exact ih _ (Mem.write_wf _ _ _ hm)

theorem workErrors_wf (l : List WorkUe) : (h.workErrors m l).2.wf = true :=
  Mem.foldl_wf _ (fun _ _ hm => Mem.spoil_wf _ _ _ hm) _ _ hm

theorem capWrite_wf : (h.capWrite m).wf = true := by
  refine Mem.foldl_wf _ (fun m s hm => ?_) _ _ hm
  split
  · exact hm
  · dsimp only
    split
    · exact hm
    · exact Mem.foldl_wf _ (fun _ _ hm => capPut_wf _ _ _ _ _ _ _ hm) _ _ hm

end Hw

theorem Mem.upsets_wf (m : Mem) (l : List (Nat × Bool)) (h : m.wf = true) : (m.upsets l).wf = true := foldl_wf _ upset_wf _ _ h

/-! ### The forms of an answer -/

/-- A next state: HC0 has settled its registers, and its memories are in canonical form where those of `s` are. -/
def Answers (s : State) (o : Host.Outcome State Fault Refusal) : Prop :=
  ∃ t, o = .next t ∧ t.hw.Settled ∧ (s.mem.wf = true → t.mem.wf = true)

section
variable {s : State}

theorem ok_answers {dt : Nat} {f : Hw → Hw} : Answers s (ok s dt f) := ⟨_, ok_eq s dt f, Hw.settle_settled _, id⟩

theorem okM_answers {dt : Nat} {f : Hw → Mem → Hw × Mem} (hf : ∀ h m, m.wf = true → (f h m).2.wf = true) : Answers s (okM s dt f) :=
  ⟨_, okM_eq s dt f, Hw.settle_settled _, hf _ _⟩

variable {t : EngId} {words : Nat} {legal : Bool}

theorem torRun_answers {f : Hw → Mem → Hw × Mem} (hf : ∀ h m, m.wf = true → (f h m).2.wf = true) :
    Answers s (torRun s t words legal f) :=
  okM_answers fun h m hm => by
    dsimp only
    split; · exact hm
    split; · exact hm
    split; · exact hm
    split; · exact hm
    split; · exact hm
    exact hf _ _ hm

/-- A Tor instruction whose effect leaves the memories. -/
theorem torRun_answers_still {f : Hw → Mem → Hw × Mem} (hf : ∀ h m, (f h m).2 = m) : Answers s (torRun s t words legal f) :=
  torRun_answers fun h m hm => by rwa [hf]

theorem torStep_answers {ns : List Tor.Need} {ps : List (Nat × Nat)} {f : Tor → Tor} : Answers s (torStep s t words legal ns ps f) :=
  torRun_answers_still fun _ _ => rfl

theorem torAlu_answers {x : Bool} {a b : BitVec 4} {ext : Word} {f : Tor → Word → Word → Tor} : Answers s (torAlu s t x a b ext f) :=
  torStep_answers

theorem torShift_answers {x : Bool} {d a b : BitVec 4} {ext : Word} {f : Word → Nat → Word} {out : Word → Nat → Bool} :
    Answers s (torShift s t x d a b ext f out) :=
  torRun_answers_still fun _ _ => rfl

theorem torMac_answers {a : BitVec 2} {dx dy : BitVec 4} {f : IQ → IQ → IQ → IQ} : Answers s (torMac s t legal a dx dy f) :=
  torStep_answers

theorem torTap_answers {d1 d2 : BitVec 4} {p1 p2 : BitVec 3} {ps : List (Nat × Nat)} {f : Tor → Tor} :
    Answers s (torTap s t legal d1 p1 d2 p2 ps f) :=
  torRun_answers_still fun _ _ => by
    dsimp only
    split <;> rfl

theorem torStoreStep_answers {x : Bool} {p : BitVec 3} {mode : BitVec 2} {imm : BitVec 14} {ext : Word} {w : Nat}
    {ns : List Tor.Need} {val : Tor → Nat} {f : Tor → Tor} : Answers s (torStoreStep s t x legal p mode imm ext w ns val f) :=
  torRun_answers fun h m hm => by
    dsimp only
    split
    · exact hm
    · split
      · exact hm
      · exact Hw.torStore_wf _ hm ..

end

/-! ### The commands that write the memories -/

section
variable (s : State) (dt : Nat)

theorem execImageReadDone_answers (nvm : Bytes) (burn : Burn) : Answers s (execImageReadDone dt nvm burn s) :=
  okM_answers fun h m hm => by
    dsimp only
    split
    · split
      · exact Mem.wf_empty
      · split
        · exact Hw.verifyRest_wf _ hm ..
        · exact loadImage_wf _ _ _ hm
    · exact hm

theorem execImgReadRetry_answers (nvm : Bytes) (burn : Burn) : Answers s (execImgReadRetry dt nvm burn s) :=
  okM_answers fun h m hm => by
    dsimp only
    split
    · split
      · split
        · exact Mem.wf_empty
        · exact Hw.verifyRest_wf _ Mem.wf_empty ..
      · exact Mem.wf_empty
    · exact hm

theorem execObsRecordWritten_answers (q : QuadId) (adc : List (Int × Bool)) : Answers s (execObsRecordWritten dt q adc s) :=
  okM_answers fun h m hm => by
    extract_lets o n dl first out x u y ovr slot a data bytes inShared h'
    clear_value bytes x inShared h'
    split; · exact hm
    split; · exact hm
    split
    · exact Mem.write_wf _ _ _ hm
    · exact hm

theorem execNvmOpDone_answers (readback : Bytes) : Answers s (execNvmOpDone dt readback s) :=
  okM_answers fun h m hm => by
    dsimp only
    split; · exact hm
    split; · exact hm
    split <;> exact Hw.writeEnds_wf _ hm

theorem execNvmWriteFail_answers : Answers s (execNvmWriteFail dt s) :=
  okM_answers fun h m hm => by
    split
    · exact Hw.writeEnds_wf _ hm
    · exact hm

theorem execWeightLoad_answers (m : MsgHdr) (idx : Nat) (r : WeightRec) : Answers s (execWeightLoad dt m idx r s) :=
  okM_answers fun h m hm => by
    dsimp only
    split
    · exact Hw.writeWeights_wf _ hm ..
    · exact hm

theorem execRemoteReset_answers (p : PortId) (dst src : Nat) (vlan : Option Nat) (id op : Nat) :
    Answers s (execRemoteReset dt p dst src vlan id op s) :=
  okM_answers fun h m hm => by
    dsimp only
    split; · exact hm
    split; · exact hm
    split; · exact hm
    split
    · exact hm
    · exact Mem.wf_empty

theorem execCaptureRecordEnd_answers (i : SetupId) (obs : List (QuadId × Nat × List (Int × Bool))) :
    Answers s (execCaptureRecordEnd dt i obs s) :=
  okM_answers fun h m hm => by
    dsimp only
    split
    · split; · exact hm
      split <;> exact Mem.foldl_wf _ (fun _ _ hm => Mem.write_wf _ _ _ (Mem.write_wf _ _ _ hm)) _ _ hm
    · exact hm

theorem execCaptureAreaOpen_answers (i : SetupId) : Answers s (execCaptureAreaOpen dt i s) :=
  okM_answers fun h m hm => by
    dsimp only
    split
    · split; · exact hm
      split
      · split <;> exact hm
      · split
        · exact hm
        · exact Mem.foldl_wf _ (fun _ _ hm => Mem.clear_wf _ _ _ hm) _ _ hm
    · exact hm

theorem execDmaResponse_answers (ch : ChId) : Answers s (execDmaResponse dt ch s) :=
  okM_answers fun h m hm => by
    dsimp only
    split
    · exact hm
    · split
      · exact hm
      · split
        · exact hm
        · exact Mem.write_wf _ _ _ hm

theorem execCairnGroupEnd_answers (occ : Nat) (ue : List WorkUe) : Answers s (execCairnGroupEnd dt occ ue s) :=
  okM_answers fun h m hm => by
    dsimp only
    split
    · exact hm
    · exact Hw.workErrors_wf h hm _

theorem execCairnReportSend_answers (occ : Nat) (ue : List WorkUe) : Answers s (execCairnReportSend dt occ ue s) :=
  okM_answers fun h m hm => by
    dsimp only
    split
    · exact hm
    · exact Hw.workErrors_wf h hm _

theorem execTick_answers (w : WindowIn) : Answers s (execTick w s) :=
  okM_answers fun h m hm => by
    dsimp only
    split; · exact hm
    cases h.tim.open_
    · exact hm
    · exact Hw.capWrite_wf _ (Mem.upsets_wf _ _ hm)

end

/-! ### Every command -/

theorem exec_answers (i : Instr) (s : State) : Answers s (exec i s) := by
  cases i
  all_goals dsimp only [exec]
  case poresetNLow | supplySupervisorTrip =>
    refine okM_answers ?_
    exact fun _ _ _ => Mem.wf_empty
  case imageReadDone => exact execImageReadDone_answers ..
  case imgReadRetry => exact execImgReadRetry_answers ..
  case tick => exact execTick_answers ..
  case weightLoad => exact execWeightLoad_answers ..
  case cairnGroupEnd => exact execCairnGroupEnd_answers ..
  case cairnReportSend => exact execCairnReportSend_answers ..
  case remoteReset => exact execRemoteReset_answers ..
  case obsRecordWritten => exact execObsRecordWritten_answers ..
  case nvmOpDone => exact execNvmOpDone_answers ..
  case nvmWriteFail => exact execNvmWriteFail_answers ..
  case captureRecordEnd => exact execCaptureRecordEnd_answers ..
  case captureAreaOpen => exact execCaptureAreaOpen_answers ..
  case dmaResponse => exact execDmaResponse_answers ..
  case nop | clrf | mvi | mov | modp | mva | lda | qmac =>
    dsimp only [execNop, execClrf, execMvi, execMov, execModp, execMva, execLda, execQmac]
    exact torStep_answers
  case add | sub | and | or | xor | add2 | sub2 | cmp =>
    dsimp only [execAdd, execSub, execAnd, execOr, execXor, execAdd2, execSub2, execCmp]
    exact torAlu_answers
  case shl | sar | shr => exact torShift_answers
  case cmac | cmacj | cmsu | cmul | rmac | clr => exact torMac_answers
  case ftap | ftapz | dld => exact torTap_answers
  case st | sta => exact torStoreStep_answers
  case halt | signal | done | sets =>
    refine torRun_answers_still fun _ _ => ?_
    rfl
  case loop =>
    refine torRun_answers_still fun _ _ => ?_
    extract_lets
    split; · rfl
    split <;> rfl
  case br =>
    refine torRun_answers_still fun _ _ => ?_
    dsimp only
    split <;> rfl
  case wait =>
    refine torRun_answers_still fun _ _ => ?_
    rfl
  case call | ret | jpop =>
    refine torRun_answers_still fun _ _ => ?_
    dsimp only
    split <;> rfl
  case ld =>
    refine torRun_answers_still fun _ _ => ?_
    dsimp only
    split; · rfl
    split <;> rfl
  all_goals exact ok_answers

theorem step_answers (s : State) : ∃ t, step s = .next t ∧ (s.hw.Settled → t.hw.Settled) ∧ (s.mem.wf = true → t.mem.wf = true) := by
  unfold step
  split
  · exact ⟨s, rfl, id, id⟩
  · next c rest _ =>
    obtain ⟨t, ht, settled, wf⟩ := exec_answers c { s with pending := rest }
    exact ⟨t, ht, fun _ => settled, wf⟩

/-- Settles O1, by the two branches of `step`. -/
theorem stepTakesFront : Obligations.StepTakesFront := by
  refine ⟨fun s c rest h => ?_, fun s h => ?_⟩
  · rw [step, h]
  · rw [step, h]

/-- Settles O2: every command answers a next state (`exec_answers`). -/
theorem stepAlwaysAnswers : Obligations.StepAlwaysAnswers := fun s =>
  let ⟨t, ht, _⟩ := step_answers s
  ⟨t, ht⟩

/-- Settles O3: every command writes the memories by operations that keep the canonical form. -/
theorem stepKeepsMemoryForm : Obligations.StepKeepsMemoryForm := by
  intro s t hm ht
  obtain ⟨t', ht', -, wf⟩ := step_answers s
  cases ht'.symm.trans ht
  exact wf hm

/-- Settles O4: every command ends in `Hw.settle`. -/
theorem stepKeepsSettled : Obligations.StepKeepsSettled := by
  intro s t hs ht
  obtain ⟨t', ht', settled, -⟩ := step_answers s
  cases ht'.symm.trans ht
  exact settled hs

end Sys2Proof.Machine
end

section
/-! What HC0 makes of one alarm or of the end of one (R205, R207, R398 to R402, Table 18.4). Settles O7. -/
namespace Sys2Proof.Machine
namespace Hw

/-! ### One happening taken -/

/-- HC0 passes over a state alarm that is raised already, and over the end of one that is not. -/
def passesOver (h : Hw) (x : Happening) : Bool :=
  isState x.code && (if x.cease then !h.lko.raised.contains (x.code, x.arg) else h.lko.raised.contains (x.code, x.arg))

/-- SENT of the log entry: the indication finds the queue (R401). -/
def sentNow (h : Hw) (x : Happening) : Bool := h.tells x && h.alarmDst.isSome && decide (h.fhl.queue.length < 256)

section
variable (h : Hw) (x : Happening)

theorem take1_passed (hd : h.passesOver x = true) : h.take1 x = h := by
  unfold take1
  exact if_pos hd

/-- The registers of HC0 after a happening that it does not pass over. -/
theorem take1_lko (hd : h.passesOver x = false) : (h.take1 x).lko =
    if isState x.code then { (h.logEntry x (h.sentNow x)).lko with
      raised := if x.cease then h.lko.raised.erase (x.code, x.arg) else h.lko.raised ++ [(x.code, x.arg)] }
    else if h.img.loaded.isSome && bit h.image.pkg.pinClasses (x.code / 256) then
      { (h.logEntry x (h.sentNow x)).lko with holds := h.lko.holds ++ [h.sta.since] }
    else (h.logEntry x (h.sentNow x)).lko := by
  unfold take1
  rw [if_neg (by exact Bool.eq_false_iff.mp hd)]
  extract_lets +onlyGivenNames sent g g'
  have kept : g'.kept = g.kept := whenB_keep kept _ _ _ (sendAlarm_kept g x)
  have lko : g'.lko = (h.logEntry x (h.sentNow x)).lko := whenB_keep Hw.lko _ _ _ (sendAlarm_lko g x)
  have img : g'.img = h.img := congrArg (fun r => r.1.2.2.1) kept
  have sta : g'.sta = h.sta := congrArg (fun r => r.2.1) kept
  have image : g'.image = h.image := congrArg (fun i => i.loaded.getD {}) img
  clear_value g'
  rw [image, img, sta]
  split
  · dsimp only
    rw [lko]
    rfl
  · split
    · dsimp only
      rw [lko]
      rfl
    · exact lko

/-- The fronthaul after it: as the indication leaves it. -/
theorem take1_fhl (hd : h.passesOver x = false) : (h.take1 x).fhl = (h.whenB (h.tells x) fun g => g.sendAlarm x).fhl := by
  have sent : ∀ b, ((h.logEntry x b).whenB ((h.logEntry x b).tells x) fun g => g.sendAlarm x).fhl =
      (h.whenB (h.tells x) fun g => g.sendAlarm x).fhl := fun b => by
    rw [show (h.logEntry x b).tells x = h.tells x from rfl]
    cases h.tells x
    · rfl
    · simp only [whenB_true, sendAlarm]
      rw [show (h.logEntry x b).alarmDst = h.alarmDst from rfl]
      split
      · rfl
      · unfold indicate
        rw [show (h.logEntry x b).fhl = h.fhl from rfl]
        split <;> rfl
  unfold take1
  rw [if_neg (by exact Bool.eq_false_iff.mp hd)]
  dsimp only
  split
  · exact sent _
  · split <;> exact sent _

/-- One happening in a settled state is the one that HC0 takes. -/
theorem happen_settle (hp : h.lko.pend = []) : (h.happen x).settle = (h.take1 (h.seen x)).settle := by
  have before : ({ h.happen x with lko := { (h.happen x).lko with pend := [] } } : Hw) = h := by
    rw [← hp]
    rfl
  have pend : (h.take1 (h.seen x)).lko.pend = [] := (take1_pend h _).trans hp
  rw [settle_eq, settle_eq, taken_nil _ pend, taken_one (h.happen x) (h.seen x) (congrArg (· ++ [h.seen x]) hp), before]

theorem happen_settle_lko (hp : h.lko.pend = []) : (h.happen x).settle.lko = (h.take1 (h.seen x)).lko := by
  rw [happen_settle h x hp, settle_nil _ ((take1_pend h _).trans hp)]
  rfl

theorem happen_settle_fhl (hp : h.lko.pend = []) : (h.happen x).settle.fhl = (h.take1 (h.seen x)).fhl := by
  rw [happen_settle h x hp, settle_nil _ ((take1_pend h _).trans hp)]
  rfl

/-- A happening that HC0 passes over leaves a settled state. -/
theorem happen_settle_passed (hs : h.Settled) (hd : h.passesOver (h.seen x) = true) : (h.happen x).settle = h := by
  rw [happen_settle h x hs.1, take1_passed h _ hd, settle_of_settled h hs]

end

/-- An alarm that HC0 passes over is a state alarm raised already. -/
theorem passesOver_alarm (h : Hw) (x : Happening) (hc : x.cease = false) :
    h.passesOver x = true ↔ isState x.code = true ∧ (x.code, x.arg) ∈ h.lko.raised := by
  simp [passesOver, hc]

theorem passesOver_cease (h : Hw) (x : Happening) (hs : isState x.code = true) (hc : x.cease = true) :
    h.passesOver x = true ↔ (x.code, x.arg) ∉ h.lko.raised := by
  simp [passesOver, hc, hs]

/-! ### The indication (R205, R207) -/

/-- An indication finds the queue, or is lost and counted. -/
theorem indicate_fhl (h : Hw) (d : Nat) (v : Option Nat) (ty : Nat) (els : List Bytes) :
    (h.fhl.queue.length < 256 → (h.indicate d v ty els).fhl = { h.fhl with
      queue := h.fhl.queue ++
        [.indication 0 d v (be 1 h.fhl.indCount ++ be 1 ty ++ be 1 h.fhl.indCount ++ be 1 els.length ++ els.flatten)]
      indCount := (h.fhl.indCount + 1) % 256 }) ∧
    (256 ≤ h.fhl.queue.length → (h.indicate d v ty els).fhl = { h.fhl with refusalLost := inc h.fhl.refusalLost }) := by
  unfold indicate
  constructor <;> intro hq
  · rw [if_neg (by omega)]
    rfl
  · rw [if_pos hq]
    rfl

/-- The indication of an alarm without context and tick. -/
theorem sendAlarm_plain (h : Hw) (x : Happening) {f : Flow} (hf : h.alarmDst = some f) (hx : x.ctx = none) (ht : x.tick = none) :
    h.sendAlarm x = h.indicate f.dstMac (tagOf f) 0 [element 0xFFFF (b2n x.cease) 0x800 (x.code * 65536 + Machine.code 16 x.arg)] := by
  simp only [sendAlarm, hf, hx, ht, List.append_nil]

/-! ### An alarm raised -/

section
variable (h : Hw) (code : Nat) (arg : Int) (extra : Nat)

/-- The log entry of an alarm (R399, Table 18.4). -/
def alarmEntry : LogEnt :=
  { number := low32 h.lko.written, code := code, arg := arg, extra := low32 extra, cease := false, timeValid := h.tim.stepped
    sent := h.sentNow (h.seen { code := code, arg := arg, extra := extra }), stage := h.sta.stage
    tick := if h.sta.stage < 3 then 0xFFFFFFFF else low32 h.tim.k, tod := if h.sta.stage < 3 then 0 else todUnits h.tim.c, at_ := h.sta.since }

omit code arg extra in
theorem tells_seen (x : Happening) : h.tells (h.seen x) = (decide (5 ≤ h.sta.stage) && h.sta.firstLink) := rfl

theorem sentNow_alarm : h.sentNow (h.seen { code := code, arg := arg, extra := extra }) = true ↔
    5 ≤ h.sta.stage ∧ h.sta.firstLink = true ∧ h.alarmDst.isSome = true ∧ h.fhl.queue.length < 256 := by
  simp [sentNow, tells_seen, and_assoc]

variable {h code arg extra} (hs : h.Settled) (hn : ¬ (isState code = true ∧ (code, arg) ∈ h.lko.raised))
include hs hn

/-- What HC0 has for itself after an alarm that it does not pass over. -/
theorem alarm_settle_lko : (h.alarm code arg extra).settle.lko =
    if isState code then { h.lko with
      log := (h.alarmEntry code arg extra :: h.lko.log).take 4096, written := inc48 h.lko.written, raised := h.lko.raised ++ [(code, arg)] }
    else { h.lko with
      log := (h.alarmEntry code arg extra :: h.lko.log).take 4096, written := inc48 h.lko.written
      holds := h.lko.holds ++ if h.img.loaded.isSome && bit h.image.pkg.pinClasses (code / 256) then [h.sta.since] else [] } := by
  have taken : h.passesOver (h.seen { code := code, arg := arg, extra := extra }) = false :=
    Bool.eq_false_iff.mpr (mt (passesOver_alarm h _ rfl).mp hn)
  refine (happen_settle_lko h _ hs.1).trans ((take1_lko h _ taken).trans ?_)
  show (if isState code then _ else if h.img.loaded.isSome && bit h.image.pkg.pinClasses (code / 256) then _ else _) = _
  split
  · rfl
  · split
    · rfl
    · rw [List.append_nil]
      rfl

/-- The fronthaul after it. -/
theorem alarm_settle_fhl : (h.alarm code arg extra).settle.fhl =
    (h.whenB (h.tells (h.seen { code := code, arg := arg, extra := extra }))
      fun g => g.sendAlarm (h.seen { code := code, arg := arg, extra := extra })).fhl :=
  (happen_settle_fhl h _ hs.1).trans (take1_fhl h _ (Bool.eq_false_iff.mpr (mt (passesOver_alarm h _ rfl).mp hn)))

end

/-- A state alarm's end that HC0 does not pass over. -/
theorem cease_settle_lko {h : Hw} {code : Nat} {arg : Int} (hp : h.lko.pend = []) (hstate : isState code = true)
    (hr : (code, arg) ∈ h.lko.raised) : (h.cease code arg).settle.newestCease code arg ∧
      (h.cease code arg).settle.lko.raised = h.lko.raised.erase (code, arg) ∧
      (h.cease code arg).settle.lko.holds = h.lko.holds ∧ (h.cease code arg).settle.lko.written = inc48 h.lko.written := by
  have taken : h.passesOver (h.seen { code := code, arg := arg, cease := true }) = false :=
    Bool.eq_false_iff.mpr fun e => (passesOver_cease h _ hstate rfl).mp e hr
  have lko := (happen_settle_lko h _ hp).trans (take1_lko h _ taken)
  rw [if_pos (show isState (h.seen { code := code, arg := arg, cease := true }).code = true from hstate)] at lko
  rw [newestCease, cease, lko]
  exact ⟨rfl, rfl, rfl, rfl⟩

end Hw

/-- Settles O7: an alarm or its end is passed over (`happen_settle_passed`), or taken as `alarm_settle_lko`, `cease_settle_lko` and
`alarm_settle_fhl` say. -/
theorem alarmsTaken : Obligations.AlarmsTaken := by
  refine ⟨fun h code arg extra hs => ?raise, fun h code arg hs hstate => ?cease, fun h code arg extra hs hn => ?indication⟩
  case raise =>
    intro t state
    refine ⟨Hw.settle_told h _ _ rfl, Hw.settle_settled _,
      fun again => Hw.happen_settle_passed h _ hs ((Hw.passesOver_alarm h _ rfl).mpr again), fun hn => ?_⟩
    have lko : t.lko = _ := Hw.alarm_settle_lko hs hn
    have log : t.lko.log = (h.alarmEntry code arg extra :: h.lko.log).take 4096 := by
      rw [lko]
      split <;> rfl
    have written : t.lko.written = inc48 h.lko.written := by
      rw [lko]
      split <;> rfl
    refine ⟨⟨h.alarmEntry code arg extra, log, rfl, rfl, rfl, rfl, rfl, rfl, Hw.sentNow_alarm h code arg extra, rfl, rfl, rfl, rfl⟩,
      written, fun hstate => ?_, fun hstate => ?_⟩
    · rw [lko, if_pos hstate]
      exact ⟨rfl, rfl⟩
    · rw [lko, if_neg hstate]
      refine ⟨rfl, ?_⟩
      simp only [bit, Bool.and_eq_true]
  case cease =>
    intro t
    exact ⟨Hw.settle_told h _ _ rfl, Hw.settle_settled _,
      fun hr => Hw.happen_settle_passed h _ hs ((Hw.passesOver_cease h _ hstate rfl).mpr hr), Hw.cease_settle_lko hs.1 hstate⟩
  case indication =>
    intro t
    have fhl : t.fhl = _ := Hw.alarm_settle_fhl hs hn
    refine ⟨fun before => ?_, fun h5 hlink f hf => ?_⟩
    · have quiet : h.tells (h.seen { code := code, arg := arg, extra := extra }) = false := by
        rw [Hw.tells_seen, Bool.and_eq_false_iff, decide_eq_false_iff_not, Nat.not_le]
        exact before
      rw [fhl, quiet, Hw.whenB_false]
    · have tells : h.tells (h.seen { code := code, arg := arg, extra := extra }) = true := by simp [Hw.tells_seen, h5, hlink]
      rw [tells, Hw.whenB_true, Hw.sendAlarm_plain h _ hf rfl rfl] at fhl
      obtain ⟨found, lost⟩ := h.indicate_fhl f.dstMac (Hw.tagOf f) 0
        [Hw.element 0xFFFF (b2n false) 0x800 (code * 65536 + Machine.code 16 arg)]
      refine ⟨fun hq => ?_, fun hq => ?_⟩
      · rw [fhl.trans (found hq)]
        refine ⟨?_, rfl, rfl⟩
        simp [Hw.element, Hw.tagOf, Machine.code, b2n, be, le]
      · rw [fhl.trans (lost hq)]
        exact ⟨rfl, rfl, rfl⟩

end Sys2Proof.Machine
end

section
/-! DMA_CNT_STATUS among the observation registers (R372, R394, Table 16.17). Settles O40. -/
namespace Sys2Proof.Machine

/-- A register found by its place in the block is found. -/
theorem regAt_of_regPos {l : List Reg} {next o p i e b : Nat} {r : Reg} (hp : regPos l next o p = some (p + i, e, b)) (hr : l[i]? = some r) :
    regAt l next o = some (r, e, b) := by
  induction l generalizing next p i with
  | nil => cases hp
  | cons r' rest ih =>
    have later : ∀ (l : List Reg) next p q, regPos l next o p = some q → p ≤ q.1 := by
      intro l
      induction l with
      | nil => intro _ _ _ h; cases h
      | cons _ _ ih =>
        intro next p q h
        simp only [regPos] at h
        split at h
        · cases h
        · split at h
          · cases h
            exact Nat.le_refl _
          · exact Nat.le_of_succ_le (ih _ _ _ h)
    simp only [regPos] at hp
    simp only [regAt]
    split at hp
    · cases hp
    · next h1 =>
      rw [if_neg h1]
      split at hp
      · next h2 =>
        rw [if_pos h2]
        obtain ⟨hi, he, hb⟩ : i = 0 ∧ (o - ceilDiv next (regSize r'.w) * regSize r'.w) / regSize r'.w = e ∧
            (o - ceilDiv next (regSize r'.w) * regSize r'.w) % regSize r'.w = b := by simpa [eq_comm] using hp
        subst hi he hb
        cases hr
        rfl
      · next h2 =>
        rw [if_neg h2]
        have := later _ _ _ _ hp
        obtain ⟨j, rfl⟩ : ∃ j, i = j + 1 := ⟨i - 1, by dsimp only at this; omega⟩
        exact ih (p := p + 1) (i := j) (by rw [hp]; congr 2; omega) (by simpa using hr)

/-- DMA_CNT_STATUS is the tenth register of its block. -/
theorem regPos_dmaCntStatus : ∀ j : Fin 128, regPos Hw.dmaRegs 0 (0x500 + j.val) 0 = some (9, j.val / 4, j.val % 4) := by decide

namespace Hw
variable (h : Hw) (m : Mem) (c : ChId)

/-- What the register shows of channel `c`. -/
def dmaCntStatus : Nat :=
  pack [(0, satBits 32 [(h.ch c).lists, (h.ch c).errors]), (2, satBit 48 (h.ch c).bytes)]

theorem dmaCntStatus_eq : h.dmaCntStatus c =
    (if (h.ch c).lists = 2 ^ 32 - 1 then 1 else 0) + (if (h.ch c).errors = 2 ^ 32 - 1 then 2 else 0) +
      (if (h.ch c).bytes = 2 ^ 48 - 1 then 4 else 0) := by
  have b : ∀ w x k, satBit w x * k = if x = 2 ^ w - 1 then k else 0 := fun w x k => by
    unfold satBit isSat b2n
    split <;> simp_all
  have lists := b 32 (h.ch c).lists 1
  have errors := b 32 (h.ch c).errors 2
  have bytes := b 48 (h.ch c).bytes 4
  simp only [dmaCntStatus, pack, satBits, List.foldr]
  omega

theorem spaceByte_dmaCntStatus {i : Nat} (hi : i < 4) :
    h.spaceByte m (0x80440500 + 4 * c.val + i) = some (BitVec.ofNat 8 (h.dmaCntStatus c / 256 ^ i)) := by
  have small : h.dmaCntStatus c % 2 ^ 32 = h.dmaCntStatus c := Nat.mod_eq_of_lt (by rw [dmaCntStatus_eq]; split <;> split <;> split <;> decide)
  have place : 0x80440500 + 4 * c.val + i = 0x80000000 + (17 * 0x40000 + (0x500 + (4 * c.val + i))) := by omega
  have pos := regPos_dmaCntStatus ⟨4 * c.val + i, by omega⟩
  rw [show (4 * c.val + i) / 4 = c.val by omega, show (4 * c.val + i) % 4 = i by omega] at pos
  have reg := regAt_of_regPos (l := dmaRegs) (p := 0) (i := 9) pos rfl
  rw [spaceByte, place, region_observation (by omega)]
  dsimp only
  rw [obsByte, if_pos (by omega), show (17 * 0x40000 + (0x500 + (4 * c.val + i))) / 0x40000 = 17 by omega,
    show (17 * 0x40000 + (0x500 + (4 * c.val + i))) % 0x40000 = 0x500 + (4 * c.val + i) by omega]
  dsimp only [blocks, List.getElem?_cons_succ, List.getElem?_cons_zero]
  rw [reg]
  exact congrArg (fun v => some (BitVec.ofNat 8 (v / 256 ^ i))) small

end Hw

/-- Settles O40: the register's place in the block (`regPos_dmaCntStatus`), and what it shows (`Hw.dmaCntStatus_eq`). -/
theorem dmaCountStatus : Obligations.DmaCountStatus := by
  intro h m c d
  have bytes := (Hw.spaceBytes_of_some (n := 4) fun i hi => h.spaceByte_dmaCntStatus m c hi).1
  have small : h.dmaCntStatus c < 8 := by rw [Hw.dmaCntStatus_eq]; split <;> split <;> split <;> decide
  rw [bytes, ← Hw.dmaCntStatus_eq]
  simp [List.range_succ, unle]
  omega

end Sys2Proof.Machine
end

section
/-! The Tor ALU (R334, R339, Tables 15.3 and 15.6): halves of a word, flags, and what each instruction makes of its engine. Settles O8. -/
namespace Sys2Proof.Machine

/-! ### Halves of a word -/

theorem code_eq_toNat_ofInt (w : Nat) (x : Int) : code w x = (BitVec.ofInt w x).toNat := by
  rw [code, BitVec.toNat_ofInt, Nat.cast_pow]
  rfl

/-- A word put together from the codes of its halves. -/
theorem ofNat_halves (p q : Int) : BitVec.ofNat 32 (code 16 p + 65536 * code 16 q) = BitVec.ofInt 16 q ++ BitVec.ofInt 16 p := by
  apply BitVec.eq_of_toNat_eq
  have hp := (BitVec.ofInt 16 p).isLt
  have hq := (BitVec.ofInt 16 q).isLt
  rw [BitVec.toNat_append, ← Nat.shiftLeft_add_eq_or_of_lt hp, Nat.shiftLeft_eq, BitVec.toNat_ofNat, code_eq_toNat_ofInt,
    code_eq_toNat_ofInt, Nat.mod_eq_of_lt (by omega)]
  omega

theorem toInt_extractLsb'_16 (w : Word) (start : Nat) : (w.extractLsb' start 16).toInt = signed 16 (w.toNat / 2 ^ start) := by
  rw [BitVec.toInt_eq_toNat_cond, BitVec.extractLsb'_toNat, Nat.shiftRight_eq_div_pow, signed]
  split <;> split <;> omega

theorem Tor.iq_eq (w : Word) : Tor.iq w = ⟨(w.extractLsb' 0 16).toInt, (w.extractLsb' 16 16).toInt⟩ := by
  rw [toInt_extractLsb'_16, toInt_extractLsb'_16, Nat.pow_zero, Nat.div_one]
  rfl

theorem sat16_eq (x : Int) : sat16 x = max (-32768) (min 32767 x) := by
  unfold sat16 clampZ
  split
  · omega
  · split <;> omega

/-- A half is zero where the value saturated into it is. -/
theorem code_sat16_eq_zero (x : Int) : code 16 (sat16 x) = 0 ↔ x = 0 := by
  rw [code, sat16_eq]
  omega

/-! ### Flags (Table 15.6) -/

namespace Tor

theorem flagsZN_eq (e : Tor) (r : Word) : e.flagsZN r = { e with z := decide (r = 0), n := decide (r.toInt < 0) } := by
  rw [flagsZN, BitVec.msb_eq_toInt]
  rfl

/-- A sum overflows where its sign differs from that of both operands. -/
theorem overflow_add (a b : Word) :
    (a.msb == b.msb && (a + b).msb != a.msb) = decide ((a + b).toInt ≠ a.toInt + b.toInt) := by
  have ha := a.isLt
  have hb := b.isLt
  rw [Bool.eq_iff_iff]
  simp only [BitVec.msb_eq_decide, BitVec.toInt_eq_toNat_cond, BitVec.toNat_add, Bool.and_eq_true, beq_iff_eq, bne_iff_ne, ne_eq,
    decide_eq_decide, decide_eq_true_iff]
  omega

/-- A difference overflows where the operands' signs differ and its sign is not the first one's. -/
theorem overflow_sub (a b : Word) :
    (a.msb != b.msb && (a - b).msb != a.msb) = decide ((a - b).toInt ≠ a.toInt - b.toInt) := by
  have ha := a.isLt
  have hb := b.isLt
  rw [Bool.eq_iff_iff]
  simp only [BitVec.msb_eq_decide, BitVec.toInt_eq_toNat_cond, BitVec.toNat_sub, Bool.and_eq_true, bne_iff_ne, ne_eq,
    decide_eq_decide, decide_eq_true_iff]
  omega

theorem flagsAdd_eq (e : Tor) (a b : Word) : e.flagsAdd a b = { e with
    z := decide (a + b = 0), n := decide ((a + b).toInt < 0), c := decide (2 ^ 32 ≤ a.toNat + b.toNat)
    v := decide ((a + b).toInt ≠ a.toInt + b.toInt) } := by
  rw [flagsAdd, overflow_add, flagsZN_eq]

theorem flagsSub_eq (e : Tor) (a b : Word) : e.flagsSub a b = { e with
    z := decide (a = b), n := decide ((a - b).toInt < 0), c := decide (b.toNat ≤ a.toNat)
    v := decide ((a - b).toInt ≠ a.toInt - b.toInt) } := by
  have zero : (a - b = 0) = (a = b) := propext sub_eq_zero
  rw [flagsSub, overflow_sub, flagsZN_eq]
  simp only [zero]

theorem flagsShift_eq (e : Tor) (r : Word) (out : Option Bool) (free : Nat) : e.flagsShift r out free = { e with
    z := decide (r = 0), n := decide (r.toInt < 0), c := out.getD (Config.openCarry free) } := by
  rw [flagsShift, flagsZN_eq]

/-- The saturated halves of a paired instruction, from the exact values `p` and `q` of the low and the high half. -/
def halves (d : BitVec 4) (p q : Int) (e : Tor) : Tor :=
  { e.setD d (BitVec.ofInt 16 (max (-32768) (min 32767 q)) ++ BitVec.ofInt 16 (max (-32768) (min 32767 p))) with
    z := decide (p = 0 ∧ q = 0)
    sat := e.sat || decide (max (-32768) (min 32767 p) ≠ p) || decide (max (-32768) (min 32767 q) ≠ q) }

theorem pair_eq (e : Tor) (d : BitVec 4) (sub : Bool) (a b : Word) : (e.pair sub a b).2.setD d (e.pair sub a b).1 =
    e.halves d (if sub then (a.extractLsb' 0 16).toInt - (b.extractLsb' 0 16).toInt else (a.extractLsb' 0 16).toInt + (b.extractLsb' 0 16).toInt)
      (if sub then (a.extractLsb' 16 16).toInt - (b.extractLsb' 16 16).toInt else (a.extractLsb' 16 16).toInt + (b.extractLsb' 16 16).toInt) := by
  simp only [pair, half, iq_eq]
  generalize (if sub then (a.extractLsb' 0 16).toInt - _ else _ : Int) = p
  generalize (if sub then (a.extractLsb' 16 16).toInt - _ else _ : Int) = q
  simp only [halves, setD, ofNat_halves, code_sat16_eq_zero, ← sat16_eq, Bool.decide_and, bne, decide_not, beq_eq_decide]

end Tor

/-! ### The instructions -/

/-- A free value taken under a condition. -/
theorem Hw.free_under (h : Hw) (c : Prop) [Decidable c] (a : Nat) :
    (if c then { h with free := a } else h) = { h with free := if c then a else h.free } := by
  split <;> rfl

section
variable {s : State} {n : EngId} {x : Bool} {b : BitVec 4} {ext : Word} (hs : s.hw.Settled) (hr : s.TorReady n (if x then 2 else 1))
  (hb : x = true → b = 0)
include hs hr hb

/-- An instruction of the ALU goes on in sequence with its effect on the engine. -/
theorem torAlu_ran {a : BitVec 4} {f : Tor → Word → Word → Tor} (g : Tor → Tor)
    (hf : ∀ e : Tor, f e ((s.hw.eng n).dReg a) (if x then ext else (s.hw.eng n).dReg b) = g e)
    (hg : ∀ c p st cy, g { s.hw.eng n with cyc := c, prods := p, stalls := st, cycles := cy } =
      { g (s.hw.eng n) with cyc := c, prods := p, stalls := st, cycles := cy })
    (hl : (g (s.hw.eng n)).loops = (s.hw.eng n).loops) :
    ∃ t, torAlu s n x a b ext f = .next t ∧ s.Ran t n (if x then 2 else 1) g := by
  have legal : immLegal x b = true := by
    cases x
    · rfl
    · simp [immLegal, hb rfl]
  unfold torAlu
  rw [legal]
  exact torStep_ran s n (if x then 2 else 1) _ _ _ g hs hr (fun c p st cy => (hf _).trans (hg c p st cy)) hl

/-- A shift goes on in sequence; one by 0 takes a free value. -/
theorem torShift_ran {d a : BitVec 4} {f : Word → Nat → Word} {out : Word → Nat → Bool} {k : Nat}
    (hk : (if x then ext else (s.hw.eng n).dReg b).toNat % 32 = k) :
    ∃ t, torShift s n x d a b ext f out = .next t ∧
      { s with hw := { s.hw with free := if k = 0 then s.hw.free + 1 else s.hw.free } }.Ran t n (if x then 2 else 1) fun e =>
        (e.setD d (f ((s.hw.eng n).dReg a) k)).flagsShift (f ((s.hw.eng n).dReg a) k)
          (if k = 0 then none else some (out ((s.hw.eng n).dReg a) k)) s.hw.free := by
  have legal : immLegal x b = true := by
    cases x
    · rfl
    · simp [immLegal, hb rfl]
  subst hk
  unfold torShift
  rw [legal]
  refine torRun_ran s n (if x then 2 else 1) _ ([Tor.needD a.toNat] ++ if x then [] else [Tor.needD b.toNat]) [] _ (fun e =>
    (e.setD d _).flagsShift _ _ s.hw.free) _ hs hr ?_ (fun _ _ _ _ => rfl) rfl
  rw [Hw.fetched_eq s.hw s.mem n _ hr.2.2.2.2.1]
  exact congrArg (fun g : Hw => (g, s.mem)) (Hw.free_under _ _ _)

end

/-! ### The shifted words -/

theorem shiftLeft_eq_ofNat (u : Word) (k : Nat) : u <<< k = BitVec.ofNat 32 (u.toNat * 2 ^ k) := by
  apply BitVec.eq_of_toNat_eq
  rw [BitVec.toNat_shiftLeft, BitVec.toNat_ofNat, Nat.shiftLeft_eq]

theorem sshiftRight_eq_ofInt (u : Word) (k : Nat) : u.sshiftRight k = BitVec.ofInt 32 (u.toInt / 2 ^ k) := by
  rw [BitVec.sshiftRight, Int.shiftRight_eq_div_pow, Nat.cast_pow]
  rfl

theorem ushiftRight_eq_ofNat (u : Word) (k : Nat) : u >>> k = BitVec.ofNat 32 (u.toNat / 2 ^ k) := by
  apply BitVec.eq_of_toNat_eq
  rw [BitVec.toNat_ushiftRight, BitVec.toNat_ofNat, Nat.shiftRight_eq_div_pow, Nat.mod_eq_of_lt]
  exact Nat.lt_of_le_of_lt (Nat.div_le_self ..) u.isLt

/-- Settles O8: the flags of Table 15.6 as the exact values give them (`Tor.flagsAdd_eq`, `Tor.flagsSub_eq`, `Tor.pair_eq`), and a shift as
`torShift_ran` says. -/
theorem torArithmetic : Obligations.TorArithmetic := by
  refine ⟨fun s n x d a b ext hs hr hb => ?sums, fun s n x d a b ext hs hr hb => ?logic, fun s n x d a b ext hs hr hb => ?shifts⟩
  case sums =>
    intro e u w
    have sum (f : Tor → Word → Word → Tor) := torAlu_ran (a := a) (ext := ext) (f := f) hs hr hb
    exact ⟨sum (fun e u v => (e.setD d (u + v)).flagsAdd u v) _ (fun e => Tor.flagsAdd_eq _ _ _) (fun _ _ _ _ => rfl) rfl,
      sum (fun e u v => (e.setD d (u - v)).flagsSub u v) _ (fun e => Tor.flagsSub_eq _ _ _) (fun _ _ _ _ => rfl) rfl,
      sum (fun e u v => e.flagsSub u v) _ (fun e => Tor.flagsSub_eq _ _ _) (fun _ _ _ _ => rfl) rfl⟩
  case logic =>
    intro e u w lo hi cl halves
    have logic (f : Word → Word → Word) := torAlu_ran (a := a) (ext := ext) (f := fun e u v => (e.setD d (f u v)).flagsZN (f u v)) hs hr hb _
      (fun e => Tor.flagsZN_eq _ _) (fun _ _ _ _ => rfl) rfl
    have paired (sub : Bool) := torAlu_ran (a := a) (ext := ext) (f := fun e u v => (e.pair sub u v).2.setD d (e.pair sub u v).1) hs hr hb _
      (fun e => Tor.pair_eq e d sub _ _) (fun _ _ _ _ => rfl) rfl
    exact ⟨logic (· &&& ·), logic (· ||| ·), logic (· ^^^ ·), paired false, paired true⟩
  case shifts =>
    intro e u k put
    have shifts (f : Word → Nat → Word) (out : Word → Nat → Bool) :=
      torShift_ran hs hr hb (d := d) (a := a) (f := f) (out := out) (k := k) rfl
    refine ⟨fun hk => ?_, fun hk c hc => ?_⟩
    · simp only [if_neg hk, Tor.flagsShift_eq, Option.getD_some] at shifts
      refine ⟨?_, ?_, ?_⟩
      · rw [← shiftLeft_eq_ofNat]
        exact shifts (fun u k => u <<< k) fun u k => u.getLsbD (32 - k)
      · rw [← sshiftRight_eq_ofInt]
        exact shifts (fun u k => u.sshiftRight k) fun u k => u.getLsbD (k - 1)
      · rw [← ushiftRight_eq_ofNat]
        exact shifts (fun u k => u >>> k) fun u k => u.getLsbD (k - 1)
    · have byZero (f : Word → Nat → Word) (out : Word → Nat → Bool) (hf : f u 0 = u) :
          ∃ t co, torShift s n x d a b ext f out = .next t ∧ t.hw.free = s.hw.free + 1 ∧
            { s with hw := { s.hw with free := t.hw.free } }.Ran t n (if x then 2 else 1) (put u co) := by
        obtain ⟨t, ht, ran⟩ := shifts f out
        simp only [hk, if_true, Tor.flagsShift_eq] at ran
        rw [show f ((s.hw.eng n).dReg a) 0 = u from hf] at ran
        have free : t.hw.free = s.hw.free + 1 := congrArg Hw.free ran.1.2.2.1
        exact ⟨t, _, ht, free, by rw [free]; exact ran⟩
      simp only [List.mem_cons, List.not_mem_nil, or_false] at hc
      rcases hc with rfl | rfl | rfl
      · exact byZero (fun u k => u <<< k) (fun u k => u.getLsbD (32 - k)) (BitVec.shiftLeft_zero u)
      · exact byZero (fun u k => u.sshiftRight k) (fun u k => u.getLsbD (k - 1)) BitVec.sshiftRight_zero
      · exact byZero (fun u k => u >>> k) (fun u k => u.getLsbD (k - 1)) (BitVec.ushiftRight_zero u)

end Sys2Proof.Machine
end

section
/-! Moves between the registers of an engine (R336, R339, R340, R350, Tables 15.2 and 15.3). Settles O9. -/
namespace Sys2Proof.Machine

/-! ### Effects beside the engine's own -/

/-- An instruction that issues: its effect is that on the registers after the fetch, which has changed only the protection registers and
ended the pulses of the command before. -/
theorem torRun_effect {s : State} {t : EngId} {words : Nat} {fx : Hw → Mem → Hw × Mem} (G : Vector SMem 45 → Hw) (M : Mem)
    (hr : s.TorReady t words) (hG : ∀ sm, (G sm).Settled)
    (hfx : ∀ sm, fx { s.hw with smem := sm, out := { s.hw.out with events := [] } } s.mem = (G sm, M)) :
    ∃ sm, torRun s t words true fx = .next { s with hw := G sm, mem := M } := by
  refine ⟨(s.hw.fetched s.mem t words).smem, ?_⟩
  rw [torRun_ready s t words _ hr, Hw.fetched_eq s.hw s.mem t words hr.2.2.2.2.1, hfx, Hw.settle_of_settled _ (hG _)]

namespace Hw

/-- The end of a job touches the searches only. -/
theorem quantumEnds_eq (h : Hw) (t : Nat) (j : Job) (good : Bool) : h.quantumEnds t j good = { h with crn := (h.quantumEnds t j good).crn } := by
  unfold quantumEnds
  split <;> rfl

theorem jobDone_eq (h : Hw) (t : EngId) : h.jobDone t = { h with crn := (h.jobDone t).crn } := by
  unfold jobDone
  split
  · exact quantumEnds_eq ..
  · rfl

theorem jobDone_blockDone (h : Hw) (t : EngId) : h.blockDone (h.jobDone t) t := by
  unfold blockDone jobDone quantumEnds
  cases (h.eng t).job with
  | none => rfl
  | some j =>
    simp only [Option.bind_some]
    cases h.quantumOf t j with
    | none => rfl
    | some r => simp

/-- What the job's end makes of the searches does not depend on the protection registers and the output. -/
theorem jobDone_crn (h : Hw) (t : EngId) (sm : Vector SMem 45) (o : Out) :
    (({ h with smem := sm, out := o } : Hw).jobDone t).crn = (h.jobDone t).crn := by
  unfold jobDone
  show Hw.crn (match (h.eng t).job with | some j => _ | none => _) = _
  cases (h.eng t).job with
  | none => rfl
  | some j =>
    simp only [quantumEnds]
    show Hw.crn (match h.quantumOf t j with | none => _ | some (o, x) => _) = _
    cases h.quantumOf t j <;> rfl

end Hw

/-! ### Registers by code (Table 15.2) -/

namespace Tor

/-- The value of a register of the table, by the table's rows. -/
theorem readCode_eq (e : Tor) {c : BitVec 6} (hc : c.toNat ≤ 0x30) : (e.readCode c).getD 0 = match c.toNat / 8 with
    | 0 | 1 => getN e.d c.toNat 0
    | 2 => getN e.p (c.toNat % 8) 0
    | 3 => getN e.m (c.toNat % 8) 0
    | 4 => getN e.b (c.toNat % 8) 0
    | 5 => getN e.l (c.toNat % 8) 0
    | _ => BitVec.ofNat 32 (Hw.estat e) := by
  unfold readCode
  dsimp only
  split
  · next h => rcases (by omega : c.toNat / 8 = 0 ∨ c.toNat / 8 = 1) with q | q <;> rw [q] <;> rfl
  split
  · next h => rw [show c.toNat / 8 = 2 by omega]; rfl
  split
  · next h => rw [show c.toNat / 8 = 3 by omega]; rfl
  split
  · next h => rw [show c.toNat / 8 = 4 by omega]; rfl
  split
  · next h => rw [show c.toNat / 8 = 5 by omega]; rfl
  · rw [if_pos (by omega), show c.toNat / 8 = 6 by omega]; rfl

/-- A write of a register of the table, by the table's rows. -/
theorem writeCode_eq (e : Tor) {c : BitVec 6} (v : Word) (hc : c.toNat < 0x30) : e.writeCode c v = match c.toNat / 8 with
    | 0 | 1 => { e with d := updN e.d c.toNat fun _ => v }
    | 2 => { e with p := updN e.p (c.toNat % 8) fun _ => v }
    | 3 => { e with m := updN e.m (c.toNat % 8) fun _ => v }
    | 4 => { e with b := updN e.b (c.toNat % 8) fun _ => v }
    | _ => { e with l := updN e.l (c.toNat % 8) fun _ => v } := by
  unfold writeCode
  dsimp only
  split
  · next h => rcases (by omega : c.toNat / 8 = 0 ∨ c.toNat / 8 = 1) with q | q <;> rw [q] <;> rfl
  split
  · next h => rw [show c.toNat / 8 = 2 by omega]; rfl
  split
  · next h => rw [show c.toNat / 8 = 3 by omega]; rfl
  split
  · next h => rw [show c.toNat / 8 = 4 by omega]; rfl
  · rw [show c.toNat / 8 = 5 by omega]; rfl

/-- A write of a register leaves the counts of cycles. -/
theorem writeCode_counts (e : Tor) (c : BitVec 6) (v : Word) (cy st n : Nat) (p : List Prod) :
    ({ e with cyc := cy, prods := p, stalls := st, cycles := n } : Tor).writeCode c v =
      { e.writeCode c v with cyc := cy, prods := p, stalls := st, cycles := n } := by
  unfold writeCode
  dsimp only
  split; · rfl
  split; · rfl
  split; · rfl
  split; · rfl
  split <;> rfl

theorem writeCode_loops (e : Tor) (c : BitVec 6) (v : Word) : (e.writeCode c v).loops = e.loops := by
  unfold writeCode
  dsimp only
  split; · rfl
  split; · rfl
  split; · rfl
  split; · rfl
  split <;> rfl

/-- The post-modify of R336 as a change of one address register. -/
theorem postMod_eq (e : Tor) (p : BitVec 3) (step : Int) : e.postMod p step =
    { e with p := updN e.p p.toNat (fun w => BitVec.ofInt 32 (if (getN e.l p.toNat 0).toNat = 0 then w.toNat + step
      else (getN e.b p.toNat 0).toNat + (w.toNat - (getN e.b p.toNat 0).toNat + step) % (getN e.l p.toNat 0).toNat)) } := by
  have hp : p.toNat < 8 := p.isLt
  simp only [postMod, Nat.cast_eq_zero]
  congr 1
  simp [updN, hp, upd, getN]

/-! ### Moves out (R339) -/

/-- A number over a power of two, rounded down. -/
theorem floor_mul_two_zpow (x : Int) (m : Nat) : ⌊(x : ℚ) * (2 : ℚ) ^ (-(m : Int))⌋ = x / 2 ^ m := by
  rw [zpow_neg, zpow_natCast, ← div_eq_mul_inv]
  exact_mod_cast Rat.floor_intCast_div_natCast x (2 ^ m)

/-- A value shifted by f + k of SCALE and truncated toward minus infinity. -/
theorem scaled_eq (sc : BitVec 2) {f : Nat} (hf : f = 0 ∨ f = 15) (x : Int) :
    ⌊(x : ℚ) * (2 : ℚ) ^ (-((f : Int) + if sc.toNat = 3 then -1 else (sc.toNat : Int)))⌋ = scaled sc f x := by
  unfold scaled
  split
  · rcases hf with rfl | rfl
    · rw [show -(((0 : Nat) : Int) + -1) = 1 by norm_num, zpow_one, ← Int.cast_ofNat, ← Int.cast_mul, Int.floor_intCast]
      omega
    · rw [show -(((15 : Nat) : Int) + -1) = -((14 : Nat) : Int) by norm_num, floor_mul_two_zpow]
      omega
  · rw [← Nat.cast_add, floor_mul_two_zpow]

theorem clampZ_32 (x : Int) : clampZ (-2147483648) 2147483647 x = max (-(2 ^ (32 - 1))) (min (2 ^ (32 - 1) - 1) x) := by
  unfold clampZ
  split
  · omega
  · split <;> omega

theorem clampZ_16 (x : Int) : sat16 x = max (-(2 ^ (16 - 1))) (min (2 ^ (16 - 1) - 1) x) := sat16_eq x

/-- The real part moved out to 32 bits. -/
theorem moveOut_whole (e : Tor) (a : BitVec 2) {r : Int} (hr : scaled e.moveScale 0 (getN e.a a.toNat {}).re.toInt = r) :
    e.moveOut a true = (BitVec.ofInt 32 (max (-(2 ^ (32 - 1))) (min (2 ^ (32 - 1) - 1) r)),
      decide (max (-(2 ^ (32 - 1))) (min (2 ^ (32 - 1) - 1) r) ≠ r)) := by
  subst hr
  rw [← clampZ_32, decide_not, ← beq_eq_decide]
  rfl

/-- Both parts moved out to 16 bits. -/
theorem moveOut_parts (e : Tor) (a : BitVec 2) {r q : Int} (hr : scaled e.moveScale 15 (getN e.a a.toNat {}).re.toInt = r)
    (hq : scaled e.moveScale 15 (getN e.a a.toNat {}).im.toInt = q) :
    e.moveOut a false = (BitVec.ofInt 16 (max (-(2 ^ (16 - 1))) (min (2 ^ (16 - 1) - 1) q)) ++
        BitVec.ofInt 16 (max (-(2 ^ (16 - 1))) (min (2 ^ (16 - 1) - 1) r)),
      decide (max (-(2 ^ (16 - 1))) (min (2 ^ (16 - 1) - 1) r) ≠ r) || decide (max (-(2 ^ (16 - 1))) (min (2 ^ (16 - 1) - 1) q) ≠ q)) := by
  subst hr hq
  rw [← clampZ_16, ← clampZ_16, ← ofNat_halves, decide_not, decide_not, ← beq_eq_decide, ← beq_eq_decide]
  rfl

end Tor

/-- The legal form of an immediate and its extension (R334). -/
theorem immLegal_of {x : Bool} {w : Nat} {imm : BitVec w} (h : x = true → imm = 0) : immLegal x imm = true := by
  cases x
  · rfl
  · simp [immLegal, h rfl]

/-- The word that MVI moves. -/
theorem ofInt_immVal (x : Bool) (imm : BitVec 16) (ext : Word) :
    BitVec.ofInt 32 (immVal x imm ext) = if x then ext else imm.signExtend 32 := by
  cases x
  · rfl
  · exact BitVec.ofInt_toInt

/-! ### The instructions -/

section
variable {s : State} {n : EngId} (hs : s.hw.Settled) (hr : s.TorReady n 1)
include hs hr

/-- DONE (R176, R350): the job ends, and with it the block of a search that it was. -/
theorem exec_done_ran : ∃ t, exec (.done n false 0) s = .next t ∧ s.hw.blockDone t.hw n ∧
    (s.searched t).Ran t n 1 fun e => { e with job := none } := by
  have ran := torRun_effect (s := s) (fx := fun h m => ((h.jobDone n).onTor n fun e =>
      ({ e.issue [] [] 1 with job := none } : Tor).goSeq (e.pc + 4), m))
    (fun sm => { s.hw with
      smem := sm, out := { s.hw.out with events := [] }, crn := (s.hw.jobDone n).crn
      tor := updN s.hw.tor n fun e => ({ e.issue [] [] 1 with job := none } : Tor).goSeq (e.pc + 4) }) s.mem hr (fun _ => hs)
    fun sm => by
      dsimp only
      rw [Hw.jobDone_eq, Hw.jobDone_crn]
      rfl
  obtain ⟨sm, ht⟩ := ran
  refine ⟨_, (show execDone n false 0 s = _ from ht), ?_, ⟨rfl, rfl, rfl, fun u hu => ?_⟩, ?_, ?_⟩
  · have done := s.hw.jobDone_blockDone n
    unfold Hw.blockDone at done ⊢
    cases h : (s.hw.eng n).job.bind (s.hw.quantumOf n) with
    | none =>
      rw [h] at done
      exact done
    | some r =>
      rw [h] at done
      exact done
  · exact getN_updN_ne _ _ _ fun h => hu (Fin.ext h)
  all_goals
    simp only [Hw.eng, getN_updN_same _ _ _ n.isLt]
    rfl

/-- A register of Table 15.2 moved to another. -/
theorem exec_mov_ran {dst src : BitVec 6} (hd : dst.toNat < 0x30) (hc : src.toNat ≤ 0x30) : ∃ t, exec (.mov n false dst src) s = .next t ∧
    s.Ran t n 1 fun e => e.writeCode dst (((s.hw.eng n).readCode src).getD 0) := by
  have legal : (!false && Tor.writable dst && decide (src.toNat ≤ 0x30)) = true := by simp [Tor.writable, hd, hc]
  show ∃ t, execMov n false dst src s = _ ∧ _
  unfold execMov
  rw [legal]
  exact torStep_ran s n 1 _ _ (fun e => e.writeCode dst ((e.readCode src).getD 0)) _ hs hr
    (fun _ _ _ _ => Tor.writeCode_counts ..) (Tor.writeCode_loops ..)

/-- A move out (R339, R340). -/
theorem torStep_mva (a : BitVec 2) (d : BitVec 4) (form : Bool) : ∃ t, execMva n false a d form s = .next t ∧ s.Ran t n 1 fun e =>
    { e.setD d ((s.hw.eng n).moveOut a form).1 with sat := e.sat || ((s.hw.eng n).moveOut a form).2 } :=
  torStep_ran s n 1 _ _ (fun e => { e.setD d (e.moveOut a form).1 with sat := e.sat || (e.moveOut a form).2 }) _ hs hr
    (fun _ _ _ _ => rfl) rfl

/-- A move into an accumulator (R339). -/
theorem torStep_lda (a : BitVec 2) (d : BitVec 4) : ∃ t, execLda n false a d s = .next t ∧ s.Ran t n 1 fun e =>
    { e with a := updN e.a a.toNat fun _ =>
      { re := BitVec.ofInt 40 (((e.dReg d).extractLsb' 0 16).toInt * 32768)
        im := BitVec.ofInt 40 (((e.dReg d).extractLsb' 16 16).toInt * 32768) } } := by
  unfold execLda
  simp only [Tor.iq_eq]
  exact torStep_ran s n 1 _ _ _ _ hs hr (fun _ _ _ _ => rfl) rfl

/-- SETS (R340): the earlier SCALE is kept. -/
theorem torRun_sets (k : BitVec 2) : ∃ t, execSets n false k s = .next t ∧ s.OnlyTor t n ∧
    t.hw.eng n = { (s.hw.eng n).ran (t.hw.eng n) with prevScale := (s.hw.eng n).scale, scale := k, justSet := true } ∧
    (t.hw.eng n).pc = (Tor.loopBack (s.hw.eng n).loops ((s.hw.eng n).pc + 4)).2 := by
  refine torRun_only_imp s n 1 s.hw.free _ (fun e => { (e.issue [] [] 1).goSeq (e.pc + 4) with
    prevScale := e.scale, scale := k, justSet := true }) _ hs hr ?_ fun t only eng => ⟨only, ?_, ?_⟩
  · rw [Hw.fetched_eq s.hw s.mem n _ hr.2.2.2.2.1]
    rfl
  · rw [eng]
    rfl
  · rw [eng]
    rfl

end

/-! ### Instructions with an immediate -/

section
variable {s : State} {n : EngId} {x : Bool} {imm : BitVec 16} {ext : Word} (hs : s.hw.Settled) (hr : s.TorReady n (if x then 2 else 1))
  (hi : x = true → imm = 0)
include hs hr hi

/-- An immediate moved to a register of Table 15.2. -/
theorem exec_mvi_ran {dst : BitVec 6} (hd : dst.toNat < 0x30) : ∃ t, exec (.mvi n x dst imm ext) s = .next t ∧
    s.Ran t n (if x then 2 else 1) fun e => e.writeCode dst (BitVec.ofInt 32 (immVal x imm ext)) := by
  have legal : (Tor.writable dst && immLegal x imm) = true := by simp [Tor.writable, hd, immLegal_of hi]
  show ∃ t, execMvi n x dst imm ext s = _ ∧ _
  unfold execMvi
  rw [legal]
  exact torStep_ran s n _ _ _ (fun e => e.writeCode dst _) _ hs hr (fun _ _ _ _ => Tor.writeCode_counts ..) (Tor.writeCode_loops ..)

/-- The post-modify of an address register by its step or by an immediate (R336). -/
theorem exec_modp_ran (p : BitVec 3) (byImm : Bool) {step : Int}
    (hstep : (if byImm then immVal x imm ext else (s.hw.eng n).mStep p) = step) :
    ∃ t, exec (.modp n x p byImm imm ext) s = .next t ∧ s.Ran t n (if x then 2 else 1) fun e => e.postMod p step := by
  subst hstep
  show ∃ t, execModp n x p byImm imm ext s = _ ∧ _
  unfold execModp
  rw [immLegal_of hi]
  exact torStep_ran s n _ _ _ (fun e => e.postMod p (if byImm then immVal x imm ext else e.mStep p)) _ hs hr (fun _ _ _ _ => rfl) rfl

end

/-- Settles O9: registers by their codes (`Tor.readCode_eq`, `Tor.writeCode_eq`), moves out by `Tor.scaled_eq`. -/
theorem torMoves : Obligations.TorMoves := by
  refine ⟨fun s n x ext hs hr => ?registers, fun s n hs hr => ?accumulators⟩
  case registers =>
    intro put get post
    have put_eq {c : BitVec 6} (hc : c.toNat < 0x30) (v : Word) : put c v = fun e => e.writeCode c v :=
      funext fun e => (Tor.writeCode_eq e v hc).symm
    have post_eq (p : BitVec 3) (step : Int) : post p step = fun e => e.postMod p step := funext fun e => (Tor.postMod_eq e p step).symm
    refine ⟨fun hx => ?_, fun dst imm hdst himm => ?mvi, fun p imm himm => ⟨?modpStep, ?modpImm⟩⟩
    · subst hx
      refine ⟨?nop, exec_done_ran hs hr, fun mask => ?clrf, fun dst src hdst hsrc => ?mov⟩
      case nop => exact torStep_ran s n 1 [] [] id id hs hr (fun _ _ _ _ => rfl) rfl
      case clrf =>
        exact torStep_ran s n 1 [] [] (fun e => { e with
          gx := e.gx && !bit mask.toNat 0, sat := e.sat && !bit mask.toNat 1, ue := e.ue && !bit mask.toNat 2 }) _ hs hr
          (fun _ _ _ _ => rfl) rfl
      case mov =>
        rw [put_eq hdst, show get src (s.hw.eng n) = _ from (Tor.readCode_eq _ hsrc).symm]
        exact exec_mov_ran hs hr hdst hsrc
    case mvi =>
      rw [put_eq hdst, ← ofInt_immVal]
      exact exec_mvi_ran hs hr himm hdst
    case modpStep =>
      rw [post_eq]
      exact exec_modp_ran hs hr himm p false rfl
    case modpImm =>
      rw [post_eq]
      exact exec_modp_ran hs hr himm p true (if_pos rfl)
  case accumulators =>
    intro e sc k cut clamp
    have cut_eq {f : Nat} (hf : f = 0 ∨ f = 15) (v : Int) : cut f v = Tor.scaled e.moveScale f v := Tor.scaled_eq e.moveScale hf v
    refine ⟨fun a d => ?_, fun scale => ?sets⟩
    · intro re im
      have cut_0 (v : Int) : cut 0 v = _ := cut_eq (.inl rfl) v
      have cut_15 (v : Int) : cut 15 v = _ := cut_eq (.inr rfl) v
      refine ⟨?whole, ?parts, ?lda⟩
      case whole =>
        have ran := torStep_mva hs hr a d true
        rw [Tor.moveOut_whole e a (cut_0 re).symm] at ran
        exact ran
      case parts =>
        have ran := torStep_mva hs hr a d false
        rw [Tor.moveOut_parts e a (cut_15 re).symm (cut_15 im).symm] at ran
        simp only [← Bool.or_assoc] at ran
        exact ran
      case lda => exact torStep_lda hs hr a d
    case sets => exact torRun_sets hs hr scale

end Sys2Proof.Machine
end

section
/-! Multiplies of an engine (R332, R340, Table 15.4): exact new contents of the accumulators, kept modulo 2^40, with GX. Settles O10. -/
namespace Sys2Proof.Machine

namespace Tor

theorem not_fits40 (v : Int) : (!fits40 v) = decide (v < -(2 ^ 39) ∨ 2 ^ 39 ≤ v) := by
  rw [Bool.eq_iff_iff]
  simp only [fits40, Bool.not_eq_true', Bool.and_eq_false_iff, decide_eq_false_iff_not, decide_eq_true_iff]
  omega

/-- Exact values put in an accumulator. -/
theorem putA_eq (e : Tor) (a : BitVec 2) (re im : Int) : e.putA a ⟨re, im⟩ =
    { e with
      a := updN e.a a.toNat fun _ => { re := BitVec.ofInt 40 re, im := BitVec.ofInt 40 im }
      gx := e.gx || decide (re < -(2 ^ 39) ∨ 2 ^ 39 ≤ re) || decide (im < -(2 ^ 39) ∨ 2 ^ 39 ≤ im) } := by
  rw [← not_fits40, ← not_fits40, Bool.or_assoc, ← Bool.not_and]
  rfl

theorem conj_iq (w : Word) (c : Bool) : (if c then conj (iq w) else iq w) =
    ⟨(w.extractLsb' 0 16).toInt, (if c then -1 else 1) * (w.extractLsb' 16 16).toInt⟩ := by
  rw [iq_eq]
  cases c
  · simp
  · simp [conj]

/-- The product that QMAC adds to accumulator `j`, on top of what the accumulator held or of zero. -/
def qmacSum (e : Tor) (g : BitVec 2) (dy : BitVec 4) (c replace : Bool) (j : Nat) : IQ :=
  addIQ (if replace then ⟨0, 0⟩ else accIQ (getN e.a j {})) (mulIQ (iq (getN e.d (4 * g.toNat + j) 0)) (if c then conj (iq (e.dReg dy)) else iq (e.dReg dy)))

/-- QMAC changes the four accumulators and GX. -/
theorem qmac_eq (e : Tor) (g : BitVec 2) (dy : BitVec 4) (c replace : Bool) {re im : Nat → Int}
    (hz : ∀ j, e.qmacSum g dy c replace j = ⟨re j, im j⟩) :
    (List.range 4).foldl (qmacOne e g dy c replace) e = { e with
      a := #v[⟨BitVec.ofInt 40 (re 0), BitVec.ofInt 40 (im 0)⟩, ⟨BitVec.ofInt 40 (re 1), BitVec.ofInt 40 (im 1)⟩,
        ⟨BitVec.ofInt 40 (re 2), BitVec.ofInt 40 (im 2)⟩, ⟨BitVec.ofInt 40 (re 3), BitVec.ofInt 40 (im 3)⟩]
      gx := e.gx || (List.range 4).any fun j => decide (re j < -(2 ^ 39) ∨ 2 ^ 39 ≤ re j) || decide (im j < -(2 ^ 39) ∨ 2 ^ 39 ≤ im j) } := by
  have one (r : Tor) (j : Nat) (hj : j < 4) : qmacOne e g dy c replace r j = r.putA (BitVec.ofNat 2 j) ⟨re j, im j⟩ := by
    rw [← hz, qmacOne, qmacSum, aReg, BitVec.toNat_ofNat, Nat.mod_eq_of_lt hj]
  simp only [show List.range 4 = [0, 1, 2, 3] from rfl, List.foldl_cons, List.foldl_nil, one _ 0 (by omega), one _ 1 (by omega),
    one _ 2 (by omega), one _ 3 (by omega), putA_eq, List.any_cons, List.any_nil, Bool.or_false, Bool.or_assoc]
  congr 1
  ext j hj : 1
  match j, hj with
  | 0, _ | 1, _ | 2, _ | 3, _ => simp [updN, upd]

end Tor

/-- A multiply into one accumulator goes on in sequence, with the exact sum put there. -/
theorem torMac_ran {s : State} {n : EngId} (hs : s.hw.Settled) (hr : s.TorReady n 1) {a : BitVec 2} {dx dy : BitVec 4}
    {f : IQ → IQ → IQ → IQ} (re im : Int)
    (hf : f (Tor.accIQ ((s.hw.eng n).aReg a)) (Tor.iq ((s.hw.eng n).dReg dx)) (Tor.iq ((s.hw.eng n).dReg dy)) = ⟨re, im⟩) :
    ∃ t, torMac s n true a dx dy f = .next t ∧ s.Ran t n 1 fun e => { e with
      a := updN e.a a.toNat fun _ => { re := BitVec.ofInt 40 re, im := BitVec.ofInt 40 im }
      gx := e.gx || decide (re < -(2 ^ 39) ∨ 2 ^ 39 ≤ re) || decide (im < -(2 ^ 39) ∨ 2 ^ 39 ≤ im) } := by
  simp only [← Tor.putA_eq, ← hf]
  exact torStep_ran s n 1 _ _ (fun e => e.putA a (f (Tor.accIQ (e.aReg a)) (Tor.iq (e.dReg dx)) (Tor.iq (e.dReg dy)))) (fun e => e.putA a _)
    hs hr (fun _ _ _ _ => rfl) rfl

/-- Settles O10: each multiply's exact sum from the parts of its operands (`Tor.iq_eq`). -/
theorem torMultiplies : Obligations.TorMultiplies := by
  intro s n a dx dy hs hr e i q out put are aim x y
  have hx : Tor.iq (e.dReg dx) = ⟨i x, q x⟩ := Tor.iq_eq _
  have hy : Tor.iq (e.dReg dy) = ⟨i y, q y⟩ := Tor.iq_eq _
  have mac (f : IQ → IQ → IQ → IQ) (re im : Int) (hf : f ⟨are, aim⟩ ⟨i x, q x⟩ ⟨i y, q y⟩ = ⟨re, im⟩) :
      ∃ t, torMac s n true a dx dy f = .next t ∧ s.Ran t n 1 (put re im) :=
    torMac_ran hs hr re im (by rw [← hf, ← hx, ← hy]; rfl)
  refine ⟨mac (fun acc u v => addIQ acc (Tor.mulIQ u v)) _ _ rfl, ?_,
    mac (fun acc u v => ⟨acc.i - (Tor.mulIQ u v).i, acc.q - (Tor.mulIQ u v).q⟩) _ _ rfl, mac (fun _ u v => Tor.mulIQ u v) _ _ rfl,
    mac (fun acc u v => ⟨acc.i + u.i * v.i, acc.q⟩) _ _ rfl, torMac_ran (dx := 0) (dy := 0) (f := fun _ _ _ => ⟨0, 0⟩) hs hr 0 0 rfl,
    ?_⟩
  · refine mac (fun acc u v => addIQ acc (Tor.mulIQ u (Tor.conj v))) _ _ ?_
    simp only [addIQ, Tor.mulIQ, Tor.conj, IQ.mk.injEq]
    constructor <;> ring
  · intro g conj replace sg r re im
    have sum (j : Nat) : e.qmacSum g dy conj replace j = ⟨re j, im j⟩ := by
      rw [Tor.qmacSum, Tor.conj_iq, Tor.iq_eq]
      cases replace <;> rfl
    have ran := torStep_ran s n 1 ((List.range 4).map fun i => Tor.needD (4 * g.toNat + i)) ((List.range 4).map fun i => (3, i))
      (fun e => (List.range 4).foldl (qmacOne e g dy conj replace) e) (fun e => { e with
        a := #v[⟨BitVec.ofInt 40 (re 0), BitVec.ofInt 40 (im 0)⟩, ⟨BitVec.ofInt 40 (re 1), BitVec.ofInt 40 (im 1)⟩,
          ⟨BitVec.ofInt 40 (re 2), BitVec.ofInt 40 (im 2)⟩, ⟨BitVec.ofInt 40 (re 3), BitVec.ofInt 40 (im 3)⟩]
        gx := e.gx || (List.range 4).any fun j => out (re j) || out (im j) }) hs hr
      (fun c p st cy => Tor.qmac_eq _ g dy conj replace sum) rfl
    exact ran

end Sys2Proof.Machine
end

section
/-! Program flow of an engine (R342, Tables 15.3 and 15.5): branches, calls, returns and loops. Settles O11. -/
namespace Sys2Proof.Machine

/-- The conditions of Table 15.5 in the order of their codes. -/
theorem Tor.holds_eq (e : Tor) (c : BitVec 4) (hc : c.toNat < 10) :
    (e.holds c).getD false = [true, e.z, !e.z, e.n, !e.n, e.c, !e.c, e.v, e.gx, e.sat].getD c.toNat false := by
  unfold holds
  generalize c.toNat = k at hc ⊢
  interval_cases k <;> rfl

/-- The words of an instruction as bytes. -/
theorem four_xWords (x : Bool) : 4 * xWords x = if x then 8 else 4 := by cases x <;> rfl

/-- The engine after an instruction issued that goes on at `dst`. -/
def Tor.jumpTo (e : Tor) (dst : Nat) (loops : List LoopEnt) (calls : List Nat) : Tor :=
  { e.issue [] [] 2 with pc := dst, loops := loops, calls := calls, justSet := false }

/-- A taken branch, a call or a return: the engine alone changes, and a packet of the program-flow trace leaves. -/
theorem torRun_jump {s : State} {n : EngId} {words : Nat} (hs : s.hw.Settled) (hr : s.TorReady n words) {fx : Hw → Mem → Hw × Mem}
    (F : Tor → Tor) (dst : Nat)
    (hfx : ∀ h : Hw, h.eng n = s.hw.eng n → fx h s.mem = ((h.onTor n F).traceJump n (s.hw.eng n).pc dst, s.mem)) :
    ∃ t, torRun s n words true fx = .next t ∧ s.OnlyTorFlow t n ∧ t.hw.eng n = F (s.hw.eng n) := by
  refine torRun_flow s n words fx F { type := 0x02, source := n, info := (s.hw.eng n).pc % 65536, cc := low32 s.hw.tim.c, lo := dst % 65536, hi := 0 }
    hs hr ?_
  rw [hfx _ (Hw.fetched_eng _ _ _ _ _ hr.2.2.2.2.1), Hw.fetched_eq s.hw s.mem n words hr.2.2.2.2.1]
  rfl

/-- An instruction that changes its engine alone. -/
theorem torRun_engine {s : State} {n : EngId} {words : Nat} (hs : s.hw.Settled) (hr : s.TorReady n words) {fx : Hw → Mem → Hw × Mem}
    (F : Tor → Tor) (hfx : ∀ h : Hw, h.eng n = s.hw.eng n → fx h s.mem = (h.onTor n F, s.mem)) :
    ∃ t, torRun s n words true fx = .next t ∧ s.OnlyTor t n ∧ t.hw.eng n = F (s.hw.eng n) := by
  refine torRun_only s n words s.hw.free fx F hs hr ?_
  rw [hfx _ (Hw.fetched_eng _ _ _ _ _ hr.2.2.2.2.1), Hw.fetched_eq s.hw s.mem n words hr.2.2.2.2.1]
  rfl

section
variable {s : State} {n : EngId} {x : Bool} {ext : Word} (hs : s.hw.Settled) (hr : s.TorReady n (if x then 2 else 1))
include hs hr

/-- A branch taken (R342). -/
theorem exec_br_taken {c : BitVec 4} {off : BitVec 21} (hi : x = true → off = 0) (hc : c.toNat < 10) (ht : ((s.hw.eng n).holds c).getD false = true)
    {dst : Nat} (hd : Tor.target ((s.hw.eng n).pc + 4 * xWords x) (immVal x off ext) = dst) :
    ∃ t, execBr n x c off ext s = .next t ∧ s.OnlyTorFlow t n ∧
      t.hw.eng n = (s.hw.eng n).jumpTo dst (Tor.loopsKept (s.hw.eng n).loops dst) (s.hw.eng n).calls := by
  unfold execBr
  rw [immLegal_of hi, decide_eq_true hc]
  refine torRun_jump hs hr (fun e => { e.issue [] [] 2 with pc := dst, loops := Tor.loopsKept e.loops dst, justSet := false }) dst fun h he => ?_
  simp only [he, ht, if_true, hd]

/-- A branch not taken goes on in sequence. -/
theorem exec_br_passed {c : BitVec 4} {off : BitVec 21} (hi : x = true → off = 0) (hc : c.toNat < 10) (ht : ((s.hw.eng n).holds c).getD false = false) :
    ∃ t, execBr n x c off ext s = .next t ∧ s.Ran t n (if x then 2 else 1) id := by
  unfold execBr
  rw [immLegal_of hi, decide_eq_true hc]
  refine (torRun_engine hs hr (fun e => (e.issue [] [] 1).goSeq ((s.hw.eng n).pc + 4 * xWords x)) fun h he => ?_).imp
    fun t ⟨run, only, eng⟩ => ⟨run, only, by rw [eng]; rfl, by rw [eng]; rfl⟩
  simp only [he, ht, Bool.false_eq_true, if_false]

/-- A call with room for its return address (R342). -/
theorem exec_call_ran {off : BitVec 21} (hi : x = true → off = 0) (hl : (s.hw.eng n).calls.length < 8)
    {dst : Nat} (hd : Tor.target ((s.hw.eng n).pc + 4 * xWords x) (immVal x off ext) = dst) :
    ∃ t, execCall n x off ext s = .next t ∧ s.OnlyTorFlow t n ∧
      t.hw.eng n = (s.hw.eng n).jumpTo dst (s.hw.eng n).loops (((s.hw.eng n).pc + 4 * xWords x) :: (s.hw.eng n).calls) := by
  unfold execCall
  rw [immLegal_of hi]
  refine torRun_jump hs hr (fun e => { e.issue [] [] 2 with pc := dst, calls := ((s.hw.eng n).pc + 4 * xWords x) :: e.calls, justSet := false })
    dst fun h he => ?_
  simp only [he, if_neg (Nat.not_le.mpr hl), hd]

/-- A loop of no iteration is passed. -/
theorem exec_loop_passed {body : BitVec 9} {count : BitVec 16} (hb : body ≠ 0) (hi : x = true → count = 0)
    (hc : (if x then ext.toNat else if count = 0 then (getN (s.hw.eng n).d 15 0).toNat % 65536 else count.toNat) = 0) :
    ∃ t, execLoop n x body count ext s = .next t ∧ s.OnlyTor t n ∧
      t.hw.eng n = ((s.hw.eng n).issue [] [] 1).goSeq ((s.hw.eng n).pc + 4 * xWords x + 4 * body.toNat) := by
  have legal : (body != 0 && immLegal x count) = true := by rw [immLegal_of hi, Bool.and_true, bne_iff_ne]; exact hb
  unfold execLoop
  rw [legal]
  refine torRun_engine hs hr (fun e => (e.issue [] [] 1).goSeq ((s.hw.eng n).pc + 4 * xWords x + 4 * body.toNat)) fun h he => ?_
  simp only [he, hc, if_true]

/-- A loop with room for it is entered (R342). -/
theorem exec_loop_entered {body : BitVec 9} {count : BitVec 16} (hb : body ≠ 0) (hi : x = true → count = 0) {cnt : Nat}
    (hc : (if x then ext.toNat else if count = 0 then (getN (s.hw.eng n).d 15 0).toNat % 65536 else count.toNat) = cnt) (h0 : cnt ≠ 0)
    (hl : (s.hw.eng n).loops.length < 4) :
    ∃ t, execLoop n x body count ext s = .next t ∧ s.OnlyTor t n ∧ t.hw.eng n = { (s.hw.eng n).issue [] [] 1 with
      loops := { start := (s.hw.eng n).pc + 4 * xWords x, stop := (s.hw.eng n).pc + 4 * xWords x + 4 * body.toNat, left := cnt } :: (s.hw.eng n).loops
      pc := (s.hw.eng n).pc + 4 * xWords x, justSet := false } := by
  have legal : (body != 0 && immLegal x count) = true := by rw [immLegal_of hi, Bool.and_true, bne_iff_ne]; exact hb
  unfold execLoop
  rw [legal]
  refine torRun_engine hs hr (fun e => { e.issue [] [] 1 with
    loops := { start := (s.hw.eng n).pc + 4 * xWords x, stop := (s.hw.eng n).pc + 4 * xWords x + 4 * body.toNat, left := cnt } :: e.loops
    pc := (s.hw.eng n).pc + 4 * xWords x, justSet := false }) fun h he => ?_
  simp only [he, hc, if_neg h0, if_neg (Nat.not_le.mpr hl)]

end

/-- A return (R342). -/
theorem exec_ret_ran {s : State} {n : EngId} (hs : s.hw.Settled) (hr : s.TorReady n 1) {a : Nat} {r : List Nat} (hc : (s.hw.eng n).calls = a :: r) :
    ∃ t, execRet n false 0 s = .next t ∧ s.OnlyTorFlow t n ∧ t.hw.eng n = ({ (s.hw.eng n).issue [] [] 2 with calls := r } : Tor).goSeq a := by
  refine torRun_jump hs hr (fun e => ({ e.issue [] [] 2 with calls := r } : Tor).goSeq a) a fun h he => ?_
  simp only [he, hc]

/-- Settles O11: the engine after each instruction, with offsets counted from the word after it. -/
theorem torFlow : Obligations.TorFlow := by
  intro s n x off ext hs hr hi e next dst cond jumped
  have hnext : e.pc + 4 * xWords x = next := by rw [four_xWords]
  have hdst : Tor.target (e.pc + 4 * xWords x) (immVal x off ext) = dst := by
    rw [hnext]
    rfl
  refine ⟨fun c hc => ⟨fun ht => ?taken, fun hf => exec_br_passed hs hr hi hc ((Tor.holds_eq e c hc).trans hf)⟩, fun hl => ?call,
    fun a r hx hcalls => ?ret, ?loop⟩
  case taken =>
    obtain ⟨t, run, only, eng⟩ := exec_br_taken hs hr hi hc ((Tor.holds_eq e c hc).trans ht) hdst
    exact ⟨t, run, only, by rw [eng]; rfl⟩
  case call =>
    obtain ⟨t, run, only, eng⟩ := exec_call_ran hs hr hi hl hdst
    exact ⟨t, run, only, by rw [eng, hnext]; rfl⟩
  case ret =>
    subst hx
    obtain ⟨t, run, only, eng⟩ := exec_ret_ran hs hr hcalls
    exact ⟨t, run, only, by rw [eng]; rfl, by rw [eng]; rfl⟩
  case loop =>
    intro body count hb hcount cnt stop
    refine ⟨fun h0 => ?_, fun h0 hl => ?_⟩
    · obtain ⟨t, run, only, eng⟩ := exec_loop_passed hs hr hb hcount h0
      exact ⟨t, run, only, by rw [eng]; rfl, by rw [eng, hnext]; rfl⟩
    · obtain ⟨t, run, only, eng⟩ := exec_loop_entered hs hr hb hcount rfl h0 hl
      exact ⟨t, run, only, by rw [eng, hnext]; rfl⟩

end Sys2Proof.Machine
end

section
/-! Loads and stores of an engine (R335 to R339, R349, R354): addresses, what memory holds after a store, and the engine after each
instruction. Settles O13. -/
namespace Sys2Proof.Machine

/-! ### Bytes written where no word is uncorrectable (R359, R360) -/

namespace Mem

theorem mem_insertNum {a x : Nat} {l : List Nat} : x ∈ insertNum a l ↔ x = a ∨ x ∈ l := by
  induction l with
  | nil => simp [insertNum]
  | cons k r ih =>
    unfold insertNum
    split
    · simp
    · split
      · next h => simp [h]
      · rw [List.mem_cons, ih, List.mem_cons, or_left_comm]

/-- Freshening a word makes none uncorrectable. -/
theorem err_freshen {m : Mem} {w v : Nat} (h : m.err v ≠ some true) : (m.freshen w).err v ≠ some true := by
  have valid : (m.freshen w).valid = insertNum w m.valid := by unfold freshen; split <;> rfl
  have bad : (m.freshen w).bad = m.bad.filter fun e => e.1 ≠ w := by unfold freshen; split <;> rfl
  unfold err at h ⊢
  rw [valid, bad]
  by_cases hv : v = w
  · subst hv
    rw [assoc_none v _ fun c hc => by simpa using (List.mem_filter.mp hc).2]
    split <;> simp
  · have same : (insertNum w m.valid).contains v = m.valid.contains v := by
      rw [Bool.eq_iff_iff, List.contains_iff_mem, List.contains_iff_mem, mem_insertNum, or_iff_right hv]
    rwa [same, assoc_filter _ v fun _ => by simpa using hv]

/-- A write to words none of which is uncorrectable stores its bytes and leaves every other. -/
theorem get_write_sound {m : Mem} (hw : m.wf = true) (a : Nat) (l : Bytes) (hu : ∀ i < l.length, m.err ((a + i) / 8) ≠ some true) (x : Nat) :
    (m.write a l).get x = if a ≤ x ∧ x < a + l.length then l.getD (x - a) 0 else m.get x := by
  induction l generalizing m a with
  | nil =>
    have out : ¬ (a ≤ x ∧ x < a + 0) := by omega
    exact (if_neg out).symm
  | cons b r ih =>
    have fresh : (m.freshen (a / 8)).wf = true := freshen_wf _ _ hw
    have kept : (m.freshen (a / 8)).get x = m.get x := get_freshen _ _ _ (hu 0 (Nat.succ_pos _))
    have sound : ∀ i < r.length, ((m.freshen (a / 8)).put a b).err ((a + 1 + i) / 8) ≠ some true := fun i hi => by
      rw [Nat.add_assoc, Nat.add_comm 1 i]
      exact err_freshen (hu (i + 1) (Nat.succ_lt_succ hi))
    rw [write, ih (put_wf _ _ _ fresh) _ sound, List.length_cons]
    by_cases hx : x = a
    · subst hx
      rw [if_neg (by omega), if_pos (by omega), get_put_same _ _ _ fresh, Nat.sub_self, List.getD_cons_zero]
    · rw [get_put_ne _ _ hx, kept]
      refine if_ctx_congr (by omega) (fun hin => ?_) fun _ => rfl
      have next : x - a = x - (a + 1) + 1 := by omega
      rw [next, List.getD_cons_succ]

end Mem

theorem length_le (w x : Nat) : (le w x).length = w := by
  induction w generalizing x with
  | zero => rfl
  | succ w ih => rw [le, List.length_cons, ih]

theorem getD_le {w j : Nat} (hj : j < w) (x : Nat) : (le w x).getD j 0 = BitVec.ofNat 8 (x / 256 ^ j) := by
  induction w generalizing j x with
  | zero => omega
  | succ w ih =>
    rw [le]
    cases j with
    | zero => rw [List.getD_cons_zero, Nat.pow_zero, Nat.div_one]
    | succ j => rw [List.getD_cons_succ, ih (Nat.lt_of_succ_lt_succ hj), Nat.div_div_eq_div_mul, Nat.pow_succ']

/-- The little-endian bytes of a store (R10, R335). -/
theorem Mem.get_write_le {m : Mem} (hw : m.wf = true) {a w : Nat} (hu : m.anyUe a w = false) (v : Nat) :
    (∀ j < w, (m.write a (le w v)).get (a + j) = BitVec.ofNat 8 (v / 256 ^ j)) ∧
      ∀ b, b < a ∨ a + w ≤ b → (m.write a (le w v)).get b = m.get b := by
  have sound : ∀ i < (le w v).length, m.err ((a + i) / 8) ≠ some true := fun i hi => by
    rw [length_le] at hi
    exact err_of_anyUe m hu (by omega) (by omega)
  refine ⟨fun j hj => ?_, fun b hb => ?_⟩
  · rw [get_write_sound hw a _ sound, length_le, if_pos (by omega), Nat.add_sub_cancel_left, getD_le hj]
  · rw [get_write_sound hw a _ sound, length_le, if_neg (by omega)]

/-! ### Regions that engines reach (Table 16.1) -/

/-- The data memories. -/
theorem region_data {a : Nat} (h1 : 0x10000000 ≤ a) (h2 : a < 0x10400000) :
    region a = .data ((a - 0x10000000) / 0x40000) ((a - 0x10000000) % 0x40000) := if_pos ⟨h1, h2⟩

/-- The codebook. -/
theorem region_codebook {a : Nat} (h1 : 0x30000000 ≤ a) (h2 : a < 0x30100000) : region a = .codebook (a - 0x30000000) := by
  unfold region
  rw [if_neg (by omega), if_neg (by omega), if_neg (by omega), if_pos ⟨h1, h2⟩]

/-- An address of a data memory names its engine and the offset there. -/
theorem region_eq_data {a t o : Nat} (h : region a = .data t o) : 0x10000000 + t * 0x40000 ≤ a ∧ a < 0x10000000 + t * 0x40000 + 0x40000 := by
  by_cases hin : 0x10000000 ≤ a ∧ a < 0x10400000
  · rw [region_data hin.1 hin.2] at h
    injection h with ht ho
    omega
  · unfold region at h
    rw [if_neg hin] at h
    split_ifs at h

namespace Tor

/-- The engine's own data memory, by its global addresses. -/
theorem ownData_iff (t : EngId) (a : Nat) : ownData t a = true ↔
    0x10000000 + t.val * 0x40000 ≤ globalOf t a ∧ globalOf t a < 0x10000000 + t.val * 0x40000 + 0x40000 := by
  have ht := t.isLt
  refine ⟨fun h => ?_, fun ⟨h1, h2⟩ => ?_⟩
  · unfold ownData at h
    split at h
    · next hr =>
      rw [beq_iff_eq] at h
      subst h
      exact region_eq_data hr
    · cases h
  · rw [ownData, region_data (by omega) (by omega), beq_iff_eq]
    omega

/-- The engine's own program memory. -/
theorem ownProg_iff (t : EngId) (a : Nat) : ownProg t a = true ↔ ∃ o, region (globalOf t a) = .prog t o := by
  unfold ownProg
  constructor
  · intro h
    split at h
    · next u o hr =>
      rw [beq_iff_eq] at h
      subst h
      exact ⟨o, hr⟩
    · cases h
  · rintro ⟨o, hr⟩
    rw [hr]
    exact beq_self_eq_true t.val

/-- The address that MODE forms, and the engine after the post-modify (R335). -/
theorem addrOf_eq (e : Tor) (p : BitVec 3) {mode : BitVec 2} (hm : mode.toNat < 3) (i : Int) : e.addrOf p mode i =
    some (if mode = 0 then (BitVec.ofInt 32 ((getN e.p p.toNat 0).toNat + i)).toNat else (getN e.p p.toNat 0).toNat,
      if mode = 0 then e else e.postMod p (if mode = 1 then (getN e.m p.toNat 0).toInt else i)) := by
  match mode, hm with
  | 0, _ | 1, _ | 2, _ => rfl

/-- Forming an address changes the address registers alone. -/
theorem addrOf_changes_p {e e' : Tor} {p : BitVec 3} {mode : BitVec 2} {i : Int} {a : Nat} (h : e.addrOf p mode i = some (a, e')) :
    { e with p := e'.p } = e' := by
  unfold addrOf at h
  dsimp only at h
  split at h <;> cases h <;> rfl

/-- A halfword load leaves the other half of the register. -/
theorem loadInto_half (old : Word) (half : Bool) (v : Nat) : loadInto old true half v =
    if half then BitVec.ofNat 16 v ++ old.extractLsb' 0 16 else old.extractLsb' 16 16 ++ BitVec.ofNat 16 v := by
  have join (p q : BitVec 16) : BitVec.ofNat 32 (p.toNat + 65536 * q.toNat) = q ++ p := by
    apply BitVec.eq_of_toNat_eq
    have hp := p.isLt
    have hq := q.isLt
    rw [BitVec.toNat_append, ← Nat.shiftLeft_add_eq_or_of_lt hp, Nat.shiftLeft_eq, BitVec.toNat_ofNat, Nat.mod_eq_of_lt (by omega)]
    omega
  have ho := old.isLt
  cases half
  · rw [if_neg Bool.false_ne_true, ← join, BitVec.toNat_ofNat, BitVec.extractLsb'_toNat, Nat.shiftRight_eq_div_pow,
      Nat.mod_eq_of_lt (a := old.toNat / 2 ^ 16) (by omega), Nat.mul_comm 65536, Nat.add_comm]
    rfl
  · rw [if_pos rfl, ← join, BitVec.toNat_ofNat, BitVec.extractLsb'_toNat, Nat.shiftRight_zero]
    rfl

end Tor

/-- No check of Table 15.9 stops an access of an aligned address of a mapped region (R348). -/
theorem Tor.accessCause_none {t : EngId} {a w : Nat} {store : Bool} (ha : a % w = 0) (hr : region (Tor.globalOf t a) ≠ .unmapped)
    (hp : (store && Tor.ownProg t a) = false) : Tor.accessCause t a w store = none := by
  unfold Tor.accessCause
  rw [if_neg (not_not.mpr ha), hp, decide_eq_false hr]
  rfl

/-- A load whose own words are sound passes its checks. -/
theorem loadCause_none {m : Mem} {t : EngId} {a w : Nat} (ha : a % w = 0) (hr : region (Tor.globalOf t a) ≠ .unmapped)
    (hu : (Tor.ownData t a || Tor.ownProg t a) = true → m.anyUe (Tor.globalOf t a) w = false) : loadCause m t a w = none := by
  unfold loadCause
  rw [Tor.accessCause_none ha hr (Bool.false_and _)]
  refine if_neg fun h => ?_
  rw [Bool.and_eq_true] at h
  exact Bool.false_ne_true ((hu h.1).symm.trans h.2)

/-- Own data memory is mapped. -/
theorem Tor.ownData_mapped {t : EngId} {a : Nat} (h : Tor.ownData t a = true) : region (Tor.globalOf t a) ≠ .unmapped := by
  intro hr
  rw [Tor.ownData, hr] at h
  cases h

theorem State.Ran.congr {s t : State} {n : EngId} {words : Nat} {f g : Tor → Tor} (h : s.Ran t n words f)
    (he : f (s.hw.eng n) = g (s.hw.eng n)) : s.Ran t n words g := by
  obtain ⟨only, eng, pc⟩ := h
  exact ⟨only, he ▸ eng, pc⟩

/-! ### Instructions that read or write memory -/

/-- An instruction that changes its engine by `F` and leaves memory as `M`; sound words that it reads may be counted. -/
theorem torRun_access {s : State} {n : EngId} {words : Nat} (hs : s.hw.Settled) (hr : s.TorReady n words) {fx : Hw → Mem → Hw × Mem}
    (F : Tor → Tor) (M : Mem)
    (hfx : ∀ sm, ∃ sm', fx { s.hw with smem := sm, out := { s.hw.out with events := [] } } s.mem =
      ({ s.hw with smem := sm', out := { s.hw.out with events := [] }, tor := updN s.hw.tor n F }, M)) :
    ∃ t, torRun s n words true fx = .next t ∧ { s with mem := M }.OnlyTor t n ∧ t.hw.eng n = F (s.hw.eng n) := by
  choose g hg using hfx
  obtain ⟨sm, run⟩ := torRun_effect
    (fun sm => { s.hw with smem := g sm, out := { s.hw.out with events := [] }, tor := updN s.hw.tor n F }) M hr (fun _ => hs) hg
  exact ⟨_, run, ⟨rfl, rfl, rfl, fun u hu => getN_updN_ne _ _ _ fun h => hu (Fin.ext h)⟩, getN_updN_same _ _ _ n.isLt⟩

/-- The engine after a load of `v`, its result as yet produced. -/
def Tor.loaded (e : Tor) (d : BitVec 4) (size half : Bool) (v : Nat) : Tor :=
  { e.setD d (Tor.loadInto (e.dReg d) size half v) with prods := { kind := 1, reg := d.toNat, at_ := e.cyc - 1 } :: e.prods }

/-- A load of sound words of the engine's own data memory. -/
theorem torLoad_own (h : Hw) {m : Mem} {t : EngId} (d : BitVec 4) {a : Nat} {size : Bool} (half : Bool) (hown : Tor.ownData t a = true)
    (hu : m.anyUe (Tor.globalOf t a) (Tor.sizeBytes size) = false) : ∃ sm, torLoad h m t d a size half =
      { h with smem := sm, tor := updN h.tor t fun e => e.loaded d size half (unle (m.read (Tor.globalOf t a) (Tor.sizeBytes size))) } := by
  refine ⟨(h.noteRead m (Tor.globalOf t a) (Tor.sizeBytes size)).smem, ?_⟩
  unfold torLoad
  rw [if_pos hown]
  dsimp only
  rw [Hw.noteRead_sound h m _ _ hu]
  rfl

section
variable {s : State} {n : EngId} {x : Bool} {d : BitVec 4} {p : BitVec 3} {mode : BitVec 2} {size half : Bool} {imm : BitVec 14} {ext : Word}
  (hs : s.hw.Settled) (hr : s.TorReady n (if x then 2 else 1)) (hi : x = true → imm = 0) (hm : mode ≠ 3) {a : Nat} {e' : Tor}
  (haddr : (s.hw.eng n).addrOf p mode (immVal x imm ext) = some (a, e')) (hc : loadCause s.mem n a (Tor.sizeBytes size) = none)
include hs hr hi hm haddr hc

/-- A load from the engine's own data memory (R335). -/
theorem exec_ld_own (hown : Tor.ownData n a = true) (hu : s.mem.anyUe (Tor.globalOf n a) (Tor.sizeBytes size) = false) :
    ∃ t, execLd n x d p mode size half imm ext s = .next t ∧ s.Ran t n (if x then 2 else 1) fun e =>
      { e with p := e'.p }.setD d (Tor.loadInto (e.dReg d) size half (unle (s.mem.read (Tor.globalOf n a) (Tor.sizeBytes size)))) := by
  have legal : (immLegal x imm && mode != 3) = true := by rw [immLegal_of hi, Bool.true_and, bne_iff_ne]; exact hm
  unfold execLd
  rw [legal]
  refine (torRun_access hs hr (fun e => (({ e with p := e'.p }.issue (Tor.needP p mode) [] 1).goSeq (e.pc + 4 * xWords x)).loaded d size half
    (unle (s.mem.read (Tor.globalOf n a) (Tor.sizeBytes size)))) s.mem fun sm => ?_).imp
    fun t ⟨run, only, eng⟩ => ⟨run, only, by rw [eng]; rfl, by rw [eng]; rfl⟩
  have he : Hw.eng { s.hw with smem := sm, out := { s.hw.out with events := [] } } n = s.hw.eng n := rfl
  simp only [he, haddr, hc]
  obtain ⟨sm', load⟩ := torLoad_own (Hw.onTor { s.hw with smem := sm, out := { s.hw.out with events := [] } } n fun e =>
    ({ e with p := e'.p }.issue (Tor.needP p mode) [] 1).goSeq (e.pc + 4 * xWords x)) d half hown hu
  refine ⟨sm', ?_⟩
  rw [load]
  dsimp only [Hw.onTor]
  rw [updN_updN]

/-- A load from elsewhere waits for its data (R337). -/
theorem exec_ld_elsewhere (hown : Tor.ownData n a = false) :
    ∃ t, execLd n x d p mode size half imm ext s = .next t ∧ s.Ran t n (if x then 2 else 1) fun e =>
      { e with p := e'.p, load := [{ dst := d, addr := a, size := size, half := half, at_ := s.hw.sta.since }] } := by
  have legal : (immLegal x imm && mode != 3) = true := by rw [immLegal_of hi, Bool.true_and, bne_iff_ne]; exact hm
  have idle : (s.hw.eng n).load = [] := hr.2.1
  unfold execLd
  rw [legal]
  refine (torRun_access hs hr (fun e => { ({ e with p := e'.p }.issue (Tor.needP p mode) [] 1).goSeq (e.pc + 4 * xWords x) with
    load := e.load ++ [{ dst := d, addr := a, size := size, half := half, at_ := s.hw.sta.since }] }) s.mem fun sm => ?_).imp
    fun t ⟨run, only, eng⟩ => ⟨run, only, by rw [eng, idle]; rfl, by rw [eng]; rfl⟩
  have he : Hw.eng { s.hw with smem := sm, out := { s.hw.out with events := [] } } n = s.hw.eng n := rfl
  simp only [he, haddr, hc, torLoad, hown, Bool.false_eq_true, if_false]
  refine ⟨sm, ?_⟩
  dsimp only [Hw.onTor]
  rw [updN_updN]
  rfl

end

/-! ### The return of a load -/

/-- The data of a load from the shared store. -/
theorem loadValue_shared (h : Hw) {m : Mem} (t : EngId) {a w : Nat} (h1 : 0x20000000 ≤ a) (h2 : a < 0x21000000) (hu : m.anyUe a w = false) :
    loadValue h m t a w = ({ h with smem := (h.noteRead m a w).smem }, unle (m.read a w)) := by
  unfold loadValue
  rw [region_shared h1 h2]
  dsimp only
  rw [hu, Hw.noteRead_sound h m a w hu]
  rfl

/-- The oldest load of an engine returns from the shared store (R337). -/
theorem exec_globalLoadReturn_shared {s : State} {n : EngId} (hs : s.hw.Settled) {g : GLoad} {rest : List GLoad}
    (hl : (s.hw.eng n).load = g :: rest) (h1 : 0x20000000 ≤ g.addr) (h2 : g.addr < 0x21000000)
    (hu : s.mem.anyUe g.addr (Tor.sizeBytes g.size) = false) :
    ∃ t, execGlobalLoadReturn n s = .next t ∧ s.OnlyTor t n ∧ t.hw.eng n =
      { (s.hw.eng n).setD g.dst (Tor.loadInto ((s.hw.eng n).dReg g.dst) g.size g.half (unle (s.mem.read g.addr (Tor.sizeBytes g.size)))) with
        load := rest, stalls := (t.hw.eng n).stalls, cyc := (t.hw.eng n).cyc } := by
  have returned : loadReturn (s.hw.elapse 0) s.mem n = Hw.onTor { s.hw.elapse 0 with
      smem := ((s.hw.elapse 0).noteRead s.mem g.addr (Tor.sizeBytes g.size)).smem } n fun e =>
      { e.setD g.dst (Tor.loadInto (e.dReg g.dst) g.size g.half (unle (s.mem.read g.addr (Tor.sizeBytes g.size)))) with
        load := rest, stalls := cnt 48 e.stalls (if rest.isEmpty then (s.hw.elapse 0).up - g.at_ else 0), cyc := e.cyc + 3 } := by
    unfold loadReturn
    rw [show ((s.hw.elapse 0).eng n).load = g :: rest from hl]
    dsimp only
    rw [loadValue_shared _ n h1 h2 hu]
  refine ⟨_, ok_becomes s 0 returned hs, ⟨rfl, rfl, rfl, fun u hu => getN_updN_ne _ _ _ fun h => hu (Fin.ext h)⟩, ?_⟩
  dsimp only [Hw.onTor, Hw.eng]
  rw [getN_updN_same _ _ _ n.isLt]
  rfl

/-! ### Stores -/

/-- The merging reads of a store without an uncorrectable word change only the protection registers. -/
theorem Hw.noteMerge_sound (h : Hw) {m : Mem} {a n : Nat} (hu : m.anyUe a n = false) :
    h.noteMerge m a n = { h with smem := (h.noteMerge m a n).smem } := by
  have sound : ∀ w ∈ Mem.partials a n, m.err w ≠ some true := fun w hw => by
    have := List.any_eq_false.mp hu w (List.mem_of_mem_filter hw)
    simpa using this
  unfold Hw.noteMerge
  generalize Mem.partials a n = l at sound
  induction l generalizing h with
  | nil => rfl
  | cons w r ih =>
    rw [each_cons]
    have rest (h : Hw) := ih h fun v hv => sound v (List.mem_cons_of_mem _ hv)
    match e : m.err w with
    | none => exact rest h
    | some true => exact absurd e (sound w (List.mem_cons_self ..))
    | some false =>
      refine (rest (h.noteWord w false)).trans ?_
      dsimp only
      rw [noteWord_false]

/-- A store to the data memories or the shared store. -/
theorem Hw.torStore_memory (h : Hw) {m : Mem} (t : Nat) {a w : Nat} (v : Nat)
    (hr : 0x10000000 ≤ a ∧ a < 0x10400000 ∨ 0x20000000 ≤ a ∧ a < 0x21000000) (hu : m.anyUe a w = false) :
    h.torStore m t a w v = ({ h with smem := (h.noteMerge m a w).smem }, m.write a (le w v)) := by
  unfold torStore
  rw [← noteMerge_sound h hu]
  rcases hr with hr | hr
  · rw [region_data hr.1 hr.2]
  · rw [region_shared hr.1 hr.2]

/-- A store to the codebook is dropped and counted. -/
theorem Hw.torStore_codebook (h : Hw) {m : Mem} (t : Nat) {a w : Nat} (v : Nat) (h1 : 0x30000000 ≤ a) (h2 : a < 0x30100000) :
    h.torStore m t a w v = (h.onTor t fun e => { e with storeDropped := inc e.storeDropped }, m) := by
  unfold torStore
  rw [region_codebook h1 h2]

/-- The engine after a store issued: one outside its own data memory is posted (R337). -/
def Tor.stored (e : Tor) (own : Bool) : Tor := if own then e else e.post

/-- A store dropped (R354). -/
def Tor.storeDrop (e : Tor) : Tor := { e with storeDropped := inc e.storeDropped }

theorem updN_id {α : Type} {n : Nat} (v : Vector α n) (i : Nat) : updN v i (fun x => x) = v := by
  unfold updN upd
  split <;> simp

theorem storeAt_eq (h : Hw) (m : Mem) (t : EngId) (a w v : Nat) : storeAt h m t a w v =
    ({ h with tor := updN h.tor t fun e => e.stored (Tor.ownData t a) } : Hw).torStore m t (Tor.globalOf t a) w v := by
  unfold storeAt
  cases Tor.ownData t a
  · rfl
  · rw [show updN h.tor t (fun e => e.stored true) = h.tor from updN_id ..]
    rfl

section
variable {s : State} {n : EngId} {x : Bool} {p : BitVec 3} {mode : BitVec 2} {imm : BitVec 14} {ext : Word} {w : Nat} {ns : List Tor.Need}
  {val : Tor → Nat} {f : Tor → Tor} (hs : s.hw.Settled) (hr : s.TorReady n (if x then 2 else 1)) (hi : x = true → imm = 0) (hm : mode ≠ 3)
  {a : Nat} {e' : Tor} (haddr : (s.hw.eng n).addrOf p mode (immVal x imm ext) = some (a, e')) (hc : Tor.accessCause n a w true = none)
include hs hr hi hm haddr hc

/-- A store to the data memories or the shared store (R335, R337). -/
theorem torStoreStep_memory
    (hreg : 0x10000000 ≤ Tor.globalOf n a ∧ Tor.globalOf n a < 0x10400000 ∨ 0x20000000 ≤ Tor.globalOf n a ∧ Tor.globalOf n a < 0x21000000)
    (hu : s.mem.anyUe (Tor.globalOf n a) w = false) :
    ∃ t, torStoreStep s n x true p mode imm ext w ns val f = .next t ∧
      { s with mem := s.mem.write (Tor.globalOf n a) (le w (val (s.hw.eng n))) }.OnlyTor t n ∧
      t.hw.eng n = (({ f (s.hw.eng n) with p := e'.p }.issue (Tor.needP p mode ++ ns) [] 1).goSeq ((s.hw.eng n).pc + 4 * xWords x)).stored
        (Tor.ownData n a) := by
  have legal : (true && immLegal x imm && mode != 3) = true := by rw [immLegal_of hi, Bool.true_and, Bool.true_and, bne_iff_ne]; exact hm
  unfold torStoreStep
  rw [legal]
  refine torRun_access hs hr (fun e => (({ f e with p := e'.p }.issue (Tor.needP p mode ++ ns) [] 1).goSeq (e.pc + 4 * xWords x)).stored
        (Tor.ownData n a)) _ fun sm => ?_
  have he : Hw.eng { s.hw with smem := sm, out := { s.hw.out with events := [] } } n = s.hw.eng n := rfl
  simp only [he, haddr, hc, storeAt_eq, Hw.onTor, updN_updN]
  exact ⟨_, Hw.torStore_memory _ _ _ hreg hu⟩

/-- A store to the codebook (R354). -/
theorem torStoreStep_codebook (h1 : 0x30000000 ≤ Tor.globalOf n a) (h2 : Tor.globalOf n a < 0x30100000) :
    ∃ t, torStoreStep s n x true p mode imm ext w ns val f = .next t ∧ s.OnlyTor t n ∧
      t.hw.eng n = ((({ f (s.hw.eng n) with p := e'.p }.issue (Tor.needP p mode ++ ns) [] 1).goSeq ((s.hw.eng n).pc + 4 * xWords x)).stored
        (Tor.ownData n a)).storeDrop := by
  have legal : (true && immLegal x imm && mode != 3) = true := by rw [immLegal_of hi, Bool.true_and, Bool.true_and, bne_iff_ne]; exact hm
  unfold torStoreStep
  rw [legal]
  refine torRun_access hs hr (fun e => ((({ f e with p := e'.p }.issue (Tor.needP p mode ++ ns) [] 1).goSeq (e.pc + 4 * xWords x)).stored
    (Tor.ownData n a)).storeDrop) s.mem fun sm => ⟨sm, ?_⟩
  have he : Hw.eng { s.hw with smem := sm, out := { s.hw.out with events := [] } } n = s.hw.eng n := rfl
  simp only [he, haddr, hc, storeAt_eq, Hw.onTor, updN_updN, Hw.torStore_codebook _ _ _ h1 h2, Tor.storeDrop]

end

/-- An address outside the program memories is no address of an engine's own one. -/
theorem Tor.ownProg_of_outside {t : EngId} {a : Nat} (h : ¬ (0x11000000 ≤ Tor.globalOf t a ∧ Tor.globalOf t a < 0x11100000)) :
    Tor.ownProg t a = false := by
  refine Bool.eq_false_iff.mpr fun hp => ?_
  obtain ⟨o, ho⟩ := (ownProg_iff t a).mp hp
  unfold region at ho
  split_ifs at ho

section
variable {s : State} {n : EngId} {x : Bool} {p : BitVec 3} {mode : BitVec 2} {imm : BitVec 14} {ext : Word} {w : Nat} {ns : List Tor.Need}
  {val : Tor → Nat} {f own : Tor → Tor} (hs : s.hw.Settled) (hr : s.TorReady n (if x then 2 else 1)) (hi : x = true → imm = 0) (hm : mode ≠ 3)
  {a : Nat} {e' : Tor} (haddr : (s.hw.eng n).addrOf p mode (immVal x imm ext) = some (a, e')) (ha : a % w = 0)
  (hf : { f (s.hw.eng n) with p := e'.p } = own e')
include hs hr hi hm haddr ha hf

/-- What a store to the data memories or the shared store does, `own` the effect of the instruction beside the address registers. -/
theorem torStoreStep_stores (hw : s.mem.wf = true) (hposted : (f (s.hw.eng n)).posted = (s.hw.eng n).posted)
    (hg : 0x10000000 ≤ Tor.globalOf n a ∧ Tor.globalOf n a < 0x10400000 ∨ 0x20000000 ≤ Tor.globalOf n a ∧ Tor.globalOf n a < 0x21000000)
    (hu : s.mem.anyUe (Tor.globalOf n a) w = false) :
    ∃ t, torStoreStep s n x true p mode imm ext w ns val f = .next t ∧ t.pending = s.pending ∧
      t.hw = { s.hw with tor := t.hw.tor, smem := t.hw.smem, out := { s.hw.out with events := [] } } ∧
      (∃ c, t.hw.eng n = { (own e').ran (t.hw.eng n) with
        posted := if 0x10000000 + n.val * 0x40000 ≤ Tor.globalOf n a ∧ Tor.globalOf n a < 0x10040000 + n.val * 0x40000
          then (s.hw.eng n).posted else c :: (s.hw.eng n).posted.take 7 }) ∧
      (∀ u : EngId, u ≠ n → t.hw.eng u = s.hw.eng u) ∧
      (∀ j < w, t.mem.get (Tor.globalOf n a + j) = BitVec.ofNat 8 (val (s.hw.eng n) / 256 ^ j)) ∧
      ∀ b, b < Tor.globalOf n a ∨ Tor.globalOf n a + w ≤ b → t.mem.get b = s.mem.get b := by
  have mapped : region (Tor.globalOf n a) ≠ .unmapped := by
    rcases hg with ⟨h1, h2⟩ | ⟨h1, h2⟩
    · rw [region_data h1 h2]
      nofun
    · rw [region_shared h1 h2]
      nofun
  have cause : Tor.accessCause n a w true = none := Tor.accessCause_none ha mapped (Tor.ownProg_of_outside (by omega))
  obtain ⟨t, run, ⟨hp, hmem, hhw, others⟩, eng⟩ := torStoreStep_memory (ns := ns) (val := val) (f := f) hs hr hi hm haddr cause hg hu
  obtain ⟨bytes, rest⟩ := Mem.get_write_le hw hu (val (s.hw.eng n))
  refine ⟨t, run, hp, hhw, ?_, others, fun j hj => by rw [hmem]; exact bytes j hj, fun b hb => by rw [hmem]; exact rest b hb⟩
  have posted : (own e').posted = (s.hw.eng n).posted := by rw [← hf, ← hposted]
  rw [hf] at eng
  have here := Tor.ownData_iff n a
  rw [show 0x10000000 + n.val * 0x40000 + 0x40000 = 0x10040000 + n.val * 0x40000 by omega] at here
  rw [← posted]
  simp only [← here]
  cases mine : Tor.ownData n a
  · exact ⟨_, by rw [eng, mine]; rfl⟩
  · exact ⟨0, by rw [eng, mine]; rfl⟩

/-- What a store to the codebook does. -/
theorem torStoreStep_drops (hposted : (f (s.hw.eng n)).posted = (s.hw.eng n).posted)
    (hdropped : (f (s.hw.eng n)).storeDropped = (s.hw.eng n).storeDropped) (hl : (f (s.hw.eng n)).loops = (s.hw.eng n).loops)
    (h1 : 0x30000000 ≤ Tor.globalOf n a) (h2 : Tor.globalOf n a < 0x30100000) :
    ∃ t cc, torStoreStep s n x true p mode imm ext w ns val f = .next t ∧ s.OnlyTor t n ∧
      t.hw.eng n = ({ own e' with posted := cc :: (s.hw.eng n).posted.take 7
                                  storeDropped := min (2 ^ 32 - 1) ((s.hw.eng n).storeDropped + 1) } : Tor).ran (t.hw.eng n) ∧
      (t.hw.eng n).pc = (Tor.loopBack (s.hw.eng n).loops ((s.hw.eng n).pc + 4 * xWords x)).2 := by
  have mapped : region (Tor.globalOf n a) ≠ .unmapped := by
    rw [region_codebook h1 h2]
    nofun
  have cause : Tor.accessCause n a w true = none := Tor.accessCause_none ha mapped (Tor.ownProg_of_outside (by omega))
  have elsewhere : Tor.ownData n a = false := Bool.eq_false_iff.mpr fun h => by
    have := (Tor.ownData_iff n a).mp h
    have := n.isLt
    omega
  obtain ⟨t, run, only, eng⟩ := torStoreStep_codebook (ns := ns) (val := val) (f := f) hs hr hi hm haddr cause h1 h2
  have posted : (own e').posted = (s.hw.eng n).posted := by rw [← hf, ← hposted]
  have dropped : (own e').storeDropped = (s.hw.eng n).storeDropped := by rw [← hf, ← hdropped]
  have loops : (own e').loops = (s.hw.eng n).loops := by rw [← hf, ← hl]
  rw [hf, elsewhere] at eng
  rw [← posted, ← dropped, ← loops]
  exact ⟨t, _, run, only, by rw [eng]; rfl, by rw [eng]; rfl⟩

end

/-! ### Two loads with a multiply (R338) -/

/-- The engine after the address generation of the two loads, changed by `f` otherwise. -/
def Tor.tapped (e : Tor) (f : Tor → Tor) (p1 p2 : BitVec 3) (ps : List (Nat × Nat)) : Tor :=
  ({ f e with p := ((e.postMod p1 (e.mStep p1)).postMod p2 ((e.postMod p1 (e.mStep p1)).mStep p2)).p }.issue
    (Tor.needStep p1 ++ Tor.needStep p2) ps 1).goSeq (e.pc + 4)

/-- FTAP, FTAPZ and DLD with sound words of the engine's own data memory: `f` is what the multiply makes of the engine. -/
theorem torTap_own {s : State} {n : EngId} (hs : s.hw.Settled) (hr : s.TorReady n 1) {d1 d2 : BitVec 4} (hd : d1 ≠ d2) {p1 p2 : BitVec 3}
    {ps : List (Nat × Nat)} {f : Tor → Tor} {a1 a2 : Nat} (h1 : ((s.hw.eng n).pReg p1).toNat = a1)
    (h2 : (((s.hw.eng n).postMod p1 ((s.hw.eng n).mStep p1)).pReg p2).toNat = a2)
    (hc : ∀ a, a = a1 ∨ a = a2 → loadCause s.mem n a 4 = none ∧ Tor.ownData n a = true ∧ s.mem.anyUe (Tor.globalOf n a) 4 = false) :
    ∃ t, torTap s n true d1 p1 d2 p2 ps f = .next t ∧ s.OnlyTor t n ∧
      t.hw.eng n = (((s.hw.eng n).tapped f p1 p2 ps).loaded d1 false false (unle (s.mem.read (Tor.globalOf n a1) 4))).loaded d2 false false
        (unle (s.mem.read (Tor.globalOf n a2) 4)) := by
  have legal : (true && d1 != d2) = true := by rw [Bool.true_and, bne_iff_ne]; exact hd
  obtain ⟨cause1, own1, sound1⟩ := hc a1 (.inl rfl)
  obtain ⟨cause2, own2, sound2⟩ := hc a2 (.inr rfl)
  unfold torTap
  rw [legal]
  refine torRun_access hs hr (fun _ => (((s.hw.eng n).tapped f p1 p2 ps).loaded d1 false false
    (unle (s.mem.read (Tor.globalOf n a1) 4))).loaded d2 false false (unle (s.mem.read (Tor.globalOf n a2) 4))) s.mem fun sm => ?_
  have he : Hw.eng { s.hw with smem := sm, out := { s.hw.out with events := [] } } n = s.hw.eng n := rfl
  simp only [he, h1, h2, cause1, cause2]
  obtain ⟨sm1, load1⟩ := torLoad_own (Hw.onTor { s.hw with smem := sm, out := { s.hw.out with events := [] } } n fun _ =>
    (s.hw.eng n).tapped f p1 p2 ps) d1 (size := false) false own1 sound1
  obtain ⟨sm2, load2⟩ := torLoad_own (torLoad (Hw.onTor { s.hw with smem := sm, out := { s.hw.out with events := [] } } n fun _ =>
    (s.hw.eng n).tapped f p1 p2 ps) s.mem n d1 a1 false false) d2 (size := false) false own2 sound2
  refine ⟨sm2, Prod.ext (load2.trans ?_) rfl⟩
  rw [load1]
  dsimp only [Hw.onTor]
  rw [updN_updN, updN_updN]
  rfl

/-- Settles O13: the address of `Tor.addrOf_eq`, and what each access does to engine and memory. -/
theorem torMemory : Obligations.TorMemory := by
  refine ⟨fun s n hs => ?loads, fun s n hs hw => ?stores, fun s n a dx dy d1 d2 p1 p2 conj hs hr hd => ?taps⟩
  case loads =>
    intro e post into
    have post_eq (p : BitVec 3) (step : Int) (e : Tor) : post p step e = e.postMod p step := (Tor.postMod_eq e p step).symm
    have into_eq (old : Word) (size half : Bool) (v : Nat) : Tor.loadInto old size half v = into old size half v := by
      match size, half with
      | false, _ => rfl
      | true, false => exact Tor.loadInto_half old false v
      | true, true => exact Tor.loadInto_half old true v
    refine ⟨fun x d p mode size half imm ext hr hi hm => ?_, fun g rest hl => ?_⟩
    · intro i pv a step moved w ha base g
      have hm3 : mode ≠ 3 := by
        rintro rfl
        exact absurd hm (by decide)
      have haddr : e.addrOf p mode (immVal x imm ext) = some (a, moved e) := by
        rw [Tor.addrOf_eq e p hm, ← post_eq]
        rfl
      have only_p : { e with p := (moved e).p } = moved e := Tor.addrOf_changes_p haddr
      refine ⟨fun h1 h2 hu => ?_, fun hout hmap hprog => ?_⟩
      · have own : Tor.ownData n a = true := (Tor.ownData_iff n a).mpr ⟨h1, h2⟩
        have cause : loadCause s.mem n a (Tor.sizeBytes size) = none := loadCause_none ha (Tor.ownData_mapped own) fun _ => hu
        obtain ⟨t, run, ran⟩ := exec_ld_own (d := d) (half := half) hs hr hi hm3 haddr cause own hu
        refine ⟨t, run, ran.congr ?_⟩
        rw [← into_eq]
        exact congrArg (Tor.setD · d _) only_p
      · have own : Tor.ownData n a = false := Bool.eq_false_iff.mpr fun h => hout ((Tor.ownData_iff n a).mp h)
        have far : ¬ a < 0x40000 := fun h => hout (by
          have near : g = base + a := if_pos h
          rw [near]
          omega)
        have here : Tor.globalOf n a = a := if_neg far
        have cause : loadCause s.mem n a (Tor.sizeBytes size) = none := loadCause_none ha (by rw [here]; exact hmap) fun h => by
          rw [own, Bool.false_or, Tor.ownProg_iff, here] at h
          obtain ⟨o, ho⟩ := h
          rw [here]
          exact hprog o ho
        obtain ⟨t, run, ran⟩ := exec_ld_elsewhere (d := d) (half := half) hs hr hi hm3 haddr cause own
        refine ⟨t, run, ran.congr ?_⟩
        exact congrArg (fun e : Tor => { e with load := [{ dst := d, addr := a, size := size, half := half, at_ := s.hw.sta.since }] }) only_p
    · intro w h1 h2 hu
      rw [← into_eq]
      exact exec_globalLoadReturn_shared hs hl h1 h2 hu
  case stores =>
    intro e post x p mode imm ext hr hi hm i pv a g step moved stored
    have post_eq (p : BitVec 3) (step : Int) (e : Tor) : post p step e = e.postMod p step := (Tor.postMod_eq e p step).symm
    have hm3 : mode ≠ 3 := by
      rintro rfl
      exact absurd hm (by decide)
    have haddr : e.addrOf p mode (immVal x imm ext) = some (a, moved e) := by
      rw [Tor.addrOf_eq e p hm, ← post_eq]
      rfl
    have only_p : { e with p := (moved e).p } = moved e := Tor.addrOf_changes_p haddr
    have store (w : Nat) (own : Tor → Tor) (ns : List Tor.Need) (val : Tor → Nat) (f : Tor → Tor) (c : Instr)
        (hc : exec c s = torStoreStep s n x true p mode imm ext w ns val f) (hf : { f e with p := (moved e).p } = own (moved e))
        (hposted : (f e).posted = e.posted) (hdropped : (f e).storeDropped = e.storeDropped) (hl : (f e).loops = e.loops) :
        stored c w (val e) own := by
      intro ha
      rw [hc]
      refine ⟨fun hg hu => torStoreStep_stores hs hr hi hm3 haddr ha hf hw hposted hg hu, fun h1 h2 => ?_⟩
      obtain ⟨t, cc, run, ran⟩ := torStoreStep_drops (ns := ns) (val := val) hs hr hi hm3 haddr ha hf hposted hdropped hl h1 h2
      exact ⟨t, cc, run, ran⟩
    refine ⟨fun d => ?_, fun acc form => ?_⟩
    · intro v
      have st (size half : Bool) := store (Tor.sizeBytes size) id [Tor.needD d.toNat] (fun e =>
        if size then (if half then (e.dReg d).toNat / 65536 else (e.dReg d).toNat % 65536) else (e.dReg d).toNat) id
        (.st n x d p mode size half imm ext) rfl only_p rfl rfl rfl
      exact ⟨st false, st true false, st true true⟩
    · exact store 4 (fun r => { r with sat := r.sat || (r.moveOut acc form).2 }) [Tor.needA acc] (fun e => (e.moveOut acc form).1.toNat) (fun e => { e with sat := e.sat || (e.moveOut acc form).2 })
        (.sta n x acc form p mode 0 imm ext) rfl
        (congrArg (fun r : Tor => { r with sat := r.sat || (r.moveOut acc form).2 }) only_p) rfl rfl rfl
  case taps =>
    intro e post a1 a2 base ha1 hlt1 hu1 ha2 hlt2 hu2 loads x y acc re im
    have post_eq (p : BitVec 3) (e : Tor) : post p e = e.postMod p (e.mStep p) := (Tor.postMod_eq e p (e.mStep p)).symm
    have second : ((e.postMod p1 (e.mStep p1)).pReg p2).toNat = a2 := by rw [← post_eq]; rfl
    have near {a : Nat} (ha : a % 4 = 0) (hlt : a < 0x40000) (hu : s.mem.anyUe (base + a) 4 = false) :
        Tor.globalOf n a = base + a ∧ loadCause s.mem n a 4 = none ∧ Tor.ownData n a = true ∧ s.mem.anyUe (Tor.globalOf n a) 4 = false := by
      have hg : Tor.globalOf n a = base + a := if_pos hlt
      have own : Tor.ownData n a = true := (Tor.ownData_iff n a).mpr (by rw [hg]; omega)
      rw [← hg] at hu
      exact ⟨hg, loadCause_none ha (Tor.ownData_mapped own) fun _ => hu, own, hu⟩
    obtain ⟨hg1, own1⟩ := near ha1 hlt1 hu1
    obtain ⟨hg2, own2⟩ := near ha2 hlt2 hu2
    have tap (ps : List (Nat × Nat)) (f g : Tor → Tor) (hfg : f e = g e) (hl : (g e).loops = e.loops)
        (hp : post p2 (post p1 (g e)) = { g e with p := (post p2 (post p1 e)).p }) :
        ∃ t, torTap s n true d1 p1 d2 p2 ps f = .next t ∧ s.Ran t n 1 fun e => loads (g e) := by
      obtain ⟨t, run, only, eng⟩ := torTap_own (ps := ps) (f := f) (a1 := a1) hs hr hd rfl second fun a h => by
        rcases h with rfl | rfl
        · exact own1
        · exact own2
      have moved : ((e.postMod p1 (e.mStep p1)).postMod p2 ((e.postMod p1 (e.mStep p1)).mStep p2)).p = (post p2 (post p1 e)).p := by
        rw [post_eq, post_eq]
      have tapped : e.tapped f p1 p2 ps = ((post p2 (post p1 (g e))).issue (Tor.needStep p1 ++ Tor.needStep p2) ps 1).goSeq (e.pc + 4) := by
        rw [Tor.tapped, moved, hfg, hp]
      rw [hg1, hg2, show (s.hw.eng n).tapped f p1 p2 ps = _ from tapped] at eng
      exact ⟨t, run, only, by rw [eng]; rfl, by rw [eng, ← hl]; rfl⟩
    have mul (keep : Bool) : tapMul e a dx dy conj keep = e.putA a (addIQ (if keep then acc else ⟨0, 0⟩) ⟨re, im⟩) := rfl
    refine ⟨tap _ (fun e => tapMul e a dx dy conj true) (fun e => e.putA a ⟨acc.i + re, acc.q + im⟩) (mul true) rfl rfl,
      tap _ (fun e => tapMul e a dx dy conj false) (fun e => e.putA a ⟨re, im⟩) ?_ rfl rfl, tap _ id id rfl rfl rfl⟩
    rw [mul, addIQ]
    simp only [Bool.false_eq_true, if_false, zero_add]

end Sys2Proof.Machine
end

section
/-! Comparators, TOUT and TCAP (R259, R276, R277), and what a pulse of an event line does to the engines' slots (R343). Settles O24. -/
namespace Sys2Proof.Machine

/-! ### Pulses (R343) -/

/-- The engine when a line pulses. -/
def Tor.struck (e : Tor) (line : Nat) : Tor :=
  { e with
    evOverrun := cnt 32 e.evOverrun (e.ev.toList.filter fun s => s.enable && s.line == line && s.pending).length
    ev := vmapi e.ev fun _ s => if s.enable && s.line == line then { s with pending := true } else s }

namespace Hw

/-- A packet under a condition changes only the trace. -/
theorem whenB_trace_eq (h : Hw) (b : Bool) (p : Hw → Pkt) : h.whenB b (fun h => h.trace (p h)) = { h with lko := { h.lko with
    trace := (h.whenB b fun h => h.trace (p h)).lko.trace, trcCount := (h.whenB b fun h => h.trace (p h)).lko.trcCount
    trcLost := (h.whenB b fun h => h.trace (p h)).lko.trcLost, trcDropped := (h.whenB b fun h => h.trace (p h)).lko.trcDropped } } := by
  cases b
  · rfl
  · exact trace_eq h (p h)

/-- A pulse sets PENDING in the slots that wait for its line, and changes nothing else but the trace and the record of pulses. -/
theorem pulse_pulsed (h : Hw) (line : Nat) : h.pulsed (h.pulse line) line := by
  unfold pulse
  extract_lets g src out
  have traced := out.whenB_trace_eq out.traceEv fun h => { type := 0x10, source := line, info := 0, cc := low32 h.tim.c, lo := 0, hi := 0 }
  generalize (out.whenB _ _ : Hw) = t at traced ⊢
  have tor : t.tor = out.tor := by rw [traced]
  have slots (u : EngId) : t.eng u = (h.eng u).struck line := (congrArg (getN · u.val ({} : Tor)) tor).trans (getN_vmapi _ _ _ u.isLt)
  refine ⟨traced.trans (by rw [tor]; rfl), fun u => ⟨by rw [slots]; rfl, fun k => ?_⟩⟩
  rw [slots]
  refine (getN_vmapi _ _ _ k.isLt).trans ?_
  generalize getN (h.eng u).ev k {} = slot
  split
  · next hc => rw [hc, Bool.or_true]
  · next hc => rw [Bool.eq_false_iff.mpr hc, Bool.or_false]

/-- A pulse leaves a settled state settled. -/
theorem pulse_settled {h : Hw} (hs : h.Settled) (line : Nat) : (h.pulse line).Settled := by
  rw [(h.pulse_pulsed line).1]
  exact hs

end Hw

/-- An effect that ends with the pulse of a line. -/
theorem ok_pulse (s : State) (dt : Nat) {f : Hw → Hw} {g : Hw} {line : Nat} (hg : g.Settled) (hf : f (s.hw.elapse dt) = g.pulse line) :
    ∃ t, ok s dt f = .next t ∧ t.pending = s.pending ∧ t.mem = s.mem ∧ g.pulsed t.hw line :=
  ⟨_, ok_becomes s dt hf (Hw.pulse_settled hg line), rfl, rfl, g.pulse_pulsed line⟩

/-! ### Comparators (R259) -/

theorem signed_code_32 (x : Int) : signed 32 (code 32 x) = (BitVec.ofInt 32 x).toInt := by
  rw [code_eq_toNat_ofInt, BitVec.toInt_eq_toNat_cond, signed, Nat.mod_eq_of_lt (BitVec.isLt _)]
  have := (BitVec.ofInt 32 x).isLt
  split <;> split <;> omega

theorem Hw.cmpDue_eq (c : Nat) (target : Word) : cmpDue c target = decide ((target - BitVec.ofNat 32 c).toInt ≤ 0) := by
  have distance : BitVec.ofInt 32 ((target.toNat : Int) - c) = target - BitVec.ofNat 32 c := by
    apply BitVec.eq_of_toNat_eq
    rw [BitVec.toNat_ofInt, BitVec.toNat_sub, BitVec.toNat_ofNat]
    omega
  rw [cmpDue, signed_code_32, distance]

/-- Two changes of an entry that agree on what it holds. -/
theorem updN_congr {α : Type} {n i : Nat} {v : Vector α n} (d : α) {f g : α → α} (h : f (getN v i d) = g (getN v i d)) :
    updN v i f = updN v i g := by
  rw [updN_const v i f d, h, ← updN_const v i g d]

namespace Hw

/-- Path `n` with comparator `c` having fired. -/
def withFired (h : Hw) (n : Nat) (c : Cmp) : Hw := { h with paths := updN h.paths n fun p => { p with cmp := { c with armed := false, fired := true } } }

theorem cmpFire_eq (h : Hw) (n : Nat) : h.cmpFire n = (h.withFired n (h.path n).cmp).pulse (64 + n) :=
  congrArg (fun v => Hw.pulse { h with paths := v } (64 + n)) (updN_congr {} rfl)

/-- ARM with the target ahead of TIM_CC. -/
theorem cmpArm_waits (h : Hw) {n : Nat} (hn : n < 64) {target : Word} (hd : cmpDue h.tim.c target = false) :
    (h.onPath n fun p => { p with cmp := { p.cmp with target := target } }).cmpArm n = h.onPath n fun p => { p with cmp := { p.cmp with
      target := target, armedFor := target, armed := true, fired := false, late := false, clearedByStep := false } } := by
  unfold cmpArm
  have taken : ((h.onPath n fun p => { p with cmp := { p.cmp with target := target } }).path n).cmp.target = target := by
    rw [path, onPath, getN_updN_same _ _ _ hn]
  rw [taken]
  refine (if_neg (Bool.eq_false_iff.mp hd)).trans (congrArg (fun v => { h with paths := v }) ?_)
  exact updN_updN ..

/-- ARM with a target that is due. -/
theorem cmpArm_fires (h : Hw) {n : Nat} (hn : n < 64) {target : Word} (hd : cmpDue h.tim.c target = true) :
    (h.onPath n fun p => { p with cmp := { p.cmp with target := target } }).cmpArm n = (h.withFired n { (h.path n).cmp with
      target := target, armedFor := target, late := true, clearedByStep := false, lateCount := inc (h.path n).cmp.lateCount }).pulse (64 + n) := by
  unfold cmpArm
  have taken : ((h.onPath n fun p => { p with cmp := { p.cmp with target := target } }).path n).cmp.target = target := by
    rw [path, onPath, getN_updN_same _ _ _ hn]
  rw [taken]
  refine (if_pos hd).trans ((cmpFire_eq _ n).trans (congrArg (fun v => Hw.pulse { h with paths := v } (64 + n)) ?_))
  dsimp only [onPath, path]
  rw [updN_updN, updN_updN, getN_updN_same _ _ _ hn, getN_updN_same _ _ _ hn]

end Hw

theorem getN_fin {α : Type} {n : Nat} (v : Vector α n) (i : Fin n) (d : α) : getN v i d = v[i] := getN_of_lt v d i.isLt

section
variable {s : State} {dt : Nat} {h : Hw} (he : s.hw.elapse dt = h) (hs : h.Settled)
include he hs

/-- A comparator is armed, its target ahead. -/
theorem exec_timCmpArm_waits (n : PathId) {target : Word} (on : h.engOn = true) (hd : Hw.cmpDue h.tim.c target = false) :
    execTimCmpArm dt n target s = .next { s with hw := h.onPath n fun p => { p with cmp := { p.cmp with
      target := target, armedFor := target, armed := true, fired := false, late := false, clearedByStep := false } } } := by
  refine ok_becomes s dt ?_ hs
  rw [he, on]
  exact h.cmpArm_waits n.isLt hd

/-- A comparator is armed with a target that is due. -/
theorem exec_timCmpArm_fires (n : PathId) {target : Word} (on : h.engOn = true) (hd : Hw.cmpDue h.tim.c target = true) :
    ∃ t, execTimCmpArm dt n target s = .next t ∧ t.pending = s.pending ∧ t.mem = s.mem ∧ (h.withFired n { (h.path n).cmp with
      target := target, armedFor := target, late := true, clearedByStep := false
      lateCount := min (2 ^ 32 - 1) ((h.path n).cmp.lateCount + 1) }).pulsed t.hw (64 + n) := by
  refine ok_pulse s dt hs ?_
  rw [he, on]
  exact h.cmpArm_fires n.isLt hd

/-- An armed comparator fires. -/
theorem exec_comparatorFire_fires (n : PathId) (ha : (h.path n).cmp.armed = true) (hd : Hw.cmpDue h.tim.c (h.path n).cmp.armedFor = true) :
    ∃ t, execComparatorFire dt n s = .next t ∧ t.pending = s.pending ∧ t.mem = s.mem ∧ (h.withFired n (h.path n).cmp).pulsed t.hw (64 + n) := by
  refine ok_pulse s dt hs ?_
  rw [he, ha, hd]
  exact h.cmpFire_eq n

/-! ### TOUT and TCAP (R276, R277) -/

/-- A pin rises at its next programmed time. -/
theorem exec_toutRise_rises {i : Fin 8} {x : Tout} (hx : h.image.touts.find? (fun y => y.pin == i.val) = some x) (hstep : h.tim.stepped = true)
    {n up : Nat} (hn : getN h.tim.toutNext i 0 = n) (hup : dacEdge (2 * (toutStart x + n * x.periodNs)) = up)
    (hreached : up < 12 * (h.tim.c + 1)) (hmode : x.mode = 0 → n = 0) :
    execToutRise dt i s = .next { s with hw := { h with tim := { h.tim with
      toutAt := updN h.tim.toutAt i fun _ => up, toutLevel := updN h.tim.toutLevel i fun _ => true
      toutNext := updN h.tim.toutNext i fun _ => n + 1 } } } := by
  refine ok_becomes s dt ?_ hs
  have due : (h.tim.stepped && reached h.tim.c up && (x.mode != 0 || n == 0)) = true := by
    rw [hstep, reached, decide_eq_true hreached]
    by_cases hm : x.mode = 0
    · simp [hmode hm]
    · simp [hm]
  rw [he, ← getN_fin _ i 0, hn, hx]
  dsimp only
  have next : (updN h.tim.toutNext i fun _ => n + 1) = updN h.tim.toutNext i fun n => n + 1 := updN_congr 0 (by rw [hn])
  rw [hup, due, Hw.whenB_true, Hw.onTim, upd_eq_updN, upd_eq_updN, upd_eq_updN, next]

/-- A pin falls after its width. -/
theorem exec_toutFall_falls {i : Fin 8} {x : Tout} (hx : h.image.touts.find? (fun y => y.pin == i.val) = some x) {down : Nat}
    (hdown : dacEdge (2 * (toutStart x + (getN h.tim.toutNext i 0 - 1) * x.periodNs) + if x.mode = 0 then 200000 else Nat.min x.periodNs 200000) = down)
    (hlevel : getN h.tim.toutLevel i false = true) (hreached : down < 12 * (h.tim.c + 1)) :
    execToutFall dt i s = .next { s with hw := { h with tim := { h.tim with
      toutAt := updN h.tim.toutAt i fun _ => down, toutLevel := updN h.tim.toutLevel i fun _ => false } } } := by
  refine ok_becomes s dt ?_ hs
  rw [he, ← getN_fin _ i 0, ← getN_fin _ i false, hx]
  dsimp only
  rw [hdown, hlevel, reached, decide_eq_true hreached, Bool.and_true, Hw.whenB_true, Hw.onTim, upd_eq_updN, upd_eq_updN]

/-- An edge less than 100 ns after the latest captured one is missed. -/
theorem exec_tcapEdge_missed {i : Fin 2} {part : Fin 12} (hstep : h.tim.stepped = true)
    (hsoon : getN h.tim.tcapAny i false = true ∧ (12 * h.tim.c + part.val - getN h.tim.tcapC i 0) * 1000 < 1179648) :
    execTcapEdge dt i part s = .next { s with hw := { h with tim := { h.tim with tcapMissed := updN h.tim.tcapMissed i inc } } } := by
  refine ok_becomes s dt ?_ hs
  rw [he, hstep, Hw.whenB_true]
  dsimp only
  rw [← getN_fin h.tim.tcapC i 0, ← getN_fin h.tim.tcapAny i false, hsoon.1, decide_eq_true hsoon.2, ← upd_eq_updN]
  rfl

/-- Any other edge is captured. -/
theorem exec_tcapEdge_captured {i : Fin 2} {part : Fin 12} (hstep : h.tim.stepped = true) {at_ j : Nat} (hat : 12 * h.tim.c + part.val = at_)
    (hj : (getN h.tim.tcapLast i 0 + 1) % 16 = j)
    (hsoon : ¬ (getN h.tim.tcapAny i false = true ∧ (at_ - getN h.tim.tcapC i 0) * 1000 < 1179648)) :
    ∃ t, execTcapEdge dt i part s = .next t ∧ t.pending = s.pending ∧ t.mem = s.mem ∧
      ({ h with tim := { h.tim with
        tcap := updN h.tim.tcap i fun r => updN r j fun _ => (at_ * 100000 + 9) / 18
        tcapLast := updN h.tim.tcapLast i fun _ => j, tcapAny := updN h.tim.tcapAny i fun _ => true
        tcapC := updN h.tim.tcapC i fun _ => at_ } } : Hw).pulsed t.hw (48 + i.val) := by
  refine ok_pulse s dt (g := { h with tim := { h.tim with
        tcap := updN h.tim.tcap i fun r => updN r j fun _ => (at_ * 100000 + 9) / 18
        tcapLast := updN h.tim.tcapLast i fun _ => j, tcapAny := updN h.tim.tcapAny i fun _ => true
        tcapC := updN h.tim.tcapC i fun _ => at_ } }) hs ?_
  have time : todTwelfths at_ = (at_ * 100000 + 9) / 18 := by rw [todTwelfths, Nat.mul_comm]
  have late : (getN h.tim.tcapAny i false && decide ((at_ - getN h.tim.tcapC i 0) * 1000 < 1179648)) = false := by
    rwa [Bool.eq_false_iff, ne_eq, Bool.and_eq_true, decide_eq_true_iff]
  rw [he, hstep, Hw.whenB_true]
  dsimp only
  rw [← getN_fin h.tim.tcapC i 0, ← getN_fin h.tim.tcapAny i false, hat, time, late, if_neg Bool.false_ne_true, Hw.onTim,
    ← getN_fin h.tim.tcapLast i 0, hj, upd_eq_updN,
    upd_eq_updN, upd_eq_updN, upd_eq_updN]

end

/-- Settles O24: a comparator that fires, a pin's edges and a captured time, each as its command's lemma above says. -/
theorem timePins : Obligations.TimePins := by
  refine ⟨fun s dt n hs h5 => ?comparators, fun s dt hs hstep => ?pins⟩
  case comparators =>
    intro h due fired
    have hsh : h.Settled := Hw.elapse_settled _ hs dt
    have due_iff (target : Word) : Hw.cmpDue h.tim.c target = true ↔ due target := by rw [Hw.cmpDue_eq, decide_eq_true_iff]
    have on : h.engOn = true := by
      rw [Hw.engOn, Hw.elapse_sta, decide_eq_true_iff]
      exact h5
    exact ⟨fun target hd => exec_timCmpArm_waits rfl hsh n on (Bool.eq_false_iff.mpr fun hc => hd ((due_iff target).mp hc)),
      fun target hd => exec_timCmpArm_fires rfl hsh n on ((due_iff target).mpr hd),
      fun ha hd => exec_comparatorFire_fires rfl hsh n ha ((due_iff _).mpr hd)⟩
  case pins =>
    intro h
    have hsh : h.Settled := Hw.elapse_settled _ hs dt
    have stepped : h.tim.stepped = true := (s.hw.elapse_grid dt).2.1.trans hstep
    refine ⟨fun i x hx => ⟨fun hup hmode => exec_toutRise_rises rfl hsh hx stepped rfl rfl hup hmode,
      fun hlevel hdown => exec_toutFall_falls rfl hsh hx rfl hlevel hdown⟩, fun i part => ?_⟩
    intro at_ soon j
    have soon_iff : soon ↔ getN h.tim.tcapAny i false = true ∧ (at_ - getN h.tim.tcapC i 0) * 1000 < 1179648 := and_congr_right fun _ => by omega
    exact ⟨fun hsoon => exec_tcapEdge_missed rfl hsh stepped (soon_iff.mp hsoon),
      fun hsoon => exec_tcapEdge_captured rfl hsh stepped rfl rfl fun h => hsoon (soon_iff.mpr h)⟩

end Sys2Proof.Machine
end

section
/-! The single step of time (R260, R266): what work that is cut short leaves of the comparators, and the step where nothing is cut short.
Settles O27 and O28. -/
namespace Sys2Proof.Machine
namespace Hw

/-! ### The comparators

Every lemma continues an equation: the comparators that stood as `a` before an operation stand as `a` after it. -/

/-- The comparators of the paths. -/
def cmps (h : Hw) : Vector Cmp 64 := h.paths.map (·.cmp)

theorem path_cmp (h : Hw) (n : PathId) : (h.path n).cmp = getN h.cmps n {} := (getN_map (·.cmp) h.paths n.isLt {} {}).symm

section
variable {h : Hw} {a : Vector Cmp 64}

theorem cmps_of_paths {g : Hw} (e : h.cmps = a) (hp : g.paths = h.paths) : g.cmps = a := by rw [cmps, hp]; exact e

theorem onPaths_cmps {f : Nat → Path → Path} (e : h.cmps = a) (hf : ∀ n p, (f n p).cmp = p.cmp) : (h.onPaths f).cmps = a :=
  (map_vmapi _ _ _ hf).trans e

theorem onPath_cmps {n : Nat} {f : Path → Path} (e : h.cmps = a) (hf : ∀ p, (f p).cmp = p.cmp) : (h.onPath n f).cmps = a :=
  (map_updN _ _ _ _ hf).trans e

theorem whenB_cmps {c : Bool} {f : Hw → Hw} (hf : (f h).cmps = h.cmps) (e : h.cmps = a) : (h.whenB c f).cmps = a :=
  (whenB_keep cmps h c f hf).trans e

theorem each_cmps {α : Type} {l : List α} {f : Hw → α → Hw} (hf : ∀ h x, (f h x).cmps = h.cmps) (e : h.cmps = a) : (h.each l f).cmps = a :=
  (each_keep cmps f hf l h).trans e

theorem trace_cmps {p : Pkt} (e : h.cmps = a) : (h.trace p).cmps = a := cmps_of_paths e (by rw [trace_eq])

theorem noteWord_cmps {w : Nat} {ue : Bool} (e : h.cmps = a) : (h.noteWord w ue).cmps = a := by
  unfold noteWord
  split
  · exact e
  · split
    · exact whenB_cmps rfl e
    · exact e

theorem noteRead_cmps {m : Mem} {b n : Nat} (e : h.cmps = a) : (h.noteRead m b n).cmps = a :=
  each_cmps (fun h w => by
    split
    · exact noteWord_cmps rfl
    · rfl) e

theorem pulse_cmps {line : Nat} (e : h.cmps = a) : (h.pulse line).cmps = a := cmps_of_paths e (by rw [(h.pulse_pulsed line).1])

theorem dropJob_cmps {t : Nat} {j : Job} (e : h.cmps = a) : (h.dropJob t j).cmps = a := by
  refine whenB_cmps (each_cmps (fun _ _ => rfl) rfl) ?_
  have ends (h : Hw) : (h.quantumEnds t j false).cmps = h.cmps := by rw [quantumEnds_eq]; rfl
  exact (ends _).trans (whenB_cmps (onPaths_cmps rfl fun _ p => rfl) e)

theorem loadReturn_cmps {m : Mem} {t : EngId} (e : h.cmps = a) : (loadReturn h m t).cmps = a := by
  unfold loadReturn loadValue
  split
  · exact e
  · dsimp only
    split
    · exact e
    · exact whenB_cmps (onPath_cmps rfl fun _ => rfl) e
    · exact e
    · exact whenB_cmps rfl (noteRead_cmps e)

theorem abandonAt_cmps {m : Mem} {t : EngId} (e : h.cmps = a) : (abandonAt h m t).cmps = a := by
  refine each_cmps (fun _ _ => dropJob_cmps rfl) ?_
  split
  · refine whenB_cmps (trace_cmps rfl) (dropJob_cmps ?_)
    exact each_cmps (fun _ _ => loadReturn_cmps rfl) e
  · exact e

theorem dmaFail_cmps {c : Nat} {x : Nat × Nat} (e : h.cmps = a) : (h.dmaFail c x).cmps = a := by
  unfold dmaFail dmaSettle
  dsimp only
  split
  · split
    · exact pulse_cmps e
    · exact e
  · exact e

theorem dmaExpire_cmps {m : Mem} {c : Nat} (e : h.cmps = a) : (dmaExpire m h c).cmps = a := by
  unfold dmaExpire
  exact whenB_cmps (f := fun h => h.dmaFail c _) (dmaFail_cmps rfl) e

end

/-! ### The step -/

theorem toTick_elapse_zero (h : Hw) : (h.elapse 0).toTick = h.toTick := rfl

/-- The registers as the step finds them: work that the closing tick cuts short is abandoned. -/
def beforeStep (h : Hw) (m : Mem) : Hw := ((h.toTick).each (List.finRange 16) fun h t => abandonAt h m t).each (List.range 32) (dmaExpire m)

theorem beforeStep_cmps (h : Hw) (m : Mem) : (h.beforeStep m).cmps = h.cmps :=
  each_cmps (fun _ _ => dmaExpire_cmps rfl) (each_cmps (fun _ _ => abandonAt_cmps rfl) (cmps_of_paths rfl (elapse_paths ..)))

/-- An engine without a quantum loses nothing. -/
theorem abandonAt_idle (h : Hw) (m : Mem) {t : EngId} (hj : (h.eng t).job = none) (hq : (h.eng t).jobs = []) : abandonAt h m t = h := by
  have same : (updN h.tor t fun e => { e with jobs := [] }) = h.tor := by
    rw [updN_congr (g := fun e => e) {} (congrArg (fun l => { h.eng t with jobs := l }) hq.symm), updN_id]
  unfold abandonAt
  dsimp only
  rw [hj, hq, each_nil, onTor, same]

/-- A channel that does not run loses nothing. -/
theorem dmaExpire_idle (h : Hw) (m : Mem) {c : Nat} (hc : (h.ch c).state ≠ 1) : dmaExpire m h c = h := by
  unfold dmaExpire
  extract_lets d a
  rw [beq_false_of_ne hc]
  rfl

/-- Where nothing is held and nothing runs, only the time goes on to the tick. -/
theorem beforeStep_idle (h : Hw) (m : Mem) (ht : ∀ t : EngId, (h.eng t).job = none ∧ (h.eng t).jobs = []) (hc : ∀ c : ChId, (h.ch c).state ≠ 1) :
    h.beforeStep m = h.toTick := by
  have eng (t : EngId) : h.toTick.eng t = h.eng t := congrArg (getN · t.val ({} : Tor)) (elapse_tor ..)
  have ch (c : Nat) : h.toTick.ch c = h.ch c := congrArg (getN · c ({} : Dma)) (elapse_dma ..)
  unfold beforeStep
  rw [each_still _ (List.finRange 16) _ fun t _ => abandonAt_idle _ m (by rw [eng]; exact (ht t).1) (by rw [eng]; exact (ht t).2)]
  exact each_still _ _ _ fun c hr => dmaExpire_idle _ m (by rw [ch]; exact hc ⟨c, List.mem_range.mp hr⟩)

/-- A comparator as the step leaves it. -/
def clearedCmp (c : Cmp) : Cmp := if c.armed then { c with armed := false, clearedByStep := true } else c

/-- Pins take their next edges after a time of day, one record after the other. -/
def toutsFrom (u : Nat) (l : List Tout) (t : Tim) : Tim :=
  l.foldl (fun t x => { t with
    toutNext := updN t.toutNext x.pin fun _ => (toutFirst x u).1, toutMissed := updN t.toutMissed x.pin fun _ => (toutFirst x u).2 }) t

theorem toutsFrom_eq (u : Nat) (l : List Tout) (t : Tim) :
    toutsFrom u l t = { t with toutNext := (toutsFrom u l t).toutNext, toutMissed := (toutsFrom u l t).toutMissed } := by
  induction l generalizing t with
  | nil => rfl
  | cons x r ih => exact ih _

theorem each_onTim {α : Type} (h : Hw) (l : List α) (f : α → Tim → Tim) :
    (h.each l fun h x => h.onTim (f x)) = h.onTim fun t => l.foldl (fun t x => f x t) t := by
  induction l generalizing h with
  | nil => rfl
  | cons x r ih => exact ih _

/-- The cc that the step subtracts from C. -/
def stepCc (t : Tim) : Int := cround (t.stepTheta.num * 98304) (t.stepTheta.den * 100000)
/-- C after the step. -/
def stepC (t : Tim) : Nat := ((t.c : Int) - stepCc t).toNat
/-- The step in ns. -/
def stepNs (t : Tim) : Rat := (stepCc t : Rat) * 100000 / 98304
/-- The time state after the step, `first` the first tick of the new grid. -/
def stepTim (t : Tim) (first : Nat) : Tim :=
  let u : Int := (todUnits (stepC t) : Int) - todUnits t.c
  let mv := fun (x : SyncRec) => { x with t2 := x.t2 + u }
  { t with
    c := stepC t, open_ := false, k := first - 1, stepped := true, stepSize := showRat (stepNs t), stepTick := low32 first, state := 3
    theta := t.theta - stepNs t, offsets := t.offsets.map (· - stepNs t), waiting := t.waiting.map mv, latest := t.latest.map mv
    reqSync := t.reqSync.map mv, delayReq := t.delayReq.map fun x => (x.1, x.2 + u), exchange := t.exchange.map fun x => (mv x.1, x.2 - u) }
/-- The registers after the step, the alarm aside. -/
def stepped (h : Hw) : Hw :=
  { h with
    tim := toutsFrom (todUnits (stepC h.tim)) h.image.touts (stepTim h.tim (firstTick h.scs (stepC h.tim)))
    paths := h.clearCmps.paths, trl := { h.trl with tripHot := h.trl.tripHot || h.trl.trip } }

theorem applyStep_eq (h : Hw) : h.applyStep = h.stepped.alarm 0x0207 (clampZ (-32768) 32767 (showRat (stepNs h.tim / 1000)))
    (low32 (firstTick h.scs (stepC h.tim))) := by
  unfold applyStep
  extract_lets theta n c ns u h1 first mv h2 h3 h4
  have touts : h4 = h.stepped := each_onTim _ _ fun x t => { t with
    toutNext := updN t.toutNext x.pin fun _ => (toutFirst x (todUnits c)).1, toutMissed := updN t.toutMissed x.pin fun _ => (toutFirst x (todUnits c)).2 }
  rw [touts]
  rfl

theorem applyStep_paths (h : Hw) : h.applyStep.paths = h.clearCmps.paths := by rw [applyStep_eq]; rfl

theorem applyStep_cmp (h : Hw) (n : PathId) : (h.applyStep.path n).cmp = clearedCmp (h.path n).cmp := by
  have cleared : h.applyStep.path n = if (h.path n).cmp.armed then
      { h.path n with cmp := { (h.path n).cmp with armed := false, clearedByStep := true } } else h.path n :=
    (congrArg (getN · n.val ({} : Path)) h.applyStep_paths).trans (getN_vmapi _ _ _ n.isLt)
  rw [cleared, clearedCmp]
  split <;> rfl

end Hw

theorem execTimeStep_eq {s : State} (h6 : s.hw.sta.stage = 6) (ha : s.hw.tim.acquired = true) (hs : s.hw.tim.stepped = false)
    (ho : s.hw.tim.open_ = true) : execTimeStep s = .next { s with hw := (s.hw.beforeStep s.mem).applyStep.settle } := by
  have due : ((s.hw.elapse 0).sta.stage == 6 && (s.hw.elapse 0).tim.acquired && !(s.hw.elapse 0).tim.stepped && (s.hw.elapse 0).tim.open_) = true := by
    show (s.hw.sta.stage == 6 && s.hw.tim.acquired && !s.hw.tim.stepped && s.hw.tim.open_) = true
    rw [h6, ha, hs, ho]
    rfl
  unfold execTimeStep Hw.beforeStep
  rw [ok_eq, due, Hw.whenB_true, Hw.toTick_elapse_zero]

/-- Settles O27: whatever the closing tick cuts short, it leaves the comparators. -/
theorem stepClearsComparators : Obligations.StepClearsComparators := by
  intro s hs h6 ha hstep ho
  refine ⟨_, execTimeStep_eq h6 ha hstep ho, fun n => ?_⟩
  have paths : ((s.hw.beforeStep s.mem).applyStep.settle.path n).cmp = ((s.hw.beforeStep s.mem).applyStep.path n).cmp := by
    rw [Hw.path, Hw.settle_paths]
    rfl
  rw [paths, Hw.applyStep_cmp, Hw.path_cmp, Hw.beforeStep_cmps, ← Hw.path_cmp]
  rfl

/-- The time that passes moves C and the span of a holdover. -/
theorem Hw.elapse_tim_eq (h : Hw) (d : Nat) :
    (h.elapse d).tim = { h.tim with c := (h.elapse d).tim.c, holdoverS := (h.elapse d).tim.holdoverS } := by
  by_cases hd : d = 0
  · subst hd
    rfl
  · rw [elapse_tim h hd, elapsed]
    dsimp only
    split <;> rfl

theorem low32_low32 (x : Nat) : low32 (low32 x) = low32 x := Nat.mod_mod ..

/-- The step of settled registers, its alarm told. -/
theorem Hw.applyStep_told (g : Hw) (hg : g.Settled) : g.applyStep.settle = g.stepped.told g.applyStep.settle ∧
    (g.applyStep.settle.lko.log.head?.map fun e => (e.code, e.extra, e.cease)) = some (0x0207, low32 (firstTick g.scs (stepC g.tim)), false) := by
  have hs : g.stepped.Settled := hg
  have event : ¬ (isState 0x0207 = true ∧
      (0x0207, clampZ (-32768) 32767 (showRat (stepNs g.tim / 1000))) ∈ g.stepped.lko.raised) := fun h => absurd h.1 (by decide)
  rw [applyStep_eq]
  refine ⟨(alarm_settle g.stepped _ _ _ hs.1 rfl).1, ?_⟩
  rw [alarm_settle_lko hs event]
  show some (0x0207, low32 (low32 _), false) = _
  rw [low32_low32]

section
variable {h : Hw} (h4 : 4 ≤ h.sta.stage) (ho : h.tim.open_ = true) (hs : h.tim.stepped = false)
include h4 ho hs

/-- On the old grid the next tick is the open window's next one. -/
theorem Hw.toTick_old_c : h.toTick.tim.c = max h.tim.c (h.tim.gridBase + gridC h.scs (h.tim.k + 1)) := by
  rw [toTick_c h h4, nextTick, if_pos ho, tickAt, hs]
  rfl

omit h4 in
theorem Hw.toTick_old : h.toTick = h.elapse (max h.tim.c (h.tim.gridBase + gridC h.scs (h.tim.k + 1)) - h.tim.c) := by
  have tick : h.tickAt h.nextTick = h.tim.gridBase + gridC h.scs (h.tim.k + 1) := by
    rw [nextTick, if_pos ho, tickAt, hs]
    rfl
  have span : h.tickAt h.nextTick - h.tim.c = max h.tim.c (h.tim.gridBase + gridC h.scs (h.tim.k + 1)) - h.tim.c := by
    rw [tick]
    omega
  exact congrArg h.elapse span

theorem Hw.toTick_old_tim : h.toTick.tim =
    { h.tim with c := max h.tim.c (h.tim.gridBase + gridC h.scs (h.tim.k + 1)), holdoverS := h.toTick.tim.holdoverS } := by
  rw [← toTick_old_c h4 ho hs]
  exact elapse_tim_eq ..

end

/-- The time state after the step, from that before it. -/
theorem Hw.stepped_tim (g : Hw) : g.stepped.tim = { stepTim g.tim (firstTick g.scs (stepC g.tim)) with
    toutNext := g.stepped.tim.toutNext, toutMissed := g.stepped.tim.toutMissed } := toutsFrom_eq ..

/-- Settles O28: the step with its alarm told, from the registers at the tick. -/
theorem timeStep : Obligations.TimeStep := by
  intro s hs h6 ha hstep ho ht hc h cTick n c ns
  have h4 : 4 ≤ s.hw.sta.stage := by omega
  have run := execTimeStep_eq h6 ha hstep ho
  rw [Hw.beforeStep_idle _ _ ht hc] at run
  obtain ⟨told, entry⟩ := h.toTick.applyStep_told (Hw.elapse_settled _ hs _)
  have after : h.toTick.applyStep.settle.tim = h.toTick.stepped.tim := by
    rw [Hw.settle_tim, Hw.applyStep_eq]
    rfl
  have paths : h.toTick.applyStep.settle.paths = h.toTick.stepped.paths := by
    rw [Hw.settle_paths, Hw.applyStep_eq]
    rfl
  have span : h.toTick = h.elapse (cTick - h.tim.c) := Hw.toTick_old ho hstep
  have trl : h.toTick.trl = h.trl := Hw.elapse_trl ..
  have scs : h.toTick.scs = h.scs := congrArg (fun i : Img => (i.loaded.getD {}).refScs) (Hw.elapse_img ..)
  have tim : h.toTick.tim = { h.tim with c := cTick, holdoverS := h.toTick.tim.holdoverS } := Hw.toTick_old_tim h4 ho hstep
  have stepC : Hw.stepC h.toTick.tim = c := by
    rw [tim]
    rfl
  have stepNs : Hw.stepNs h.toTick.tim = ns := by
    rw [tim]
    rfl
  have stepped := h.toTick.stepped_tim
  rw [stepC, scs, ← after] at stepped
  rw [stepC, scs] at entry
  refine ⟨_, run, rfl, rfl, told.trans (congrArg (Hw.told · _) ?_), ?_⟩
  · rw [after, paths, ← span, ← trl]
    rfl
  · have theta : h.toTick.tim.theta - Hw.stepNs h.toTick.tim = h.tim.theta - ns := by rw [stepNs, tim]
    have rate : h.toTick.tim.y = h.tim.y ∧ h.toTick.tim.r = h.tim.r := ⟨by rw [tim], by rw [tim]⟩
    have size (hden : ns.den = 1) : showRat (Hw.stepNs h.toTick.tim) = ns.num := by rw [stepNs, showRat, if_pos hden]
    exact ⟨(congrArg Tim.c stepped).trans stepC, congrArg Tim.open_ stepped, congrArg Tim.stepped stepped, congrArg Tim.state stepped,
      congrArg Tim.k stepped, congrArg Tim.stepTick stepped, (congrArg Tim.theta stepped).trans theta,
      (congrArg Tim.y stepped).trans rate.1, (congrArg Tim.r stepped).trans rate.2,
      fun hden => (congrArg Tim.stepSize stepped).trans (size hden), entry⟩

end Sys2Proof.Machine
end

section
/-! The transparent clock (R272, R273, R283). Settles O23. -/
namespace Sys2Proof.Machine
/-- A frame of the clock waits among those that port A passes on, where it leaves there. -/
theorem Egress.put_ptpForward (e : Egress) (p : Nat) (cf : Int) :
    e.put (.ptpForward p cf) = if p = 0 then { e with fwd := e.fwd ++ [.ptpForward p cf] } else e := by
  by_cases hp : p = 0 <;> simp [put, TxFrame.port, TxFrame.passed, hp]

namespace Hw

/-- A frame that the transparent clock does not pass on. -/
theorem tcForward_off (h : Hw) (m : PtpHdr) (event : Bool) (ht : h.tcActive = false ∨ m.tagged = true) : h.tcForward m event = h := by
  unfold tcForward
  rcases ht with ht | ht <;> simp [ht]

/-- An event frame passed on with its residence time from pins to pins. -/
theorem tcForward_event (h : Hw) (m : PtpHdr) (ht : h.tcActive = true) (hm : m.tagged = false) {sum cf : Int}
    (hsum : m.correction + (todUnits (m.residence + h.ingressCc m.port + h.egressCc (1 - m.port.val)) + 32768 * (h.lane m.lane).deskew) = sum)
    (hcf : (if sum < -(2 ^ 63) ∨ 2 ^ 63 - 1 < sum then 2 ^ 63 - 1 else sum) = cf) :
    h.tcForward m true = (h.send (.ptpForward (1 - m.port.val) cf)).onTim fun t =>
      if m.port = 0 then { t with tcA2b := inc48 t.tcA2b } else { t with tcB2a := inc48 t.tcB2a } := by
  subst hcf hsum
  unfold tcForward
  rw [ht, hm]
  rfl

end Hw
/-- A frame of the clock sent by a port. -/
theorem Hw.send_ptpForward (h : Hw) (p : PortId) (cf : Int) : h.send (.ptpForward (1 - p.val) cf) = { h with out := { h.out with
    tx := h.out.tx ++ [.ptpForward (1 - p.val) cf]
    portA := if p = 1 then { h.out.portA with fwd := h.out.portA.fwd ++ [.ptpForward 0 cf] } else h.out.portA } } := by
  unfold Hw.send
  rw [Egress.put_ptpForward]
  match p with
  | 0 => rfl
  | 1 => rfl

/-- A Delay_Req of another clock is counted, and the clock may pass it on. -/
theorem exec_ptpDelayReqRx_heard {s : State} {dt : Nat} {m : PtpHdr} {h g : Hw} (he : s.hw.elapse dt = h) (hl : (h.port m.port).linkUp = true)
    (e : (h.ptpIgnore m.port).tcForward m true = g) (hg : g.Settled) : execPtpDelayReqRx dt m s = .next { s with hw := g } := by
  have heard : h.heard m.port = true := hl
  refine ok_becomes s dt ?_ hg
  rw [he, heard]
  exact e

/-- An event frame that the clock passes on, with what it counts. -/
theorem Hw.tcForward_eq (h : Hw) (m : PtpHdr) (ht : h.tcActive = true) (hm : m.tagged = false) {sum cf : Int}
    (hsum : m.correction + (todUnits (m.residence + h.ingressCc m.port + h.egressCc (1 - m.port.val)) + 32768 * (h.lane m.lane).deskew) = sum)
    (hcf : (if sum < -(2 ^ 63) ∨ 2 ^ 63 - 1 < sum then 2 ^ 63 - 1 else sum) = cf) : h.tcForward m true = { h with
      tim := { h.tim with
        tcA2b := if m.port = 0 then inc48 h.tim.tcA2b else h.tim.tcA2b, tcB2a := if m.port = 0 then h.tim.tcB2a else inc48 h.tim.tcB2a }
      out := { h.out with
        tx := h.out.tx ++ [.ptpForward (1 - m.port.val) cf]
        portA := if m.port = 1 then { h.out.portA with fwd := h.out.portA.fwd ++ [.ptpForward 0 cf] } else h.out.portA } } := by
  rw [tcForward_event h m ht hm hsum hcf, send_ptpForward, onTim]
  by_cases hp : m.port = 0
  · rw [if_pos hp, if_pos hp, if_pos hp]
  · rw [if_neg hp, if_neg hp, if_neg hp]

/-- Settles O23: the frame is ignored by the slave, and passed on where the clock is active. -/
theorem transparentClock : Obligations.TransparentClock := by
  intro s dt m hs h fec time sum cf ignored hlink
  have hsh : h.Settled := Hw.elapse_settled _ hs dt
  exact ⟨fun ht => exec_ptpDelayReqRx_heard rfl hlink (Hw.tcForward_off _ m true ht) hsh,
    fun ht hm => exec_ptpDelayReqRx_heard rfl hlink (Hw.tcForward_eq (h.ptpIgnore m.port) m ht hm rfl rfl) hsh⟩

end Sys2Proof.Machine
end

section
/-! What HC0 leaves of the state alarms that stand (R398), and the masters of the local slave: Announce, the delay exchange and the loss of the
selected one (R262 to R264, R269). Settles O21. -/
namespace Sys2Proof.Machine
namespace Hw

/-! ### The state alarms that stand -/

/-- The state alarms that stand after a happening. -/
def raisedAfter (r : List (Nat × Int)) (x : Happening) : List (Nat × Int) :=
  if isState x.code then
    if x.cease then r.erase (x.code, x.arg) else if r.contains (x.code, x.arg) then r else r ++ [(x.code, x.arg)]
  else r

theorem take1_raised (h : Hw) (x : Happening) : (h.take1 x).lko.raised = raisedAfter h.lko.raised x := by
  by_cases hd : h.passesOver x = true
  · rw [take1_passed h x hd, raisedAfter]
    simp only [passesOver, Bool.and_eq_true] at hd
    rw [if_pos hd.1]
    have dup := hd.2
    split
    · rename_i hc
      rw [if_pos hc] at dup
      exact (List.erase_of_not_mem (by simpa using dup)).symm
    · rename_i hc
      rw [if_neg hc] at dup
      rw [if_pos dup]
  · rw [take1_lko h x (Bool.eq_false_iff.mpr hd), raisedAfter]
    by_cases hs : isState x.code = true
    · rw [if_pos hs, if_pos hs]
      have dup := Bool.eq_false_iff.mpr hd
      rw [passesOver, hs, Bool.true_and] at dup
      by_cases hc : x.cease = true
      · simp only [if_pos hc]
      · rw [if_neg hc] at dup
        simp only [if_neg hc, dup]
        rfl
    · rw [if_neg hs, if_neg hs]
      split <;> rfl

theorem each_take1_raised (h : Hw) (l : List Happening) : (h.each l take1).lko.raised = l.foldl raisedAfter h.lko.raised := by
  induction l generalizing h with
  | nil => rfl
  | cons x r ih => rw [each_cons, ih, take1_raised, List.foldl_cons]

theorem settle_raised (h : Hw) : h.settle.lko.raised = (sortBy order h.lko.pend).foldl raisedAfter h.lko.raised :=
  each_take1_raised { h with lko := { h.lko with pend := [] } } _

/-- Ends of state alarms take away what they name. -/
theorem foldl_raisedAfter_cease (l : List Happening) (r : List (Nat × Int)) (hl : ∀ x ∈ l, isState x.code = true ∧ x.cease = true) :
    l.foldl raisedAfter r = r.diff (l.map fun x => (x.code, x.arg)) := by
  induction l generalizing r with
  | nil => rfl
  | cons x l ih =>
    obtain ⟨hs, hc⟩ := hl x (List.mem_cons_self ..)
    rw [List.foldl_cons, ih _ fun y hy => hl y (List.mem_cons_of_mem _ hy), raisedAfter, if_pos hs, if_pos hc, List.map_cons, List.diff_cons]

/-- The ends of every alarm of a code wait. -/
theorem ceaseAll_eq (h : Hw) (c : Nat) : h.ceaseAll c = { h with lko := { h.lko with
    pend := h.lko.pend ++ (h.lko.raised.filter fun k => k.1 == c).map fun k => h.seen { code := c, arg := k.2, cease := true } } } := by
  unfold ceaseAll
  generalize h.lko.raised.filter (fun k => k.1 == c) = l
  induction l generalizing h with
  | nil => simp
  | cons k r ih =>
    rw [each_cons, ih, List.map_cons, List.append_cons]
    rfl

section
variable {α : Type} [BEq α] [LawfulBEq α]

theorem count_diff (x : α) (l d : List α) : (l.diff d).count x = l.count x - d.count x := by
  induction d generalizing l with
  | nil => rw [List.diff_nil, List.count_nil, Nat.sub_zero]
  | cons y r ih => rw [List.diff_cons, ih, List.count_erase, List.count_cons, Nat.sub_sub, Nat.add_comm]

/-- A list without every copy of what a test finds in it. -/
theorem mem_diff_filter {l d : List α} {p : α → Bool} (hd : d.Perm (l.filter p)) {x : α} (hx : x ∈ l.diff d) : p x = false := by
  by_contra hp
  have count := count_diff x l d
  rw [hd.count_eq, List.count_filter (by simpa using hp), Nat.sub_self] at count
  exact List.count_eq_zero.mp count hx

end

/-- After them none stands. -/
theorem ceaseAll_settle_raised {h g : Hw} {c : Nat} (hp : h.lko.pend = []) (hc : isState c = true) (hg : g.lko = (h.ceaseAll c).lko) :
    ∀ x ∈ g.settle.lko.raised, x.1 ≠ c := by
  have pend : g.lko.pend = (h.lko.raised.filter fun k => k.1 == c).map fun k => h.seen { code := c, arg := k.2, cease := true } := by
    rw [hg, ceaseAll_eq, hp]
    rfl
  have raised : g.lko.raised = h.lko.raised := by
    rw [hg, ceaseAll_eq]
  have perm := sortBy_perm order g.lko.pend
  have ends : ∀ x ∈ sortBy order g.lko.pend, isState x.code = true ∧ x.cease = true := by
    intro x hx
    have hx := perm.mem_iff.mp hx
    rw [pend] at hx
    obtain ⟨k, -, rfl⟩ := List.mem_map.mp hx
    exact ⟨hc, rfl⟩
  have keys : ((sortBy order g.lko.pend).map fun x => (x.code, x.arg)).Perm (h.lko.raised.filter fun k => k.1 == c) := by
    refine (perm.map _).trans (List.Perm.of_eq ?_)
    rw [pend, List.map_map]
    refine (List.map_congr_left fun k hk => ?_).trans (List.map_id _)
    have hk : k.1 = c := by simpa using (List.mem_filter.mp hk).2
    exact Prod.ext hk.symm rfl
  intro x hx hxc
  rw [settle_raised, foldl_raisedAfter_cease _ _ ends, raised] at hx
  simpa [hxc] using mem_diff_filter keys hx

/-! ### Frames of the slave -/

/-- A frame on port A that the local slave may use (R262). -/
structure Usable (h : Hw) (m : PtpHdr) : Prop where
  heard : h.heard m.port = true
  usable : h.ptpUsable m = true

theorem Usable.of {h : Hw} {m : PtpHdr} (hp : m.port = 0) (hl : (h.port 0).linkUp = true) (ht : m.tagged = false)
    (hd : m.dst = 0x011B19000000 ∨ m.dst = 0x0180C200000E) (hv : m.version = 2) (hi : m.sdoId = 0) (hn : m.domain = h.image.pkg.ptpDomain) :
    h.Usable m where
  heard := by
    show (h.port m.port).linkUp = true
    rw [hp]
    exact hl
  usable := by
    have dst : (m.dst == 0x011B19000000 || m.dst == 0x0180C200000E) = true := by simpa using hd
    rw [ptpUsable, dst, hp, ht, hv, hi, hn]
    simp

/-- What the slave makes of a frame that it may use, where the clock passes none on. -/
theorem ptpFrame_used {h g : Hw} {m : PtpHdr} {event : Bool} {f : Hw → Hw} (hu : h.Usable m) (hf : f h = g) (hg : g.tcActive = false) :
    h.ptpFrame m event f = g := by
  rw [ptpFrame, hu.heard, whenB_true, hu.usable, if_pos rfl, hf, tcForward_off g m event (.inl hg)]

end Hw

/-- A frame of the slave that raises nothing. -/
theorem ok_ptpFrame {s : State} {dt : Nat} {h g : Hw} (he : s.hw.elapse dt = h) {m : PtpHdr} (hu : h.Usable m) (event : Bool) {f : Hw → Hw}
    (hf : f h = g) (htc : g.tcActive = false) (hg : g.Settled) : (ok s dt fun h => h.ptpFrame m event f) = .next { s with hw := g } :=
  ok_becomes s dt (by rw [he]; exact Hw.ptpFrame_used hu hf htc) hg

namespace Hw

/-! ### Announce -/

/-- What an Announce leaves of the masters: the latest two instants at which its sender was heard. -/
def heardNow (h : Hw) (m : PtpHdr) : List Nat :=
  h.up :: (((h.tim.masters.find? fun x => x.source == m.source).map (·.heard)).getD []).take 1
/-- The masters with an Announce. -/
def mastersNow (h : Hw) (m : PtpHdr) (a : AnnounceData) : List Master :=
  (h.tim.masters.filter fun x => x.source != m.source) ++ [{ source := m.source, data := a, heard := h.heardNow m }]
/-- An Announce counted and kept. -/
def announceKept (h : Hw) (m : PtpHdr) (a : AnnounceData) : Tim :=
  { h.tim with announceRx := inc h.tim.announceRx, masters := h.mastersNow m a }
/-- An Announce counted, kept and shown. -/
def announced (h : Hw) (m : PtpHdr) (a : AnnounceData) : Hw :=
  { h with tim := if h.tim.selected = some m.source then { h.announceKept m a with
      lastAnnounce := h.up, clockClass := a.clockClass, stepsRemoved := a.stepsRemoved, utcOffset := a.utcOffset }
    else h.announceKept m a }

/-- The masters among which one is selected. -/
def candidates (h : Hw) : List Master := h.tim.masters.filter fun m => some m.source == h.tim.selected || qualified h.up m

theorem chooseMaster_none {h : Hw} (hc : h.candidates = []) : h.chooseMaster = h := by
  unfold chooseMaster
  dsimp only
  rw [show h.tim.masters.filter (fun m => some m.source == h.tim.selected || qualified h.up m) = [] from hc]

theorem chooseMaster_one {h : Hw} {x : Master} (hc : h.candidates = [x]) :
    h.chooseMaster = if some x.source = h.tim.selected then h else h.selectMaster x := by
  unfold chooseMaster
  dsimp only
  rw [show h.tim.masters.filter (fun m => some m.source == h.tim.selected || qualified h.up m) = [x] from hc]
  rfl

/-- Where no other master is qualified or selected, the sender is the only candidate. -/
theorem announced_candidates {h : Hw} {m : PtpHdr} {a : AnnounceData}
    (ho : ∀ x ∈ h.tim.masters.filter fun x => x.source != m.source, qualified h.up x = false ∧ some x.source ≠ h.tim.selected) {c : Bool}
    (hc : (some m.source == h.tim.selected || qualified h.up { source := m.source, data := a, heard := h.heardNow m }) = c) :
    (h.announced m a).candidates = if c then [{ source := m.source, data := a, heard := h.heardNow m }] else [] := by
  have masters : (h.announced m a).tim.masters = h.mastersNow m a := by
    unfold announced
    dsimp only
    split <;> rfl
  have selected : (h.announced m a).tim.selected = h.tim.selected := by
    unfold announced
    dsimp only
    split <;> rfl
  have none : (h.tim.masters.filter fun x => x.source != m.source).filter (fun x => some x.source == h.tim.selected || qualified h.up x) = [] := by
    refine List.filter_eq_nil_iff.mpr fun x hx => ?_
    obtain ⟨unqualified, other⟩ := ho x hx
    rw [unqualified, beq_false_of_ne other]
    decide
  rw [candidates, masters, selected, mastersNow, List.filter_append]
  show List.filter (fun x => some x.source == h.tim.selected || qualified h.up x) _ ++ _ = _
  rw [none, List.nil_append, List.filter_singleton]
  show (bif (some m.source == h.tim.selected || qualified h.up { source := m.source, data := a, heard := h.heardNow m }) then _ else _) = _
  rw [hc, cond_eq_ite]

/-- The time state with a master selected: the frequency phase begins, or after the step steering. -/
def withMaster (t : Tim) (up : Nat) (m : Master) : Tim :=
  let back := t.state == 4
  let t : Tim := { t with
    selected := some m.source, masterId := m.source / 65536, clockClass := m.data.clockClass, stepsRemoved := m.data.stepsRemoved
    utcOffset := m.data.utcOffset, lastAnnounce := up, lastSync := up, waiting := none, latest := none, delayReq := none
    reqSync := none, reqOpen := false, exchange := none, reqInterval := 61440000, holdFrom := none, state := if t.stepped then 3 else 2, syncDst := none
    recovering := t.stepped && (t.recovering || back), acquired := t.stepped && t.acquired }
  if back || !t.stepped then { t with syncs := [], offsets := [], delays := [], syncCount := 0, delayCount := 0, sinceCompare := 0 } else t

/-- What selecting a master keeps of the time state, and what it shows of the master. -/
theorem withMaster_eq (t : Tim) (up : Nat) (m : Master) : ∃ syncs offsets delays syncCount delayCount sinceCompare,
    withMaster t up m = { t with
      selected := some m.source, masterId := m.source / 65536, clockClass := m.data.clockClass, stepsRemoved := m.data.stepsRemoved
      utcOffset := m.data.utcOffset, lastAnnounce := up, lastSync := up, waiting := none, latest := none, delayReq := none
      reqSync := none, reqOpen := false, exchange := none, reqInterval := 61440000, holdFrom := none, state := if t.stepped then 3 else 2, syncDst := none
      recovering := t.stepped && (t.recovering || t.state == 4), acquired := t.stepped && t.acquired
      syncs := syncs, offsets := offsets, delays := delays, syncCount := syncCount, delayCount := delayCount, sinceCompare := sinceCompare } := by
  unfold withMaster
  extract_lets back t'
  split
  · exact ⟨_, _, _, _, _, _, rfl⟩
  · exact ⟨_, _, _, _, _, _, rfl⟩

/-- The hold of S6 for want of a master ends. -/
def endMasterHold (s : Sta) : Sta := if s.failAlarm = 0x0204 then { s with failed := false, failAlarm := 0 } else s

/-- The first master selected. -/
theorem selectMaster_first {h : Hw} (x : Master) (hn : h.tim.selected = none) : h.selectMaster x = { h with
    tim := withMaster h.tim h.up x, sta := endMasterHold h.sta, lko := (h.ceaseAll 0x0204).lko } := by
  have up : (endMasterHold h.sta).since = h.sta.since := by
    unfold endMasterHold
    split <;> rfl
  have start : h.selectMaster x = { h with
      tim := withMaster h.tim (endMasterHold h.sta).since x, sta := endMasterHold h.sta, lko := (h.ceaseAll 0x0204).lko } := by
    have ended : ∀ g : Hw, g = { h with lko := g.lko } →
        (g.onSta endMasterHold).onTim (fun t => withMaster t (g.onSta endMasterHold).up x) =
          { h with tim := withMaster h.tim (endMasterHold h.sta).since x, sta := endMasterHold h.sta, lko := g.lko } := by
      intro g hg
      rw [hg]
      rfl
    refine Eq.trans ?_ (ended (h.ceaseAll 0x0204) (by rw [ceaseAll_eq]))
    unfold selectMaster
    rw [hn]
    have state : (h.ceaseAll 0x0204).tim.state = h.tim.state := by rw [ceaseAll_eq]
    unfold withMaster onSta onTim
    rw [← state]
    rfl
  rw [start, up]
  rfl

/-! ### The delay exchange -/

theorem pairSync_eq (t : Tim) : pairSync t = (if t.waiting.isSome then t.waiting else t.latest, t.waiting.isSome) := by
  unfold pairSync
  split
  · rename_i hw
    rw [hw]
  · rename_i hw
    rw [Bool.eq_false_iff.mpr hw]

/-- The time state with a delay measured. -/
def withDelay (t : Tim) (d : Rat) : Tim :=
  { t with delays := d :: t.delays, delayCount := t.delayCount + 1, sinceCompare := t.sinceCompare + 1, mpd := meanQ ((d :: t.delays).take 16) }

/-- A delay measured while fewer than 32 are kept, after the frequency phase. -/
theorem takeDelay_eq {h : Hw} (y : SyncRec) (back : Int) (hl : h.tim.delays.length < 31) (ha : h.tim.acquired = true) :
    h.takeDelay y back = { h with tim := withDelay h.tim (((y.t2 - y.t1 - y.cs + back : Int) : Rat) / 131072) } := by
  generalize hd : ((y.t2 - y.t1 - y.cs + back : Int) : Rat) / 131072 = d
  have window : (d :: h.tim.delays).take 32 = d :: h.tim.delays := List.take_of_length_le (by rw [List.length_cons]; omega)
  have compared {g : Hw} (hg : g.tim.delays.length < 32) : delayCompare g = g := by
    unfold delayCompare
    dsimp only
    rw [decide_eq_false (show ¬ g.tim.delays.length = 32 by omega)]
    rfl
  have acquired {g : Hw} (hg : g.tim.acquired = true) : g.acquire = g := by
    unfold acquire
    dsimp only
    rw [hg]
    rfl
  unfold takeDelay
  dsimp only [onTim]
  rw [hd, window, compared (by exact Nat.succ_lt_succ hl), acquired (by exact ha)]
  rfl

/-! ### The rate -/

/-- A rate within ±50 ppm is taken as asked, where none was out of them. -/
theorem setRate_within {h : Hw} {r : Rat} (h1 : r ≤ 50000000) (h2 : -50000000 ≤ r) (hf : h.tim.freqLimit = false) :
    h.setRate r = { h with tim := { h.tim with r := r, freqLimit := false } } := by
  have inside : beyond r 50000000 = false := by
    rw [beyond, decide_eq_false (not_lt.mpr (by exact_mod_cast h1)), decide_eq_false (not_lt.mpr (by exact_mod_cast h2))]
    rfl
  have clamp : clampQ 50000000 r = r := by
    rw [clampQ, if_neg (not_lt.mpr h2), if_neg (not_lt.mpr h1)]
  unfold setRate
  rw [inside, hf, clamp]
  rfl

end Hw

section
variable {s : State} {dt : Nat} {h : Hw} (he : s.hw.elapse dt = h) {m : PtpHdr} (hu : h.Usable m)
include he hu

theorem exec_ptpAnnounce_eq (a : AnnounceData) {g : Hw} (hg : (h.announced m a).chooseMaster = g) (hgc : g.tcActive = false) :
    execPtpAnnounce dt m a s = .next { s with hw := g.settle } := by
  have run : (s.hw.elapse dt).ptpFrame m false (fun h => (h.announced m a).chooseMaster) = g := by
    rw [he]
    exact Hw.ptpFrame_used hu hg hgc
  rw [← run]
  rfl

section
variable {a : AnnounceData} (htc : h.tcActive = false)
  (ho : ∀ x ∈ h.tim.masters.filter fun x => x.source != m.source, qualified h.up x = false ∧ some x.source ≠ h.tim.selected)
include htc ho

/-- An Announce from the selected master. -/
theorem exec_ptpAnnounce_selected (hs : h.Settled) (hsel : h.tim.selected = some m.source) : execPtpAnnounce dt m a s = .next { s with hw := { h with
    tim := { h.announceKept m a with
      lastAnnounce := h.up, clockClass := a.clockClass, stepsRemoved := a.stepsRemoved, utcOffset := a.utcOffset } } } := by
  have cands := Hw.announced_candidates (a := a) ho (c := true) (by rw [hsel]; simp)
  have announced : h.announced m a = { h with tim := { h.announceKept m a with
      lastAnnounce := h.up, clockClass := a.clockClass, stepsRemoved := a.stepsRemoved, utcOffset := a.utcOffset } } := by
    rw [Hw.announced, if_pos hsel]
  have chosen : (h.announced m a).chooseMaster = h.announced m a := by
    refine (Hw.chooseMaster_one cands).trans (if_pos ?_)
    rw [announced]
    exact hsel.symm
  rw [exec_ptpAnnounce_eq he hu a (chosen.trans announced) (by exact htc), Hw.settle_of_settled _ (by exact hs)]

/-- A first Announce, where none is selected. -/
theorem exec_ptpAnnounce_first (hs : h.Settled) (hsel : h.tim.selected = none) (hold : (h.tim.masters.find? fun x => x.source == m.source) = none) :
    execPtpAnnounce dt m a s = .next { s with hw := { h with tim := h.announceKept m a } } := by
  have cands := Hw.announced_candidates (a := a) ho (c := false) (by rw [hsel, Hw.heardNow, hold]; rfl)
  have announced : h.announced m a = { h with tim := h.announceKept m a } := by
    rw [Hw.announced, hsel]
    rfl
  rw [exec_ptpAnnounce_eq he hu a ((Hw.chooseMaster_none cands).trans announced) (by exact htc), Hw.settle_of_settled _ (by exact hs)]

/-- A second Announce within four intervals, where none is selected. -/
theorem exec_ptpAnnounce_qualifies (hsel : h.tim.selected = none) {o : Master} {b : Nat} {r : List Nat}
    (hold : (h.tim.masters.find? fun x => x.source == m.source) = some o) (hh : o.heard = b :: r) (hb : h.up ≤ b + 4 * a.interval) :
    execPtpAnnounce dt m a s = .next { s with hw := ({ h with
      tim := Hw.withMaster (h.announceKept m a) h.up { source := m.source, data := a, heard := h.heardNow m }
      sta := Hw.endMasterHold h.sta, lko := (h.ceaseAll 0x0204).lko } : Hw).settle } := by
  have heard : h.heardNow m = [h.up, b] := by
    rw [Hw.heardNow, hold]
    show h.up :: List.take 1 o.heard = _
    rw [hh]
    rfl
  have qual : qualified h.up { source := m.source, data := a, heard := h.heardNow m } = true := by
    rw [heard, qualified]
    simpa using hb
  have cands := Hw.announced_candidates (a := a) ho (c := true) (by rw [qual, Bool.or_true])
  have announced : h.announced m a = { h with tim := h.announceKept m a } := by
    rw [Hw.announced, hsel]
    rfl
  have none : ¬ (some m.source = (h.announced m a).tim.selected) := by
    rw [announced]
    show ¬ (some m.source = h.tim.selected)
    rw [hsel]
    exact nofun
  have selected : (h.announced m a).selectMaster { source := m.source, data := a, heard := h.heardNow m } = { h with
      tim := Hw.withMaster (h.announceKept m a) h.up { source := m.source, data := a, heard := h.heardNow m }
      sta := Hw.endMasterHold h.sta, lko := (h.ceaseAll 0x0204).lko } := by
    rw [announced, Hw.selectMaster_first _ (by exact hsel), Hw.ceaseAll_eq, Hw.ceaseAll_eq]
    rfl
  exact exec_ptpAnnounce_eq he hu a ((Hw.chooseMaster_one cands).trans ((if_neg none).trans selected)) (by rw [Hw.ceaseAll_eq]; exact htc)

end

/-! ### The delay exchange -/

omit hu in
/-- A Delay_Req to the address of the selected master's Syncs. -/
theorem exec_delayReqSend_due (hs : h.Settled) {dst : Nat} (hsel : h.tim.selected.isSome = true) (hd : h.tim.syncDst = some dst)
    (ht : h.tim.reqAt + h.tim.reqInterval ≤ h.up) {t3 : Int} (h3 : (h.now : Int) + todUnits (h.egressCc 0) = t3) :
    execDelayReqSend dt s = .next { s with hw := { h with
      tim := { h.tim with
        delayReq := some (h.tim.reqSeq, t3), reqAt := h.up
        reqSync := if h.tim.waiting.isSome then h.tim.waiting else h.tim.latest, reqOpen := h.tim.waiting.isSome
        reqSeq := (h.tim.reqSeq + 1) % 65536, delayReqTx := inc48 h.tim.delayReqTx }
      out := { h.out with
        tx := h.out.tx ++ [.delayReq dst h.tim.reqSeq t3]
        portA := { h.out.portA with own := h.out.portA.own ++ [.delayReq dst h.tim.reqSeq t3] } } } } := by
  have due : (h.tim.selected.isSome && h.tim.syncDst.isSome && decide (h.tim.reqAt + h.tim.reqInterval ≤ h.up)) = true := by
    rw [hsel, hd, decide_eq_true ht]
    rfl
  refine ok_becomes s dt ?_ (by exact hs)
  rw [he, due, Hw.whenB_true]
  dsimp only [Hw.onTim]
  rw [Hw.pairSync_eq, h3, hd]
  rfl

section
variable {requester : Nat} {t3 t4 : Int} {interval : Nat} {y : SyncRec}
  (hsel : h.tim.selected = some m.source) (own : (h.ownMac.any fun mac => requester == clockId mac * 65536 + 1) = true) (hreq : h.tim.delayReq = some (m.seq, t3)) (hsync : h.tim.reqSync = some y)
include hsel own hreq hsync

/-- A Delay_Resp to the own request is taken: `g` is what completing the exchange leaves, or leaving it to the Follow_Up. -/
theorem exec_ptpDelayResp_own {g : Hw} (hg : ∀ g' : Hw, g' = { h with
      tim := { h.tim with delayRespRx := inc48 h.tim.delayRespRx, reqInterval := interval, delayReq := none } } →
      (if g'.tim.reqOpen then g'.onTim fun t => { t with exchange := some (y, t4 - t3 - m.correction), reqOpen := false }
        else g'.takeDelay y (t4 - t3 - m.correction)) = g) (hgc : g.tcActive = false) (hgs : g.Settled) :
    execPtpDelayResp dt m t4 requester interval s = .next { s with hw := g } := by
  refine ok_ptpFrame he hu false ?_ hgc hgs
  dsimp only
  rw [hreq, hsync]
  dsimp only
  rw [own, hsel, beq_self_eq_true, beq_self_eq_true, show (true && true && true) = true from rfl, Hw.whenB_true]
  exact hg _ rfl

end

/-! ### The loss of the master -/

omit hu in
/-- Holdover begins: the master lost is forgotten, and the rate is held at y. -/
theorem exec_masterLoss_due {src : Nat} {x : Master} (hsel : h.tim.selected = some src)
    (hx : h.tim.masters.find? (fun z => some z.source == some src) = some x)
    (hd : h.tim.lastAnnounce + 3 * x.data.interval ≤ h.up ∨ h.tim.lastSync + 983040000 ≤ h.up)
    (hy : h.tim.y ≤ 50000000) (hy' : -50000000 ≤ h.tim.y) (hf : h.tim.freqLimit = false) :
    execMasterLoss dt s = .next { s with hw := (({ h with tim := { h.tim with
      masters := h.tim.masters.filter fun z => some z.source != some src
      selected := none, state := 4, waiting := none, delayReq := none, reqOpen := false, exchange := none, holdFrom := some h.up, holdoverS := 0
      losses := inc h.tim.losses, r := h.tim.y } } : Hw).alarm 0x0204 0).settle } := by
  have due : (h.tim.selected.isSome && (decide (h.tim.lastAnnounce +
      3 * ((h.tim.masters.find? fun m => some m.source == h.tim.selected).map (·.data.interval)).getD 0 ≤ h.up) ||
        decide (h.tim.lastSync + Config.fc ≤ h.up))) = true := by
    rw [hsel, hx, show Config.fc = 983040000 from rfl]
    simpa using hd
  unfold execMasterLoss
  dsimp only
  rw [ok_eq, he, due, Hw.whenB_true, Hw.setRate_within (by exact hy) (by exact hy') (by exact hf)]
  dsimp only [Hw.onTim]
  rw [hsel, ← hf]

end

/-- Settles O21: an Announce refreshes the selected master, is only kept, or qualifies its sender; a Delay_Req leaves; its answer is taken at
once or with the Follow_Up; the loss of the master begins holdover. -/
theorem ptpMaster : Obligations.PtpMaster := by
  refine ⟨?announce, fun s dt hs => ?exchange⟩
  case announce =>
    intro s dt m a hs h up others old heard kept hp hl ht hd hv hi hn htc ho
    have hu : h.Usable m := .of hp hl ht hd hv hi hn
    have settled : h.Settled := Hw.elapse_settled _ hs dt
    refine ⟨exec_ptpAnnounce_selected rfl hu htc ho settled, exec_ptpAnnounce_first rfl hu htc ho settled, ?_⟩
    intro hsel o b r hold hh hb
    obtain ⟨syncs, offsets, delays, syncCount, delayCount, sinceCompare, tim⟩ :=
      Hw.withMaster_eq (h.announceKept m a) h.up { source := m.source, data := a, heard := h.heardNow m }
    refine ⟨_, exec_ptpAnnounce_qualifies rfl hu htc ho hsel hold hh hb, rfl, rfl, ?_, ?_⟩
    · refine (Hw.settle_told { h with tim := Hw.withMaster (h.announceKept m a) h.up _, sta := Hw.endMasterHold h.sta } _ _
        (by rw [Hw.ceaseAll_eq])).trans ?_
      dsimp only
      rw [Hw.settle_tim, tim]
      rfl
    · dsimp only
      rw [Hw.settle_tim, tim]
      exact ⟨rfl, rfl, rfl, rfl, rfl, rfl, rfl, rfl, rfl, rfl, rfl, rfl, rfl, rfl, Hw.ceaseAll_settle_raised settled.1 rfl rfl⟩
  case exchange =>
    intro h
    have settled : h.Settled := Hw.elapse_settled _ hs dt
    refine ⟨fun dst hsel hd ht => exec_delayReqSend_due rfl settled hsel hd ht rfl, ?_, fun src x => exec_masterLoss_due rfl⟩
    intro m t4 interval mac t3 y hp hl ht hd hv hi hn htc hsel hmac hreq hsync hlen hacq ds
    have hu : h.Usable m := .of hp hl ht hd hv hi hn
    have own : (h.ownMac.any fun x => clockId mac * 65536 + 1 == clockId x * 65536 + 1) = true := by
      rw [hmac, Option.any_some, beq_self_eq_true]
    refine ⟨fun ho => exec_ptpDelayResp_own rfl hu hsel own hreq hsync (fun g' e => ?_) htc settled,
      fun ho => exec_ptpDelayResp_own rfl hu hsel own hreq hsync (fun g' e => ?_) htc settled⟩
    · subst e
      exact if_pos ho
    · subst e
      exact (if_neg (Bool.eq_false_iff.mp ho)).trans (Hw.takeDelay_eq _ _ hlen hacq)

end Sys2Proof.Machine
end

section
/-! Sync and Follow_Up (R264), and the servo after the step (R265, R267, R268). Settles O22. -/
namespace Sys2Proof.Machine
namespace Hw

/-! ### An offset taken -/

/-- The latest 16 offsets with that of a Sync. -/
def offsetsWith (t : Tim) (y : SyncRec) : List Rat := ((((y.t2 - y.t1 - y.cs : Int) : Rat) / 65536 - y.d) :: t.offsets).take 16
/-- The time state with the offset of a Sync taken. -/
def withOffset (t : Tim) (y : SyncRec) : Tim :=
  { t with
    syncRx := inc48 t.syncRx, latest := some y, waiting := none, syncs := (y :: t.syncs).take 8, offsets := offsetsWith t y
    syncCount := t.syncCount + 1, theta := meanQ (offsetsWith t y) }

theorem syncUse_eq {h : Hw} (y : SyncRec) (hr : h.tim.recovering = false) : h.syncUse y =
    if h.tim.stepped then (({ h with tim := withOffset h.tim y } : Hw).steer h.tim.syncInterval).judgeOffset
    else ({ h with tim := withOffset h.tim y } : Hw).acquire := by
  have taken : (h.onTim fun t =>
      let o : Rat := ((y.t2 - y.t1 - y.cs : Int) : Rat) / 65536 - y.d
      let os := (o :: t.offsets).take 16
      let n := t.syncCount + 1
      let rec16 := t.recovering && !(decide (16 ≤ n) && decide (16 ≤ t.delayCount))
      { t with syncRx := inc48 t.syncRx, latest := some y, waiting := none, syncs := (y :: t.syncs).take 8, offsets := os, syncCount := n
               theta := if rec16 then t.theta else meanQ os, recovering := rec16 }) = { h with tim := withOffset h.tim y } := by
    have same : ({ h with tim := { withOffset h.tim y with recovering := false } } : Hw) = { h with tim := withOffset h.tim y } := by
      rw [← hr]
      rfl
    rw [← same]
    dsimp only [onTim]
    rw [hr]
    rfl
  have same : (withOffset h.tim y).recovering = false := hr
  unfold syncUse
  rw [taken]
  dsimp only
  rw [same]
  rfl

/-- Before the step, while the frequency phase is not due to end. -/
theorem syncUse_early {h : Hw} (y : SyncRec) (hr : h.tim.recovering = false) (hs : h.tim.stepped = false)
    (ha : h.tim.acquired = true ∨ h.tim.syncCount + 1 < 8) : h.syncUse y = { h with tim := withOffset h.tim y } := by
  rw [syncUse_eq y hr, hs, if_neg Bool.false_ne_true]
  unfold acquire
  refine if_neg ?_
  show ¬ ((!h.tim.acquired && !h.tim.stepped && h.tim.selected.isSome && decide (8 ≤ h.tim.syncCount + 1) && decide (8 ≤ h.tim.delayCount)) = true)
  rcases ha with ha | ha
  · rw [ha]
    simp
  · rw [decide_eq_false (show ¬ 8 ≤ h.tim.syncCount + 1 by omega)]
    simp

/-! ### Sync -/

/-- The time state with the arrival of a Sync. -/
def withArrival (h : Hw) (m : PtpHdr) (two : Bool) (interval : Nat) : Tim :=
  { h.tim with lastSync := h.up, syncInterval := interval, twoStep := two, syncDst := some m.dst }

end Hw

section
variable {s : State} {dt : Nat} {h : Hw} (he : s.hw.elapse dt = h) {m : PtpHdr} (hu : h.Usable m) (hsel : h.tim.selected = some m.source)
  {interval : Nat} (h1 : 7680000 ≤ interval) (h2 : interval ≤ 983040000)
include he hu hsel h1 h2

/-- A Sync of the selected master at an accepted interval. -/
theorem exec_ptpSync_selected {two : Bool} {t1 : Int} {y : SyncRec} {g : Hw}
    (hy : { seq := m.seq, t1 := t1, t2 := h.atPins m.port m.lane, cs := m.correction, d := Hw.delayNow h.tim } = y)
    (hg : (if two then { h with tim := { h.withArrival m two interval with waiting := some { y with t1 := 0 } } }
      else ({ h with tim := h.withArrival m two interval } : Hw).syncUse y) = g) (htc : g.tcActive = false) (hs : g.Settled) :
    execPtpSync dt m two t1 interval s = .next { s with hw := g } := by
  have due : (h.tim.selected == some m.source && decide (7680000 ≤ interval) && decide (interval ≤ Config.fc)) = true := by
    rw [hsel, beq_self_eq_true, decide_eq_true h1, decide_eq_true (show interval ≤ Config.fc from h2)]
    rfl
  refine ok_ptpFrame he hu true ?_ htc hs
  dsimp only
  rw [due, Hw.whenB_true, ← hg, ← hy]
  rfl

end
/-! ### Follow_Up -/

/-- A Sync with what its Follow_Up gives it. -/
def SyncRec.followed (y : SyncRec) (m : PtpHdr) (t1 : Int) : SyncRec := { y with t1 := t1, cs := y.cs + m.correction }

section
variable {s : State} {dt : Nat} {h : Hw} (he : s.hw.elapse dt = h) {m : PtpHdr} (hu : h.Usable m) (hsel : h.tim.selected = some m.source) {t1 : Int}
include he hu hsel

/-- The Follow_Up of the Sync that waits, `g` what the offset leaves; a request paired with that Sync gets its t1 too. -/
theorem exec_ptpFollowUp_waiting {w : SyncRec} {g g' : Hw} (hw : h.tim.waiting = some w) (hseq : w.seq = m.seq)
    (hg : h.syncUse (w.followed m t1) = g) (hx : g.tim.exchange = none)
    (hg' : (g.whenB (g.tim.reqOpen && g.tim.reqSync.any fun y => y.seq == m.seq) fun h =>
      h.onTim fun t => { t with reqSync := t.reqSync.map fun y => y.followed m t1, reqOpen := false }) = g')
    (hx' : g'.tim.exchange = g.tim.exchange) (htc : g'.tcActive = false) (hs : g'.Settled) :
    execPtpFollowUp dt m t1 s = .next { s with hw := g' } := by
  refine ok_ptpFrame he hu false ?_ htc hs
  rw [hsel, beq_self_eq_true, Hw.whenB_true]
  extract_lets full h1 h2
  have offset : h1 = g := by
    unfold h1
    rw [hw]
    dsimp only
    rw [beq_of_eq hseq, Hw.whenB_true]
    exact hg
  have paired : h2 = g' := by
    unfold h2
    rw [offset]
    exact hg'
  rw [paired, hx'.trans hx]

/-- The Follow_Up of the Sync of an exchange that waits for it. -/
theorem exec_ptpFollowUp_exchange {y : SyncRec} {back : Int} {g : Hw} (hw : h.tim.waiting = none) (hr : h.tim.reqOpen = false)
    (hx : h.tim.exchange = some (y, back)) (hseq : y.seq = m.seq)
    (hg : ({ h with tim := { h.tim with exchange := none } } : Hw).takeDelay (y.followed m t1) back = g) (htc : g.tcActive = false) (hs : g.Settled) :
    execPtpFollowUp dt m t1 s = .next { s with hw := g } := by
  refine ok_ptpFrame he hu false ?_ htc hs
  dsimp only
  rw [hsel, beq_self_eq_true, Hw.whenB_true, hw]
  dsimp only
  rw [hr, Bool.false_and, Hw.whenB_false, hx]
  dsimp only
  rw [hseq, beq_self_eq_true, Hw.whenB_true]
  exact hg

end
/-! ### The servo -/

namespace Hw

/-- A value limited to ±b. -/
theorem clampQ_eq {b : Rat} (hb : 0 ≤ b) (x : Rat) : clampQ b x = min b (max (-b) x) := by
  unfold clampQ
  split
  · rw [max_eq_left (by linarith), min_eq_right (by linarith)]
  · rw [max_eq_right (by linarith)]
    split
    · rw [min_eq_left (by linarith)]
    · rw [min_eq_right (by linarith)]

/-- The correction that the slew limit allows at a Sync. -/
def slewed (h : Hw) : Rat := clampQ ((h.image.pkg.slewLimit : Rat) * 1000) (-(h.tim.theta) * 250)
/-- y after a Sync. -/
def steered (h : Hw) (interval : Nat) : Rat :=
  clampQ 50000000 (h.tim.y + h.slewed * (interval : Rat) / ((16 * Config.fc : Nat) : Rat))

/-- Steering to a rate within ±50 ppm. -/
theorem steer_within {h : Hw} {interval : Nat} {p y : Rat} (hp : h.slewed = p) (hy : h.steered interval = y) (h1 : y + p ≤ 50000000)
    (h2 : -50000000 ≤ y + p) (hf : h.tim.freqLimit = false) :
    h.steer interval = { h with tim := { h.tim with y := y, r := y + p, freqLimit := false } } := by
  subst hp hy
  exact setRate_within (h := { h with tim := { h.tim with y := h.steered interval } }) h1 h2 hf

/-- The stage of the slave with an offset within tolerance. -/
def withinSta (s : Sta) : Sta :=
  { s with
    fineRun := min 64 (s.fineRun + 1), fineLock := decide (64 ≤ s.fineRun + 1)
    fineAt := if 64 ≤ s.fineRun + 1 ∧ s.fineLock = false then some s.since else s.fineAt }

/-- An offset within tolerance, where none was out of it. -/
theorem judgeOffset_within {h : Hw} (hb : beyond h.tim.theta h.image.pkg.timeTol = false) (ho : h.tim.outOfTol = false) :
    h.judgeOffset = { h with tim := { h.tim with outOfTol := false }, sta := withinSta h.sta } := by
  have most : Nat.min 64 (h.sta.fineRun + 1) = 64 ↔ 64 ≤ h.sta.fineRun + 1 := min_eq_left_iff
  have full : (Nat.min 64 (h.sta.fineRun + 1) == 64) = decide (64 ≤ h.sta.fineRun + 1) := by
    rw [Bool.eq_iff_iff, beq_iff_eq, most, decide_eq_true_iff]
  have since : (if (decide (Nat.min 64 (h.sta.fineRun + 1) = 64) && !h.sta.fineLock) = true then some h.up else h.sta.fineAt) =
      if 64 ≤ h.sta.fineRun + 1 ∧ h.sta.fineLock = false then some h.sta.since else h.sta.fineAt := by
    simp only [most, Bool.and_eq_true, decide_eq_true_eq, Bool.not_eq_true', up]
  unfold judgeOffset
  rw [hb, ho, withinSta, ← full, ← since]
  rfl

end Hw

/-- Settles O22: a Sync waits for its Follow_Up or gives its offset at once; a Follow_Up gives it, and completes an exchange; after the step
the offset steers the rate. -/
theorem ptpOffset : Obligations.PtpOffset := by
  refine ⟨?offset, ?steer⟩
  case offset =>
    intro s dt m t1 interval hs h t2 D hp hl ht hd hv hi hn htc hsel h1 h2 hdelays hstep hrec hacq used came rec_ full
    have hu : h.Usable m := .of hp hl ht hd hv hi hn
    have settled : h.Settled := Hw.elapse_settled _ hs dt
    have delay : Hw.delayNow h.tim = D := by
      rw [Hw.delayNow, List.isEmpty_eq_false_iff.mpr hdelays]
      rfl
    have arrived (t1 : Int) : { seq := m.seq, t1 := t1, t2 := h.atPins m.port m.lane, cs := m.correction, d := Hw.delayNow h.tim } = rec_ t1 := by
      rw [delay, hp]
      rfl
    refine ⟨exec_ptpSync_selected rfl hu hsel h1 h2 (arrived t1) (if_pos rfl) htc settled,
      exec_ptpSync_selected rfl hu hsel h1 h2 (arrived t1) ((if_neg Bool.false_ne_true).trans (Hw.syncUse_early _ hrec hstep hacq)) htc settled,
      fun w hw hseq hx => ?_, fun y back hw ho hx hseq hacq hlen => ?_⟩
    · have offset := Hw.syncUse_early (h := h) (w.followed m t1) hrec hstep hacq
      refine ⟨fun ho => exec_ptpFollowUp_waiting rfl hu hsel hw hseq offset hx ?_ rfl htc settled,
        fun y ho hy hys => exec_ptpFollowUp_waiting rfl hu hsel hw hseq offset hx ?_ rfl htc settled⟩
      · show Hw.whenB _ (h.tim.reqOpen && _) _ = _
        rw [ho]
        rfl
      · show Hw.whenB _ (h.tim.reqOpen && h.tim.reqSync.any fun y => y.seq == m.seq) _ = _
        rw [ho, hy, Option.any_some, hys, beq_self_eq_true, Bool.true_and, Hw.whenB_true]
        dsimp only [Hw.onTim, Hw.withOffset]
        rw [hy]
        rfl
    · exact exec_ptpFollowUp_exchange rfl hu hsel hw ho hx hseq (Hw.takeDelay_eq _ _ hlen hacq) htc settled
  case steer =>
    intro s dt m t1 interval hs h t2 o theta slew p lim y hp hl ht hd hv hi hn htc hsel h1 h2 hdelays hstep hrec hlim htol hle hge hy hy'
    have hu : h.Usable m := .of hp hl ht hd hv hi hn
    have settled : h.Settled := Hw.elapse_settled _ hs dt
    have delay : Hw.delayNow h.tim = meanQ (h.tim.delays.take 16) := by
      rw [Hw.delayNow, List.isEmpty_eq_false_iff.mpr hdelays]
      rfl
    have pins : h.atPins m.port m.lane = t2 := by
      rw [hp]
      rfl
    have nonneg : 0 ≤ slew := by positivity
    have second : ((16 * Config.fc : Nat) : Rat) = 15728640000 := by norm_num [Config.fc]
    generalize hrecd : ({ seq := m.seq, t1 := t1, t2 := h.atPins m.port m.lane, cs := m.correction, d := Hw.delayNow h.tim } : SyncRec) = rec_
    generalize htaken : ({ h with tim := Hw.withOffset (h.withArrival m false interval) rec_ } : Hw) = g
    have gtheta : g.tim.theta = theta := by
      rw [← htaken, ← hrecd, pins, delay]
      rfl
    have slewed : g.slewed = p := by
      have limit : g.image.pkg.slewLimit = h.image.pkg.slewLimit := by
        rw [← htaken]
        rfl
      rw [Hw.slewed, gtheta, limit, Hw.clampQ_eq nonneg]
    have steered : g.steered interval = y := by
      have before : g.tim.y = h.tim.y := by
        rw [← htaken]
        rfl
      rw [Hw.steered, slewed, second, before, Hw.clampQ_eq (by norm_num)]
    have within : Hw.beyond theta h.image.pkg.timeTol = false := by
      rw [Hw.beyond, decide_eq_false (not_lt.mpr hle), decide_eq_false (not_lt.mpr hge)]
      rfl
    have limited : g.tim.freqLimit = false := by
      rw [← htaken]
      exact hlim
    have used : ({ h with tim := h.withArrival m false interval } : Hw).syncUse rec_ =
        { g with tim := { g.tim with y := y, r := y + p, freqLimit := false, outOfTol := false }, sta := Hw.withinSta g.sta } := by
      refine (Hw.syncUse_eq _ (by exact hrec)).trans ((if_pos (by exact hstep)).trans ?_)
      show ((({ h with tim := Hw.withOffset (h.withArrival m false interval) rec_ } : Hw).steer interval).judgeOffset) = _
      rw [htaken, Hw.steer_within slewed steered hy hy' limited]
      refine Hw.judgeOffset_within ?_ ?_
      · show Hw.beyond g.tim.theta g.image.pkg.timeTol = false
        rw [gtheta, ← htaken]
        exact within
      · rw [← htaken]
        exact htol
    subst htaken
    exact ⟨_, exec_ptpSync_selected rfl hu hsel h1 h2 hrecd ((if_neg Bool.false_ne_true).trans used) htc settled, rfl, rfl, rfl, gtheta, rfl, rfl, rfl,
      rfl, rfl, rfl, rfl⟩

end Sys2Proof.Machine
end

section
/-! The serial lanes (R287 to R295, Table 13.5): what a lane's return to an earlier step and the refresh of its port change.
Settles O30. -/
namespace Sys2Proof.Machine
namespace Hw

/-! ### State alarms that stand after a command -/

/-- An alarm raised with no end of it among the happenings stands. -/
theorem mem_foldl_raisedAfter {k : Nat × Int} {l : List Happening} {r : List (Nat × Int)}
    (hk : k ∈ r ∨ ∃ x ∈ l, isState x.code = true ∧ x.cease = false ∧ (x.code, x.arg) = k) (hc : ∀ x ∈ l, x.cease = true → (x.code, x.arg) ≠ k) :
    k ∈ l.foldl raisedAfter r := by
  induction l generalizing r with
  | nil =>
    rcases hk with hk | ⟨x, hx, -⟩
    · exact hk
    · exact absurd hx List.not_mem_nil
  | cons x l ih =>
    have later := fun y hy => hc y (List.mem_cons_of_mem x hy)
    have stays (hr : k ∈ r) : k ∈ raisedAfter r x := by
      unfold raisedAfter
      split
      · split
        · rename_i hx
          exact (List.mem_erase_of_ne (hc x (List.mem_cons_self ..) hx).symm).mpr hr
        · split
          · exact hr
          · exact List.mem_append_left _ hr
      · exact hr
    refine ih ?_ later
    rcases hk with hr | ⟨y, hy, hs, hn, he⟩
    · exact .inl (stays hr)
    · rcases List.mem_cons.mp hy with rfl | hy
      · left
        by_cases hr : k ∈ r
        · exact stays hr
        · have absent : r.contains (y.code, y.arg) = false := by
            rw [he]
            simpa using hr
          rw [raisedAfter, if_pos hs, hn, if_neg Bool.false_ne_true, absent, if_neg Bool.false_ne_true, he]
          exact List.mem_append_right _ (List.mem_singleton.mpr rfl)
      · exact .inr ⟨y, hy, hs, hn, he⟩

theorem mem_settle_raised {h : Hw} {k : Nat × Int}
    (hk : k ∈ h.lko.raised ∨ ∃ x ∈ h.lko.pend, isState x.code = true ∧ x.cease = false ∧ (x.code, x.arg) = k)
    (hc : ∀ x ∈ h.lko.pend, x.cease = true → (x.code, x.arg) ≠ k) : k ∈ h.settle.lko.raised := by
  have perm := sortBy_perm order h.lko.pend
  rw [settle_raised]
  refine mem_foldl_raisedAfter ?_ fun x hx => hc x (perm.mem_iff.mp hx)
  rcases hk with hk | ⟨x, hx, e⟩
  · exact .inl hk
  · exact .inr ⟨x, perm.mem_iff.mpr hx, e⟩

/-! ### Commands that change lanes and ports, and raise or end alarms -/

/-- `g` is `h` but for its lanes, its ports and the happenings `xs`. -/
def Posts (h g : Hw) (xs : List Happening) : Prop :=
  g = { h with lanes := g.lanes, ports := g.ports, lko := { h.lko with pend := h.lko.pend ++ xs } }

section
variable {h g k : Hw} {xs ys : List Happening}

theorem Posts.refl (h : Hw) : Posts h h [] := by
  unfold Posts
  rw [List.append_nil]

theorem Posts.trans (a : Posts h g xs) (b : Posts g k ys) : Posts h k (xs ++ ys) := by
  unfold Posts at *
  rw [b, a]
  simp only [List.append_assoc]

theorem Posts.congr (a : Posts h g xs) (e : xs = ys) : Posts h g ys := e ▸ a

theorem Posts.onLane (a : Posts h g xs) (l : Nat) (f : Lane → Lane) : Posts h (g.onLane l f) xs := by
  unfold Posts at *
  rw [a]
  rfl

theorem Posts.onPort (a : Posts h g xs) (p : Nat) (f : Port → Port) : Posts h (g.onPort p f) xs := by
  unfold Posts at *
  rw [a]
  rfl

theorem Posts.seen (a : Posts h g xs) (x : Happening) : g.seen x = h.seen x := by
  unfold Posts at a
  rw [a]
  rfl

theorem Posts.happen (a : Posts h g xs) (x : Happening) : Posts h (g.happen x) (xs ++ [h.seen x]) := by
  rw [← a.seen x]
  unfold Posts at *
  rw [a]
  simp only [Hw.happen, List.append_assoc]

theorem Posts.whenB (a : Posts h g xs) {c : Bool} {f : Hw → Hw} (b : Posts g (f g) ys) : Posts h (g.whenB c f) (xs ++ if c then ys else []) := by
  cases c
  · exact a.congr (List.append_nil _).symm
  · exact a.trans b

theorem Posts.whenHappen (a : Posts h g xs) (c : Bool) (x : Happening) :
    Posts h (g.whenB c fun h => h.happen x) (xs ++ if c then [h.seen x] else []) := by
  cases c
  · exact a.congr (List.append_nil _).symm
  · exact a.happen x

theorem Posts.pend (a : Posts h g xs) (hp : h.lko.pend = []) : g.lko.pend = xs := by
  unfold Posts at a
  rw [a]
  simp [hp]

theorem Posts.raised (a : Posts h g xs) : g.lko.raised = h.lko.raised := by
  unfold Posts at a
  rw [a]

/-- What HC0 makes of it. -/
theorem Posts.told (a : Posts h g xs) : g.settle = ({ h with lanes := g.settle.lanes, ports := g.settle.ports } : Hw).told g.settle := by
  rw [settle_lanes, settle_ports]
  exact settle_told { h with lanes := g.lanes, ports := g.ports } _ _ a

/-- Nothing raised and nothing ended: HC0 has nothing to do. -/
theorem Posts.quiet (a : Posts h g []) (hs : h.Settled) : g.settle = g ∧ g.lko = h.lko := by
  unfold Posts at a
  rw [List.append_nil] at a
  have settled : g.Settled := by
    rw [a]
    exact hs
  refine ⟨settle_of_settled g settled, ?_⟩
  rw [a]

/-- An alarm raised and not ended stands. -/
theorem Posts.mem_raised (a : Posts h g xs) (hp : h.lko.pend = []) {n : Nat × Int}
    (hn : n ∈ h.lko.raised ∨ ∃ x ∈ xs, isState x.code = true ∧ x.cease = false ∧ (x.code, x.arg) = n)
    (hc : ∀ x ∈ xs, x.cease = true → (x.code, x.arg) ≠ n) : n ∈ g.settle.lko.raised := by
  refine mem_settle_raised ?_ ?_
  · rw [a.raised, a.pend hp]
    exact hn
  · rw [a.pend hp]
    exact hc

end

/-! ### The four lanes of a port -/

/-- The lanes of a port changed, each with its number at the port. -/
def onFour (v : Vector Lane 8) (p : Nat) (f : Nat → Lane → Lane) : Vector Lane 8 := (List.range 4).foldl (fun v i => updN v (4 * p + i) (f i)) v

theorem getN_onFour (v : Vector Lane 8) {p j : Nat} (hj : j < 8) (f : Nat → Lane → Lane) :
    getN (onFour v p f) j {} = if j / 4 = p then f (j % 4) (getN v j {}) else getN v j {} := by
  have four : onFour v p f = updN (updN (updN (updN v (4 * p + 0) (f 0)) (4 * p + 1) (f 1)) (4 * p + 2) (f 2)) (4 * p + 3) (f 3) := rfl
  rw [four]
  split
  · rename_i hq
    obtain e | e | e | e : j = 4 * p + 0 ∨ j = 4 * p + 1 ∨ j = 4 * p + 2 ∨ j = 4 * p + 3 := by omega
    all_goals
      have m : j % 4 = j - 4 * p := by omega
      rw [m]
      subst e
      simp (disch := omega) only [getN_updN_ne, getN_updN_same]
      congr 1
      omega
  · simp (disch := omega) only [getN_updN_ne]

theorem each_onLane (h : Hw) (l : List Nat) (k : Nat → Nat) (f : Nat → Lane → Lane) :
    (h.each l fun h i => h.onLane (k i) (f i)) = { h with lanes := l.foldl (fun v i => updN v (k i) (f i)) h.lanes } := by
  induction l generalizing h with
  | nil => rfl
  | cons i r ih => exact ih _

/-! ### Remote Fault (R286) -/

/-- The happenings of Remote Fault received, or received no longer. -/
def remoteNews (h : Hw) (p : Nat) (on : Bool) : List Happening :=
  (if on then [h.seen { code := 0x0305, arg := p }] else []) ++
    if (h.port p).remoteFault && !on then [h.seen { code := 0x0305, arg := p, cease := true }] else []

theorem remoteFault_posts (h : Hw) (p : Nat) (on : Bool) : Posts h (h.remoteFault p on) (h.remoteNews p on) :=
  (((Posts.refl h).onPort p fun x => { x with remoteFault := on }).whenHappen on { code := 0x0305, arg := p }).whenHappen
    ((h.port p).remoteFault && !on) { code := 0x0305, arg := p, cease := true }

theorem remoteFault_ports (h : Hw) (p : Nat) (on : Bool) :
    (h.remoteFault p on).ports = updN h.ports p fun x => { x with remoteFault := on } := by
  unfold remoteFault
  exact (whenB_keep Hw.ports _ _ _ rfl).trans (whenB_keep Hw.ports _ _ _ rfl)

theorem remoteFault_lanes (h : Hw) (p : Nat) (on : Bool) : (h.remoteFault p on).lanes = h.lanes := by
  unfold remoteFault
  exact (whenB_keep Hw.lanes _ _ _ rfl).trans (whenB_keep Hw.lanes _ _ _ rfl)

/-! ### The refresh of a port (R289, R290) -/

/-- The latest arrival among the lanes of a port. -/
def latest (h : Hw) (p : Nat) : Nat := (h.skews p).foldl Nat.max 0
/-- The four lanes of a port are told apart, with too little skew to matter. -/
def inOrder (h : Hw) (p : Nat) : Bool := (h.numbers p).length == 4 && !h.orderBad p
/-- A lane delayed to the latest. -/
def deskewed (top : Nat) (x : Lane) : Lane := { x with deskew := if x.step = 5 then Nat.min 128 (top - x.skew) else 0 }

/-- The happenings of a refresh. -/
def refreshNews (h : Hw) (p : Nat) : List Happening :=
  (if !h.inOrder p && (h.port p).remoteFault then [h.seen { code := 0x0305, arg := p, cease := true }] else []) ++
    (if h.orderBad p && !(h.port p).orderFault then [h.seen { code := 0x0306, arg := p }] else []) ++
    if (h.port p).orderFault && !h.orderBad p then [h.seen { code := 0x0306, arg := p, cease := true }] else []

theorem lanesOf_eq (h : Hw) (p : Nat) : h.lanesOf p = (List.range 4).map fun i => h.lane (4 * p + i) := rfl

/-- A delay does not change what tells the lanes apart. -/
theorem numbers_deskewed (h : Hw) {p : Nat} (hp : p < 2) (top : Nat) :
    ({ h with lanes := onFour h.lanes p fun _ => deskewed top } : Hw).numbers p = h.numbers p := by
  have lanes : ({ h with lanes := onFour h.lanes p fun _ => deskewed top } : Hw).lanesOf p = (h.lanesOf p).map (deskewed top) := by
    rw [lanesOf_eq, lanesOf_eq, List.map_map]
    refine List.map_congr_left fun i hi => ?_
    have hi : i < 4 := List.mem_range.mp hi
    exact (getN_onFour h.lanes (j := 4 * p + i) (by omega) _).trans (if_pos (by omega))
  rw [numbers, lanes, List.filterMap_map]
  rfl

/-- What a refresh makes of the lanes and the port, the order fault aside. -/
def refreshed (h : Hw) (p : Nat) : Hw :=
  ((({ h with lanes := onFour h.lanes p fun _ => deskewed (h.latest p) } : Hw).onPort p fun x =>
    { x with orderFault := h.orderBad p, aligned := h.inOrder p, localFault := !h.inOrder p }).whenB
      (!h.inOrder p && (h.port p).remoteFault) fun h => h.remoteFault p false)

section
variable (h : Hw) {p : Nat} (hp : p < 2)
include hp

theorem portRefresh_eq : h.portRefresh p =
    ((h.refreshed p).whenB (h.orderBad p && !(h.port p).orderFault) fun h => h.alarm 0x0306 p).whenB ((h.port p).orderFault && !h.orderBad p)
      fun h => h.cease 0x0306 p := by
  have lanes : (h.each (List.range 4) fun h' i => h'.onLane (4 * p + i) fun l =>
      { l with deskew := if l.step = 5 then Nat.min 128 ((h.skews p).foldl Nat.max 0 - l.skew) else 0 }) =
        { h with lanes := onFour h.lanes p fun _ => deskewed (h.latest p) } := each_onLane h _ _ _
  have port : (((({ h with lanes := onFour h.lanes p fun _ => deskewed (h.latest p) } : Hw).onPort p fun x =>
      { x with orderFault := h.orderBad p, aligned := h.inOrder p, localFault := !h.inOrder p }).port p).remoteFault) = (h.port p).remoteFault := by
    rw [onPort_port _ _ hp]
    rfl
  unfold portRefresh refreshed
  dsimp only
  rw [lanes, numbers_deskewed h hp]
  show ((Hw.whenB _ (!h.inOrder p && (((({ h with lanes := onFour h.lanes p fun _ => deskewed (h.latest p) } : Hw).onPort p fun x =>
      { x with orderFault := h.orderBad p, aligned := h.inOrder p, localFault := !h.inOrder p }).port p).remoteFault)) _).whenB _ _).whenB _ _ = _
  rw [port]
  rfl

theorem refreshed_posts : Posts h (h.refreshed p)
    (if !h.inOrder p && (h.port p).remoteFault then [h.seen { code := 0x0305, arg := p, cease := true }] else []) := by
  have start : Posts h (({ h with lanes := onFour h.lanes p fun _ => deskewed (h.latest p) } : Hw).onPort p fun x =>
      { x with orderFault := h.orderBad p, aligned := h.inOrder p, localFault := !h.inOrder p }) [] := Posts.onPort (by
    unfold Posts
    rw [List.append_nil]) p _
  unfold refreshed
  cases hc : (!h.inOrder p && (h.port p).remoteFault)
  · exact start
  · refine (start.trans (remoteFault_posts _ p false)).congr ?_
    have rf : (h.port p).remoteFault = true := (Bool.and_eq_true_iff.mp hc).2
    rw [remoteNews, onPort_port _ _ hp]
    show _ ++ (_ ++ if (h.port p).remoteFault && !false then _ else _) = _
    rw [rf]
    rfl

omit hp in
theorem refreshed_lanes : (h.refreshed p).lanes = onFour h.lanes p fun _ => deskewed (h.latest p) := by
  unfold refreshed
  exact whenB_keep Hw.lanes _ _ _ (remoteFault_lanes _ p false)

omit hp in
theorem refreshed_ports : (h.refreshed p).ports = updN h.ports p fun x =>
    { x with orderFault := h.orderBad p, aligned := h.inOrder p, localFault := !h.inOrder p, remoteFault := x.remoteFault && h.inOrder p } := by
  unfold refreshed
  cases hc : (!h.inOrder p && (h.port p).remoteFault)
  · refine updN_congr {} ?_
    have rf : ((h.port p).remoteFault && h.inOrder p) = (h.port p).remoteFault := by
      revert hc
      cases h.inOrder p <;> simp
    exact congrArg (fun b => ({ h.port p with
      orderFault := h.orderBad p, aligned := h.inOrder p, localFault := !h.inOrder p, remoteFault := b } : Port)) rf.symm
  · refine (remoteFault_ports _ p false).trans ((updN_updN ..).trans (updN_congr {} ?_))
    have al : h.inOrder p = false := by simpa using (Bool.and_eq_true_iff.mp hc).1
    rw [al, Bool.and_false]

theorem portRefresh_posts : Posts h (h.portRefresh p) (h.refreshNews p) := by
  rw [portRefresh_eq h hp]
  exact ((refreshed_posts h hp).whenHappen _ { code := 0x0306, arg := p }).whenHappen _ { code := 0x0306, arg := p, cease := true }

theorem portRefresh_lanes : (h.portRefresh p).lanes = onFour h.lanes p fun _ => deskewed (h.latest p) := by
  rw [portRefresh_eq h hp, ← refreshed_lanes h]
  exact (whenB_keep Hw.lanes _ _ _ rfl).trans (whenB_keep Hw.lanes _ _ _ rfl)

theorem portRefresh_ports : (h.portRefresh p).ports = updN h.ports p fun x =>
    { x with orderFault := h.orderBad p, aligned := h.inOrder p, localFault := !h.inOrder p, remoteFault := x.remoteFault && h.inOrder p } := by
  rw [portRefresh_eq h hp, ← refreshed_ports h]
  exact (whenB_keep Hw.ports _ _ _ rfl).trans (whenB_keep Hw.ports _ _ _ rfl)

theorem portRefresh_lane {j : Nat} (hj : j < 8) :
    (h.portRefresh p).lane j = if j / 4 = p then deskewed (h.latest p) (h.lane j) else h.lane j := by
  rw [lane, portRefresh_lanes h hp, getN_onFour _ hj]
  rfl

theorem portRefresh_port : (h.portRefresh p).port p = { h.port p with
    orderFault := h.orderBad p, aligned := h.inOrder p, localFault := !h.inOrder p, remoteFault := (h.port p).remoteFault && h.inOrder p } := by
  rw [port, portRefresh_ports h hp, getN_updN_same _ _ _ hp]
  rfl

theorem portRefresh_port_ne {j : Nat} (hj : j ≠ p) : (h.portRefresh p).port j = h.port j := by
  rw [port, portRefresh_ports h hp, getN_updN_ne _ _ _ hj]
  rfl

end

/-! ### A lane that restarts (R287, R288, R292, R299) -/

/-- A lane at step 1. -/
def lane1 (x : Lane) : Lane :=
  { startEq x with step := 1, adapt := 0, snapValid := false, number := none, inverted := false, ehMax := 0, acts := [] }
/-- A lane at step 3. -/
def lane3 (x : Lane) : Lane := { snapEq x with step := 3, adapt := 1, number := none }
/-- The happening of a frozen lane that restarts. -/
def thawNews (h : Hw) (l : Nat) : List Happening := if decide ((h.lane l).adapt = 3) then [h.seen { code := 0x0308, arg := l, cease := true }] else []

theorem laneDown_posts (h : Hw) (l : Nat) : Posts h (h.laneDown l) (h.thawNews l) := by
  exact ((Posts.refl h).onLane l lane1).whenHappen (decide ((h.lane l).adapt = 3)) { code := 0x0308, arg := l, cease := true }

theorem laneStep3_posts (h : Hw) (l : Nat) : Posts h (h.laneStep3 l) (h.thawNews l) := by
  exact ((Posts.refl h).onLane l lane3).whenHappen (decide ((h.lane l).adapt = 3)) { code := 0x0308, arg := l, cease := true }

theorem laneDown_lanes (h : Hw) (l : Nat) : (h.laneDown l).lanes = updN h.lanes l lane1 := whenB_keep Hw.lanes _ _ _ rfl
theorem laneStep3_lanes (h : Hw) (l : Nat) : (h.laneStep3 l).lanes = updN h.lanes l lane3 := whenB_keep Hw.lanes _ _ _ rfl
theorem laneDown_lane (h : Hw) {l : Nat} (hl : l < 8) : (h.laneDown l).lane l = lane1 (h.lane l) := by
  rw [lane, laneDown_lanes, getN_updN_same _ _ _ hl]
  rfl
theorem laneDown_lane_ne (h : Hw) {l j : Nat} (hj : j ≠ l) : (h.laneDown l).lane j = h.lane j := by
  rw [lane, laneDown_lanes, getN_updN_ne _ _ _ hj]
  rfl
theorem laneDown_ports (h : Hw) (l : Nat) : (h.laneDown l).ports = h.ports := whenB_keep Hw.ports _ _ _ rfl
theorem laneStep3_ports (h : Hw) (l : Nat) : (h.laneStep3 l).ports = h.ports := whenB_keep Hw.ports _ _ _ rfl

/-! ### Ports whose lanes have not all found their markers -/

theorem step_five {v : Vector Lane 8} {p : Nat} {top j : Nat} (hj : j < 8) :
    (getN (onFour v p fun _ => deskewed top) j {}) = { getN v j {} with deskew := (getN (onFour v p fun _ => deskewed top) j {}).deskew } := by
  rw [getN_onFour v hj]
  split <;> rfl

/-- A port with a lane short of its markers is not aligned. -/
theorem inOrder_short {h : Hw} {p i : Nat} (hi : i < 4) (hs : (h.lane (4 * p + i)).step ≠ 5) : h.inOrder p = false := by
  have short : (h.numbers p).length < (h.lanesOf p).length := by
    refine List.length_filterMap_lt_length_iff_exists.mpr ⟨h.lane (4 * p + i), ?_, ?_⟩
    · rw [lanesOf_eq]
      exact List.mem_map_of_mem (f := fun i => h.lane (4 * p + i)) (List.mem_range.mpr hi)
    · rw [beq_false_of_ne hs]
      rfl
  have four : (h.lanesOf p).length = 4 := by rw [lanesOf_eq, List.length_map, List.length_range]
  rw [inOrder, beq_false_of_ne (by omega), Bool.false_and]

/-- A port none of whose lanes has found its markers has no order fault. -/
theorem orderBad_none {h : Hw} {p : Nat} (hs : ∀ i < 4, (h.lane (4 * p + i)).step ≠ 5) : h.orderBad p = false := by
  have none : ∀ x ∈ h.lanesOf p, (x.step == 5) = false := by
    intro x hx
    rw [lanesOf_eq] at hx
    obtain ⟨i, hi, rfl⟩ := List.mem_map.mp hx
    exact beq_false_of_ne (hs i (List.mem_range.mp hi))
  have numbers : h.numbers p = [] := List.filterMap_eq_nil_iff.mpr fun x hx => by rw [none x hx]; rfl
  have skews : h.skews p = [] := by
    rw [skews, List.filter_eq_nil_iff.mpr fun x hx => by rw [none x hx]; exact Bool.false_ne_true]
    rfl
  rw [orderBad, numbers, skews]
  rfl

/-! ### Lanes that run -/

theorem clampZ_eq (x : Int) : clampZ (-64) 63 x = max (-64) (min 63 x) := by
  unfold clampZ
  omega

/-- The equaliser that adaptation has reached, on the scales of its settings. -/
theorem adaptedEq_eq (x : Lane) (m : EyeMeas) : adaptedEq x m =
    { x with ctle := min 31 m.ctle, taps := (List.range 12).map fun j => max (-64) (min 63 (m.taps.getD j 0)) } := by
  unfold adaptedEq setEq
  simp only [clampZ_eq]

theorem startEq_scales (x : Lane) : (startEq x).ctle ≤ 31 ∧ (startEq x).taps.length = 12 ∧ ∀ v ∈ (startEq x).taps, -64 ≤ v ∧ v ≤ 63 := by
  refine ⟨Nat.min_le_left .., by simp [startEq, setEq], fun v hv => ?_⟩
  obtain ⟨j, -, rfl⟩ := List.mem_map.mp hv
  rw [clampZ_eq]
  omega

theorem portOn_of {h : Hw} {p : Nat} (h5 : 5 ≤ h.sta.stage) (ht : h.portType p = 1 ∨ h.portType p = 2) : h.portOn p = true := by
  rw [portOn, decide_eq_true h5]
  rcases ht with ht | ht <;> rw [ht] <;> rfl

end Hw

section
variable {s : State} {dt : Nat} {h : Hw} (he : s.hw.elapse dt = h) (hs : h.Settled) {l : LaneId} (hon : h.portOn (l.val / 4) = true)
include he hs hon

theorem exec_laneSignalDetect_step (hst : (h.lane l).step = 1) : execLaneSignalDetect dt l s = .next { s with hw := { h with
    lanes := updN h.lanes l fun x => { x with step := 2, ctle := (Hw.startEq (h.lane l)).ctle, taps := (Hw.startEq (h.lane l)).taps } } } := by
  refine ok_becomes s dt ?_ (by exact hs)
  rw [he, hon, hst, show (true && (1 : Nat) == 1) = true from rfl, Hw.whenB_true]
  exact congrArg (fun v => { h with lanes := v }) (updN_congr {} rfl)

theorem exec_laneCdrLock_step (hst : (h.lane l).step = 2) : execLaneCdrLock dt l s = .next { s with hw := { h with
    lanes := updN h.lanes l fun x => { x with step := 3, adapt := 1 } } } := by
  refine ok_becomes s dt ?_ (by exact hs)
  rw [he, hon, hst]
  rfl

theorem exec_laneCoarseDone_step {m : EyeMeas} (hst : (h.lane l).step = 3) (hm : lockLevel (h.portType (l.val / 4)) ≤ m.eh) :
    execLaneCoarseDone dt l m s = .next { s with hw := { h with lanes := updN h.lanes l fun x =>
      let y := { x with step := 4, inverted := false, ew := m.ew, eh := m.eh, ehMax := 0 }
      if x.adapt = 3 then y else { y with
        adapt := 2, ctle := min 31 m.ctle, taps := (List.range 12).map fun j => max (-64) (min 63 (m.taps.getD j 0)) } } } := by
  refine ok_becomes s dt ?_ (by exact hs)
  rw [he, hon, hst, decide_eq_true hm, show (true && (3 : Nat) == 3 && true) = true from rfl, Hw.whenB_true]
  simp only [Hw.adaptedEq_eq]
  rfl

theorem exec_lanePolarityTimeout_step (hst : (h.lane l).step = 4) : execLanePolarityTimeout dt l s = .next { s with hw := { h with
    lanes := updN h.lanes l fun x => { x with inverted := !x.inverted, polTries := inc x.polTries } } } := by
  refine ok_becomes s dt ?_ (by exact hs)
  rw [he, hon, hst]
  rfl

omit hs in
theorem exec_laneConditionLost_down (hl : (h.port (l.val / 4)).linkUp = false) (hst : 2 ≤ (h.lane l).step) :
    execLaneConditionLost dt l s = .next { s with hw := ((h.laneDown l).portRefresh (l.val / 4)).settle } := by
  unfold execLaneConditionLost
  rw [ok_eq, he, hon, hl, decide_eq_true hst]
  rfl

end
/-! ### The markers of a port's fourth lane (R288, R289) -/

namespace Hw

/-- A lane whose markers are found. -/
def markedLane (number skew : Nat) (x : Lane) : Lane := { x with step := 5, number := some number, skew := skew }

/-- Four numbers of a port are told apart when none is repeated. -/
theorem distinct_four : ∀ a b c d : Fin 4,
    decide (([a.val, b.val, c.val, d.val].eraseDups).length < 4) = !decide ([a.val, b.val, c.val, d.val].Nodup) := by decide

section
variable {h : Hw} {p : Nat} {l0 l1 l2 l3 : Lane} (hl : h.lanesOf p = [l0, l1, l2, l3])
  (h5 : l0.step = 5 ∧ l1.step = 5 ∧ l2.step = 5 ∧ l3.step = 5)
include hl h5

theorem latest_four : h.latest p = max (max l0.skew l1.skew) (max l2.skew l3.skew) := by
  obtain ⟨s0, s1, s2, s3⟩ := h5
  simp only [latest, skews, hl, List.filter, s0, s1, s2, s3, List.map, List.foldl, beq_self_eq_true]
  show max (max (max (max 0 _) _) _) _ = _
  omega

variable {a b c d : Nat} (hn : l0.number = some a ∧ l1.number = some b ∧ l2.number = some c ∧ l3.number = some d)
include hn

theorem numbers_four : h.numbers p = [a, b, c, d] := by
  obtain ⟨s0, s1, s2, s3⟩ := h5
  obtain ⟨n0, n1, n2, n3⟩ := hn
  simp only [numbers, hl, List.filterMap, s0, s1, s2, s3, n0, n1, n2, n3, beq_self_eq_true, if_true]

theorem inOrder_four : h.inOrder p = !h.orderBad p := by
  rw [inOrder, numbers_four hl h5 hn]
  rfl

variable (h4 : a < 4 ∧ b < 4 ∧ c < 4 ∧ d < 4)
include h4

theorem orderBad_four : h.orderBad p = false ↔ [a, b, c, d].Nodup ∧
    max (max l0.skew l1.skew) (max l2.skew l3.skew) ≤ min (min l0.skew l1.skew) (min l2.skew l3.skew) + 128 := by
  have numbers := numbers_four hl h5 hn
  obtain ⟨s0, s1, s2, s3⟩ := h5
  obtain ⟨a4, b4, c4, d4⟩ := h4
  have skews : h.skews p = [l0.skew, l1.skew, l2.skew, l3.skew] := by
    simp only [Hw.skews, hl, List.filter, s0, s1, s2, s3, List.map, beq_self_eq_true]
  have repeated := distinct_four ⟨a, a4⟩ ⟨b, b4⟩ ⟨c, c4⟩ ⟨d, d4⟩
  have range : [a, b, c, d].any (4 ≤ ·) = false := by simp; omega
  have spread : ([l0.skew, l1.skew, l2.skew, l3.skew].any fun a => [l0.skew, l1.skew, l2.skew, l3.skew].any fun b => decide (a + 128 < b)) = false ↔
      max (max l0.skew l1.skew) (max l2.skew l3.skew) ≤ min (min l0.skew l1.skew) (min l2.skew l3.skew) + 128 := by
    simp
    omega
  rw [← spread, orderBad, numbers, skews, range, Bool.or_false, Bool.or_eq_false_iff]
  refine and_congr ?_ Iff.rfl
  show decide (([a, b, c, d].eraseDups).length < 4) = false ↔ _
  rw [show decide (([a, b, c, d].eraseDups).length < 4) = !decide ([a, b, c, d].Nodup) from repeated]
  simp

end

end Hw
/-- The marker of a lane at step 4 refreshes its port. -/
theorem exec_laneMarkerFound_step {s : State} {dt : Nat} {h : Hw} (he : s.hw.elapse dt = h) {l : LaneId} {p : Nat} (hp : l.val / 4 = p)
    (hon : h.portOn p = true) (hst : (h.lane l).step = 4) (number skew : Nat) : execLaneMarkerFound dt l number skew s =
      .next { s with hw := ((h.onLane l (Hw.markedLane number skew)).portRefresh p).settle } := by
  subst hp
  unfold execLaneMarkerFound
  rw [ok_eq, he, hon, hst]
  rfl

/-- Settles O30: each step of a lane, the loss of its condition, and the markers of the fourth lane, which decide the alignment. -/
theorem laneBringUp : Obligations.LaneBringUp := by
  refine ⟨?steps, ?markers⟩
  case steps =>
    intro s dt l hs h5 h type x tp htype
    have settled : h.Settled := Hw.elapse_settled _ hs dt
    have stage : h.sta.stage = s.hw.sta.stage := by
      show (s.hw.elapse dt).sta.stage = _
      rw [Hw.elapse_sta]
    have hon : h.portOn (l.val / 4) = true := Hw.portOn_of (by rw [stage]; exact h5) htype
    refine ⟨fun hst => ?_, exec_laneCdrLock_step rfl settled hon, fun m => exec_laneCoarseDone_step rfl settled hon,
      exec_lanePolarityTimeout_step rfl settled hon, fun hl hst => ?_⟩
    · have lane : ({ h with lanes := updN h.lanes l fun x =>
          { x with step := 2, ctle := (Hw.startEq (h.lane l)).ctle, taps := (Hw.startEq (h.lane l)).taps } } : Hw).lane l =
          { h.lane l with step := 2, ctle := (Hw.startEq (h.lane l)).ctle, taps := (Hw.startEq (h.lane l)).taps } :=
        Hw.onLane_lane h _ l.isLt
      obtain ⟨ctle, taps⟩ := Hw.startEq_scales (h.lane l)
      refine ⟨_, exec_laneSignalDetect_step rfl settled hon hst, rfl, rfl, ?_, ?_⟩
      · dsimp only
        rw [lane]
      · dsimp only
        rw [lane]
        exact ⟨ctle, taps⟩
    · have hp : l.val / 4 < 2 := by omega
      have posts := (Hw.laneDown_posts h l).trans (Hw.portRefresh_posts (h.laneDown l) hp)
      have lane : ((h.laneDown l).portRefresh (l.val / 4)).lane l =
          Hw.deskewed ((h.laneDown l).latest (l.val / 4)) (Hw.lane1 (h.lane l)) := by
        rw [Hw.portRefresh_lane _ hp l.isLt, if_pos rfl, Hw.laneDown_lane _ l.isLt]
      have short : (h.laneDown l).inOrder (l.val / 4) = false := by
        refine Hw.inOrder_short (i := l.val % 4) (by omega) ?_
        rw [Nat.div_add_mod, Hw.laneDown_lane _ l.isLt]
        exact show (1 : Nat) ≠ 5 by decide
      refine ⟨_, exec_laneConditionLost_down rfl hon hl hst, rfl, rfl, posts.told, ?_⟩
      dsimp only
      rw [Hw.settle_lane, lane, Hw.settle_port, Hw.portRefresh_port _ hp, short]
      refine ⟨rfl, rfl, rfl, rfl, rfl, rfl, Bool.and_false _, fun j hj => ?_⟩
      rw [Hw.settle_lane, Hw.portRefresh_lane _ hp j.isLt, Hw.laneDown_lane_ne _ (Fin.val_ne_of_ne hj)]
      split <;> rfl
  case markers =>
    intro s dt p l0 l1 l2 l3 number skew hs h5 h htype hlanes hsteps hord a b c ha hb hc a4 b4 c4 n4 l late early good
    have settled : h.Settled := Hw.elapse_settled _ hs dt
    have stage : h.sta.stage = s.hw.sta.stage := by
      show (s.hw.elapse dt).sta.stage = _
      rw [Hw.elapse_sta]
    have hon : h.portOn p = true := Hw.portOn_of (by rw [stage]; exact h5) htype
    obtain ⟨e0, e1, e2, e3⟩ := hlanes
    obtain ⟨s0, s1, s2, s3⟩ := hsteps
    have hp : p.val < 2 := p.isLt
    have lval : l.val = 4 * p.val + 3 := Nat.mod_eq_of_lt (by omega)
    have run := exec_laneMarkerFound_step (s := s) (dt := dt) rfl (l := l) (p := p.val) (by omega) hon (by rw [lval]; exact e3 ▸ s3) number skew
    generalize hg : h.onLane l (Hw.markedLane number skew) = g at run
    have posts : Hw.Posts h (g.portRefresh p) (g.refreshNews p) := by
      subst hg
      exact ((Hw.Posts.refl h).onLane l _).trans (Hw.portRefresh_posts _ hp)
    have own : g.lane l = Hw.markedLane number skew l3 := by
      rw [← hg, Hw.onLane_lane _ _ l.isLt, ← e3, lval]
    have other {j : Nat} (hj : j ≠ l.val) : g.lane j = h.lane j := by
      rw [← hg, Hw.onLane_lane_ne _ _ hj]
    have port (j : Nat) : g.port j = h.port j := by
      rw [← hg]
      rfl
    have lanes : g.lanesOf p = [l0, l1, l2, Hw.markedLane number skew l3] := by
      rw [← own, ← e0, ← e1, ← e2, ← other (j := 4 * p.val) (by omega), ← other (j := 4 * p.val + 1) (by omega),
        ← other (j := 4 * p.val + 2) (by omega), lval]
      rfl
    have five : l0.step = 5 ∧ l1.step = 5 ∧ l2.step = 5 ∧ (Hw.markedLane number skew l3).step = 5 := ⟨s0, s1, s2, rfl⟩
    have numbers : l0.number = some a ∧ l1.number = some b ∧ l2.number = some c ∧ (Hw.markedLane number skew l3).number = some number :=
      ⟨ha, hb, hc, rfl⟩
    have latest : g.latest p = late := Hw.latest_four lanes five
    have bad : g.orderBad p = false ↔ good := Hw.orderBad_four lanes five numbers ⟨a4, b4, c4, n4⟩
    have ordered : g.inOrder p = !g.orderBad p := Hw.inOrder_four lanes five numbers
    have last : (g.portRefresh p).lane l = Hw.deskewed late (Hw.markedLane number skew l3) := by
      rw [Hw.portRefresh_lane _ hp l.isLt, if_pos (by omega), latest, own]
    have first : (g.portRefresh p).lane (4 * p.val) = Hw.deskewed late l0 := by
      rw [Hw.portRefresh_lane _ hp (by omega), if_pos (by omega), latest, other (by omega), e0]
    have delay (x : Lane) (hx : x.step = 5) : (Hw.deskewed late x).deskew = min 128 (late - x.skew) := if_pos hx
    refine ⟨_, run, rfl, rfl, posts.told, fun j hj => ?_, fun j hj => ?_, ?_⟩
    · dsimp only
      rw [Hw.settle_lane, Hw.portRefresh_lane _ hp j.isLt, if_neg hj, other]
      omega
    · dsimp only
      rw [Hw.settle_port, Hw.portRefresh_port_ne _ hp (Fin.val_ne_of_ne hj), port]
    · dsimp only
      rw [Hw.settle_lane, last, Hw.settle_lane, first, Hw.settle_port, Hw.portRefresh_port _ hp, port, ordered]
      refine ⟨rfl, rfl, delay _ rfl, delay _ s0, fun hgood => ?_, fun hgood => ?_⟩
      · have quiet : g.refreshNews p = [] := by
          rw [Hw.refreshNews, ordered, bad.mpr hgood, port, hord]
          rfl
        obtain ⟨still, lko⟩ := (posts.congr quiet).quiet settled
        rw [bad.mpr hgood, Bool.not_false, Bool.and_true, still]
        exact ⟨congrArg (fun b => ({ h.port p with aligned := true, localFault := false, orderFault := b } : Port)) hord.symm, lko⟩
      · have hbad : g.orderBad p = true := by simpa using mt bad.mp hgood
        have news : g.refreshNews p = (if (h.port p).remoteFault then [g.seen { code := 0x0305, arg := p, cease := true }] else []) ++
            [g.seen { code := 0x0306, arg := p }] := by
          rw [Hw.refreshNews, ordered, hbad, port, hord]
          exact List.append_nil _
        rw [hbad, Bool.not_true, Bool.and_false]
        refine ⟨rfl, (posts.congr news).mem_raised settled.1 (.inr ⟨g.seen { code := 0x0306, arg := p }, by simp, rfl, rfl, rfl⟩) ?_⟩
        intro x hx hc
        rcases List.mem_append.mp hx with hx | hx
        · split at hx
          · rw [List.mem_singleton.mp hx]
            exact fun e => absurd (congrArg Prod.fst e) (by decide : (0x0305 : Nat) ≠ 0x0306)
          · exact absurd hx List.not_mem_nil
        · rw [List.mem_singleton.mp hx] at hc
          exact absurd hc Bool.false_ne_true

end Sys2Proof.Machine
end

section
/-! The loss of a port's link and the eye guard of a lane (R292 to R295, R298, R299). Settles O32. -/
namespace Sys2Proof.Machine
namespace Hw

/-! ### The lanes of a port that restart (R299) -/

/-- A lane of a port that restarts: at step 1 where it is lost, at step 3 where it was past it. -/
def restarted (lost : Bool) (x : Lane) : Lane := if lost then lane1 x else if 3 ≤ x.step then lane3 x else x
/-- Lane l restarts. -/
def restartLane (lost : Nat → Bool) (h : Hw) (l : Nat) : Hw :=
  if lost l then h.laneDown l else if 3 ≤ (h.lane l).step then h.laneStep3 l else h
/-- The lanes of a port restart. -/
def restartFour (h : Hw) (p : Nat) (lost : Nat → Bool) : Hw := h.each (List.range 4) fun h i => restartLane lost h (4 * p + i)

theorem restartLane_lanes (lost : Nat → Bool) (h : Hw) (l : Nat) : (restartLane lost h l).lanes = updN h.lanes l (restarted (lost l)) := by
  have at_ (f : Lane → Lane) (hf : restarted (lost l) (h.lane l) = f (h.lane l)) : updN h.lanes l (restarted (lost l)) = updN h.lanes l f :=
    updN_congr ({} : Lane) hf
  unfold restartLane
  split
  · rename_i hl
    rw [laneDown_lanes, at_ lane1 (if_pos hl)]
  · rename_i hl
    split
    · rename_i h3
      rw [laneStep3_lanes, at_ lane3 ((if_neg hl).trans (if_pos h3))]
    · rename_i h3
      rw [at_ (fun x => x) ((if_neg hl).trans (if_neg h3)), updN_id]

theorem restartLane_ports (lost : Nat → Bool) (h : Hw) (l : Nat) : (restartLane lost h l).ports = h.ports := by
  unfold restartLane
  split
  · exact laneDown_ports ..
  · split
    · exact laneStep3_ports ..
    · rfl

/-- What only ends the freezes of lanes. -/
def Thaws (h g : Hw) : Prop := ∃ xs, Posts h g xs ∧ ∀ x ∈ xs, x.cease = true ∧ x.code = 0x0308

theorem Thaws.trans {h g k : Hw} (a : Thaws h g) (b : Thaws g k) : Thaws h k := by
  obtain ⟨xs, ax, hx⟩ := a
  obtain ⟨ys, by_, hy⟩ := b
  exact ⟨xs ++ ys, ax.trans by_, fun z hz => (List.mem_append.mp hz).elim (hx z) (hy z)⟩

theorem thawNews_ends (h : Hw) (l : Nat) : ∀ x ∈ h.thawNews l, x.cease = true ∧ x.code = 0x0308 := by
  intro x hx
  unfold thawNews at hx
  split at hx
  · rw [List.mem_singleton.mp hx]
    exact ⟨rfl, rfl⟩
  · exact absurd hx List.not_mem_nil

theorem restartLane_thaws (lost : Nat → Bool) (h : Hw) (l : Nat) : Thaws h (restartLane lost h l) := by
  unfold restartLane
  split
  · exact ⟨_, laneDown_posts h l, thawNews_ends h l⟩
  · split
    · exact ⟨_, laneStep3_posts h l, thawNews_ends h l⟩
    · exact ⟨[], Posts.refl h, fun _ hx => absurd hx List.not_mem_nil⟩

section
variable (h : Hw) (p : Nat) (lost : Nat → Bool)

theorem restartFour_thaws : Thaws h (h.restartFour p lost) :=
  each_induct (P := Thaws h) (fun g i _ e => e.trans (restartLane_thaws lost g (4 * p + i)))
    ⟨[], Posts.refl h, fun _ hx => absurd hx List.not_mem_nil⟩

theorem restartFour_ports : (h.restartFour p lost).ports = h.ports :=
  each_keep Hw.ports _ (fun g i => restartLane_ports lost g (4 * p + i)) _ h

theorem restartFour_lanes : (h.restartFour p lost).lanes = onFour h.lanes p fun i => restarted (lost (4 * p + i)) := by
  unfold restartFour onFour
  generalize List.range 4 = l
  induction l generalizing h with
  | nil => rfl
  | cons i r ih => rw [each_cons, ih, restartLane_lanes, List.foldl_cons]

theorem restartFour_lane {j : Nat} (hj : j < 8) :
    (h.restartFour p lost).lane j = if j / 4 = p then restarted (lost j) (h.lane j) else h.lane j := by
  rw [lane, restartFour_lanes, getN_onFour _ hj]
  split
  · rename_i hp
    rw [← hp, Nat.div_add_mod]
    rfl
  · rfl

end

theorem restarted_step (lost : Bool) (x : Lane) : (restarted lost x).step = if lost then 1 else if 3 ≤ x.step then 3 else x.step := by
  unfold restarted
  split
  · rfl
  · split <;> rfl

/-- No lane of the port has found its markers after that. -/
theorem restartFour_short (h : Hw) {p : Nat} (hp : p < 2) (lost : Nat → Bool) :
    (h.restartFour p lost).orderBad p = false ∧ (h.restartFour p lost).inOrder p = false := by
  have short (i : Nat) (hi : i < 4) : ((h.restartFour p lost).lane (4 * p + i)).step ≠ 5 := by
    rw [restartFour_lane _ _ _ (by omega), if_pos (by omega), restarted_step]
    split
    · decide
    · split
      · decide
      · omega
  exact ⟨orderBad_none short, inOrder_short (i := 0) (by decide) (short 0 (by decide))⟩

/-! ### The loss of link (R298, R299) -/

/-- A port that has lost link. -/
def droppedPort (x : Port) (cause up : Nat) : Port :=
  { x with linkUp := false, downCause := cause, downAt := some up, restarted := false, linkDowns := inc x.linkDowns, errored := true, rclk := false }

/-- What tells the lanes that are lost. -/
def lostOf (lost : List LaneId) (l : Nat) : Bool := lost.any fun k => k.val == l

/-- The loss of link, its lanes and its port not yet refreshed. -/
def dropped (h : Hw) (p : PortId) (cause : Nat) (lost : List LaneId) : Hw :=
  (((h.onPort p fun x => droppedPort x cause h.up).remoteFault p false).alarm 0x0303 ((p.val * 256 + cause : Nat) : Int)).restartFour p (lostOf lost)

theorem linkDown_eq (h : Hw) (p : PortId) (cause : Nat) (lost : List LaneId) :
    h.linkDown p cause lost = (h.dropped p cause lost).portRefresh p := rfl

theorem mem_ite_singleton {α : Type} {c : Bool} {x y : α} (hx : x ∈ if c then [y] else []) : x = y := by
  split at hx
  · exact List.mem_singleton.mp hx
  · exact absurd hx List.not_mem_nil

theorem remoteNews_code {h : Hw} {p : Nat} {on : Bool} {x : Happening} (hx : x ∈ h.remoteNews p on) : x.code = 0x0305 := by
  rcases List.mem_append.mp hx with hx | hx <;> rw [mem_ite_singleton hx] <;> rfl

theorem refreshNews_code {h : Hw} {p : Nat} {x : Happening} (hx : x ∈ h.refreshNews p) : x.code = 0x0305 ∨ x.code = 0x0306 := by
  rcases List.mem_append.mp hx with hx | hx
  · rcases List.mem_append.mp hx with hx | hx
    · rw [mem_ite_singleton hx]
      exact .inl rfl
    · rw [mem_ite_singleton hx]
      exact .inr rfl
  · rw [mem_ite_singleton hx]
    exact .inr rfl

section
variable (h : Hw) (p : PortId) (cause : Nat) (lost : List LaneId)

theorem linkDown_lane {j : Nat} (hj : j < 8) : (h.linkDown p cause lost).lane j =
    if j / 4 = p.val then deskewed ((h.dropped p cause lost).latest p) (restarted (lostOf lost j) (h.lane j)) else h.lane j := by
  have before (g : Nat) : ((((h.onPort p fun x => droppedPort x cause h.up).remoteFault p false).alarm 0x0303
      ((p.val * 256 + cause : Nat) : Int)).lane g) = h.lane g :=
    congrArg (getN · g ({} : Lane)) (remoteFault_lanes (h.onPort p fun x => droppedPort x cause h.up) p false)
  rw [linkDown_eq, portRefresh_lane _ p.isLt hj, dropped, restartFour_lane _ _ _ hj, before]
  split <;> rfl

theorem linkDown_port : (h.linkDown p cause lost).port p = { droppedPort (h.port p) cause h.up with
    orderFault := false, aligned := false, localFault := true, remoteFault := false } := by
  obtain ⟨bad, al⟩ := restartFour_short (((h.onPort p fun x => droppedPort x cause h.up).remoteFault p false).alarm 0x0303
    ((p.val * 256 + cause : Nat) : Int)) p.isLt (lostOf lost)
  have before : (h.dropped p cause lost).port p = { droppedPort (h.port p) cause h.up with remoteFault := false } := by
    have ports : (h.dropped p cause lost).ports = updN (updN h.ports p fun x => droppedPort x cause h.up) p fun x => { x with remoteFault := false } :=
      (restartFour_ports _ _ _).trans (remoteFault_ports (h.onPort p fun x => droppedPort x cause h.up) p false)
    rw [port, ports, updN_updN, getN_updN_same _ _ _ p.isLt]
    rfl
  rw [linkDown_eq, portRefresh_port _ p.isLt, before, show (h.dropped p cause lost).orderBad p = false from bad,
    show (h.dropped p cause lost).inOrder p = false from al]
  rfl

/-- The loss of link raises LANE_LINK_DOWN and ends other alarms. -/
theorem linkDown_posts : ∃ xs ys, Posts h (h.linkDown p cause lost) (xs ++ ys) ∧
    (∀ x ∈ xs ++ ys, x.cease = true → x.code ≠ 0x0303) ∧
    h.seen { code := 0x0303, arg := ((p.val * 256 + cause : Nat) : Int) } ∈ xs := by
  obtain ⟨zs, thaws, ends⟩ := restartFour_thaws (((h.onPort p fun x => droppedPort x cause h.up).remoteFault p false).alarm 0x0303
    ((p.val * 256 + cause : Nat) : Int)) p (lostOf lost)
  have fault := ((Posts.refl h).onPort p fun x => droppedPort x cause h.up).trans (remoteFault_posts _ p false)
  have raised := fault.happen { code := 0x0303, arg := ((p.val * 256 + cause : Nat) : Int) }
  have refreshed := portRefresh_posts (h.dropped p cause lost) p.isLt
  refine ⟨_, _, (raised.trans thaws).trans refreshed, ?_, ?_⟩
  · intro x hx hc
    rcases List.mem_append.mp hx with hx | hx
    · rcases List.mem_append.mp hx with hx | hx
      · rcases List.mem_append.mp hx with hx | hx
        · rw [remoteNews_code hx]
          decide
        · rw [List.mem_singleton.mp hx] at hc
          exact absurd hc Bool.false_ne_true
      · rw [(ends x hx).2]
        decide
    · rcases refreshNews_code hx with e | e <;> rw [e] <;> decide
  · exact List.mem_append_left _ (List.mem_append_right _ (List.mem_singleton.mpr rfl))

/-- LANE_LINK_DOWN stands after the loss of link. -/
theorem linkDown_raised (hp : h.lko.pend = []) : (0x0303, ((p.val * 256 + cause : Nat) : Int)) ∈ (h.linkDown p cause lost).settle.lko.raised := by
  obtain ⟨xs, ys, posts, ends, mem⟩ := h.linkDown_posts p cause lost
  exact posts.mem_raised hp (.inr ⟨_, List.mem_append_left _ mem, rfl, rfl, rfl⟩) fun x hx hc e => ends x hx hc (congrArg Prod.fst e)

theorem linkDown_told : (h.linkDown p cause lost).settle =
    ({ h with lanes := (h.linkDown p cause lost).settle.lanes, ports := (h.linkDown p cause lost).settle.ports } : Hw).told
      (h.linkDown p cause lost).settle := by
  obtain ⟨xs, ys, posts, -, -⟩ := h.linkDown_posts p cause lost
  exact posts.told

end

end Hw
/-! ### The eye guard (R292 to R295) -/

namespace Hw

theorem onLane_congr (h : Hw) (l : Nat) {f g : Lane → Lane} (e : f (h.lane l) = g (h.lane l)) :
    h.onLane l f = { h with lanes := updN h.lanes l g } := congrArg (fun v => { h with lanes := v }) (updN_congr ({} : Lane) e)

/-- What an eye interval leaves of the equaliser's values: a frozen one keeps them. -/
def eyeEq (x : Lane) (m : EyeMeas) : EyeMeas :=
  if x.adapt == 3 then { m with ctle := x.ctle, taps := x.taps } else { m with ctle := (adaptedEq x m).ctle, taps := (adaptedEq x m).taps }
/-- The eye as an interval shows it. -/
def eyeShown (x : Lane) (m : EyeMeas) : Lane := { x with ew := m.ew, eh := m.eh, ehMax := if 4 ≤ x.step then Nat.max x.ehMax m.eh else x.ehMax }
/-- The snapshot rule. -/
def eyeSnapped (x : Lane) : Lane :=
  if 4 ≤ x.step ∧ 3 * x.ehMax ≤ 4 * x.eh then { x with snapValid := true, snapCtle := x.ctle, snapTaps := x.taps, ehSnap := x.eh } else x
/-- A lane at the end of an eye interval. -/
def eyeLane (acts : Bool) (m : EyeMeas) (x : Lane) : Lane :=
  if x.step < 3 then eyeShown x m
  else if acts then snapEq (eyeShown x m)
  else eyeSnapped { eyeShown x m with ctle := m.ctle, taps := m.taps }
/-- The guard acts. -/
def eyeActs (h : Hw) (l : LaneId) (m : EyeMeas) : Bool :=
  decide (3 ≤ (h.lane l).step) && !((h.lane l).adapt == 3) && guardActs (h.driftThr (l.val / 4)) (h.lane l) (eyeEq (h.lane l) m)
/-- The guard's actions within the last second. -/
def eyeRecent (h : Hw) (l : LaneId) : List Nat := (h.up :: (h.lane l).acts).filter fun c => decide (h.up < c + Config.fc)
/-- The guard's action: it is counted and raised, and the fourth freezes the equaliser. -/
def eyeGuarded (h : Hw) (l : LaneId) (recent : List Nat) : Hw :=
  (((h.onLane l fun x => { x with reverts := inc x.reverts, acts := recent }).alarm 0x0307 l).whenB (decide (4 ≤ recent.length))) fun h =>
    (h.onLane l fun x => { x with adapt := 3 }).alarm 0x0308 l

end Hw

section
variable {s : State} {dt : Nat} {h : Hw} (he : s.hw.elapse dt = h) {l : LaneId} {m : EyeMeas}
include he

/-- A frozen equaliser ends its freeze past step 3. -/
theorem exec_laneFreezeEnd_due (hst : 4 ≤ (h.lane l).step) {c : Nat} {r : List Nat} (ha : (h.lane l).adapt = 3) (hx : (h.lane l).acts = c :: r)
    (hc : c + 983040000 ≤ h.up) : execLaneFreezeEnd dt l s = .next { s with hw := (({ h with
      lanes := updN h.lanes l fun x => { x with adapt := 2, acts := [] } } : Hw).cease 0x0308 l).settle } := by
  have due : ((h.lane l).adapt == 3 && (h.lane l).acts.head?.any fun c => decide (c + Config.fc ≤ h.up)) = true := by
    rw [ha, hx, List.head?_cons, Option.any_some, decide_eq_true (show c + Config.fc ≤ h.up from hc)]
    rfl
  have lane : (h.onLane l fun x => { x with adapt := if x.step = 3 then 1 else 2, acts := [] }) =
      { h with lanes := updN h.lanes l fun x => { x with adapt := 2, acts := [] } } :=
    h.onLane_congr l (congrArg (fun a => ({ h.lane l with adapt := a, acts := [] } : Lane)) (if_neg (show ¬ (h.lane l).step = 3 by omega)))
  unfold execLaneFreezeEnd
  rw [ok_eq, he]
  dsimp only
  rw [due, Hw.whenB_true, lane]

variable (hon : h.portOn (l.val / 4) = true) (hst : 4 ≤ (h.lane l).step)
include hon hst

/-- An eye below the lock level. -/
theorem exec_laneEyeInterval_low (hl : m.eh < lockLevel (h.portType (l.val / 4))) :
    execLaneEyeInterval dt l m s = .next { s with hw := (h.eyeLost l m).settle } := by
  have on : (h.portOn (l.val / 4) && decide (1 ≤ (h.lane l).step)) = true := by
    rw [hon, decide_eq_true (show 1 ≤ (h.lane l).step by omega)]
    rfl
  unfold execLaneEyeInterval
  rw [ok_eq, he]
  dsimp only
  rw [on, Hw.whenB_true, if_pos ⟨hst, hl⟩]

/-- An eye at or above it. -/
theorem exec_laneEyeInterval_open (hl : ¬ m.eh < lockLevel (h.portType (l.val / 4))) :
    execLaneEyeInterval dt l m s = .next { s with hw := ((h.onLane l (Hw.eyeLane (h.eyeActs l m) (Hw.eyeEq (h.lane l) m))).whenB (h.eyeActs l m)
      fun g => g.eyeGuarded l (h.eyeRecent l)).settle } := by
  have on : (h.portOn (l.val / 4) && decide (1 ≤ (h.lane l).step)) = true := by
    rw [hon, decide_eq_true (show 1 ≤ (h.lane l).step by omega)]
    rfl
  unfold execLaneEyeInterval
  rw [ok_eq, he]
  extract_lets +onlyGivenNames p x
  rw [on, Hw.whenB_true, if_neg fun c => hl c.2]
  extract_lets frozen m' acts h1
  have lane : h1 = h.onLane l (Hw.eyeLane (h.eyeActs l m) (Hw.eyeEq (h.lane l) m)) := rfl
  have same : acts = h.eyeActs l m := rfl
  rw [lane, same]
  cases h.eyeActs l m
  · rw [Hw.whenB_false, Hw.whenB_false]
  · rw [Hw.whenB_true, Hw.whenB_true, show (h.onLane l (Hw.eyeLane true (Hw.eyeEq (h.lane l) m))).up = h.up from rfl]
    rfl

end
namespace Hw

/-- When the guard acts (R293). -/
theorem guardActs_iff (thr : Int) (x : Lane) (m : EyeMeas) : guardActs thr x m = true ↔
    m.ctle = 0 ∨ m.ctle = 31 ∨ (∃ t ∈ m.taps, t = -64 ∨ t = 63) ∨
      m.eh < x.eh ∧ ∃ i < 12, thr < m.taps.getD i 0 - x.taps.getD i 0 ∨ m.taps.getD i 0 - x.taps.getD i 0 < -thr := by
  have drift (d : Int) : thr < -d ↔ d < -thr := by omega
  simp only [guardActs, Bool.or_eq_true, Bool.and_eq_true, beq_iff_eq, List.any_eq_true, decide_eq_true_eq, List.mem_range, drift, or_assoc]

/-- The scales of an eye interval's values, where the equaliser is not frozen. -/
theorem eyeEq_adapting {x : Lane} (m : EyeMeas) (ha : x.adapt ≠ 3) : eyeEq x m =
    { m with ctle := min 31 m.ctle, taps := (List.range 12).map fun j => max (-64) (min 63 (m.taps.getD j 0)) } := by
  rw [eyeEq, beq_false_of_ne ha, if_neg Bool.false_ne_true, adaptedEq_eq]

theorem eyeEq_frozen {x : Lane} (m : EyeMeas) (ha : x.adapt = 3) : eyeEq x m = { m with ctle := x.ctle, taps := x.taps } := by
  rw [eyeEq, ha]
  rfl

theorem driftThr_eq (h : Hw) (p : Nat) : h.driftThr p = 4 * 2 ^ (h.portCfg p / 64 % 4) := by
  rw [driftThr, bits, Nat.shiftRight_eq_div_pow]
  rfl

theorem eyeActs_adapting {h : Hw} {l : LaneId} {m : EyeMeas} (hst : 4 ≤ (h.lane l).step) (ha : (h.lane l).adapt ≠ 3) :
    h.eyeActs l m = guardActs (h.driftThr (l.val / 4)) (h.lane l) (eyeEq (h.lane l) m) := by
  rw [eyeActs, decide_eq_true (show 3 ≤ (h.lane l).step by omega), beq_false_of_ne ha]
  rfl

theorem eyeActs_frozen {h : Hw} {l : LaneId} {m : EyeMeas} (ha : (h.lane l).adapt = 3) : h.eyeActs l m = false := by
  rw [eyeActs, ha]
  simp

/-- The eye as an interval shows it past step 3. -/
theorem eyeShown_past {x : Lane} (m : EyeMeas) (hst : 4 ≤ x.step) : eyeShown x m = { x with ew := m.ew, eh := m.eh, ehMax := max x.ehMax m.eh } := by
  rw [eyeShown, if_pos hst]

/-- Past step 3 the snapshot follows the values while the eye is at least three quarters of the highest. -/
theorem eyeLane_kept {x : Lane} (m : EyeMeas) (hst : 4 ≤ x.step) : eyeLane false m x =
    let y := { x with ew := m.ew, eh := m.eh, ehMax := max x.ehMax m.eh, ctle := m.ctle, taps := m.taps }
    if 3 * max x.ehMax m.eh ≤ 4 * m.eh then { y with snapValid := true, snapCtle := m.ctle, snapTaps := m.taps, ehSnap := m.eh } else y := by
  rw [eyeLane, if_neg (by omega), if_neg Bool.false_ne_true, eyeShown_past m hst, eyeSnapped]
  exact if_congr (and_iff_right hst) rfl rfl

/-- Where the guard acts the equaliser returns to its snapshot. -/
theorem eyeLane_acted {x : Lane} (m : EyeMeas) (hst : 4 ≤ x.step) (hv : x.snapValid = true) : eyeLane true m x =
    { x with ew := m.ew, eh := m.eh, ehMax := max x.ehMax m.eh, ctle := x.snapCtle, taps := x.snapTaps } := by
  rw [eyeLane, if_neg (by omega), if_pos rfl, eyeShown_past m hst, snapEq, if_pos hv]

/-- A lane to which the guard has returned its snapshot. -/
def guardedLane (recent : List Nat) (x : Lane) : Lane := { x with reverts := inc x.reverts, acts := recent }

theorem eyeGuarded_eq (h : Hw) (l : LaneId) (recent : List Nat) (f : Lane → Lane) : (h.onLane l f).eyeGuarded l recent =
    if recent.length < 4 then (h.onLane l fun _ => guardedLane recent (f (h.lane l))).alarm 0x0307 l
    else ((h.onLane l fun _ => { guardedLane recent (f (h.lane l)) with adapt := 3 }).alarm 0x0307 l).alarm 0x0308 l := by
  have twice (g : Lane → Lane) : (h.onLane l f).onLane l g = h.onLane l fun _ => g (f (h.lane l)) :=
    congrArg (fun v => { h with lanes := v }) ((updN_updN ..).trans (updN_congr ({} : Lane) rfl))
  have thrice : ((h.onLane l f).onLane l (guardedLane recent)).onLane l (fun x => { x with adapt := 3 }) =
      h.onLane l fun _ => { guardedLane recent (f (h.lane l)) with adapt := 3 } := by
    rw [twice]
    exact congrArg (fun v => { h with lanes := v }) (updN_updN ..)
  by_cases hn : recent.length < 4
  · rw [eyeGuarded, decide_eq_false (by omega), if_pos hn, whenB_false, ← twice (guardedLane recent)]
    rfl
  · rw [eyeGuarded, decide_eq_true (by omega), if_neg hn, whenB_true, ← thrice]
    rfl

end Hw

/-- Settles O32: the eye is low, or the equaliser is frozen, or the guard acts or does not; and the end of a freeze. -/
theorem eyeGuard : Obligations.EyeGuard := by
  intro s dt l m hs h5 h x type top thr ct tp acts low htype hst
  have settled : h.Settled := Hw.elapse_settled _ hs dt
  have stage : h.sta.stage = s.hw.sta.stage := by
    show (s.hw.elapse dt).sta.stage = _
    rw [Hw.elapse_sta]
  have hon : h.portOn (l.val / 4) = true := Hw.portOn_of (by rw [stage]; exact h5) htype
  have hacts (ha : x.adapt ≠ 3) : h.eyeActs l m = true ↔ acts := by
    rw [Hw.eyeActs_adapting hst ha, Hw.guardActs_iff, Hw.eyeEq_adapting m ha, Hw.driftThr_eq]
  refine ⟨fun hlow ha hno => ?_, fun hlow ha hact hv => ?_, fun hlow => ?_, fun hlow ha => ?_, fun c r => exec_laneFreezeEnd_due rfl hst⟩
  · have still : h.eyeActs l m = false := Bool.eq_false_iff.mpr (mt (hacts ha).mp hno)
    refine (exec_laneEyeInterval_open rfl hon hst hlow).trans (congrArg (fun g => Host.Outcome.next { s with hw := g }) ?_)
    rw [still, Hw.whenB_false, Hw.settle_of_settled _ (by exact settled), Hw.eyeEq_adapting m ha]
    exact h.onLane_congr l (Hw.eyeLane_kept _ hst)
  · intro recent back
    have acted : h.eyeActs l m = true := (hacts ha).mpr hact
    refine (exec_laneEyeInterval_open rfl hon hst hlow).trans (congrArg (fun g => Host.Outcome.next { s with hw := g }) ?_)
    have lane : Hw.guardedLane recent (Hw.eyeLane true { m with ctle := ct, taps := tp } x) = back := by
      rw [Hw.eyeLane_acted _ hst hv]
      rfl
    rw [acted, Hw.whenB_true, Hw.eyeEq_adapting m ha, Hw.eyeGuarded_eq]
    show (if recent.length < 4 then (h.onLane l fun _ => Hw.guardedLane recent (Hw.eyeLane true { m with ctle := ct, taps := tp } x)).alarm 0x0307 l
      else ((h.onLane l fun _ => { Hw.guardedLane recent (Hw.eyeLane true { m with ctle := ct, taps := tp } x) with
        adapt := 3 }).alarm 0x0307 l).alarm 0x0308 l).settle = _
    rw [lane]
    rfl
  · refine ⟨_, exec_laneEyeInterval_low rfl hon hst hlow, rfl, rfl, ?_⟩
    dsimp only
    generalize hg : h.onLane l (fun x => { x with ew := m.ew, eh := m.eh }) = g
    have lost : h.eyeLost l m = if (h.port (l.val / 4)).linkUp then g.linkDown (Fin.ofNat 2 (l.val / 4)) 3 [l] else
        (g.laneDown l).portRefresh (l.val / 4) := by
      rw [← hg]
      rfl
    have hp : l.val / 4 < 2 := by omega
    have port : (Fin.ofNat 2 (l.val / 4)).val = l.val / 4 := Nat.mod_eq_of_lt hp
    have start : Hw.Posts h g [] := by
      rw [← hg]
      exact (Hw.Posts.refl h).onLane l _
    rw [lost]
    cases hl : (h.port (l.val / 4)).linkUp
    · have posts := start.trans ((Hw.laneDown_posts g l).trans (Hw.portRefresh_posts (g.laneDown l) hp))
      have lane : ((g.laneDown l).portRefresh (l.val / 4)).lane l = Hw.deskewed ((g.laneDown l).latest (l.val / 4)) (Hw.lane1 (g.lane l)) := by
        rw [Hw.portRefresh_lane _ hp l.isLt, if_pos rfl, Hw.laneDown_lane _ l.isLt]
      have short : (g.laneDown l).inOrder (l.val / 4) = false := by
        refine Hw.inOrder_short (i := l.val % 4) (by omega) ?_
        rw [Nat.div_add_mod, Hw.laneDown_lane _ l.isLt]
        exact show (1 : Nat) ≠ 5 by decide
      refine ⟨posts.told, ?_⟩
      rw [if_neg Bool.false_ne_true, Hw.settle_lane, lane, Hw.settle_port, Hw.portRefresh_port _ hp, short]
      exact ⟨rfl, rfl, rfl, rfl, fun e => absurd e Bool.false_ne_true⟩
    · obtain ⟨xs, ys, posts, ends, mem⟩ := g.linkDown_posts (Fin.ofNat 2 (l.val / 4)) 3 [l]
      have gone : Hw.lostOf [l] l = true := by
        rw [Hw.lostOf, List.any_cons, beq_self_eq_true]
        rfl
      have lane := g.linkDown_lane (Fin.ofNat 2 (l.val / 4)) 3 [l] l.isLt
      have p := g.linkDown_port (Fin.ofNat 2 (l.val / 4)) 3 [l]
      rw [if_pos port.symm, gone] at lane
      rw [port] at p mem
      have all := (start.trans posts).congr (List.nil_append _)
      have raised : (0x0303, ((l.val / 4 * 256 + 3 : Nat) : Int)) ∈ _ := all.mem_raised settled.1
        (.inr ⟨g.seen { code := 0x0303, arg := ((l.val / 4 * 256 + 3 : Nat) : Int) }, List.mem_append_left _ mem, rfl, rfl, rfl⟩)
        fun x hx hc e => ends x hx hc (congrArg Prod.fst e)
      refine ⟨all.told, ?_⟩
      rw [if_pos rfl, Hw.settle_lane, lane, Hw.settle_port, p]
      exact ⟨rfl, rfl, rfl, rfl, fun _ => ⟨rfl, rfl, raised⟩⟩
  · have still : h.eyeActs l m = false := Hw.eyeActs_frozen ha
    have lane : (h.onLane l (Hw.eyeLane false { m with ctle := x.ctle, taps := x.taps })).lane l =
        Hw.eyeLane false { m with ctle := x.ctle, taps := x.taps } x := Hw.onLane_lane _ _ l.isLt
    refine ⟨_, exec_laneEyeInterval_open rfl hon hst hlow, rfl, rfl, ?_⟩
    dsimp only
    rw [still, Hw.whenB_false, Hw.settle_of_settled _ (by exact settled), Hw.eyeEq_frozen m ha]
    refine ⟨rfl, fun j hj => Hw.onLane_lane_ne _ _ (Fin.val_ne_of_ne hj), ?_⟩
    rw [lane, Hw.eyeLane_kept _ hst]
    dsimp only
    split
    · exact ⟨rfl, rfl, rfl, ha⟩
    · exact ⟨rfl, rfl, rfl, ha⟩

end Sys2Proof.Machine
end

section
/-! The link of a port (R290, R298, R299, R401), its faults and its error counts (R284, R286, R296, R297). Settles O31. -/
namespace Sys2Proof.Machine
namespace Hw

/-! ### Alarms ended, and happenings in the log -/

theorem raisedAfter_nodup {r : List (Nat × Int)} (x : Happening) (hr : r.Nodup) : (raisedAfter r x).Nodup := by
  unfold raisedAfter
  split
  · split
    · exact hr.erase _
    · split
      · exact hr
      · rename_i hc
        exact List.nodup_append.mpr ⟨hr, List.nodup_singleton _, fun a ha b hb e => hc (by
          rw [← List.mem_singleton.mp hb, ← e]
          simpa using ha)⟩
  · exact hr

/-- What does not stand and is not raised does not stand after. -/
theorem not_mem_raisedAfter {k : Nat × Int} {r : List (Nat × Int)} {x : Happening} (hk : k ∉ r) (hx : x.cease = false → (x.code, x.arg) ≠ k) :
    k ∉ raisedAfter r x := by
  unfold raisedAfter
  split
  · split
    · exact fun h => hk (List.mem_of_mem_erase h)
    · split
      · exact hk
      · rename_i hc _
        exact fun h => (List.mem_append.mp h).elim hk fun h => hx (Bool.eq_false_iff.mpr hc) (List.mem_singleton.mp h).symm
  · exact hk

theorem not_mem_foldl_raisedAfter {k : Nat × Int} {l : List Happening} {r : List (Nat × Int)} (hr : r.Nodup)
    (hk : k ∉ r ∨ ∃ x ∈ l, isState x.code = true ∧ x.cease = true ∧ (x.code, x.arg) = k)
    (hl : ∀ x ∈ l, x.cease = false → (x.code, x.arg) ≠ k) : k ∉ l.foldl raisedAfter r := by
  induction l generalizing r with
  | nil =>
    rcases hk with hk | ⟨x, hx, -⟩
    · exact hk
    · exact absurd hx List.not_mem_nil
  | cons x l ih =>
    refine ih (raisedAfter_nodup x hr) ?_ fun y hy => hl y (List.mem_cons_of_mem x hy)
    rcases hk with hk | ⟨y, hy, hs, hc, he⟩
    · exact .inl (not_mem_raisedAfter hk (hl x (List.mem_cons_self ..)))
    · rcases List.mem_cons.mp hy with rfl | hy
      · left
        rw [raisedAfter, if_pos hs, if_pos hc, he]
        exact fun h => ((List.Nodup.mem_erase_iff hr).mp h).1 rfl
      · exact .inr ⟨y, hy, hs, hc, he⟩

/-- A happening is passed over or becomes the newest entry. -/
theorem take1_entries_of (h : Hw) (x : Happening) :
    (h.take1 x).entries = if h.passesOver x then h.entries else (mark x :: h.entries).take 4096 := by
  by_cases hd : h.passesOver x = true
  · rw [take1_passed h x hd, if_pos hd]
  · have log : (h.take1 x).lko.log = (h.logEntry x (h.sentNow x)).lko.log := by
      rw [take1_lko h x (Bool.eq_false_iff.mpr hd)]
      split
      · rfl
      · split <;> rfl
    rw [if_neg hd, entries, log, logEntry, List.map_take]
    rfl

/-- An entry stays in the log while fewer happenings come than it holds. -/
theorem each_take1_keeps {l : List Happening} {h : Hw} {m : Nat × Int × Bool} {n : Nat} (hm : m ∈ h.entries.take n) (hn : n + l.length ≤ 4096) :
    m ∈ (h.each l take1).entries.take (n + l.length) := by
  induction l generalizing h n with
  | nil => exact hm
  | cons x l ih =>
    rw [List.length_cons] at hn ⊢
    have next : m ∈ (h.take1 x).entries.take (n + 1) := by
      rw [take1_entries_of]
      split
      · exact List.mem_of_mem_take (List.take_take ▸ (by rw [Nat.min_eq_left (Nat.le_succ n)]; exact hm) : m ∈ (h.entries.take (n + 1)).take n)
      · rw [List.take_take, Nat.min_eq_left (by omega), List.take_succ_cons]
        exact List.mem_cons_of_mem _ hm
    rw [each_cons, show n + (l.length + 1) = n + 1 + l.length by omega]
    exact ih next (by omega)

/-- An alarm that is no state alarm is in the log after its instant. -/
theorem settle_logs {h : Hw} {x : Happening} (hx : x ∈ h.lko.pend) (hs : isState x.code = false) (hn : h.lko.pend.length ≤ 4096) :
    mark x ∈ h.settle.entries := by
  have perm := sortBy_perm order h.lko.pend
  have len := perm.length_eq
  show mark x ∈ (({ h with lko := { h.lko with pend := [] } } : Hw).each (sortBy order h.lko.pend) take1).entries
  obtain ⟨l1, l2, e⟩ := List.append_of_mem (perm.mem_iff.mpr hx)
  rw [e] at len ⊢
  rw [List.length_append, List.length_cons] at len
  have split (g : Hw) : g.each (l1 ++ x :: l2) take1 = ((g.each l1 take1).take1 x).each l2 take1 := by simp [each]
  rw [split]
  refine List.mem_of_mem_take (each_take1_keeps (n := 1) ?_ (by omega))
  rw [take1_entries_of, passesOver, hs, Bool.false_and, if_neg Bool.false_ne_true, List.take_take]
  exact List.mem_cons_self ..

/-! ### Link (R290) -/

/-- `g` is `h` but for what sending the alarms that stand changes: SENT of their entries, and the queue (R401). -/
def Resent (h g : Hw) : Prop :=
  g = { h with
    lko := { h.lko with log := g.lko.log }
    fhl := { h.fhl with queue := g.fhl.queue, indCount := g.fhl.indCount, refusalLost := g.fhl.refusalLost } } ∧ g.entries = h.entries

theorem Resent.trans {h g k : Hw} (a : Resent h g) (b : Resent g k) : Resent h k := by
  obtain ⟨a, ae⟩ := a
  obtain ⟨b, be⟩ := b
  refine ⟨?_, be.trans ae⟩
  rw [b, a]

theorem indicate_resent (h : Hw) (d : Nat) (v : Option Nat) (ty : Nat) (els : List Bytes) : Resent h (h.indicate d v ty els) := by
  refine ⟨?_, by rw [entries, indicate_lko, entries]⟩
  unfold indicate
  split <;> rfl

theorem sendAlarm_resent (h : Hw) (x : Happening) : Resent h (h.sendAlarm x) := by
  unfold sendAlarm
  split
  · exact ⟨rfl, rfl⟩
  · exact indicate_resent ..

/-- SENT of an entry of the log does not change what the entry shows. -/
theorem resent_entries (h : Hw) (e : LogEnt) (b : Bool) :
    ({ h with lko := { h.lko with log := h.lko.log.map fun x => if x = e then { x with sent := b } else x } } : Hw).entries = h.entries := by
  rw [entries, List.map_map]
  refine List.map_congr_left fun x _ => ?_
  show ((if x = e then { x with sent := b } else x : LogEnt).code, (if x = e then { x with sent := b } else x : LogEnt).arg,
    (if x = e then { x with sent := b } else x : LogEnt).cease) = _
  split <;> rfl

theorem sendRaised_resent (h : Hw) : Resent h (sendRaised h) := by
  refine each_induct (P := Resent h) (fun g k _ a => a.trans ?_) ⟨rfl, rfl⟩
  dsimp only
  split
  · rename_i e _
    exact (sendAlarm_resent g _).trans ⟨rfl, resent_entries _ e _⟩
  · exact sendAlarm_resent g _

/-- A port that has got link. -/
def linkedPort (x : Port) (p : PortId) (up : Nat) : Port :=
  { x with
    linkUp := true, localFault := false, errored := false, judged := false, restarted := false, downAt := none, rclk := p.val == 0
    linkTime := match x.downAt with
      | some c => usOf (up - c)
      | none => x.linkTime }

/-- Link raised, and the loss before it ended. -/
def gotLink (h : Hw) (p : PortId) : Hw :=
  ((h.onPort p fun x => linkedPort x p h.up).alarm 0x0302 p).whenB (h.port p).downAt.isSome fun g =>
    g.cease 0x0303 ((p.val * 256 + (h.port p).downCause : Nat) : Int)

/-- The happenings of that. -/
def linkedNews (h : Hw) (p : PortId) : List Happening :=
  [h.seen { code := 0x0302, arg := p }] ++ if (h.port p).downAt.isSome then
    [h.seen { code := 0x0303, arg := ((p.val * 256 + (h.port p).downCause : Nat) : Int), cease := true }] else []

theorem gotLink_posts (h : Hw) (p : PortId) : Posts h (h.gotLink p) (h.linkedNews p) :=
  (((Posts.refl h).onPort p fun x => linkedPort x p h.up).happen { code := 0x0302, arg := p }).whenHappen _
    { code := 0x0303, arg := ((p.val * 256 + (h.port p).downCause : Nat) : Int), cease := true }

theorem gotLink_ports (h : Hw) (p : PortId) : (h.gotLink p).ports = updN h.ports p fun x => linkedPort x p h.up := whenB_keep Hw.ports _ _ _ rfl
theorem gotLink_lanes (h : Hw) (p : PortId) : (h.gotLink p).lanes = h.lanes := whenB_keep Hw.lanes _ _ _ rfl

/-- The first link of port A: alarms that stand are sent. -/
def firstLinked (h : Hw) : Hw := h.whenB (!h.sta.firstLink) fun h => (sendRaised h).onSta fun t => { t with firstLink := true }
/-- Port A's link ends S5. -/
def s5Left (h : Hw) : Hw :=
  h.whenB (h.sta.stage == 5) fun h => (h.enterStage 6).onTim fun t => { t with state := if t.state = 0 then 1 else t.state }

/-- The first link of port A changes what sending the alarms changes, and marks it. -/
theorem firstLinked_resent (h : Hw) : Resent { h with sta := { h.sta with firstLink := true } } h.firstLinked := by
  unfold firstLinked
  cases hf : h.sta.firstLink
  · obtain ⟨e, entries⟩ := sendRaised_resent h
    refine ⟨?_, entries⟩
    show (sendRaised h).onSta (fun t => { t with firstLink := true }) = _
    rw [e]
    rfl
  · have same : ({ h with sta := { h.sta with firstLink := true } } : Hw) = h := by rw [← hf]
    rw [same]
    exact ⟨rfl, rfl⟩

/-- The stage after port A's link. -/
def s5LeftSta (t : Sta) : Sta :=
  if t.stage = 5 then { t with
    stage := 6, failed := false, failAlarm := 0, entry := updN t.entry 6 fun _ => some (Nat.min 0xFFFFFFFE (usOf t.since)) } else t
/-- The time state after it. -/
def s5LeftTim (stage : Nat) (t : Tim) : Tim := if stage = 5 then { t with state := if t.state = 0 then 1 else t.state } else t

theorem s5Left_eq (h : Hw) : h.s5Left = { h with sta := s5LeftSta h.sta, tim := s5LeftTim h.sta.stage h.tim } := by
  unfold s5Left s5LeftSta s5LeftTim
  by_cases h5 : h.sta.stage = 5
  · rw [beq_of_eq h5, whenB_true, if_pos h5, if_pos h5]
    rfl
  · rw [beq_false_of_ne h5, whenB_false, if_neg h5, if_neg h5]

/-- Port A's link. -/
def portALinked (h : Hw) : Hw := (h.cease 0x0301 0).firstLinked.s5Left

theorem portALinked_eq (h : Hw) : h.portALinked = { h with
      sta := s5LeftSta { h.sta with firstLink := true }, tim := s5LeftTim h.sta.stage h.tim
      lko := { h.lko with log := h.portALinked.lko.log, pend := h.lko.pend ++ [h.seen { code := 0x0301, arg := 0, cease := true }] }
      fhl := { h.fhl with queue := h.portALinked.fhl.queue, indCount := h.portALinked.fhl.indCount, refusalLost := h.portALinked.fhl.refusalLost } } ∧
    h.portALinked.entries = h.entries := by
  obtain ⟨e, entries⟩ := firstLinked_resent (h.cease 0x0301 0)
  have run : h.portALinked = (h.cease 0x0301 0).firstLinked.s5Left := rfl
  rw [s5Left_eq] at run
  refine ⟨?_, ?_⟩
  · rw [run, e]
    rfl
  · rw [run]
    exact entries

end Hw

theorem exec_laneLinkUp_eq {s : State} {dt : Nat} {h : Hw} (he : s.hw.elapse dt = h) {p : PortId} (hon : h.portOn p = true)
    (ha : (h.port p).aligned = true) (hl : (h.port p).linkUp = false) : execLaneLinkUp dt p s = .next { s with hw :=
      ((h.gotLink p).whenB (p.val == 0) Hw.portALinked).settle } := by
  unfold execLaneLinkUp
  rw [ok_eq, he]
  extract_lets +onlyGivenNames x
  have due : (h.portOn p && x.aligned && !x.linkUp) = true := by
    unfold x
    rw [hon, ha, hl]
    rfl
  rw [due, Hw.whenB_true]
  rfl

namespace Hw

/-- What the link of a port leaves: `xs` the happenings. -/
structure Linked (h g : Hw) (xs : List Happening) : Prop where
  rest : g = { h with
    ports := g.ports, sta := g.sta, tim := g.tim, lko := { h.lko with log := g.lko.log, pend := h.lko.pend ++ xs }
    fhl := { h.fhl with queue := g.fhl.queue, indCount := g.fhl.indCount, refusalLost := g.fhl.refusalLost } }
  entries : g.entries = h.entries

/-- The happenings of a port's link. -/
def linkNews (h : Hw) (p : PortId) : List Happening :=
  h.linkedNews p ++ if p.val == 0 then [h.seen { code := 0x0301, arg := 0, cease := true }] else []

section
variable (h : Hw) (p : PortId)

theorem gotLink_eq : h.gotLink p = { h with
    ports := updN h.ports p fun x => linkedPort x p h.up, lko := { h.lko with pend := h.lko.pend ++ h.linkedNews p } } := by
  have e := gotLink_posts h p
  unfold Posts at e
  rw [gotLink_ports, gotLink_lanes] at e
  exact e

theorem linkUp_linked : Linked h ((h.gotLink p).whenB (p.val == 0) portALinked) (h.linkNews p) := by
  have entries : (h.gotLink p).entries = h.entries := by
    rw [gotLink_eq]
    rfl
  unfold linkNews
  cases p.val == 0
  · rw [whenB_false, if_neg Bool.false_ne_true, List.append_nil]
    refine ⟨?_, entries⟩
    rw [gotLink_eq]
  · obtain ⟨e, same⟩ := portALinked_eq (h.gotLink p)
    rw [whenB_true, if_pos rfl]
    refine ⟨?_, same.trans entries⟩
    generalize (h.gotLink p).portALinked = g at e
    rw [← List.append_assoc, e, gotLink_eq]
    rfl

theorem linkUp_ports : ((h.gotLink p).whenB (p.val == 0) portALinked).ports = updN h.ports p fun x => linkedPort x p h.up := by
  rw [← gotLink_ports]
  exact whenB_keep Hw.ports _ _ _ (by rw [(portALinked_eq _).1])

theorem linkUp_sta : ((h.gotLink p).whenB (p.val == 0) portALinked).sta =
    if p.val == 0 then s5LeftSta { h.sta with firstLink := true } else h.sta := by
  cases p.val == 0
  · rw [whenB_false, gotLink_eq]
    rfl
  · rw [whenB_true, (portALinked_eq _).1, gotLink_eq]
    rfl

theorem linkUp_tim : ((h.gotLink p).whenB (p.val == 0) portALinked).tim = if p.val == 0 then s5LeftTim h.sta.stage h.tim else h.tim := by
  cases p.val == 0
  · rw [whenB_false, gotLink_eq]
    rfl
  · rw [whenB_true, (portALinked_eq _).1, gotLink_eq]
    rfl

end

section
variable {h g : Hw} {xs : List Happening} (a : Linked h g xs)
include a

theorem Linked.told : g.settle = ({ h with ports := g.settle.ports, sta := g.settle.sta, tim := g.settle.tim } : Hw).told g.settle := by
  have same (t : Hw) : g.told t = ({ h with ports := g.ports, sta := g.sta, tim := g.tim } : Hw).told t := by
    rw [a.rest]
    rfl
  rw [settle_ports, settle_sta, settle_tim, ← same]
  exact settle_told g g.lko.pend g rfl

theorem Linked.pend (hp : h.lko.pend = []) : g.lko.pend = xs := by
  rw [a.rest, hp]
  rfl

theorem Linked.raised : g.lko.raised = h.lko.raised := by rw [a.rest]

end

theorem linkedPort_eq (x : Port) (p : PortId) (up : Nat) : linkedPort x p up = { x with
    linkUp := true, localFault := false, errored := false, judged := false, restarted := false, downAt := none, rclk := decide (p = 0)
    linkTime := (x.downAt.map fun c => (up - c) * 100000 / 98304000).getD x.linkTime } := by
  have rclk : (p.val == 0) = decide (p = 0) := by
    match p with
    | 0 => rfl
    | 1 => rfl
  unfold linkedPort
  rw [rclk]
  cases x.downAt <;> rfl

/-- The happenings of a port's link are an alarm and ends. -/
theorem mem_linkNews {h : Hw} {p : PortId} {x : Happening} (hx : x ∈ h.linkNews p) : x.cease = true ∨ x.code = 0x0302 := by
  rcases List.mem_append.mp hx with hx | hx
  · rcases List.mem_append.mp hx with hx | hx
    · rw [List.mem_singleton.mp hx]
      exact .inr rfl
    · rw [mem_ite_singleton hx]
      exact .inl rfl
  · rw [mem_ite_singleton hx]
    exact .inl rfl

theorem length_linkNews (h : Hw) (p : PortId) : (h.linkNews p).length ≤ 4096 := by
  have one {c : Bool} {x : Happening} : (if c then [x] else []).length ≤ 1 := by cases c <;> simp
  have a := one (c := (h.port p).downAt.isSome) (x := h.seen { code := 0x0303, arg := ((p.val * 256 + (h.port p).downCause : Nat) : Int), cease := true })
  have b := one (c := p.val == 0) (x := h.seen { code := 0x0301, arg := 0, cease := true })
  rw [linkNews, linkedNews, List.length_append, List.length_append, List.length_singleton]
  omega

/-- The loss before a link has ended with it. -/
theorem linkUp_ended {h g : Hw} {p : PortId} (a : Linked h g (h.linkNews p)) (hp : h.lko.pend = []) {c : Nat} (hc : (h.port p).downAt = some c)
    (hr : h.lko.raised.Nodup) : (0x0303, ((p.val * 256 + (h.port p).downCause : Nat) : Int)) ∉ g.settle.lko.raised := by
  have perm := sortBy_perm order g.lko.pend
  rw [settle_raised, a.raised]
  rw [a.pend hp] at perm ⊢
  refine not_mem_foldl_raisedAfter hr (.inr ⟨h.seen { code := 0x0303, arg := ((p.val * 256 + (h.port p).downCause : Nat) : Int), cease := true },
    perm.mem_iff.mpr ?_, rfl, rfl, rfl⟩) fun x hx hn e => ?_
  · refine List.mem_append_left _ (List.mem_append_right _ ?_)
    rw [hc]
    exact List.mem_singleton.mpr rfl
  · rcases mem_linkNews (perm.mem_iff.mp hx) with hc | hc
    · exact Bool.false_ne_true (hn.symm.trans hc)
    · exact absurd (hc.symm.trans (congrArg Prod.fst e) : (0x0302 : Nat) = 0x0303) (by decide)

/-- A port's link is in the log. -/
theorem linkUp_logged {h g : Hw} {p : PortId} (a : Linked h g (h.linkNews p)) (hp : h.lko.pend = []) :
    (0x0302, (p.val : Int), false) ∈ g.settle.lko.log.map fun e => (e.code, e.arg, e.cease) := by
  refine settle_logs (x := h.seen { code := 0x0302, arg := p }) ?_ rfl ?_
  · rw [a.pend hp]
    exact List.mem_append_left _ (List.mem_append_left _ (List.mem_singleton.mpr rfl))
  · rw [a.pend hp]
    exact length_linkNews h p

end Hw

namespace Hw

theorem lostOf_mem {lost : List LaneId} {l : LaneId} : lostOf lost l = true ↔ l ∈ lost := by
  simp only [lostOf, List.any_eq_true, beq_iff_eq]
  exact ⟨fun ⟨k, hk, e⟩ => Fin.ext e ▸ hk, fun hl => ⟨l, hl, rfl⟩⟩

theorem s5LeftSta_firstLink (t : Sta) : (s5LeftSta t).firstLink = t.firstLink := by
  unfold s5LeftSta
  split <;> rfl

/-- The restart of every lane of a port. -/
def restartAll (h : Hw) (p : PortId) : Hw := (h.onPort p fun x => { x with restarted := true }).restartFour p fun _ => true

theorem restartAll_posts (h : Hw) (p : PortId) : ∃ xs, Posts h ((h.restartAll p).portRefresh p) xs := by
  obtain ⟨xs, thaws, -⟩ := restartFour_thaws (h.onPort p fun x => { x with restarted := true }) p fun _ => true
  exact ⟨_, (((Posts.refl h).onPort p _).trans thaws).trans (portRefresh_posts _ p.isLt)⟩

theorem restartAll_port (h : Hw) (p : PortId) : ((h.restartAll p).portRefresh p).port p = { h.port p with
    restarted := true, aligned := false, orderFault := false, localFault := true, remoteFault := false } := by
  obtain ⟨bad, al⟩ := restartFour_short (h.onPort p fun x => { x with restarted := true }) p.isLt fun _ => true
  have before : (h.restartAll p).port p = { h.port p with restarted := true } :=
    (congrArg (getN · p.val ({} : Port)) (restartFour_ports _ _ _)).trans (onPort_port h _ p.isLt)
  rw [portRefresh_port _ p.isLt, before, show (h.restartAll p).orderBad p = false from bad, show (h.restartAll p).inOrder p = false from al,
    Bool.and_false]
  rfl

theorem restartAll_lane (h : Hw) (p : PortId) {j : Nat} (hj : j < 8) : ((h.restartAll p).portRefresh p).lane j =
    if j / 4 = p.val then deskewed ((h.restartAll p).latest p) (lane1 (h.lane j)) else h.lane j := by
  rw [portRefresh_lane _ p.isLt hj, restartAll, restartFour_lane _ _ _ hj]
  split <;> rfl

end Hw

/-! ### The loss of link, and the restart after 10 ms (R298, R299) -/

section
variable {s : State} {dt : Nat} {h : Hw} (he : s.hw.elapse dt = h) (p : PortId)
include he

theorem exec_laneLinkDown_eq (cause : Nat) (lost : List LaneId) (hl : (h.port p).linkUp = true) (h1 : 1 ≤ cause) (h5 : cause ≤ 5) :
    execLaneLinkDown dt p cause lost s = .next { s with hw := (h.linkDown p cause lost).settle } := by
  unfold execLaneLinkDown
  rw [ok_eq, he, hl, decide_eq_true h1, decide_eq_true h5]
  rfl

theorem exec_linkDownRestart_eq {c : Nat} (hl : (h.port p).linkUp = false) (hr : (h.port p).restarted = false) (hd : (h.port p).downAt = some c)
    (hc : c + 9830400 ≤ h.up) : execLinkDownRestart dt p s = .next { s with hw :=
      ((h.restartAll p).portRefresh p).settle } := by
  unfold execLinkDownRestart
  rw [ok_eq, he]
  dsimp only
  rw [hl, hr, hd, Option.any_some, decide_eq_true hc]
  rfl

end
/-! ### Counts and faults of a port -/

/-- A port changed. -/
theorem Hw.onPort_set (h : Hw) (p : PortId) {f : Port → Port} {y : Port} (hf : f (h.port p) = y) :
    h.onPort p f = { h with ports := updN h.ports p fun _ => y } := congrArg (fun v => { h with ports := v }) (updN_congr ({} : Port) hf)

section
variable {s : State} {dt : Nat} {h : Hw} (he : s.hw.elapse dt = h) {p : PortId}
include he

theorem exec_fecDegradedCease_due (hd : (h.port p).fecDegraded = true) (ht : (h.port p).lastUncorr + 983040000 ≤ h.up) :
    execFecDegradedCease dt p s = .next { s with hw := (({ h with
      ports := updN h.ports p fun _ => { h.port p with fecDegraded := false } } : Hw).cease 0x0304 p).settle } := by
  unfold execFecDegradedCease
  rw [ok_eq, he, hd, decide_eq_true (show (h.port p).lastUncorr + Config.fc ≤ h.up from ht), Bool.and_self, Hw.whenB_true, h.onPort_set p rfl]

variable (hon : h.portOn p = true)
include hon

theorem exec_remoteFaultRx_eq (ha : (h.port p).aligned = true) (on : Bool) :
    execRemoteFaultRx dt p on s = .next { s with hw := (h.remoteFault p on).settle } := by
  unfold execRemoteFaultRx
  rw [ok_eq, he, hon, ha]
  rfl

theorem exec_fecIntervalEnd_on (hf : h.fecOn p = true) (n : Nat) (l : List (LaneId × Nat)) {y : Port}
    (hy : { h.port p with corrCw := cnt 48 (h.port p).corrCw n, uncorrNow := false
                          fecDegraded := (h.port p).fecDegraded || (h.port p).uncorrNow } = y) :
    execFecIntervalEnd dt p n l s = .next { s with hw :=
      ((({ h with ports := updN h.ports p fun _ => y } : Hw).each (l.filter fun x => x.1.val / 4 == p.val) fun h x =>
        h.onLane x.1 fun l => { l with symbols := cnt 48 l.symbols x.2 }).whenB (h.port p).uncorrNow fun h => h.alarm 0x0304 p).settle } := by
  unfold execFecIntervalEnd
  rw [ok_eq, he, hon, Hw.whenB_true]
  dsimp only
  rw [if_pos hf, h.onPort_set p hy]

theorem exec_fecIntervalEnd_off (hf : h.fecOn p = false) (n : Nat) (l : List (LaneId × Nat)) :
    execFecIntervalEnd dt p n l s = .next { s with hw :=
      (h.each (l.filter fun x => x.1.val / 4 == p.val) fun h x => h.onLane x.1 fun l => { l with bip := cnt 32 l.bip x.2 }).settle } := by
  unfold execFecIntervalEnd
  rw [ok_eq, he, hon, Hw.whenB_true]
  dsimp only
  rw [hf, if_neg Bool.false_ne_true]

/-- An interval without counts of lanes. -/
theorem exec_fecIntervalEnd_none (hf : h.fecOn p = true) (n : Nat) {y : Port}
    (hy : { h.port p with corrCw := cnt 48 (h.port p).corrCw n, uncorrNow := false
                          fecDegraded := (h.port p).fecDegraded || (h.port p).uncorrNow } = y) :
    execFecIntervalEnd dt p n [] s = .next { s with hw := (if (h.port p).uncorrNow then
      ({ h with ports := updN h.ports p fun _ => y } : Hw).alarm 0x0304 p else { h with ports := updN h.ports p fun _ => y }).settle } := by
  rw [exec_fecIntervalEnd_on he hon hf n [] hy]
  rfl

theorem exec_remoteFaultRx_begins (ha : (h.port p).aligned = true) : execRemoteFaultRx dt p true s = .next { s with hw :=
    (({ h with ports := updN h.ports p fun _ => { h.port p with remoteFault := true } } : Hw).alarm 0x0305 p).settle } := by
  rw [exec_remoteFaultRx_eq he hon ha, Hw.remoteFault, h.onPort_set p rfl, Bool.not_true, Bool.and_false]
  rfl

theorem exec_remoteFaultRx_ends (ha : (h.port p).aligned = true) : execRemoteFaultRx dt p false s = .next { s with hw :=
    (if (h.port p).remoteFault then ({ h with ports := updN h.ports p fun _ => { h.port p with remoteFault := false } } : Hw).cease 0x0305 p
      else { h with ports := updN h.ports p fun _ => h.port p }).settle } := by
  rw [exec_remoteFaultRx_eq he hon ha, Hw.remoteFault, h.onPort_set p rfl, Bool.not_false, Bool.and_true]
  cases hr : (h.port p).remoteFault
  · have same : ({ h.port p with remoteFault := false } : Port) = h.port p := by rw [← hr]
    rw [same]
    rfl
  · rfl

variable (hs : h.Settled)
include hs

theorem exec_fecIntervalEnd_bip (hf : h.fecOn p = false) (n c : Nat) {l : LaneId} (hl : l.val / 4 = p.val) :
    execFecIntervalEnd dt p n [(l, c)] s = .next { s with hw := { h with lanes := updN h.lanes l fun y => { y with bip := cnt 32 y.bip c } } } := by
  have own : [(l, c)].filter (fun x => x.1.val / 4 == p.val) = [(l, c)] := List.filter_cons_of_pos (beq_of_eq hl)
  rw [exec_fecIntervalEnd_off he hon hf, own, Hw.settle_of_settled _ (by exact hs)]
  rfl

theorem exec_fecIntervalEnd_symbols (hf : h.fecOn p = true) (hu : (h.port p).uncorrNow = false) (n c : Nat) {l : LaneId} (hl : l.val / 4 = p.val) :
    execFecIntervalEnd dt p n [(l, c)] s = .next { s with hw := { h with
      ports := updN h.ports p fun _ => { h.port p with corrCw := cnt 48 (h.port p).corrCw n }
      lanes := updN h.lanes l fun y => { y with symbols := cnt 48 y.symbols c } } } := by
  have own : [(l, c)].filter (fun x => x.1.val / 4 == p.val) = [(l, c)] := List.filter_cons_of_pos (beq_of_eq hl)
  have same : ({ h.port p with corrCw := cnt 48 (h.port p).corrCw n, uncorrNow := false
                               fecDegraded := (h.port p).fecDegraded || (h.port p).uncorrNow } : Port) =
      { h.port p with corrCw := cnt 48 (h.port p).corrCw n } := by
    rw [hu, Bool.or_false, ← hu]
  rw [exec_fecIntervalEnd_on he hon hf n _ same, own, hu, Hw.whenB_false, Hw.settle_of_settled _ (by exact hs)]
  rfl

theorem exec_fecUncorrectable_on (hf : h.fecOn p = true) : execFecUncorrectable dt p s = .next { s with hw := { h with
    ports := updN h.ports p fun _ => { h.port p with uncorrCw := inc (h.port p).uncorrCw, uncorrNow := true, lastUncorr := h.up } } } := by
  refine ok_becomes s dt ?_ (by exact hs)
  rw [he, hon, hf, Bool.and_self, Hw.whenB_true, h.onPort_set p rfl]

theorem exec_idleDelete_on {fill : Nat} (h1 : 20 < fill) (h2 : fill ≤ 32) : execIdleDelete dt p fill s = .next { s with hw := { h with
    ports := updN h.ports p fun _ => { h.port p with fill := fill - 1, idleDel := inc48 (h.port p).idleDel } } } := by
  refine ok_becomes s dt ?_ (by exact hs)
  rw [he, hon, decide_eq_true h1, decide_eq_true h2, Bool.and_self, Bool.and_self, Hw.whenB_true, h.onPort_set p rfl]

theorem exec_idleInsert_on {fill : Nat} (h1 : fill < 12) : execIdleInsert dt p fill s = .next { s with hw := { h with
    ports := updN h.ports p fun _ => { h.port p with fill := fill + 1, idleIns := inc48 (h.port p).idleIns } } } := by
  refine ok_becomes s dt ?_ (by exact hs)
  rw [he, hon, decide_eq_true h1, Bool.and_self, Hw.whenB_true, h.onPort_set p rfl]

theorem exec_elasticError_on (full : Bool) : execElasticError dt p full s = .next { s with hw := { h with
    ports := updN h.ports p fun _ => { h.port p with errored := true, elasticErr := inc (h.port p).elasticErr, fill := 16 } } } := by
  refine ok_becomes s dt ?_ (by exact hs)
  rw [he, hon, Hw.whenB_true, h.onPort_set p rfl]

end

/-- Settles O31, part by part. -/
theorem linkState : Obligations.LinkState := by
  refine ⟨fun s dt p hs => ?link, fun s dt p hs => ?counts⟩
  case link =>
    intro h x us
    have settled : h.Settled := Hw.elapse_settled _ hs dt
    refine ⟨fun h5 htype ha hl => ?_, fun cause lost hl h1 h5 => ?_, fun c hl hr hd hc => ?_⟩
    · have linked := h.linkUp_linked p
      have ports := h.linkUp_ports p
      have zero : ((0 : PortId).val == 0) = true := rfl
      have sta := h.linkUp_sta p
      have tim := h.linkUp_tim p
      have run := exec_laneLinkUp_eq (s := s) (dt := dt) rfl (Hw.portOn_of h5 htype) ha hl
      generalize (h.gotLink p).whenB (p.val == 0) Hw.portALinked = g at linked ports sta tim run
      refine ⟨_, run, rfl, rfl, linked.told, ?_, fun j hj => ?_, fun c hc hr => Hw.linkUp_ended linked settled.1 hc hr,
        Hw.linkUp_logged linked settled.1, fun h0 => ?_, fun h0 hst => ?_, fun hn => ?_⟩
      · dsimp only
        rw [Hw.settle_port, Hw.port, ports, getN_updN_same _ _ _ p.isLt, Hw.linkedPort_eq]
        rfl
      · dsimp only
        rw [Hw.settle_port, Hw.port, ports, getN_updN_ne _ _ _ (Fin.val_ne_of_ne hj)]
        rfl
      · dsimp only
        rw [Hw.settle_sta, sta, h0]
        exact Hw.s5LeftSta_firstLink _
      · dsimp only
        rw [Hw.settle_sta, sta, Hw.settle_tim, tim, h0]
        rw [zero, if_pos rfl, if_pos rfl, Hw.s5LeftSta, if_pos (by exact hst), Hw.s5LeftTim, if_pos hst]
        exact ⟨rfl, rfl, rfl⟩
      · dsimp only
        rw [Hw.settle_sta, sta, Hw.settle_tim, tim]
        by_cases h0 : p = 0
        · have hst : ¬ h.sta.stage = 5 := fun hst => hn ⟨h0, hst⟩
          rw [h0, zero, if_pos rfl, if_pos rfl, Hw.s5LeftSta, if_neg (by exact hst), Hw.s5LeftTim, if_neg hst]
          exact ⟨rfl, rfl⟩
        · have other : (p.val == 0) = false := beq_false_of_ne fun e => h0 (Fin.ext e)
          rw [other, if_neg Bool.false_ne_true, if_neg Bool.false_ne_true]
          exact ⟨rfl, rfl⟩
    · obtain ⟨xs, ys, posts, ends, mem⟩ := h.linkDown_posts p cause lost
      refine ⟨_, exec_laneLinkDown_eq rfl p cause lost hl h1 h5, rfl, rfl, h.linkDown_told p cause lost, ?_, h.linkDown_raised p cause lost settled.1,
        fun l => ?_⟩
      · dsimp only
        rw [Hw.settle_port, Hw.linkDown_port]
        rfl
      · dsimp only
        rw [Hw.settle_lane, Hw.linkDown_lane _ _ _ _ l.isLt]
        refine ⟨fun ho => if_neg ho, fun ho hm => ?_, fun ho hm => ?_⟩
        · rw [if_pos ho, Hw.lostOf_mem.mpr hm]
          exact ⟨rfl, rfl⟩
        · rw [if_pos ho]
          refine (Hw.restarted_step _ _).trans (if_neg ?_)
          exact mt Hw.lostOf_mem.mp hm
    · obtain ⟨xs, posts⟩ := h.restartAll_posts p
      refine ⟨_, exec_linkDownRestart_eq rfl p hl hr hd hc, rfl, rfl, posts.told, ?_, fun l => ?_⟩
      · dsimp only
        rw [Hw.settle_port, Hw.restartAll_port]
      · dsimp only
        rw [Hw.settle_lane, Hw.restartAll_lane _ _ l.isLt]
        refine ⟨fun ho => if_neg ho, fun ho => ?_⟩
        rw [if_pos ho]
        exact ⟨rfl, rfl, rfl⟩
  case counts =>
    intro h x port on fec
    have settled : h.Settled := Hw.elapse_settled _ hs dt
    have run (ho : on) : h.portOn p = true := Hw.portOn_of ho.1 ho.2
    have fecOn : h.fecOn p = true ↔ fec := by
      rw [Hw.fecOn, Bool.or_eq_true, beq_iff_eq]
      rfl
    refine ⟨fun ho hf => exec_fecUncorrectable_on rfl (run ho) settled (fecOn.mpr hf), ?_, fun n c l ho hl =>
        ⟨fun hf => exec_fecIntervalEnd_bip rfl (run ho) settled (Bool.eq_false_iff.mpr (mt fecOn.mp hf)) n c hl,
          fun hf hu => exec_fecIntervalEnd_symbols rfl (run ho) settled (fecOn.mpr hf) hu n c hl⟩,
      exec_fecDegradedCease_due rfl, fun ho ha => ⟨exec_remoteFaultRx_begins rfl (run ho) ha, exec_remoteFaultRx_ends rfl (run ho) ha⟩,
      fun fill ho => ⟨exec_idleDelete_on rfl (run ho) settled, exec_idleInsert_on rfl (run ho) settled⟩,
      fun full ho => exec_elasticError_on rfl (run ho) settled full⟩
    intro n ho hf y
    exact exec_fecIntervalEnd_none rfl (run ho) (fecOn.mpr hf) n rfl

end Sys2Proof.Machine
end

section
/-! The FEM buses, the status polls, and the read of a FEM whose path is to be restored (R303, R304, R311, R312, R315). Settles O33. -/
namespace Sys2Proof.Machine
namespace Hw

/-! ### The paths of a quad -/

/-- The four paths of a quad changed. -/
def onFourPaths (v : Vector Path 64) (q : Nat) (f : Path → Path) : Vector Path 64 :=
  [4 * q, 4 * q + 1, 4 * q + 2, 4 * q + 3].foldl (fun v n => updN v n f) v

theorem getN_onFourPaths (v : Vector Path 64) {q j : Nat} (hj : j < 64) (f : Path → Path) :
    getN (onFourPaths v q f) j {} = if j / 4 = q then f (getN v j {}) else getN v j {} := by
  have four : onFourPaths v q f = updN (updN (updN (updN v (4 * q) f) (4 * q + 1) f) (4 * q + 2) f) (4 * q + 3) f := rfl
  rw [four]
  split
  · obtain e | e | e | e : j = 4 * q ∨ j = 4 * q + 1 ∨ j = 4 * q + 2 ∨ j = 4 * q + 3 := by omega
    all_goals
      subst e
      simp (disch := omega) only [getN_updN_ne, getN_updN_same]
  · simp (disch := omega) only [getN_updN_ne]

theorem each_onPath (h : Hw) (l : List Nat) (f : Path → Path) :
    (h.each l fun h n => h.onPath n f) = { h with paths := l.foldl (fun v n => updN v n f) h.paths } := by
  induction l generalizing h with
  | nil => rfl
  | cons n r ih => exact ih _

theorem onPath_congr (h : Hw) (n : Nat) {f g : Path → Path} (e : f (h.path n) = g (h.path n)) : h.onPath n f = h.onPath n g :=
  congrArg (fun v => { h with paths := v }) (updN_congr ({} : Path) e)

theorem onQuad_congr (h : Hw) (q : Nat) {f g : Quad → Quad} (e : f (h.quad q) = g (h.quad q)) : h.onQuad q f = h.onQuad q g :=
  congrArg (fun v => { h with quads := v }) (updN_congr ({} : Quad) e)

/-! ### The queue of a bus (R303) -/

/-- A queue with a transaction that waits. -/
def queueWith (l : List (Nat × Nat)) (t : Nat × Nat) : List (Nat × Nat) :=
  if l.contains t then l else match l with
    | [] => [t]
    | a :: r => a :: sortBy (·.1) (r ++ [t])

theorem mem_queueWith {l : List (Nat × Nat)} {t u : Nat × Nat} (hu : u ∈ l ∨ u = t) : u ∈ queueWith l t := by
  unfold queueWith
  split
  · rename_i ht
    rcases hu with hu | rfl
    · exact hu
    · simpa using ht
  · cases l with
    | nil =>
      rcases hu with hu | rfl
      · exact absurd hu List.not_mem_nil
      · exact List.mem_singleton.mpr rfl
    | cons a r =>
      have perm := sortBy_perm (fun x : Nat × Nat => x.1) (r ++ [t])
      rcases hu with hu | rfl
      · rcases List.mem_cons.mp hu with rfl | hu
        · exact List.mem_cons_self ..
        · exact List.mem_cons_of_mem _ (perm.mem_iff.mpr (List.mem_append_left _ hu))
      · exact List.mem_cons_of_mem _ (perm.mem_iff.mpr (List.mem_append_right _ (List.mem_singleton.mpr rfl)))

theorem busAdd_eq (h : Hw) (q rank n : Nat) :
    h.busAdd q rank n = h.onQuad q fun x => { x with busQueue := queueWith x.busQueue (rank, n) } := rfl

/-- A queue without a transaction that has ended. -/
def queueLess (t : Nat × Nat) (x : Quad) : Quad := if t ∈ x.busQueue then { x with busQueue := x.busQueue.erase t, busTries := 0 } else x

theorem busDrop_eq (h : Hw) (q rank n : Nat) : h.busDrop q rank n = { h with quads := updN h.quads q (queueLess (rank, n)) } := by
  unfold busDrop onQuad queueLess
  simp only [List.contains_iff_mem]

/-- `g` is `h` but for transactions that wait on a bus. -/
def Queued (h g : Hw) (q : Nat) : Prop :=
  g = { h with quads := updN h.quads q fun x => { x with busQueue := (g.quad q).busQueue } } ∧
    ∀ t ∈ (h.quad q).busQueue, t ∈ (g.quad q).busQueue

section
variable {h g k : Hw} {q : Nat}

theorem Queued.refl (h : Hw) (q : Nat) : Queued h h q := by
  refine ⟨?_, fun _ ht => ht⟩
  have same : (updN h.quads q fun x => { x with busQueue := (h.quad q).busQueue }) = h.quads :=
    (updN_congr (g := fun x => x) ({} : Quad) rfl).trans (updN_id ..)
  rw [same]

theorem Queued.trans (a : Queued h g q) (b : Queued g k q) : Queued h k q := by
  obtain ⟨ae, am⟩ := a
  obtain ⟨be, bm⟩ := b
  refine ⟨?_, fun t ht => bm t (am t ht)⟩
  have twice : (updN g.quads q fun x => { x with busQueue := (k.quad q).busQueue }) =
      updN h.quads q fun x => { x with busQueue := (k.quad q).busQueue } := by
    rw [ae, updN_updN]
  have rest (v : Vector Quad 16) : ({ g with quads := v } : Hw) = { h with quads := v } := by rw [ae]
  rw [twice] at be
  exact be.trans (rest _)

theorem Queued.busAdd (h : Hw) (hq : q < 16) (rank n : Nat) :
    Queued h (h.busAdd q rank n) q ∧ (rank, n) ∈ ((h.busAdd q rank n).quad q).busQueue := by
  have queue : ((h.busAdd q rank n).quad q).busQueue = queueWith (h.quad q).busQueue (rank, n) := by
    rw [busAdd_eq, onQuad_quad _ _ hq]
  refine ⟨⟨?_, fun t ht => ?_⟩, ?_⟩
  · rw [queue]
    exact h.onQuad_congr q rfl
  · rw [queue]
    exact mem_queueWith (.inl ht)
  · rw [queue]
    exact mem_queueWith (.inr rfl)

/-- The life writes that wait are queued. -/
theorem each_writeDue (h : Hw) (hq : q < 16) (l : List Nat) :
    Queued h (h.each l fun h n => h.whenB (h.path n).fem.writeDue fun h => h.busAdd q 4 n) q ∧
      ∀ n ∈ l, (h.path n).fem.writeDue = true →
        (4, n) ∈ ((h.each l fun h n => h.whenB (h.path n).fem.writeDue fun h => h.busAdd q 4 n).quad q).busQueue := by
  induction l generalizing h with
  | nil => exact ⟨.refl h q, fun n hn => absurd hn List.not_mem_nil⟩
  | cons a r ih =>
    have first : Queued h (h.whenB (h.path a).fem.writeDue fun h => h.busAdd q 4 a) q ∧
        ((h.path a).fem.writeDue = true → (4, a) ∈ ((h.whenB (h.path a).fem.writeDue fun h => h.busAdd q 4 a).quad q).busQueue) := by
      cases (h.path a).fem.writeDue
      · exact ⟨.refl h q, fun e => absurd e Bool.false_ne_true⟩
      · exact ⟨(Queued.busAdd h hq 4 a).1, fun _ => (Queued.busAdd h hq 4 a).2⟩
    have paths (n : Nat) : (h.whenB (h.path a).fem.writeDue fun h => h.busAdd q 4 a).path n = h.path n :=
      congrArg (getN · n ({} : Path)) (whenB_keep Hw.paths _ _ _ rfl)
    rw [each_cons]
    obtain ⟨rest, mem⟩ := ih (h.whenB (h.path a).fem.writeDue fun h => h.busAdd q 4 a)
    refine ⟨first.1.trans rest, fun n hn hw => ?_⟩
    rcases List.mem_cons.mp hn with rfl | hn
    · exact rest.2 _ (first.2 hw)
    · exact mem n hn (by rw [paths]; exact hw)

end

/-! ### A FEM that fails (R315) -/

/-- A path whose FEM has failed. -/
def failedPath (due up cause : Nat) (p : Path) : Path :=
  { p with
    paen := false, paenMoved := p.paenMoved || p.paen, disabled := true, retireAt := p.retireAt ++ [(due, cause)]
    fem := { p.fem with
      failCause := cause, pageCause := cause, flags := p.fem.flags ||| 2, writeDue := true, dirty := true
      paenCc := if p.paen then p.fem.paenCc + (up - p.fem.paenFrom) else p.fem.paenCc, paenFrom := up } }

theorem femFail_eq (h : Hw) (n cause : Nat) : h.femFail n cause =
    (h.onPath n (failedPath h.dueTick h.sta.since cause)).whenB (!(h.quad (n / 4)).busStuck) fun h => h.busAdd (n / 4) 4 n := by
  unfold femFail
  simp only [Path.setPaen_low]
  rfl

/-- A path that a stuck bus disables, where it is neither retired nor failed. -/
def stuckPath (due up : Nat) (p : Path) : Path := if p.retired = false ∧ p.disabled = false then failedPath due up 2 p else p

theorem checked_iff (h : Hw) (n : Nat) : h.checked n = true ↔ (h.path n).retired = false ∧ (h.path n).disabled = false := by
  simp [checked]

theorem stuckFail_eq {h : Hw} {n : Nat} (hs : (h.quad (n / 4)).busStuck = true) :
    (h.whenB (h.checked n) fun h => h.femFail n 2) = h.onPath n (stuckPath h.dueTick h.sta.since) := by
  cases hc : h.checked n
  · have none : ¬ ((h.path n).retired = false ∧ (h.path n).disabled = false) := fun e => by simp [(checked_iff h n).mpr e] at hc
    rw [whenB_false, ← h.onPath_congr n (f := fun p => p) (g := stuckPath h.dueTick h.sta.since) (if_neg none).symm, onPath, updN_id]
  · rw [whenB_true, femFail_eq, hs, Bool.not_true, whenB_false]
    exact h.onPath_congr n (if_pos ((checked_iff h n).mp hc)).symm

/-- The paths of a quad whose bus is stuck. -/
theorem each_stuckFail {h : Hw} {q : Nat} (hs : (h.quad q).busStuck = true) {l : List Nat} (hl : ∀ n ∈ l, n / 4 = q) :
    (h.each l fun h n => h.whenB (h.checked n) fun h => h.femFail n 2) =
      { h with paths := l.foldl (fun v n => updN v n (stuckPath h.dueTick h.sta.since)) h.paths } := by
  induction l generalizing h with
  | nil => rfl
  | cons n r ih =>
    rw [each_cons, stuckFail_eq (by rw [hl n (List.mem_cons_self ..)]; exact hs)]
    exact ih (by exact hs) fun m hm => hl m (List.mem_cons_of_mem n hm)

theorem femFailAlarm_settle {h : Hw} (hs : h.Settled) {n : Nat} (hn : n / 4 < 16) (cause : Nat) {code : Nat} (hc : isState code = false) {k : Hw}
    (hk : (h.femFailAlarm n cause code).settle = k) :
    k = ({ h with quads := k.quads, paths := updN h.paths n (failedPath h.dueTick h.sta.since cause) } : Hw).told k ∧
      (∀ j, j ≠ n / 4 → k.quad j = h.quad j) ∧ ((h.quad (n / 4)).busStuck = false → (4, n) ∈ (k.quad (n / 4)).busQueue) ∧ k.newest code n := by
  obtain ⟨g, hg⟩ : ∃ g : Hw, h.femFail n cause = g := ⟨_, rfl⟩
  have queued : Queued (h.onPath n (failedPath h.dueTick h.sta.since cause)) g (n / 4) ∧
      ((h.quad (n / 4)).busStuck = false → (4, n) ∈ (g.quad (n / 4)).busQueue) := by
    have eq := hg.symm.trans (femFail_eq h n cause)
    cases hst : (h.quad (n / 4)).busStuck
    · rw [hst, Bool.not_false, whenB_true] at eq
      rw [eq]
      exact ⟨(Queued.busAdd _ hn 4 n).1, fun _ => (Queued.busAdd _ hn 4 n).2⟩
    · rw [hst, Bool.not_true, whenB_false] at eq
      rw [eq]
      exact ⟨.refl _ _, fun e => absurd e Bool.noConfusion⟩
  obtain ⟨⟨eq, -⟩, mem⟩ := queued
  have all : g = { h with quads := g.quads, paths := updN h.paths n (failedPath h.dueTick h.sta.since cause) } := by
    generalize (g.quad (n / 4)).busQueue = l at eq
    rw [eq]
    rfl
  have pend : g.lko.pend = [] := by
    rw [all]
    exact hs.1
  obtain ⟨-, newest⟩ := alarm_settle g code n 0 pend hc
  have quads : k.quads = g.quads := by
    rw [← hk, settle_quads, ← hg]
    rfl
  have alarm : (g.alarm code n).settle = k := by
    rw [← hk, ← hg]
    rfl
  have quad (j : Nat) : k.quad j = g.quad j := congrArg (getN · j ({} : Quad)) quads
  refine ⟨?_, fun j hj => ?_, fun hst => ?_, alarm ▸ newest⟩
  · rw [quads]
    conv_lhs => rw [← alarm]
    conv_rhs => rw [← alarm]
    refine settle_told _ (g.alarm code n).lko.pend _ ?_
    generalize g.quads = v at all
    rw [all]
    rfl
  · rw [quad]
    generalize (g.quad (n / 4)).busQueue = l at eq
    rw [eq]
    exact onQuad_quad_ne h _ hj
  · rw [quad]
    exact mem hst

end Hw
/-! ### The bus (R303, R304) -/

section
variable {s : State} {dt : Nat} {h : Hw} (he : s.hw.elapse dt = h) (h4 : 4 ≤ h.sta.stage) {q : QuadId}
include he h4

theorem exec_femBusTransactionDone_eq (good high : Bool) {g : Hw}
    (hg : (if (h.quad q).busStuck then h.whenB (good || high) fun h => h.busFree q
      else if good then h.onQuad q fun x => { x with busQueue := x.busQueue.drop 1, busTries := 0 }
      else ((h.onQuad q fun x => { x with
          busNack := inc x.busNack, busTries := if 2 ≤ (h.quad q).busTries then 0 else x.busTries + 1
          busQueue := if 2 ≤ (h.quad q).busTries then x.busQueue.drop 1 else x.busQueue }).whenB
        (!high && !((h.onQuad q fun x => { x with
          busNack := inc x.busNack, busTries := if 2 ≤ (h.quad q).busTries then 0 else x.busTries + 1
          busQueue := if 2 ≤ (h.quad q).busTries then x.busQueue.drop 1 else x.busQueue }).quad q).busQueue.isEmpty)
            fun h => h.busPut [.recover q])) = g) :
    execFemBusTransactionDone dt q good high s = .next { s with hw := g.settle } := by
  have on : h.busOn = true := decide_eq_true h4
  unfold execFemBusTransactionDone
  rw [ok_eq, he, on, Hw.whenB_true, ← hg]

end

/-- A recovery put on a bus, where a line is low and more is to be sent. -/
theorem Hw.whenB_recover (h : Hw) (q : Nat) (high : Bool) (l : List (Nat × Nat)) {c : Bool} (hc : (!high && !l.isEmpty) = c) :
    (h.whenB c fun h => h.busPut [.recover q]) =
      if high = false ∧ l ≠ [] then { h with out := { h.out with bus := h.out.bus ++ [.recover q] } } else h := by
  subst hc
  cases high
  · cases l
    · rfl
    · rfl
  · rfl

section
variable {s : State} {dt : Nat} {h : Hw} (he : s.hw.elapse dt = h) (h4 : 4 ≤ h.sta.stage) (hs : h.Settled) {q : QuadId}
  (hst : (h.quad q).busStuck = false)
include he h4 hs hst

theorem exec_femBusTransactionDone_good (high : Bool) : execFemBusTransactionDone dt q true high s = .next { s with hw := { h with
    quads := updN h.quads q fun x => { x with busQueue := x.busQueue.drop 1, busTries := 0 } } } := by
  rw [exec_femBusTransactionDone_eq he h4 true high
    (g := { h with quads := updN h.quads q fun x => { x with busQueue := x.busQueue.drop 1, busTries := 0 } })
    (by rw [hst, if_neg Bool.false_ne_true, if_pos rfl]; rfl), Hw.settle_of_settled _ (by exact hs)]

/-- A failed attempt, `f` what it makes of the queue. -/
theorem exec_femBusTransactionDone_failed (high : Bool) {f : Quad → Quad} {l : List (Nat × Nat)}
    (hf : { h.quad q with busNack := inc (h.quad q).busNack, busTries := if 2 ≤ (h.quad q).busTries then 0 else (h.quad q).busTries + 1
                          busQueue := if 2 ≤ (h.quad q).busTries then (h.quad q).busQueue.drop 1 else (h.quad q).busQueue } = f (h.quad q))
    (hl : (f (h.quad q)).busQueue = l) : execFemBusTransactionDone dt q false high s = .next { s with hw :=
      if high = false ∧ l ≠ [] then { h with quads := updN h.quads q f, out := { h.out with bus := h.out.bus ++ [.recover q] } }
      else { h with quads := updN h.quads q f } } := by
  have quad : ((h.onQuad q f).quad q).busQueue = l := by
    rw [Hw.onQuad_quad _ _ q.isLt]
    exact hl
  have failed := h.onQuad_congr q (f := fun x => { x with
    busNack := inc x.busNack, busTries := if 2 ≤ (h.quad q).busTries then 0 else x.busTries + 1
    busQueue := if 2 ≤ (h.quad q).busTries then x.busQueue.drop 1 else x.busQueue }) hf
  rw [exec_femBusTransactionDone_eq he h4 false high (g := if high = false ∧ l ≠ [] then
      { h with quads := updN h.quads q f, out := { h.out with bus := h.out.bus ++ [.recover q] } }
      else { h with quads := updN h.quads q f }) ?_]
  · congr 2
    split
    · exact Hw.settle_of_settled _ (by exact hs)
    · exact Hw.settle_of_settled _ (by exact hs)
  · rw [hst, if_neg Bool.false_ne_true, if_neg Bool.false_ne_true, failed]
    exact Hw.whenB_recover _ q high l (by rw [quad])

end

/-! ### A stuck bus (R304) -/

section
variable {s : State} {dt : Nat} {h : Hw} (he : s.hw.elapse dt = h) (h4 : 4 ≤ h.sta.stage) (hs : h.Settled) {q : QuadId}
include he h4 hs

theorem exec_femBusTransactionDone_low (hst : (h.quad q).busStuck = true) :
    execFemBusTransactionDone dt q false false s = .next { s with hw := h } := by
  rw [exec_femBusTransactionDone_eq he h4 false false (g := h) (by rw [hst, if_pos rfl, Bool.or_self, Hw.whenB_false]),
    Hw.settle_of_settled _ hs]

theorem exec_femBusTransactionDone_high (hst : (h.quad q).busStuck = true) (good : Bool) :
    ∃ t, execFemBusTransactionDone dt q good true s = .next t ∧ t.pending = s.pending ∧ t.mem = s.mem ∧
      t.hw = ({ h with quads := updN h.quads q fun x => { x with busStuck := false, busQueue := (t.hw.quad q).busQueue } } : Hw).told t.hw ∧
      t.hw.lko.raised = h.lko.raised.erase (0x0502, (q.val : Int)) ∧
      ∀ n : PathId, n / 4 = q.val → (h.path n).fem.writeDue = true → (4, n.val) ∈ (t.hw.quad q).busQueue := by
  obtain ⟨g, hg⟩ : ∃ g : Hw, (h.onQuad q fun x => { x with busStuck := false }).cease 0x0502 q = g := ⟨_, rfl⟩
  obtain ⟨k, hk⟩ : ∃ k : Hw, (g.each [4 * q.val, 4 * q.val + 1, 4 * q.val + 2, 4 * q.val + 3] fun h n =>
    h.whenB (h.path n).fem.writeDue fun h => h.busAdd q 4 n) = k := ⟨_, rfl⟩
  have free : h.busFree q = k := by
    unfold Hw.busFree
    rw [hst, Hw.whenB_true, hg]
    exact hk
  obtain ⟨⟨ke, km⟩, mem⟩ := hk ▸ g.each_writeDue q.isLt [4 * q.val, 4 * q.val + 1, 4 * q.val + 2, 4 * q.val + 3]
  have pend : g.lko.pend = [g.seen { code := 0x0502, arg := q.val, cease := true }] := by
    rw [← hg]
    exact congrArg (· ++ _) hs.1
  have raised : g.lko.raised = h.lko.raised := by rw [← hg]; rfl
  have quad : k.settle.quad q = k.quad q := Hw.settle_quad ..
  refine ⟨_, exec_femBusTransactionDone_eq he h4 good true (g := k) (by rw [hst, if_pos rfl, Bool.or_true, Hw.whenB_true]; exact free),
    rfl, rfl, ?_, ?_, ?_⟩
  · refine Hw.settle_told _ k.lko.pend k ?_
    rw [quad]
    generalize (k.quad q).busQueue = l at ke
    have twice : (updN g.quads q fun x => { x with busQueue := l }) =
        updN h.quads q fun x => { x with busStuck := false, busQueue := l } := by
      rw [← hg]
      exact updN_updN ..
    rw [ke, twice, ← hg]
    rfl
  · have kp : k.lko = g.lko := by rw [ke]
    rw [Hw.settle_raised, kp, pend, raised]
    rfl
  · intro n hn hw
    rw [quad]
    refine mem n.val ?_ (by rw [← hg]; exact hw)
    simp only [List.mem_cons, List.not_mem_nil, or_false]
    omega

omit hs in
theorem exec_femBusStuck_eq (hst : (h.quad q).busStuck = false) : execFemBusStuck dt q s = .next { s with hw :=
    (({ h with
      quads := updN h.quads q fun x => { x with busStuck := true }
      paths := Hw.onFourPaths h.paths q (Hw.stuckPath h.dueTick h.sta.since)
      out := { h.out with bus := h.out.bus ++ [.recover q] } } : Hw).alarm 0x0502 q).settle } := by
  have on : (h.busOn && !(h.quad q).busStuck) = true := by
    rw [hst, Bool.not_false, Bool.and_true]
    exact decide_eq_true h4
  obtain ⟨g, hg⟩ : ∃ g : Hw, ((h.onQuad q fun x => { x with busStuck := true }).busPut [.recover q]).alarm 0x0502 q = g := ⟨_, rfl⟩
  have stuck : (g.quad q).busStuck = true := by
    rw [← hg]
    exact congrArg Quad.busStuck (Hw.onQuad_quad h _ q.isLt)
  have four : ∀ n ∈ [4 * q.val, 4 * q.val + 1, 4 * q.val + 2, 4 * q.val + 3], n / 4 = q.val := by
    simp only [List.mem_cons, List.not_mem_nil, or_false]
    omega
  unfold execFemBusStuck
  rw [ok_eq, he, on, Hw.whenB_true]
  dsimp only
  rw [hg, Hw.each_stuckFail stuck four, ← hg]
  rfl

end

/-! ### Status polls (R315) -/

/-- A FEM that a poll misses. -/
def missedPoll (p : Path) : Path := { p with fem := { p.fem with missedPolls := p.fem.missedPolls + 1 } }

/-- A FEM that answers a poll. -/
def answeredPoll (alarm : Bool) (p : Path) : Path := { p with fem := { p.fem with missedPolls := 0, alarmPin := alarm } }

theorem answeredPoll_eq {p : Path} (hp : p.restore = none) (a : Bool) (f : Restore → Restore) :
    { p with fem := { p.fem with missedPolls := 0, alarmPin := a }, restore := p.restore.map f } = answeredPoll a p := by
  rw [hp, Option.map_none, ← hp]
  rfl

/-- A poll of path `n` that has ended: its transaction has left the queue, and `f` is what it makes of the path. -/
def Hw.pollEnded (h : Hw) (n : Nat) (o : Out) (f : Path → Path) : Hw :=
  { h with quads := updN h.quads (n / 4) (Hw.queueLess (2, n)), out := o, paths := updN h.paths n f }

section
variable {s : State} {dt : Nat} {h : Hw} (he : s.hw.elapse dt = h) (h4 : 4 ≤ h.sta.stage) {n : PathId} (hret : (h.path n).retired = false)
  (hdis : (h.path n).disabled = false) (hres : (h.path n).restore = none)
include he h4 hret hdis

theorem exec_femStatusPollDone_none {c : Bool} (hc : decide (2 ≤ (h.path n).fem.missedPolls) = c) :
    execFemStatusPollDone dt n none s = .next { s with hw :=
      ((h.pollEnded n h.out missedPoll).whenB c fun h => h.femFailAlarm n 1 0x0501).settle } := by
  have on : (h.busOn && (!(h.path n).retired || (h.path n).restore.isSome)) = true := by
    rw [hret, Bool.not_false, Bool.true_or, Bool.and_true]
    exact decide_eq_true h4
  have path : (h.pollEnded n h.out missedPoll).path n = missedPoll (h.path n) := getN_updN_same _ _ _ n.isLt
  have third : ((h.pollEnded n h.out missedPoll).checked n && decide (3 ≤ ((h.pollEnded n h.out missedPoll).path n).fem.missedPolls)) = c := by
    rw [(Hw.checked_iff _ n).mpr ⟨by rw [path]; exact hret, by rw [path]; exact hdis⟩, Bool.true_and, path, ← hc]
    exact decide_eq_decide.mpr Nat.succ_le_succ_iff
  unfold execFemStatusPollDone
  rw [ok_eq, he, on, Hw.whenB_true]
  dsimp only
  rw [Hw.busDrop_eq, ← third]
  rfl

include hres in
theorem exec_femStatusPollDone_some (a : Bool) : execFemStatusPollDone dt n (some a) s = .next { s with hw :=
    ((h.pollEnded n { h.out with bus := h.out.bus ++ [statusPoll n] } (answeredPoll a)).whenB a fun h => h.femFailAlarm n 5 0x0507).settle } := by
  have on : (h.busOn && (!(h.path n).retired || (h.path n).restore.isSome)) = true := by
    rw [hret, Bool.not_false, Bool.true_or, Bool.and_true]
    exact decide_eq_true h4
  obtain ⟨g, hg⟩ : ∃ g : Hw, h.pollEnded n { h.out with bus := h.out.bus ++ [statusPoll n] } (answeredPoll a) = g := ⟨_, rfl⟩
  have path : g.path n = answeredPoll a (h.path n) := by
    rw [← hg]
    exact getN_updN_same _ _ _ n.isLt
  have fails : (a && g.checked n) = a := by
    rw [(Hw.checked_iff _ n).mpr ⟨by rw [path]; exact hret, by rw [path]; exact hdis⟩, Bool.and_true]
  have polled : (((h.busDrop (n / 4) 2 n).busPut [statusPoll n]).onPath n fun p =>
      { p with fem := { p.fem with missedPolls := 0, alarmPin := a }
               restore := p.restore.map fun r => if r.kr.any fun t => t ≤ (h.busDrop (n / 4) 2 n).tim.k + 2 then r else { r with alarm := a } }) = g := by
    rw [Hw.busDrop_eq, ← hg]
    exact Hw.onPath_congr _ n (g := answeredPoll a) (answeredPoll_eq (by exact hres) a _)
  unfold execFemStatusPollDone
  rw [ok_eq, he, on, Hw.whenB_true, hg]
  dsimp only
  rw [polled, fails]

end

theorem Hw.pollEnded_fem (h : Hw) (n : Nat) (o : Out) {f : Path → Path} {fem : Fem} (hf : f (h.path n) = { h.path n with fem := fem }) :
    h.pollEnded n o f =
      { h with quads := updN h.quads (n / 4) (Hw.queueLess (2, n)), out := o, paths := updN h.paths n fun p => { p with fem := fem } } :=
  congrArg (fun v => ({ h with quads := updN h.quads (n / 4) (Hw.queueLess (2, n)), out := o, paths := v } : Hw)) (updN_congr ({} : Path) hf)

/-- What a failed poll shows: the FEM's failure, told with its alarm. -/
theorem Hw.pollEnded_fails {h : Hw} (hs : h.Settled) {n : PathId} (o : Out) {f : Path → Path} (cause : Nat) {code : Nat} (hc : isState code = false)
    {q : Path → Path}
    (hq : failedPath h.dueTick h.sta.since cause (f (h.path n)) = q (h.path n)) {k : Hw}
    (hk : ((h.pollEnded n o f).femFailAlarm n cause code).settle = k) :
    k = ({ h with quads := k.quads, out := o, paths := updN h.paths n q } : Hw).told k ∧
      (∀ j : QuadId, j.val ≠ n / 4 → k.quad j = h.quad j) ∧
      ((h.quad (n / 4)).busStuck = false → (4, n.val) ∈ (k.quad (n / 4)).busQueue) ∧ k.newest code n := by
  have hn : n.val / 4 < 16 := by omega
  obtain ⟨told, others, mem, newest⟩ := Hw.femFailAlarm_settle (h := h.pollEnded n o f) (by exact hs) hn cause hc hk
  refine ⟨told.trans ?_, fun j hj => (others j hj).trans (Hw.onQuad_quad_ne h _ hj), fun hst => mem ?_, newest⟩
  · have path : updN (h.pollEnded n o f).paths n (failedPath (h.pollEnded n o f).dueTick (h.pollEnded n o f).sta.since cause) = updN h.paths n q :=
      (updN_updN ..).trans (updN_congr ({} : Path) hq)
    rw [path]
    rfl
  · have quad : (h.pollEnded n o f).quad (n / 4) = Hw.queueLess (2, n) (h.quad (n / 4)) := getN_updN_same _ _ _ hn
    rw [quad, Hw.queueLess]
    split
    · exact hst
    · exact hst

/-! ### The read of a FEM whose path is to be restored (R311, R312) -/

/-- The read of path `n` has ended: its transaction has left the queue, its transfers were on the bus, and `f` is what it makes of the path. -/
def Hw.readEnded (h : Hw) (n : Nat) (fem : FemRead) (f : Path → Path) : Hw :=
  { h with
    quads := updN h.quads (n / 4) (Hw.queueLess (3, n))
    out := { h.out with bus := h.out.bus ++ if fem.identity.isSome then femReads n ++ [statusPoll n] else [] }
    paths := updN h.paths n f }

theorem Hw.readEnded_eq (h : Hw) (n : Nat) (fem : FemRead) (f : Path → Path) :
    ((h.busDrop (n / 4) 3 n).whenB fem.identity.isSome fun h => h.busPut (femReads n ++ [statusPoll n])).onPath n f = h.readEnded n fem f := by
  rw [Hw.busDrop_eq, Hw.readEnded]
  cases fem.identity.isSome
  · rw [whenB_false, if_neg Bool.false_ne_true, List.append_nil]
    rfl
  · rw [whenB_true, if_pos rfl]
    rfl

theorem Hw.readEnded_path (h : Hw) (n : PathId) (fem : FemRead) (f : Path → Path) : (h.readEnded n fem f).path n = f (h.path n) :=
  getN_updN_same _ _ _ n.isLt

/-- The image, the ticks and the paths as the read's end finds them. -/
theorem Hw.readEnded_before (h : Hw) (n : Nat) (fem : FemRead) {g : Hw}
    (hg : ((h.busDrop (n / 4) 3 n).whenB fem.identity.isSome fun h => h.busPut (femReads n ++ [statusPoll n])) = g) :
    g.path n = h.path n ∧ g.dpdInitOf n = h.dpdInitOf n ∧ g.tim = h.tim ∧ g.frameFrom = h.frameFrom := by
  subst hg
  cases fem.identity.isSome
  · exact ⟨rfl, rfl, rfl, rfl⟩
  · exact ⟨rfl, rfl, rfl, rfl⟩

/-- A path to be restored whose FEM could not be read. -/
def lostFem (p : Path) : Path := { p with restore := none, fsCurrent := 20, fem := { p.fem with id := none } }

/-- A path to be restored whose FEM was read: `init` are the words of its DPD_INIT banks, `kr` the tick of the restore. -/
def readFem (r : Restore) (fem : FemRead) (alarm : Bool) (id : FemId) (init : List (Nat × Word)) (kr : Nat) (p : Path) : Path :=
  { p with
    fem := { femLoad p.fem id fem with alarmPin := alarm }, fsCurrent := id.dacFs
    restore := some { r with read := true, kr := some kr, alarm := alarm }
    dpd := if p.fem.lastSerial = some id.serial then p.dpd else Hw.dpdReload p.dpd init }

section
variable {s : State} {dt : Nat} {h : Hw} (he : s.hw.elapse dt = h) (h4 : 4 ≤ h.sta.stage) {n : PathId} {fem : FemRead} {alarm : Bool} {r : Restore}
  (hres : (h.path n).restore = some r) (hread : r.read = false) (hret : (h.path n).retired = true) (htgt : r.target ≤ h.tim.k)
include he h4 hres hread hret htgt

theorem exec_femIdentityReadDone_none (hid : fem.identity.bind parseIdentity = none) :
    execFemIdentityReadDone dt n fem (some alarm) s = .next { s with hw := ((h.readEnded n fem lostFem).alarm 0x0501 n).settle } := by
  have on : (h.busOn && !r.read && (h.path n).retired && decide (r.target ≤ h.tim.k)) = true := by
    rw [hread, hret, decide_eq_true htgt, Bool.not_false, Bool.and_true, Bool.and_true, Bool.and_true]
    exact decide_eq_true h4
  unfold execFemIdentityReadDone
  rw [ok_eq, he, hres]
  dsimp only
  rw [on, Hw.whenB_true, hid, ← Hw.readEnded_eq]
  rfl

theorem exec_femIdentityReadDone_some {id : FemId} (hid : fem.identity.bind parseIdentity = some id) :
    execFemIdentityReadDone dt n fem (some alarm) s = .next { s with hw :=
      ((h.readEnded n fem (readFem r fem alarm id (h.dpdInitOf n) (h.frameFrom (Nat.max r.target (h.tim.k + 3))))).whenB
        (femLoad (h.path n).fem id fem).lifeInvalid fun h => h.alarm 0x0503 n).settle } := by
  have on : (h.busOn && !r.read && (h.path n).retired && decide (r.target ≤ h.tim.k)) = true := by
    rw [hread, hret, decide_eq_true htgt, Bool.not_false, Bool.and_true, Bool.and_true, Bool.and_true]
    exact decide_eq_true h4
  obtain ⟨g, hg⟩ : ∃ g : Hw, ((h.busDrop (n / 4) 3 n).whenB fem.identity.isSome fun h => h.busPut (femReads n ++ [statusPoll n])) = g := ⟨_, rfl⟩
  obtain ⟨path, init, tim, frame⟩ := h.readEnded_before n fem hg
  obtain ⟨k, hk⟩ : ∃ k : Hw, h.readEnded n fem (readFem r fem alarm id (h.dpdInitOf n) (h.frameFrom (Nat.max r.target (h.tim.k + 3)))) = k := ⟨_, rfl⟩
  have read : (g.onPath n fun p =>
      { p with
        fem := { femLoad p.fem id fem with alarmPin := (some alarm).getD p.fem.alarmPin }, fsCurrent := id.dacFs
        restore := some { r with read := true, kr := some (g.frameFrom (Nat.max r.target (g.tim.k + 3))), alarm := (some alarm).getD false }
        dpd := if (g.path n).fem.lastSerial != some id.serial then Hw.dpdReload p.dpd (g.dpdInitOf n) else p.dpd }) = k := by
    rw [← hk, ← Hw.readEnded_eq, hg, init, tim, frame]
    refine Hw.onPath_congr _ n ?_
    dsimp only [readFem]
    by_cases same : (g.path n).fem.lastSerial = some id.serial
    · rw [if_pos same, if_neg (by rw [bne_iff_ne]; exact not_not.mpr same)]
      rfl
    · rw [if_neg same, if_pos (bne_iff_ne.mpr same)]
      rfl
  have loaded : (k.path n).fem.lifeInvalid = (femLoad (h.path n).fem id fem).lifeInvalid := by
    rw [← hk, Hw.readEnded_path]
    rfl
  unfold execFemIdentityReadDone
  rw [ok_eq, he, hres]
  dsimp only
  rw [on, Hw.whenB_true, hid, hg]
  dsimp only
  rw [read, loaded, hk]

end

/-- What the read of a FEM shows once an invalid life record is told. -/
theorem Hw.readEnded_told {h : Hw} (hs : h.Settled) {n : PathId} {fem : FemRead} {f : Path → Path} {c : Bool} {k : Hw}
    (hk : ((h.readEnded n fem f).whenB c fun h => h.alarm 0x0503 n).settle = k) :
    k = (h.readEnded n fem f).told k ∧ k.path n = f (h.path n) := by
  have path : k.path n = f (h.path n) := by
    rw [← hk, Hw.settle_path]
    exact (congrArg (getN · n.val ({} : Path)) (Hw.whenB_keep Hw.paths _ c _ rfl)).trans (h.readEnded_path n fem f)
  refine ⟨?_, path⟩
  rw [← hk]
  cases c
  · exact Hw.settle_told _ h.lko.pend _ rfl
  · exact (Hw.alarm_settle (h.readEnded n fem f) 0x0503 n 0 hs.1 rfl).1

/-- The transfers that a read put on the bus. -/
theorem femReads_path (n : PathId) : femReads n ++ [statusPoll n] =
    ((List.range 24).map fun j => BusItem.transfer (n / 4) (0x50 + n % 4) (be 2 (32 * j)) [] 32) ++ [.transfer (n / 4) (0x58 + n % 4) [0] [] 1] := by
  have reads := femReads_eq (n.val / 4) (n.val % 4) (Nat.mod_lt _ (by decide))
  rw [Nat.div_add_mod] at reads
  rw [reads, statusPoll]

/-- A path of a quad whose bus is stuck. -/
theorem getN_stuckPaths (v : Vector Path 64) (q : QuadId) (n : PathId) (due up : Nat) :
    getN (Hw.onFourPaths v q (Hw.stuckPath due up)) n {} =
      if n / 4 = q.val ∧ (getN v n {}).retired = false ∧ (getN v n {}).disabled = false then Hw.failedPath due up 2 (getN v n {}) else getN v n {} := by
  rw [Hw.getN_onFourPaths v n.isLt, ite_and]
  rfl

/-- Settles O33: an attempt on a bus, a bus held low and freed, a status poll and the read of a FEM to be restored, one lemma each. -/
theorem femTraffic : Obligations.FemTraffic := by
  refine ⟨?bus, ?polls, ?read⟩
  case bus =>
    intro s dt q hs h4 h quad cleared
    have settled : h.Settled := Hw.elapse_settled _ hs dt
    have stage : 4 ≤ h.sta.stage := by
      show 4 ≤ (s.hw.elapse dt).sta.stage
      rw [Hw.elapse_sta]
      exact h4
    refine ⟨fun high free => ⟨?_, fun few => ?_, fun third => ?_⟩, fun stuck => ⟨?_, fun good => ?_⟩, fun free => ?_⟩
    · exact exec_femBusTransactionDone_good rfl stage settled free high
    · refine (exec_femBusTransactionDone_failed rfl stage settled free high (l := (h.quad q).busQueue)
        (f := fun x => { x with busNack := min (2 ^ 32 - 1) (x.busNack + 1), busTries := x.busTries + 1 }) ?_ rfl).trans ?_
      · rw [if_neg (Nat.not_le_of_lt few), if_neg (Nat.not_le_of_lt few)]
        rfl
      · by_cases hc : high = false ∧ (h.quad q).busQueue ≠ []
        · rw [if_pos hc]
          exact congrArg Host.Outcome.next (if_pos hc).symm
        · rw [if_neg hc]
          exact congrArg Host.Outcome.next (if_neg hc).symm
    · refine (exec_femBusTransactionDone_failed rfl stage settled free high (l := (h.quad q).busQueue.drop 1)
        (f := fun x => { x with busNack := min (2 ^ 32 - 1) (x.busNack + 1), busTries := 0, busQueue := x.busQueue.drop 1 }) ?_ rfl).trans ?_
      · rw [if_pos third, if_pos third]
        rfl
      · by_cases hc : high = false ∧ (h.quad q).busQueue.drop 1 ≠ []
        · rw [if_pos hc]
          exact congrArg Host.Outcome.next (if_pos hc).symm
        · rw [if_neg hc]
          exact congrArg Host.Outcome.next (if_neg hc).symm
    · exact exec_femBusTransactionDone_low rfl stage settled stuck
    · exact exec_femBusTransactionDone_high rfl stage settled stuck good
    · refine ⟨_, exec_femBusStuck_eq rfl stage free, rfl, rfl, ?_, ?_, fun n => ?_⟩
      · dsimp only
        rw [Hw.settle_paths]
        exact Hw.settle_told _ _ _ rfl
      · exact (Hw.happen_settle_raised ({ h with
          quads := updN h.quads q fun x => { x with busStuck := true }
          paths := Hw.onFourPaths h.paths q (Hw.stuckPath h.dueTick h.sta.since)
          out := { h.out with bus := h.out.bus ++ [.recover q] } } : Hw) (x := { code := 0x0502, arg := q.val }) settled.1 rfl rfl).2.2
      · intro p
        dsimp only
        rw [Hw.settle_path]
        refine (getN_stuckPaths h.paths q n _ _).trans ?_
        rw [Hw.dueTick_eq]
        rfl
  case polls =>
    intro s dt n hs h4 hret hdis hres h p due dropped quads polled set_ failed
    have settled : h.Settled := Hw.elapse_settled _ hs dt
    have stage : 4 ≤ h.sta.stage := by
      show 4 ≤ (s.hw.elapse dt).sta.stage
      rw [Hw.elapse_sta]
      exact h4
    have path : h.path n = s.hw.path n := congrArg (getN · n.val ({} : Path)) (Hw.elapse_paths s.hw dt)
    rw [← path] at hret hdis hres
    refine ⟨?_, ?_, fun few => ?_, fun third => ?_⟩
    · refine (exec_femStatusPollDone_some rfl stage hret hdis hres false).trans ?_
      rw [Hw.whenB_false, Hw.settle_of_settled _ (by exact settled)]
      exact congrArg (fun g => Host.Outcome.next { s with hw := g }) (h.pollEnded_fem n polled
        (f := answeredPoll false) (fem := { p.fem with missedPolls := 0, alarmPin := false }) rfl)
    · refine ⟨_, exec_femStatusPollDone_some rfl stage hret hdis hres true, rfl, rfl, ?_⟩
      refine Hw.pollEnded_fails settled polled 5 (code := 0x0507) rfl ?_ rfl
      rw [Hw.dueTick_eq]
      rfl
    · refine (exec_femStatusPollDone_none rfl stage hret hdis (c := false) (decide_eq_false (Nat.not_le_of_lt few))).trans ?_
      rw [Hw.whenB_false, Hw.settle_of_settled _ (by exact settled)]
      exact congrArg (fun g => Host.Outcome.next { s with hw := g }) (h.pollEnded_fem n h.out
        (f := missedPoll) (fem := { p.fem with missedPolls := p.fem.missedPolls + 1 }) rfl)
    · refine ⟨_, exec_femStatusPollDone_none rfl stage hret hdis (c := true) (decide_eq_true third), rfl, rfl, ?_⟩
      refine Hw.pollEnded_fails settled h.out 1 (code := 0x0501) rfl ?_ rfl
      rw [Hw.dueTick_eq]
      rfl
  case read =>
    intro s dt n fem alarm r hs h4 hres hread hret htgt h quads out
    have settled : h.Settled := Hw.elapse_settled _ hs dt
    have stage : 4 ≤ h.sta.stage := by
      show 4 ≤ (s.hw.elapse dt).sta.stage
      rw [Hw.elapse_sta]
      exact h4
    have path : h.path n = s.hw.path n := congrArg (getN · n.val ({} : Path)) (Hw.elapse_paths s.hw dt)
    have tick : h.tim.k = s.hw.tim.k := by
      show (s.hw.elapse dt).tim.k = _
      rw [Hw.elapse_tim_eq]
    rw [← path] at hres hret
    rw [← tick] at htgt
    have ended (f : Path → Path) : h.readEnded n fem f = { h with quads := quads, out := out, paths := updN h.paths n f } := by
      rw [Hw.readEnded, femReads_path]
      rfl
    refine ⟨fun hid => ?_, fun id hid => ?_⟩
    · rw [← ended]
      exact exec_femIdentityReadDone_none rfl stage hres hread hret htgt hid
    · intro w kr
      refine ⟨_, exec_femIdentityReadDone_some rfl stage hres hread hret htgt hid, rfl, rfl, ?_⟩
      obtain ⟨told, at_⟩ := Hw.readEnded_told settled (n := n) (fem := fem)
        (f := readFem r fem alarm id (h.dpdInitOf n) (h.frameFrom (Nat.max r.target (h.tim.k + 3))))
        (c := (femLoad (h.path n).fem id fem).lifeInvalid) rfl
      rw [ended] at told
      refine ⟨told, ?_⟩
      · dsimp only
        rw [at_]
        exact femLoad_id ..

end Sys2Proof.Machine
end

section
/-! A life page written (R308, R314). Refutes O34. -/
namespace Sys2Proof.Machine

/-- The field SERIAL of a life copy (Table 14.4) is the serial number kept with the FEM's counts. -/
theorem rd_lifeBytes_serial (h : Hw) (n : Nat) : rd (lifeBytes h n) 16 8 = (h.path n).fem.lastSerial.getD 0 % 256 ^ 8 := by
  unfold lifeBytes
  simp only [List.append_assoc]
  rw [rd_skip _ _ _ (by decide), rd_skip _ _ _ (by decide), rd_skip _ _ _ (by decide), rd_skip _ _ _ (by decide), rd_skip _ _ _ (by decide),
    rd_skip _ _ _ (by decide)]
  exact rd_here 8 _ _

/-- A write that succeeds on a sound bus leaves the copy's bytes. -/
theorem exec_femLifeWriteDone_life {s : State} {h : Hw} (he : s.hw.elapse 0 = h) (h4 : 4 ≤ h.sta.stage) {n : PathId}
    (hdue : (h.path n).fem.writeDue = true) (hst : (h.quad (n / 4)).busStuck = false) : ∃ t, execFemLifeWriteDone 0 n .ok s = .next t ∧
      t.hw.out.life = h.out.life ++ [(n.val, if (h.path n).fem.newerA then 0x0200 else 0x0100, lifeBytes h n)] := by
  have on : (h.busOn && (h.path n).fem.writeDue && !(h.quad (n.val / 4)).busStuck) = true := by
    rw [hdue, hst, Bool.not_false, Bool.and_true, Bool.and_true]
    exact decide_eq_true h4
  unfold execFemLifeWriteDone
  rw [ok_eq, he, on, Hw.whenB_true]
  refine ⟨_, rfl, ?_⟩
  dsimp only
  rw [Hw.settle_out]
  exact congrArg Out.life (Hw.whenB_keep Hw.out _ _ _ rfl)

/-- A FEM's identity, its serial number 1. -/
def unkeptId : FemId := {
  dacFs := 20, serial := 1, rated := 1, iRated := 0, pRated := 0, gain := 0, headroom := 0, biasMode := 0, biasNom := 0, biasTc := 0
  iOnMin := 0, iOnMax := 0, iOffMax := 0, isnsGain := 0, pdOffset := 0, pdGain := 0, reflMax := 0 }

/-- S4, with a life write of path 0 due, and no serial number kept with the counts of its FEM. -/
def unkeptSerial : State := { State.reset with hw := { State.reset.hw with
  sta := { State.reset.hw.sta with stage := 4 }, pins := { State.reset.hw.pins with stat := 3 }
  paths := updN State.reset.hw.paths 0 fun p => { p with fem := { p.fem with id := some unkeptId, lastSerial := none, writeDue := true } } } }

theorem unkeptSerial_settled : unkeptSerial.hw.Settled := ⟨rfl, rfl, Hw.reset_armLevel.symm, rfl⟩

theorem unkeptSerial_fem : ((unkeptSerial.hw.elapse 0).path 0).fem =
    { (State.reset.hw.path 0).fem with id := some unkeptId, lastSerial := none, writeDue := true } := by
  rw [Hw.elapse_zero]
  exact congrArg Path.fem (getN_updN_same _ _ _ (by decide))

/-- Refutes O34: nothing ties the FEM's identity to the serial number kept with its counts, which is the one that a life copy carries; with
the identity's serial number 1 and none kept, the copy's SERIAL is 0. -/
theorem not_femLife : ¬ Obligations.FemLife := by
  intro claim
  obtain ⟨-, writes⟩ := claim unkeptSerial 0 0 unkeptSerial_settled (le_refl 4)
  have fem := unkeptSerial_fem
  have due : ((unkeptSerial.hw.elapse 0).path 0).fem.writeDue = true := by rw [fem]
  have known : ((unkeptSerial.hw.elapse 0).path 0).fem.id = some unkeptId := by rw [fem]
  have sound : ((unkeptSerial.hw.elapse 0).quad 0).busStuck = false := by decide +kernel
  obtain ⟨ok, -⟩ := writes due sound
  obtain ⟨t, run, -, -, -, -, ⟨bytes, out, -, -, -, -, serial⟩, -⟩ := ok _ known
  obtain ⟨u, ran, life⟩ := exec_femLifeWriteDone_life (s := unkeptSerial) rfl (le_refl 4) (n := 0) due sound
  obtain rfl : t = u := Host.Outcome.next.inj (run.symm.trans ran)
  rw [out] at life
  have same : bytes = lifeBytes (unkeptSerial.hw.elapse 0) 0 :=
    congrArg (fun x => x.2.2) (List.singleton_inj.mp (List.append_cancel_left life))
  rw [same, rd_lifeBytes_serial, show ((unkeptSerial.hw.elapse 0).path 0).fem.lastSerial = none by rw [fem]] at serial
  exact absurd serial (by decide)

end Sys2Proof.Machine
end

section
/-! Housekeeping readings and the checks of the FEMs that they drive (R313, R315, R324 to R326). Settles O35. -/
namespace Sys2Proof.Machine

/-! ### The mean of an entry -/

theorem showRat_natCast (m : Nat) : showRat (m : Rat) = m := by
  rw [showRat, if_pos (Rat.den_natCast m), Rat.num_natCast]

theorem showRat_div {a b : Nat} (hb : 0 < b) (h : a % b = 0) : (showRat ((a : Rat) / (b : Rat))).toNat = a / b := by
  have whole : ((a : Rat) / (b : Rat)) = ((a / b : Nat) : Rat) := (Nat.cast_div (Nat.dvd_of_mod_eq_zero h) (Nat.cast_ne_zero.mpr hb.ne')).symm
  rw [whole, showRat_natCast, Int.toNat_natCast]

/-! ### What every reading changes (R325, R326) -/

/-- A quad whose entry has ended: its mean is the result of the entry's channel. -/
def readQuad (e : HkEntry) (length mean bad tick codes : Nat) (mixed paen : Bool) (x : Quad) : Quad :=
  { x with
    hk := updN x.hk e.channel fun r => { mean := mean, ovr := decide (0 < bad), mixed := mixed, paen := paen, valid := true, tick := tick % 2 ^ 32
                                         count := min (2 ^ 32 - 1) (r.count + bad) }
    conv := min (2 ^ 48 - 1) (x.conv + codes), hkEntry := if x.hkEntry + 1 < length then x.hkEntry + 1 else 0 }

/-- A path that no change of PAEN marks any more, where it is of a quad. -/
def unmoved (q j : Nat) (p : Path) : Path := if j / 4 = q then { p with paenMoved := false } else p

/-- The path that an entry of a channel speaks of. -/
def entryPath (q c : Nat) : Nat := if c < 4 then 4 * q + c else 4 * q + c - 4

/-- A reading taken, before what it feeds. -/
def Hw.hkTaken (h : Hw) (q : Nat) (f : Quad → Quad) : Hw := { h with quads := updN h.quads q f, paths := vmapi h.paths (unmoved q) }

section
variable {s : State} {dt : Nat} {h : Hw} (he : s.hw.elapse dt = h) {q : QuadId} {codes : List HkCode} {seq : List HkEntry} {e : HkEntry}
  (hrun : (h.quad q).hkRunning = true) (hseq : assoc q.val h.image.hkSeq = some seq) (hent : seq[(h.quad q).hkEntry]? = some e)
  (hlen : codes.length = e.rep + 1)
include he hrun hseq hent hlen

theorem execHkReading_eq (hm : 16 * sumL (codes.map (·.code)) % (e.rep + 1) = 0) {bad : Nat} (hb : (codes.filter (·.ovr)).length = bad)
    {mixed paen : Bool} (hmix : (decide (e.channel < 8) && (h.path (entryPath q e.channel)).paenMoved) = mixed)
    (hpaen : (decide (e.channel < 8) && (h.path (entryPath q e.channel)).paen) = paen) :
    execHkReading dt q codes s = .next { s with hw := (hkFeed (h.hkTaken q
      (readQuad e seq.length (16 * sumL (codes.map (·.code)) / (e.rep + 1)) bad h.tim.k codes.length mixed paen)) q e.channel
      (16 * sumL (codes.map (·.code)) / (e.rep + 1)) (decide (0 < bad)) mixed).settle } := by
  have mean := showRat_div (Nat.succ_pos e.rep) hm
  have full : ((h.quad q).hkRunning && codes.length == e.rep + 1) = true := by
    rw [hrun, hlen, beq_self_eq_true, Bool.and_true]
  unfold execHkReading
  rw [ok_eq, he]
  dsimp only
  rw [hseq, Option.getD_some, hent]
  dsimp only
  rw [full, Hw.whenB_true, mean, hb]
  subst hmix hpaen
  rw [Hw.bne_zero_eq_decide_pos]
  rfl

end

/-! ### What a reading feeds (R313, R315, R316) -/

/-- A FEM that has been at a temperature. -/
def hotFem (t : Rat) (p : Path) : Path := if p.fem.id.isSome then { p with fem := { p.fem with tMax := Hw.highest p.fem.tMax t } } else p

theorem hkFeed_temp (h : Hw) (q mean : Nat) : hkFeed h q 8 mean false false =
    { h with quads := updN h.quads q fun x => { x with femTemp := some (femDegrees h mean), hkAge := 0 }
             paths := Hw.onFourPaths h.paths q (hotFem (femDegrees h mean)) } := by
  have eq : hkFeed h q 8 mean false false = hkTemp h q mean false := rfl
  rw [eq, hkTemp, if_neg Bool.false_ne_true]
  exact Hw.each_onPath _ _ _

theorem hkFeed_none (h : Hw) (q mean : Nat) (ovr mixed : Bool) : hkFeed h q 11 mean ovr mixed = h := rfl

theorem hkFeed_supply (h : Hw) (q mean : Nat) (hwas : (h.quad q).supplyOut = false) : hkFeed h q 9 mean false false =
    (h.onQuad q fun x => { x with supplyOut := decide (mean < 16 * h.image.policy.supplyMin) || decide (16 * h.image.policy.supplyMax < mean) }).whenB
      (decide (mean < 16 * h.image.policy.supplyMin) || decide (16 * h.image.policy.supplyMax < mean)) fun h => h.alarm 0x0508 q := by
  have eq : hkFeed h q 9 mean false false = hkSupply h q mean false := rfl
  rw [eq]
  unfold hkSupply
  dsimp only
  rw [hwas, Bool.false_or, Bool.not_false, Bool.and_true, Bool.false_and, Hw.whenB_false]

/-- A drain current outside its limits while PAEN is high. -/
def biasOut (id : FemId) (mean : Nat) (ovr : Bool) : Bool :=
  ovr || (decide (mean * id.isnsGain < id.iOnMin * 65536) || decide (id.iOnMax * 65536 < mean * id.isnsGain))

/-- A reflected power above its limit. -/
def reflOut (id : FemId) (mean : Nat) (ovr : Bool) : Bool := ovr || decide (id.reflMax * 65536 < id.pdOffset * 65536 + (mean : Int) * id.pdGain)

section
variable {h : Hw} {n : Nat} {id : FemId} (hid : (h.path n).fem.id = some id) (hck : h.checked n = true) (hpaen : (h.path n).paen = true)
include hid hck hpaen

theorem hkCurrent_eq (mean : Nat) (ovr mixed : Bool) : hkCurrent h n mean ovr mixed =
    (h.onPath n fun p => { p with fem := { p.fem with
      biasRun := runNext (!mixed) (biasOut id mean ovr) (h.path n).fem.biasRun
      iSum := if p.paen && !mixed then p.fem.iSum + mean else p.fem.iSum
      iCount := if p.paen && !mixed then p.fem.iCount + 1 else p.fem.iCount } }).whenB
        (!mixed && biasOut id mean ovr && decide (h.image.policy.biasCount ≤ runNext (!mixed) (biasOut id mean ovr) (h.path n).fem.biasRun))
        fun h => h.femFailAlarm n 3 0x0505 := by
  unfold hkCurrent
  dsimp only
  rw [hid]
  dsimp only
  rw [hck, hpaen, Bool.true_and, Bool.true_or, Bool.and_true, if_pos rfl]
  rfl

theorem hkReflected_eq (mean : Nat) (ovr : Bool) : hkReflected h n mean ovr false =
    (h.onPath n fun p => { p with fem := { p.fem with
      reflRun := runNext true (reflOut id mean ovr) (h.path n).fem.reflRun
      reflPeak := Hw.highest p.fem.reflPeak (((id.pdOffset * 65536 + (mean : Int) * id.pdGain : Int) : Rat) / 65536) } }).whenB
        (reflOut id mean ovr && decide (h.image.policy.reflCount ≤ runNext true (reflOut id mean ovr) (h.path n).fem.reflRun))
        fun h => h.femFailAlarm n 4 0x0506 := by
  unfold hkReflected
  dsimp only
  rw [hid]
  dsimp only
  rw [hck, hpaen, Bool.not_false, Bool.true_and, Bool.true_and]
  rfl

end

/-- A FEM judged: path `n` after `f`, failed where `c` says so. -/
theorem Hw.judged {g : Hw} (hs : g.Settled) {n : Nat} (hn : n < 64) (f : Path → Path) {c : Bool} (cause : Nat) {code : Nat} (hc : isState code = false)
    {k : Hw} (hk : ((g.onPath n f).whenB c fun h => h.femFailAlarm n cause code).settle = k) :
    (∀ j, j ≠ n → k.path j = g.path j) ∧
      k.path n = (if c then Hw.failedPath g.dueTick g.sta.since cause (f (g.path n)) else f (g.path n)) ∧
      (c = false → k = g.onPath n f) ∧ (c = true → k.newest code n) := by
  have own : (g.onPath n f).path n = f (g.path n) := getN_updN_same _ _ _ hn
  cases c
  · have same : k = g.onPath n f := by
      rw [← hk, whenB_false]
      exact Hw.settle_of_settled _ (by exact hs)
    rw [same]
    exact ⟨fun j hj => getN_updN_ne _ _ _ hj, own, fun _ => rfl, fun e => absurd e Bool.false_ne_true⟩
  · obtain ⟨told, -, -, newest⟩ := Hw.femFailAlarm_settle (h := g.onPath n f) (by exact hs) (by omega) cause hc hk
    have paths : k.paths = updN (g.onPath n f).paths n (Hw.failedPath g.dueTick g.sta.since cause) := congrArg Hw.paths told

    refine ⟨fun j hj => ?_, ?_, fun e => absurd e Bool.noConfusion, fun _ => newest⟩
    · rw [path, paths]
      exact (getN_updN_ne _ _ _ hj).trans (getN_updN_ne _ _ _ hj)
    · rw [path, paths, if_pos rfl]
      exact (getN_updN_same _ _ _ hn).trans (congrArg _ own)

/-! ### The state that a reading leaves -/

theorem any_ovr (code : HkCode) : decide (0 < ([code].filter (·.ovr)).length) = code.ovr := by
  cases h : code.ovr
  · rw [List.filter_cons_of_neg (by rw [h]; exact Bool.false_ne_true)]
    rfl
  · rw [List.filter_cons_of_pos h]
    rfl

theorem hkTaken_quad (h : Hw) {q : QuadId} (f : Quad → Quad) : (h.hkTaken q f).quad q = f (h.quad q) := getN_updN_same _ _ _ q.isLt

theorem hkTaken_onQuad (h : Hw) (q : Nat) (f g : Quad → Quad) : (h.hkTaken q f).onQuad q g = h.hkTaken q fun x => g (f x) :=
  congrArg (fun v => ({ h with quads := v, paths := vmapi h.paths (unmoved q) } : Hw)) (updN_updN ..)

theorem hkTaken_path (h : Hw) (q : Nat) (f : Quad → Quad) (j : PathId) : (h.hkTaken q f).path j = unmoved q j (h.path j) :=
  getN_vmapi _ _ _ j.isLt

theorem unmoved_same {q j : Nat} (hj : j / 4 = q) (p : Path) : unmoved q j p = { p with paenMoved := false } := if_pos hj

/-- The path of a FEM that a reading of quad `q` judges. -/
theorem hkTaken_own (h : Hw) {q : QuadId} (f : Quad → Quad) {n : Nat} (hn : n / 4 = q.val) :
    (h.hkTaken q f).path n = { h.path n with paenMoved := false } := by
  have lt : n < 64 := by omega
  exact (hkTaken_path h q f ⟨n, lt⟩).trans (unmoved_same hn _)

/-- The outcome of a reading of quad `q` that judges the FEM of path `n`: `f` is what it makes of the path, which `c` says has failed. -/
def Judged (h : Hw) (q : QuadId) (n : Nat) (f : Path → Path) (c : Bool) (cause code : Nat) (channel : Nat) (mixed : Bool)
    (o : Host.Outcome State Fault Refusal) : Prop :=
  ∃ t, o = .next t ∧ (∀ j : PathId, j.val ≠ n → t.hw.path j = unmoved q j (h.path j)) ∧
    t.hw.path n = (if c then Hw.failedPath h.dueTick h.sta.since cause (f { h.path n with paenMoved := false })
      else f { h.path n with paenMoved := false }) ∧
    (c = false → t.hw.lko = h.lko ∧ (getN (t.hw.quad q).hk channel {}).mixed = mixed) ∧ (c = true → t.hw.newest code n)

theorem Judged.of (s : State) {h : Hw} (hs : h.Settled) {q : QuadId} {n : Nat} (hn : n / 4 = q.val) (f : Path → Path) (c : Bool) (cause : Nat) {code : Nat}
    (hc : Hw.isState code = false) (e : HkEntry) (length mean bad tick codes : Nat) (mixed paen : Bool) (h12 : e.channel < 12) :
    Judged h q n f c cause code e.channel mixed (.next { s with hw := (((h.hkTaken q (readQuad e length mean bad tick codes mixed paen)).onPath n f).whenB c
      fun h => h.femFailAlarm n cause code).settle }) := by
  have lt : n < 64 := by omega
  obtain ⟨g, hg⟩ : ∃ g : Hw, h.hkTaken q (readQuad e length mean bad tick codes mixed paen) = g := ⟨_, rfl⟩
  have path : g.path n = { h.path n with paenMoved := false } := hg ▸ hkTaken_own h _ hn
  have quad : g.quad q = readQuad e length mean bad tick codes mixed paen (h.quad q) := hg ▸ hkTaken_quad h _
  have before : g.lko = h.lko ∧ g.dueTick = h.dueTick ∧ g.sta.since = h.sta.since := hg ▸ ⟨rfl, rfl, rfl⟩
  obtain ⟨lko, due, since⟩ := before
  obtain ⟨others, own, still, newest⟩ := Hw.judged (g := g) (by rw [← hg]; exact hs) lt f (c := c) cause hc rfl
  rw [path, due, since] at own
  rw [hg]
  refine ⟨_, rfl, fun j hj => (others j hj).trans ?_, own, fun e => ?_, newest⟩
  · rw [← hg]
    exact hkTaken_path h q _ j
  · dsimp only
    rw [still e]
    refine ⟨lko, ?_⟩
    have same : (g.onPath n f).quad q = g.quad q := rfl
    rw [same, quad]
    exact congrArg HkRes.mixed (getN_updN_same _ _ _ h12)

/-- A path whose drain current was read. -/
def currentPath (run mean : Nat) (mixed : Bool) (p : Path) : Path :=
  { p with fem := { p.fem with biasRun := run, iSum := if p.paen && !mixed then p.fem.iSum + mean else p.fem.iSum
                               iCount := if p.paen && !mixed then p.fem.iCount + 1 else p.fem.iCount } }

/-- A path whose reflected power was read, `x` in 1/65,536 of 0.01 dBm. -/
def reflectedPath (run : Nat) (x : Int) (p : Path) : Path :=
  { p with fem := { p.fem with reflRun := run, reflPeak := Hw.highest p.fem.reflPeak ((x : Rat) / 65536) } }

section
variable {s : State} {dt : Nat} {h : Hw} (he : s.hw.elapse dt = h) (hs : h.Settled) {q : QuadId} {codes : List HkCode} {seq : List HkEntry} {e : HkEntry}
  (hrun : (h.quad q).hkRunning = true) (hseq : assoc q.val h.image.hkSeq = some seq) (hent : seq[(h.quad q).hkEntry]? = some e)
include he hs hrun hseq hent

section
variable (hlen : codes.length = e.rep + 1) {mean : Nat} (hm : 16 * sumL (codes.map (·.code)) % (e.rep + 1) = 0)
  (hmean : 16 * sumL (codes.map (·.code)) / (e.rep + 1) = mean) {bad : Nat} (hb : (codes.filter (·.ovr)).length = bad)
include hlen hm hmean hb

omit hs in
/-- A reading of a channel that belongs to no path. -/
theorem execHkReading_quad {c : Nat} (hc : e.channel = c) (h8 : ¬ c < 8) : execHkReading dt q codes s = .next { s with hw := (hkFeed (h.hkTaken q
    (readQuad e seq.length mean bad h.tim.k codes.length false false)) q c mean (decide (0 < bad)) false).settle } := by
  subst hc hmean
  exact execHkReading_eq he hrun hseq hent hlen hm hb (by rw [decide_eq_false h8, Bool.false_and]) (by rw [decide_eq_false h8, Bool.false_and])

theorem execHkReading_temp (hc : e.channel = 8) (hbad : bad = 0) : execHkReading dt q codes s = .next { s with hw := { h with
    quads := updN h.quads q fun x => { readQuad e seq.length mean bad h.tim.k codes.length false false x with
      femTemp := some (femDegrees h mean), hkAge := 0 }
    paths := Hw.onFourPaths (vmapi h.paths (unmoved q)) q (hotFem (femDegrees h mean)) } } := by
  rw [execHkReading_quad he hrun hseq hent hlen hm hmean hb hc (by decide), hbad, decide_eq_false (Nat.lt_irrefl 0), hkFeed_temp,
    Hw.settle_of_settled _ (by exact hs)]
  have taken := hkTaken_onQuad h q (readQuad e seq.length mean bad h.tim.k codes.length false false)
    fun x => { x with femTemp := some (femDegrees h mean), hkAge := 0 }
  exact congrArg (fun v : Hw => Host.Outcome.next
    { s with hw := { v with paths := Hw.onFourPaths (vmapi h.paths (unmoved q)) q (hotFem (femDegrees h mean)) } }) (hbad ▸ taken)

theorem execHkReading_none (hc : e.channel = 11) : execHkReading dt q codes s =
    .next { s with hw := h.hkTaken q (readQuad e seq.length mean bad h.tim.k codes.length false false) } := by
  rw [execHkReading_quad he hrun hseq hent hlen hm hmean hb hc (by decide), hkFeed_none, Hw.settle_of_settled _ (by exact hs)]

omit hs in
theorem execHkReading_supply (hc : e.channel = 9) (hbad : bad = 0) (hwas : (h.quad q).supplyOut = false) {out : Bool}
    (hout : (decide (mean < 16 * h.image.policy.supplyMin) || decide (16 * h.image.policy.supplyMax < mean)) = out) :
    execHkReading dt q codes s = .next { s with hw := ((h.hkTaken q
      fun x => { readQuad e seq.length mean bad h.tim.k codes.length false false x with supplyOut := out }).whenB out fun h => h.alarm 0x0508 q).settle } := by
  rw [execHkReading_quad he hrun hseq hent hlen hm hmean hb hc (by decide), hbad, decide_eq_false (Nat.lt_irrefl 0), hkFeed_supply]
  · have limits (f : Quad → Quad) : (h.hkTaken q f).image = h.image := rfl
    rw [hkTaken_onQuad, limits, hout]
  · rw [hkTaken_quad]
    exact hwas

end

/-! ### A reading of one conversion that judges a FEM -/

section
variable {code : HkCode} (hrep : e.rep = 0)
include hrep

omit hs in
/-- A reading of one conversion of a FEM's channel. -/
theorem execHkReading_fem {c n : Nat} (hc : e.channel = c) (h8 : c < 8) (hn : entryPath q c = n) : execHkReading dt q [code] s =
    .next { s with hw := (hkFeed (h.hkTaken q (readQuad e seq.length (16 * code.code) ([code].filter (·.ovr)).length h.tim.k 1
      (h.path n).paenMoved (h.path n).paen)) q c (16 * code.code) code.ovr (h.path n).paenMoved).settle } := by
  have one : 16 * sumL ([code].map (·.code)) = 16 * code.code := by simp [sumL]
  have run := execHkReading_eq (s := s) (dt := dt) he (codes := [code]) hrun hseq hent (by rw [hrep]; rfl) (by rw [hrep]; exact Nat.mod_one _) rfl rfl rfl
  rw [hrep, one, Nat.div_one, hc, decide_eq_true h8, Bool.true_and, Bool.true_and, hn, any_ovr] at run
  exact run

variable {i : Fin 4} {n : Nat} (hn : n = 4 * q.val + i.val) {id : FemId} (hid : (h.path n).fem.id = some id) (hret : (h.path n).retired = false)
  (hdis : (h.path n).disabled = false) (hpaen : (h.path n).paen = true)
include hn hid hret hdis hpaen

/-- A reading of a drain current. -/
theorem execHkReading_current (hc : e.channel = i.val) {run : Nat} {c : Bool}
    (hr : runNext (!(h.path n).paenMoved) (biasOut id (16 * code.code) code.ovr) (h.path n).fem.biasRun = run)
    (hj : (!(h.path n).paenMoved && biasOut id (16 * code.code) code.ovr && decide (h.image.policy.biasCount ≤ run)) = c) :
    Judged h q n (currentPath run (16 * code.code) (h.path n).paenMoved) c 3 0x0505 i (h.path n).paenMoved
      (execHkReading dt q [code] s) := by
  have own : n / 4 = q.val := by omega
  have lt : n < 64 := by omega
  obtain ⟨g, hg⟩ : ∃ g : Hw, h.hkTaken q (readQuad e seq.length (16 * code.code) ([code].filter (·.ovr)).length h.tim.k 1 
      (h.path n).paenMoved (h.path n).paen) = g := ⟨_, rfl⟩
  have path : g.path n = { h.path n with paenMoved := false } := hg ▸ hkTaken_own h _ own
  have feed : hkFeed g q i (16 * code.code) code.ovr (h.path n).paenMoved = hkCurrent g n (16 * code.code) code.ovr (h.path n).paenMoved := by
    rw [hkFeed, if_pos i.isLt, hn]
  have judged := hkCurrent_eq (h := g) (by rw [path]; exact hid) ((Hw.checked_iff g n).mpr ⟨by rw [path]; exact hret, by rw [path]; exact hdis⟩)
    (by rw [path]; exact hpaen) (16 * code.code) code.ovr (h.path n).paenMoved
  rw [execHkReading_fem he hrun hseq hent hrep hc (by omega) (n := n) (by rw [entryPath, if_pos i.isLt, hn]), hg, feed, judged, ← hg]
  have limits (f : Quad → Quad) : (h.hkTaken q f).image = h.image := rfl
  have run' : runNext (!(h.path n).paenMoved) (biasOut id (16 * code.code) code.ovr) (g.path n).fem.biasRun = run := by rw [path, ← hr]
  rw [hg, run', ← hg, limits, hj, ← hc]
  exact Judged.of s hs own (currentPath run (16 * code.code) (h.path n).paenMoved) c 3 rfl e _ _ _ _ _ _ _ (by omega)

/-- A reading of reflected power. -/
theorem execHkReading_reflected (hc : e.channel = 4 + i.val) (hmix : (h.path n).paenMoved = false) {run : Nat} {c : Bool}
    (hr : runNext true (reflOut id (16 * code.code) code.ovr) (h.path n).fem.reflRun = run)
    (hj : (reflOut id (16 * code.code) code.ovr && decide (h.image.policy.reflCount ≤ run)) = c) :
    Judged h q n (reflectedPath run (id.pdOffset * 65536 + ((16 * code.code : Nat) : Int) * id.pdGain)) c 4 0x0506 (4 + i) false
      (execHkReading dt q [code] s) := by
  have own : n / 4 = q.val := by omega
  have at_ : entryPath q (4 + i) = n := by
    rw [entryPath, if_neg (by omega)]
    omega
  obtain ⟨g, hg⟩ : ∃ g : Hw, h.hkTaken q (readQuad e seq.length (16 * code.code) ([code].filter (·.ovr)).length h.tim.k 1
      (h.path n).paenMoved (h.path n).paen) = g := ⟨_, rfl⟩
  have path : g.path n = { h.path n with paenMoved := false } := hg ▸ hkTaken_own h _ own
  have feed : hkFeed g q (4 + i) (16 * code.code) code.ovr false = hkReflected g n (16 * code.code) code.ovr false := by
    rw [hkFeed, if_neg (by omega), if_pos (by omega), show 4 * q.val + (4 + i.val) - 4 = n by omega]
  have judged := hkReflected_eq (h := g) (by rw [path]; exact hid) ((Hw.checked_iff g n).mpr ⟨by rw [path]; exact hret, by rw [path]; exact hdis⟩)
    (by rw [path]; exact hpaen) (16 * code.code) code.ovr
  have limits (f : Quad → Quad) : (h.hkTaken q f).image = h.image := rfl
  have run' : runNext true (reflOut id (16 * code.code) code.ovr) (g.path n).fem.reflRun = run := by rw [path, ← hr]
  rw [execHkReading_fem he hrun hseq hent hrep hc (by omega) at_, hg]
  rw [hmix] at hg ⊢
  rw [feed, judged, run', ← hg, limits, hj, ← hc]
  exact Judged.of s hs own (reflectedPath run _) c 4 rfl e _ _ _ _ _ _ _ (by omega)

end
end

theorem currentPath_sums (run mean : Nat) {p : Path} (hp : p.paen = true) :
    (currentPath run mean false p).fem.iSum = p.fem.iSum + mean ∧ (currentPath run mean false p).fem.iCount = p.fem.iCount + 1 := by
  have counts : (p.paen && !false) = true := by rw [hp, Bool.not_false, Bool.and_self]
  exact ⟨if_pos counts, if_pos counts⟩

theorem biasOut_iff (id : FemId) (mean : Nat) (ovr : Bool) : biasOut id mean ovr = true ↔
    ovr = true ∨ mean * id.isnsGain < id.iOnMin * 65536 ∨ id.iOnMax * 65536 < mean * id.isnsGain := by
  simp [biasOut]

theorem reflOut_iff (id : FemId) (mean : Nat) (ovr : Bool) : reflOut id mean ovr = true ↔
    ovr = true ∨ id.reflMax * 65536 < id.pdOffset * 65536 + (mean : Int) * id.pdGain := by
  simp [reflOut]

/-- A quad's temperature in its FEMs, once PAEN's marks are gone. -/
theorem getN_hotPaths (h : Hw) (q : QuadId) (t : Rat) (j : PathId) :
    getN (Hw.onFourPaths (vmapi h.paths (unmoved q)) q (hotFem t)) j {} = if j / 4 = q.val ∧ (h.path j).fem.id.isSome = true then
      { getN (vmapi h.paths (unmoved q)) j {} with fem := { (h.path j).fem with tMax := some (((h.path j).fem.tMax.map fun y => max y t).getD t) } }
    else getN (vmapi h.paths (unmoved q)) j {} := by
  have still : getN (vmapi h.paths (unmoved q)) j {} = unmoved q j (h.path j) := getN_vmapi _ _ _ j.isLt
  have fem : (unmoved q j (h.path j)).fem = (h.path j).fem := by
    unfold unmoved
    split
    · rfl
    · rfl
  rw [Hw.getN_onFourPaths _ j.isLt, still, ite_and]
  refine if_congr Iff.rfl ?_ rfl
  rw [hotFem, fem]
  refine if_congr Iff.rfl ?_ rfl
  cases (h.path j).fem.tMax
  · rfl
  · rfl

/-- Settles O35: what every reading changes, what it feeds by its channel, and for the two that judge a FEM the run that it leaves. -/
theorem hkReading : Obligations.HkReading := by
  refine ⟨?readings, ?checks⟩
  case readings =>
    intro s dt q codes seq e hs h u hrun hseq hent hlen total bad next_ hm mean still read
    have settled : h.Settled := Hw.elapse_settled _ hs dt
    have taken : read (h.quad q) = readQuad e seq.length mean bad h.tim.k codes.length false false (h.quad q) := rfl
    have quads {f g : Quad → Quad} (hfg : f (h.quad q) = g (h.quad q)) (v : Vector Path 64) :
        ({ h with quads := updN h.quads q f, paths := v } : Hw) = { h with quads := updN h.quads q g, paths := v } :=
      congrArg (fun w => ({ h with quads := w, paths := v } : Hw)) (updN_congr ({} : Quad) hfg)
    refine ⟨fun hc hb => ?_, fun hc => ?_, fun hc hb hwas hlo hhi => ?_, fun hc hb hwas hlo => ?_⟩
    · have temp : (getN (updN h.quads q fun x => { readQuad e seq.length mean bad h.tim.k codes.length false false x with
          femTemp := some (femDegrees h mean), hkAge := 0 }) q ({} : Quad)).femTemp = some (femDegrees h mean) :=
        congrArg Quad.femTemp (getN_updN_same _ _ _ q.isLt)
      refine ⟨_, execHkReading_temp (h := h) rfl settled hrun hseq hent hlen hm rfl rfl hc hb, rfl, rfl, quads ?_ _, ?_,
        fun j => getN_hotPaths h q (femDegrees h mean) j⟩
      · exact congrArg (fun v => ({ read (h.quad q) with femTemp := v, hkAge := 0 } : Quad)) temp.symm
      · exact temp
    · exact (execHkReading_none rfl settled hrun hseq hent hlen hm rfl rfl hc).trans
        (congrArg (fun g => Host.Outcome.next { s with hw := g }) (quads taken.symm still))
    · have out : (decide (mean < 16 * h.image.policy.supplyMin) || decide (16 * h.image.policy.supplyMax < mean)) = false := by
        rw [decide_eq_false (Nat.not_lt_of_le hlo), decide_eq_false (Nat.not_lt_of_le hhi), Bool.or_self]
      refine (execHkReading_supply (h := h) rfl hrun hseq hent hlen hm rfl rfl hc hb hwas out).trans ?_
      rw [Hw.whenB_false, Hw.settle_of_settled _ (by exact settled)]
      refine congrArg (fun g => Host.Outcome.next { s with hw := g }) (quads ?_ still)
      rw [taken, ← hwas]
      rfl
    · have out : (decide (mean < 16 * h.image.policy.supplyMin) || decide (16 * h.image.policy.supplyMax < mean)) = true := by
        rw [decide_eq_true hlo, Bool.true_or]
      refine (execHkReading_supply (h := h) rfl hrun hseq hent hlen hm rfl rfl hc hb hwas out).trans ?_
      rw [Hw.whenB_true]
      exact congrArg (fun g : Hw => Host.Outcome.next { s with hw := (g.alarm 0x0508 q).settle }) (quads (f := fun x =>
        { readQuad e seq.length mean bad h.tim.k codes.length false false x with supplyOut := true }) (g := fun x => { read x with supplyOut := true }) rfl still)
  case checks =>
    intro s dt q i code seq e id hs h u n p hrun hseq hent hrep hid hret hdis hpaen mean still ended
    have settled : h.Settled := Hw.elapse_settled _ hs dt
    refine ⟨fun hc hmix => ?_, fun hc hmix => ?_, fun hc hmix => ?_⟩
    · intro out
      have judged (run : Nat) (c : Bool) := execHkReading_current (h := h) (code := code) (run := run) (c := c) rfl settled hrun hseq hent hrep
        (n := n) rfl hid hret hdis hpaen hc
      rw [hmix, Bool.not_false] at judged
      by_cases hout : out
      · have isOut := (biasOut_iff id mean code.ovr).mpr hout
        by_cases few : p.fem.biasRun + 1 < h.image.policy.biasCount
        · obtain ⟨t, run, others, own, below, -⟩ := judged (p.fem.biasRun + 1) false (by rw [isOut]; rfl)
            (by rw [isOut, decide_eq_false (Nat.not_le_of_lt few)]; rfl)
          rw [if_neg Bool.false_ne_true] at own
          obtain ⟨sum, count⟩ := currentPath_sums (p.fem.biasRun + 1) mean (p := { h.path n with paenMoved := false }) hpaen
          rw [← own] at sum count
          exact ⟨t, run, others, sum, count, fun e => absurd hout e, fun _ => by rw [own]; rfl, fun _ _ => ⟨by rw [own]; exact hdis, (below rfl).1⟩,
            fun _ e => absurd few (Nat.not_lt_of_le e)⟩
        · obtain ⟨t, run, others, own, -, newest⟩ := judged (p.fem.biasRun + 1) true (by rw [isOut]; rfl)
            (by rw [isOut, decide_eq_true (Nat.le_of_not_lt few)]; rfl)
          rw [if_pos rfl] at own
          obtain ⟨sum, count⟩ := currentPath_sums (p.fem.biasRun + 1) mean (p := { h.path n with paenMoved := false }) hpaen
          exact ⟨t, run, others, by rw [own]; exact sum, by rw [own]; exact count, fun e => absurd hout e, fun _ => by rw [own]; rfl,
            fun _ e => absurd e few, fun _ _ => ⟨⟨by rw [own]; rfl, by rw [own]; rfl⟩, by rw [own]; rfl, newest rfl⟩⟩
      · have isIn : biasOut id mean code.ovr = false := Bool.eq_false_iff.mpr fun e => hout ((biasOut_iff id mean code.ovr).mp e)
        obtain ⟨t, run, others, own, -, -⟩ := judged 0 false (by rw [isIn]; rfl) (by rw [isIn]; rfl)
        rw [if_neg Bool.false_ne_true] at own
        obtain ⟨sum, count⟩ := currentPath_sums 0 mean (p := { h.path n with paenMoved := false }) hpaen
        rw [← own] at sum count
        exact ⟨t, run, others, sum, count, fun _ => ⟨by rw [own]; rfl, by rw [own]; exact hdis⟩, fun e => absurd e hout, fun e => absurd e hout,
          fun e => absurd e hout⟩
    · intro out
      have judged (run : Nat) (c : Bool) := execHkReading_reflected (h := h) (code := code) (run := run) (c := c) rfl settled hrun hseq hent hrep
        (n := n) rfl hid hret hdis hpaen hc hmix
      by_cases hout : out
      · have isOut := (reflOut_iff id mean code.ovr).mpr hout
        by_cases few : p.fem.reflRun + 1 < h.image.policy.reflCount
        · obtain ⟨t, run, others, own, below, -⟩ := judged (p.fem.reflRun + 1) false (by rw [isOut]; rfl)
            (by rw [isOut, decide_eq_false (Nat.not_le_of_lt few)]; rfl)
          rw [if_neg Bool.false_ne_true] at own
          exact ⟨t, run, others, fun e => absurd hout e, fun _ _ => ⟨by rw [own]; rfl, (below rfl).1⟩, fun _ e => absurd few (Nat.not_lt_of_le e)⟩
        · obtain ⟨t, run, others, own, -, newest⟩ := judged (p.fem.reflRun + 1) true (by rw [isOut]; rfl)
            (by rw [isOut, decide_eq_true (Nat.le_of_not_lt few)]; rfl)
          rw [if_pos rfl] at own
          exact ⟨t, run, others, fun e => absurd hout e, fun _ e => absurd e few,
            fun _ _ => ⟨⟨by rw [own]; rfl, by rw [own]; rfl⟩, by rw [own]; rfl, newest rfl⟩⟩
      · have isIn : reflOut id mean code.ovr = false := Bool.eq_false_iff.mpr fun e => hout ((reflOut_iff id mean code.ovr).mp e)
        obtain ⟨t, run, others, own, -, -⟩ := judged 0 false (by rw [isIn]; rfl) (by rw [isIn]; rfl)
        rw [if_neg Bool.false_ne_true] at own
        exact ⟨t, run, others, fun _ => ⟨by rw [own]; rfl, by rw [own]; exact hdis⟩, fun e => absurd e hout, fun e => absurd e hout⟩
    · obtain ⟨t, run, -, own, below, -⟩ := execHkReading_current (h := h) (code := code) (run := p.fem.biasRun) (c := false) rfl settled hrun hseq hent
        hrep (n := n) rfl hid hret hdis hpaen hc (by rw [hmix]; rfl) (by rw [hmix]; rfl)
      rw [if_neg Bool.false_ne_true] at own
      exact ⟨t, run, by rw [own]; rfl, by rw [own]; exact hdis, by rw [own]; rfl, (below rfl).2.trans hmix⟩

end Sys2Proof.Machine
end

section
/-! The end of an injected conversion (R242, R327). Refutes O36. -/
namespace Sys2Proof.Machine

/-- A quad with a conversion in progress until 2,000 cc after reset, while the one that waits was to take the slot from 0 cc to 491.52 cc. -/
def lateWaits : Quad := { injBusy := some (0, false), injTo := 2000, injPending := some (1, false), injFrom := 0 }

/-- 1,000 cc after reset, with a run that collects, and quad 0 as above. -/
def lateWaiting : State := { State.reset with hw := { State.reset.hw with
  sta := { State.reset.hw.sta with since := 1000 }
  cal := { State.reset.hw.cal with run := some { tag := 0, target := 0, policy := 0, tick := 0, started := true } }
  quads := updN State.reset.hw.quads 0 fun _ => lateWaits } }

theorem lateWaiting_settled : lateWaiting.hw.Settled := ⟨rfl, rfl, Hw.reset_armLevel.symm, rfl⟩

theorem lateWaiting_quad : (lateWaiting.hw.elapse 0).quad 0 = lateWaits := getN_updN_same _ _ _ (by decide)

/-- The class at that instant is what the quad holds: the conversion in progress has not ended, and none other begins beside it. -/
theorem lateWaits_injAt : lateWaits.injAt 1000 = lateWaits := by decide

/-- The run takes the ADC as the conversion ends, by when the one that waited has been made too: its result is still to be written. -/
theorem lateWaiting_done :
    ∃ t, exec (.hkInjectDone 0 0 { code := 0, ovr := false }) lateWaiting = .next t ∧ (t.hw.quad 0).injLate = [(1, false)] := by
  refine ⟨_, rfl, ?_⟩
  decide +kernel

/-- Refutes O36: a conversion that waits while the slot it was to take has passed is made and ended when the run takes the ADC of a
conversion that ends, so that a result waits to be written where the statement leaves none. -/
theorem not_hkInject : ¬ Obligations.HkInject := by
  intro claim
  obtain ⟨⟨-, done⟩, -⟩ := claim
  obtain ⟨t, run, -, -, -, ⟨all, -⟩, -⟩ := done lateWaiting 0 0 { code := 0, ovr := false } 0 false lateWaiting_settled (by
    rw [show ((lateWaiting.hw.elapse 0).quad (0 : QuadId)).injAt (lateWaiting.hw.elapse 0).sta.since = lateWaits by
      refine (congrArg (Quad.injAt · 1000) lateWaiting_quad).trans ?_
      exact lateWaits_injAt]
    exact .inr ⟨not_not.mpr rfl, .inl rfl⟩)
  obtain ⟨u, ran, late⟩ := lateWaiting_done
  obtain rfl : t = u := Host.Outcome.next.inj (run.symm.trans ran)
  have own := (congrArg (getN · 0 ({} : Quad)) (congrArg Hw.quads all)).trans (getN_updN_same _ _ _ (by decide))
  have kept : (t.hw.quad 0).injLate = (lateWaits.injAt 1000).injLate.drop 1 := by
    rw [← lateWaiting_quad]
    exact congrArg Quad.injLate own
  rw [late, lateWaits_injAt] at kept
  exact absurd kept (by decide)

end Sys2Proof.Machine
end

section
/-! DMA channels: registers, hand-over, window expiry, bursts and responses (R364 to R370). Settles O41. -/
namespace Sys2Proof.Machine
namespace Hw

/-! ### One channel set -/

/-- A machine with one DMA channel set. -/
def setCh (h : Hw) (c : Nat) (x : Dma) : Hw := { h with dma := updN h.dma c fun _ => x }

theorem onDma_eq (h : Hw) (c : Nat) (f : Dma → Dma) : h.onDma c f = h.setCh c (f (h.ch c)) :=
  congrArg (fun v => ({ h with dma := v } : Hw)) (updN_const h.dma c f {})

theorem setCh_ch (h : Hw) {c : Nat} (hc : c < 32) (x : Dma) : (h.setCh c x).ch c = x := getN_updN_same _ _ _ hc

theorem setCh_ch_ne (h : Hw) {c j : Nat} (hj : j ≠ c) (x : Dma) : (h.setCh c x).ch j = h.ch j := getN_updN_ne _ _ _ hj

theorem setCh_setCh (h : Hw) (c : Nat) (x y : Dma) : (h.setCh c x).setCh c y = h.setCh c y :=
  congrArg (fun v => ({ h with dma := v } : Hw)) (updN_updN ..)

theorem setCh_self (h : Hw) (c : Nat) : h.setCh c (h.ch c) = h :=
  (h.onDma_eq c id).symm.trans (congrArg (fun v => ({ h with dma := v } : Hw)) (updN_id ..))

theorem setCh_onDma (h : Hw) {c : Nat} (hc : c < 32) (x : Dma) (f : Dma → Dma) : (h.setCh c x).onDma c f = h.setCh c (f x) := by
  rw [onDma_eq, setCh_ch h hc, setCh_setCh]

theorem onDma_onDma (h : Hw) {c : Nat} (hc : c < 32) (f g : Dma → Dma) : (h.onDma c f).onDma c g = h.setCh c (g (f (h.ch c))) := by
  rw [h.onDma_eq, setCh_onDma h hc]

theorem pulse_ch (h : Hw) (line c : Nat) : (h.pulse line).ch c = h.ch c := by
  have dma : (h.pulse line).dma = h.dma := by rw [(h.pulse_pulsed line).1]
  rw [ch, dma, ch]

theorem setCh_settled {h : Hw} (hs : h.Settled) (c : Nat) (x : Dma) : (h.setCh c x).Settled := hs

/-- A channel set after a pulse is a pulse after the channel is set. -/
theorem pulsed.setCh {h t : Hw} {line : Nat} (p : h.pulsed t line) (c : Nat) (x : Dma) : (h.setCh c x).pulsed (t.setCh c x) line := by
  obtain ⟨eq, engines⟩ := p
  have dma : t.dma = h.dma := by rw [eq]
  refine ⟨?_, engines⟩
  unfold Hw.setCh
  rw [dma]
  exact congrArg (fun g : Hw => { g with dma := updN h.dma c fun _ => x }) eq

theorem pulsed.congr {h t : Hw} {line c : Nat} {x y : Dma} (p : (h.setCh c x).pulsed t line) (e : x = y) : (h.setCh c y).pulsed t line := e ▸ p

/-! ### Reads of the shared store -/

theorem spaceBytes_read (h : Hw) {m : Mem} (hb : m.bad = []) {a n : Nat} (h1 : 0x20000000 ≤ a) (h2 : a + n ≤ 0x21000000) :
    h.spaceBytes m a n = m.read a n := by
  rw [(space_shared h h1 h2 hb).1, Mem.read_sound m a n fun x _ _ => by rw [Mem.err_of_bad_nil hb]; exact (Option.some_ne_none true).symm,
    List.range'_eq_map_range, List.map_map]
  rfl

theorem read_append (m : Mem) (a i j : Nat) : m.read a (i + j) = m.read a i ++ m.read (a + i) j := by
  induction i generalizing a with
  | zero => simp [Mem.read]
  | succ i ih =>
    rw [Nat.add_right_comm, Mem.read, Mem.read, ih, List.cons_append, Nat.add_assoc, Nat.add_comm 1 i]

theorem read_length (m : Mem) (a n : Nat) : (m.read a n).length = n := by
  induction n generalizing a with
  | zero => rfl
  | succ n ih => rw [Mem.read, List.length_cons, ih]

/-- The two words of a list entry. -/
theorem rd_entry (m : Mem) (a : Nat) : rd (m.read a 8) 0 4 = unle (m.read a 4) ∧ rd (m.read a 8) 4 4 = unle (m.read (a + 4) 4) := by
  rw [show (8 : Nat) = 4 + 4 from rfl, read_append]
  constructor
  · rw [rd, List.drop_zero, List.take_left' (read_length ..)]
  · rw [rd, List.drop_left' (read_length ..), List.take_of_length_le (read_length ..).le]

theorem noteMerge_sound_bad (h : Hw) {m : Mem} (hb : m.bad = []) (a n : Nat) : h.noteMerge m a n = h :=
  each_still h _ _ fun w _ => by rw [Mem.err_of_bad_nil hb]

theorem firstUe_sound {m : Mem} (hb : m.bad = []) (a n : Nat) : firstUe m a n = none := by
  have none : (Mem.words a n).find? (fun w => m.err w == some true) = Option.none :=
    List.find?_eq_none.mpr fun w _ => by rw [Mem.err_of_bad_nil hb]; exact Bool.false_ne_true
  rw [firstUe, none, Option.map_none]

theorem dmaReads_shared {a : Nat} (h1 : 0x20000000 ≤ a) (h2 : a < 0x21000000) : dmaReads a = true := by
  rw [dmaReads, region_shared h1 h2]

theorem dmaWrites_shared {a : Nat} (h1 : 0x20000000 ≤ a) (h2 : a < 0x21000000) : dmaWrites a = true := by
  rw [dmaWrites, region_shared h1 h2]

/-- An entry of a sound list in the shared store. -/
def Listed (m : Mem) (list count i : Nat) : Prop :=
  list % 16 = 0 ∧ (0x20000000 ≤ list ∧ list + 8 * count ≤ 0x21000000) ∧ unle (m.read (list + 8 * i) 4) % 16 = 0 ∧
    unle (m.read (list + 8 * i + 4) 4) % 16 = 0 ∧ 0 < unle (m.read (list + 8 * i + 4) 4)

theorem dmaEntry_listed (h : Hw) {m : Mem} (hb : m.bad = []) {list count i : Nat} (hi : i < count) (hl : Listed m list count i) :
    dmaEntry h m list count i = .inl (unle (m.read (list + 8 * i) 4), unle (m.read (list + 8 * i + 4) 4)) := by
  obtain ⟨aligned, ⟨low, high⟩, entry, size, bytes⟩ := hl
  have reads : dmaReads (list + 8 * i) = true := dmaReads_shared (by omega) (by omega)
  have whole := h.spaceBytes_read hb (a := list + 8 * i) (n := 8) (by omega) (by omega)
  obtain ⟨first, second⟩ := rd_entry m (list + 8 * i)
  unfold dmaEntry
  dsimp only
  rw [if_neg (not_not.mpr aligned), if_neg (by omega), reads, if_neg (by decide), firstUe_sound hb]
  dsimp only
  rw [whole, first, second, if_neg (by simp [entry, size]), if_neg (Nat.ne_of_gt bytes)]

/-! ### An error met (R368) -/

/-- A channel in ERROR with a cause and an address. -/
def failedCh (e : Nat × Nat) (d : Dma) : Dma :=
  { d with state := 2, cause := e.1, errAddr := e.2, failing := none, errors := min (2 ^ 32 - 1) (d.errors + 1) }

theorem dmaSettle_none {h : Hw} {c : Nat} (hf : (h.ch c).failing = none) : h.dmaSettle c = h := by
  unfold dmaSettle
  dsimp only
  rw [hf]

theorem dmaSettle_flight {h : Hw} {c : Nat} {e : Nat × Nat} (hf : (h.ch c).failing = some e) (hn : (h.ch c).flight ≠ []) : h.dmaSettle c = h := by
  unfold dmaSettle
  dsimp only
  rw [hf]
  dsimp only
  rw [if_neg (by rw [List.isEmpty_iff]; exact hn)]

theorem dmaSettle_last {h : Hw} {c : Nat} {e : Nat × Nat} (hf : (h.ch c).failing = some e) (hn : (h.ch c).flight = []) :
    h.dmaSettle c = (h.setCh c (failedCh e (h.ch c))).pulse (192 + c) := by
  unfold dmaSettle
  dsimp only
  rw [hf]
  dsimp only
  rw [if_pos (by rw [List.isEmpty_iff]; exact hn), onDma_eq]
  rfl

end Hw

/-! ### COMMIT, RECOVER and the hand-over (R366, R370) -/

/-- A channel that meets a store of the cycle `now`. -/
theorem dmaCycle_commit0 (now : Nat) (d : Dma) : (Hw.dmaCycle now d).commit0 = if d.cycle = some now then d.commit0 else d.commit := by
  unfold Hw.dmaCycle
  split
  · rfl
  · rfl

theorem dmaCycle_nextBy (now : Nat) (d : Dma) : (Hw.dmaCycle now d).nextBy = Hw.noted [] d.nextBy := by
  have same : Hw.noted [] d.nextBy = d.nextBy := by simp [Hw.noted]
  rw [same]
  unfold Hw.dmaCycle
  split
  · rfl
  · rfl

/-- A channel whose waiting set is handed over in the window `k`, at `now`. -/
def handedOver (now k : Nat) (d : Dma) : Dma :=
  { d with
    act := if d.cycle = some now then d.sh0 else d.sh, commit := decide (d.cycle = some now) && d.asked, state := 1, srcEntry := 0, dstEntry := 0
    srcOff := 0, dstOff := 0, issued := false, srcNow := none, dstNow := none, srcNext := 0, flight := [], failing := none, window := k
    moved := some now, by_ := d.nextBy, nextBy := if decide (d.cycle = some now) && d.asked then d.nextBy else [] }

theorem Hw.dmaStart_eq (h : Hw) (c : Nat) : h.dmaStart c =
    (if (h.ch c).cycle = some h.sta.since then (h.ch c).sh0 else (h.ch c).sh,
     if (h.ch c).cycle = some h.sta.since then (h.ch c).commit0 else (h.ch c).commit) := by
  unfold Hw.dmaStart
  dsimp only
  rw [Hw.up]
  split
  · rfl
  · rfl

theorem Hw.dmaAsked_eq (h : Hw) (d : Dma) : h.dmaAsked d = (decide (d.cycle = some h.sta.since) && d.asked) :=
  congrArg (· && d.asked) (Bool.eq_iff_iff.mpr (by rw [beq_iff_eq, decide_eq_true_iff]; rfl))

theorem Hw.dmaHandover_eq (h : Hw) (c : Nat) : h.dmaHandover c = h.setCh c (handedOver h.sta.since h.tim.k (h.ch c)) := by
  unfold Hw.dmaHandover
  dsimp only
  rw [Hw.onDma_eq, Hw.dmaStart_eq, Hw.dmaAsked_eq]
  rfl

section
variable {s : State} {dt : Nat} {h : Hw} (he : s.hw.elapse dt = h) (hs : h.Settled) {c : ChId}
include he hs

theorem execDmaCommit_eq (h5 : 5 ≤ h.sta.stage) : execDmaCommit dt c s =
    .next { s with hw := h.setCh c { Hw.dmaCycle h.sta.since (h.ch c) with commit := true, asked := true } } := by
  have on : h.engOn = true := decide_eq_true h5
  unfold execDmaCommit
  refine ok_becomes s dt ?_ (Hw.setCh_settled hs c _)
  rw [he, on, Hw.whenB_true, Hw.dmaAsk, Hw.onDma_eq, ← dmaCycle_nextBy h.sta.since]

theorem execDmaRecover_eq (h5 : 5 ≤ h.sta.stage) : execDmaRecover dt c s =
    .next { s with hw := if (h.ch c).state = 2 then h.setCh c { h.ch c with state := 0, moved := some h.sta.since } else h } := by
  have on : h.engOn = true := decide_eq_true h5
  unfold execDmaRecover
  refine ok_becomes s dt ?_ ?_
  · rw [he, on, Hw.whenB_true, Hw.dmaLeave, Hw.onDma_eq]
    split
    · rfl
    · exact h.setCh_self c
  · split
    · exact hs
    · exact hs

theorem execDmaIdleHandover_eq (hop : h.tim.open_ = true) (h0 : (h.ch c).state = 0) (hm : (h.ch c).moved ≠ some h.sta.since)
    (hc : (Hw.dmaCycle h.sta.since (h.ch c)).commit0 = true) :
    execDmaIdleHandover dt c s = .next { s with hw := h.setCh c (handedOver h.sta.since h.tim.k (h.ch c)) } := by
  have idle : (h.tim.open_ && (h.ch c).state == 0 && (h.ch c).moved != some h.up && (h.dmaStart c).2) = true := by
    rw [dmaCycle_commit0] at hc
    rw [hop, h0, Hw.dmaStart_eq, hc, Hw.up, bne_iff_ne.mpr hm]
    rfl
  unfold execDmaIdleHandover
  refine ok_becomes s dt ?_ (Hw.setCh_settled hs c _)
  rw [he, idle, Hw.whenB_true, Hw.dmaHandover_eq]

end

/-! ### The end of a window (R369) -/

theorem Hw.dmaFail_eq {h : Hw} {c : Nat} (hf : (h.ch c).failing = none) (e : Nat × Nat) :
    h.dmaFail c e = (h.setCh c { h.ch c with failing := some e }).dmaSettle c := by
  unfold Hw.dmaFail
  rw [Hw.onDma_eq, hf]
  rfl

/-- The first byte of a RUNNING channel that was not issued. -/
def Unissued (m : Mem) (d : Dma) (first : Nat) : Prop :=
  (∃ sl, d.srcNow = some (first - d.srcOff, sl)) ∧ d.srcOff ≤ first ∨
    d.srcNow = none ∧ d.srcEntry < d.act.srcCount ∧ Hw.Listed m d.act.src d.act.srcCount d.srcEntry ∧
      first = unle (m.read (d.act.src + 8 * d.srcEntry) 4)

theorem dmaExpire_eq {h : Hw} {m : Mem} (hb : m.bad = []) {c : Nat} (h1 : (h.ch c).state = 1) (hi : (h.ch c).issued = false) {first : Nat}
    (hf : Unissued m (h.ch c) first) : dmaExpire m h c = h.dmaFail c (5, first) := by
  unfold dmaExpire
  dsimp only
  rw [h1, beq_self_eq_true, Hw.whenB_true, hi, if_neg Bool.false_ne_true]
  obtain ⟨⟨sl, now⟩, low⟩ | ⟨now, use, listed, rfl⟩ := hf
  · rw [now]
    dsimp only
    rw [Nat.sub_add_cancel low]
  · rw [now]
    dsimp only
    rw [Hw.dmaEntry_listed h hb use listed]

section
variable {s : State} {dt : Nat} {h : Hw} (he : s.hw.elapse dt = h) (hs : h.Settled) {c : ChId} (hb : s.mem.bad = [])
  (h1 : (h.ch c).state = 1) (hf : (h.ch c).failing = none) (hi : (h.ch c).issued = false) (hop : h.tim.open_ = true)
  (hw : (h.ch c).window < h.tim.k ∨ h.tickAt ((h.ch c).window + 1) ≤ h.tim.c) {first : Nat} (hfirst : Unissued s.mem (h.ch c) first)
include he hs hb h1 hf hi hop hw hfirst

omit hs in
theorem execDmaWindowExpiry_eq {g : Hw} (hg : (h.setCh c { h.ch c with failing := some (5, first) }).dmaSettle c = g) (hgs : g.Settled) :
    execDmaWindowExpiry dt c s = .next { s with hw := g } := by
  have ended : (decide ((h.ch c).window < h.tim.k) || !h.tim.open_ || decide (h.tickAt ((h.ch c).window + 1) ≤ h.tim.c)) = true := by
    rw [hop, Bool.not_true, Bool.or_false, ← Bool.decide_or]
    exact decide_eq_true hw
  unfold execDmaWindowExpiry
  refine ok_becomes s dt ?_ hgs
  rw [he]
  dsimp only
  rw [ended, Hw.whenB_true, dmaExpire_eq hb h1 hi hfirst, Hw.dmaFail_eq hf, hg]

theorem execDmaWindowExpiry_flight (hn : (h.ch c).flight ≠ []) :
    execDmaWindowExpiry dt c s = .next { s with hw := h.setCh c { h.ch c with failing := some (5, first) } } := by
  refine execDmaWindowExpiry_eq he hb h1 hf hi hop hw hfirst (Hw.dmaSettle_flight (e := (5, first)) ?_ ?_) (Hw.setCh_settled hs c _)
  · rw [Hw.setCh_ch h c.isLt]
  · rw [Hw.setCh_ch h c.isLt]
    exact hn

theorem execDmaWindowExpiry_last (hn : (h.ch c).flight = []) :
    ∃ t, execDmaWindowExpiry dt c s = .next t ∧ t.pending = s.pending ∧ t.mem = s.mem ∧
      (h.setCh c (Hw.failedCh (5, first) (h.ch c))).pulsed t.hw (192 + c.val) := by
  have ends : (h.setCh c { h.ch c with failing := some (5, first) }).dmaSettle c = (h.setCh c (Hw.failedCh (5, first) (h.ch c))).pulse (192 + c) := by
    rw [Hw.dmaSettle_last (e := (5, first)) (by rw [Hw.setCh_ch h c.isLt]) (by rw [Hw.setCh_ch h c.isLt]; exact hn), Hw.setCh_ch h c.isLt,
      Hw.setCh_setCh]
    rfl
  exact ⟨_, execDmaWindowExpiry_eq he hb h1 hf hi hop hw hfirst ends (Hw.pulse_settled (Hw.setCh_settled hs c _) _), rfl, rfl,
    Hw.pulse_pulsed _ _⟩

end

/-! ### Entries coming into use (R364) -/

/-- A channel that waits for a burst. -/
def Hw.Waits (h : Hw) (x : Dma) : Prop :=
  h.tim.open_ = true ∧ x.state = 1 ∧ x.failing = none ∧ x.issued = false ∧ x.flight.length < 8 ∧ x.moved ≠ some h.sta.since

theorem Hw.dmaWaits_iff (h : Hw) (c : Nat) : h.dmaWaits c = true ↔ h.Waits (h.ch c) := by
  simp [Hw.dmaWaits, Hw.Waits, Hw.up, and_assoc]

/-- An entry of waiting channel `c`, taken where none is in use. -/
theorem dmaTake_eq {h : Hw} {m : Mem} (hb : m.bad = []) {c list count i : Nat} {now : Option (Nat × Nat)} {f : Nat × Nat → Dma → Dma}
    (hw : h.Waits (h.ch c)) (hi : i < count) (hl : now = none → Hw.Listed m list count i) (hf : ∀ v, now = some v → f v (h.ch c) = h.ch c) :
    dmaTake m h c list count i now f =
      h.setCh c (f (now.getD (unle (m.read (list + 8 * i) 4), unle (m.read (list + 8 * i + 4) 4))) (h.ch c)) := by
  cases now with
  | none =>
    unfold dmaTake
    rw [Option.isNone_none, (h.dmaWaits_iff c).mpr hw, Bool.and_self, Hw.whenB_true]
    have still : (h.whenB (dmaReadsEntry list count i) fun h => h.noteRead m (list + 8 * i) 8) = h := by
      cases dmaReadsEntry list count i
      · rfl
      · exact Hw.noteRead_sound_bad h hb _ _
    dsimp only
    rw [still, Hw.dmaEntry_listed h hb hi (hl rfl)]
    exact h.onDma_eq c _
  | some v =>
    unfold dmaTake
    rw [Option.isNone_some, Bool.false_and, Hw.whenB_false, Option.getD_some, hf v rfl, Hw.setCh_self]

/-- Neither list of a channel has ended. -/
theorem dmaShort_none {d : Dma} (hs : d.srcEntry < d.act.srcCount) (hd : d.dstEntry < d.act.dstCount) : dmaShort d = none := by
  unfold dmaShort
  rw [if_neg (by simp [Nat.ne_of_lt hs]), if_neg (by simp [Nat.ne_of_lt hd])]

/-- The entries that a channel has in use once its lists have been looked at. -/
def srcUse (m : Mem) (d : Dma) : Nat × Nat :=
  d.srcNow.getD (unle (m.read (d.act.src + 8 * d.srcEntry) 4), unle (m.read (d.act.src + 8 * d.srcEntry + 4) 4))
def dstUse (m : Mem) (d : Dma) : Nat × Nat :=
  d.dstNow.getD (unle (m.read (d.act.dst + 8 * d.dstEntry) 4), unle (m.read (d.act.dst + 8 * d.dstEntry + 4) 4))

theorem dmaCheck_waits {h : Hw} {m : Mem} (hb : m.bad = []) {c : Nat} (hc : c < 32) (hw : h.Waits (h.ch c))
    (hse : (h.ch c).srcEntry < (h.ch c).act.srcCount) (hde : (h.ch c).dstEntry < (h.ch c).act.dstCount)
    (hsl : (h.ch c).srcNow = none → Hw.Listed m (h.ch c).act.src (h.ch c).act.srcCount (h.ch c).srcEntry)
    (hdl : (h.ch c).dstNow = none → Hw.Listed m (h.ch c).act.dst (h.ch c).act.dstCount (h.ch c).dstEntry) :
    dmaCheck m h c = h.setCh c { h.ch c with srcNow := some (srcUse m (h.ch c)), dstNow := some (dstUse m (h.ch c)) } := by
  unfold dmaCheck
  rw [if_pos ((h.dmaWaits_iff c).mpr hw)]
  dsimp only
  rw [dmaShort_none hse hde]
  dsimp only
  rw [dmaTake_eq hb hw hse hsl fun v e => by rw [← e]]
  rw [dmaTake_eq hb (by rw [Hw.setCh_ch h hc]; exact hw) hde hdl fun v e => by rw [Hw.setCh_ch h hc, ← e], Hw.setCh_ch h hc, Hw.setCh_setCh]
  rfl

/-- A channel that is not looked at, or that has both entries in use. -/
def Hw.Resting (h : Hw) (x : Dma) : Prop :=
  h.Waits x → x.srcNow.isSome = true ∧ x.dstNow.isSome = true ∧ x.srcEntry < x.act.srcCount ∧ x.dstEntry < x.act.dstCount

theorem dmaCheck_resting {h : Hw} {m : Mem} {c : Nat} (hr : h.Resting (h.ch c)) : dmaCheck m h c = h := by
  unfold dmaCheck
  split
  next hw =>
    obtain ⟨src, dst, hse, hde⟩ := hr ((h.dmaWaits_iff c).mp hw)
    have taken (now : Option (Nat × Nat)) (hn : now.isSome = true) (list count i : Nat) (f : Nat × Nat → Dma → Dma) :
        dmaTake m h c list count i now f = h := by
      unfold dmaTake
      rw [Option.isNone_eq_false_iff.mpr hn, Bool.false_and, Hw.whenB_false]
    dsimp only
    rw [dmaShort_none hse hde]
    dsimp only
    rw [taken _ src, taken _ dst]
  next => rfl

/-- Of channels that all rest but one, that one's entries come into use. -/
theorem each_dmaCheck {h : Hw} {m : Mem} (hb : m.bad = []) {c : ChId} (hw : h.Waits (h.ch c)) 
    (hse : (h.ch c).srcEntry < (h.ch c).act.srcCount) (hde : (h.ch c).dstEntry < (h.ch c).act.dstCount)
    (hsl : (h.ch c).srcNow = none → Hw.Listed m (h.ch c).act.src (h.ch c).act.srcCount (h.ch c).srcEntry)
    (hdl : (h.ch c).dstNow = none → Hw.Listed m (h.ch c).act.dst (h.ch c).act.dstCount (h.ch c).dstEntry)
    (hr : ∀ x : ChId, x ≠ c → h.Resting (h.ch x)) :
    h.each (List.range 32) (dmaCheck m) =
      h.setCh c { h.ch c with srcNow := some (srcUse m (h.ch c)), dstNow := some (dstUse m (h.ch c)) } := by
  obtain ⟨before, behind, split⟩ := List.append_of_mem (List.mem_range.mpr c.isLt)
  have nodup : (before ++ c.val :: behind).Nodup := split ▸ List.nodup_range
  have small : ∀ x ∈ before ++ c.val :: behind, x < 32 := fun x hx => List.mem_range.mp (split ▸ hx)
  have rests : ∀ x < 32, x ≠ c.val → h.Resting (h.ch x) := fun x hx hne => hr ⟨x, hx⟩ fun e => hne (congrArg Fin.val e)
  have first : h.each before (dmaCheck m) = h := Hw.each_still h _ _ fun x hx => dmaCheck_resting
    (rests x (small x (by simp [hx])) fun e => (List.nodup_append.mp nodup).2.2 x hx c.val (by simp) e)
  have rest (g : Hw) (hg : g = h.setCh c { h.ch c with srcNow := some (srcUse m (h.ch c)), dstNow := some (dstUse m (h.ch c)) }) :
      g.each behind (dmaCheck m) = g := Hw.each_still g _ _ fun x hx => by
    have ne : x ≠ c.val := fun e => (List.nodup_cons.mp (List.nodup_append.mp nodup).2.1).1 (e ▸ hx)
    refine dmaCheck_resting ?_
    rw [hg, Hw.setCh_ch_ne h ne]
    exact rests x (small x (by simp [hx])) ne
  have parts : h.each (before ++ c.val :: behind) (dmaCheck m) = (dmaCheck m (h.each before (dmaCheck m)) c).each behind (dmaCheck m) := by
    simp [Hw.each]
  rw [split, parts, first, dmaCheck_waits hb c.isLt hw hse hde hsl hdl, rest _ rfl]

/-! ### The arbiter's grant (R365) -/

/-- The waiting channels of a priority, from the one after that granted last. -/
def Hw.askers (h : Hw) (p : Nat) : List Nat := (List.range 32).filterMap fun i =>
  let c := (getN h.dmaLast p 31 + 1 + i) % 32
  if h.dmaWaits c && (h.ch c).act.prio == p then some c else none

theorem Hw.askers_nil {h : Hw} {p : Nat} (ho : ∀ x < 32, h.Waits (h.ch x) → (h.ch x).act.prio ≠ p) : h.askers p = [] := by
  refine List.filterMap_eq_nil_iff.mpr fun i _ => if_neg ?_
  rw [Bool.and_eq_true, beq_iff_eq, Hw.dmaWaits_iff]
  exact fun e => ho _ (Nat.mod_lt _ (by decide)) e.1 e.2

theorem Hw.askers_head {h : Hw} {p c : Nat} (hc : c < 32) (hw : h.Waits (h.ch c)) (hp : (h.ch c).act.prio = p) (hl : getN h.dmaLast p 31 < 32)
    (ho : ∀ x < 32, x ≠ c → h.Waits (h.ch x) → (h.ch x).act.prio = p →
      (c + 31 - getN h.dmaLast p 31) % 32 < (x + 31 - getN h.dmaLast p 31) % 32) : (h.askers p).head? = some c := by
  rw [Hw.askers, List.head?_filterMap]
  generalize getN h.dmaLast p 31 = last at hl ho
  obtain ⟨before, behind, split⟩ := List.append_of_mem (List.mem_range.mpr (Nat.mod_lt (c + 31 - last) (by decide : 0 < 32)))
  have sorted : (before ++ (c + 31 - last) % 32 :: behind).Pairwise (· < ·) := split ▸ List.pairwise_lt_range
  refine List.findSome?_eq_some_iff.mpr ⟨before, _, behind, split, ?_, fun i hi => if_neg ?_⟩
  · have turn : (last + 1 + (c + 31 - last) % 32) % 32 = c := by omega
    dsimp only
    rw [turn, (h.dmaWaits_iff c).mpr hw, hp, beq_self_eq_true, Bool.and_self, if_pos rfl]
  · have earlier : i < (c + 31 - last) % 32 := (List.pairwise_append.mp sorted).2.2 i hi _ (List.mem_cons_self ..)
    have index : ((last + 1 + i) % 32 + 31 - last) % 32 = i := by omega
    rw [Bool.and_eq_true, beq_iff_eq, Hw.dmaWaits_iff]
    rintro ⟨waits, prio⟩
    have later := ho ((last + 1 + i) % 32) (Nat.mod_lt _ (by decide)) (fun e => by rw [e] at index; omega) waits prio
    omega

theorem dmaGrant_eq {h : Hw} {c : Nat} (hc : c < 32) (hw : h.Waits (h.ch c)) (h4 : (h.ch c).act.prio < 4)
    (hl : getN h.dmaLast (h.ch c).act.prio 31 < 32)
    (ho : ∀ x < 32, x ≠ c → h.Waits (h.ch x) → (h.ch x).act.prio < (h.ch c).act.prio ∨ (h.ch x).act.prio = (h.ch c).act.prio ∧
      (c + 31 - getN h.dmaLast (h.ch c).act.prio 31) % 32 < (x + 31 - getN h.dmaLast (h.ch c).act.prio 31) % 32) : dmaGrant h = some c := by
  have own := Hw.askers_head hc hw rfl hl fun x hx hne hxw hp => (ho x hx hne hxw).elim (fun e => absurd hp (Nat.ne_of_lt e)) And.right
  have above : ∀ p, (h.ch c).act.prio < p → (h.askers p).head? = none := fun p hp => by
    rw [Hw.askers_nil fun x hx hxw e => ?_, List.head?_nil]
    by_cases hne : x = c
    · subst hne
      omega
    · obtain lt | ⟨eq, -⟩ := ho x hx hne hxw
      · omega
      · omega
  have grant : dmaGrant h = [3, 2, 1, 0].findSome? fun p => (h.askers p).head? := by
    show ([3, 2, 1, 0].map h.askers).flatten.head? = _
    rw [List.head?_flatten, List.findSome?_map]
    rfl
  rw [grant]
  generalize (h.ch c).act.prio = p at *
  obtain rfl | rfl | rfl | rfl : p = 0 ∨ p = 1 ∨ p = 2 ∨ p = 3 := by omega
  · simp [List.findSome?, above 3 (by decide), above 2 (by decide), above 1 (by decide), own]
  · simp [List.findSome?, above 3 (by decide), above 2 (by decide), own]
  · simp [List.findSome?, above 3 (by decide), own]
  · simp [List.findSome?, own]

/-! ### A burst issued (R365) -/

/-- A channel that has issued `n` bytes of the entries `x` and `y`. -/
def issuedCh (m : Mem) (x y : Nat × Nat) (n : Nat) (d : Dma) : Dma :=
  { d with
    flight := d.flight ++ [{ src := x.1 + d.srcOff, dst := y.1 + d.dstOff, data := m.read (x.1 + d.srcOff) n, err := none
                             srcEntry := d.srcEntry, dstEntry := d.dstEntry }]
    srcNow := if d.srcOff + n = x.2 then none else some x, dstNow := if d.dstOff + n = y.2 then none else some y, srcNext := x.1 + d.srcOff + n
    srcEntry := if d.srcOff + n = x.2 then d.srcEntry + 1 else d.srcEntry, dstEntry := if d.dstOff + n = y.2 then d.dstEntry + 1 else d.dstEntry
    srcOff := if d.srcOff + n = x.2 then 0 else d.srcOff + n, dstOff := if d.dstOff + n = y.2 then 0 else d.dstOff + n
    issued := decide ((if d.srcOff + n = x.2 then d.srcEntry + 1 else d.srcEntry) = d.act.srcCount) &&
      decide ((if d.dstOff + n = y.2 then d.dstEntry + 1 else d.dstEntry) = d.act.dstCount) }

theorem dmaIssue_eq {h : Hw} {m : Mem} (hb : m.bad = []) {c : Nat} {x y : Nat × Nat} {n : Nat} (hx : (h.ch c).srcNow = some x)
    (hy : (h.ch c).dstNow = some y) (hn : min 64 (min (x.2 - (h.ch c).srcOff) (y.2 - (h.ch c).dstOff)) = n)
    (hxs : 0x20000000 ≤ x.1 ∧ x.1 + x.2 ≤ 0x21000000) (hys : 0x20000000 ≤ y.1 ∧ y.1 + y.2 ≤ 0x21000000)
    (hxo : (h.ch c).srcOff < x.2) (hyo : (h.ch c).dstOff < y.2) : dmaIssue m h c =
      { h.setCh c (issuedCh m x y n (h.ch c)) with dmaLast := updN h.dmaLast (h.ch c).act.prio fun _ => c, dmaAt := some h.sta.since } := by
  have next_ : dmaNext (h.ch c) = some (x.1 + (h.ch c).srcOff, y.1 + (h.ch c).dstOff, n) := by
    rw [dmaNext, hx, hy, ← hn]
  have one : 1 ≤ n ∧ n ≤ x.2 - (h.ch c).srcOff ∧ n ≤ y.2 - (h.ch c).dstOff := by omega
  obtain ⟨pos, inSrc, inDst⟩ := one
  have reads : (dmaReads (x.1 + (h.ch c).srcOff) && dmaReads (x.1 + (h.ch c).srcOff + n - 1)) = true := by
    rw [Hw.dmaReads_shared (by omega) (by omega), Hw.dmaReads_shared (by omega) (by omega), Bool.and_self]
  have writes : (dmaWrites (y.1 + (h.ch c).dstOff) && dmaWrites (y.1 + (h.ch c).dstOff + n - 1)) = true := by
    rw [Hw.dmaWrites_shared (by omega) (by omega), Hw.dmaWrites_shared (by omega) (by omega), Bool.and_self]
  have still : (h.whenB (dmaReads (x.1 + (h.ch c).srcOff)) fun g => g.noteRead m (x.1 + (h.ch c).srcOff) n) = h := by
    rw [Hw.dmaReads_shared (by omega) (by omega), Hw.whenB_true]
    exact Hw.noteRead_sound_bad h hb _ _
  unfold dmaIssue
  dsimp only
  rw [next_]
  dsimp only
  rw [reads, Hw.firstUe_sound hb, writes, still, Hw.onDma_eq, Hw.spaceBytes_read h hb (by omega) (by omega)]
  refine congrArg (fun v => ({ h.setCh c v with dmaLast := updN h.dmaLast (h.ch c).act.prio fun _ => c, dmaAt := some h.sta.since } : Hw)) ?_
  unfold issuedCh
  simp only [hx, hy, Option.any_some, beq_iff_eq]
  rfl

section
variable {s : State} {dt : Nat} {h : Hw} (he : s.hw.elapse dt = h) (hs : h.Settled)
include he hs

/-- The only burst of a cycle. -/
theorem execDmaBurst_issue {c : ChId} (hb : s.mem.bad = []) (hat : h.dmaAt ≠ some h.sta.since) (hw : h.Waits (h.ch c))
    (h4 : (h.ch c).act.prio < 4) (hl : getN h.dmaLast (h.ch c).act.prio 31 < 32)
    (ho : ∀ x : ChId, x ≠ c → h.Waits (h.ch x) →
      ((h.ch x).srcNow.isSome = true ∧ (h.ch x).dstNow.isSome = true ∧ (h.ch x).srcEntry < (h.ch x).act.srcCount ∧
        (h.ch x).dstEntry < (h.ch x).act.dstCount) ∧
      ((h.ch x).act.prio < (h.ch c).act.prio ∨ (h.ch x).act.prio = (h.ch c).act.prio ∧
        (c.val + 31 - getN h.dmaLast (h.ch c).act.prio 31) % 32 < (x.val + 31 - getN h.dmaLast (h.ch c).act.prio 31) % 32))
    (hse : (h.ch c).srcEntry < (h.ch c).act.srcCount) (hde : (h.ch c).dstEntry < (h.ch c).act.dstCount)
    (hsl : (h.ch c).srcNow = none → Hw.Listed s.mem (h.ch c).act.src (h.ch c).act.srcCount (h.ch c).srcEntry)
    (hdl : (h.ch c).dstNow = none → Hw.Listed s.mem (h.ch c).act.dst (h.ch c).act.dstCount (h.ch c).dstEntry)
    {x y : Nat × Nat} (hx : srcUse s.mem (h.ch c) = x) (hy : dstUse s.mem (h.ch c) = y)
    (hxs : 0x20000000 ≤ x.1 ∧ x.1 + x.2 ≤ 0x21000000) (hys : 0x20000000 ≤ y.1 ∧ y.1 + y.2 ≤ 0x21000000)
    (hxo : (h.ch c).srcOff < x.2) (hyo : (h.ch c).dstOff < y.2) {n : Nat}
    (hn : min 64 (min (x.2 - (h.ch c).srcOff) (y.2 - (h.ch c).dstOff)) = n) : execDmaBurst dt s =
      .next { s with hw := { h.setCh c (issuedCh s.mem x y n (h.ch c)) with
        dmaLast := updN h.dmaLast (h.ch c).act.prio fun _ => c.val, dmaAt := some h.sta.since } } := by
  obtain ⟨g, hg⟩ : ∃ g : Hw, h.setCh c { h.ch c with srcNow := some x, dstNow := some y } = g := ⟨_, rfl⟩
  have own : g.ch c = { h.ch c with srcNow := some x, dstNow := some y } := hg ▸ h.setCh_ch c.isLt _
  have other {j : Nat} (hj : j ≠ c.val) : g.ch j = h.ch j := hg ▸ h.setCh_ch_ne hj _
  have waits (d : Dma) : g.Waits d ↔ h.Waits d := hg ▸ Iff.rfl
  have kept : g.dmaLast = h.dmaLast ∧ g.sta = h.sta := hg ▸ ⟨rfl, rfl⟩
  obtain ⟨lasts, sta⟩ := kept
  have taken : h.each (List.range 32) (dmaCheck s.mem) = g := by
    rw [each_dmaCheck hb hw hse hde hsl hdl fun x hne hxw => (ho x hne hxw).1, hx, hy, hg]
  have grant : dmaGrant g = some c.val := by
    refine dmaGrant_eq c.isLt ((waits _).mpr (by rw [own]; exact hw)) (by rw [own]; exact h4) (by rw [own, lasts]; exact hl) fun x hx hne hxw => ?_
    rw [other hne, own, lasts]
    exact (ho ⟨x, hx⟩ (fun e => hne (congrArg Fin.val e)) ((waits _).mp (by rw [← other hne]; exact hxw))).2
  have issue := dmaIssue_eq hb (h := g) (c := c) (x := x) (y := y) (n := n) (by rw [own]) (by rw [own]) (by rw [own]; exact hn) hxs hys
    (by rw [own]; exact hxo) (by rw [own]; exact hyo)
  rw [own, lasts, sta] at issue
  unfold execDmaBurst
  refine ok_becomes s dt ?_ (by exact hs)
  have first : (h.dmaAt != some h.up) = true := bne_iff_ne.mpr hat
  rw [he, first, Hw.whenB_true]
  dsimp only
  rw [taken, grant]
  dsimp only
  rw [issue, ← hg, Hw.setCh_setCh]
  rfl

theorem execDmaBurst_none (hat : h.dmaAt = some h.sta.since) : execDmaBurst dt s = .next { s with hw := h } := by
  unfold execDmaBurst
  refine ok_becomes s dt ?_ hs
  have done : (h.dmaAt != some h.up) = false := by rw [hat, Hw.up, bne_self_eq_false]
  rw [he, done, Hw.whenB_false]

end

/-! ### The responses (R366, R368) -/

/-- A channel whose oldest response has come, its `n` bytes written. -/
def answeredCh (r : List Burst) (n : Nat) (d : Dma) : Dma := { d with flight := r, bytes := min (2 ^ 48 - 1) (d.bytes + n) }

/-- A channel whose oldest response erred. -/
def erredCh (b : Burst) (r : List Burst) (e : Nat × Nat) (d : Dma) : Dma :=
  { d with flight := r, failing := some e, srcEntry := b.srcEntry, dstEntry := b.dstEntry }

/-- A channel whose list has ended, in the window `k` where one is open. -/
def endedCh (now k : Nat) (open_ : Bool) (d : Dma) : Dma :=
  if (if d.cycle = some now then d.commit0 else d.commit) = true ∧ open_ = true then handedOver now k { d with lists := min (2 ^ 32 - 1) (d.lists + 1) }
  else { d with state := 0, moved := some now, lists := min (2 ^ 32 - 1) (d.lists + 1) }

section
variable {h : Hw} {c : Nat} (hc : c < 32)
include hc

theorem Hw.dmaListEnd_pulsed : (h.setCh c (endedCh h.sta.since h.tim.k h.tim.open_ (h.ch c))).pulsed (h.dmaListEnd c) (160 + c) := by
  obtain ⟨d, hd⟩ : ∃ d : Dma, { h.ch c with lists := min (2 ^ 32 - 1) ((h.ch c).lists + 1) } = d := ⟨_, rfl⟩
  obtain ⟨g, hg⟩ : ∃ g : Hw, (h.setCh c d).pulse (160 + c) = g := ⟨_, rfl⟩
  have pulsed : (h.setCh c d).pulsed g (160 + c) := hg ▸ Hw.pulse_pulsed _ _
  have kept : g.sta = h.sta ∧ g.tim = h.tim ∧ g.dma = (h.setCh c d).dma := by
    rw [pulsed.1]
    exact ⟨rfl, rfl, rfl⟩
  obtain ⟨sta, tim, dma⟩ := kept
  have own : g.ch c = d := (congrArg (getN · c ({} : Dma)) dma).trans (h.setCh_ch hc d)
  have listed : ((h.onDma c fun d => { d with lists := inc d.lists }).pulse (160 + c)) = g := by
    rw [Hw.onDma_eq, ← hg, ← hd]
    rfl
  have start : (g.dmaStart c).2 = if (h.ch c).cycle = some h.sta.since then (h.ch c).commit0 else (h.ch c).commit := by
    rw [Hw.dmaStart_eq, own, sta, ← hd]
  unfold Hw.dmaListEnd endedCh
  dsimp only
  rw [listed, start, tim]
  by_cases taken : (if (h.ch c).cycle = some h.sta.since then (h.ch c).commit0 else (h.ch c).commit) = true ∧ h.tim.open_ = true
  · rw [if_pos taken, if_pos (by rw [Bool.and_eq_true]; exact taken), Hw.dmaHandover_eq, sta, tim, own, hd]
    have set_ := pulsed.setCh c (handedOver h.sta.since h.tim.k d)
    rw [Hw.setCh_setCh] at set_
    exact set_
  · rw [if_neg taken, if_neg (by rw [Bool.and_eq_true]; exact taken), Hw.onDma_eq, own, Hw.up, sta]
    have set_ := pulsed.setCh c { d with state := 0, moved := some h.sta.since }
    rw [Hw.setCh_setCh] at set_
    rw [← hd] at set_ ⊢
    exact set_

end

section
variable {s : State} {dt : Nat} {h : Hw} (he : s.hw.elapse dt = h) (hs : h.Settled) {c : ChId} {b : Burst} {r : List Burst}
  (hfl : (h.ch c).flight = b :: r) (h1 : (h.ch c).state = 1) (hf : (h.ch c).failing = none)
include he hfl h1 hf

theorem execDmaResponse_good (hb : s.mem.bad = []) (herr : b.err = none) (hd : 0x20000000 ≤ b.dst ∧ b.dst + b.data.length ≤ 0x21000000) :
    execDmaResponse dt c s = .next { s with
      hw := ((h.setCh c (answeredCh r b.data.length (h.ch c))).whenB ((h.ch c).issued && r.isEmpty) fun h => h.dmaListEnd c).settle
      mem := s.mem.write b.dst b.data } := by
  obtain ⟨g, hg⟩ : ∃ g : Hw, h.setCh c (answeredCh r b.data.length (h.ch c)) = g := ⟨_, rfl⟩
  have own : g.ch c = answeredCh r b.data.length (h.ch c) := hg ▸ h.setCh_ch c.isLt _
  have answered : ((h.onDma c fun d => { d with flight := r }).onDma c fun d => { d with bytes := cnt 48 d.bytes b.data.length }) = g := by
    rw [Hw.onDma_onDma h c.isLt, ← hg]
    rfl
  have sound : g.noteMerge s.mem b.dst b.data.length = g := Hw.noteMerge_sound_bad g hb _ _
  have place : region b.dst = .shared (b.dst - 0x20000000) ∨ region b.dst = .unmapped := by
    by_cases inside : b.dst < 0x21000000
    · exact .inl (region_shared hd.1 inside)
    · have edge : b.dst = 0x21000000 := by omega
      exact .inr (by rw [edge]; decide)
  have ends : (((g.dmaSettle c).ch c).state == 1 && ((g.dmaSettle c).ch c).failing.isNone && ((g.dmaSettle c).ch c).issued &&
      ((g.dmaSettle c).ch c).flight.isEmpty) = ((h.ch c).issued && r.isEmpty) := by
    rw [Hw.dmaSettle_none (by rw [own]; exact hf), own]
    show ((h.ch c).state == 1 && (h.ch c).failing.isNone && (h.ch c).issued && r.isEmpty) = _
    rw [h1, hf]
    rfl
  have settled : g.dmaSettle c = g := Hw.dmaSettle_none (by rw [own]; exact hf)
  unfold execDmaResponse
  refine (okM_becomes he (r := (g.whenB ((h.ch c).issued && r.isEmpty) fun h => h.dmaListEnd c, s.mem.write b.dst b.data)) ?_).trans (by rw [hg])
  dsimp only
  rw [hfl]
  dsimp only
  rw [herr]
  dsimp only
  rw [answered]
  rcases place with place | place
  · rw [place]
    dsimp only
    rw [sound, ends, settled]
  · rw [place]
    dsimp only
    rw [sound, ends, settled]

omit h1 in
theorem execDmaResponse_erred {e : Nat × Nat} (herr : b.err = some e) :
    execDmaResponse dt c s = .next { s with hw := ((h.setCh c (erredCh b r e (h.ch c))).dmaSettle c).settle } := by
  obtain ⟨g, hg⟩ : ∃ g : Hw, h.setCh c (erredCh b r e (h.ch c)) = g := ⟨_, rfl⟩
  have own : g.ch c = erredCh b r e (h.ch c) := hg ▸ h.setCh_ch c.isLt _
  have erred : ((h.onDma c fun d => { d with flight := r }).onDma c fun d => if d.failing.isSome then d else
      { d with failing := some e, srcEntry := b.srcEntry, dstEntry := b.dstEntry }) = g := by
    rw [Hw.onDma_onDma h c.isLt, hf, ← hg]
    rfl
  have fails : (((g.dmaSettle c).ch c).state == 1 && ((g.dmaSettle c).ch c).failing.isNone) = false := by
    by_cases last : r = []
    · rw [Hw.dmaSettle_last (e := e) (by rw [own]; rfl) (by rw [own]; exact last)]
      rw [Hw.pulse_ch, Hw.setCh_ch g c.isLt]
      rfl
    · rw [Hw.dmaSettle_flight (e := e) (by rw [own]; rfl) (by rw [own]; exact last), own]
      exact Bool.and_false _
  unfold execDmaResponse
  refine (okM_becomes he (r := (g.dmaSettle c, s.mem)) ?_).trans ?_
  · dsimp only
    rw [hfl]
    dsimp only
    rw [herr]
    dsimp only
    rw [erred, fails, Bool.false_and, Bool.false_and, Hw.whenB_false]
  · rw [hg]

end

/-- A running channel handed over as its last response comes. -/
theorem handedOver_running {d : Dma} (h1 : d.state = 1) (hf : d.failing = none) (now k n : Nat) :
    handedOver now k { answeredCh [] n d with lists := min (2 ^ 32 - 1) (d.lists + 1) } = { d with
      act := if d.cycle = some now then d.sh0 else d.sh, commit := decide (d.cycle = some now) && d.asked, srcEntry := 0, dstEntry := 0
      srcOff := 0, dstOff := 0, issued := false, srcNow := none, dstNow := none, srcNext := 0, window := k, moved := some now, by_ := d.nextBy
      nextBy := if decide (d.cycle = some now) && d.asked then d.nextBy else [], flight := [], bytes := min (2 ^ 48 - 1) (d.bytes + n)
      lists := min (2 ^ 32 - 1) (d.lists + 1) } := by
  cases d
  cases h1
  cases hf
  rfl

/-- What a write leaves outside it, and what it leaves behind. -/
theorem Mem.write_gets {m : Mem} (hwf : m.wf = true) (hb : m.bad = []) (a : Nat) (l : Bytes) :
    (∀ x, x < a ∨ a + l.length ≤ x → (m.write a l).get x = m.get x) ∧ ∀ i < l.length, (m.write a l).get (a + i) = l.getD i 0 := by
  refine ⟨fun x hx => ?_, fun i hi => ?_⟩
  · rw [get_write hwf hb, if_neg (by omega)]
  · rw [get_write hwf hb, if_pos ⟨by omega, by omega⟩, Nat.add_sub_cancel_left]

theorem Hw.pulsed.settled {h t : Hw} {line : Nat} (p : h.pulsed t line) (hs : h.Settled) : t.Settled := by
  rw [p.1]
  exact hs

/-- Settles O41: what the engines write, the hand-over and the window's end; then the burst of a cycle, and the response by its outcome. -/
theorem dmaTransfers : Obligations.DmaTransfers := by
  refine ⟨?registers, ?transfers⟩
  case registers =>
    intro s dt c hs h d set_ now this begun asked
    have settled : h.Settled := Hw.elapse_settled _ hs dt
    refine ⟨fun h5 => ⟨execDmaCommit_eq rfl settled h5, execDmaRecover_eq rfl settled h5⟩,
      fun hop h0 hm hc => execDmaIdleHandover_eq rfl settled hop h0 hm hc, fun h1 hf hi hop hw hb first hfirst => ?_⟩
    have unissued : Unissued s.mem (h.ch c) first := by
      obtain now | ⟨now, aligned, low, high, use, entry, size, bytes, eq⟩ := hfirst
      · exact .inl now
      · exact .inr ⟨now, use, ⟨aligned, ⟨low, high⟩, entry, size, bytes⟩, eq⟩
    have failed : Hw.failedCh (5, first) (h.ch c) =
        { h.ch c with state := 2, cause := 5, errAddr := first, errors := min (2 ^ 32 - 1) ((h.ch c).errors + 1) } :=
      congrArg (fun v => ({ h.ch c with
        state := 2, cause := 5, errAddr := first, failing := v, errors := min (2 ^ 32 - 1) ((h.ch c).errors + 1) } : Dma)) hf.symm
    exact ⟨fun hn => execDmaWindowExpiry_flight rfl settled hb h1 hf hi hop hw unissued hn,
      fun hn => failed ▸ execDmaWindowExpiry_last rfl settled hb h1 hf hi hop hw unissued hn⟩
  case transfers =>
    intro s dt c hs hwf hb h d now set_ word waits shared last
    have settled : h.Settled := Hw.elapse_settled _ hs dt
    refine ⟨fun hat hw h4 hl ho hse hde => ?_, fun hat => execDmaBurst_none rfl settled hat, fun b r hfl h1 hf => ?_⟩
    · intro listed hsl hdl x y hxs hys hxo hyo n
      exact execDmaBurst_issue rfl settled hb hat hw h4 hl ho hse hde hsl hdl rfl rfl hxs hys hxo hyo rfl
    · intro bytes written this asked met
      refine ⟨fun herr hd hlast => ?_, fun herr hd hr hi => ?_, fun e herr hr => ?_, fun e herr hr => ?_⟩
      · have goes : ((h.ch c).issued && r.isEmpty) = false := Bool.eq_false_iff.mpr fun e => by
          rw [Bool.and_eq_true, List.isEmpty_iff] at e
          exact hlast e.symm
        refine ⟨_, execDmaResponse_good rfl hfl h1 hf hb herr hd, rfl, Mem.write_gets hwf hb _ _, ?_⟩
        dsimp only
        rw [goes, Hw.whenB_false]
        exact Hw.settle_of_settled _ (Hw.setCh_settled settled c _)
      · have ends : ((h.ch c).issued && r.isEmpty) = true := by
          rw [hi, hr]
          rfl
        have pulsed := Hw.dmaListEnd_pulsed (h := h.setCh c (answeredCh r b.data.length (h.ch c))) c.isLt
        rw [Hw.setCh_ch h c.isLt, Hw.setCh_setCh] at pulsed
        refine ⟨_, execDmaResponse_good rfl hfl h1 hf hb herr hd, rfl, Mem.write_gets hwf hb _ _, ?_⟩
        dsimp only
        rw [ends, Hw.whenB_true, Hw.settle_of_settled _ (pulsed.settled (Hw.setCh_settled settled c _))]
        refine pulsed.congr ?_
        subst hr
        by_cases taken : (if (h.ch c).cycle = some h.sta.since then (h.ch c).commit0 else (h.ch c).commit) = true ∧ h.tim.open_ = true
        · refine (if_pos taken).trans (Eq.trans ?_ (if_pos taken).symm)
          exact handedOver_running h1 hf _ _ _
        · exact (if_neg taken).trans (if_neg taken).symm
      · refine (execDmaResponse_erred rfl hfl hf herr).trans ?_
        rw [Hw.dmaSettle_flight (e := e) (by rw [Hw.setCh_ch h c.isLt]; rfl) (by rw [Hw.setCh_ch h c.isLt]; exact hr),
          Hw.settle_of_settled _ (Hw.setCh_settled settled c _)]
        rfl
      · have last := Hw.dmaSettle_last (h := h.setCh c (erredCh b r e (h.ch c))) (c := c) (e := e) (by rw [Hw.setCh_ch h c.isLt]; rfl)
          (by rw [Hw.setCh_ch h c.isLt]; exact hr)
        rw [Hw.setCh_ch h c.isLt, Hw.setCh_setCh] at last
        refine ⟨_, execDmaResponse_erred rfl hfl hf herr, rfl, rfl, ?_⟩
        dsimp only
        rw [last, Hw.settle_of_settled _ (Hw.pulse_settled (Hw.setCh_settled settled c _) _)]
        exact Hw.pulse_pulsed _ _

end Sys2Proof.Machine
end

section
/-! A symbol observed for a calibration run (R238). Refutes O44. -/
namespace Sys2Proof.Machine

/-- A transmit run of two paths, 1 and 2, while quad 0 observes path 0 in a thermal trip. -/
def twoWanted : State := { State.reset with hw := { State.reset.hw with
  img := { State.reset.hw.img with loaded := some { calLimits := { minSamples := 1 } } }
  tim := { State.reset.hw.tim with open_ := true }
  cal := { State.reset.hw.cal with state := 2, run := some { tag := 0, target := 1, policy := 0, tick := 0, started := true } }
  trl := { State.reset.hw.trl with trip := true, grants := [{ window := 0, cls := 2, unit := 1 }] }
  quads := updN State.reset.hw.quads 0 fun x => { x with calSel := 4, calCur := 0 }
  paths := vmapi State.reset.hw.paths fun n p => { p with calTx := { p.calTx with inRun := n == 1 || n == 2 } } } }

theorem twoWanted_settled : twoWanted.hw.Settled := ⟨rfl, by decide +kernel, by decide +kernel, rfl⟩

/-- What the statement asks of the quantum's premises. -/
theorem twoWanted_collects : (∀ u : QuadId, ((twoWanted.hw.elapse 0).quad u).calSel = 4 ↔ u = 0) ∧
    ((twoWanted.hw.elapse 0).path 1).calTx.inRun = true ∧
    ((twoWanted.hw.elapse 0).path 1).calTx.samples < (twoWanted.hw.elapse 0).image.calLimits.minSamples := by
  decide +kernel

/-- Path 1 is selected next; behind it the rotation goes to path 2. -/
theorem twoWanted_done : ∃ t, exec (.calCollectQuantumDone 0 (.tx [(0, [])])) twoWanted = .next t ∧
    (t.hw.quad 0).calCur = 1 ∧ t.hw.calNextTx 0 = some 2 := by
  refine ⟨_, rfl, ?_⟩
  decide +kernel

/-- Refutes O44: the statement asks the state that the quantum leaves for the quad's next path, and by then the rotation stands at the path
just selected. With paths 1 and 2 wanted, path 1 is selected, and the next one is path 2. -/
theorem not_calCollection : ¬ Obligations.CalCollection := by
  intro claim
  obtain ⟨sel, inRun, few⟩ := twoWanted_collects
  obtain ⟨-, tx⟩ := claim twoWanted 0 _ twoWanted_settled rfl rfl rfl rfl
  obtain ⟨t, run, -, -, -, quads, -⟩ := tx (.inl rfl) rfl (List.mem_singleton.mpr rfl) 0 [] 0 1 sel rfl (by decide) inRun few
  obtain ⟨u, ran, cur, next_⟩ := twoWanted_done
  obtain rfl : t = u := Host.Outcome.next.inj (run.symm.trans ran)
  have own := (quads 0).2 rfl
  rw [show t.hw.calNextTx (0 : QuadId) = some 2 from next_] at own
  obtain ⟨-, -, quad⟩ := own
  have two : (t.hw.quad 0).calCur = 2 := congrArg Quad.calCur quad
  exact absurd (cur.symm.trans two) (by decide)

end Sys2Proof.Machine
end

section
/-! CALIBRATE, CAL_ABORT and the other commands of the baseband (R197, R227, R231, R244, R312, R319, R375). Settles O49. -/
namespace Sys2Proof.Machine
namespace Hw

/-! ### Reasons against a command -/

theorem ifBad_false {b : Bool} (hb : b = false) (r : Nat) : ifBad b r = 0 := by
  rw [hb]
  rfl

theorem ifBad_true {b : Bool} (hb : b = true) (r : Nat) : ifBad b r = r := by
  rw [hb]
  rfl

section
variable {h : Hw} {k7 k : Nat} (h7 : h.sta.k7 = some k7) (hk : k7 ≤ k)
include h7 hk

theorem before7_false : h.before7 k = false := by
  rw [before7, h7, Option.any_some]
  exact decide_eq_false (Nat.not_lt.mpr hk)

variable {sl : Slot} (hsl : h.recAt k = some sl) (hlo : (sl.minLead : Int) * 98304 ≤ (h.tickAt k : Int) * 100000 - h.tim.c * 100000)
  (hhi : (h.tickAt k : Int) * 100000 - h.tim.c * 100000 ≤ 2000000000 * 98304)
include hsl hlo hhi

/-- A command within MIN_LEAD and 2,000 ms. -/
theorem commandWindow_zero {typ : Nat} (ht : onlyS8 typ = false ∨ 8 ≤ h.sta.stage) : h.commandWindow typ k = 0 := by
  have late : h.leadBelow k h.tim.c sl.minLead = false := decide_eq_false (by
    rw [tickFine, nsFine]
    push_cast
    omega)
  have early : h.leadAbove k h.tim.c 2000000000 = false := decide_eq_false (by
    rw [tickFine, nsFine]
    push_cast
    omega)
  have stage : h.stageForbids typ = false := by
    obtain ht | ht := ht
    · rw [stageForbids, ht, Bool.false_and]
    · rw [stageForbids, decide_eq_false (Nat.not_lt.mpr ht), Bool.and_false]
  unfold commandWindow
  rw [hsl, Option.map_some, Option.getD_some]
  dsimp only
  rw [before7_false h7 hk, stage, window, late, early]
  rfl

end

theorem controlFull_false {h : Hw} (hr : h.fhl.control.length < 2048) : h.controlFull = false := decide_eq_false (Nat.not_le.mpr hr)

end Hw

/-! ### A command carried out or refused -/

theorem Hw.command_zero {h : Hw} {why : Nat} (hw : why = 0) (k : Nat) (f : Hw → Hw) : h.command why k f = ((f h).hold k, 0) := by
  rw [hw, Hw.command, if_neg (not_not.mpr rfl)]

theorem Hw.command_refused {h : Hw} {why reason : Nat} (hw : why = reason) (hr : reason ≠ 0) (k : Nat) (f : Hw → Hw) :
    h.command why k f = (h, reason) := by
  rw [hw, Hw.command, if_pos hr]

/-! ### The reasons of each command -/

namespace Hw
section
variable {h : Hw} (hroom : h.fhl.control.length < 2048) {k7 k : Nat} (h7 : h.sta.k7 = some k7)
include hroom h7

theorem abortReasons_eq (h8 : 8 ≤ h.sta.stage) (hk : k7 ≤ k) (tag : Nat) :
    firstReason [ifBad (h.before7 k || h.stageForbids 0x22) 10, ifBad (!(h.cal.run.any fun r => r.tag == tag)) 8, ifBad h.controlFull 4] =
      if h.cal.run.any (fun r => r.tag == tag) then 0 else 8 := by
  have stage : h.stageForbids 0x22 = false := by rw [stageForbids, decide_eq_false (Nat.not_lt.mpr h8), Bool.and_false]
  rw [before7_false h7 hk, stage, controlFull_false hroom]
  cases h.cal.run.any fun r => r.tag == tag
  · rfl
  · rfl

theorem shareReasons_eq (hk : k7 ≤ k) (src : Nat) :
    firstReason [ifBad (h.before7 k || h.sys.pkgPos == 0 || h.macOf 0 != some src) 10, ifBad h.controlFull 4] =
      if h.sys.pkgPos = 0 ∨ h.macOf 0 ≠ some src then 10 else 0 := by
  rw [before7_false h7 hk, controlFull_false hroom, Bool.false_or]
  by_cases other : h.sys.pkgPos = 0 ∨ h.macOf 0 ≠ some src
  · rw [if_pos other, ifBad_true (by rw [Bool.or_eq_true, beq_iff_eq, bne_iff_ne]; exact other)]
    rfl
  · rw [if_neg other, ifBad_false (Bool.eq_false_iff.mpr fun e => other (by rwa [Bool.or_eq_true, beq_iff_eq, bne_iff_ne] at e))]
    rfl

variable (hk : k7 ≤ k) {sl : Slot} (hsl : h.recAt k = some sl) (hlo : (sl.minLead : Int) * 98304 ≤ (h.tickAt k : Int) * 100000 - h.tim.c * 100000)
  (hhi : (h.tickAt k : Int) * 100000 - h.tim.c * 100000 ≤ 2000000000 * 98304)
include hk hsl hlo hhi

theorem calReasons_eq (h8 : 8 ≤ h.sta.stage) (hkind : sl.kind ≠ 4) {target policy : Nat} (ht : target ≤ 2) (hp : policy ≤ 1) :
    firstReason [h.commandWindow 0x21 k, ifBad (h.isFoothill (h.slotAt k)) 10, ifBad (decide (2 < target) || decide (1 < policy)) 8,
      ifBad (h.cal.run.isSome || h.controlFull) 4] = if h.cal.run.isSome then 4 else 0 := by
  have foothill : h.isFoothill (h.slotAt k) = false := by
    have slot : h.slotRec (h.slotAt k) = some sl := hsl
    rw [isFoothill, slot, Option.any_some]
    exact beq_eq_false_iff_ne.mpr hkind
  rw [commandWindow_zero h7 hk hsl hlo hhi (.inr h8), foothill, decide_eq_false (Nat.not_lt.mpr ht), decide_eq_false (Nat.not_lt.mpr hp),
    controlFull_false hroom]
  cases h.cal.run.isSome
  · rfl
  · rfl

/-- A path to be retired or restored. -/
theorem pathReasons_eq {typ : Nat} (ht : onlyS8 typ = false) (n : Nat) :
    firstReason [h.commandWindow typ k, ifBad (decide (63 < n)) 8, ifBad h.controlFull 4] = if 63 < n then 8 else 0 := by
  rw [commandWindow_zero h7 hk hsl hlo hhi (.inl ht), controlFull_false hroom]
  by_cases out : 63 < n
  · rw [if_pos out, decide_eq_true out]
    rfl
  · rw [if_neg out, decide_eq_false out]
    rfl

variable {n : Nat} {a : CapSetup} (hrec : h.image.caps.find? (fun c => c.inst == n) = some a) (hn : n ≤ 31)
include hrec hn

theorem disarmReasons_eq : firstReason [h.commandWindow 0x24 k, ifBad (decide (31 < n)) 8, ifBad (h.capRec n).isNone 12, ifBad (!h.armedAt n k) 8,
    ifBad h.controlFull 4] = if h.armedAt n k then 0 else 8 := by
  have known : h.capRec n = some a := hrec
  rw [commandWindow_zero h7 hk hsl hlo hhi (.inl rfl), controlFull_false hroom, decide_eq_false (Nat.not_lt.mpr hn), known]
  cases h.armedAt n k
  · rfl
  · rfl

theorem armReasons_zero (harm : h.armedAt n k = false)
    (hshare : ∀ i < 32, i ≠ n → h.armedAt i k = true → ∀ b, h.image.caps.find? (fun c => c.inst == i) = some b → capShare a b = false) :
    firstReason [h.commandWindow 0x23 k, ifBad (decide (31 < n)) 8, ifBad (h.capRec n).isNone 12,
      ifBad (h.armedAt n k && !(h.capRec n).any fun a => bit a.sources 4) 8,
      ifBad ((!h.armedAt n k && (h.capRec n).any fun a => (List.range 32).any fun i => i != n && h.armedAt i k && (h.capRec i).any (capShare a)) ||
        h.controlFull) 4] = 0 := by
  have known : h.capRec n = some a := hrec
  have free : ((List.range 32).any fun i => i != n && h.armedAt i k && (h.capRec i).any (capShare a)) = false := by
    refine List.any_eq_false.mpr fun i hi => ?_
    rw [Bool.and_eq_true, Bool.and_eq_true, bne_iff_ne, Option.any_eq_true]
    rintro ⟨⟨ne, armed⟩, b, known, shares⟩
    rw [hshare i (List.mem_range.mp hi) ne armed b known] at shares
    cases shares
  rw [commandWindow_zero h7 hk hsl hlo hhi (.inl rfl), controlFull_false hroom, decide_eq_false (Nat.not_lt.mpr hn), known, harm,
    show Option.any (fun a => (List.range 32).any fun i => i != n && h.armedAt i k && (h.capRec i).any (capShare a)) (some a) = false from free]
  rfl

end
end Hw

theorem Hw.admitAbort_eq (h : Hw) (tag : Nat) : h.admitAbort tag = h.command
    (firstReason [ifBad (h.before7 (h.tim.k + 1) || h.stageForbids 0x22) 10, ifBad (!(h.cal.run.any fun r => r.tag == tag)) 8, ifBad h.controlFull 4])
    (h.tim.k + 1) fun g => g.onCal fun c => { c with run := c.run.map fun r => { r with abortAt := some (h.tim.k + 1) } } := rfl

theorem Hw.admitArm_eq (h : Hw) (n k : Nat) : h.admitArm n k = h.command
    (firstReason [h.commandWindow 0x23 k, ifBad (decide (31 < n)) 8, ifBad (h.capRec n).isNone 12,
      ifBad (h.armedAt n k && !(h.capRec n).any fun a => bit a.sources 4) 8,
      ifBad ((!h.armedAt n k && (h.capRec n).any fun a => (List.range 32).any fun i => i != n && h.armedAt i k && (h.capRec i).any (capShare a)) ||
        h.controlFull) 4])
    k fun g => { g with cap := { g.cap with orders := g.cap.orders ++ [(k, n, true)] } } := rfl

theorem Hw.admitShare_eq (h : Hw) (src : Nat) (share : List Nat) : h.admitShare src share = h.command
    (firstReason [ifBad (h.before7 (h.frameFrom (h.tim.k + 1)) || h.sys.pkgPos == 0 || h.macOf 0 != some src) 10, ifBad h.controlFull 4])
    (h.frameFrom (h.tim.k + 1)) fun g => g.onTrl fun t => { t with shareNext := some (share.getD g.sys.pkgPos 0) } := rfl

/-- Settles O49: each command is judged by its reasons, all of which the premises decide. -/
theorem commands : Obligations.Commands := by
  refine ⟨?calibration, ?others⟩
  case calibration =>
    intro s dt tag k7 m hs h8 h7 hroom h k lead
    have settled : h.Settled := Hw.elapse_settled _ hs dt
    have stage : 8 ≤ h.sta.stage ∧ h.sta.k7 = some k7 := by
      show 8 ≤ (s.hw.elapse dt).sta.stage ∧ (s.hw.elapse dt).sta.k7 = some k7
      rw [Hw.elapse_sta]
      exact ⟨h8, h7⟩
    obtain ⟨h8, h7⟩ := stage
    have hroom : h.fhl.control.length < 2048 := by
      show (s.hw.elapse dt).fhl.control.length < 2048
      rw [Hw.elapse_fhl_control]
      exact hroom
    refine ⟨fun target policy sl hm hk hsl hkind hlo hhi ht hp => ?_, fun hm hk => ?_⟩
    · have reasons := Hw.calReasons_eq hroom h7 hk hsl hlo hhi h8 hkind ht hp
      refine ⟨fun hrun => ?_, fun hrun => ?_⟩
      · rw [if_neg (by rw [hrun]; exact Bool.false_ne_true)] at reasons
        exact ok_judge_held (g := { h with cal := { h.cal with
          run := some { tag := tag, target := target, policy := policy, tick := k }, state := 0, target := target, policy := policy
          outcome := 0, cause := 0, runTag := tag % 2 ^ 32, commitTick := 0xFFFFFFFF
          runs := min (2 ^ 32 - 1) (h.cal.runs + 1) } }) hm rfl (fun _ => rfl) settled
          fun st => Hw.command_zero (h := h.opened st) reasons _ _
      · rw [if_pos hrun] at reasons
        exact ok_judge_refused hm rfl (fun _ => rfl) hs (by decide) fun st => Hw.command_refused (h := h.opened st) reasons (by decide) _ _
    · have reasons (st : SeqState) := Hw.abortReasons_eq (h := h.opened st) hroom h7 h8 hk tag
      refine ⟨fun r hrun htag => ?_, fun hother => ?_⟩
      · have own : h.cal.run.any (fun r => r.tag == tag) = true := by
          rw [hrun, Option.any_some, htag]
          exact beq_self_eq_true tag
        have aborted : (h.cal.run.map fun r => { r with abortAt := some (h.tim.k + 1) }) = some { r with abortAt := some (h.tim.k + 1) } := by
          rw [hrun, Option.map_some]
        rw [← aborted]
        exact ok_judge_held (g := { h with cal := { h.cal with run := h.cal.run.map fun r => { r with abortAt := some (h.tim.k + 1) } } }) hm rfl
          (fun _ => rfl) settled fun st =>
            ((h.opened st).admitAbort_eq tag).trans (Hw.command_zero ((reasons st).trans (if_pos own)) _ _)
      · have none : h.cal.run.any (fun r => r.tag == tag) = false := by
          refine Bool.eq_false_iff.mpr fun e => ?_
          obtain ⟨r, hrun, htag⟩ := (Option.any_eq_true ..).mp e
          exact hother r hrun (beq_iff_eq.mp htag)
        exact ok_judge_refused hm rfl (fun _ => rfl) hs (by decide)
          fun st => ((h.opened st).admitAbort_eq tag).trans
            (Hw.command_refused ((reasons st).trans (if_neg (Bool.eq_false_iff.mp none))) (by decide) _ _)
  case others =>
    intro s dt k7 m sl hs h7 hk7 hroom h k lead
    have settled : h.Settled := Hw.elapse_settled _ hs dt
    have hk7 : h.sta.k7 = some k7 := by
      show (s.hw.elapse dt).sta.k7 = some k7
      rw [Hw.elapse_sta]
      exact hk7
    have hroom : h.fhl.control.length < 2048 := by
      show (s.hw.elapse dt).fhl.control.length < 2048
      rw [Hw.elapse_fhl_control]
      exact hroom
    refine ⟨fun hk hsl hlo hhi => ⟨fun n a hrec hn => ⟨fun hm harm hshare => ?_, fun hm harm => ?_, fun hm harm => ?_⟩,
      fun n => ⟨fun hm hn => ?_, fun hm hn => ?_, fun hm hn => ?_⟩⟩, fun share hm => ?_⟩
    · exact ok_judge_held (g := { h with cap := { h.cap with orders := h.cap.orders ++ [(k, n, true)] } }) hm rfl (fun _ => rfl) settled fun st =>
        ((h.opened st).admitArm_eq n k).trans (Hw.command_zero (Hw.armReasons_zero (h := h.opened st) hroom hk7 hk hsl hlo hhi hrec hn harm hshare) _ _)
    · have reasons := Hw.disarmReasons_eq hroom hk7 hk hsl hlo hhi hrec hn
      rw [if_pos harm] at reasons
      exact ok_judge_held (g := { h with cap := { h.cap with orders := h.cap.orders ++ [(k, n, false)] } }) hm rfl (fun _ => rfl) settled
          fun st => Hw.command_zero (h := h.opened st) reasons _ _
    · have reasons := Hw.disarmReasons_eq hroom hk7 hk hsl hlo hhi hrec hn
      rw [if_neg (by rw [harm]; exact Bool.false_ne_true)] at reasons
      exact ok_judge_refused hm rfl (fun _ => rfl) hs (by decide) fun st => Hw.command_refused (h := h.opened st) reasons (by decide) _ _
    · have reasons := Hw.pathReasons_eq hroom hk7 hk hsl hlo hhi (typ := 0x25) rfl n
      rw [if_neg (Nat.not_lt.mpr hn)] at reasons
      exact ok_judge_held (g := { h with paths := updN h.paths n fun p => { p with retireAt := p.retireAt ++ [(k, 6)] } }) hm rfl (fun _ => rfl) settled
          fun st => Hw.command_zero (h := h.opened st) reasons _ _
    · have reasons := Hw.pathReasons_eq hroom hk7 hk hsl hlo hhi (typ := 0x26) rfl n
      rw [if_neg (Nat.not_lt.mpr hn)] at reasons
      exact ok_judge_held (g := { h with paths := updN h.paths n fun p => { p with restoreAt := p.restoreAt ++ [k] } }) hm rfl (fun _ => rfl) settled
          fun st => Hw.command_zero (h := h.opened st) reasons _ _
    · have reasons := Hw.pathReasons_eq hroom hk7 hk hsl hlo hhi (typ := 0x25) rfl n
      rw [if_pos hn] at reasons
      exact ok_judge_refused hm rfl (fun _ => rfl) hs (by decide) fun st => Hw.command_refused (h := h.opened st) reasons (by decide) _ _
    · intro kf hkf
      have reasons (st : SeqState) := Hw.shareReasons_eq (h := h.opened st) hroom hk7 hkf m.src
      refine ⟨fun hpos hhead => ?_, fun hother => ?_⟩
      · exact ok_judge_held (g := { h with trl := { h.trl with shareNext := some (share.getD h.sys.pkgPos 0) } }) hm rfl (fun _ => rfl) settled
          fun st => ((h.opened st).admitShare_eq m.src share).trans
            (Hw.command_zero ((reasons st).trans (if_neg (not_or.mpr ⟨hpos, not_not.mpr hhead⟩))) _ _)
      · exact ok_judge_refused hm rfl (fun _ => rfl) hs (by decide)
          fun st => ((h.opened st).admitShare_eq m.src share).trans (Hw.command_refused ((reasons st).trans (if_pos hother)) (by decide) _ _)

end Sys2Proof.Machine
end

section
/-! Triggers of capture (R377, R381, R382, R384, R385). Settles O57. -/
namespace Sys2Proof.Machine

/-! ### What a change of capture leaves of a settled state -/

/-- A change of the capture engine and of FIRE_IO that arms and disarms nothing keeps the pins at their levels. -/
theorem Hw.Settled.capture {h : Hw} (hs : h.Settled) {k : CapAll} (ha : ∀ j, (getN k.setups j {}).armed = (h.capS j).armed) (b : Bool) :
    ({ h with cap := k, pins := { h.pins with fireLow := b } } : Hw).Settled := by
  obtain ⟨hpend, halarm, harm, hstat⟩ := hs
  refine ⟨hpend, halarm, ?_, hstat⟩
  show h.pins.armIo = _
  rw [harm]
  simp only [Hw.armLevel, Hw.capS, Hw.image] at ha ⊢
  simp only [ha]

theorem armed_updN {v : Vector Cap 32} {i : Nat} {f : Cap → Cap} (hf : (f (getN v i {})).armed = (getN v i {}).armed) (j : Nat) :
    (getN (updN v i f) j {}).armed = (getN v j {}).armed := by
  by_cases hj : j = i
  · subst hj
    by_cases hl : j < 32
    · rw [getN_updN_same v f {} hl, hf]
    · rw [updN, dif_neg hl]
  · rw [getN_updN_ne v f {} hj]

/-! ### The condition of a unit -/

theorem sumL_append (a b : List Nat) : sumL (a ++ b) = sumL a + sumL b := by
  induction a with
  | nil => simp [sumL]
  | cons x r ih => simp [sumL, ih, Nat.add_assoc]

/-- A sum of distinct powers of two is below the next one, and its bits say which powers it holds. -/
theorem sumL_powers (f : Nat → Bool) (n : Nat) :
    sumL ((List.range n).map fun k => if f k then 2 ^ k else 0) < 2 ^ n ∧
      ∀ k < n, (sumL ((List.range n).map fun k => if f k then 2 ^ k else 0)).testBit k = f k := by
  induction n with
  | zero => exact ⟨Nat.one_pos, fun k hk => absurd hk (Nat.not_lt_zero k)⟩
  | succ n ih =>
    obtain ⟨below, bits⟩ := ih
    rw [List.range_succ, List.map_append, sumL_append]
    generalize sumL ((List.range n).map fun k => if f k then 2 ^ k else 0) = z at below bits ⊢
    simp only [List.map_cons, List.map_nil, sumL, Nat.add_zero]
    cases hf : f n with
    | false =>
      simp only [Bool.false_eq_true, if_false, Nat.add_zero]
      refine ⟨Nat.lt_of_lt_of_le below (Nat.pow_le_pow_right (by decide) (Nat.le_succ n)), fun k hk => ?_⟩
      rcases Nat.lt_or_eq_of_le (Nat.le_of_lt_succ hk) with hlt | rfl
      · exact bits k hlt
      · rw [hf, Nat.testBit_lt_two_pow below]
    | true =>
      simp only [if_true]
      refine ⟨by rw [Nat.pow_succ]; omega, fun k hk => ?_⟩
      rw [Nat.add_comm]
      rcases Nat.lt_or_eq_of_le (Nat.le_of_lt_succ hk) with hlt | rfl
      · rw [Nat.testBit_two_pow_add_gt hlt, bits k hlt]
      · rw [Nat.testBit_two_pow_add_eq, Nat.testBit_lt_two_pow below, hf]
        rfl

theorem vmapi_eq_map {α : Type} {n : Nat} (v : Vector α n) (f : α → α) : vmapi v (fun _ x => f x) = v.map f := by
  have e := map_vmapi_comm id v f f fun _ => rfl
  rwa [Vector.map_id, Vector.map_id] at e

theorem armed_vmapi (v : Vector Cap 32) (f : Nat → Cap → Cap) (hf : ∀ i x, (f i x).armed = x.armed) (j : Nat) :
    (getN (vmapi v f) j {}).armed = (getN v j {}).armed := by
  by_cases hj : j < 32
  · rw [getN_vmapi v f {} hj, hf]
  · simp [getN, hj]

namespace Hw

/-- The condition `cond` of a unit holds on path `n` (R377). -/
def unitMet (h : Hw) (cond n : Nat) : Bool :=
  (h.path n).rxOn && match cond % 4 with
    | 0 => (h.monitor n (h.tim.c / 2 : Nat)).flag
    | 1 => decide ((-100 * (cond / 4 % 64 : Nat) : Int) < (h.path n).rxPower)
    | 2 => decide ((h.path n).rxPower < (-100 * (cond / 4 % 64 : Nat) : Int))
    | _ => (h.path n).fem.alarmPin

theorem capVector_eq (h : Hw) (cond : Nat) :
    h.capVector cond = BitVec.ofNat 64 (sumL ((List.range 64).map fun n => if h.unitMet cond n then 2 ^ n else 0)) := rfl

theorem unitMet_iff (h : Hw) (cond n : Nat) : h.unitMet cond n = true ↔ (h.path n).rxOn = true ∧
    if cond % 4 = 0 then (h.monitor n (h.tim.c / 2 : Nat)).flag = true
    else if cond % 4 = 1 then (-100 * (cond / 4 % 64 : Nat) : Int) < (h.path n).rxPower
    else if cond % 4 = 2 then (h.path n).rxPower < (-100 * (cond / 4 % 64 : Nat) : Int) else (h.path n).fem.alarmPin = true := by
  have four : cond % 4 = 0 ∨ cond % 4 = 1 ∨ cond % 4 = 2 ∨ cond % 4 = 3 := by omega
  rw [unitMet, Bool.and_eq_true]
  rcases four with e | e | e | e <;> simp [e]

/-- The vector of a condition has the bits of the paths on which it holds. -/
theorem capVector_of_bits {h : Hw} {cond : Nat} {vec : BitVec 64} (hv : ∀ n : PathId, vec.getLsbD n = true ↔ h.unitMet cond n = true) :
    h.capVector cond = vec := by
  obtain ⟨-, bits⟩ := sumL_powers (h.unitMet cond) 64
  refine BitVec.eq_of_getLsbD_eq fun n hn => ?_
  rw [capVector_eq, BitVec.getLsbD_ofNat, decide_eq_true hn, Bool.true_and, bits n hn]
  exact (Bool.eq_iff_iff.mpr (hv ⟨n, hn⟩)).symm

/-- The first armed set-up that holds a unit holds it. -/
theorem unitHolder_eq {h : Hw} {u i : Nat} {c : CapSetup} (hi : i < 32) (ha : (h.capS i).armed = true) (hc : h.capRec i = some c)
    (hu : c.sources.testBit u = true)
    (first : ∀ j < i, (h.capS j).armed = true → ∀ d, h.capRec j = some d → d.sources.testBit u = false) : h.unitHolder u = some i := by
  refine List.find?_range_eq_some.mpr ⟨?_, List.mem_range.mpr hi, fun j hj => ?_⟩
  · rw [ha, hc]
    exact hu
  · cases hja : (h.capS j).armed with
    | false => rfl
    | true =>
      cases hd : h.capRec j with
      | none => rfl
      | some d => simp [bit, first j hj hja d hd]

/-! ### Readiness -/

/-- The span since the end of a set-up's latest record, as DEAD_CC shows it. -/
def deadSpan (h : Hw) (x : Cap) : Option Nat := x.endAt.map fun e => min 0xFFFFFFFE (h.up - e)

end Hw

/-- A set-up that is ready from `now` on, `d` after the end of its latest record. -/
def Cap.readied (x : Cap) (now : Nat) (d : Option Nat) : Cap := { x with
  readyAt := some now, taken := [], rearm := false
  dead := if x.rearm then d.getD 0xFFFFFFFF else x.dead
  deadLast := if x.rearm then d.getD x.deadLast else x.deadLast }

theorem Cap.readied_first {x : Cap} (hre : x.rearm = false) {now : Nat} {d : Option Nat} :
    x.readied now d = { x with readyAt := some now, taken := [] } := by
  cases x
  subst hre
  rfl

namespace Hw

/-- A set-up with an open area that ARM_IO does not hold becomes ready (R382). -/
theorem capReady_ready {h : Hw} {i : Nat} {c : CapSetup} (hc : h.capRec i = some c) (ha : (h.capS i).armed = true)
    (hopen : (h.capS i).areaOpen = true) (ht : (h.capS i).trig = none) (hr : (h.capS i).readyAt = none) (holds : h.armHolds c = false) :
    h.capReady i = h.onCap i fun y => y.readied h.up (h.deadSpan (h.capS i)) := by
  simp only [capReady, hc, ha, hopen, ht, hr, holds, Option.isSome_none, Bool.not_true, Bool.or_self, Bool.false_eq_true, if_false]
  rfl

/-! ### The pull of FIRE_IO and the start of a record -/

variable {h : Hw} {i : Nat}

/-- A pull of FIRE_IO where none stands begins 6 cc from now. -/
theorem firePull_new (hits : Nat) (hn : h.cap.fireUntil = none) : h.firePull i hits = { h with
    cap := { h.cap with
      fireFrom := h.up + 6, fireUntil := some (h.up + 262), setups := updN h.cap.setups i fun x => { x with fireHits := hits } }
    pins := { h.pins with fireLow := true } } := by
  simp only [firePull, hn]
  rfl

/-- A pull of FIRE_IO while another stands makes it longer. -/
theorem firePull_longer (hits : Nat) {e : Nat} (hu : h.cap.fireUntil = some e) (he : h.up + 6 ≤ e) (hne : h.cap.fireFrom ≠ h.up + 6) :
    h.firePull i hits = { h with
      cap := { h.cap with fireUntil := some (h.up + 262) }
      pins := { h.pins with fireLow := true } } := by
  simp only [firePull, hu, if_neg (Nat.not_lt.mpr he), if_neg hne]
  rfl

/-- The trigger of a record that starts now, of a set-up ready since `r`. -/
def newTrig (h : Hw) (c : CapSetup) (x : Cap) (cause hits r : Nat) (vec : BitVec 64) : Trig :=
  { cause := cause, hits := hits, validPre := min c.pre ((h.up - r) * 3 / capPer3 c h.preset), missed := x.missed, tick := h.tim.k % 2 ^ 32
    cc := h.tim.c - h.tim.tickC, tod := todUnits h.tim.c, vector := vec, at_ := h.up, per3 := capPer3 c h.preset, rate := capRate c h.preset
    n := Dsp.firstAt (capRate c h.preset) h.tim.c }

/-- The trigger of a ready set-up starts a record. -/
theorem capStart_ready (c : CapSetup) (cause hits : Nat) (vec : BitVec 64) {r : Nat} (ht : (h.capS i).trig = none)
    (hr : (h.capS i).readyAt = some r) :
    h.capStart i c cause hits vec =
      h.onCap i fun y => { y with trig := some (h.newTrig c (h.capS i) cause hits r vec), missed := 0 } := by
  simp only [capStart, ht, hr]
  rfl

/-- A trigger of a set-up that records counts as missed. -/
theorem capStart_recording (c : CapSetup) (cause hits : Nat) (vec : BitVec 64) {t : Trig} (ht : (h.capS i).trig = some t) (hlt : t.at_ < h.up) :
    h.capStart i c cause hits vec = h.onCap i fun y =>
      { y with missed := min 0xFFFFFFFF (y.missed + 1), missedCnt := min (2 ^ 32 - 1) (y.missedCnt + 1) } := by
  simp only [capStart, ht, if_neg (Nat.ne_of_lt hlt)]
  rfl

/-- What a pull of FIRE_IO with FIRE_OUT `out` makes of a set-up. -/
def pulls (out : Bool) (hits : Nat) (x : Cap) : Cap := if out then { x with fireHits := hits } else x
/-- What a pull of FIRE_IO with FIRE_OUT `out` makes of its span. -/
def pulledCap (h : Hw) (out : Bool) : CapAll :=
  if out then { h.cap with fireFrom := h.up + 6, fireUntil := some (h.up + 262) } else h.cap

theorem pulledCap_setups (h : Hw) (out : Bool) : (h.pulledCap out).setups = h.cap.setups := by
  cases out <;> rfl

/-- Where none stands, FIRE_OUT pulls FIRE_IO, and without it nothing happens. -/
def pulled (h : Hw) (out : Bool) (i hits : Nat) : Hw := { h with
  cap := { h.pulledCap out with setups := updN h.cap.setups i (pulls out hits) }
  pins := { h.pins with fireLow := h.pins.fireLow || out } }

theorem whenB_firePull {out : Bool} (hits : Nat) (hout : out = false ∨ h.cap.fireUntil = none) :
    (h.whenB out fun h => h.firePull i hits) = h.pulled out i hits := by
  cases out with
  | false =>
    have still : updN h.cap.setups i (pulls false hits) = h.cap.setups := updN_id _ _
    rw [pulled, still, Bool.or_false]
    rfl
  | true =>
    rw [whenB_true, firePull_new hits (hout.resolve_left Bool.noConfusion), pulled, Bool.or_true]
    rfl

theorem pulled_capS (h : Hw) (out : Bool) {i : Nat} (hi : i < 32) (hits : Nat) : (h.pulled out i hits).capS i = pulls out hits (h.capS i) :=
  getN_updN_same _ _ _ hi

@[simp] theorem pulls_armed (out : Bool) (hits : Nat) (x : Cap) : (pulls out hits x).armed = x.armed := by cases out <;> rfl
@[simp] theorem pulls_trig (out : Bool) (hits : Nat) (x : Cap) : (pulls out hits x).trig = x.trig := by cases out <;> rfl
@[simp] theorem pulls_readyAt (out : Bool) (hits : Nat) (x : Cap) : (pulls out hits x).readyAt = x.readyAt := by cases out <;> rfl
@[simp] theorem pulls_missed (out : Bool) (hits : Nat) (x : Cap) : (pulls out hits x).missed = x.missed := by cases out <;> rfl

/-- A trigger of an armed set-up (R381, R385). -/
theorem capTrigger_armed {c : CapSetup} (ha : (h.capS i).armed = true) (hc : h.capRec i = some c) (cause hits : Nat) (vec : BitVec 64) :
    h.capTrigger i cause hits vec = (h.whenB (bit c.sources 5) fun h => h.firePull i hits).whenB (!bit c.sources 3) fun h =>
      h.capStart i c cause hits vec := by
  simp only [capTrigger, hc, ha, whenB_true]

/-- The hit counted for unit `u`. -/
def unitHit (h : Hw) (u : Fin 2) : Hw :=
  { h with cap := { h.cap with unitHits := updN h.cap.unitHits u fun n => min (2 ^ 32 - 1) (n + 1) } }

end Hw

/-- Of a list without repetitions one entry changes the registers, and the others leave them as they are. -/
theorem Hw.each_only {α : Type} {l : List α} {f : Hw → α → Hw} {n : α} {h g : Hw} (hl : l.Nodup) (hn : n ∈ l)
    (before : ∀ m ∈ l, m ≠ n → f h m = h) (own : f h n = g) (after : ∀ m ∈ l, m ≠ n → f g m = g) : h.each l f = g := by
  obtain ⟨l1, l2, rfl⟩ := List.append_of_mem hn
  have first : ∀ m ∈ l1, m ≠ n := fun m hm hmn => (List.nodup_append.mp hl).2.2 m hm n (by simp) hmn
  have last : ∀ m ∈ l2, m ≠ n := fun m hm hmn => (List.nodup_cons.mp (List.nodup_append.mp hl).2.1).1 (hmn ▸ hm)
  have split : h.each (l1 ++ n :: l2) f = (f (h.each l1 f) n).each l2 f := by simp [Hw.each]
  rw [split, Hw.each_still h l1 f fun m hm => before m (by simp [hm]) (first m hm), own]
  exact Hw.each_still g l2 f fun m hm => after m (by simp [hm]) (last m hm)

/-! ### FIRE_IO's fall -/

section
variable {h : Hw} {i : Nat} {c : CapSetup}

/-- What FIRE_IO's fall makes of a set-up. -/
def fireStart (h : Hw) (i : Nat) : Hw :=
  match h.capRec i with
  | some c => h.whenB ((h.capS i).armed && bit c.sources 3) fun h =>
      h.capStart i c 2 (if h.cap.fireUntil.isSome && decide (h.cap.fireFrom ≤ h.up) then (h.capS i).fireHits else 0) 0
  | none => h

/-- A set-up that is not armed, or has no FIRE_IN, is left alone. -/
theorem fireStart_other {g : Hw} {j : Nat}
    (hj : (g.capS j).armed = true → ∀ d, g.capRec j = some d → d.sources.testBit 3 = false) : fireStart g j = g := by
  unfold fireStart
  split
  · next d hd =>
    cases hja : (g.capS j).armed with
    | false => rfl
    | true => rw [show bit d.sources 3 = false from hj hja d hd, Bool.and_false, Hw.whenB_false]
  · rfl

/-- The ready set-up with FIRE_IN starts a record. -/
theorem fireStart_ready (ha : (h.capS i).armed = true) (hc : h.capRec i = some c) (hin : c.sources.testBit 3 = true) {r : Nat}
    (ht : (h.capS i).trig = none) (hr : (h.capS i).readyAt = some r) : fireStart h i = h.onCap i fun y => { y with
      trig := some (h.newTrig c (h.capS i) 2 (if h.cap.fireUntil.isSome = true ∧ h.cap.fireFrom ≤ h.up then (h.capS i).fireHits else 0) r 0)
      missed := 0 } := by
  simp only [fireStart, hc, ha, show bit c.sources 3 = true from hin, Bool.and_self, Hw.whenB_true, Hw.capStart_ready _ _ _ _ ht hr,
    Bool.and_eq_true, decide_eq_true_eq]

/-! ### ARM_IO -/

/-- What ARM_IO's new level makes of a set-up. -/
def armStep (level : Bool) (h : Hw) (i : Nat) : Hw :=
  match h.capRec i with
  | some c => h.whenB (bit c.sources 6 && (h.capS i).armed) fun h =>
      if level then h.capReady i else h.onCap i fun x => if x.trig.isSome then x else { x with readyAt := none }
  | none => h

theorem capReady_onCap (h : Hw) (j : Nat) : ∃ f : Cap → Cap, h.capReady j = h.onCap j f ∧ ∀ y, (f y).armed = y.armed := by
  have still : h = h.onCap j fun y => y :=
    congrArg (fun v => ({ h with cap := { h.cap with setups := v } } : Hw)) (updN_id h.cap.setups j).symm
  unfold Hw.capReady
  split
  · exact ⟨_, still, fun _ => rfl⟩
  · dsimp only
    split
    · exact ⟨_, still, fun _ => rfl⟩
    · exact ⟨_, rfl, fun _ => rfl⟩

/-- ARM_IO changes nothing but a set-up, and arms and disarms none. -/
theorem armStep_onCap (level : Bool) (h : Hw) (j : Nat) : ∃ f : Cap → Cap, armStep level h j = h.onCap j f ∧ ∀ y, (f y).armed = y.armed := by
  have still : h = h.onCap j fun y => y :=
    congrArg (fun v => ({ h with cap := { h.cap with setups := v } } : Hw)) (updN_id h.cap.setups j).symm
  unfold armStep
  split
  · next d _ =>
    cases bit d.sources 6 && (h.capS j).armed with
    | false => exact ⟨_, still, fun _ => rfl⟩
    | true =>
      cases level with
      | true => exact capReady_onCap h j
      | false =>
        refine ⟨_, rfl, fun y => ?_⟩
        split <;> rfl
  · exact ⟨_, still, fun _ => rfl⟩

/-- ARM_IO's new level over all set-ups: they alone change, and none is armed or disarmed. -/
theorem each_armStep (level : Bool) (h : Hw) (l : List Nat) :
    (h.each l (armStep level)) = { h with cap := { h.cap with setups := (h.each l (armStep level)).cap.setups } } ∧
      ∀ j, ((h.each l (armStep level)).capS j).armed = (h.capS j).armed := by
  refine Hw.each_induct (P := fun g => g = { h with cap := { h.cap with setups := g.cap.setups } } ∧ ∀ j, (g.capS j).armed = (h.capS j).armed)
    (fun g m _ hg => ?_) ⟨rfl, fun _ => rfl⟩
  obtain ⟨f, hf, hfa⟩ := armStep_onCap level g m
  rw [hf]
  refine ⟨?_, fun j => (armed_updN (hfa _) j).trans (hg.2 j)⟩
  rw [hg.1]
  rfl

/-- What ARM_IO's new level makes of one set-up. -/
theorem each_armStep_capS {level : Bool} (hc : h.capRec i = some c) (hi : i < 32) {x y : Cap} (hx : h.capS i = x)
    (own : ∀ g : Hw, g.capS i = x → g.capRec i = some c → g.sys = h.sys → g.pins = h.pins → g.sta = h.sta →
      (armStep level g i).capS i = y) :
    (h.each (List.range 32) (armStep level)).capS i = y := by
  refine congrArg (fun r => r.1) (Hw.each_once (g := fun g : Hw => (g.capS i, g.img, g.sys, g.pins, g.sta)) (n := i)
    (a := (x, h.img, h.sys, h.pins, h.sta)) (b := (y, h.img, h.sys, h.pins, h.sta)) List.nodup_range (List.mem_range.mpr hi)
    (fun g m hm => ?_) (fun g hg => ?_) (by rw [hx]))
  · obtain ⟨f, hf, -⟩ := armStep_onCap level g m
    rw [hf, Hw.onCap_capS_ne _ _ (Ne.symm hm)]
    rfl
  · obtain ⟨f, hf, -⟩ := armStep_onCap level g i
    have hx : g.capS i = x := congrArg (fun r => r.1) hg
    have himg : g.img = h.img := congrArg (fun r => r.2.1) hg
    have rest : (g.img, g.sys, g.pins, g.sta) = (h.img, h.sys, h.pins, h.sta) := congrArg (fun r => r.2) hg
    have hrec : g.capRec i = some c := by
      rw [← hc, Hw.capRec, Hw.capRec, Hw.image, Hw.image, himg]
    refine congrArg₂ (fun a b => (a, b)) (own g hx hrec (congrArg (fun r => r.2.1) rest)
      (congrArg (fun r => r.2.2.1) rest) (congrArg (fun r => r.2.2.2) rest)) ?_
    rw [hf]
    exact rest

theorem armStep_array {level : Bool} {g : Hw} (hga : (g.capS i).armed = true) (hgc : g.capRec i = some c) (h6 : c.sources.testBit 6 = true) :
    armStep level g i =
      if level then g.capReady i else g.onCap i fun x => if x.trig.isSome then x else { x with readyAt := none } := by
  rw [armStep, hgc]
  simp only [hga, show bit c.sources 6 = true from h6, Bool.and_self, Hw.whenB_true]

/-- A low ARM_IO ends the readiness of an armed ARRAY set-up that does not record. -/
theorem armStep_low {g : Hw} (hi : i < 32) (hga : (g.capS i).armed = true) (hgc : g.capRec i = some c) (h6 : c.sources.testBit 6 = true) :
    (armStep false g i).capS i = if (g.capS i).trig.isSome then g.capS i else { g.capS i with readyAt := none } := by
  rw [armStep_array hga hgc h6, if_neg Bool.false_ne_true]
  exact Hw.onCap_capS g _ hi

theorem armStep_other {level : Bool} {g : Hw} (hgc : g.capRec i = some c) (h6 : c.sources.testBit 6 = false) : armStep level g i = g := by
  simp only [armStep, hgc, show bit c.sources 6 = false from h6, Bool.false_and, Hw.whenB_false]

/-- A high ARM_IO makes an armed ARRAY set-up ready where its area is open. -/
theorem armStep_high {g : Hw} (hi : i < 32) (hga : (g.capS i).armed = true) (hgc : g.capRec i = some c) (h6 : c.sources.testBit 6 = true)
    (harm : g.pins.armIo = true) (hopen : (g.capS i).areaOpen = true) (ht : (g.capS i).trig = none) (hr : (g.capS i).readyAt = none)
    (hre : (g.capS i).rearm = false) : (armStep true g i).capS i = { g.capS i with readyAt := some g.up, taken := [] } := by
  have holds : g.armHolds c = false := by
    rw [Hw.armHolds, harm, Bool.not_true, Bool.and_false]
  rw [armStep_array hga hgc h6, if_pos rfl, Hw.capReady_ready hgc hga hopen ht hr holds]
  exact (Hw.onCap_capS g _ hi).trans (Cap.readied_first hre)

end

/-! ### The commands -/

theorem exec_captureTrigger (s : State) (dt : Nat) (u : Fin 2) : exec (.captureTrigger dt u) s = execCaptureTrigger dt u s := rfl
theorem exec_firePullEnd (s : State) (dt : Nat) : exec (.firePullEnd dt) s = execFirePullEnd dt s := rfl
theorem exec_fireIoFall (s : State) (dt : Nat) : exec (.fireIoFall dt) s = execFireIoFall dt s := rfl
theorem exec_armIoChange (s : State) (dt : Nat) (level : Bool) : exec (.armIoChange dt level) s = execArmIoChange dt level s := rfl

section
variable {s : State} {dt i : Nat} {h : Hw} {c : CapSetup} (he : s.hw.elapse dt = h) (hs : h.Settled) (ha : (h.capS i).armed = true)
  (hc : h.capRec i = some c)
include he hs ha hc

section
variable {u : Fin 2} {vec : BitVec 64} (hu : h.unitHolder u = some i) (hvec : h.capVector (if u = 0 then c.cond0 else c.cond1) = vec)
  (hcare : vec &&& (if u = 0 then c.care0 else c.care1) = (if u = 0 then c.value0 else c.value1) &&& (if u = 0 then c.care0 else c.care1))
include hu hvec hcare

/-- The vector of a unit that an armed set-up holds is met: a hit, and what the set-up's sources make of it. -/
theorem exec_captureTrigger_hit {k : CapAll} {b : Bool}
    (hg : ((h.unitHit u).whenB (bit c.sources 5) fun h => h.firePull i (2 ^ u.val)).whenB (!bit c.sources 3) (fun h =>
      h.capStart i c u.val (2 ^ u.val) vec) = { h with cap := k, pins := { h.pins with fireLow := b } })
    (hk : ∀ j, (getN k.setups j {}).armed = (h.capS j).armed) :
    exec (.captureTrigger dt u) s = .next { s with hw := { h with cap := k, pins := { h.pins with fireLow := b } } } := by
  refine (exec_captureTrigger s dt u).trans (ok_becomes s dt ?_ (hs.capture hk b))
  rw [he]
  simp only [hu, hc, hvec, beq_iff_eq.mpr hcare, Hw.whenB_true]
  rw [upd_eq_updN]
  exact (Hw.capTrigger_armed (h := h.unitHit u) ha hc u.val (2 ^ u.val) vec).trans hg

/-- The hit where no pull stands, or the set-up pulls none: `f` is what the trigger makes of the set-up itself. -/
theorem exec_captureTrigger_pulls {out : Bool} (hsrc : c.sources.testBit 5 = out) (hout : out = false ∨ h.cap.fireUntil = none) {f : Cap → Cap}
    (hf : (((h.unitHit u).pulled out i (2 ^ u.val)).whenB (!bit c.sources 3) fun h => h.capStart i c u.val (2 ^ u.val) vec) =
      ((h.unitHit u).pulled out i (2 ^ u.val)).onCap i f) (hfa : ∀ y, (f y).armed = y.armed) :
    exec (.captureTrigger dt u) s = .next { s with hw := { h with
      cap := { (h.unitHit u).pulledCap out with
        setups := updN ((h.unitHit u).pulledCap out).setups i fun _ => f (Hw.pulls out (2 ^ u.val) (h.capS i)) }
      pins := { h.pins with fireLow := h.pins.fireLow || out } } } := by
  refine exec_captureTrigger_hit he hs ha hc hu hvec hcare ?_ ?_
  · rw [show bit c.sources 5 = out from hsrc, Hw.whenB_firePull (h := h.unitHit u) _ hout, hf, Hw.pulledCap_setups]
    refine congrArg (fun v => ({ h with
      cap := { (h.unitHit u).pulledCap out with setups := v }
      pins := { h.pins with fireLow := h.pins.fireLow || out } } : Hw)) ?_
    exact (updN_updN ..).trans (updN_const h.cap.setups i (fun x => f (Hw.pulls out (2 ^ u.val) x)) {})
  · intro j
    rw [Hw.pulledCap_setups]
    exact armed_updN (v := h.cap.setups) (i := i) (f := fun _ => f (Hw.pulls out (2 ^ u.val) (h.capS i)))
      ((hfa _).trans (Hw.pulls_armed out _ (h.capS i))) j

/-- With FIRE_IN the set-up itself starts no record. -/
theorem exec_captureTrigger_fireIn {out : Bool} (hsrc : c.sources.testBit 5 = out) (hout : out = false ∨ h.cap.fireUntil = none)
    (hin : c.sources.testBit 3 = true) :
    exec (.captureTrigger dt u) s = .next { s with hw := { h with
      cap := { (h.unitHit u).pulledCap out with
        setups := updN ((h.unitHit u).pulledCap out).setups i fun _ => Hw.pulls out (2 ^ u.val) (h.capS i) }
      pins := { h.pins with fireLow := h.pins.fireLow || out } } } := by
  refine exec_captureTrigger_pulls he hs ha hc hu hvec hcare hsrc hout (f := fun y => y) ?_ fun _ => rfl
  rw [show bit c.sources 3 = true from hin, Bool.not_true, Hw.whenB_false]
  exact congrArg (fun v => ({ (h.unitHit u).pulled out i (2 ^ u.val) with cap := { ((h.unitHit u).pulled out i (2 ^ u.val)).cap with
    setups := v } } : Hw)) (updN_id _ _).symm

/-- Without FIRE_IN a ready set-up starts a record. -/
theorem exec_captureTrigger_starts (hi : i < 32) {out : Bool} (hsrc : c.sources.testBit 5 = out) (hout : out = false ∨ h.cap.fireUntil = none)
    (hin : c.sources.testBit 3 = false) {r : Nat} (ht : (h.capS i).trig = none) (hr : (h.capS i).readyAt = some r) :
    exec (.captureTrigger dt u) s = .next { s with hw := { h with
      cap := { (h.unitHit u).pulledCap out with
        setups := updN ((h.unitHit u).pulledCap out).setups i fun _ =>
          { Hw.pulls out (2 ^ u.val) (h.capS i) with trig := some (h.newTrig c (h.capS i) u.val (2 ^ u.val) r vec), missed := 0 } }
      pins := { h.pins with fireLow := h.pins.fireLow || out } } } := by
  have own := (h.unitHit u).pulled_capS out hi (2 ^ u.val)
  refine exec_captureTrigger_pulls he hs ha hc hu hvec hcare hsrc hout
    (f := fun y => { y with trig := some (h.newTrig c (h.capS i) u.val (2 ^ u.val) r vec), missed := 0 }) ?_ fun _ => rfl
  rw [show bit c.sources 3 = false from hin, Bool.not_false, Hw.whenB_true,
    Hw.capStart_ready (r := r) _ _ _ _ (by rw [own, Hw.pulls_trig]; exact ht) (by rw [own, Hw.pulls_readyAt]; exact hr)]
  have same : ((h.unitHit u).pulled out i (2 ^ u.val)).newTrig c (((h.unitHit u).pulled out i (2 ^ u.val)).capS i) u.val (2 ^ u.val) r vec =
      h.newTrig c (h.capS i) u.val (2 ^ u.val) r vec := by
    rw [Hw.newTrig, own, Hw.pulls_missed]
    rfl
  rw [same]

/-- Without FIRE_IN a trigger of a set-up that records counts as missed. -/
theorem exec_captureTrigger_misses (hi : i < 32) {out : Bool} (hsrc : c.sources.testBit 5 = out) (hout : out = false ∨ h.cap.fireUntil = none)
    (hin : c.sources.testBit 3 = false) {t : Trig} (ht : (h.capS i).trig = some t) (hlt : t.at_ < h.up) :
    exec (.captureTrigger dt u) s = .next { s with hw := { h with
      cap := { (h.unitHit u).pulledCap out with
        setups := updN ((h.unitHit u).pulledCap out).setups i fun _ =>
          Hw.pulls out (2 ^ u.val) { h.capS i with
            missed := min 0xFFFFFFFF ((h.capS i).missed + 1), missedCnt := min (2 ^ 32 - 1) ((h.capS i).missedCnt + 1) } }
      pins := { h.pins with fireLow := h.pins.fireLow || out } } } := by
  have own := (h.unitHit u).pulled_capS out hi (2 ^ u.val)
  refine (exec_captureTrigger_pulls he hs ha hc hu hvec hcare hsrc hout
    (f := fun y => { y with missed := min 0xFFFFFFFF (y.missed + 1), missedCnt := min (2 ^ 32 - 1) (y.missedCnt + 1) }) ?_ fun _ => rfl).trans ?_
  · rw [show bit c.sources 3 = false from hin, Bool.not_false, Hw.whenB_true,
      Hw.capStart_recording (h := (h.unitHit u).pulled out i (2 ^ u.val)) (t := t) _ _ _ _ (by rw [own, Hw.pulls_trig]; exact ht) hlt]
  · cases out <;> rfl

/-- With FIRE_IN and FIRE_OUT a trigger during the package's own pull makes it longer. -/
theorem exec_captureTrigger_longer (hsrc : c.sources.testBit 5 = true) (hin : c.sources.testBit 3 = true) {e : Nat}
    (hf : h.cap.fireUntil = some e) (hle : h.up + 6 ≤ e) (hne : h.cap.fireFrom ≠ h.up + 6) :
    exec (.captureTrigger dt u) s = .next { s with hw := { h with
      cap := { (h.unitHit u).cap with fireUntil := some (h.up + 262) }, pins := { h.pins with fireLow := true } } } := by
  refine exec_captureTrigger_hit he hs ha hc hu hvec hcare ?_ fun _ => rfl
  rw [show bit c.sources 5 = true from hsrc, show bit c.sources 3 = true from hin, Bool.not_true, Hw.whenB_false, Hw.whenB_true,
    Hw.firePull_longer (h := h.unitHit u) _ hf hle hne]
  rfl

end

/-- FIRE_IO falls: the ready set-up, the only armed one with FIRE_IN, starts a record (R385). -/
theorem exec_fireIoFall_starts (hi : i < 32) (hin : c.sources.testBit 3 = true) {r : Nat} (ht : (h.capS i).trig = none)
    (hr : (h.capS i).readyAt = some r)
    (only : ∀ j < 32, j ≠ i → (h.capS j).armed = true → ∀ d, h.capRec j = some d → d.sources.testBit 3 = false) :
    exec (.fireIoFall dt) s = .next { s with hw := { h with cap := { h.cap with setups := updN h.cap.setups i fun _ =>
      { h.capS i with
        trig := some (h.newTrig c (h.capS i) 2 (if h.cap.fireUntil.isSome = true ∧ h.cap.fireFrom ≤ h.up then (h.capS i).fireHits else 0) r 0)
        missed := 0 } } } } := by
  refine (exec_fireIoFall s dt).trans (ok_becomes s dt (f := fun h => h.each (List.range 32) fireStart) ?_
    (hs.capture (armed_updN rfl) h.pins.fireLow))
  rw [he]
  refine (Hw.each_only List.nodup_range (List.mem_range.mpr hi) (fun j hj hji => fireStart_other (only j (List.mem_range.mp hj) hji))
    (fireStart_ready ha hc hin ht hr) fun j hj hji => fireStart_other fun hja => ?_).trans ?_
  · exact only j (List.mem_range.mp hj) hji (Hw.onCap_capS_ne h _ hji ▸ hja)
  · exact congrArg (fun v => ({ h with cap := { h.cap with setups := v } } : Hw)) (updN_congr {} rfl)

omit ha hc in
/-- FIRE_IO's own pull ends (R385). -/
theorem exec_firePullEnd_due {e : Nat} (hf : h.cap.fireUntil = some e) (hle : e ≤ h.up) :
    exec (.firePullEnd dt) s = .next { s with hw := { h with
      cap := { h.cap with fireUntil := none, setups := h.cap.setups.map fun y => { y with fireHits := 0 } }
      pins := { h.pins with fireLow := false } } } := by
  rw [← vmapi_eq_map]
  refine (exec_firePullEnd s dt).trans (ok_becomes s dt ?_ (hs.capture (fun j => ?_) false))
  · rw [he, hf, Option.any_some, decide_eq_true hle, Hw.whenB_true]
    rfl
  · exact armed_vmapi h.cap.setups (fun _ y => { y with fireHits := 0 }) (fun _ _ => rfl) j

omit ha hc in
/-- Behind the array head ARM_IO takes the level that the set-ups then follow (R384). -/
theorem exec_armIoChange_behind (hpos : h.sys.pkgPos ≠ 0) (level : Bool) {g : Hw}
    (hg : ({ h with pins := { h.pins with armIo := level } } : Hw).each (List.range 32) (armStep level) = g) :
    exec (.armIoChange dt level) s = .next { s with hw := g } ∧
      g = { h with pins := { h.pins with armIo := level }, cap := { h.cap with setups := g.cap.setups } } := by
  obtain ⟨only, armed⟩ := each_armStep level { h with pins := { h.pins with armIo := level } } (List.range 32)
  rw [hg] at only armed
  refine ⟨(exec_armIoChange s dt level).trans (ok_becomes s dt ?_ ?_), only⟩
  · rw [he, bne_iff_ne.mpr hpos, Hw.whenB_true]
    exact hg
  · obtain ⟨hpend, halarm, -, hstat⟩ := hs
    rw [only]
    refine ⟨hpend, halarm, ?_, hstat⟩
    rw [Hw.armLevel, if_neg hpos]

/-- A low ARM_IO behind the array head. -/
theorem exec_armIoChange_low (hi : i < 32) (hpos : h.sys.pkgPos ≠ 0) :
    ∃ t, exec (.armIoChange dt false) s = .next t ∧ t.pending = s.pending ∧ t.mem = s.mem ∧
      t.hw = { h with pins := { h.pins with armIo := false }, cap := { h.cap with setups := t.hw.cap.setups } } ∧
      (c.sources.testBit 6 = true → (h.capS i).trig = none → t.hw.capS i = { h.capS i with readyAt := none }) ∧
      (c.sources.testBit 6 = false ∨ (h.capS i).trig.isSome = true → t.hw.capS i = h.capS i) := by
  obtain ⟨g, hgd⟩ : ∃ g : Hw, ({ h with pins := { h.pins with armIo := false } } : Hw).each (List.range 32) (armStep false) = g := ⟨_, rfl⟩
  obtain ⟨hexec, hg⟩ := exec_armIoChange_behind he hs hpos false hgd
  obtain ⟨x, hx⟩ : ∃ x, h.capS i = x := ⟨_, rfl⟩
  rw [hx] at ha ⊢
  refine ⟨_, hexec, rfl, rfl, hg, fun h6 ht => ?_, fun hno => ?_⟩ <;> dsimp only <;> rw [← hgd]
  · refine each_armStep_capS (h := { h with pins := { h.pins with armIo := false } }) hc hi hx fun k hk hkc _ _ _ => ?_
    rw [armStep_low hi (hk ▸ ha) hkc h6, hk]
    exact if_neg (by rw [ht]; decide)
  · refine each_armStep_capS (h := { h with pins := { h.pins with armIo := false } }) hc hi hx fun k hk hkc _ _ _ => ?_
    cases h6 : c.sources.testBit 6 with
    | false => rw [armStep_other hkc h6, hk]
    | true =>
      rw [armStep_low hi (hk ▸ ha) hkc h6, hk]
      exact if_pos (hno.resolve_left (by rw [h6]; decide))

/-- A high ARM_IO behind the array head. -/
theorem exec_armIoChange_high (hi : i < 32) (hpos : h.sys.pkgPos ≠ 0) (h6 : c.sources.testBit 6 = true) (hopen : (h.capS i).areaOpen = true)
    (ht : (h.capS i).trig = none) (hr : (h.capS i).readyAt = none) (hre : (h.capS i).rearm = false) :
    ∃ t, exec (.armIoChange dt true) s = .next t ∧ t.pending = s.pending ∧ t.mem = s.mem ∧ t.hw.pins.armIo = true ∧
      t.hw.capS i = { h.capS i with readyAt := some h.up, taken := [] } := by
  obtain ⟨g, hgd⟩ : ∃ g : Hw, ({ h with pins := { h.pins with armIo := true } } : Hw).each (List.range 32) (armStep true) = g := ⟨_, rfl⟩
  obtain ⟨hexec, hg⟩ := exec_armIoChange_behind he hs hpos true hgd
  obtain ⟨x, hx⟩ : ∃ x, h.capS i = x := ⟨_, rfl⟩
  rw [hx] at ha hopen ht hr hre ⊢
  refine ⟨_, hexec, rfl, rfl, congrArg (fun g : Hw => g.pins.armIo) hg, ?_⟩
  dsimp only
  rw [← hgd]
  refine each_armStep_capS (h := { h with pins := { h.pins with armIo := true } }) hc hi hx fun k hk hkc _ hpins hsta => ?_
  rw [armStep_high hi (hk ▸ ha) hkc h6 (congrArg Pins.armIo hpins) (hk ▸ hopen) (hk ▸ ht) (hk ▸ hr) (hk ▸ hre), hk, Hw.up, hsta]
  rfl

end

/-! ### The obligation -/

/-- Settles O57: the cases of a unit's hit by FIRE_OUT, FIRE_IN and what the set-up is doing; the fall and the release of FIRE_IO; and
ARM_IO's level over the set-ups. -/
theorem captureTriggers : Obligations.CaptureTriggers := by
  intro s dt i c hs0 h x now hi ha hc set_ trig missed
  have hs : h.Settled := Hw.elapse_settled _ hs0 dt
  have he : s.hw.elapse dt = h := rfl
  refine ⟨?_, ?_, ?_, ?_, ?_⟩
  · intro u vec hu first cond level met hbits hcare hit out goes pulls pulled
    have holder : h.unitHolder u = some i := Hw.unitHolder_eq hi ha hc hu first
    have hvec : h.capVector cond = vec := Hw.capVector_of_bits fun n => (hbits n).trans (Hw.unitMet_iff h cond n).symm
    refine ⟨fun hout => ⟨fun hin => ?_, fun hin => ⟨fun r ht hr => ?_, fun t ht hlt => ?_⟩⟩, fun hout hin e hf hle hne => ?_⟩
    · exact exec_captureTrigger_fireIn he hs ha hc holder hvec hcare rfl hout hin
    · exact exec_captureTrigger_starts he hs ha hc holder hvec hcare hi rfl hout hin ht hr
    · exact exec_captureTrigger_misses he hs ha hc holder hvec hcare hi rfl hout hin ht hlt
    · refine (exec_captureTrigger_longer he hs ha hc holder hvec hcare hout hin hf hle hne).trans ?_
      have low : (h.pins.fireLow || out) = true := by rw [show out = true from hout, Bool.or_true]
      exact congrArg (fun b => Host.Outcome.next { s with hw := { h with
        cap := { hit with fireUntil := some (now + 262) }, pins := { h.pins with fireLow := b } } }) low.symm
  · intro r ht hr hin only
    exact exec_fireIoFall_starts he hs ha hc hi hin ht hr only
  · intro e hf hle
    exact exec_firePullEnd_due he hs hf hle
  · exact exec_armIoChange_low he hs ha hc hi
  · exact exec_armIoChange_high he hs ha hc hi

end Sys2Proof.Machine
end

section
/-! Records of capture and their areas (R376, R382, R383, Table 17.3). Settles O58. -/
namespace Sys2Proof.Machine

/-! ### The memory of a record -/

/-- A header and what follows it, written at the area of offset `o` in the bank of flank `f`. -/
def putRecord (o : Nat) (area header : Nat → Bytes) (m : Mem) (f : Nat) : Mem :=
  (m.write (bankAddr f + o + 64) (area f)).write (bankAddr f + o) (header f)

theorem bankAddr_eq (f : Nat) : bankAddr f = 0x40000000 + f * 2097152 := rfl

/-- Areas within two banks lie apart. -/
theorem areas_apart {o size f g x : Nat} (hfit : o + size ≤ 2097152) (hfg : f ≠ g) (h1 : bankAddr f + o ≤ x) (h2 : x < bankAddr f + o + size) :
    x < bankAddr g + o ∨ bankAddr g + o + size ≤ x := by
  rw [bankAddr_eq] at h1 h2
  rw [bankAddr_eq]
  rcases Nat.lt_or_gt_of_ne hfg with hlt | hgt <;> omega

section
variable {o size : Nat} {area header : Nat → Bytes} (hfit : o + size ≤ 2097152) (hhead : ∀ f, (header f).length = 64)
  (harea : ∀ f, 64 + (area f).length ≤ size)
include hhead harea

/-- A record written in one bank: its bytes stand, and those outside its area read as before. -/
theorem putRecord_gets {m : Mem} (hw : m.wf = true) (hb : m.bad = []) (f : Nat) :
    (∀ x, x < bankAddr f + o ∨ bankAddr f + o + size ≤ x → (putRecord o area header m f).get x = m.get x) ∧
      (∀ j < 64, (putRecord o area header m f).get (bankAddr f + o + j) = (header f).getD j 0) ∧
      ∀ j < (area f).length, (putRecord o area header m f).get (bankAddr f + o + 64 + j) = (area f).getD j 0 := by
  have fits := harea f
  obtain ⟨outData, inData⟩ := Mem.write_gets hw hb (bankAddr f + o + 64) (area f)
  obtain ⟨outHead, inHead⟩ :=
    Mem.write_gets (Mem.write_wf _ (bankAddr f + o + 64) (area f) hw) (Mem.write_bad_nil hb _ _) (bankAddr f + o) (header f)
  rw [hhead f] at outHead inHead
  refine ⟨fun x hx => ?_, inHead, fun j hj => ?_⟩
  · exact (outHead x (by omega)).trans (outData x (by omega))
  · exact (outHead _ (by omega)).trans (inData j hj)

include hfit in
/-- The records written in the banks of different flanks. -/
theorem putRecords_gets {fs : List Nat} (hfs : fs.Nodup) {m : Mem} (hw : m.wf = true) (hb : m.bad = []) :
    (∀ x, (∀ f ∈ fs, x < bankAddr f + o ∨ bankAddr f + o + size ≤ x) → (fs.foldl (putRecord o area header) m).get x = m.get x) ∧
      ∀ f ∈ fs, (∀ j < 64, (fs.foldl (putRecord o area header) m).get (bankAddr f + o + j) = (header f).getD j 0) ∧
        ∀ j < (area f).length, (fs.foldl (putRecord o area header) m).get (bankAddr f + o + 64 + j) = (area f).getD j 0 := by
  induction fs generalizing m with
  | nil => exact ⟨fun _ _ => rfl, fun f hf => absurd hf List.not_mem_nil⟩
  | cons g r ih =>
    obtain ⟨hg, hr⟩ := List.nodup_cons.mp hfs
    obtain ⟨out1, head1, area1⟩ := putRecord_gets hhead harea hw hb g
    obtain ⟨out, inside⟩ := ih hr (m := putRecord o area header m g) (Mem.write_wf _ _ _ (Mem.write_wf _ _ _ hw))
      (Mem.write_bad_nil (Mem.write_bad_nil hb _ _) _ _)
    rw [List.foldl_cons]
    refine ⟨fun x hx => ?_, fun f hf => ?_⟩
    · exact (out x fun f hf => hx f (List.mem_cons_of_mem _ hf)).trans (out1 x (hx g List.mem_cons_self))
    · rcases List.mem_cons.mp hf with rfl | hf
      · have apart (x : Nat) (h1 : bankAddr f + o ≤ x) (h2 : x < bankAddr f + o + size) :
            ∀ k ∈ r, x < bankAddr k + o ∨ bankAddr k + o + size ≤ x :=
          fun k hk => areas_apart hfit (fun e : f = k => hg (e.symm ▸ hk)) h1 h2
        have fits := harea f
        exact ⟨fun j hj => (out _ (apart _ (by omega) (by omega))).trans (head1 j hj),
          fun j hj => (out _ (apart _ (by omega) (by omega))).trans (area1 j hj)⟩
      · exact inside f hf

end

/-! ### A cleared area -/

theorem assoc_filter_key (p : Nat → Bool) (x : Nat) (l : List Host.Cell) :
    assoc x (l.filter fun c => p c.1) = if p x then assoc x l else none := by
  cases hp : p x with
  | true => exact Mem.assoc_filter _ x (fun _ => hp) l
  | false =>
    refine assoc_none x _ fun c hc e => ?_
    rw [List.mem_filter, e, hp] at hc
    exact Bool.false_ne_true hc.2

theorem Mem.get_clear (m : Mem) (a n x : Nat) : (m.clear a n).get x = if a ≤ x ∧ x < a + n then 0 else m.get x := by
  rw [Mem.get, Mem.clear, assoc_filter_key fun x => !(decide (a ≤ x) && decide (x < a + n))]
  by_cases hx : a ≤ x ∧ x < a + n
  · rw [if_pos hx, if_neg (by simp [hx])]
    rfl
  · rw [if_neg hx, if_pos (by simp only [Bool.not_eq_true', Bool.and_eq_false_iff, decide_eq_false_iff_not]; omega)]
    rfl

/-- Areas cleared in several banks. -/
theorem clears_get (a : Nat → Nat) (n : Nat) (fs : List Nat) (m : Mem) (x : Nat) :
    ((∀ f ∈ fs, x < a f ∨ a f + n ≤ x) → (fs.foldl (fun m f => m.clear (a f) n) m).get x = m.get x) ∧
      ((¬ ∀ f ∈ fs, x < a f ∨ a f + n ≤ x) → (fs.foldl (fun m f => m.clear (a f) n) m).get x = 0) := by
  induction fs generalizing m with
  | nil => exact ⟨fun _ => rfl, fun hn => absurd (fun f hf => absurd hf List.not_mem_nil) hn⟩
  | cons g r ih =>
    rw [List.foldl_cons, List.forall_mem_cons]
    have one := m.get_clear (a g) n x
    obtain ⟨out, inside⟩ := ih (m.clear (a g) n)
    refine ⟨fun ⟨hg, hr⟩ => ?_, fun hn => ?_⟩
    · rw [out hr, one, if_neg (by omega)]
    · by_cases hr : ∀ f ∈ r, x < a f ∨ a f + n ≤ x
      · rw [out hr, one, if_pos (by have := mt (And.intro · hr) hn; omega)]
      · exact inside hr

/-! ### The header and the data of a record -/

theorem capHeader_length (h : Hw) (s : Nat) (c : CapSetup) (x : Cap) (t : Trig) (f units : Nat) : (capHeader h s c x t f units).length = 64 := by
  unfold capHeader
  extract_lets first trip slot
  simp only [List.length_append, le_len]

theorem capAreas_length (c : CapSetup) (t : Trig) (f : Nat) (see : Nat → Nat → IQ × Bool) :
    64 + (capAreas c t (unitsOf c f) see).length ≤ capSize c := by
  have units : (unitsOf c f).length = capUnitsOf c.tap := by simp [unitsOf]
  have whole : capUnitsOf c.tap * (c.length / 8) ≤ capUnitsOf c.tap * c.length / 8 := Nat.mul_div_le_mul_div_assoc ..
  simp only [capAreas, List.length_append, List.length_flatten, List.map_map, Function.comp_def, iqBytes_len, List.length_map,
    List.length_range, List.map_const', List.sum_replicate, units, smul_eq_mul]
  have samples : 4 * capUnitsOf c.tap * c.length = capUnitsOf c.tap * (c.length * 4) := by ring
  rw [capSize]
  omega

/-- The bytes of a header that name the record (Table 17.3). -/
theorem capHeader_bytes (h : Hw) (s : Nat) (c : CapSetup) (x : Cap) (t : Trig) (f units : Nat) {b : Bytes} (hb : capHeader h s c x t f units = b) :
    b.getD 0 0 = BitVec.ofNat 8 s ∧ b.getD 2 0 = BitVec.ofNat 8 f ∧ b.getD 3 0 = BitVec.ofNat 8 t.cause ∧ b.getD 4 0 = BitVec.ofNat 8 t.hits ∧
      (∀ j < 2, b.getD (6 + j) 0 = (le 2 x.recNo).getD j 0) ∧ (∀ j < 4, b.getD (12 + j) 0 = (le 4 t.validPre).getD j 0) ∧
      (∀ j < 4, b.getD (16 + j) 0 = (le 4 t.tick).getD j 0) ∧ ∀ j < 4, b.getD (40 + j) 0 = (le 4 t.missed).getD j 0 := by
  subst hb
  unfold capHeader
  extract_lets first trip slot
  generalize b2n (decide (t.validPre < c.pre)) + 2 * b2n trip + 4 * b2n slot = flags
  generalize (if t.cause ≤ 1 then t.vector.toNat else 0) = vector
  simp only [le, List.cons_append, List.nil_append]
  refine ⟨rfl, rfl, rfl, rfl, fun j hj => ?_, fun j hj => ?_, fun j hj => ?_, fun j hj => ?_⟩ <;> interval_cases j <;> rfl

namespace Hw

/-! ### The registers after a record -/

/-- What a pulse leaves beside a change of a set-up. -/
theorem pulsed.onCap {h t : Hw} {line : Nat} (p : h.pulsed t line) (i : Nat) (f : Cap → Cap) : (h.onCap i f).pulsed (t.onCap i f) line := by
  obtain ⟨eq, engines⟩ := p
  have cap : t.cap = h.cap := by rw [eq]
  refine ⟨?_, engines⟩
  unfold Hw.onCap
  rw [cap]
  exact congrArg (fun g : Hw => { g with cap := { h.cap with setups := updN h.cap.setups i f } }) eq

/-- What a pulse leaves beside the levels that the end of a command gives the pins. -/
theorem pulsed.settle {h t : Hw} {line : Nat} (p : h.pulsed t line) (hp : h.lko.pend = []) :
    h.pulsed { t.settle with pins := h.pins } line := by
  obtain ⟨eq, engines⟩ := p
  have pend : t.lko.pend = [] := by rw [eq]; exact hp
  have pins : t.pins = h.pins := by rw [eq]
  have same : ({ t.settle with pins := h.pins } : Hw) = t := by
    rw [settle_nil t pend, ← pins]
    rfl
  rw [same]
  exact ⟨eq, engines⟩

variable {h : Hw} {i : Nat} {c : CapSetup}

theorem capOverlap_iff (o : Nat) : h.capOverlap c o = true ↔
    ∃ r ∈ h.cap.recs, (∃ f ∈ capFlankList c, f ∈ r.flanks) ∧ r.offset < o + capSize c ∧ o < r.offset + r.size := by
  simp only [capOverlap, List.any_eq_true, Bool.and_eq_true, decide_eq_true_eq, List.contains_iff_mem, and_assoc]

/-- A set-up that is disarmed. -/
def disarmed (x : Cap) : Cap := { x with
  armed := false, opening := none, areaOpen := false, readyAt := none, rearm := false, fullWait := false, disarmAfter := false, missed := 0 }

/-- A set-up whose next area opens at `o`, or waits for bytes that streaming frees. -/
def opens (x : Cap) (o now : Nat) (wait : Bool) : Cap := { x with
  offset := o, areaOpen := false, readyAt := none, rearm := true, fullWait := wait, opening := if wait then none else some now }

theorem capOpen_eq (hc : h.capRec i = some c) (o : Nat) :
    h.capOpen i o = h.onCap i fun x => opens x o h.up (bit c.flankMask 4 && h.capOverlap c o) := by
  simp only [capOpen, hc]
  rfl

/-- The record that set-up `i` leaves in the banks. -/
def capRecord (i : Nat) (c : CapSetup) (x : Cap) (t : Trig) : CapRec :=
  { setup := i, no := x.recNo, offset := x.offset, size := capSize c, trigTick := t.tick, flanks := capFlankList c
    stream := bit c.flankMask 4, left := if bit c.flankMask 4 then capFlankList c else [] }

/-- A set-up whose record with trigger `t` has ended. -/
def recorded (c : CapSetup) (t : Trig) (x : Cap) : Cap := { x with
  trig := none, readyAt := none, areaOpen := false, recNo := (x.recNo + 1) % 65536, endAt := some (t.at_ + capSpan c t), lastNo := x.recNo
  lastHits := t.hits, lastCause := t.cause, lastShort := decide (t.validPre < c.pre), lastValid := true
  records := min (2 ^ 32 - 1) (x.records + 1) }

/-- The registers with a record more. -/
def withRecord (h : Hw) (r : CapRec) : Hw := { h with cap := { h.cap with recs := h.cap.recs ++ [r] } }

/-- Offset of the area after one at `o`: at 0 where its bytes do not remain. -/
def nextOffset (o size : Nat) : Nat := if o + size + size ≤ 2097152 then o + size else 0

/-- What the end of a record with trigger `t` makes of set-up `i`. -/
def afterRecord (h : Hw) (i : Nat) (c : CapSetup) (t : Trig) (x : Cap) : Cap :=
  if c.sources.testBit 7 || x.disarmAfter then disarmed (recorded c t x)
  else opens (recorded c t x) (nextOffset x.offset (capSize c)) h.up
    (bit c.flankMask 4 && (h.withRecord (capRecord i c x t)).capOverlap c (nextOffset x.offset (capSize c)))

/-- The registers as the last sample of a record has been written. -/
def recordEnds (h : Hw) (i : Nat) (c : CapSetup) (t : Trig) : Hw :=
  ((h.withRecord (capRecord i c (h.capS i) t)).onCap i (recorded c t)).pulse (224 + i)

/-- The set-up disarms, or goes on to its next area. -/
def recordFollows (g : Hw) (i : Nat) (c : CapSetup) (x : Cap) : Hw :=
  if bit c.sources 7 || x.disarmAfter then g.capDisarm i else g.capOpen i (nextOffset x.offset (capSize c))

theorem recordFollows_pulsed {t : Trig} {x : Cap} (hx : h.capS i = x) (hc : h.capRec i = some c) :
    ({ h with cap := { h.cap with
      setups := updN h.cap.setups i fun _ => h.afterRecord i c t x
      recs := h.cap.recs ++ [capRecord i c x t] } } : Hw).pulsed ((h.recordEnds i c t).recordFollows i c x) (224 + i) := by
  obtain ⟨g, hg⟩ : ∃ g : Hw, h.withRecord (capRecord i c x t) = g := ⟨_, rfl⟩
  obtain ⟨p, hp⟩ : ∃ p : Hw, (g.onCap i (recorded c t)).pulse (224 + i) = p := ⟨_, rfl⟩
  have pulsed : (g.onCap i (recorded c t)).pulsed p (224 + i) := hp ▸ Hw.pulse_pulsed _ _
  have ends : h.recordEnds i c t = p := by rw [recordEnds, hx, hg, hp]
  have kept : p.img = h.img ∧ p.sta = h.sta ∧ p.cap.recs = g.cap.recs := by
    rw [pulsed.1, ← hg]
    exact ⟨rfl, rfl, rfl⟩
  obtain ⟨himg, hsta, hrecs⟩ := kept
  have two (f : Cap → Cap) (hf : h.afterRecord i c t x = f (recorded c t x)) :
      ({ h with cap := { h.cap with
        setups := updN h.cap.setups i fun _ => h.afterRecord i c t x
        recs := h.cap.recs ++ [capRecord i c x t] } } : Hw).pulsed (p.onCap i f) (224 + i) := by
    have e : updN (updN h.cap.setups i (recorded c t)) i f = updN h.cap.setups i fun _ => h.afterRecord i c t x := by
      rw [updN_updN, updN_const _ _ _ {}, hf, ← hx]
      rfl
    rw [← e]
    subst hg
    exact pulsed.onCap i f
  have hpc : p.capRec i = some c := by rw [← hc, capRec, capRec, image, image, himg]
  rw [ends, recordFollows]
  cases hends : bit c.sources 7 || x.disarmAfter with
  | true =>
    rw [if_pos rfl]
    exact two disarmed (if_pos hends)
  | false =>
    have overlap (o : Nat) : p.capOverlap c o = g.capOverlap c o := by rw [capOverlap, capOverlap, hrecs]
    have up : p.up = h.up := by rw [Hw.up, Hw.up, hsta]
    rw [if_neg Bool.false_ne_true, capOpen_eq hpc, overlap, up, ← hg]
    exact two _ (if_neg (by rw [show (c.sources.testBit 7 || x.disarmAfter) = false from hends]; exact Bool.false_ne_true))

end Hw

/-- A set-up whose record area has been opened. -/
def Cap.areaOpened (x : Cap) : Cap := { x with opening := none, areaOpen := true }

section
variable {h : Hw} {x : Cap} (hre : x.rearm = true)
include hre

/-- DEAD_CC counts from the end of the record before. -/
theorem Cap.readied_again {e : Nat} (hend : x.endAt = some e) :
    (x.areaOpened.readied h.up (h.deadSpan x)).dead = min 0xFFFFFFFE (h.up - e) ∧
      (x.areaOpened.readied h.up (h.deadSpan x)).deadLast = min 0xFFFFFFFE (h.up - e) := by
  rw [Hw.deadSpan, hend]
  exact ⟨if_pos hre, if_pos hre⟩

/-- Without a record before, DEAD_CC is at its highest. -/
theorem Cap.readied_anew (hend : x.endAt = none) : (x.areaOpened.readied h.up (h.deadSpan x)).dead = 0xFFFFFFFF := by
  rw [Hw.deadSpan, hend]
  exact if_pos hre

end

theorem armHolds_false {h : Hw} {c : CapSetup} (hn : c.sources.testBit 6 = false ∨ h.sys.pkgPos = 0 ∨ h.pins.armIo = true) :
    h.armHolds c = false := by
  rcases hn with e | e | e <;> simp [Hw.armHolds, bit, e]

theorem exec_captureRecordEnd (s : State) (dt : Nat) (i : SetupId) (obs : List (QuadId × Nat × List (Int × Bool))) :
    exec (.captureRecordEnd dt i obs) s = execCaptureRecordEnd dt i obs s := rfl
theorem exec_captureAreaOpen (s : State) (dt : Nat) (i : SetupId) : exec (.captureAreaOpen dt i) s = execCaptureAreaOpen dt i s := rfl

/-- The memories as the last sample of a record has been written. -/
def recordPut (h : Hw) (i : Nat) (c : CapSetup) (x : Cap) (t : Trig) (see : Nat → Nat → IQ × Bool) (m : Mem) : Mem :=
  (capFlankList c).foldl (putRecord x.offset (fun f => capAreas c t (unitsOf c f) see)
    (fun f => capHeader h i c x t f (capUnitsOn h c t f))) m

section
variable {s : State} {dt : Nat} {i : SetupId} {h : Hw} {c : CapSetup} {x : Cap} (he : s.hw.elapse dt = h) (hc : h.capRec i = some c)
  (hx : h.capS i = x)
include he hc hx

/-- A record ends once its last sample and its header have been written. -/
theorem exec_captureRecordEnd_due {t : Trig} (obs : List (QuadId × Nat × List (Int × Bool))) (ht : x.trig = some t)
    (hdue : t.at_ + capSpan c t + 16 ≤ h.up) :
    exec (.captureRecordEnd dt i obs) s = .next { s with
      hw := ((h.recordEnds i c t).recordFollows i c x).settle
      mem := recordPut h i c x t (capSample ((h.capGiven obs).capSee c :: x.taken) t) s.mem } := by
  refine (exec_captureRecordEnd s dt i obs).trans (okM_becomes he (r := ((h.recordEnds i c t).recordFollows i c x,
    recordPut h i c x t (capSample ((h.capGiven obs).capSee c :: x.taken) t) s.mem)) ?_)
  simp only [hx, hc, ht, if_neg (Nat.not_lt.mpr hdue)]
  rw [Hw.recordFollows, Hw.recordEnds, hx]
  cases bit c.sources 7 || x.disarmAfter <;> rfl

/-- An area that overlaps no record and has been opened is cleared, and the set-up is ready. -/
theorem exec_captureAreaOpen_ready (hs : h.Settled) {b : Nat} (hb : x.opening = some b) (ha : x.armed = true) (ht : x.trig = none)
    (hr : x.readyAt = none) (hfree : h.capOverlap c x.offset = false) (hdue : b + ceilDiv (capSize c) 512 ≤ h.up) (holds : h.armHolds c = false) :
    exec (.captureAreaOpen dt i) s = .next { s with
      hw := h.onCap i fun _ => x.areaOpened.readied h.up (h.deadSpan x)
      mem := (capFlankList c).foldl (fun m f => m.clear (bankAddr f + x.offset) (capSize c)) s.mem } := by
  obtain ⟨g, hg⟩ : ∃ g : Hw, h.onCap i Cap.areaOpened = g := ⟨_, rfl⟩
  have own : g.capS i = x.areaOpened := by
    rw [← hg, Hw.onCap_capS _ _ i.isLt, hx]
  have ready : g.capReady i = g.onCap i fun y => y.readied g.up (g.deadSpan (g.capS i)) :=
    Hw.capReady_ready (c := c) (by rw [← hg]; exact hc) (by rw [own]; exact ha) (by rw [own]; rfl) (by rw [own]; exact ht) (by rw [own]; exact hr)
      (by rw [← hg]; exact holds)
  refine (exec_captureAreaOpen s dt i).trans (okM_settled he ?_ (hs.capture (armed_updN ?_) h.pins.fireLow))
  · have effect : (h.onCap i Cap.areaOpened).capReady i = h.onCap i fun _ => x.areaOpened.readied h.up (h.deadSpan x) := by
      rw [hg, ready, own, ← hg, ← hx]
      exact congrArg (fun v => ({ h with cap := { h.cap with setups := v } } : Hw)) ((updN_updN ..).trans (updN_congr {} rfl))
    rw [← effect]
    simp only [hx, hc, hb, ha, hfree, Bool.not_true, Bool.false_eq_true, if_false, if_neg (Nat.not_lt.mpr hdue)]
    rfl
  · exact (congrArg Cap.armed hx).symm

/-- An area that overlaps a record waits with STREAM. -/
theorem exec_captureAreaOpen_waits (hs : h.Settled) {b : Nat} (hb : x.opening = some b) (ha : x.armed = true)
    (hmeets : h.capOverlap c x.offset = true) (hstream : c.flankMask.testBit 4 = true) :
    exec (.captureAreaOpen dt i) s = .next { s with hw := h.onCap i fun y => { y with opening := none, fullWait := true } } := by
  refine (exec_captureAreaOpen s dt i).trans (okM_settled he ?_ (hs.capture (armed_updN rfl) h.pins.fireLow))
  simp only [hx, hc, hb, ha, hmeets, Bool.not_true, Bool.false_eq_true, if_false, if_true, show bit c.flankMask 4 = true from hstream]

/-- An area that overlaps a record disarms the set-up without STREAM. -/
theorem exec_captureAreaOpen_full (hs : h.Settled) {b : Nat} (hb : x.opening = some b) (ha : x.armed = true)
    (hmeets : h.capOverlap c x.offset = true) (hstream : c.flankMask.testBit 4 = false) :
    ∃ t, exec (.captureAreaOpen dt i) s = .next t ∧ t.pending = s.pending ∧ t.mem = s.mem ∧
      t.hw = (h.onCap i fun y => { Hw.disarmed y with endedFull := true }).told t.hw ∧ t.hw.newest 0x0A05 i.val := by
  obtain ⟨g, hg⟩ : ∃ g : Hw, (h.onCap i fun y => { Hw.disarmed y with endedFull := true }) = g := ⟨_, rfl⟩
  have twice : (h.capDisarm i).onCap i (fun x => { x with endedFull := true }) = g := by
    rw [← hg, Hw.capDisarm]
    exact congrArg (fun v => ({ h with cap := { h.cap with setups := v } } : Hw)) (updN_updN ..)
  have told := Hw.alarm_settle g 0x0A05 i 0 (by rw [← hg]; exact hs.1) rfl
  rw [hg]
  refine ⟨_, (exec_captureAreaOpen s dt i).trans (okM_becomes he (r := (g.alarm 0x0A05 i, s.mem)) ?_), rfl, rfl, told⟩
  simp only [hx, hc, hb, ha, hmeets, Bool.not_true, Bool.false_eq_true, if_false, if_true, show bit c.flankMask 4 = false from hstream, twice]

end

/-! ### The obligation -/

/-- Settles O58: the memories and the registers of a record's end, by ONCE and STREAM; then the area opened, by whether it overlaps a record. -/
theorem captureRecords : Obligations.CaptureRecords := by
  intro s dt i c hs0 hwf hbad h x now size flanks outside hc hoff hsize hfit h64 stream
  have hs : h.Settled := Hw.elapse_settled _ hs0 dt
  have he : s.hw.elapse dt = h := rfl
  have hx : h.capS i = x := rfl
  have flanksDistinct : flanks.Nodup := List.nodup_range.filter _
  refine ⟨?_, ?_⟩
  · intro t₀ obs ht done_ hdue see
    obtain ⟨outs, areas⟩ := putRecords_gets (header := fun f => capHeader h i c x t₀ f (capUnitsOn h c t₀ f))
      (area := fun f => capAreas c t₀ (unitsOf c f) see) hfit (fun f => capHeader_length ..) (fun f => capAreas_length ..) flanksDistinct hwf hbad
    refine ⟨_, exec_captureRecordEnd_due he hc hx obs ht hdue, rfl, outs, fun f hf => ?_, ?_⟩
    · obtain ⟨header, data⟩ := areas f hf
      obtain ⟨b0, b2, b3, b4, recNo, pre, tick, missed⟩ := capHeader_bytes h i c x t₀ f (capUnitsOn h c t₀ f) rfl
      have shifted (k j : Nat) (hk : k + j < 64) : (recordPut h i c x t₀ see s.mem).get (bankAddr f + x.offset + k + j) =
          (capHeader h i c x t₀ f (capUnitsOn h c t₀ f)).getD (k + j) 0 := by
        rw [Nat.add_assoc]
        exact header (k + j) hk
      exact ⟨(header 0 (by decide)).trans b0, (header 2 (by decide)).trans b2, (header 3 (by decide)).trans b3,
        (header 4 (by decide)).trans b4, fun j hj => (shifted 6 j (by omega)).trans (recNo j hj),
        fun j hj => (shifted 12 j (by omega)).trans (pre j hj), fun j hj => (shifted 16 j (by omega)).trans (tick j hj),
        fun j hj => (shifted 40 j (by omega)).trans (missed j hj), data⟩
    · intro next_ recs full ended goes_on
      have wait : (bit c.flankMask 4 && (h.withRecord (Hw.capRecord i c x t₀)).capOverlap c next_) = decide full := by
        rw [Bool.eq_iff_iff, Bool.and_eq_true, Hw.capOverlap_iff, decide_eq_true_iff]
        rfl
      have after : h.afterRecord i c t₀ x = goes_on := by
        by_cases ends : c.sources.testBit 7 = true ∨ x.disarmAfter = true
        · rw [Hw.afterRecord, if_pos (by simpa using ends)]
          exact (if_pos ends).symm
        · rw [Hw.afterRecord, if_neg (by simpa using ends)]
          refine Eq.trans ?_ (if_neg ends).symm
          refine (congrArg (Hw.opens (Hw.recorded c t₀ x) next_ h.up) wait).trans ?_
          simp only [Hw.opens, decide_eq_true_eq]
          rfl
      have pulsed := (Hw.recordFollows_pulsed (t := t₀) hx hc).settle hs.1
      rw [after] at pulsed
      exact pulsed
  · intro b hb ha ht hr meets
    have overlap : h.capOverlap c x.offset = true ↔ meets := Hw.capOverlap_iff x.offset
    refine ⟨fun hfree hdue harm => ?_, fun hmeets hstream => ?_, fun hmeets hstream => ?_⟩
    · have free : h.capOverlap c x.offset = false := Bool.eq_false_iff.mpr (mt overlap.mp hfree)
      have holds : h.armHolds c = false := armHolds_false harm
      have cleared (a : Nat) := clears_get (fun f => bankAddr f + x.offset) size flanks s.mem a
      obtain ⟨g, hg⟩ : ∃ g : Hw, (h.onCap i fun _ => x.areaOpened.readied h.up (h.deadSpan x)) = g := ⟨_, rfl⟩
      have hexec := exec_captureAreaOpen_ready he hc hx hs hb ha ht hr free hdue holds
      rw [hg] at hexec
      have own : g.capS i = x.areaOpened.readied h.up (h.deadSpan x) := by
        rw [← hg]
        exact Hw.onCap_capS h _ i.isLt
      refine ⟨_, hexec, rfl, fun a => (cleared a).1, fun a => (cleared a).2, ?_, fun e hre hend => ?_, fun hre hend => ?_⟩ <;>
        dsimp only <;> rw [own]
      · rw [← hg]
        exact congrArg (fun v => ({ h with cap := { h.cap with setups := v } } : Hw)) (updN_congr {} rfl)
      · exact Cap.readied_again hre hend
      · exact Cap.readied_anew hre hend
    · exact exec_captureAreaOpen_waits he hc hx hs hb ha (overlap.mpr hmeets) hstream
    · exact exec_captureAreaOpen_full he hc hx hs hb ha (overlap.mpr hmeets) hstream

end Sys2Proof.Machine
end
